-- ==== Sys2Proof/Word.lean ====
section
/-!
DEFINITION. The word types of the A4 and their plainest arithmetic (R30). Integers wrap modulo 2^width.
-/
namespace Sys2Proof

/-- A byte of memory. -/
abbrev Byte := BitVec 8
/-- The value of one 32-bit register in one lane (R15). -/
abbrev Word := BitVec 32
/-- A 64-bit value of a register pair (R17). -/
abbrev DWord := BitVec 64
/-- A set of lanes: bit `i` is lane `i` (R150). -/
abbrev Mask := BitVec 32
/-- A register code (R54). -/
abbrev Code := BitVec 8

/-- The mask of all 32 lanes. -/
def Mask.full : Mask := 0xFFFFFFFF

/-- The lanes 0 to 31 in ascending order (R12). -/
def allLanes : List Nat :=
  [0, 1, 2, 3, 4, 5, 6, 7, 8, 9, 10, 11, 12, 13, 14, 15,
   16, 17, 18, 19, 20, 21, 22, 23, 24, 25, 26, 27, 28, 29, 30, 31]

/-- The lanes of a mask, ascending. -/
def Mask.lanes (m : Mask) : List Nat := allLanes.filter (fun i => m.getLsbD i)

/-- The mask with bit `i` alone. -/
def Mask.bit (i : Nat) : Mask := BitVec.ofNat 32 (2 ^ i)

/-- A pair's value from its two words, low half first (R17). -/
def DWord.ofWords (lo hi : Word) : DWord := hi ++ lo

/-- The low half of a pair's value (R17). -/
def DWord.lo (x : DWord) : Word := x.setWidth 32
/-- The high half of a pair's value (R17). -/
def DWord.hi (x : DWord) : Word := (x >>> 32).setWidth 32

end Sys2Proof
end

