-- ==== Sys2Proof/Config.lean ====
section
/-!
DEFINITION. What is fixed for the machine: the sizes of R4, R150 and R160, the free values the manual leaves open, and
the inline constants of R19. A free value is an opaque constant: nothing can be proved about which value it is.
-/
namespace Sys2Proof
namespace Config

/-- The stream of free values (log entries 2, 9, 14 DESIGN CHOICE, 6 DEDUCED): element `n` is what the machine takes at its `n`-th open point.
Applied to the counter `State.free`. -/
opaque freeNat : Nat → Nat

/-- The free part of the approximate functions (R114, R115; DESIGN CHOICE, log entry 7): a number that depends on the function, the
operand bits alone. -/
opaque approxPick : Nat → Nat → Nat

/-- Warp slots per core (R150). -/
def slotsPerCore : Nat := 64
/-- Cores per package (R4). -/
def cores : Nat := 256
/-- Cores per die (R4). -/
def coresPerDie : Nat := 64
/-- Dies (R4). -/
def dies : Nat := 4
/-- Bytes of scratchpad per core (R4). -/
def scratchBytes : Nat := 1572864
/-- Bytes of lane registers per partition (R160). -/
def regBytesPerPartition : Nat := 131072
/-- Accumulator tiles per core (R160). -/
def tilesPerCore : Nat := 4
/-- Bytes of one lent L1 unit (R207). -/
def lentUnit : Nat := 16384
/-- Operations one copy engine holds (R285). -/
def copyDepth : Nat := 128
/-- Entries of one matrix FIFO (R301). -/
def fifoDepth : Nat := 64
/-- Miss registers per slice (R226). -/
def missRegs : Nat := 256
/-- Lines per slice: 2 MiB of 128-byte lines (R4, R205). -/
def linesPerSlice : Nat := 16384
/-- Lines of a slice that may be pinned: 1 MiB (R215). -/
def pinnedPerSlice : Nat := 8192
/-- Entries of one translation cache (R217). -/
def tlbEntries : Nat := 16384
/-- Launches one priority queue holds (R158). -/
def queueDepth : Nat := 64
/-- Outstanding memory requests of one core (R4). -/
def coreRequests : Nat := 8192
/-- Largest value of an operation counter (R145). -/
def counterMax : Nat := 1023
/-- Cycles without response after which 0x2B is raised (R391). -/
def remoteLimit : Nat := 2 ^ 26

/-- The inline constants of R19, codes 0xD0 to 0xDF. -/
def inlineConst (n : Nat) : Word :=
  match n with
  | 0 => 0 | 1 => 1 | 2 => 2 | 3 => 4 | 4 => 8 | 5 => 16 | 6 => 0xFFFFFFFF | 7 => 0x3F000000
  | 8 => 0x3F800000 | 9 => 0x40000000 | 10 => 0xBF800000 | 11 => 0xBF000000 | 12 => 0x3E800000
  | 13 => 0x7F800000 | 14 => 0x3F803F80 | _ => 0x7FFFFFFF

end Config
end Sys2Proof
end

