-- ==== Sys2Proof/Syntax.lean ====
section
/-!
DEFINITION. The syntax of the A4: one constructor of `Instr` for each row of the opcode table, 221 instructions of the
Utura ISA and 58 steps that no instruction word starts (releases, engine steps, distributor steps, host writes).
Register fields hold the raw 8-bit codes of R54; what a code may name is checked where R70 checks it.
-/
namespace Sys2Proof

/-- A prefix word (R60). Its presence matters by itself: it lengthens the instruction, and under group E it moves the
source role of `d` to `e` (R62). -/
structure Prefix where
  /-- [23] mask enable -/
  maskEn : Bool
  /-- [22:19] mask index -/
  mask : BitVec 4
  /-- [18:16] rounding override -/
  rnd : BitVec 3
  /-- [15:8] fourth operand -/
  e : BitVec 8
  /-- [7] merge/zero -/
  zero : Bool
  /-- [6:3] type override -/
  ty : BitVec 4
  deriving DecidableEq, Repr

/-- The privilege an opcode requires (R68). -/
inductive Priv where
  | none
  /-- ERET -/
  | trapMode
  /-- MTSR (but for `fpflags`), RESUME, TLBINV, ASINV, CLRSET -/
  | supervisor
  /-- LAUNCH -/
  | launch
  deriving DecidableEq, Repr

/-- The blocks of the package that choose their own power state (R400). -/
inductive Block where
  | core (n : Nat)
  | slice (n : Nat)
  | bridge (n : Nat)
  | stack (n : Nat)
  | port (n : Nat)
  deriving DecidableEq, Repr

/-- Where a soft error strikes (R359): a lane register, a scratchpad word of a workgroup, an accumulator element, a line
of L1, a 32-byte granule of L2 or of memory. -/
inductive Site where
  | register (w reg lane : Nat)
  | scratch (team wg off : Nat)
  | acc (team wg tile elem : Nat)
  | l1 (core line : Nat)
  | l2 (asid line granule : Nat)
  | memory (granule : Nat)
  | pinned (core slot off : Nat)
  deriving DecidableEq, Repr

/-- What the protection of R359 makes of a soft error. -/
inductive Severity where
  | corrected
  | uncorrectable
  deriving DecidableEq, Repr

/-- The steps of the machine, one constructor per row of the opcode table, named by the row's mnemonic. -/
inductive Instr where
  /-- ADD (R90) Adds a and b modulo 2^32, per lane or once per warp. -/
  | add (pf : Option Prefix) (d a b : BitVec 8)
  /-- SUB (R90) Subtracts b from a modulo 2^32. -/
  | sub (pf : Option Prefix) (d a b : BitVec 8)
  /-- ADDS (R90) Signed add, clamped to the signed 32-bit range. -/
  | adds (pf : Option Prefix) (d a b : BitVec 8)
  /-- SUBS (R90) Signed subtract, clamped to the signed 32-bit range. -/
  | subs (pf : Option Prefix) (d a b : BitVec 8)
  /-- MULLO (R90) Writes the low 32 bits of a times b. -/
  | mullo (pf : Option Prefix) (d a b : BitVec 8)
  /-- MULHI_S (R90) Writes the high 32 bits of the signed 64-bit product. -/
  | mulhiS (pf : Option Prefix) (d a b : BitVec 8)
  /-- MULHI_U (R90) Writes the high 32 bits of the unsigned 64-bit product. -/
  | mulhiU (pf : Option Prefix) (d a b : BitVec 8)
  /-- MAD (R91) Computes the low 32 bits of a times b plus the old d or e. -/
  | mad (pf : Option Prefix) (d a b : BitVec 8)
  /-- MADW_U (R91) Adds the unsigned 64-bit product of a and b to a register pair. -/
  | madwU (pf : Option Prefix) (d a b : BitVec 8)
  /-- MADW_S (R91) Adds the signed 64-bit product of a and b to a register pair. -/
  | madwS (pf : Option Prefix) (d a b : BitVec 8)
  /-- DIV_S (R92) Signed division truncating toward zero; a zero divisor raises 0x10 in that lane. -/
  | divS (pf : Option Prefix) (d a b : BitVec 8)
  /-- DIV_U (R92) Unsigned division; a zero divisor raises 0x10. -/
  | divU (pf : Option Prefix) (d a b : BitVec 8)
  /-- REM_S (R92) Signed remainder taking the sign of a; a zero divisor raises 0x10. -/
  | remS (pf : Option Prefix) (d a b : BitVec 8)
  /-- REM_U (R92) Unsigned remainder; a zero divisor raises 0x10. -/
  | remU (pf : Option Prefix) (d a b : BitVec 8)
  /-- MIN_S (R90) Writes the signed minimum of a and b. -/
  | minS (pf : Option Prefix) (d a b : BitVec 8)
  /-- MIN_U (R90) Writes the unsigned minimum of a and b. -/
  | minU (pf : Option Prefix) (d a b : BitVec 8)
  /-- MAX_S (R90) Writes the signed maximum of a and b. -/
  | maxS (pf : Option Prefix) (d a b : BitVec 8)
  /-- MAX_U (R90) Writes the unsigned maximum of a and b. -/
  | maxU (pf : Option Prefix) (d a b : BitVec 8)
  /-- ABS (R90) Writes the signed absolute value of a. -/
  | abs (pf : Option Prefix) (d a : BitVec 8)
  /-- NEG (R90) Writes 0 minus a. -/
  | neg (pf : Option Prefix) (d a : BitVec 8)
  /-- AND (R90) Bitwise AND of a and b. -/
  | and (pf : Option Prefix) (d a b : BitVec 8)
  /-- OR (R90) Bitwise OR of a and b. -/
  | or (pf : Option Prefix) (d a b : BitVec 8)
  /-- XOR (R90) Bitwise XOR of a and b. -/
  | xor (pf : Option Prefix) (d a b : BitVec 8)
  /-- ANDN (R90) Writes a AND NOT b. -/
  | andn (pf : Option Prefix) (d a b : BitVec 8)
  /-- SHL (R90) Shifts a left by b[7:0], giving 0 for counts of 32 or more. -/
  | shl (pf : Option Prefix) (d a b : BitVec 8)
  /-- SHR (R90) Logical right shift of a by b[7:0]. -/
  | shr (pf : Option Prefix) (d a b : BitVec 8)
  /-- SAR (R90) Arithmetic right shift of a by min(b[7:0], 31). -/
  | sar (pf : Option Prefix) (d a b : BitVec 8)
  /-- ROL (R90) Rotates a left by b[4:0]. -/
  | rol (pf : Option Prefix) (d a b : BitVec 8)
  /-- FSHL (R94) Funnel-shifts a register pair left by b[4:0] and writes the high word. -/
  | fshl (pf : Option Prefix) (d a b : BitVec 8)
  /-- BFX_U (R93) Extracts a zero-extended bit field of a. -/
  | bfxU (pf : Option Prefix) (d a b : BitVec 8)
  /-- BFX_S (R93) Extracts a sign-extended bit field of a. -/
  | bfxS (pf : Option Prefix) (d a b : BitVec 8)
  /-- BFI (R93) Inserts a bit field from the odd register of a pair into the even register. -/
  | bfi (pf : Option Prefix) (d a b : BitVec 8)
  /-- CLZ (R90) Counts the leading zero bits of a. -/
  | clz (pf : Option Prefix) (d a : BitVec 8)
  /-- CTZ (R90) Counts the trailing zero bits of a. -/
  | ctz (pf : Option Prefix) (d a : BitVec 8)
  /-- POPC (R90) Counts the one bits of a. -/
  | popc (pf : Option Prefix) (d a : BitVec 8)
  /-- BREV (R90) Reverses the bit order of a. -/
  | brev (pf : Option Prefix) (d a : BitVec 8)
  /-- PERMB (R95) Builds each result byte from a byte of a, a sign fill or zero, as b selects. -/
  | permb (pf : Option Prefix) (d a b : BitVec 8)
  /-- CMP_EQ (R96) Each lane sets its mask bit when a equals b. -/
  | cmpEq (pf : Option Prefix) (d a b : BitVec 8)
  /-- CMP_NE (R96) Each lane sets its mask bit when a differs from b. -/
  | cmpNe (pf : Option Prefix) (d a b : BitVec 8)
  /-- CMP_LT_S (R96) Each lane sets its mask bit when a is signed less than b. -/
  | cmpLtS (pf : Option Prefix) (d a b : BitVec 8)
  /-- CMP_LE_S (R96) Each lane sets its mask bit when a is signed at most b. -/
  | cmpLeS (pf : Option Prefix) (d a b : BitVec 8)
  /-- CMP_LT_U (R96) Each lane sets its mask bit when a is unsigned less than b. -/
  | cmpLtU (pf : Option Prefix) (d a b : BitVec 8)
  /-- CMP_LE_U (R96) Each lane sets its mask bit when a is unsigned at most b. -/
  | cmpLeU (pf : Option Prefix) (d a b : BitVec 8)
  /-- SEL (R97) Each lane writes a where its guard bit is set and b elsewhere. -/
  | sel (pf : Option Prefix) (d a b : BitVec 8)
  /-- MOV (R90) Copies a to d. -/
  | mov (pf : Option Prefix) (d a : BitVec 8)
  /-- MOVSR (R98) Copies the selected special register into d. -/
  | movsr (pf : Option Prefix) (d s : BitVec 8)
  /-- SETMODE (R99) Replaces MODE with imm16, once per warp, or raises 0x0C. -/
  | setmode (i : BitVec 16)
  /-- LEA_1 (R101) Adds a zero-extended b to a 64-bit pair. -/
  | lea1 (pf : Option Prefix) (d a b : BitVec 8)
  /-- LEA_4 (R101) Adds 4 times a zero-extended b to a 64-bit pair. -/
  | lea4 (pf : Option Prefix) (d a b : BitVec 8)
  /-- LEA_8 (R101) Adds 8 times a zero-extended b to a 64-bit pair. -/
  | lea8 (pf : Option Prefix) (d a b : BitVec 8)
  /-- LEA_16 (R101) Adds 16 times a zero-extended b to a 64-bit pair. -/
  | lea16 (pf : Option Prefix) (d a b : BitVec 8)
  /-- ADD64 (R101) Adds two 64-bit pairs. -/
  | add64 (pf : Option Prefix) (d a b : BitVec 8)
  /-- SUB64 (R101) Subtracts two 64-bit pairs. -/
  | sub64 (pf : Option Prefix) (d a b : BitVec 8)
  /-- CVTI (R100) Converts a between integer widths with saturation, under the control in b. -/
  | cvti (pf : Option Prefix) (d a b : BitVec 8)
  /-- ADDI16 (R102) Adds a sign-extended 16-bit immediate to d. -/
  | addi16 (pf : Option Prefix) (d : BitVec 8) (i : BitVec 16)
  /-- ANDI16 (R102) ANDs d with a zero-extended 16-bit immediate. -/
  | andi16 (pf : Option Prefix) (d : BitVec 8) (i : BitVec 16)
  /-- ORI16 (R102) ORs d with a zero-extended 16-bit immediate. -/
  | ori16 (pf : Option Prefix) (d : BitVec 8) (i : BitVec 16)
  /-- XORI16 (R102) XORs d with a zero-extended 16-bit immediate. -/
  | xori16 (pf : Option Prefix) (d : BitVec 8) (i : BitVec 16)
  /-- SHLI (R102) Shifts d left by an immediate count. -/
  | shli (pf : Option Prefix) (d : BitVec 8) (n : BitVec 5)
  /-- SHRI (R102) Shifts d right by an immediate count with zero fill. -/
  | shri (pf : Option Prefix) (d : BitVec 8) (n : BitVec 5)
  /-- SARI (R102) Shifts d right by an immediate count with sign fill. -/
  | sari (pf : Option Prefix) (d : BitVec 8) (n : BitVec 5)
  /-- MOVHI16 (R102) Replaces the high half of d with imm16. -/
  | movhi16 (pf : Option Prefix) (d : BitVec 8) (i : BitVec 16)
  /-- LDC (R103) Reads a word of the constant space, raising 0x23 beyond its size. -/
  | ldc (pf : Option Prefix) (d a : BitVec 8) (f : BitVec 5)
  /-- FADD (R108) Floating-point add in the active type, rounded once. -/
  | fadd (pf : Option Prefix) (d a b : BitVec 8)
  /-- FSUB (R108) Floating-point subtract in the active type. -/
  | fsub (pf : Option Prefix) (d a b : BitVec 8)
  /-- FMUL (R108) Floating-point multiply in the active type. -/
  | fmul (pf : Option Prefix) (d a b : BitVec 8)
  /-- FFMA (R109) Fused multiply-add of a times b plus the old d or e. -/
  | ffma (pf : Option Prefix) (d a b : BitVec 8)
  /-- FFMC (R109) Fused c times a plus constant-bank word n. -/
  | ffmc (pf : Option Prefix) (d a n : BitVec 8)
  /-- FMIN (R111) Returns the smaller operand with IEEE minNum NaN rules. -/
  | fmin (pf : Option Prefix) (d a b : BitVec 8)
  /-- FMAX (R111) Returns the larger operand with IEEE maxNum NaN rules. -/
  | fmax (pf : Option Prefix) (d a b : BitVec 8)
  /-- FABS (R111) Clears the sign bit of a in the active type. -/
  | fabs (pf : Option Prefix) (d a : BitVec 8)
  /-- FNEG (R111) Inverts the sign bit of a in the active type. -/
  | fneg (pf : Option Prefix) (d a : BitVec 8)
  /-- FCMP_EQ (R112) Each lane sets its mask bit when a equals b. -/
  | fcmpEq (pf : Option Prefix) (d a b : BitVec 8)
  /-- FCMP_LT (R112) Each lane sets its mask bit when a is less than b. -/
  | fcmpLt (pf : Option Prefix) (d a b : BitVec 8)
  /-- FCMP_LE (R112) Each lane sets its mask bit when a is at most b. -/
  | fcmpLe (pf : Option Prefix) (d a b : BitVec 8)
  /-- FCMP_UN (R112) Each lane sets its mask bit when either operand is NaN. -/
  | fcmpUn (pf : Option Prefix) (d a b : BitVec 8)
  /-- FCLASS (R113) Writes a one-hot class code of a. -/
  | fclass (pf : Option Prefix) (d a : BitVec 8)
  /-- FDIV (R108) Correctly rounded floating-point division. -/
  | fdiv (pf : Option Prefix) (d a b : BitVec 8)
  /-- FSQRT (R110) Correctly rounded square root. -/
  | fsqrt (pf : Option Prefix) (d a : BitVec 8)
  /-- FRCP (R114) Approximate reciprocal. -/
  | frcp (pf : Option Prefix) (d a : BitVec 8)
  /-- FRSQ (R114) Approximate reciprocal square root. -/
  | frsq (pf : Option Prefix) (d a : BitVec 8)
  /-- FEXP2 (R114) Approximate base-2 exponential. -/
  | fexp2 (pf : Option Prefix) (d a : BitVec 8)
  /-- FLOG2 (R114) Approximate base-2 logarithm. -/
  | flog2 (pf : Option Prefix) (d a : BitVec 8)
  /-- FSIN (R114) Approximate sine of a in radians. -/
  | fsin (pf : Option Prefix) (d a : BitVec 8)
  /-- FCOS (R114) Approximate cosine of a in radians. -/
  | fcos (pf : Option Prefix) (d a : BitVec 8)
  /-- FROUND (R110) Rounds a to an integral value in the active mode. -/
  | fround (pf : Option Prefix) (d a : BitVec 8)
  /-- FSCALE (R110) Computes a times 2 to the integer b, rounded once. -/
  | fscale (pf : Option Prefix) (d a b : BitVec 8)
  /-- FCVT_F2I (R119) Converts a floating-point value to an integer under the control in b. -/
  | fcvtF2i (pf : Option Prefix) (d a b : BitVec 8)
  /-- FCVT_I2F (R119) Converts an integer to floating point under the control in b. -/
  | fcvtI2f (pf : Option Prefix) (d a b : BitVec 8)
  /-- FCVT_F2F (R119) Converts between floating-point formats under the control in b. -/
  | fcvtF2f (pf : Option Prefix) (d a b : BitVec 8)
  /-- HADD2 (R117) Adds two packed 16-bit pairs element by element. -/
  | hadd2 (pf : Option Prefix) (d a b : BitVec 8)
  /-- HMUL2 (R117) Multiplies two packed 16-bit pairs element by element. -/
  | hmul2 (pf : Option Prefix) (d a b : BitVec 8)
  /-- HFMA2 (R117) Fused multiply-add of packed 16-bit pairs. -/
  | hfma2 (pf : Option Prefix) (d a b : BitVec 8)
  /-- HDOT2 (R118) Adds the two element products of packed pairs into an FP32 accumulator in two roundings. -/
  | hdot2 (pf : Option Prefix) (d a b : BitVec 8)
  /-- BRT (R123) Branches where the lane's bit of mask c is set. -/
  | brt (c : BitVec 4) (f : BitVec 20)
  /-- BRF (R123) Branches where the lane's bit of mask c is clear. -/
  | brf (c : BitVec 4) (f : BitVec 20)
  /-- BRA (R123) Branches unconditionally to PC plus 4 times off20. -/
  | bra (f : BitVec 20)
  /-- BRX (R124) Reads a word offset from a table in global memory and branches by it. -/
  | brx (n a b : BitVec 8)
  /-- CALL (R127) Writes the return address to a link pair and branches by imm16. -/
  | call (d : BitVec 8) (i : BitVec 16)
  /-- CALLX (R128) Writes the link and branches to a target held in a register pair. -/
  | callx (d a : BitVec 8)
  /-- RET (R129) Transfers to a target held in a register pair, popping loop entries. -/
  | ret (a : BitVec 8)
  /-- JPT (R125) Sets the path's join point to PC plus 4 times off20. -/
  | jpt (f : BitVec 20)
  /-- JOIN (R126) Clears the join point, or raises 0x0E when it is none. -/
  | join
  /-- LOOP (R132) Pushes a loop entry with a count from a register, or skips the body for zero. -/
  | loop (d : BitVec 8) (e : BitVec 16)
  /-- LOOPI (R132) Pushes a loop entry with an immediate count, or skips the body for zero. -/
  | loopi (n : BitVec 8) (e : BitVec 16)
  /-- EXIT (R130) Makes the issuing lanes absent once their operations complete. -/
  | exit
  /-- WAIT (R146) Holds the warp until each operation counter falls to its field. -/
  | wait (l s c t : BitVec 6)
  /-- YIELD (R167) Retires as NOP and lets the partition's other ready warps issue first. -/
  | yield
  /-- SAFE (R363) Marks a safe point: NOP, entry to save, or the end of a save or restore routine. -/
  | safe (k : BitVec 16)
  /-- NOP (R130) Advances pc by 4 with no other effect. -/
  | nop
  /-- LD_8U (R138) Loads a byte from global memory, zero-extended. -/
  | ld8u (pf : Option Prefix) (d a : BitVec 8) (o : BitVec 3) (f : BitVec 5)
  /-- LD_8S (R138) Loads a byte from global memory, sign-extended. -/
  | ld8s (pf : Option Prefix) (d a : BitVec 8) (o : BitVec 3) (f : BitVec 5)
  /-- LD_16U (R138) Loads a half from global memory, zero-extended. -/
  | ld16u (pf : Option Prefix) (d a : BitVec 8) (o : BitVec 3) (f : BitVec 5)
  /-- LD_16S (R138) Loads a half from global memory, sign-extended. -/
  | ld16s (pf : Option Prefix) (d a : BitVec 8) (o : BitVec 3) (f : BitVec 5)
  /-- LD_32 (R138) Loads a word from global memory. -/
  | ld32 (pf : Option Prefix) (d a : BitVec 8) (o : BitVec 3) (f : BitVec 5)
  /-- LD_64 (R138) Loads a doubleword from global memory into a pair. -/
  | ld64 (pf : Option Prefix) (d a : BitVec 8) (o : BitVec 3) (f : BitVec 5)
  /-- LD_128 (R138) Loads 16 bytes from global memory into a quad. -/
  | ld128 (pf : Option Prefix) (d a : BitVec 8) (o : BitVec 3) (f : BitVec 5)
  /-- ST_8 (R138) Stores a byte to global memory. -/
  | st8 (pf : Option Prefix) (d a : BitVec 8) (o : BitVec 3) (f : BitVec 5)
  /-- ST_16 (R138) Stores a half to global memory. -/
  | st16 (pf : Option Prefix) (d a : BitVec 8) (o : BitVec 3) (f : BitVec 5)
  /-- ST_32 (R138) Stores a word to global memory. -/
  | st32 (pf : Option Prefix) (d a : BitVec 8) (o : BitVec 3) (f : BitVec 5)
  /-- ST_64 (R138) Stores a pair to global memory. -/
  | st64 (pf : Option Prefix) (d a : BitVec 8) (o : BitVec 3) (f : BitVec 5)
  /-- ST_128 (R138) Stores a quad to global memory. -/
  | st128 (pf : Option Prefix) (d a : BitVec 8) (o : BitVec 3) (f : BitVec 5)
  /-- LDS_32 (R139) Loads a word from the scratchpad. -/
  | lds32 (pf : Option Prefix) (d a : BitVec 8) (o : BitVec 3) (f : BitVec 5)
  /-- STS_32 (R139) Stores a word to the scratchpad. -/
  | sts32 (pf : Option Prefix) (d a : BitVec 8) (o : BitVec 3) (f : BitVec 5)
  /-- LDS_128 (R139) Loads 16 bytes from the scratchpad into a quad. -/
  | lds128 (pf : Option Prefix) (d a : BitVec 8) (o : BitVec 3) (f : BitVec 5)
  /-- STS_128 (R139) Stores a quad to the scratchpad. -/
  | sts128 (pf : Option Prefix) (d a : BitVec 8) (o : BitVec 3) (f : BitVec 5)
  /-- BALLOT (R179) Writes the vote of the contributors' nonzero a values to every receiver. -/
  | ballot (pf : Option Prefix) (d a : BitVec 8)
  /-- SHFL_IDX (R180) Each receiver reads a from the lane that b names. -/
  | shflIdx (pf : Option Prefix) (d a b : BitVec 8)
  /-- SHFL_UP (R180) Each receiver reads a from the lane b below it. -/
  | shflUp (pf : Option Prefix) (d a b : BitVec 8)
  /-- SHFL_DOWN (R180) Each receiver reads a from the lane b above it. -/
  | shflDown (pf : Option Prefix) (d a b : BitVec 8)
  /-- SHFL_XOR (R180) Each receiver reads a from its lane XOR b. -/
  | shflXor (pf : Option Prefix) (d a b : BitVec 8)
  /-- REDUX (R182) Reduces a over the contributors in ascending lane order and writes the result to every receiver. -/
  | redux (pf : Option Prefix) (d a c : BitVec 8)
  /-- SCAN (R182) Inclusive scan of a over the contributors in ascending lane order. -/
  | scan (pf : Option Prefix) (d a c : BitVec 8)
  /-- QAPPEND (R183) Atomically advances a scratchpad queue cursor and gives each contributor its slot. -/
  | qappend (pf : Option Prefix) (d a : BitVec 8)
  /-- XCHGP (R184) Exchanges a register value with the partner warp's matching XCHGP. -/
  | xchgp (pf : Option Prefix) (d a : BitVec 8)
  /-- EXPAND (R190) Opens an expansion of the deal set's ragged ranges and returns the round count. -/
  | expand (d a : BitVec 8) (s : BitVec 2) (o : BitVec 4)
  /-- EXNEXT (R191) Deals the next round of flat items to the set's lanes. -/
  | exnext (d a b : BitVec 8)
  /-- EXRED (R192) Combines the lanes' values into their owners' accumulators in ascending flat index. -/
  | exred (a : BitVec 8)
  /-- EXFIN (R193) Returns each owner's accumulator and closes the expansion. -/
  | exfin (d : BitVec 8)
  /-- EXSAVE (R194) Writes the warp's Aster slice to a 392-byte image in global memory. -/
  | exsave (a : BitVec 8)
  /-- EXLOAD (R196) Replaces the warp's Aster slice with an image, checking it. -/
  | exload (a : BitVec 8)
  /-- MATCH (R181) Writes the mask of contributors whose a equals the receiver's. -/
  | matchLanes (pf : Option Prefix) (d a : BitVec 8)
  /-- ATOM (R261) Performs an atomic read-modify-write on global memory. -/
  | atom (pf : Option Prefix) (d a b : BitVec 8) (aop : BitVec 4) (width : BitVec 2) (order : BitVec 3) (c : BitVec 8)
  /-- ATOMS (R261) Performs an atomic read-modify-write on the scratchpad. -/
  | atoms (pf : Option Prefix) (d a b : BitVec 8) (aop : BitVec 4) (width : BitVec 2) (order : BitVec 3) (c : BitVec 8)
  /-- FENCE (R265) Makes a full, acquire or release fence in the path's order at the named scope. -/
  | fence (k : BitVec 2) (s : BitVec 3)
  /-- ARRIVE (R267) Arrives n times on a scratchpad barrier word as one release atomic. -/
  | arrive (d a b : BitVec 8)
  /-- WAITB_PH (R268) Parks the warp until the barrier word's phase differs from b. -/
  | waitbPh (a b : BitVec 8)
  /-- WAITB_CNT (R268) Parks the warp until the barrier word's count reaches b or its phase changes. -/
  | waitbCnt (a b : BitVec 8)
  /-- BAR_WG (R270) Hardware barrier over the workgroup's warps. -/
  | barWg
  /-- BAR_TEAM (R270) Hardware barrier over the team's warps. -/
  | barTeam
  /-- MWAIT_NE (R269) Parks the warp until a global word differs from b. -/
  | mwaitNe (a b : BitVec 8)
  /-- MWAIT_GEU (R269) Parks the warp until a global word is unsigned at least b. -/
  | mwaitGeu (a b : BitVec 8)
  /-- PREF (R228) Requests a fill of a line into L2 without waiting. -/
  | pref (a : BitVec 8)
  /-- PREF_L1 (R228) Requests a fill of a line into L2 and the issuing core's L1. -/
  | prefL1 (a : BitVec 8)
  /-- CFLUSH_WB (R229) Writes a dirty or engine-owned line back to physical memory. -/
  | cflushWb (a : BitVec 8)
  /-- CFLUSH_INV (R229) Writes a line back and invalidates its cached copies. -/
  | cflushInv (a : BitVec 8)
  /-- HTCLAIM (R273) Claims a scratch hash table of B buckets and returns its id. -/
  | htclaim (d a b : BitVec 8)
  /-- HTREL (R273) Releases a hash claim and discards its contents. -/
  | htrel (a : BitVec 8)
  /-- HINS (R275) Inserts a key and value into a hash claim if the key is absent. -/
  | hins (pf : Option Prefix) (d a b : BitVec 8)
  /-- HPROBE (R275) Looks a key up in a hash claim. -/
  | hprobe (pf : Option Prefix) (d a b : BitVec 8)
  /-- HDEL (R275) Deletes a key from a hash claim. -/
  | hdel (pf : Option Prefix) (d a b : BitVec 8)
  /-- HACC (R275) Accumulates a value into a key's entry, inserting it when absent. -/
  | hacc (pf : Option Prefix) (d a b : BitVec 8) (op : BitVec 4) (ty : BitVec 2)
  /-- HDRAIN (R277) Writes every entry of a hash claim to global memory and empties it, as one event. -/
  | hdrain (d a b : BitVec 8)
  /-- THLD (R283) Loads a tensor handle from 32 bytes of global memory and checks it. -/
  | thld (d a : BitVec 8) (off : BitVec 16)
  /-- THSET (R284) Replaces one field of a tensor handle and checks the result. -/
  | thset (d a sel : BitVec 8)
  /-- THGET (R284) Reads one field of a tensor handle into a uniform register. -/
  | thget (d a sel : BitVec 8)
  /-- COPY (R288) Posts a copy-engine operation moving a source box to a destination box. -/
  | copy (d a b q tok bar : BitVec 8) (yld : BitVec 1) (cont : BitVec 5)
  /-- GATHER (R289) Posts a copy-engine operation gathering indexed rows into the scratchpad. -/
  | gather (d a b q tok bar : BitVec 8) (yld list : BitVec 1) (cont : BitVec 5)
  /-- SCATTER (R289) Posts a copy-engine operation scattering scratchpad rows to indexed rows. -/
  | scatter (d a b q tok bar : BitVec 8) (yld list ordered : BitVec 1) (cont : BitVec 5)
  /-- TSPLIT (R291) Posts a copy-engine operation encoding a dense box into split tiles. -/
  | tsplit (d a b q tok bar : BitVec 8) (yld : BitVec 1) (cont : BitVec 5)
  /-- MMA (R303) Posts one matrix step to an accumulator tile. -/
  | mma (d a b qa qb : BitVec 8)
  /-- MMALOOP (R303) Posts n matrix steps with coordinate increments to an accumulator tile. -/
  | mmaloop (d a b qa qb inc n : BitVec 8)
  /-- MBATCH (R307) Closes the warp's open batch of tile operations and makes a token pending on it. -/
  | mbatch (d bar : BitVec 8)
  /-- WAITT (R308) Holds the warp until a token is done, delivering any held cause. -/
  | waitt (a : BitVec 8)
  /-- MACC_ALLOC (R300) Allocates the lowest free accumulator tile to the warp and zeroes it. -/
  | maccAlloc (d : BitVec 8)
  /-- MACC_FREE (R300) Frees an accumulator tile once its posted operations have completed. -/
  | maccFree (a : BitVec 8)
  /-- MDRAIN (R309) Posts a drain of an accumulator tile to scratchpad or registers. -/
  | mdrain (d a b st : BitVec 8) (clr : BitVec 1)
  /-- BPUT (R305) Publishes the warp's B quarter into its quad slot. -/
  | bput (a b : BitVec 8)
  /-- KSTORE (R325) Posts the signing, writing and linking of n key rows into the Larkspur index. -/
  | kstore (d a b n tok bar : BitVec 8) (strict val : BitVec 1) (slot : BitVec 2)
  /-- BGATHER (R328) Posts a gather of the tokens in buckets near a query signature. -/
  | bgather (d a tok bar : BitVec 8) (dist slot : BitVec 2) (trunc : BitVec 1)
  /-- ADD_L (R104) ADD with a 32-bit literal word in place of b. -/
  | addL (pf : Option Prefix) (d a : BitVec 8) (lit : BitVec 32)
  /-- AND_L (R104) AND with a literal word in place of b. -/
  | andL (pf : Option Prefix) (d a : BitVec 8) (lit : BitVec 32)
  /-- OR_L (R104) OR with a literal word in place of b. -/
  | orL (pf : Option Prefix) (d a : BitVec 8) (lit : BitVec 32)
  /-- XOR_L (R104) XOR with a literal word in place of b. -/
  | xorL (pf : Option Prefix) (d a : BitVec 8) (lit : BitVec 32)
  /-- MOV_L (R104) Moves a literal word into d. -/
  | movL (pf : Option Prefix) (d : BitVec 8) (lit : BitVec 32)
  /-- MULLO_L (R104) MULLO with a literal word in place of b. -/
  | mulloL (pf : Option Prefix) (d a : BitVec 8) (lit : BitVec 32)
  /-- CMP_EQ_L (R104) CMP.EQ with a literal word in place of b. -/
  | cmpEqL (pf : Option Prefix) (d a : BitVec 8) (lit : BitVec 32)
  /-- CMP_LT_S_L (R104) CMP.LT.S with a literal word in place of b. -/
  | cmpLtSL (pf : Option Prefix) (d a : BitVec 8) (lit : BitVec 32)
  /-- FADD_L (R120) FADD with a literal word in place of b. -/
  | faddL (pf : Option Prefix) (d a : BitVec 8) (lit : BitVec 32)
  /-- FMUL_L (R120) FMUL with a literal word in place of b. -/
  | fmulL (pf : Option Prefix) (d a : BitVec 8) (lit : BitVec 32)
  /-- FFMA_L (R120) FFMA with a literal word as the addend. -/
  | ffmaL (pf : Option Prefix) (d a b : BitVec 8) (lit : BitVec 32)
  /-- FMIN_L (R120) FMIN with a literal word in place of b. -/
  | fminL (pf : Option Prefix) (d a : BitVec 8) (lit : BitVec 32)
  /-- FMAX_L (R120) FMAX with a literal word in place of b. -/
  | fmaxL (pf : Option Prefix) (d a : BitVec 8) (lit : BitVec 32)
  /-- FCMP_LT_L (R120) FCMP.LT with a literal word in place of b. -/
  | fcmpLtL (pf : Option Prefix) (d a : BitVec 8) (lit : BitVec 32)
  /-- QSIG (R322) Computes the Larkspur signature of a scratchpad vector under an index slot. -/
  | qsig (d a b : BitVec 8)
  /-- KIDX (R319) Loads an index descriptor into an index slot, or unconfigures the slot. -/
  | kidx (n a : BitVec 8)
  /-- MLOAD (R309) Posts a load of an accumulator tile from scratchpad or registers. -/
  | mload (d a b : BitVec 8)
  /-- TRAP (R348) Raises 0x57 with a software subcause. -/
  | trap (a : BitVec 8)
  /-- TRAP_FRAME (R348) Writes the address of the warp's trap frame, or 0 outside trap mode. -/
  | trapFrame (d : BitVec 8)
  /-- ERET_RETRY (R349) Leaves trap mode and issues the faulting instruction again for the replay mask. -/
  | eretRetry
  /-- ERET_SKIP (R349) Leaves trap mode and retires the faulting instruction. -/
  | eretSkip
  /-- ERET_TO (R349) Leaves trap mode and continues at a target held in a pair. -/
  | eretTo (a : BitVec 8)
  /-- MTSR_FPFLAGS (R350) Sets each lane's fpflags from a, in any mode. -/
  | mtsrFpflags (a : BitVec 8)
  /-- MTSR_CTX_PREEMPT (R365) Writes ctx_preempt, making pre-emption pending or cancelling it for an ASID. -/
  | mtsrCtxPreempt (a b : BitVec 8)
  /-- MTSR_CTX_HALT (R377) Writes ctx_halt, stopping or releasing every warp of an ASID on the device. -/
  | mtsrCtxHalt (a b : BitVec 8)
  /-- MTSR_CTX_LCBINS (R379) Reads a bin table, binds it to an ASID on every core and clears the lane-cycle counters. -/
  | mtsrCtxLcbins (a b : BitVec 8)
  /-- MTSR_FAULTLOG (R351) Sets the device fault log base, retrying held appends. -/
  | mtsrFaultlog (a b : BitVec 8)
  /-- MTSR (R350) Writes a context register that has no behaviour of its own, in supervisor mode. -/
  | mtsr (s a b : BitVec 8)
  /-- RESUME_REPLAY (R355) Lets a parked or stopped warp or a paused operation named by a ticket go on. -/
  | resumeReplay (d a : BitVec 8)
  /-- RESUME_DELIVER (R355) Sends the parked cause of a ticket to the handler, or ends a paused operation with a held cause. -/
  | resumeDeliver (d a : BitVec 8)
  /-- RESUME_TERM (R355) Terminates every warp and queued launch of an ASID on the device. -/
  | resumeTerm (d a : BitVec 8)
  /-- LAUNCH (R153) Checks a launch record and kernel header and queues the launch on the die. -/
  | launch (d a : BitVec 8)
  /-- TLBINV_PAGE (R230) Invalidates the translations and cached lines of the pages holding a VA in an ASID. -/
  | tlbinvPage (a b : BitVec 8)
  /-- TLBINV_ASID (R230) Invalidates every translation of an ASID and loads its live bit. -/
  | tlbinvAsid (b : BitVec 8)
  /-- TLBINV_ALL (R230) Invalidates every translation on the package. -/
  | tlbinvAll
  /-- ASINV (R231) Invalidates an ASID and clears its valid and live bits. -/
  | asinv (b : BitVec 8)
  /-- BKPT (R374) Stops its path with 0x50 when debug is enabled, otherwise acts as NOP. -/
  | bkpt (c : BitVec 16)
  /-- CLRSET (R232) Installs a new clearance bitmap for the warp. -/
  | clrset (a : BitVec 8)
  /-- PERFRD (R380) Reads a lane-cycle counter or the soft-error count of the core. -/
  | perfrd (d : BitVec 8) (k : BitVec 3) (n : BitVec 4)
  /-- MOVI20 (R65) Loads a sign-extended 20-bit integer immediate. -/
  | movi20 (pf : Option Prefix) (d : BitVec 8) (i : BitVec 20)
  /-- MOVF20 (R65) Loads an FP32 pattern whose bits [31:12] are the immediate. -/
  | movf20 (pf : Option Prefix) (d : BitVec 8) (i : BitVec 20)
  /-- NON_INSTRUCTION (R69) A fetched word or run that is not an instruction raises its decode cause. -/
  | nonInstruction (priv : Priv) (cause : BitVec 8) (sub : BitVec 32) (len : Nat)
  /-- FAULT_LOG_HELD_APPEND (R353) An entry held for a full or failing log is appended once the log has room or is repaired. -/
  | faultLogHeldAppend (k : Nat)
  /-- HELD_TRANSFER_REEXECUTION (R171) Lanes held at a transfer for lack of path entries re-execute it once an entry is free. -/
  | heldTransferReexecution (w p : Nat)
  /-- WAIT_RELEASE (R146) A held WAIT releases once its counters fall, delivering any held engine cause. -/
  | waitRelease (w : Nat)
  /-- BAR_RELEASE (R270) A barrier instance releases once every live warp has issued its k-th BAR. -/
  | barRelease (w : Nat)
  /-- WAITB_RELEASE (R268) A parked WAITB releases on a read of the barrier word that satisfies its form. -/
  | waitbRelease (w : Nat)
  /-- MWAIT_RELEASE (R269) A parked MWAIT releases on an acquire read that satisfies its condition. -/
  | mwaitRelease (w : Nat)
  /-- WAITT_RELEASE (R308) A held WAITT releases once its token is done, delivering any held cause. -/
  | waittRelease (w : Nat)
  /-- XCHGP_MATCH (R184) Matching XCHGPs of partner warps exchange their values. -/
  | xchgpMatch (w : Nat)
  /-- ASTER_STEP_MATCH (R187) Once every warp of the deal set has issued a collective step, the unit performs it as one action. -/
  | asterStepMatch (w : Nat)
  /-- LAUNCH_ENQUEUE (R153) A LAUNCH held for a full priority queue enqueues the launch once there is room. -/
  | launchEnqueue (w : Nat)
  /-- DEPENDENCE_CONDITION_READ (R158) The distributor reads a dependence word and latches the condition when it holds. -/
  | dependenceConditionRead (launch k : Nat)
  /-- TEAM_ADMISSION (R160) The distributor places a team of the current launch on cores with free resources. -/
  | teamAdmission (die : Nat)
  /-- L1_RECLAIM (R207) Lent L1 units are invalidated and become reserved once their fills have drained. -/
  | l1Reclaim (core : Nat)
  /-- WARP_COMPLETION (R130) An exited warp's operations have completed and its resources are released. -/
  | warpCompletion (w : Nat)
  /-- TEAM_COMPLETION (R163) Every warp of a team has completed and its reservations are released. -/
  | teamCompletion (team : Nat)
  /-- TRANSLATION_REQUEST (R217) A slice miss is walked by a translation unit, joining any walk of the same granule. -/
  | translationRequest (m : Nat)
  /-- CORE_PINNED_SLOT_WAIT_END (R216) A walk waiting for a core-pinned slot proceeds once the holding team completes. -/
  | corePinnedSlotWaitEnd (m : Nat)
  /-- SLICE_MISS (R226) A miss at a home slice takes or merges into a miss register and is answered by one multicast reply. -/
  | sliceMiss (m : Nat)
  /-- ACCESS_PERFORM (R236) An access is performed at its line's ordering point at one point of the order P. -/
  | accessPerform (a : Nat)
  /-- LOAD_COMPLETION (R144) A load's values are written to its destination and its counter falls in issue order. -/
  | loadCompletion (o : Nat)
  /-- STORE_ACKNOWLEDGE (R144) A performed store is acknowledged and its counter falls in issue order. -/
  | storeAcknowledge (o : Nat)
  /-- ENGINE_LINE_TRANSFER (R248) The engine reads a source snapshot and writes a destination line as one event W. -/
  | engineLineTransfer (e : Nat)
  /-- TSPLIT_TILE_ENCODE (R291) A 64x64 region is encoded into a split tile, taking spill space if needed. -/
  | tsplitTileEncode (e : Nat)
  /-- COPY_OPERATION_COMPLETE (R286) A copy-engine operation's writes are performed, its token becomes done and it arrives on its barrier. -/
  | copyOperationComplete (e : Nat)
  /-- MATRIX_STEP (R296) The matrix unit validates and applies one step to an accumulator tile in merge order. -/
  | matrixStep (e : Nat)
  /-- MATRIX_OPERATION_COMPLETE (R301) A tile operation completes and frees its FIFO entry. -/
  | matrixOperationComplete (e : Nat)
  /-- MDRAIN_EXECUTE (R309) A posted drain reads the tile and writes scratchpad or registers with its status. -/
  | mdrainExecute (e : Nat)
  /-- BATCH_COMPLETE (R307) A batch whose operations and earlier batches are complete makes its token done and arrives. -/
  | batchComplete (w : Nat)
  /-- KSTORE_TOKEN (R326) The engine signs a key, writes its rows and links its token into a chain. -/
  | kstoreToken (e : Nat)
  /-- BGATHER_BUCKET_VISIT (R329) The engine reads a bucket chain's lines as snapshots and takes its ids. -/
  | bgatherBucketVisit (e : Nat)
  /-- BGATHER_TOKEN (R330) A reached token's rows are gathered, skipped or omitted, and its arrival made. -/
  | bgatherToken (e : Nat)
  /-- REMOTE_REQUEST (R390) A remote access is performed at the owning device's base-die unit and acknowledged. -/
  | remoteRequest (a : Nat)
  /-- REMOTE_TIMEOUT (R391) A remote request with no response within 2^26 cycles raises 0x2B. -/
  | remoteTimeout (a : Nat)
  /-- WATCHDOG_EXPIRY (R357) The warp's watchdog count reaches its limit and the warp raises 0x55. -/
  | watchdogExpiry (w : Nat)
  /-- HANDLER_LIMIT_EXPIRY (R358) The handler count reaches its limit and the warp stops with 0x55 subcause 1. -/
  | handlerLimitExpiry (w : Nat)
  /-- PREEMPTION_OVERDUE (R372) A pending warp's overdue count reaches its limit and the warp stops with 0x56. -/
  | preemptionOverdue (w : Nat)
  /-- TEAM_READMISSION (R371) The distributor readmits a saved team and starts its warps in restore mode. -/
  | teamReadmission (die : Nat)
  /-- START_COLD (R398) A START write of kind cold begins a cold stage 1 or retries a failed stage. -/
  | startCold (selftest : Bool)
  /-- START_WARM (R398) A START write of kind warm begins a warm stage 1 or retries a failed stage. -/
  | startWarm (selftest : Bool)
  /-- MBOX_WRITE (R396) A host write to mbox stores the value to the mailbox word as a system-scope release. -/
  | mboxWrite (v : BitVec 32)
  /-- BAR0_REGISTER_WRITE (R395) A host write to a BAR0 register with no behaviour of its own, such as winbase. -/
  | bar0RegisterWrite (off : Nat) (v : BitVec 64)
  /-- BAR2_WINDOW_ACCESS (R395) A host access through BAR2 is performed uncached at WINBASE plus the offset. -/
  | bar2WindowAccess (off : Nat) (data : List (BitVec 8)) (write : Bool)
  /-- POWER_GOOD (R397) Power-good begins start stage 0. -/
  | powerGood
  /-- START_STAGE_1 (R397) Each die loads repair, trains its HBM and self-tests, marking failed dies. -/
  | startStage1
  /-- START_STAGE_2 (R399) The firmware is installed and the resident supervisor warps are launched. -/
  | startStage2
  /-- IDLE_ENTRY (R400) A block with no work for 64 cycles enters idle. -/
  | idleEntry (b : Block)
  /-- CLOCK_GATE_ENTRY (R400) A block idle for 4096 cycles becomes clock-gated. -/
  | clockGateEntry (b : Block)
  /-- RETENTION_ENTRY (R400) A core with no resident warp or posted operation for 2^20 cycles enters retention. -/
  | retentionEntry (core : Nat)
  /-- POWER_WAKE (R400) A sleeping block wakes to serve a request that waited for it. -/
  | powerWake (b : Block)
  /-- DIE_THROTTLE (R401) The controller halves or restores a die's core clock as its temperature crosses the limit. -/
  | dieThrottle (die : Nat) (up : Bool)
  /-- CRITICAL_TEMPERATURE (R401) At the critical temperature the controller removes power from the package. -/
  | criticalTemperature
  /-- STORAGE_SOFT_ERROR (R359) A soft error strikes a register, scratchpad, accumulator, L1, L2 or memory word, leaving it corrected-and-counted, uncorrectable or poisoned. -/
  | storageSoftError (site : Site) (sev : Severity)
  /-- FABRIC_RESPONSE_LOST (R359) A response on the rings, interposer or UALink is lost beyond link retry, and the requesting lane receives 0x3C. -/
  | fabricResponseLost (a : Nat) (tier : Bool)
  /-- MEMORY_SIDE_STAMP_LOST (R246) A stamp kept at a memory-side atomic unit is lost, so that a later mixed-size race there is not reported. -/
  | memorySideStampLost (line : Nat)
  /-- ROUTE_LINKS_DOWN (R391) The UALink links of the route to a peer go down, or the peer device fails, so that later remote requests raise 0x2A subcause 1. -/
  | routeLinksDown (dev : Nat) (known : Bool)
  /-- ROUTE_LINKS_UP (R391) A route's UALink links, or the peer device, return to service, so that remote requests are sent again. -/
  | routeLinksUp (dev : Nat)
  /-- PEER_DEBUG_HOLD_CHANGE (R392) A peer device begins or stops advertising debug hold, freezing or unfreezing this device's 0x2B counts and the watchdog counts of MWAIT-parked debug-enabled warps. -/
  | peerDebugHoldChange (dev : Nat) (hold : Bool)
  deriving DecidableEq, Repr

end Sys2Proof
end

