-- ==== Sys2Proof/Machine/State.lean ====
section
/-!
DEFINITION. The state of the machine, all plain data: one package of four dies with its warps, teams, launches, engines,
memory levels, logs, context registers, start and power states, and the outcomes a step can end in.
Sparse storage is held as an `Assoc`: keys strictly rising, no entry equal to the default of an unlisted key.
-/
namespace Sys2Proof.Machine

/-- Sparse data by key. Canonical when the keys rise strictly and no entry holds the default. -/
abbrev Assoc (α : Type) := List (Nat × α)

/-- Memory: bytes keyed by system physical address (R208, R388), in the canonical form of `Memory.wf`. -/
abbrev Memory := List Host.Cell

/-! ## The issue record -/

/-- Who issues (the model's own): warp key, path index, the lanes the instruction runs for (all of the path's, or the
replay lanes of R218 and R349), its PC (R52), its length in words, and whether lanes held by R171 re-execute it. -/
structure Cur where
  w : Nat
  p : Nat
  lanes : Mask
  pc : DWord
  len : Nat
  held : Bool
  /-- 1: the instruction returns the watchdog count to 0 (R357); 2: it is a synchronising operation as well (R378) -/
  sync : Nat := 0
  deriving DecidableEq, Repr

/-! ## Causes -/

/-- A cause met by an instruction: code, subcause, faulting lanes, the address of each faulting lane (R345), and whether
other lanes met another code (R356). -/
structure Cause where
  code : Nat
  sub : Nat
  lanes : Mask
  addrs : List (Nat × DWord)
  other : Bool
  /-- `clock` at the cause, where it is kept -/
  time : DWord := 0
  deriving DecidableEq, Repr

/-- A cause held by an engine operation (R294, R314): the code and the subcause its record will carry, and `clock` when it was
met (R345). -/
structure HeldCause where
  code : Nat
  sub : Nat
  time : DWord
  deriving DecidableEq, Repr

/-- A lane's cause: lane, row of the raising rule's order, code, subcause, address. -/
structure LaneCause where
  lane : Nat
  row : Nat
  code : Nat
  sub : Nat
  addr : DWord
  deriving DecidableEq, Repr

/-- What a record says besides the warp's identity (R345). -/
structure FaultInfo where
  code : Nat
  flags : Nat
  further : Nat
  sub : Nat
  pc : DWord
  opPc : DWord
  lanes : Mask
  pathMask : Mask
  path : Nat
  ticket : Nat
  addrs : List (Nat × DWord)
  /-- `clock` at the cause -/
  time : DWord
  deriving DecidableEq, Repr

/-! ## Paths -/

/-- One entry of a loop stack (R131). -/
structure LoopEntry where
  start : DWord
  stop : DWord
  count : Word
  deriving DecidableEq, Repr

/-- Status of a path-table entry (R168). -/
inductive PathStatus where
  | free
  | run
  | wait
  deriving DecidableEq, Repr

/-- What keeps a path from issuing. -/
inductive PathHold where
  | none
  /-- waits until none of these lines (tag ASID, line number) is being missed on (R217, R226) -/
  | fill (lines : List (Nat × Nat))
  /-- parked under R218: ticket, the cause with the unfinished lanes, PC and length of the instruction -/
  | parked (ticket : Nat) (x : Cause) (pc : DWord) (len : Nat)
  /-- a remote access has not been acknowledged (R390): the outstanding operation, whether its instruction returns the watchdog
  count to 0 (R357), and the causes its lanes have met so far -/
  | remote (op : Nat) (cur : Cur) (resets : Bool) (met : List LaneCause)
  /-- a debug stop (R373): ticket, cause, PC and length of the instruction -/
  | debug (ticket : Nat) (x : Cause) (pc : DWord) (len : Nat)
  deriving DecidableEq, Repr

/-- One entry of the path table (R168). `segs` and `after` are the model's own record of path order (R241): the
segments whose accesses precede this path's in path order, and those that precede it in P whatever they are. -/
structure Path where
  status : PathStatus
  pc : DWord
  mask : Mask
  jp : Option DWord
  arr : Option DWord
  parent : Option Nat
  kids : Nat
  arrived : Mask
  held : Mask
  hpc : DWord
  hstack : List LoopEntry
  stack : List LoopEntry
  skip : Nat
  hold : PathHold
  segs : List Nat
  after : List Nat
  /-- lanes for which the next issue replays the instruction (R218, R349); none: all lanes of the path -/
  replay : Option Mask
  /-- the counted instruction that the replay continues (R144, R218) -/
  replayOp : Option Nat
  /-- the next issue passes the breakpoint check, the watchpoint check (R375) -/
  passBreak : Bool
  passWatch : Bool
  deriving DecidableEq, Repr

/-- A free entry of the path table (R168). -/
def Path.empty : Path :=
  { status := .free, pc := 0, mask := 0, jp := none, arr := none, parent := none, kids := 0, arrived := 0, held := 0,
    hpc := 0, hstack := [], stack := [], skip := 0, hold := .none, segs := [], after := [], replay := none,
    replayOp := none, passBreak := false, passWatch := false }

/-! ## Warps -/

/-- A token register (R15, R286, R307). -/
inductive Token where
  | invalid
  /-- of a copy or index operation: pending until it is complete, then done -/
  | op (id : Nat)
  /-- of a batch of the warp: pending until it is complete, then done -/
  | batch (seq : Nat)
  deriving DecidableEq, Repr

/-- Why a whole warp does not issue. -/
inductive Why where
  /-- WAIT below its fields (R146) -/
  | wait
  /-- WAITB parked; the phase read at issue (R268) -/
  | waitb (phase : Nat)
  /-- MWAIT parked (R269) -/
  | mwait
  /-- BAR parked as the k-th of its scope (R270) -/
  | bar (team : Bool) (k : Nat)
  /-- WAITT (R308) -/
  | waitt
  /-- XCHGP, after `k` earlier ones (R184) -/
  | xchgp (k : Nat)
  /-- a collective Aster step (R187) -/
  | aster
  /-- LAUNCH before a full queue (R153) -/
  | launch
  /-- a copy with yield = 1 (R292): the operation -/
  | yielded (op : Nat)
  /-- stopped: ticket, cause, and the lanes that a replay issues again (R354, R367, R372, R377) -/
  | stopped (ticket : Nat) (x : Cause) (replay : Mask)
  /-- trap entry waits until the record can be written (R344): a slot, an engine's line or an earlier access holds it -/
  | entering (f : FaultInfo)
  /-- the retired-instruction count `n` of synchronising operation `k` waits to be recorded or checked (R378) -/
  | checking (n : DWord) (k : Nat)
  deriving DecidableEq, Repr

/-- A held warp: why, the issue record and the instruction that is held (it has had no effect, R271). -/
structure Held where
  why : Why
  cur : Cur
  i : Option Instr
  deriving DecidableEq, Repr

/-- What trap entry saves (R344): PC, length, MODE, the path as it stood (its mask, loop stack and join point), the replay
mask, the cause, and the lanes with which the handler began (R349). -/
structure TrapSave where
  path : Nat
  pc : DWord
  len : Nat
  mode : BitVec 16
  old : Path
  replay : Mask
  code : Nat
  begun : Mask
  /-- the other paths of the table at entry, suspended until ERET -/
  suspended : List Nat
  /-- as in the issue record -/
  sync : Nat
  deriving DecidableEq, Repr

/-- Save and restore mode (R365, R371). `back` holds what the ending SAFE of restore mode reinstates. -/
inductive PreMode where
  | normal
  | saving (k : Nat)
  /-- the ending SAFE has retired -/
  | saved
  | restoring (k : Nat) (pc : DWord) (mode : BitVec 16) (stack : List LoopEntry) (jp : Option DWord)
  deriving DecidableEq, Repr

/-- The Aster slice of a warp (R188). -/
structure Slice where
  st : Assoc Word
  ln : Assoc Word
  acc : Assoc Word
  /-- flat index held by a lane in the current round; unlisted: none -/
  item : Assoc Nat
  cursor : Nat
  active : Bool
  op : BitVec 4
  n : BitVec 2
  /-- an EXLOAD has replaced the slice and no collective step has matched since (R196) -/
  loaded : Bool
  deriving DecidableEq, Repr

def Slice.reset : Slice :=
  { st := [], ln := [], acc := [], item := [], cursor := 0, active := false, op := 0, n := 0, loaded := false }

/-- An index slot's descriptor (R318). -/
structure Index where
  seed : DWord
  buckets : DWord
  pool : DWord
  kbase : DWord
  vbase : DWord
  stride : Nat
  limit : Nat
  bits : Nat
  dcode : Nat
  elem : Nat
  deriving DecidableEq, Repr

/-- One instruction in an operation counter (R145): its identity and whether it is complete. -/
structure Counted where
  id : Nat
  done : Bool
  deriving DecidableEq, Repr

/-- A batch of tile operations (R307): number, operations, barrier-word offset, token. -/
structure Batch where
  seq : Nat
  /-- its place in the order of posting (R314), and the PC of its MBATCH -/
  posted : Nat
  pc : DWord
  ops : List Nat
  bar : Option Nat
  cause : Option HeldCause
  complete : Bool
  deriving DecidableEq, Repr

/-- A scope (R235). -/
inductive Scope where
  | warp
  | wg
  | team
  | device
  | system
  deriving DecidableEq, Repr

/-- A warp as an agent of the perform order (R234): its key, which a later warp may hold again, its team and workgroup. -/
structure Agent where
  w : Nat
  team : Nat
  wg : Nat
  deriving DecidableEq, Repr

/-- Accesses of an agent that are known, in a scope around it, to stand before a point (R237, R242, R245; the model's record of
it): those in path order before `seq` on these segments (on every segment where `all`) but of the instructions `but`, and those
of the segments `after`. -/
structure Known where
  agent : Agent
  scope : Scope
  seq : Nat
  all : Bool
  segs : List Nat
  but : List Nat
  after : List Nat
  deriving DecidableEq, Repr

/-- What a path has learnt by reading at `seq` in an instruction (R237, R245; the model's record of it): it stands before the
path's later accesses where `acq`, else before those issued once the instruction is complete or after an acquire fence. -/
structure Heard where
  seg : Nat
  seq : Nat
  op : Nat
  acq : Bool
  known : List Known
  deriving DecidableEq, Repr

/-- A fence of a path that has retired (R245; the model's record of it): kind 0 full, 1 acquire, 2 release. Kind 3 marks the
issue of a BAR: `seg` is its number, times 4 plus the mode it counts in. -/
structure Mark where
  seg : Nat
  seq : Nat
  kind : Nat
  scope : Scope
  deriving DecidableEq, Repr

/-- One warp. Keyed by core_id × 64 + slot. -/
structure Warp where
  /-- identities (R25, R162) -/
  launch : Nat
  team : Nat
  wg : Nat
  warpId : Nat
  asid : Nat
  principal : Nat
  /-- the launch privilege of the context (R68, R156) -/
  launchPriv : Bool
  /-- registers (R15): v keyed reg × 32 + lane; s; m (m0 reads all ones and is never listed); h loaded handles; t -/
  v : Assoc Word
  sreg : Assoc Word
  m : Assoc Word
  h : Assoc (BitVec 256)
  tok : Assoc Token
  /-- MODE (R21) -/
  mode : BitVec 16
  /-- fpflags per lane (R26) -/
  fpflags : Assoc (BitVec 5)
  /-- lane registers that read uncorrectable until written (R359), keyed reg × 32 + lane -/
  badReg : Assoc Bool
  /-- the path table, entries 0 to 7 (R168) -/
  paths : List Path
  /-- lanes that have not executed EXIT (R152) -/
  live : Mask
  /-- operation counters, oldest first (R144, R145) -/
  loads : List Counted
  stores : List Counted
  copies : List Counted
  tiles : List Counted
  /-- copies and tile operations issued so far, which number them (R294; the model's own) -/
  copyNo : Nat
  tileNo : Nat
  /-- clearance: address of the bitmap, or none for tag 0 only (R220) -/
  clearance : Option DWord
  /-- whole-warp hold -/
  held : Option Held
  /-- stopped by ctx_halt (R377): the ticket; a parked warp stays parked under it -/
  halt : Option Nat
  /-- ctx_halt stops it once it is between instructions (R377) -/
  halting : Bool
  /-- trap mode (R342) and what trap entry saved -/
  trap : Option TrapSave
  /-- pre-emption (R365) -/
  pending : Bool
  pre : PreMode
  /-- the last instruction retired was SAFE k and its next pc (R366) -/
  lastSafe : Option (Nat × DWord)
  /-- counts of R357, R358 and R372, in cycles -/
  watch : Nat
  handler : Nat
  overdue : Nat
  /-- BAR counts (R270), those of save mode and of restore mode (R367), the arrival with which a parked warp entered save
  (R271; whether it was of the team), XCHGP count (R184) -/
  barWg : Nat
  barTeam : Nat
  barWgPre : Nat
  barTeamPre : Nat
  barWgRes : Nat
  barTeamRes : Nat
  barArrived : Option Bool
  xchgp : Nat
  /-- batches (R307) -/
  batchNo : BitVec 8
  batchSeq : Nat
  openBatch : List Nat
  batches : List Batch
  /-- index slots (R317) -/
  index : Assoc Index
  /-- Aster slice (R188) and the attribution span (R197) -/
  slice : Slice
  span : Bool
  /-- retired-instruction count and synchronising operations so far (R378) -/
  retired : DWord
  syncs : Nat
  /-- scheduling (R165, R167): age, and the warps that must issue before a yielded warp is preferred again -/
  age : Nat
  yielded : List Nat
  /-- next segment and access number of path order (R241; the model's own) -/
  seg : Nat
  seq : Nat
  /-- what it has heard, and its fences (R245; the model's own) -/
  heard : List Heard
  marks : List Mark
  deriving DecidableEq, Repr

/-! ## Workgroups and teams -/

/-- A claim of the scratch hash table (R272): entries keyed bucket × 8 + slot, unlisted = empty. -/
structure Claim where
  b : Nat
  entries : Assoc (DWord × DWord)
  spill : Option DWord
  capacity : Nat
  deriving DecidableEq, Repr

/-- An accumulator tile (R299): elements keyed row × 128 + column. -/
structure Tile where
  owner : Option Nat
  acc : Assoc Word
  poisoned : Bool
  mismatch : Bool
  /-- the elements that are uncorrectable (R312) -/
  bad : List Nat
  deriving DecidableEq, Repr

def Tile.reset : Tile := { owner := none, acc := [], poisoned := false, mismatch := false, bad := [] }

/-- An operand of the matrix unit: what a quarter slot of a quad holds (R305). -/
structure Quarter where
  handle : BitVec 256
  coord : List Nat
  clearance : Option DWord
  deriving DecidableEq, Repr

/-- One workgroup's core and storage (R160, R206, R272, R299, R305). -/
structure Group where
  core : Nat
  /-- place and size of the allocation in the core's scratchpad (R160, R206, R216) -/
  base : Nat
  size : Nat
  /-- warp slots reserved, by warp index (R160) -/
  slots : List Nat
  scratch : Assoc Byte
  /-- scratchpad words (offset div 4) that read uncorrectable (R359) -/
  badScratch : Assoc Bool
  claims : Assoc Claim
  tiles : Assoc Tile
  /-- published quarters keyed quad × 4 + quarter -/
  quarters : Assoc Quarter
  deriving DecidableEq, Repr

/-- An admitted team (R150, R160): its launch, linear index, coordinates, workgroups, the save record it holds (R366)
and whether it has begun saving. -/
structure Team where
  launch : Nat
  index : Nat
  x : Nat
  y : Nat
  z : Nat
  groups : List Group
  record : Option Nat
  saving : Bool
  deriving DecidableEq, Repr

/-! ## Launches -/

/-- A dependence condition (R158). -/
structure Dep where
  addr : DWord
  value : Word
  holds : Bool
  logged : Bool
  failed : Bool
  deriving DecidableEq, Repr

/-- A queued or running launch (R153 to R163), with the record's and the header's fields. -/
structure Launch where
  number : Word
  die : Nat
  prio : Nat
  /-- position in queue order -/
  order : Nat
  queued : Bool
  header : DWord
  gridX : Nat
  gridY : Nat
  gridZ : Nat
  wgWarps : Nat
  teamWgs : Nat
  cls : Nat
  args : DWord
  clearance : Option DWord
  asid : Nat
  principal : Nat
  dieMask : BitVec 4
  grant : Bool
  deps : List Dep
  doneKind : Nat
  doneAddr : DWord
  doneValue : Word
  /-- header fields (R84) -/
  entry : Nat
  codeLimit : Nat
  vregs : Nat
  sregs : Nat
  acctiles : Nat
  scratch : Nat
  hashmax : Nat
  constSize : Nat
  trap : Nat
  safeTable : Nat
  safeCount : Nat
  /-- next unadmitted linear index, teams completed, saved teams (linear index, record) -/
  next : Nat
  completed : Nat
  saved : List (Nat × Nat)
  /-- synchronising operations so far of a saved team's warps, in the order of its record (R378): linear index, counts -/
  savedSyncs : List (Nat × List Nat)
  /-- the completion action has failed and is retried (R159) -/
  doneFailed : Bool
  /-- accesses known before those of its warps, and those of its warps that have completed (R155, R158, R163, R245; the model's
  own) -/
  known : List Known
  made : List Known
  deriving DecidableEq, Repr

/-! ## Memory system -/

/-- Where a location lives: its ordering point (R215, R250). -/
inductive Place where
  /-- an L2 line of a cached or slice-pinned page: tag ASID, line number -/
  | line (asid line : Nat)
  /-- a memory-side page of this device or a page of another device: system physical address -/
  | phys
  /-- a present core-pinned page: core and slot -/
  | pinned (core slot : Nat)
  /-- a workgroup's scratchpad -/
  | scratch (team wg : Nat)
  deriving DecidableEq, Repr

/-- What an access does. -/
inductive AccKind where
  | load
  | store
  /-- read-modify-write: operator, width in bytes, compare value (R260) -/
  | rmw (aop : BitVec 4) (c : DWord)
  deriving DecidableEq, Repr

/-- The bytes one lane reads or writes in a unit: lane, the address or offset the lane formed (R345), offset in the lane's
value, offset in the place, size, data. -/
structure Part where
  lane : Nat
  va : Nat
  voff : Nat
  off : Nat
  size : Nat
  data : List Byte
  deriving DecidableEq, Repr

/-- A pending access: one unit of R234, or one coalesced event of R244. -/
structure Access where
  w : Nat
  op : Nat
  seg : Nat
  seq : Nat
  segs : List Nat
  after : List Nat
  kind : AccKind
  place : Place
  parts : List Part
  strong : Bool
  acq : Bool
  rel : Bool
  /-- the scope it names (R235) and its size for R245: the lane's, or 128 of a coalesced event -/
  scope : Scope
  size : Nat
  /-- the warp's instructions whose accesses were outstanding when it issued (R237, last row) -/
  opened : List Nat
  /-- agents of this scope must not see that later accesses were performed first (R240) -/
  owes : Option Scope
  /-- the peer device of a remote access (R389), and the cycles since its request was sent (R391) -/
  remote : Option Nat
  sent : Nat
  deriving DecidableEq, Repr

/-- A fence in path order (R237, R265). -/
structure Fence where
  w : Nat
  seg : Nat
  seq : Nat
  /-- 0 full, 1 acquire, 2 release -/
  kind : Nat
  scope : Scope
  deriving DecidableEq, Repr

/-- An instruction whose accesses are outstanding (R144): its destination and the bytes received so far,
keyed lane × 16 + byte. -/
structure OutOp where
  w : Nat
  path : Nat
  pc : DWord
  isLoad : Bool
  /-- destination code, registers written, sign extension from this many bytes (0 = zero extension) -/
  dst : Code
  regs : Nat
  size : Nat
  signed : Bool
  lanes : Mask
  uniform : Bool
  got : Assoc Byte
  /-- lanes parked under R218 have still to be replayed (R144) -/
  more : Bool
  /-- what its remote accesses have met since its path went on (R391) -/
  late : List LaneCause := []
  deriving DecidableEq, Repr

/-- A line held in L2 with the attributes of the translation that filled it (R219). -/
structure L2Line where
  asid : Nat
  line : Nat
  pa : Nat
  /-- base and size of the page (R230) -/
  base : Nat
  size : Nat
  tag : Nat
  w : Bool
  x : Bool
  home : BitVec 2
  dirty : Bool
  /-- poisoned granules of 32 bytes (R360) -/
  poison : BitVec 4
  data : List Byte
  deriving DecidableEq, Repr

/-- A line held in a core's L1: its values are those of its home, its attributes those captured (R207, R219). -/
structure L1Line where
  asid : Nat
  line : Nat
  tag : Nat
  w : Bool
  x : Bool
  home : BitVec 2
  unit : Nat
  deriving DecidableEq, Repr

/-- A translation cache entry (R217): tag ASID, page base and size, leaf address and attribute word. -/
structure TlbEntry where
  unit : Nat
  asid : Nat
  base : Nat
  size : Nat
  pa : Nat
  attr : DWord
  used : Nat
  deriving DecidableEq, Repr

/-- What a walk answered (R214). -/
inductive WalkResult where
  | pending
  /-- the leaf's core-pinned slot is taken: page address and attribute word of the leaf (R216) -/
  | waitSlot (core slot pa : Nat) (attr : DWord)
  /-- the leaf's home core failed at start (R216) -/
  | noCore (pa : Nat) (attr : DWord)
  | fault (code sub : Nat)
  deriving DecidableEq, Repr

/-- A miss (R226): tag ASID, line, and what its walk answered. -/
structure Miss where
  asid : Nat
  line : Nat
  /-- cores whose L1 the reply fills -/
  l1 : List Nat
  /-- a PREF's fill, dropped where it would raise a cause (R228) -/
  quiet : Bool
  /-- the team whose slots would make it a cause (R216) -/
  team : Option Nat
  result : WalkResult
  deriving DecidableEq, Repr

/-- A present core-pinned page (R216): home core, slot, backing address, contents by offset. -/
structure Pinned where
  core : Nat
  slot : Nat
  pa : Nat
  /-- the translations that found it: tag ASID and page base -/
  maps : List (Nat × Nat)
  data : Assoc Byte
  /-- poisoned granules of 32 bytes (R360) -/
  poison : Assoc Bool
  /-- words (offset div 4) of the slot's scratchpad that read uncorrectable (R359) -/
  bad : Assoc Bool
  deriving DecidableEq, Repr

/-- The stamp of R246: place, the issuing warp, bytes and size of the last strong access, and its scope (R240). -/
structure Stamp where
  place : Place
  base : Nat
  off : Nat
  len : Nat
  size : Nat
  agent : Agent
  write : Bool
  scope : Scope
  deriving DecidableEq, Repr

/-- A strong access that has been performed (R245; the model's record of it). -/
structure Strong where
  place : Place
  off : Nat
  len : Nat
  size : Nat
  reads : Bool
  write : Bool
  scope : Scope
  agent : Agent
  seg : Nat
  seq : Nat
  op : Nat
  lane : Nat
  voff : Nat
  deriving DecidableEq, Repr

/-- What a strong write to these bytes tells one who reads it, in a scope around the writer (R245; the model's record of it). -/
structure Told where
  place : Place
  off : Nat
  len : Nat
  agent : Agent
  scope : Scope
  known : List Known
  deriving DecidableEq, Repr

/-! ## Engines -/

/-- What an engine operation was issued to do. -/
inductive EngKind where
  | copy (dst src : BitVec 256) (cd cs : List Nat)
  | gather (dst src : BitVec 256) (cd : List Nat) (rows : List Nat)
  | gatherList (dst src : BitVec 256) (cd : List Nat) (off count : Nat)
  | scatter (dst src : BitVec 256) (cs : List Nat) (rows : List Nat) (ordered : Bool)
  | scatterList (dst src : BitVec 256) (cs : List Nat) (off count : Nat) (ordered : Bool)
  | tsplit (dst src : BitVec 256) (cd cs : List Nat)
  /-- tile, A, B (one operand, or four quarters), increments, steps, redundant -/
  | mma (tile : Nat) (a : Quarter) (bs : List Quarter) (inc : List Int) (n : Nat) (redundant : Bool)
  /-- tile, handle, coordinates, clear, status register -/
  | drain (tile : Nat) (h : BitVec 256) (q : List Nat) (clr : Bool) (st : Code)
  /-- tile, first register, width, column, row block, clear, status register, lanes -/
  | drainReg (tile : Nat) (d : Nat) (w col q : Nat) (clr : Bool) (st : Code) (lanes : Mask)
  | load (tile : Nat) (h : BitVec 256) (q : List Nat)
  | loadReg (tile : Nat) (vals : Assoc Word)
  | kstore (ix : Index) (t0 koff voff n : Nat) (strict val : Bool)
  | bgather (ix : Index) (sig q0 q1 q2 budget dist : Nat) (trunc : Bool)
  deriving DecidableEq, Repr

/-- A request to another device made by an access that is completed within its step, which no response has met: the core that made
it, if one did, the system physical address, and the cycles counted since (R391). -/
structure Asked where
  core : Option Nat
  pa : Nat
  sent : Nat
  deriving DecidableEq, Repr

/-- The progress of a BGATHER (R329 to R331): buckets still to visit, the next line of the chain being visited with the
number of extension lines before it, ids reached and not yet treated, tokens gathered, buckets visited, flags, whether it has
stopped. In GATHER and SCATTER `ids` are the rows that met a cause, and in SCATTER `todo` are the lines to be written. -/
structure Gathering where
  todo : List Nat
  next : Option (Nat × Nat)
  ids : List Nat
  count : Nat
  visited : Nat
  flags : Nat
  stop : Bool
  deriving DecidableEq, Repr

/-- A line as an engine operation has read it (R249): place and line of 128 bytes, the bytes, which of its words of 4 bytes are
poisoned or uncorrectable; or a line that the clearance has denied, whose event is logged (R222). -/
structure Snap where
  place : Place
  line : Nat
  /-- the line of the address that it was read by, in scratchpad or global memory -/
  va : Nat
  bytes : List Byte
  bad : List Nat
  denied : Bool
  clr : Option DWord
  deriving DecidableEq, Repr

/-- An engine operation (R285, R301, R325, R328). -/
structure EngOp where
  w : Nat
  core : Nat
  path : Nat
  pathMask : Mask
  pc : DWord
  kind : EngKind
  /-- its number among the warp's copies or tile operations (R294) -/
  no : Nat
  tok : Option Nat
  bar : Option Nat
  clearance : Option DWord
  asid : Nat
  principal : Nat
  yld : Option DWord
  /-- tasks done so far and in all -/
  done : Nat
  total : Nat
  cause : Option HeldCause
  further : Nat
  /-- paused on a page not present (R294): VA and ticket -/
  paused : Option (Nat × Nat)
  /-- rows that met a cause, for the arrival of GATHER (R289) -/
  gath : Gathering
  /-- destination lines still to be written (R248): a global one by tag ASID and line number, as `.line` and 0 whatever its home; a
  line of 128 bytes within a scratchpad -/
  owned : List (Place × Nat)
  /-- destination lines still to be written whose ownership is recalled (R230, R295): only the issuing warp waits for them -/
  bound : List (Place × Nat)
  /-- source lines read so far, each one snapshot (R249) -/
  snap : List Snap
  /-- complete: its writes are performed and its token done; kept while a cause is undelivered -/
  complete : Bool
  deriving DecidableEq, Repr

/-! ## Cores and dies -/

/-- What one core holds besides its warps. Sparse: an unlisted core holds `Core.reset`. -/
structure CoreState where
  l1 : List L1Line
  /-- 16 KiB units lent to L1 (R207) -/
  lent : Nat
  /-- units admission has asked back and that are not yet reserved -/
  reclaim : Nat
  /-- rotation pointers by partition × 2 + pipe (R165) -/
  pointers : List Nat
  /-- cached clearances, most recently used first (R223): tag ASID, address, the bitmap as a number -/
  clearances : List (Nat × DWord × Nat)
  /-- sequence number of tickets (R352) -/
  ticket : Nat
  /-- corrected soft errors (R380) -/
  soft : Nat
  /-- lane-cycle counters by bin × 8 + class (R379) -/
  bins : Assoc Nat
  deriving DecidableEq, Repr

def CoreState.reset : CoreState :=
  { l1 := [], lent := 96, reclaim := 0, pointers := [0, 0, 0, 0, 0, 0, 0, 0], clearances := [], ticket := 0, soft := 0,
    bins := [] }

/-- The context registers of one ASID (R351, R364). -/
structure Ctx where
  frames : DWord
  permlog : DWord
  wdog : Word
  hlimit : Word
  save : DWord
  overdue : Word
  preempt : Word
  debug : Word
  replay : DWord
  bp : List DWord
  wp : DWord
  halt : Word
  /-- the context is tagged (R402) -/
  tagged : Bool
  /-- the context holds launch privilege (R68, R156) -/
  launchPriv : Bool
  deriving DecidableEq, Repr

def Ctx.reset : Ctx :=
  { frames := 0, permlog := 0, wdog := 0, hlimit := 0, save := 0, overdue := 0, preempt := 0, debug := 0, replay := 0,
    bp := [0, 0, 0, 0], wp := 0, halt := 0, tagged := false, launchPriv := false }

/-- The bound bin table (R379). -/
structure Bins where
  asid : Nat
  ranges : List (Nat × Nat)
  deriving DecidableEq, Repr

/-- What a ticket names (R352). -/
inductive TicketOf where
  | warp (w : Nat)
  | path (w p : Nat)
  | engine (e : Nat)
  | distributor (launch : Nat)
  deriving DecidableEq, Repr

/-- Who accesses: core, ASID, team, principal, clearance (R220), and the log's naming of the requester (R222). -/
structure Who where
  core : Nat
  slot : Nat
  path : Nat
  asid : Nat
  principal : Nat
  team : Option Nat
  clr : Option DWord
  deriving DecidableEq, Repr

/-- A permission event that waits until its log can be reached (R216, R222, R248): the requester, the 32 bytes. -/
structure HeldEvent where
  who : Who
  bytes : List Byte
  deriving DecidableEq, Repr

/-- A fault log entry that waits for room, or for a repaired log after an append that met a cause (R353): its 128 bytes. -/
structure HeldEntry where
  bytes : List Byte
  failing : Bool
  deriving DecidableEq, Repr

/-! ## Start, power, fabric -/

/-- Progress of the staged start (R397): the last of its parts that is done. -/
inductive Boot where
  /-- before power-good, or after the controller removed power (R401) -/
  | off
  /-- stage 0 has ended or failed, or stage 1 is under way -/
  | stage0
  /-- all dies are done -/
  | stage1
  /-- the supervisor context has been started -/
  | stage2
  /-- launches are accepted -/
  | stage3
  deriving DecidableEq, Repr

/-- The lock state (R395, R402). -/
inductive Lock where
  | locked
  | nonSecure
  | full
  deriving DecidableEq, Repr

/-- The firmware image presented to secure boot (R397, R399): whether it verifies, the bytes it places in HBM stack 0,
the ASID table base, the kernel header and argument block, the mailbox word, the BAR2 window base. -/
structure Firmware where
  verifies : Bool
  bytes : List (Nat × Byte)
  asidTable : Nat
  header : DWord
  args : DWord
  mailbox : Nat
  winbase : DWord
  lock : Lock
  deriving DecidableEq, Repr

/-- Physical conditions outside the machine that start and enumeration find (DESIGN CHOICE, log entry 13). -/
structure Hardware where
  /-- dies that fail at stage 1 -/
  dieFail : BitVec 4
  /-- a slice, bridge station or translation unit fails self-test -/
  pkgFail : Bool
  /-- saved training results are within the band of R397 -/
  inBand : BitVec 4
  /-- the device number that UALink training gives (R4, R388) -/
  device : BitVec 14
  /-- capacities behind the CXL ports in bytes (R208) -/
  cxl : List Nat
  /-- devices of the domain reached over UALink, and their failed dies (R387, R391) -/
  peers : List Nat
  peerFailed : Assoc (BitVec 4)
  /-- cores whose matrix array can give different results in its two halves (R311) -/
  arrays : List Nat
  order : Nat
  stepping : Nat
  deriving DecidableEq, Repr

/-- Power states (R400). -/
inductive PowerState where
  | run
  | idle
  | gated
  | retention
  deriving DecidableEq, Repr

/-- State of the route to a peer (R391). -/
inductive Route where
  | up
  /-- known to be down before a request is sent -/
  | down
  /-- down, but requests are still sent and get no response -/
  | silent
  deriving DecidableEq, Repr

/-! ## The state -/

structure State where
  /-- memory by system physical address -/
  mem : Memory
  /-- poisoned 32-byte granules of memory (address div 32) (R360) -/
  poison : Assoc Bool
  /-- the issue record -/
  cur : Option Cur
  /-- steps the outside world makes, in order -/
  inputs : List Instr
  /-- counter of the free values -/
  free : Nat
  /-- core cycles, and `clock` (R25) -/
  cycle : Nat
  clock : DWord
  /-- warps by core_id × 64 + slot -/
  warps : Assoc Warp
  teams : Assoc Team
  launches : Assoc Launch
  /-- per die: launch numbers (R153), and the order count of its queues -/
  launchNo : List Word
  /-- identities not yet used for launches, teams, operations, accesses, misses -/
  fresh : Nat
  /-- L2, translation caches, misses, present core-pinned pages, stamps -/
  l2 : List L2Line
  tlb : List TlbEntry
  misses : Assoc Miss
  pinned : List Pinned
  stamps : List Stamp
  /-- performed strong accesses, and what strong writes tell (R245; the model's own) -/
  strong : List Strong
  told : List Told
  /-- the next read that completes within its step loses its response (R359): of the fabric, or of a CXL link -/
  lost : Option Bool
  /-- requests that accesses within a step have made to other devices and that stand unanswered (R391) -/
  asked : List Asked
  /-- pending accesses, fences and outstanding instructions -/
  accesses : Assoc Access
  fences : List Fence
  outs : Assoc OutOp
  /-- engine operations in the order posted -/
  engines : Assoc EngOp
  /-- cores, sparse -/
  cores : Assoc CoreState
  /-- context registers by ASID, sparse -/
  ctx : Assoc Ctx
  faultlog : DWord
  heldLog : List HeldEntry
  heldEvents : List HeldEvent
  tickets : Assoc TicketOf
  bins : Option Bins
  /-- live set (R211) and ASID table base -/
  live : BitVec 512
  asidTable : Nat
  /-- start and host attachment (R395 to R399) -/
  boot : Boot
  stage : Nat
  startFailed : Bool
  warm : Bool
  selftest : Bool
  verified : Option Firmware
  flash : Option Firmware
  hw : Hardware
  failed : BitVec 4
  throttled : BitVec 4
  /-- by how many halvings each die's clock is slowed (R401), and the cycles so far in which it had no edge for that -/
  slow : Assoc Nat
  skipped : Assoc Nat
  lock : Lock
  mbox : Word
  winbase : DWord
  mailbox : Nat
  /-- power states by block code, and the cycle of each block's last activity -/
  power : Assoc PowerState
  active : Assoc Nat
  /-- scale-up domain (R388 to R392) -/
  device : Nat
  cxl : List Nat
  routes : Assoc Route
  peerHold : Assoc Bool
  deriving DecidableEq, Repr

/-- Outcomes that end a run. -/
inductive Fault where
  /-- raised by a meaning when no path issues (`State.cur` is none or names none); safe -/
  | noIssuingPath
  deriving DecidableEq, Repr

/-- Steps the machine cannot make. -/
inductive Refusal where
  /-- an instruction without a meaning; safe -/
  | notModelled (mnemonic : String)
  /-- raised by the meaning of a step that no instruction word starts, when its condition does not hold; safe -/
  | notEnabled
  deriving DecidableEq, Repr

/-- The machine before power-good (R395, R397): every register at its reset value, nothing listed
(DESIGN CHOICE, log entry 10). -/
def State.reset : State :=
  { mem := [], poison := [], cur := none, inputs := [], free := 0, cycle := 0, clock := 0, warps := [], teams := [],
    launches := [], launchNo := [0, 0, 0, 0], fresh := 1, l2 := [], tlb := [], misses := [], pinned := [], stamps := [],
    strong := [], told := [], lost := none, asked := [], accesses := [], fences := [], outs := [], engines := [], cores := [], ctx := [],
    faultlog := 0, heldLog := [], heldEvents := [], tickets := [], bins := none, live := 1, asidTable := 0, boot := .off, stage := 0, startFailed := false,
    warm := false, selftest := false, verified := none, flash := none,
    hw := { dieFail := 0, pkgFail := false, inBand := 0, device := 0, cxl := [0, 0, 0, 0], peers := [],
            peerFailed := [], arrays := [], order := 0, stepping := 0 },
    failed := 0, throttled := 0, slow := [], skipped := [], lock := .locked, mbox := 0, winbase := 0, mailbox := 0, power := [], active := [],
    device := 0, cxl := [0, 0, 0, 0], routes := [], peerHold := [] }

end Sys2Proof.Machine
end

