-- ==== Sys2Proof/Machine/Store.lean ====
section
/-!
DEFINITION. Operations on sparse data and on memory, byte order (R30, R135), and the accessors of the state's tables.
Every write keeps the canonical form: keys strictly rising, no entry equal to what an unlisted key reads as.
-/
namespace Sys2Proof.Machine

/-! ## Sparse data -/

/-- The entry listed under a key. -/
def Assoc.at? {α : Type} (m : Assoc α) (k : Nat) : Option α :=
  match m with
  | [] => none
  | (j, x) :: r => if j == k then some x else Assoc.at? r k

/-- The entry of a key, `d` where none is listed. -/
def Assoc.get {α : Type} (m : Assoc α) (d : α) (k : Nat) : α := (Assoc.at? m k).getD d

/-- Drop a key. -/
def Assoc.erase {α : Type} (m : Assoc α) (k : Nat) : Assoc α :=
  match m with
  | [] => []
  | (j, x) :: r => if j == k then Assoc.erase r k else (j, x) :: Assoc.erase r k

/-- List an entry under a key, in key order. -/
def Assoc.put {α : Type} (m : Assoc α) (k : Nat) (v : α) : Assoc α :=
  match m with
  | [] => [(k, v)]
  | (j, x) :: r => if k < j then (k, v) :: (j, x) :: r else if j == k then (k, v) :: r else (j, x) :: Assoc.put r k v

/-- Set a key's value where unlisted keys hold `d`: the value `d` is not listed. -/
def Assoc.set {α : Type} [DecidableEq α] (m : Assoc α) (d : α) (k : Nat) (v : α) : Assoc α :=
  if v = d then Assoc.erase m k else Assoc.put m k v

/-- Change the entry of a listed key. -/
def Assoc.upd {α : Type} (m : Assoc α) (k : Nat) (f : α → α) : Assoc α :=
  match m with
  | [] => []
  | (j, x) :: r => if j == k then (j, f x) :: r else (j, x) :: Assoc.upd r k f

/-- The keys in order. -/
def Assoc.keys {α : Type} (m : Assoc α) : List Nat := m.map (fun e => e.1)

/-- The listed values in key order. -/
def Assoc.vals {α : Type} (m : Assoc α) : List α := m.map (fun e => e.2)

/-- Change element `n` of a list. -/
def listUpd {α : Type} (l : List α) (n : Nat) (f : α → α) : List α :=
  match l, n with
  | [], _ => []
  | x :: r, 0 => f x :: r
  | x :: r, n + 1 => x :: listUpd r n f

/-- The numbers from `a`, `n` of them. -/
def numsFrom (a n : Nat) : List Nat :=
  match n with
  | 0 => []
  | n + 1 => a :: numsFrom (a + 1) n

/-- The first element of a list for which `f` answers. -/
def firstSome {α β : Type} (l : List α) (f : α → Option β) : Option β :=
  match l with
  | [] => none
  | x :: r => match f x with
    | some y => some y
    | none => firstSome r f

/-! ## Memory -/

/-- What an unlisted byte of memory reads as (DESIGN CHOICE, log entry 1). -/
def Memory.unlisted : Byte := 0

/-- The byte at a system physical address. -/
def Memory.read (m : Memory) (a : Nat) : Byte := Assoc.get m Memory.unlisted a

/-- Write one byte of memory, keeping the canonical form. -/
def Memory.write (m : Memory) (a : Nat) (b : Byte) : Memory := Assoc.set m Memory.unlisted a b

/-- The addresses rise strictly. -/
def Memory.rising : Memory → Bool
  | [] => true
  | [_] => true
  | (a, _) :: (b, y) :: r => decide (a < b) && Memory.rising ((b, y) :: r)

/-- The canonical form of memory. -/
def Memory.wf (m : Memory) : Bool := Memory.rising m && m.all (fun c => c.2 != Memory.unlisted)

/-- `n` bytes from an address on. -/
def Memory.readBytes (m : Memory) (a n : Nat) : List Byte := (numsFrom a n).map (Memory.read m)

/-- Write bytes from an address on. -/
def Memory.writeBytes (m : Memory) (a : Nat) (bs : List Byte) : Memory :=
  match bs with
  | [] => m
  | b :: r => Memory.writeBytes (Memory.write m a b) (a + 1) r

/-! ## Little-endian numbers (R135) -/

/-- The number of little-endian bytes. -/
def natOfBytes (bs : List Byte) : Nat :=
  match bs with
  | [] => 0
  | b :: r => b.toNat + 256 * natOfBytes r

/-- The `n` little-endian bytes of a number. -/
def bytesOfNat (n v : Nat) : List Byte :=
  match n with
  | 0 => []
  | n + 1 => BitVec.ofNat 8 v :: bytesOfNat n (v / 256)

/-- Bytes `off` to `off + n - 1` of a list, zero past its end. -/
def sliceBytes (bs : List Byte) (off n : Nat) : List Byte :=
  (numsFrom off n).map (fun k => (bs[k]?).getD 0)

/-- The number in `n` bytes at an offset of a record. -/
def fieldOf (bs : List Byte) (off n : Nat) : Nat := natOfBytes (sliceBytes bs off n)

/-- Replace bytes from an offset on. -/
def patchBytes (bs : List Byte) (off : Nat) (new : List Byte) : List Byte :=
  match new with
  | [] => bs
  | b :: r => patchBytes (listUpd bs off (fun _ => b)) (off + 1) r

/-- `n` zero bytes. -/
def zeros (n : Nat) : List Byte := List.replicate n 0

/-! ## Accessors -/

/-- The next free value (DESIGN CHOICE, log entry 9). -/
def State.freeVal (s : State) : Nat := Config.freeNat s.free

/-- The state after a free value is taken. -/
def State.takeFree (s : State) : State := { s with free := s.free + 1 }

/-- A fresh identity. -/
def State.newId (s : State) : Nat × State := (s.fresh, { s with fresh := s.fresh + 1 })

/-- The warp under a key. -/
def State.warp? (s : State) (k : Nat) : Option Warp := Assoc.at? s.warps k

/-- Change a warp. -/
def State.updWarp (s : State) (k : Nat) (f : Warp → Warp) : State := { s with warps := Assoc.upd s.warps k f }

/-- Replace a warp. -/
def State.setWarp (s : State) (k : Nat) (w : Warp) : State := s.updWarp k (fun _ => w)

/-- Change a path of a warp. -/
def Warp.updPath (w : Warp) (p : Nat) (f : Path → Path) : Warp := { w with paths := listUpd w.paths p f }

/-- Change a path of a warp in the state. -/
def State.updPath (s : State) (k p : Nat) (f : Path → Path) : State := s.updWarp k (fun w => w.updPath p f)

/-- The path of a warp under an index. -/
def Warp.path (w : Warp) (p : Nat) : Path := (w.paths[p]?).getD Path.empty

/-- The core of a warp key (R150). -/
def coreOfKey (k : Nat) : Nat := k / Config.slotsPerCore
/-- The slot of a warp key. -/
def slotOfKey (k : Nat) : Nat := k % Config.slotsPerCore
/-- The die of a core (R25). -/
def dieOfCore (c : Nat) : Nat := c / Config.coresPerDie

/-- A core's state. -/
def State.core (s : State) (c : Nat) : CoreState := Assoc.get s.cores CoreState.reset c

/-- Change a core's state. -/
def State.updCore (s : State) (c : Nat) (f : CoreState → CoreState) : State :=
  { s with cores := Assoc.set s.cores CoreState.reset c (f (s.core c)) }

/-- The context registers of an ASID. -/
def State.ctxOf (s : State) (a : Nat) : Ctx := Assoc.get s.ctx Ctx.reset a

/-- Change the context registers of an ASID. -/
def State.updCtx (s : State) (a : Nat) (f : Ctx → Ctx) : State :=
  { s with ctx := Assoc.set s.ctx Ctx.reset a (f (s.ctxOf a)) }

/-- A team. -/
def State.team? (s : State) (t : Nat) : Option Team := Assoc.at? s.teams t

/-- Change a team. -/
def State.updTeam (s : State) (t : Nat) (f : Team → Team) : State := { s with teams := Assoc.upd s.teams t f }

/-- A workgroup of a team. -/
def State.group? (s : State) (t g : Nat) : Option Group := (s.team? t).bind (fun x => x.groups[g]?)

/-- Change a workgroup of a team. -/
def State.updGroup (s : State) (t g : Nat) (f : Group → Group) : State :=
  s.updTeam t (fun x => { x with groups := listUpd x.groups g f })

/-- A launch. -/
def State.launch? (s : State) (l : Nat) : Option Launch := Assoc.at? s.launches l

/-- Change a launch. -/
def State.updLaunch (s : State) (l : Nat) (f : Launch → Launch) : State :=
  { s with launches := Assoc.upd s.launches l f }

/-- An ASID is live (R211). -/
def State.isLive (s : State) (a : Nat) : Bool := s.live.getLsbD a

end Sys2Proof.Machine
end

