-- ==== Sys2Proof/Machine/Flags.lean ====
section
/-!
DEFINITION. Floating-point formats, rounding and the exception flags (R31 to R41, R106 to R119): values are held exactly
as sign, mantissa and power of two, one function rounds, and every operation reports the flags of R38.
-/
namespace Sys2Proof.Machine

/-! ## Formats -/

/-- The formats of R31. -/
inductive FpFmt where
  | fp32
  | fp16
  | bf16
  | e4m3
  | e5m2
  deriving DecidableEq, Repr

/-- Fraction bits. -/
def FpFmt.frac (f : FpFmt) : Nat :=
  match f with
  | .fp32 => 23
  | .fp16 => 10
  | .bf16 => 7
  | .e4m3 => 3
  | .e5m2 => 2

/-- Exponent bits. -/
def FpFmt.exp (f : FpFmt) : Nat :=
  match f with
  | .fp32 => 8
  | .fp16 => 5
  | .bf16 => 8
  | .e4m3 => 4
  | .e5m2 => 5

/-- Exponent bias. -/
def FpFmt.bias (f : FpFmt) : Nat := 2 ^ (f.exp - 1) - 1

/-- Width in bits. -/
def FpFmt.width (f : FpFmt) : Nat := 1 + f.exp + f.frac

/-- The pattern of +infinity; for E4M3 the pattern above its largest finite value (R31). -/
def FpFmt.infBits (f : FpFmt) : Nat :=
  match f with
  | .e4m3 => 0x7F
  | _ => (2 ^ f.exp - 1) * 2 ^ f.frac

/-- The canonical NaN (R31). -/
def FpFmt.nanBits (f : FpFmt) : Nat :=
  match f with
  | .e4m3 => 0x7F
  | _ => f.infBits + 2 ^ (f.frac - 1)

/-- The power of two of the lowest bit of a subnormal. -/
def FpFmt.emin (f : FpFmt) : Int := 1 - (f.bias : Int) - (f.frac : Int)

/-- The sign bit's weight. -/
def FpFmt.signBit (f : FpFmt) : Nat := 2 ^ (f.width - 1)

/-- The flags of one result, laid out as `fpflags` (R25). -/
abbrev FpFlags := BitVec 5

def FpFlags.invalid : FpFlags := 0x01
def FpFlags.divZero : FpFlags := 0x02
def FpFlags.overflow : FpFlags := 0x04
def FpFlags.underflow : FpFlags := 0x08
def FpFlags.inexact : FpFlags := 0x10

/-- A value: a NaN (sign, fraction, signalling), an infinity, or (-1)^sign × m × 2^e. -/
inductive Fp where
  | nan (sign : Bool) (frac : Nat) (snan : Bool)
  | inf (sign : Bool)
  | fin (sign : Bool) (m : Nat) (e : Int)
  deriving DecidableEq, Repr

/-- The value of a pattern (R32). -/
def FpFmt.unpack (f : FpFmt) (bits : Nat) : Fp :=
  let s := decide (bits / f.signBit % 2 = 1)
  let mag := bits % f.signBit
  let ex := mag / 2 ^ f.frac
  let fr := mag % 2 ^ f.frac
  if f = .e4m3 then
    if mag = 0x7F then .nan s 7 false
    else if ex = 0 then .fin s fr f.emin
    else .fin s (fr + 2 ^ f.frac) (f.emin + (ex : Int) - 1)
  else if ex = 2 ^ f.exp - 1 then
    if fr = 0 then .inf s else .nan s fr (decide (fr / 2 ^ (f.frac - 1) = 0))
  else if ex = 0 then .fin s fr f.emin
  else .fin s (fr + 2 ^ f.frac) (f.emin + (ex : Int) - 1)

/-- A pattern with its sign. -/
def FpFmt.sign (f : FpFmt) (s : Bool) (mag : Nat) : Nat := if s then mag + f.signBit else mag

/-- Number of bits of a positive number, less one. -/
def topBit (n : Nat) : Nat := Nat.log2 n

/-- Divide by 2^k rounding to an integer in a mode (R36): 0 nearest-even, 1 toward zero, 2 down, 3 up. -/
def roundShift (mode : Nat) (s : Bool) (m k : Nat) : Nat :=
  let q := m / 2 ^ k
  let r := m % 2 ^ k
  let up :=
    match mode with
    | 0 => decide (2 ^ k < 2 * r) || (decide (2 ^ k = 2 * r) && decide (q % 2 = 1))
    | 1 => false
    | 2 => s && decide (r ≠ 0)
    | _ => !s && decide (r ≠ 0)
  if up then q + 1 else q

/-- What an overflow delivers (R36, R37). -/
def FpFmt.overflowBits (f : FpFmt) (mode : Nat) (s : Bool) : Nat :=
  if f = .e4m3 then f.sign s 0x7E
  else
    let toInf :=
      match mode with
      | 0 => true
      | 1 => false
      | 2 => s
      | _ => !s
    if toInf then f.sign s f.infBits else f.sign s (f.infBits - 1)

/-- Round m × 2^e once into a format (R36, R37, R38): the pattern and the flags. -/
def FpFmt.round (f : FpFmt) (mode : Nat) (s : Bool) (m : Nat) (e : Int) : Nat × FpFlags :=
  if m = 0 then (f.sign s 0, 0)
  else
    let eu : Int := e + (topBit m : Int) - (f.frac : Int)
    let t : Int := if eu < f.emin then f.emin else eu
    let shift : Int := t - e
    let q := if shift ≤ 0 then m * 2 ^ (-shift).toNat else roundShift mode s m shift.toNat
    let exact := decide (shift ≤ 0) || decide (m % 2 ^ shift.toNat = 0)
    let mag := (t - f.emin).toNat * 2 ^ f.frac + q
    if f.infBits ≤ mag then (f.overflowBits mode s, FpFlags.overflow ||| FpFlags.inexact)
    else
      let su : Int := eu - e
      let qu := if su ≤ 0 then m * 2 ^ (-su).toNat else roundShift mode s m su.toNat
      let tiny := decide (eu < f.emin) && !(decide (qu = 2 ^ (f.frac + 1)) && decide (eu + 1 = f.emin))
      (f.sign s mag, if exact then 0 else if tiny then FpFlags.inexact ||| FpFlags.underflow else FpFlags.inexact)

/-- A NaN carried into a format: sign and high fraction bits kept, quiet bit set (R35, R41). -/
def FpFmt.carryNan (src dst : FpFmt) (s : Bool) (fr : Nat) : Nat :=
  if dst = .e4m3 then dst.sign s 0x7F
  else
    let scaled := if src.frac ≤ dst.frac then fr * 2 ^ (dst.frac - src.frac) else fr / 2 ^ (src.frac - dst.frac)
    dst.sign s (dst.infBits + (scaled ||| 2 ^ (dst.frac - 1)))

/-- A NaN operand. -/
def Fp.isNan : Fp → Bool
  | .nan _ _ _ => true
  | _ => false
/-- A signalling NaN operand. -/
def Fp.isSnan : Fp → Bool
  | .nan _ _ s => s
  | _ => false
/-- A zero. -/
def Fp.isZero : Fp → Bool
  | .fin _ m _ => m == 0
  | _ => false
/-- An infinity. -/
def Fp.isInf : Fp → Bool
  | .inf _ => true
  | _ => false
/-- The sign. -/
def Fp.neg : Fp → Bool
  | .nan s _ _ => s
  | .inf s => s
  | .fin s _ _ => s
/-- The value with its sign inverted. -/
def Fp.flip : Fp → Fp
  | .nan s f q => .nan (!s) f q
  | .inf s => .inf (!s)
  | .fin s m e => .fin (!s) m e

/-- The first NaN of the operands in order, carried into the result format, with invalid if any of them signals (R35,
R38). -/
def firstNan (src dst : FpFmt) (ops : List Fp) : Option (Nat × FpFlags) :=
  match ops.find? Fp.isNan with
  | some (.nan s fr _) => some (src.carryNan dst s fr, if ops.any Fp.isSnan then FpFlags.invalid else 0)
  | _ => none

/-- The canonical NaN with invalid (R35, R38). -/
def FpFmt.bad (f : FpFmt) : Nat × FpFlags := (f.nanBits, FpFlags.invalid)

/-- An exact signed sum of two dyadic numbers: the sign of the sum (none for zero), mantissa, exponent. -/
def addExact (s1 : Bool) (m1 : Nat) (e1 : Int) (s2 : Bool) (m2 : Nat) (e2 : Int) : Int × Int :=
  let e := if e1 < e2 then e1 else e2
  let a : Int := (m1 * 2 ^ (e1 - e).toNat : Nat)
  let b : Int := (m2 * 2 ^ (e2 - e).toNat : Nat)
  ((if s1 then -a else a) + (if s2 then -b else b), e)

/-- Round an exact sum; an exact zero takes the sign of R36. -/
def FpFmt.roundSum (f : FpFmt) (mode : Nat) (s1 s2 : Bool) (x : Int × Int) : Nat × FpFlags :=
  if x.1 = 0 then (f.sign (if s1 = s2 then s1 else decide (mode = 2)) 0, 0)
  else f.round mode (decide (x.1 < 0)) x.1.natAbs x.2

/-- a × b + c, rounded once into `dst` (R36, R109); NaN operands in the order `nans`. Operands were read in `src`. -/
def fmaInto (src dst : FpFmt) (mode : Nat) (nans : List Fp) (a b c : Fp) : Nat × FpFlags :=
  if !a.isNan && !b.isNan && ((a.isZero && b.isInf) || (a.isInf && b.isZero)) then dst.bad
  else match firstNan src dst nans with
    | some r => r
    | none =>
      match a, b, c with
      | .fin sa ma ea, .fin sb mb eb, .fin sc mc ec =>
        dst.roundSum mode (sa != sb) sc (addExact (sa != sb) (ma * mb) (ea + eb) sc mc ec)
      | .fin _ _ _, .fin _ _ _, _ => (dst.sign c.neg dst.infBits, 0)
      | _, _, .inf sc => if (a.neg != b.neg) = sc then (dst.sign sc dst.infBits, 0) else dst.bad
      | _, _, _ => (dst.sign (a.neg != b.neg) dst.infBits, 0)

/-- FFMA in one format. -/
def FpFmt.fma (f : FpFmt) (mode : Nat) (a b c : Nat) : Nat × FpFlags :=
  fmaInto f f mode [f.unpack a, f.unpack b, f.unpack c] (f.unpack a) (f.unpack b) (f.unpack c)

/-- One element of HFMA2 (R117): a NaN among the operands gives the result by R35 although 0 × ∞ is invalid; the exception of R109 is
that of FFMA and FFMC. -/
def FpFmt.fmaElem (f : FpFmt) (mode : Nat) (a b c : Nat) : Nat × FpFlags :=
  let x := f.unpack a
  let y := f.unpack b
  match firstNan f f [x, y, f.unpack c] with
  | some r => (r.1, if (x.isZero && y.isInf) || (x.isInf && y.isZero) then r.2 ||| FpFlags.invalid else r.2)
  | none => f.fma mode a b c

/-- a + b on values. -/
def addInto (src dst : FpFmt) (mode : Nat) (a b : Fp) : Nat × FpFlags :=
  match firstNan src dst [a, b] with
  | some r => r
  | none =>
    match a, b with
    | .fin sa ma ea, .fin sb mb eb => dst.roundSum mode sa sb (addExact sa ma ea sb mb eb)
    | .inf sa, .inf sb => if sa = sb then (dst.sign sa dst.infBits, 0) else dst.bad
    | .inf sa, _ => (dst.sign sa dst.infBits, 0)
    | _, _ => (dst.sign b.neg dst.infBits, 0)

/-- FADD (R108). -/
def FpFmt.add (f : FpFmt) (mode : Nat) (a b : Nat) : Nat × FpFlags := addInto f f mode (f.unpack a) (f.unpack b)

/-- FSUB (R108): a NaN in b keeps its own sign. -/
def FpFmt.sub (f : FpFmt) (mode : Nat) (a b : Nat) : Nat × FpFlags :=
  let y := f.unpack b
  addInto f f mode (f.unpack a) (if y.isNan then y else y.flip)

/-- FMUL (R108). -/
def FpFmt.mul (f : FpFmt) (mode : Nat) (a b : Nat) : Nat × FpFlags :=
  let x := f.unpack a
  let y := f.unpack b
  match firstNan f f [x, y] with
  | some r => r
  | none =>
    match x, y with
    | .fin sa ma ea, .fin sb mb eb => f.round mode (sa != sb) (ma * mb) (ea + eb)
    | _, _ => if x.isZero || y.isZero then f.bad else (f.sign (x.neg != y.neg) f.infBits, 0)

/-- A quotient of positive numbers as a dyadic number whose lowest bit says that it is not exact. -/
def quotient (ma : Nat) (ea : Int) (mb : Nat) (eb : Int) : Nat × Int :=
  let n := ma * 2 ^ 64
  (2 * (n / mb) + (if n % mb = 0 then 0 else 1), ea - eb - 65)

/-- FDIV (R108). -/
def FpFmt.div (f : FpFmt) (mode : Nat) (a b : Nat) : Nat × FpFlags :=
  let x := f.unpack a
  let y := f.unpack b
  match firstNan f f [x, y] with
  | some r => r
  | none =>
    match x, y with
    | .fin sa ma ea, .fin sb mb eb =>
      if mb = 0 then
        if ma = 0 then f.bad else (f.sign (sa != sb) f.infBits, FpFlags.divZero)
      else
        let q := quotient ma ea mb eb
        f.round mode (sa != sb) q.1 q.2
    | .inf sa, .fin sb _ _ => (f.sign (sa != sb) f.infBits, 0)
    | .fin sa _ _, .inf sb => (f.sign (sa != sb) 0, 0)
    | _, _ => f.bad

/-- The integer square root, bit by bit from bit `k` down. -/
def isqrtFrom (n : Nat) (k : Nat) (r : Nat) : Nat :=
  match k with
  | 0 => r
  | k + 1 =>
    let t := r + 2 ^ k
    isqrtFrom n k (if t * t ≤ n then t else r)

/-- The square root of m × 2^e as a dyadic number with `2 × extra` more bits, whose lowest bit says that it is not
exact. -/
def sqrtDyadic (m : Nat) (e : Int) (extra : Nat) : Nat × Int :=
  let odd := decide (e % 2 ≠ 0)
  let m1 := (if odd then 2 * m else m) * 2 ^ (2 * extra)
  let e1 := (if odd then e - 1 else e) / 2 - (extra : Int)
  let r := isqrtFrom m1 (topBit m1 / 2 + 1) 0
  (2 * r + (if r * r = m1 then 0 else 1), e1 - 1)

/-- FSQRT (R110). -/
def FpFmt.sqrt (f : FpFmt) (mode : Nat) (a : Nat) : Nat × FpFlags :=
  let x := f.unpack a
  match firstNan f f [x] with
  | some r => r
  | none =>
    match x with
    | .fin s m e =>
      if m = 0 then (f.sign s 0, 0)
      else if s then f.bad
      else
        let q := sqrtDyadic m e 40
        f.round mode false q.1 q.2
    | _ => if x.neg then f.bad else (f.infBits, 0)

/-- FROUND (R110). -/
def FpFmt.rint (f : FpFmt) (mode : Nat) (a : Nat) : Nat × FpFlags :=
  let x := f.unpack a
  match firstNan f f [x] with
  | some r => r
  | none =>
    match x with
    | .fin s m e =>
      if 0 ≤ e then (a % 2 ^ f.width, 0)
      else
        let q := roundShift mode s m (-e).toNat
        ((f.round 0 s q 0).1, if m % 2 ^ (-e).toNat = 0 then 0 else FpFlags.inexact)
    | _ => (a % 2 ^ f.width, 0)

/-- FSCALE (R110): a × 2^b. A shift beyond 1000 either way rounds as 1000 does. -/
def FpFmt.scale (f : FpFmt) (mode : Nat) (a : Nat) (b : Int) : Nat × FpFlags :=
  let x := f.unpack a
  match firstNan f f [x] with
  | some r => r
  | none =>
    match x with
    | .fin s m e => f.round mode s m (e + (if b < -1000 then -1000 else if 1000 < b then 1000 else b))
    | _ => (a % 2 ^ f.width, 0)

/-- The order of two values that are not NaN: a number that grows with them; -0 stands below +0 by one half step. -/
def FpFmt.orderKey (f : FpFmt) (bits : Nat) : Int :=
  let mag := bits % f.signBit
  if bits / f.signBit % 2 = 1 then -(mag : Int) - 1 else mag

/-- FMIN and FMAX (R111). -/
def FpFmt.minMax (f : FpFmt) (wantMax : Bool) (a b : Nat) : Nat × FpFlags :=
  let x := f.unpack a
  let y := f.unpack b
  let fl : FpFlags := if x.isSnan || y.isSnan then FpFlags.invalid else 0
  if x.isNan && y.isNan then (firstNan f f [x, y]).getD f.bad
  else if x.isNan then (b % 2 ^ f.width, fl)
  else if y.isNan then (a % 2 ^ f.width, fl)
  else if (f.orderKey a ≤ f.orderKey b) ≠ (wantMax = true) then (a % 2 ^ f.width, fl)
  else (b % 2 ^ f.width, fl)

/-- The relations of R112. -/
inductive FpRel where
  | eq
  | lt
  | le
  | un
  deriving DecidableEq, Repr

/-- A floating-point compare (R112): the bit and the flags. -/
def FpFmt.compare (f : FpFmt) (rel : FpRel) (a b : Nat) : Bool × FpFlags :=
  let x := f.unpack a
  let y := f.unpack b
  let anyNan := x.isNan || y.isNan
  let anySnan := x.isSnan || y.isSnan
  let zero := x.isZero && y.isZero
  let quiet : FpFlags := if anySnan then FpFlags.invalid else 0
  let loud : FpFlags := if anyNan then FpFlags.invalid else 0
  match rel with
  | .eq => (!anyNan && (zero || decide (f.orderKey a = f.orderKey b)), quiet)
  | .lt => (!anyNan && !zero && decide (f.orderKey a < f.orderKey b), loud)
  | .le => (!anyNan && (zero || decide (f.orderKey a ≤ f.orderKey b)), loud)
  | .un => (anyNan, quiet)

/-- FCLASS (R113). -/
def FpFmt.classify (f : FpFmt) (a : Nat) : Nat :=
  match f.unpack a with
  | .nan _ _ true => 2 ^ 8
  | .nan _ _ false => 2 ^ 9
  | .inf true => 2 ^ 0
  | .inf false => 2 ^ 7
  | .fin s m _ =>
    if m = 0 then (if s then 2 ^ 3 else 2 ^ 4)
    else if m < 2 ^ f.frac then (if s then 2 ^ 2 else 2 ^ 5)
    else (if s then 2 ^ 1 else 2 ^ 6)

/-! ## Conversions (R39 to R41) -/

/-- Float to integer, in the range `lo` to `hi`. -/
def FpFmt.toInt (f : FpFmt) (mode : Nat) (a : Nat) (lo hi : Int) : Int × FpFlags :=
  match f.unpack a with
  | .nan _ _ _ => (0, FpFlags.invalid)
  | .inf s => (if s then lo else hi, FpFlags.invalid)
  | .fin s m e =>
    let q := if 0 ≤ e then m * 2 ^ e.toNat else roundShift mode s m (-e).toNat
    let v : Int := if s then -(q : Int) else q
    if v < lo then (lo, FpFlags.invalid)
    else if hi < v then (hi, FpFlags.invalid)
    else (v, if e < 0 ∧ m % 2 ^ (-e).toNat ≠ 0 then FpFlags.inexact else 0)

/-- Integer to float (R40). -/
def FpFmt.ofInt (f : FpFmt) (mode : Nat) (v : Int) : Nat × FpFlags := f.round mode (decide (v < 0)) v.natAbs 0

/-- Float to float (R41, R37). -/
def FpFmt.convert (src dst : FpFmt) (mode : Nat) (a : Nat) : Nat × FpFlags :=
  match src.unpack a with
  | .nan s fr q => (src.carryNan dst s fr, if q then FpFlags.invalid else 0)
  | .inf s =>
    if dst = .e4m3 then (dst.sign s 0x7E, FpFlags.overflow ||| FpFlags.inexact) else (dst.sign s dst.infBits, 0)
  | .fin s m e => dst.round mode s m e

/-! ## Approximate functions (R114, R115): exact values to 256 bits and more -/

/-- Bits of fraction carried. -/
def apBits : Nat := 256

/-- π × 2^448, rounded down. -/
def piBits : Nat :=
  0x3243f6a8885a308d313198a2e03707344a4093822299f31d0082efa98ec4e6c89452821e638d01377be5466cf34e90c6cc0ac29b7c97c50dd

/-- ln 2 × 2^256, rounded down. -/
def ln2Bits : Nat := 0xb17217f7d1cf79abc9e3b39803f2f6af40f343267298b62d8a0d175b8baafa2b

/-- e^x for x = n / 2^256 in [0, 1): the sum of `k` more terms, the last being `t`, number `i`. -/
def expSeries (n t i k acc : Nat) : Nat :=
  match k with
  | 0 => acc
  | k + 1 =>
    let t1 := t * n / 2 ^ apBits / i
    expSeries n t1 (i + 1) k (acc + t1)

/-- 2^x × 2^256 for x = n / 2^256 in [0, 1). -/
def exp2Frac (n : Nat) : Nat :=
  let y := n * ln2Bits / 2 ^ apBits
  expSeries y (2 ^ apBits) 1 70 (2 ^ apBits)

/-- atanh of z = n / 2^256: the sum of `k` more terms. -/
def atanhSeries (z2 t i k acc : Nat) : Nat :=
  match k with
  | 0 => acc
  | k + 1 => atanhSeries z2 (t * z2 / 2 ^ apBits) (i + 2) k (acc + t / i)

/-- log2 of a number in [1, 2) given as n / 2^256, times 2^256. -/
def log2Frac (n : Nat) : Nat :=
  let z := (n - 2 ^ apBits) * 2 ^ apBits / (n + 2 ^ apBits)
  let ln := 2 * atanhSeries (z * z / 2 ^ apBits) z 1 90 0
  ln * 2 ^ apBits / ln2Bits

/-- Alternating series of sine or cosine: terms t, then t × x² / ((i)(i+1)), signs alternating. -/
def trigSeries (x2 t i k : Nat) (plus : Bool) (acc : Int) : Int :=
  match k with
  | 0 => acc
  | k + 1 =>
    trigSeries x2 (t * x2 / 2 ^ apBits / (i * (i + 1))) (i + 2) k (!plus) (if plus then acc + t else acc - t)

/-- sin x × 2^256 for x = n / 2^256 in [0, 2). -/
def sinFrac (n : Nat) : Int := trigSeries (n * n / 2 ^ apBits) n 2 50 true 0
/-- cos x × 2^256 for x = n / 2^256 in [0, 2). -/
def cosFrac (n : Nat) : Int := trigSeries (n * n / 2 ^ apBits) (2 ^ apBits) 1 50 true 0

/-- The quadrant of x = m × 2^e and the remainder in [0, π/2), times 2^256. -/
def reduceAngle (m : Nat) (e : Int) : Nat × Nat :=
  -- x × 2^448, then quotient and remainder by π/2 × 2^448
  let scaled := if 0 ≤ e then m * 2 ^ (e.toNat + 448) else if (-e).toNat ≤ 448 then m * 2 ^ (448 - (-e).toNat) else 0
  let half := piBits / 2
  (scaled / half % 4, scaled % half / 2 ^ 192)

/-- The approximate functions of R114. -/
inductive ApFn where
  | rcp
  | rsq
  | exp2
  | log2
  | sin
  | cos
  deriving DecidableEq, Repr

/-- A number of the function, for the free part of its result. -/
def ApFn.code (g : ApFn) : Nat :=
  match g with
  | .rcp => 0
  | .rsq => 1
  | .exp2 => 2
  | .log2 => 3
  | .sin => 4
  | .cos => 5

/-- The value of a function at a finite nonzero operand outside its special cases: sign, mantissa, exponent; the last
bit of a mantissa that is not exact is 1. -/
def ApFn.value (g : ApFn) (s : Bool) (m : Nat) (e : Int) : Bool × Nat × Int :=
  let sticky := fun (v : Int) (ex : Int) => (decide (v < 0), 2 * v.natAbs + 1, ex - 1)
  let top : Int := e + (topBit m : Int)
  match g with
  | .rcp =>
    let q := quotient 1 0 m e
    (s, q.1, q.2)
  | .rsq =>
    let q := quotient (2 ^ 200) (-200) m e
    let r := sqrtDyadic q.1 q.2 100
    (false, if q.1 % 2 = 1 ∧ r.1 % 2 = 0 then r.1 + 1 else r.1, r.2)
  | .exp2 =>
    if top < -60 then
      (false, if s then 2 ^ 128 - 1 else 2 ^ 128 + 1, -128)
    else if 20 < top then
      -- beyond the range of every format; 2^±1000 rounds as the exact value does
      (false, 1, if s then -1000 else 1000)
    else
      let scaled : Int := (if 0 ≤ e then m * 2 ^ (e.toNat + apBits) else m * 2 ^ apBits / 2 ^ (-e).toNat : Nat)
      let x := if s then -scaled else scaled
      let k := x / 2 ^ apBits
      let fr := (x % 2 ^ apBits).toNat
      if fr = 0 then (false, 1, k) else sticky (exp2Frac fr) (k - apBits)
  | .log2 =>
    let fr := m * 2 ^ apBits / 2 ^ topBit m
    if fr = 2 ^ apBits then (decide (top < 0), top.natAbs, 0)
    else sticky (top * 2 ^ apBits + log2Frac fr) (-(apBits : Int))
  | .sin =>
    if top < -60 then (s, m * 2 ^ 64 - 1, e - 64)
    else
      let r := reduceAngle m e
      let v :=
        match r.1 with
        | 0 => sinFrac r.2
        | 1 => cosFrac r.2
        | 2 => -sinFrac r.2
        | _ => -cosFrac r.2
      sticky (if s then -v else v) (-(apBits : Int))
  | .cos =>
    if top < -60 then (false, 2 ^ 128 - 1, -128)
    else
      let r := reduceAngle m e
      let v :=
        match r.1 with
        | 0 => cosFrac r.2
        | 1 => -sinFrac r.2
        | 2 => -cosFrac r.2
        | _ => sinFrac r.2
      sticky v (-(apBits : Int))

/-- The special cases of R114, and NaN operands. -/
def ApFn.special (g : ApFn) (f : FpFmt) (x : Fp) : Option (Nat × FpFlags) :=
  match firstNan f f [x] with
  | some r => some r
  | none =>
    match g, x with
    | .rcp, .inf s => some (f.sign s 0, 0)
    | .rcp, .fin s m _ => if m = 0 then some (f.sign s f.infBits, FpFlags.divZero) else none
    | .rsq, .inf s => some (if s then f.bad else (0, 0))
    | .rsq, .fin s m _ =>
      if m = 0 then some (f.sign s f.infBits, FpFlags.divZero) else if s then some f.bad else none
    | .exp2, .inf s => some (if s then 0 else f.infBits, 0)
    | .exp2, .fin _ m _ => if m = 0 then some ((f.round 0 false 1 0).1, 0) else none
    | .log2, .inf s => some (if s then f.bad else (f.infBits, 0))
    | .log2, .fin s m _ =>
      if m = 0 then some (f.sign true f.infBits, FpFlags.divZero) else if s then some f.bad else none
    | .sin, .fin s m _ => if m = 0 then some (f.sign s 0, 0) else none
    | .cos, .fin _ m _ => if m = 0 then some ((f.round 0 false 1 0).1, 0) else none
    | _, _ => some f.bad

/-- A finite FP32 pattern of an order number (see `orderKey`). -/
def fp32OfKey (k : Int) : Nat := if k < 0 then FpFmt.fp32.sign true (-k - 1).toNat else k.toNat

/-- The FP32 patterns allowed about an exact value within `ulps` units of its last place, or within 2^`absExp` where that
is given (R114): the lowest and the highest order number. -/
def allowedKeys (s : Bool) (m : Nat) (e : Int) (ulps : Nat) (absExp : Option Int) : Int × Int :=
  let top : Int := e + (topBit m : Int)
  let ulpE : Int := if top - 23 < -149 then -149 else top - 23
  let tol : Nat × Int :=
    match absExp with
    | some a => (1, a)
    | none => (ulps, ulpE)
  let lo := addExact s m e true tol.1 tol.2
  let hi := addExact s m e false tol.1 tol.2
  let rlo := FpFmt.fp32.round 3 (decide (lo.1 < 0)) lo.1.natAbs lo.2
  let rhi := FpFmt.fp32.round 2 (decide (hi.1 < 0)) hi.1.natAbs hi.2
  (FpFmt.fp32.orderKey rlo.1, FpFmt.fp32.orderKey rhi.1)

/-- The bound of R114 in FP32: units in the last place, or an absolute error 2^k. -/
def ApFn.bound (g : ApFn) (m : Nat) (e : Int) : Nat × Option Int :=
  match g with
  | .rcp => (1, none)
  | .rsq => (1, none)
  | .exp2 => (2, none)
  | .log2 =>
    let top : Int := e + (topBit m : Int)
    -- a in [0.5, 2]
    if top = -1 ∨ top = 0 ∨ (top = 1 ∧ m = 2 ^ topBit m) then (2, some (-22)) else (2, none)
  | .sin => (0, some (-21))
  | .cos => (0, some (-21))

/-- The flags of a delivered result that differs from the exact value (R114). -/
def FpFmt.approxFlags (f : FpFmt) (bits : Nat) : FpFlags :=
  if bits % f.signBit < 2 ^ f.frac then FpFlags.inexact ||| FpFlags.underflow else FpFlags.inexact

/-- An approximate function (R114, R115): in FP16 and BF16 the exact value rounded once; in FP32 a value within the bound,
which one being free but the same wherever the operand is (DESIGN CHOICE, log entry 7). The mode chooses only the result of an
overflow. -/
def ApFn.apply (g : ApFn) (f : FpFmt) (mode : Nat) (a : Nat) : Nat × FpFlags :=
  let x := f.unpack a
  match g.special f x with
  | some r => r
  | none =>
    match x with
    | .fin s m e =>
      let v := g.value s m e
      let r := f.round mode v.1 v.2.1 v.2.2
      if r.2.getLsbD 4 = false ∨ r.2.getLsbD 2 = true then r
      else if f ≠ .fp32 then (r.1, f.approxFlags r.1)
      else
        let b := g.bound m e
        let ks := allowedKeys v.1 v.2.1 v.2.2 b.1 b.2
        let big : Int := 0x7F7FFFFF
        let lo := if ks.1 < -big - 1 then -big - 1 else ks.1
        let hi := if big < ks.2 then big else ks.2
        let pick := lo + ((Config.approxPick g.code a % ((hi - lo).toNat + 1) : Nat) : Int)
        let bits := fp32OfKey pick
        (bits, f.approxFlags bits)
    | _ => f.bad

end Sys2Proof.Machine
end

