-- ==== Sys2Proof/Machine/Translate.lean ====
section
/-!
DEFINITION. Levels of memory: physical addresses (R208, R388), homes (R209, R215), the page walk (R212 to R214), the
translation caches and the L2 (R216 to R219, R226), clearances (R220, R221, R223), and reading and writing at a place.
-/
namespace Sys2Proof.Machine

/-! ## Physical addresses -/

/-- The device number of a system physical address (R388) (DESIGN CHOICE, log entry 16). -/
def deviceOfPa (a : Nat) : Nat := a / 2 ^ 50
/-- The local physical address of a system physical address (R388). -/
def localOfPa (a : Nat) : Nat := a % 2 ^ 50

/-- The page names this device (R388). -/
def State.isLocal (s : State) (a : Nat) : Bool := deviceOfPa a == s.device

/-- A local physical address in an HBM range, whatever its die (R208). -/
def hbmRange (a : Nat) : Bool := decide (a / 2 ^ 36 < 12) && decide (a % 2 ^ 36 < 64 * 10 ^ 9)

/-- A local physical address in a present HBM stack (R208, R387). -/
def State.inHbm (s : State) (a : Nat) : Bool := hbmRange a && !s.failed.getLsbD (a / 2 ^ 36 / 3)

/-- The most that a CXL port reaches: 1024 GB, a quarter of the second tier's 4096 GB (R4, R208). -/
def cxlReach : Nat := 1024 * 10 ^ 9

/-- A local physical address behind a CXL port (R208) (DESIGN CHOICE, log entry 63). -/
def State.inCxl (s : State) (a : Nat) : Bool :=
  decide (2 ^ 42 ≤ a) && decide ((a - 2 ^ 42) / 2 ^ 40 < 4) &&
    decide ((a - 2 ^ 42) % 2 ^ 40 < Nat.min cxlReach ((s.cxl[(a - 2 ^ 42) / 2 ^ 40]?).getD 0))

/-- A local physical address is present (R208). -/
def State.paPresent (s : State) (a : Nat) : Bool := s.inHbm a || s.inCxl a

/-- The system physical address of a local one. -/
def State.sysPa (s : State) (a : Nat) : Nat := s.device * 2 ^ 50 + a

/-! ## Virtual addresses -/

/-- The tag ASID of an address (R210). -/
def tagAsid (asid va : Nat) : Nat := if va / 2 ^ 55 % 2 = 1 then 0 else asid

/-- The number of a line of 128 bytes. -/
def lineOf (va : Nat) : Nat := va / 128

/-- The home slice, 0 to 127, of a line (R209): die in [6:5], quadrant in [4:3], slice within it in [2:0]. -/
def homeSlice (asid line : Nat) : Nat :=
  let x := (line ^^^ (asid <<< 40)) % 2 ^ 49
  (x % 128) ^^^ (x / 2 ^ 7 % 128) ^^^ (x / 2 ^ 14 % 128) ^^^ (x / 2 ^ 21 % 128) ^^^ (x / 2 ^ 28 % 128) ^^^
    (x / 2 ^ 35 % 128) ^^^ (x / 2 ^ 42 % 128)

/-- The translation unit of a miss (R217). -/
def unitOf (asid va : Nat) : Nat := ((va % 2 ^ 56 / 2 ^ 21 % 2 ^ 32) ^^^ asid) % 12

/-! ## Page tables -/

/-- The principal tag of an attribute word (R213). -/
def attrTag (a : DWord) : Nat := (a.extractLsb' 48 16).toNat
/-- The home core of a core-pinned leaf. -/
def attrCore (a : DWord) : Nat := (a.extractLsb' 40 8).toNat
/-- The slot of a core-pinned leaf. -/
def attrSlot (a : DWord) : Nat := (a.extractLsb' 35 5).toNat
/-- The home field: 0 cached, 1 slice-pinned, 2 core-pinned, 3 memory-side. -/
def attrHome (a : DWord) : BitVec 2 := a.extractLsb' 6 2
/-- Global. -/
def attrG (a : DWord) : Bool := a.getLsbD 5
/-- Executable. -/
def attrX (a : DWord) : Bool := a.getLsbD 4
/-- Writable. -/
def attrW (a : DWord) : Bool := a.getLsbD 3
/-- Leaf. -/
def attrL (a : DWord) : Bool := a.getLsbD 1
/-- Valid. -/
def attrV (a : DWord) : Bool := a.getLsbD 0

/-- What a walk answers: a leaf (page base and size, page address, attribute word) or a cause. -/
inductive Walk where
  | leaf (base size pa : Nat) (attr : DWord)
  | fault (code sub : Nat)
  deriving DecidableEq, Repr

/-- Bits of the virtual address that index a level's table, its entries, and the bytes of a page mapped there (R212). -/
def levelShift (l : Nat) : Nat :=
  match l with
  | 4 => 48
  | 3 => 39
  | 2 => 30
  | 1 => 21
  | _ => 16
/-- Entries of a level's table (R212). -/
def levelEntries (l : Nat) : Nat :=
  match l with
  | 4 => 256
  | 0 => 32
  | _ => 512

/-- The checks of a leaf (row 3 of R214, R389). -/
def State.leafOk (s : State) (level va pa : Nat) (a : DWord) : Bool :=
  let size := 2 ^ levelShift level
  let home := attrHome a
  (a.extractLsb' 8 27 == 0) && !a.getLsbD 2 && (attrG a == decide (va / 2 ^ 55 % 2 = 1)) && decide (pa % size = 0) &&
    (home == 2 || a.extractLsb' 35 13 == 0) &&
    (if s.isLocal pa then
      s.paPresent (localOfPa pa) && (home != 2 || (level == 0 && decide (attrSlot a ≤ 23))) &&
        (home != 3 || s.inHbm (localOfPa pa))
    else home == 3)

/-- Walk from the table at a local physical address, with `fuel` levels above the last (R212 to R214). A reserved bit found in
an entry is judged after the entries below it, since a missing entry anywhere on the path comes first; `bad` says that one
was found. -/
def State.walkFrom (s : State) (va table level : Nat) (bad : Bool) : Walk :=
  let entries := levelEntries level
  if table % (16 * entries) ≠ 0 ∨ s.paPresent table = false then .fault 0x32 0
  else
    let at_ := s.sysPa (table + 16 * (va / 2 ^ levelShift level % entries))
    let ad := natOfBytes (Memory.readBytes s.mem at_ 8)
    let attr : DWord := BitVec.ofNat 64 (natOfBytes (Memory.readBytes s.mem (at_ + 8) 8))
    if attrV attr = false then .fault 0x30 0
    else if attrL attr then
      if bad ∨ level = 4 ∨ level = 3 then .fault 0x32 0
      else if s.leafOk level va ad attr then
        .leaf (va / 2 ^ levelShift level * 2 ^ levelShift level) (2 ^ levelShift level) ad attr
      else .fault 0x32 0
    else
      match level with
      | 0 => .fault 0x32 0
      | l + 1 => s.walkFrom va ad l (bad || attr != 1)

/-- The system physical addresses of the table entries that such a walk reads. -/
def State.walkEntries (s : State) (va table level : Nat) : List Nat :=
  let entries := levelEntries level
  if table % (16 * entries) ≠ 0 ∨ s.paPresent table = false then []
  else
    let at_ := s.sysPa (table + 16 * (va / 2 ^ levelShift level % entries))
    let attr : DWord := BitVec.ofNat 64 (natOfBytes (Memory.readBytes s.mem (at_ + 8) 8))
    if attrV attr = false ∨ attrL attr = true then [at_]
    else
      match level with
      | 0 => [at_]
      | l + 1 => at_ :: s.walkEntries va (natOfBytes (Memory.readBytes s.mem at_ 8)) l

/-- A walk of one address under a tag ASID (R211, R212, R214). -/
def State.walk (s : State) (tasid va : Nat) : Walk :=
  if s.isLive tasid = false then .fault 0x33 0
  else
    let at_ := s.sysPa (s.asidTable + 16 * tasid)
    let root := natOfBytes (Memory.readBytes s.mem at_ 8)
    s.walkFrom (va % 2 ^ 56) root 4 false

/-! ## L2, translation caches, misses -/

/-- The line of L2 under a tag ASID (R205). -/
def State.findLine (s : State) (tasid line : Nat) : Option L2Line :=
  s.l2.find? (fun l => l.line == line && l.asid == tasid)

/-- Change a line of L2. -/
def State.updLine (s : State) (tasid line : Nat) (f : L2Line → L2Line) : State :=
  { s with l2 := s.l2.map (fun l => if l.line == line && l.asid == tasid then f l else l) }

/-- The translation cache entry that maps an address (R217). -/
def State.findTlb (s : State) (tasid va : Nat) : Option TlbEntry :=
  s.tlb.find? (fun e => e.asid == tasid && e.unit == unitOf tasid va && decide (e.base ≤ va) &&
    decide (va < e.base + e.size))

/-- The miss on a line (R226). -/
def State.findMiss (s : State) (tasid line : Nat) : Option (Nat × Miss) :=
  s.misses.find? (fun e => e.2.line == line && e.2.asid == tasid)

/-- The present page in a core's slot (R216). -/
def State.findPinned (s : State) (core slot : Nat) : Option Pinned :=
  s.pinned.find? (fun p => p.core == core && p.slot == slot)

/-- Change a present page. -/
def State.updPinned (s : State) (core slot : Nat) (f : Pinned → Pinned) : State :=
  { s with pinned := s.pinned.map (fun p => if p.core == core && p.slot == slot then f p else p) }

/-- The teams whose workgroups on a core hold part of a slot of 64 KiB (R216). -/
def State.slotHolders (s : State) (core slot : Nat) : List Nat :=
  (s.teams.filter (fun t => t.2.groups.any (fun g => g.core == core && decide (0 < g.size) &&
    decide (g.base < (slot + 1) * 65536) && decide (slot * 65536 < g.base + g.size)))).map (fun t => t.1)

/-- The requester's own team holds part of the slot (R216). -/
def State.ownSlot (s : State) (team : Option Nat) (core slot : Nat) : Bool :=
  team.any (fun t => (s.slotHolders core slot).contains t)

/-- What an access finds before its own checks. -/
structure Hit where
  place : Place
  off : Nat
  /-- system physical address of the byte -/
  pa : Nat
  tag : Nat
  w : Bool
  x : Bool
  home : BitVec 2
  remote : Option Nat
  deriving DecidableEq, Repr

/-- Where a lookup ends. -/
inductive Look where
  | hit (h : Hit)
  /-- the line is neither cached nor translated: a miss must be answered first -/
  | miss (tasid line : Nat)
  | cause (code sub : Nat)
  /-- the page's home core cannot hold it (0x2F with a subcause, R216), which stands after the page's own checks (R143) -/
  | absent (sub : Nat) (h : Hit)
  deriving DecidableEq, Repr

/-- The failure of a remote access before it is sent, or as its owner reports it, which one behind a silent route does not (R391;
DESIGN CHOICE, log entry 13). -/
def State.remoteCause (s : State) (pa : Nat) : Option (Nat × Nat) :=
  let d := deviceOfPa pa
  if s.hw.peers.contains d = false then some (0x2A, 0)
  else if Assoc.get s.routes Route.up d = Route.down then some (0x2A, 1)
  else if Assoc.get s.routes Route.up d = Route.silent then none
  else if hbmRange (localOfPa pa) = false ∨
      (Assoc.get s.hw.peerFailed 0 d).getLsbD (localOfPa pa / 2 ^ 36 / 3) then some (0x2A, 2)
  else none

/-- How an access that is completed within its step fares on its way. -/
inductive Way where
  | go
  | cause (code sub : Nat)
  /-- the request is out, and its response has not come (R391) -/
  | wait
  deriving DecidableEq, Repr

/-- The bytes stand in this device's second-tier memory, behind a CXL link (R208). -/
def State.inSecondTier (s : State) (pa : Nat) : Bool := s.isLocal pa && s.inCxl (localOfPa pa)

/-- The request of this core for this address. -/
def Asked.is (a : Asked) (core : Option Nat) (h : Hit) : Bool := a.core == core && a.pa == h.pa

/-- The way of an access that is completed within its step (R359, R391): a lost response; a failed or silent route. A request that is
out when its route goes down waits for its response as behind a silent route. -/
def State.way (s : State) (core : Option Nat) (h : Hit) : Way :=
  match s.lost.filter (fun tier => !tier || s.inSecondTier h.pa) with
  | some tier => .cause (if tier then 0x3D else 0x3C) 0
  | none =>
    match h.remote with
    | none => .go
    | some d =>
      let route := Assoc.get s.routes Route.up d
      match s.asked.find? (fun a => a.is core h) with
      | some a => if Config.remoteLimit ≤ a.sent then .cause 0x2B 0
        else if route = Route.up then match s.remoteCause h.pa with
          | some (c, b) => .cause c b
          | none => .go
        else .wait
      | none => match s.remoteCause h.pa with
        | some (c, b) => .cause c b
        | none => if route = Route.silent then .wait else .go

/-- The request of an access that waits for its response is out (R391). -/
def State.ask (s : State) (core : Option Nat) (h : Hit) : State :=
  if s.asked.any (fun a => a.is core h) then s else { s with asked := s.asked ++ [{ core := core, pa := h.pa, sent := 0 }] }

/-- The request is over. -/
def State.answered (s : State) (core : Option Nat) (h : Hit) : State :=
  { s with asked := s.asked.filter (fun a => !a.is core h) }

/-- After an access completed within its step met a cause on its way: a lost response is lost once. -/
def State.wayUsed (s : State) (core : Option Nat) (h : Hit) : State :=
  if s.lost.any (fun tier => !tier || s.inSecondTier h.pa) then { s with lost := none } else s.answered core h

/-- A translated address of an uncached page (R215, R389). -/
def State.hitOfTlb (s : State) (e : TlbEntry) (va : Nat) : Option Hit :=
  let pa := e.pa + (va - e.base)
  let h : Hit := { place := .phys, off := pa, pa := pa, tag := attrTag e.attr, w := attrW e.attr, x := attrX e.attr,
                   home := attrHome e.attr, remote := none }
  if s.isLocal e.pa = false then some { h with remote := some (deviceOfPa e.pa) }
  else if attrHome e.attr = 3 then some h
  else if attrHome e.attr = 2 then
    if (s.findPinned (attrCore e.attr) (attrSlot e.attr)).any (fun p => p.pa == e.pa) then
      some { h with place := .pinned (attrCore e.attr) (attrSlot e.attr), off := va - e.base }
    else none
  else none

/-- What a core-pinned leaf whose page cannot be present gives an address: the checks of the page, and nowhere to go. -/
def absentHit (pa va : Nat) (attr : DWord) : Hit :=
  { place := .pinned (attrCore attr) (attrSlot attr), off := va % 65536, pa := pa + va % 65536, tag := attrTag attr
    w := attrW attr, x := attrX attr, home := 2, remote := none }

/-- Look an address up for a context and, where it has one, a team (R211, R214, R216, R219). -/
def State.look (s : State) (asid : Nat) (team : Option Nat) (va : Nat) : Look :=
  if s.isLive asid = false then .cause 0x33 0
  else
    let t := tagAsid asid va
    let line := lineOf va
    match s.findLine t line with
    | some l => .hit { place := .line t line, off := va % 128, pa := l.pa + va % 128, tag := l.tag, w := l.w, x := l.x,
                       home := l.home, remote := none }
    | none =>
      match s.findMiss t line with
      | some (_, m) =>
        match m.result with
        | .fault c b => .cause c b
        | .noCore pa attr => .absent 0 (absentHit pa va attr)
        | .waitSlot c k pa attr =>
          if s.ownSlot team c k then .absent 1 (absentHit pa va attr) else .miss t line
        | .pending => .miss t line
      | none =>
        match s.findTlb t va with
        | some e => match s.hitOfTlb e va with
          | some h => .hit h
          | none => .miss t line
        | none => .miss t line

/-- A use of the translation that an address goes through (R217): cached lines need none. -/
def State.useTlb (s : State) (tasid va : Nat) : State :=
  { s with tlb := s.tlb.map (fun e =>
      if e.asid == tasid && e.unit == unitOf tasid va && decide (e.base ≤ va) && decide (va < e.base + e.size) then
        { e with used := s.cycle }
      else e) }

/-- The use of a lookup that ends at an uncached page. -/
def State.usedAt (s : State) (asid va : Nat) (h : Hit) : State :=
  match h.place with
  | .line _ _ => s
  | _ => s.useTlb (tagAsid asid va) va

/-- Post a miss unless one for the line is there (R226). -/
def State.postMiss (s : State) (tasid line : Nat) (team l1 : Option Nat) (quiet : Bool) : State :=
  match s.findMiss tasid line with
  | some (k, m) =>
    { s with misses := Assoc.put s.misses k
               { m with quiet := m.quiet && quiet, l1 := m.l1 ++ l1.toList.filter (fun c => !m.l1.contains c) } }
  | none =>
    { s with misses := Assoc.put s.misses s.fresh
               { asid := tasid, line := line, l1 := l1.toList, quiet := quiet, team := team, result := .pending },
             fresh := s.fresh + 1 }

/-! ## Power states of blocks (R400) -/

/-- The number of a block in the table of power states. -/
def blockCode (b : Block) : Nat :=
  match b with
  | .core n => n
  | .slice n => 1000 + n
  | .bridge n => 2000 + n
  | .stack n => 3000 + n
  | .port n => 4000 + n

/-- The power state of a block. -/
def State.powerOf (s : State) (b : Block) : PowerState := Assoc.get s.power PowerState.run (blockCode b)

/-- A block sleeps: it must wake before it serves a request. -/
def State.asleep (s : State) (b : Block) : Bool := s.powerOf b != .run

/-- The block that serves a place: its slice, its stack controller, its link port (R4: 16 of UALink, then 4 of CXL), or its
core. The port that carries the requests to another device is taken from its number (DESIGN CHOICE, log entry 81). -/
def State.homeBlock (s : State) (p : Place) (off : Nat) (remote : Option Nat) : Block :=
  match p with
  | .line t n => .slice (homeSlice t n)
  | .phys => match remote with
    | some d => .port (d % 16)
    | none =>
      let a := localOfPa off
      if s.inCxl a then .port (16 + (a - 2 ^ 42) / 2 ^ 40) else .stack (a / 2 ^ 36)
  | .pinned c _ => .core c
  | .scratch t g => .core (((s.group? t g).map Group.core).getD 0)

/-- The die on which a block stands; the link ports stand on none. -/
def dieOfBlock (b : Block) : Option Nat :=
  match b with
  | .core n => some (dieOfCore n)
  | .slice n => some (n / 32)
  | .bridge n => some (n / 4)
  | .stack n => some (n / 3)
  | .port _ => none

/-- The bridge stations that a request of a core to a block passes: of both dies, where these differ (R386; DESIGN CHOICE, log
entry 38). -/
def bridgesTo (core : Nat) (b : Block) : List Block :=
  match dieOfBlock b with
  | none => []
  | some d =>
    if d = dieOfCore core then []
    else (numsFrom (4 * d) 4).map Block.bridge ++ (numsFrom (4 * dieOfCore core) 4).map Block.bridge

/-- Cycles of a block's own clock so far: a slowed die's leaves edges out (R401). -/
def State.ownClock (s : State) (b : Block) : Nat := s.cycle - ((dieOfBlock b).map (fun d => Assoc.get s.skipped 0 d)).getD 0

/-- A block has something to do. -/
def State.touch (s : State) (b : Block) : State := { s with active := Assoc.set s.active 0 (blockCode b) (s.ownClock b) }

/-- A block wakes. -/
def State.wake (s : State) (b : Block) : State :=
  { s with power := Assoc.set s.power PowerState.run (blockCode b) .run }.touch b

/-- Several blocks wake. -/
def State.wakeAll (s : State) (bs : List Block) : State := bs.foldl (fun (s : State) b => s.wake b) s

/-- A walk has waited for the stacks and ports that hold the entries it reads to wake (R400). -/
def State.wakeWalk (s : State) (tasid va : Nat) : State :=
  if s.isLive tasid = false then s
  else
    let at_ := s.sysPa (s.asidTable + 16 * tasid)
    let root := natOfBytes (Memory.readBytes s.mem at_ 8)
    s.wakeAll ((at_ :: s.walkEntries (va % 2 ^ 56) root 4).map (fun a => s.homeBlock .phys a none))

/-- An access that is completed within its step has waited for its block to wake, and for the bridge stations between the core
and the block; its request is answered. -/
def State.wakeFor (s : State) (core : Option Nat) (h : Hit) : State :=
  let b := s.homeBlock h.place h.off h.remote
  (s.answered core h).wakeAll (b :: (core.map (fun c => bridgesTo c b)).getD [])

/-! ## Poison (R360) -/

/-- The granules of `n` bytes from `a` on. -/
def granulesOf (a n : Nat) : List Nat := numsFrom (a / 32) ((a % 32 + n + 31) / 32)

/-- A byte range of memory touches a poisoned granule. -/
def State.memPoisoned (s : State) (a n : Nat) : Bool := (granulesOf a n).any (fun g => Assoc.get s.poison false g)

/-- Set or clear the poison of a granule of memory. -/
def State.setPoison (s : State) (g : Nat) (b : Bool) : State := { s with poison := Assoc.set s.poison false g b }

/-- The poison bits of the line at a physical address. -/
def State.linePoison (s : State) (pa : Nat) : BitVec 4 :=
  [0, 1, 2, 3].foldl (fun (b : BitVec 4) i => if Assoc.get s.poison false (pa / 32 + i) then b ||| (1#4 <<< i) else b) 0

/-! ## Filling and writing back -/

/-- Write a line's bytes and poison to its memory (R219, R229). -/
def State.writeBack (s : State) (l : L2Line) : State :=
  if l.dirty then
    let s1 := { s with mem := Memory.writeBytes s.mem l.pa l.data }
    ([0, 1, 2, 3].foldl (fun (q : State) i => q.setPoison (l.pa / 32 + i) (l.poison.getLsbD i)) s1).wake
      (s.homeBlock .phys l.pa none)
  else s

/-- The place of an access is the line. -/
def Access.onLine (a : Access) (tasid line : Nat) : Bool :=
  match a.place with
  | .line t n => t == tasid && n == line
  | _ => false

/-- Lose the stamps of a place (R246). -/
def State.loseStamps (s : State) (p : Place) : State := { s with stamps := s.stamps.filter (fun x => x.place != p) }

/-- Drop a line from L2 and every L1, writing it back if dirty. -/
def State.dropLine (s : State) (l : L2Line) : State :=
  let s1 := s.writeBack l
  let s2 := s1.loseStamps (.line l.asid l.line)
  { s2 with l2 := s2.l2.filter (fun x => !(x.line == l.line && x.asid == l.asid)),
            cores := s2.cores.map (fun c =>
              (c.1, { c.2 with l1 := c.2.l1.filter (fun x => !(x.line == l.line && x.asid == l.asid)) })) }

/-- Make room in a slice: a line that is not pinned and on which no access waits is evicted, taken by the free value
where several can be (R215; DESIGN CHOICE, log entry 14). -/
def State.makeRoom (s : State) (slice : Nat) : State :=
  let here := s.l2.filter (fun l => homeSlice l.asid l.line == slice)
  if here.length < Config.linesPerSlice then s
  else
    let can := here.filter (fun l => l.home == 0 && !s.accesses.any (fun a => a.2.onLine l.asid l.line))
    match can[s.freeVal % can.length]? with
    | some l => s.takeFree.dropLine l
    | none => s

/-- The entry under which an L1 keeps a line with the attributes of the reply, if it lends space (R207, R219) (DEDUCED, log
entry 17). -/
def State.fillL1 (s : State) (core : Nat) (l : L2Line) : State :=
  let c := s.core core
  if c.lent = 0 ∨ c.l1.any (fun x => x.line == l.line && x.asid == l.asid) then s
  else
    let unit := c.l1.length / 128
    if c.lent ≤ unit then s
    else s.updCore core (fun c => { c with l1 := c.l1 ++
      [{ asid := l.asid, line := l.line, tag := l.tag, w := l.w, x := l.x, home := l.home, unit := unit }] })

/-- The reply to all who asked for a line (R226). -/
def State.fillL1s (s : State) (cores : List Nat) (tasid line : Nat) : State :=
  match s.findLine tasid line with
  | none => s
  | some l => cores.foldl (fun s c => s.fillL1 c l) s

/-- A core's read goes through its L1 (R207): the home slice's reply to a hit fills it. -/
def State.readThrough (s : State) (core : Nat) (h : Hit) : State :=
  match h.place with
  | .line t n => s.fillL1s [core] t n
  | _ => s

/-- Fill a line from memory under a translation (R215, R219). -/
def State.fillLine (s : State) (tasid line : Nat) (e : TlbEntry) (l1 : List Nat) : State :=
  let slice := homeSlice tasid line
  let s1 := s.makeRoom slice
  let pa := e.pa + (line * 128 - e.base)
  let full := decide (Config.pinnedPerSlice ≤
    (s1.l2.filter (fun l => l.home == 1 && homeSlice l.asid l.line == slice)).length)
  let home := if attrHome e.attr = 1 ∧ full = true then 0 else attrHome e.attr
  let l : L2Line := { asid := tasid, line := line, pa := pa, base := e.base, size := e.size, tag := attrTag e.attr
                      w := attrW e.attr, x := attrX e.attr, home := home, dirty := false, poison := s1.linePoison pa, data := Memory.readBytes s1.mem pa 128 }
  (({ s1 with l2 := s1.l2 ++ [l] } : State).fillL1s l1 tasid line).wake (s1.homeBlock .phys pa none)

/-- Enter a translation, replacing the least recently used of its unit where it is full (R217; DESIGN CHOICE, log entry 14). -/
def State.enterTlb (s : State) (e : TlbEntry) : State :=
  let same := s.tlb.filter (fun x => x.unit == e.unit)
  if same.length < Config.tlbEntries then { s with tlb := s.tlb ++ [e] }
  else
    let oldest := same.foldl (fun (a : Nat) x => Nat.min a x.used) s.cycle
    match same.find? (fun x => x.used == oldest) with
    | some v => { s with tlb := s.tlb.erase v ++ [e] }
    | none => { s with tlb := s.tlb ++ [e] }

/-- Scratchpad bytes of a core that admitted workgroups reserve (R160, R206). -/
def State.reservedOn (s : State) (core : Nat) : Nat :=
  s.teams.foldl (fun n t => t.2.groups.foldl (fun n g => if g.core = core then n + g.size else n) n) 0

/-- The units that L1 may hold beside the reservations and the present pages (R207) (DESIGN CHOICE, log entry 32). -/
def State.lentMax (s : State) (core : Nat) : Nat :=
  (Config.scratchBytes - s.reservedOn core - 65536 * (s.pinned.filter (fun p => p.core == core)).length) / Config.lentUnit

/-- Lent units beyond those that L1 may hold are reclaimed, their lines invalidated (R207). -/
def State.trimL1 (s : State) (core : Nat) : State :=
  let keep := Nat.min (s.core core).lent (s.lentMax core)
  s.updCore core (fun c => { c with lent := keep, l1 := c.l1.filter (fun l => decide (l.unit < keep)) })

/-- A core-pinned page becomes present (R216) under a translation: contents and poison come from its backing address; L1 units
that its space takes are reclaimed. -/
def State.makePresent (s : State) (core slot pa : Nat) (maps : List (Nat × Nat)) : State :=
  let data := (s.mem.filter (fun c => decide (pa ≤ c.1) && decide (c.1 < pa + 65536))).map (fun c => (c.1 - pa, c.2))
  let poison := (s.poison.filter (fun c => decide (pa / 32 ≤ c.1) && decide (c.1 < pa / 32 + 2048))).map
    (fun c => (c.1 - pa / 32, c.2))
  ({ s with pinned := s.pinned ++
      [{ core := core, slot := slot, pa := pa, maps := maps, data := data, poison := poison, bad := [] }] } : State).trimL1 core

/-- A granule of a present page is poisoned, or holds a word of its scratchpad that reads uncorrectable (R359, R360). -/
def Pinned.badGranule (p : Pinned) (g : Nat) : Bool :=
  Assoc.get p.poison false g || (numsFrom (g * 8) 8).any (fun i => Assoc.get p.bad false i)

/-- Write a present page back and free its slot (R216, R230); what cannot be read is written back as poison (DEDUCED, log entry
83). -/
def State.dropPinned (s : State) (p : Pinned) : State :=
  let clean := s.mem.filter (fun c => !(decide (p.pa ≤ c.1) && decide (c.1 < p.pa + 65536)))
  let mem := p.data.foldl (fun (m : Memory) e => Memory.write m (p.pa + e.1) e.2) clean
  let s1 := { s with mem := mem, pinned := s.pinned.filter (fun q => !(q.core == p.core && q.slot == p.slot)) }
  let s2 := (numsFrom 0 2048).foldl (fun (q : State) g => q.setPoison (p.pa / 32 + g) (p.badGranule g)) s1
  s2.loseStamps (.pinned p.core p.slot)

/-- A translation found a present page. -/
def Pinned.foundBy (p : Pinned) (map : Nat × Nat) : Pinned :=
  if p.maps.contains map then p else { p with maps := p.maps ++ [map] }

/-- What a walk makes of a leaf (R214, R216): the answer to the miss, and the state. -/
def State.acceptLeaf (s : State) (tasid va base size pa : Nat) (attr : DWord) : WalkResult × State :=
  let e : TlbEntry := { unit := unitOf tasid va, asid := tasid, base := base, size := size, pa := pa, attr := attr,
                        used := s.cycle }
  if s.isLocal pa ∧ attrHome attr = 2 then
    let core := attrCore attr
    let slot := attrSlot attr
    if s.failed.getLsbD (dieOfCore core) then (.noCore pa attr, s)
    else match s.findPinned core slot with
      | some p =>
        if p.pa = pa then (.pending, (s.updPinned core slot (fun q => q.foundBy (tasid, base))).enterTlb e)
        else (.waitSlot core slot pa attr, s)
      | none =>
        if s.slotHolders core slot ≠ [] then (.waitSlot core slot pa attr, s)
        else (.pending, (s.makePresent core slot pa [(tasid, base)]).enterTlb e)
  else (.pending, s.enterTlb e)

/-- Walk for a miss (R217): the page is entered, or the miss is answered by a cause or waits for a slot. -/
def State.translateMiss (s : State) (k : Nat) (m : Miss) : State :=
  let va := m.line * 128
  let s := s.wakeWalk m.asid va
  match s.walk m.asid va with
  | .fault c b => { s with misses := Assoc.put s.misses k { m with result := .fault c b } }
  | .leaf base size pa attr =>
    let r := s.acceptLeaf m.asid va base size pa attr
    { r.2 with misses := Assoc.put r.2.misses k { m with result := r.1 } }

/-- Answer a miss whose translation is at hand (R226): a cached line is filled and goes to all who asked, an uncached page
answers at once. -/
def State.answerMiss (s : State) (k : Nat) (m : Miss) (e : TlbEntry) : State :=
  let s1 := { s with misses := Assoc.erase s.misses k }
  if (s1.hitOfTlb e (m.line * 128)).isSome then s1
  else if attrHome e.attr = 2 then s1
  else if (s1.findLine m.asid m.line).isSome then s1.fillL1s m.l1 m.asid m.line
  else s1.fillLine m.asid m.line e m.l1

/-- A slice has a miss register to spare (R226). -/
def State.registerFree (s : State) (tasid line : Nat) : Bool :=
  decide ((s.misses.filter (fun e => homeSlice e.2.asid e.2.line == homeSlice tasid line)).length < Config.missRegs)

/-- The slot that a walk found taken is waited for as a miss waits, so that nothing new is placed over it (R216). -/
def State.waitSlot (s : State) (tasid line : Nat) (team : Option Nat) (r : WalkResult) : State :=
  { s with misses := Assoc.put s.misses s.fresh
             { asid := tasid, line := line, l1 := [], quiet := false, team := team, result := r },
           fresh := s.fresh + 1 }

/-- The miss waits for a core-pinned slot (R216). -/
def Miss.waits (m : Miss) : Bool :=
  match m.result with
  | .waitSlot _ _ _ _ => true
  | .pending => false
  | .noCore _ _ => false
  | .fault _ _ => false

/-- The state in which an operation waits whose accesses cannot all be made: of them only the slots that are waited for and
the requests that are out stay (R216, R391). -/
def State.waitIn (s q : State) : State :=
  { s with misses := q.misses, fresh := q.fresh
           asked := s.asked ++ q.asked.filter (fun a => !s.asked.any (fun b => b.core == a.core && b.pa == a.pa)) }

/-- The wait has just begun: a slot is newly waited for, or a request has just gone out. -/
def State.newWait (s q : State) : Option State :=
  if s.misses.length < q.misses.length ∨ s.asked.length < q.asked.length then some (s.waitIn q) else none

/-- Answer an address whose translation is at hand, within the step. -/
def State.resolveTlb (s : State) (asid : Nat) (team : Option Nat) (va t line : Nat) (e : TlbEntry) : Look × State :=
  match s.hitOfTlb e va with
  | some h => (.hit h, s)
  | none =>
    if attrHome e.attr = 2 then (.miss t line, { s with tlb := s.tlb.erase e })
    else
      let s1 := s.fillLine t line e []
      (s1.look asid team va, s1)

/-- Look an address up and, where it misses, translate and fill within the same step. A line that is missed on already, a slice
without a miss register (R226) and a page that waits for a slot answer `miss`; for a write of an owned line the grant has reserved
a place, so that it waits for no register (R227). -/
def State.resolveAs (s : State) (owned : Bool) (asid : Nat) (team : Option Nat) (va : Nat) : Look × State :=
  match s.look asid team va with
  | .hit h => (.hit h, s.usedAt asid va h)
  | .cause c b => (.cause c b, s)
  | .absent b h => (.absent b h, s)
  | .miss t line =>
    let busy := match s.findMiss t line with
      | some (_, m) => !owned || m.waits
      | none => !owned && !s.registerFree t line
    if busy then (.miss t line, s)
    else match s.findTlb t va with
      | some e => (s.useTlb t va).resolveTlb asid team va t line e
      | none =>
        let s := s.wakeWalk t va
        match s.walk t va with
        | .fault c b => (.cause c b, s)
        | .leaf base size pa attr =>
          let r := s.acceptLeaf t va base size pa attr
          match r.1 with
          | .fault c b => (.cause c b, r.2)
          | .noCore pa attr => (.absent 0 (absentHit pa va attr), r.2)
          | .waitSlot c k pa attr =>
            if s.ownSlot team c k then (.absent 1 (absentHit pa va attr), r.2)
            else (.miss t line, r.2.waitSlot t line team r.1)
          | .pending => match r.2.findTlb t va with
            | some e => r.2.resolveTlb asid team va t line e
            | none => (.miss t line, r.2)

/-- The way of accesses that the spec makes part of a step: logs, records, engine reads. -/
def State.resolve (s : State) (asid : Nat) (team : Option Nat) (va : Nat) : Look × State := s.resolveAs false asid team va

/-! ## Bytes at a place -/

/-- The byte at an offset of a place: an L2 line, memory itself, a present page, a scratchpad allocation. -/
def State.peek (s : State) (p : Place) (off : Nat) : Byte :=
  match p with
  | .line t n => match s.findLine t n with
    | some l => (l.data[off]?).getD 0
    | none => 0
  | .phys => Memory.read s.mem off
  | .pinned c k => match s.findPinned c k with
    | some q => Assoc.get q.data 0 off
    | none => 0
  | .scratch t g => match s.group? t g with
    | some q => Assoc.get q.scratch 0 off
    | none => 0

/-- `n` bytes from an offset of a place on. -/
def State.peekBytes (s : State) (p : Place) (off n : Nat) : List Byte := (numsFrom off n).map (s.peek p)

/-- The `n` bytes that stand at a virtual address of an ASID, within a line of 128 bytes and wherever it stands: none where the address
has no translation. -/
def State.standing (s : State) (asid va n : Nat) : Option (List Byte) :=
  match s.look asid none va with
  | .hit h => some (s.peekBytes h.place h.off n)
  | _ => match s.walk (tagAsid asid va) va with
    | .leaf base _ pa _ => some (Memory.readBytes s.mem (pa + (va % 2 ^ 56 - base)) n)
    | .fault _ _ => none

/-- A field of 8 bytes as it stands: 0 where the address has no translation. -/
def State.standing8 (s : State) (asid va : Nat) : Nat := ((s.standing asid va 8).map natOfBytes).getD 0

/-- Write bytes of a line, a present page or an allocation. -/
def Assoc.setBytes (m : Assoc Byte) (off : Nat) (bs : List Byte) : Assoc Byte :=
  match bs with
  | [] => m
  | b :: r => Assoc.setBytes (Assoc.set m 0 off b) (off + 1) r

/-- Granules that a write of `n` bytes covers whole (R360). -/
def wholeGranules (off n : Nat) : List Nat :=
  (granulesOf off n).filter (fun g => decide (off ≤ g * 32) && decide (g * 32 + 32 ≤ off + n))

/-- The words of scratchpad that a write of `n` bytes covers whole become readable again (R359). -/
def rewritten (m : Assoc Bool) (off n : Nat) : Assoc Bool :=
  (numsFrom (off / 4) ((off % 4 + n + 3) / 4)).foldl
    (fun (m : Assoc Bool) i => if off ≤ i * 4 ∧ i * 4 + 4 ≤ off + n then Assoc.erase m i else m) m

/-- Words of scratchpad that read uncorrectable among these bytes (R359). -/
def wordsBad (m : Assoc Bool) (off n : Nat) : Bool :=
  (numsFrom (off / 4) ((off % 4 + n + 3) / 4)).any (fun i => Assoc.get m false i)

/-- Write bytes at a place; a granule covered whole loses its poison (R360), a scratchpad word covered whole becomes
readable again (R359). -/
def State.poke (s : State) (p : Place) (off : Nat) (bs : List Byte) : State :=
  match p with
  | .line t n =>
    s.updLine t n (fun l =>
      { l with data := patchBytes l.data off bs, dirty := true
               poison := (wholeGranules off bs.length).foldl (fun (b : BitVec 4) g => b &&& ~~~(1#4 <<< g)) l.poison })
  | .phys =>
    let s1 := { s with mem := Memory.writeBytes s.mem off bs }
    (wholeGranules off bs.length).foldl (fun (q : State) g => q.setPoison g false) s1
  | .pinned c k =>
    s.updPinned c k (fun q =>
      { q with data := Assoc.setBytes q.data off bs, bad := rewritten q.bad off bs.length
               poison := (wholeGranules off bs.length).foldl (fun m g => Assoc.erase m g) q.poison })
  | .scratch t g =>
    s.updGroup t g (fun q =>
      { q with scratch := Assoc.setBytes q.scratch off bs, badScratch := rewritten q.badScratch off bs.length })

/-- Reading these bytes meets poison or an uncorrectable word (R359, R360). -/
def State.badAt (s : State) (p : Place) (off n : Nat) : Bool :=
  match p with
  | .line t k => match s.findLine t k with
    | some l => (granulesOf off n).any (fun g => l.poison.getLsbD g)
    | none => false
  | .phys => s.memPoisoned off n
  | .pinned c k => match s.findPinned c k with
    | some q => (granulesOf off n).any (fun g => Assoc.get q.poison false g) || wordsBad q.bad off n
    | none => false
  | .scratch t g => match s.group? t g with
    | some q => wordsBad q.badScratch off n
    | none => false

/-- The code of an error in the bytes read (R359, R360): 0x39 of scratchpad, in which a present page lies, else 0x34. -/
def State.errorCode (s : State) (p : Place) (off n : Nat) : Nat :=
  match p with
  | .scratch _ _ => 0x39
  | .pinned c k => if (s.findPinned c k).any (fun q => wordsBad q.bad off n) then 0x39 else 0x34
  | _ => 0x34

/-! ## Reading and writing within a step -/

/-- What an access within a step ends with. -/
inductive Got (α : Type) where
  | ok (x : α) (s : State)
  | cause (code sub : Nat) (s : State)
  /-- a page waits for its core-pinned slot (R216), or a request for its response (R391) -/
  | wait (s : State)

/-- Read up to the end of a line within a step, unchecked against any clearance: the bytes and the tag found. -/
def State.readPart (s : State) (asid : Nat) (team : Option Nat) (va n : Nat) : Got (List Byte × Nat) :=
  match s.resolve asid team va with
  | (.cause c b, q) => .cause c b q
  | (.absent b _, q) => .cause 0x2F b q
  | (.miss _ _, q) => .wait q
  | (.hit h, q) =>
    match q.way none h with
    | .cause c b => .cause c b (q.wayUsed none h)
    | .wait => .wait (q.ask none h)
    | .go =>
      if q.badAt h.place h.off n then .cause (q.errorCode h.place h.off n) 0 q
      else .ok (q.peekBytes h.place h.off n, h.tag) (q.wakeFor none h)

/-! ## Clearances (R220, R221, R223) -/

/-- Read `k` lines of a clearance bitmap, least significant first. -/
def State.readBitmap (s : State) (asid : Nat) (team : Option Nat) (va k : Nat) : Got Nat :=
  match k with
  | 0 => .ok 0 s
  | k + 1 =>
    match s.readPart asid team va 128 with
    | .cause c b q => if c = 0x34 ∨ c = 0x39 then .cause 0x3E 0 q else .cause c b q
    | .wait q => .wait q
    | .ok x q =>
      match q.readBitmap asid team (va + 128) k with
      | .ok r q2 => .ok (natOfBytes x.1 + 2 ^ 1024 * r) q2
      | o => o

/-- Enter a bitmap into a core's clearance slots, most recently used first (R223). -/
def State.enterClearance (s : State) (core t : Nat) (a : DWord) (bits : Nat) : State :=
  s.updCore core (fun c =>
    { c with clearances := ((t, a, bits) :: c.clearances.filter (fun x => !(x.1 == t && x.2.1 == a))).take 4 })

/-- Whether a clearance covers a tag; the bitmap is reloaded where no slot holds it (R220, R223). -/
def State.cleared (s : State) (core asid : Nat) (team : Option Nat) (clr : Option DWord) (tag : Nat) : Got Bool :=
  if tag = 0 then .ok true s
  else match clr with
    | none => .ok false s
    | some a =>
      let t := tagAsid asid a.toNat
      match (s.core core).clearances.find? (fun x => x.1 == t && x.2.1 == a) with
      | some x => .ok (x.2.2.testBit tag) (s.enterClearance core t a x.2.2)
      | none =>
        match s.readBitmap asid team a.toNat 64 with
        | .ok bits q => .ok (bits.testBit tag) (q.enterClearance core t a bits)
        | .cause c b q => .cause c b q
        | .wait q => .wait q

end Sys2Proof.Machine
end

