-- ==== Sys2Proof/Machine/Paths.lean ====
section
/-!
DEFINITION. The path table (R168 to R177): splitting, holding, arriving and merging; loop stacks and the end check
(R131 to R133, R175); lanes made absent (R130, R152). All of it on one warp.
-/
namespace Sys2Proof.Machine

/-! ## Loop stacks -/

/-- An address lies in a body (R131). -/
def LoopEntry.covers (e : LoopEntry) (a : DWord) : Bool := decide (e.start ≤ a) && decide (a ≤ e.stop)

/-- Pop the entries whose bodies do not hold the target of a taken transfer (R133). -/
def popScan (a : DWord) (st : List LoopEntry) : List LoopEntry :=
  match st with
  | [] => []
  | e :: r => if e.covers a then e :: r else popScan a r

/-- The end check of a retired instruction at `pcx` that would continue at `nxt` (R133): the stack and the next PC. -/
def endCheck (pcx nxt : DWord) (st : List LoopEntry) : List LoopEntry × DWord :=
  match st with
  | [] => ([], nxt)
  | e :: r =>
    if e.stop = pcx then
      if e.count - 1 = 0 then endCheck pcx nxt r
      else ({ e with count := e.count - 1 } :: r, e.start)
    else (e :: r, nxt)

/-- What a transfer does to loop stacks (R133, R175). -/
inductive Xfer where
  /-- BRT, BRF that some lane does not take: a group that goes on makes the end check -/
  | cond
  /-- BRA, BRX, RET, the skip of a loop, BRT and BRF that every lane takes -/
  | jump
  /-- CALL, CALLX: nothing pops -/
  | call
  deriving DecidableEq, Repr

/-- The stack of a group that a transfer takes to a target. -/
def Xfer.pop (k : Xfer) (target : DWord) (st : List LoopEntry) : List LoopEntry :=
  match k with
  | .cond => popScan target st
  | .jump => popScan target st
  | .call => st

/-- Where a group of a divergent transfer continues, on its own copy of the stack (R175): the group of a BRT or BRF that is not
taken makes the end check, every other pops as its transfer does. -/
def landing (k : Xfer) (pcx nxt target : DWord) (st : List LoopEntry) : List LoopEntry × DWord :=
  if k = .cond ∧ target = nxt then endCheck pcx nxt st else (k.pop target st, target)

/-! ## Path order (R241; the model's record of it) -/

/-- A new segment of path order for path `p`. -/
def Warp.newSeg (w : Warp) (p : Nat) : Warp :=
  { (w.updPath p (fun q => { q with segs := w.seg :: q.segs })) with seg := w.seg + 1 }

/-- What a child that arrives or ends adds to the segments that precede its parent's later accesses. -/
def Path.joinAfter (h : Path) (segs : List Nat) : Path :=
  { h with after := h.after ++ segs.filter (fun x => !(h.segs.contains x || h.after.contains x)) }

/-! ## Merging -/

/-- The free entries of the table, lowest first. -/
def Warp.freePaths (w : Warp) : List Nat := (numsFrom 0 8).filter (fun i => (w.path i).status == .free)

/-- Merge a waiting entry whose children are gone (R173), and the parents that this lets merge. -/
def Warp.merge (w : Warp) (i : Nat) (fuel : Nat) : Warp :=
  match fuel with
  | 0 => w
  | fuel + 1 =>
    let h := w.path i
    if h.status = .wait ∧ h.kids = 0 ∧ h.held = 0 then
      if h.arrived = 0 then
        let w1 := w.updPath i (fun _ => Path.empty)
        match h.parent with
        | none => w1
        | some par =>
          (w1.updPath par (fun q => { (q.joinAfter (h.segs ++ h.after)) with kids := q.kids - 1 })).merge par fuel
      else
        (w.updPath i (fun q => { q with status := .run, mask := q.arrived, arrived := 0, pc := q.jp.getD q.pc })).newSeg i
    else w

/-- Path `i` leaves the table, or re-executes its held lanes (the last part of R172). -/
def Warp.leave (w : Warp) (i : Nat) : Warp :=
  let p := w.path i
  if p.held = 0 then
    let w1 := w.updPath i (fun _ => Path.empty)
    match p.parent with
    | none => w1
    | some par => (w1.updPath par (fun q => { (q.joinAfter (p.segs ++ p.after)) with kids := q.kids - 1 })).merge par 9
  else
    w.updPath i (fun q => { q with mask := q.held, pc := q.hpc, stack := q.hstack, held := 0, hstack := [] })

/-- Path `i` arrives at its parent (R172). -/
def Warp.arrive (w : Warp) (i : Nat) : Warp :=
  let p := w.path i
  match p.parent with
  | none => w
  | some h =>
    let w1 := w.updPath h (fun q => { (q.joinAfter (p.segs ++ p.after)) with arrived := q.arrived ||| p.mask })
    w1.leave i

/-- A PC is that of a join point; one with a bit of [63:56] set is none (R57). -/
def joinsAt (j : Option DWord) (pc : DWord) : Bool := j == some pc && decide (pc.toNat < 2 ^ 56)

/-- The arrival check (R172). -/
def Warp.settle (w : Warp) (i : Nat) : Warp :=
  let p := w.path i
  if p.status = .run ∧ joinsAt p.arr p.pc = true ∧ p.mask ≠ 0 then w.arrive i else w

/-! ## Splitting -/

/-- A group of lanes with one target (R169). -/
structure Branch where
  target : DWord
  lanes : Mask
  deriving DecidableEq, Repr

/-- Add a lane to the groups, kept in ascending target order. -/
def addLane (gs : List Branch) (t : DWord) (lane : Nat) : List Branch :=
  match gs with
  | [] => [{ target := t, lanes := Mask.bit lane }]
  | g :: r =>
    if t = g.target then { g with lanes := g.lanes ||| Mask.bit lane } :: r
    else if t < g.target then { target := t, lanes := Mask.bit lane } :: g :: r
    else g :: addLane r t lane

/-- The groups of the lanes' targets (R169). -/
def branches (ts : List (Nat × DWord)) : List Branch := ts.foldl (fun gs e => addLane gs e.2 e.1) []

/-- The split of path `q` is flat (R170). -/
def Path.flat (q : Path) : Bool := q.jp.isSome && q.arr.isSome && q.jp == q.arr

/-- Groups that need an entry of their own: all but those at the join point and, in a flat split, the lowest other. -/
def Path.others (q : Path) (gs : List Branch) : List Branch :=
  let rest := gs.filter (fun g => !(joinsAt q.jp g.target))
  if q.flat then rest.drop 1 else rest

/-- The divergent transfer cannot issue: lanes of another transfer are held and the entries do not suffice (R169, R171). -/
def Warp.splitBlocked (w : Warp) (p : Nat) (x : DWord) (gs : List Branch) : Bool :=
  let q := w.path p
  decide (1 < gs.length) && q.held != 0 && q.hpc != x && decide (w.freePaths.length < (q.others gs).length)

/-- Fill the lowest free entry with a group (`place` of R170). -/
def Warp.place (w : Warp) (home : Nat) (q : Path) (st : List LoopEntry) (k : Xfer) (x nxt : DWord) (g : Branch) :
    Warp :=
  match w.freePaths with
  | [] => w
  | e :: _ =>
    let l := landing k x nxt g.target st
    let w1 := w.updPath e (fun _ =>
      { Path.empty with status := .run, pc := l.2, mask := g.lanes, jp := q.jp, arr := q.jp, parent := some home,
                        stack := l.1, segs := q.segs, after := q.after })
    (w1.newSeg e).updPath home (fun h => { h with kids := h.kids + 1 })

/-- Place several groups, ascending. -/
def Warp.placeAll (w : Warp) (home : Nat) (q : Path) (st : List LoopEntry) (k : Xfer) (x nxt : DWord)
    (gs : List Branch) : Warp :=
  match gs with
  | [] => w
  | g :: r => (w.place home q st k x nxt g).placeAll home q st k x nxt r

/-- Hold groups at the transfer for lack of entries (R171). -/
def Warp.holdLanes (w : Warp) (p : Nat) (st : List LoopEntry) (x : DWord) (gs : List Branch) : Warp :=
  match gs with
  | [] => w
  | _ =>
    w.updPath p (fun q => { q with held := gs.foldl (fun (m : Mask) g => m ||| g.lanes) q.held, hpc := x,
                                   hstack := if q.held = 0 then st else q.hstack })

/-- A divergent transfer at `x` issued by path `p` (R170); `st` is the loop stack with which it issued. A group whose target is
the join point arrives at once and makes no end check (DESIGN CHOICE, log entry 79). -/
def Warp.split (w : Warp) (p : Nat) (st : List LoopEntry) (k : Xfer) (x nxt : DWord) (gs : List Branch) : Warp :=
  let q := w.path p
  let home := if q.flat then q.parent.getD p else p
  let atJoin := gs.filter (fun g => joinsAt q.jp g.target)
  let arrived := atJoin.foldl (fun (m : Mask) g => m ||| g.lanes) 0
  let rest := gs.filter (fun g => !(joinsAt q.jp g.target))
  let others := q.others gs
  let w1 := if arrived = 0 then w
    else w.updPath home (fun h =>
      { (if q.flat then h.joinAfter (q.segs ++ q.after) else h) with arrived := h.arrived ||| arrived })
  let w2 :=
    if q.flat then
      match rest with
      | [] => w1.updPath p (fun q => { q with mask := 0 })
      | g :: _ =>
        let l := landing k x nxt g.target st
        (w1.updPath p (fun q => { q with mask := g.lanes, pc := l.2, stack := l.1 })).newSeg p
    else w1.updPath p (fun q => { q with status := .wait, mask := 0 })
  let free := w2.freePaths.length
  let now := if others.length ≤ free then others else if q.flat then [] else others.take (Nat.min free 1)
  let later := others.drop now.length
  let used := w2.freePaths.take now.length
  let w3 := used.foldl (fun w e => w.settle e) ((w2.holdLanes p st x later).placeAll home q st k x nxt now)
  if q.flat then
    if (w3.path p).mask = 0 then w3.arrive p else w3.settle p
  else w3.merge p 9

/-! ## Retirement on the path -/

/-- The path goes on after an instruction that is no taken transfer: next PC, end check, arrival (R133, R172). -/
def Warp.advance (w : Warp) (p : Nat) (pcx nxt : DWord) : Warp :=
  (w.updPath p (fun q =>
    let l := endCheck pcx nxt q.stack
    { q with pc := l.2, stack := l.1 })).settle p

/-- The path goes on at the target of a taken transfer that all its lanes take (R133, R172). -/
def Warp.goto (w : Warp) (p : Nat) (k : Xfer) (target : DWord) : Warp :=
  (w.updPath p (fun q => { q with pc := target, stack := k.pop target q.stack })).settle p

/-- A transfer at `x` whose lanes reach these targets (R169, R170). A waiting path re-executes it for its held lanes,
which are split again (R171). One to its own next instruction pops as a taken transfer does and makes no end check where every lane
takes it; a BRT or BRF to there that some lanes take makes the end check for all (DESIGN CHOICE, log entry 78). -/
def Warp.transfer (w : Warp) (p : Nat) (k : Xfer) (x nxt : DWord) (gs : List Branch) : Warp :=
  let q := w.path p
  if q.status = .wait then
    (w.updPath p (fun q => { q with held := 0 })).split p q.hstack k x nxt gs
  else match gs with
    | [] => w.advance p x nxt
    | [g] => if k = .cond ∧ g.target = nxt then w.advance p x nxt else w.goto p k g.target
    | _ => w.split p q.stack k x nxt gs

/-- Lanes of path `p` become absent (R130, R152); an empty path follows R172 with nothing added to its parent. -/
def Warp.loseLanes (w : Warp) (p : Nat) (lanes : Mask) : Warp :=
  let w1 := { (w.updPath p (fun q => { q with mask := q.mask &&& ~~~lanes })) with live := w.live &&& ~~~lanes }
  if (w1.path p).mask = 0 ∧ (w1.path p).status = .run then w1.leave p else w1

/-! ## Choosing a path (R176) -/

/-- A path may be offered: it runs with lanes, or waits with held lanes while an entry is free (R171, R176). -/
def Warp.candidate (w : Warp) (i : Nat) : Bool :=
  let p := w.path i
  (p.status == .run && p.mask != 0) || (p.status == .wait && p.held != 0 && !w.freePaths.isEmpty)

/-- The PC a candidate would issue at. -/
def Path.nextPc (p : Path) : DWord := if p.status = .wait then p.hpc else p.pc

/-- The lowest PC among the indices, the lower index on a tie. -/
def Warp.lowestPc (w : Warp) (is : List Nat) : Option Nat :=
  is.foldl (fun (b : Option Nat) i =>
    match b with
    | none => some i
    | some j => if (w.path i).nextPc < (w.path j).nextPc then some i else some j) none

/-- The path taken among the ready ones (R176): a skip count of 15 first, then the lowest PC. -/
def Warp.choosePath (w : Warp) (ready : List Nat) : Option Nat :=
  match ready.find? (fun i => decide (15 ≤ (w.path i).skip)) with
  | some i => some i
  | none => w.lowestPc ready

/-- The skip counts after path `p` is taken among the ready ones (R176). -/
def Warp.countSkips (w : Warp) (ready : List Nat) (p : Nat) : Warp :=
  ready.foldl (fun w i => w.updPath i (fun q => { q with skip := if i = p then 0 else Nat.min 15 (q.skip + 1) })) w

end Sys2Proof.Machine
end

