-- ==== Sys2Proof/Decode.lean ====
section
/-!
DEFINITION. Instruction words, prefixes and literals (R52 to R70): decoding, total on any words, in the order of R70
(checks 3, 4, 6 and 7; the others read state and stand with the meanings), and the encoder.
-/
namespace Sys2Proof

/-- The class of a register code (R54). -/
inductive RegClass where
  | lane
  | uniform
  | mask
  | const
  | handle
  | token
  | reserved
  | zero
  deriving DecidableEq, Repr

/-- The class a code names (R54). -/
def classOf (c : Code) : RegClass :=
  let n := c.toNat
  if n < 0x80 then .lane
  else if n < 0xC0 then .uniform
  else if n < 0xD0 then .mask
  else if n < 0xE0 then .const
  else if n < 0xF0 then .handle
  else if n < 0xF8 then .token
  else if n < 0xFF then .reserved
  else .zero

/-- The code names a lane register. -/
def isLane (c : Code) : Bool := classOf c == .lane

/-- An instruction with destination `d` and sources `srcs` executes once per warp (R87): a uniform or mask destination,
or z with no lane source (DEDUCED, log entry 52). -/
def onceR (d : Code) (srcs : List Code) : Bool :=
  match classOf d with
  | .uniform => true
  | .mask => true
  | .zero => !srcs.any isLane
  | _ => false

/-- A uniform destination makes an instruction execute once per warp (R20), of whatever classes its description accepts. -/
def toUniform (d : Code) : Bool := classOf d == .uniform

/-- The destination makes an instruction that writes words execute once per warp (R20). -/
def onceDst (d : Code) : Bool := classOf d == .uniform || classOf d == .mask

/-- A load executes once per warp (R137). -/
def onceLoad (d a : Code) : Bool :=
  match classOf d with
  | .uniform => true
  | .mask => true
  | .zero => !isLane a
  | _ => false

/-- The register that plays the source role of d in a group-E instruction (R62). -/
def srcD (pf : Option Prefix) (d : Code) : Code :=
  match pf with
  | none => d
  | some p => p.e

/-- The selectors of THSET and THGET (R284). -/
def selOk (sel : BitVec 8) : Bool := decide (sel.toNat ≤ 0x0B) || (decide (0x10 ≤ sel.toNat) && decide (sel.toNat ≤ 0x17))

/-- The context selectors of MTSR (R351, R364). -/
def mtsrOk (sel : BitVec 8) : Bool := decide (0x20 ≤ sel.toNat) && decide (sel.toNat ≤ 0x30)

/-- The fields of a prefix word (R60). -/
def Prefix.ofWord (w : Word) : Prefix :=
  { maskEn := w.extractLsb' 23 1 == 1, mask := w.extractLsb' 19 4, rnd := w.extractLsb' 16 3, e := w.extractLsb' 8 8,
    zero := w.extractLsb' 7 1 == 1, ty := w.extractLsb' 3 4 }

/-- One bit from a Bool. -/
def bit1 (b : Bool) : BitVec 1 := if b then 1#1 else 0#1

/-- The word of a prefix (R60). -/
def Prefix.word (p : Prefix) : Word := 0xDF#8 ++ bit1 p.maskEn ++ p.mask ++ p.rnd ++ p.e ++ bit1 p.zero ++ p.ty ++ 0#3

/-- The prefix groups beside G that an instruction accepts (R61): rounding, type, fourth operand. -/
structure Groups where
  n : Bool
  t : Bool
  e : Bool
  deriving DecidableEq, Repr

/-- The words of one instruction: a prefix word, the instruction word, its literal or second word (0 where it has none). -/
structure Words where
  pw : Option Word
  w : Word
  x : Word
  deriving DecidableEq, Repr

/-- The prefix of the words. -/
def Words.pf (q : Words) : Option Prefix := q.pw.map Prefix.ofWord

/-- The index of the instruction word: 1 behind a prefix (R70). -/
def Words.base (q : Words) : Nat := if q.pw.isSome then 1 else 0

/-- The instruction takes a trailing word (R63, R64). -/
def hasSecond (op : Nat) : Bool :=
  op == 0xA0 || op == 0xA1 || op == 0xAE || (decide (0xB0 ≤ op) && decide (op ≤ 0xCD))

/-- The opcode byte of a word (R66). -/
def opcode (w : Word) : Nat := (w.extractLsb' 24 8).toNat

/-- The length in words. -/
def Words.len (q : Words) : Nat := q.base + 1 + (if hasSecond (opcode q.w) then 1 else 0)

/-- The subcause of R70: word index in [9:8], lowest bit of the field in [4:0]. -/
def subOf (word lo : Nat) : BitVec 32 := BitVec.ofNat 32 (word * 256 + lo)

/-- An unassigned opcode (R69, check 3 of R70). -/
def Words.unassigned (q : Words) : Instr := .nonInstruction .none 0x00 (subOf q.base 24) q.len

/-- The field of a prefix that its instruction does not take, or that holds an illegal value (R60, R61): its lowest
bit. Of several the highest is named (DESIGN CHOICE, log entry 65). -/
def prefixBad (g : Groups) (once : Bool) (p : Prefix) : Option Nat :=
  if p.maskEn && once then some 23
  else if decide (4 < p.rnd.toNat) || (!g.n && p.rnd != 0) then some 16
  else if !g.e && p.e != 0 then some 8
  else if p.zero && !p.maskEn then some 7
  else if decide (3 < p.ty.toNat) || (!g.t && p.ty != 0) then some 3
  else none

/-- Checks 4, 6 and 7 of R70 for the instruction `i`: the prefix is acceptable, reserved fields and values are zero
(`chks`: word, lowest bit, whether it is broken, in the order of R70), the prefix fields are legal. -/
def fin (q : Words) (pr : Priv) (chks : List (Nat × Nat × Bool)) (g : Option Groups) (once : Bool) (i : Instr) : Instr :=
  match q.pw, g with
  | some _, none => .nonInstruction .none 0x04 (subOf 1 24) q.len
  | none, _ =>
    match chks.find? (fun c => c.2.2) with
    | some c => .nonInstruction pr 0x01 (subOf c.1 c.2.1) q.len
    | none => i
  | some pw, some g =>
    if pw.extractLsb' 0 3 != 0 then .nonInstruction pr 0x01 (subOf 0 0) q.len
    else
      match chks.find? (fun c => c.2.2) with
      | some c => .nonInstruction pr 0x01 (subOf (c.1 + 1) c.2.1) q.len
      | none =>
        match prefixBad g once (Prefix.ofWord pw) with
        | some lo => .nonInstruction pr 0x05 (subOf 0 lo) q.len
        | none => i

/-- Opcodes 0x00 to 0x0F (R66). -/
def decode0 (ws : Words) (op : Nat) : Instr :=
  match op with
  | 0x01 =>
    let d := ws.w.extractLsb' 16 8
    let a := ws.w.extractLsb' 8 8
    let b := ws.w.extractLsb' 0 8
    fin ws .none [] (some ⟨false, false, false⟩) (onceR d [a, b]) (.add ws.pf d a b)
  | 0x02 =>
    let d := ws.w.extractLsb' 16 8
    let a := ws.w.extractLsb' 8 8
    let b := ws.w.extractLsb' 0 8
    fin ws .none [] (some ⟨false, false, false⟩) (onceR d [a, b]) (.sub ws.pf d a b)
  | 0x03 =>
    let d := ws.w.extractLsb' 16 8
    let a := ws.w.extractLsb' 8 8
    let b := ws.w.extractLsb' 0 8
    fin ws .none [] (some ⟨false, false, false⟩) (onceR d [a, b]) (.adds ws.pf d a b)
  | 0x04 =>
    let d := ws.w.extractLsb' 16 8
    let a := ws.w.extractLsb' 8 8
    let b := ws.w.extractLsb' 0 8
    fin ws .none [] (some ⟨false, false, false⟩) (onceR d [a, b]) (.subs ws.pf d a b)
  | 0x05 =>
    let d := ws.w.extractLsb' 16 8
    let a := ws.w.extractLsb' 8 8
    let b := ws.w.extractLsb' 0 8
    fin ws .none [] (some ⟨false, false, false⟩) (onceR d [a, b]) (.mullo ws.pf d a b)
  | 0x06 =>
    let d := ws.w.extractLsb' 16 8
    let a := ws.w.extractLsb' 8 8
    let b := ws.w.extractLsb' 0 8
    fin ws .none [] (some ⟨false, false, false⟩) (onceR d [a, b]) (.mulhiS ws.pf d a b)
  | 0x07 =>
    let d := ws.w.extractLsb' 16 8
    let a := ws.w.extractLsb' 8 8
    let b := ws.w.extractLsb' 0 8
    fin ws .none [] (some ⟨false, false, false⟩) (onceR d [a, b]) (.mulhiU ws.pf d a b)
  | 0x08 =>
    let d := ws.w.extractLsb' 16 8
    let a := ws.w.extractLsb' 8 8
    let b := ws.w.extractLsb' 0 8
    fin ws .none [] (some ⟨false, false, true⟩) (onceR d (srcD ws.pf d :: [a, b])) (.mad ws.pf d a b)
  | 0x09 =>
    let d := ws.w.extractLsb' 16 8
    let a := ws.w.extractLsb' 8 8
    let b := ws.w.extractLsb' 0 8
    fin ws .none [] (some ⟨false, false, true⟩) (onceR d (srcD ws.pf d :: [a, b])) (.madwU ws.pf d a b)
  | 0x0A =>
    let d := ws.w.extractLsb' 16 8
    let a := ws.w.extractLsb' 8 8
    let b := ws.w.extractLsb' 0 8
    fin ws .none [] (some ⟨false, false, true⟩) (onceR d (srcD ws.pf d :: [a, b])) (.madwS ws.pf d a b)
  | 0x0B =>
    let d := ws.w.extractLsb' 16 8
    let a := ws.w.extractLsb' 8 8
    let b := ws.w.extractLsb' 0 8
    fin ws .none [] (some ⟨false, false, false⟩) (onceR d [a, b]) (.divS ws.pf d a b)
  | 0x0C =>
    let d := ws.w.extractLsb' 16 8
    let a := ws.w.extractLsb' 8 8
    let b := ws.w.extractLsb' 0 8
    fin ws .none [] (some ⟨false, false, false⟩) (onceR d [a, b]) (.divU ws.pf d a b)
  | 0x0D =>
    let d := ws.w.extractLsb' 16 8
    let a := ws.w.extractLsb' 8 8
    let b := ws.w.extractLsb' 0 8
    fin ws .none [] (some ⟨false, false, false⟩) (onceR d [a, b]) (.remS ws.pf d a b)
  | 0x0E =>
    let d := ws.w.extractLsb' 16 8
    let a := ws.w.extractLsb' 8 8
    let b := ws.w.extractLsb' 0 8
    fin ws .none [] (some ⟨false, false, false⟩) (onceR d [a, b]) (.remU ws.pf d a b)
  | 0x0F =>
    let d := ws.w.extractLsb' 16 8
    let a := ws.w.extractLsb' 8 8
    let b := ws.w.extractLsb' 0 8
    fin ws .none [] (some ⟨false, false, false⟩) (onceR d [a, b]) (.minS ws.pf d a b)
  | _ => ws.unassigned

/-- Opcodes 0x10 to 0x1F (R66). -/
def decode1 (ws : Words) (op : Nat) : Instr :=
  match op with
  | 0x10 =>
    let d := ws.w.extractLsb' 16 8
    let a := ws.w.extractLsb' 8 8
    let b := ws.w.extractLsb' 0 8
    fin ws .none [] (some ⟨false, false, false⟩) (onceR d [a, b]) (.minU ws.pf d a b)
  | 0x11 =>
    let d := ws.w.extractLsb' 16 8
    let a := ws.w.extractLsb' 8 8
    let b := ws.w.extractLsb' 0 8
    fin ws .none [] (some ⟨false, false, false⟩) (onceR d [a, b]) (.maxS ws.pf d a b)
  | 0x12 =>
    let d := ws.w.extractLsb' 16 8
    let a := ws.w.extractLsb' 8 8
    let b := ws.w.extractLsb' 0 8
    fin ws .none [] (some ⟨false, false, false⟩) (onceR d [a, b]) (.maxU ws.pf d a b)
  | 0x13 =>
    let d := ws.w.extractLsb' 16 8
    let a := ws.w.extractLsb' 8 8
    fin ws .none [(0, 0, ws.w.extractLsb' 0 8 != 0)] (some ⟨false, false, false⟩) (onceR d [a]) (.abs ws.pf d a)
  | 0x14 =>
    let d := ws.w.extractLsb' 16 8
    let a := ws.w.extractLsb' 8 8
    fin ws .none [(0, 0, ws.w.extractLsb' 0 8 != 0)] (some ⟨false, false, false⟩) (onceR d [a]) (.neg ws.pf d a)
  | 0x15 =>
    let d := ws.w.extractLsb' 16 8
    let a := ws.w.extractLsb' 8 8
    let b := ws.w.extractLsb' 0 8
    fin ws .none [] (some ⟨false, false, false⟩) (onceR d [a, b]) (.and ws.pf d a b)
  | 0x16 =>
    let d := ws.w.extractLsb' 16 8
    let a := ws.w.extractLsb' 8 8
    let b := ws.w.extractLsb' 0 8
    fin ws .none [] (some ⟨false, false, false⟩) (onceR d [a, b]) (.or ws.pf d a b)
  | 0x17 =>
    let d := ws.w.extractLsb' 16 8
    let a := ws.w.extractLsb' 8 8
    let b := ws.w.extractLsb' 0 8
    fin ws .none [] (some ⟨false, false, false⟩) (onceR d [a, b]) (.xor ws.pf d a b)
  | 0x18 =>
    let d := ws.w.extractLsb' 16 8
    let a := ws.w.extractLsb' 8 8
    let b := ws.w.extractLsb' 0 8
    fin ws .none [] (some ⟨false, false, false⟩) (onceR d [a, b]) (.andn ws.pf d a b)
  | 0x19 =>
    let d := ws.w.extractLsb' 16 8
    let a := ws.w.extractLsb' 8 8
    let b := ws.w.extractLsb' 0 8
    fin ws .none [] (some ⟨false, false, false⟩) (onceR d [a, b]) (.shl ws.pf d a b)
  | 0x1A =>
    let d := ws.w.extractLsb' 16 8
    let a := ws.w.extractLsb' 8 8
    let b := ws.w.extractLsb' 0 8
    fin ws .none [] (some ⟨false, false, false⟩) (onceR d [a, b]) (.shr ws.pf d a b)
  | 0x1B =>
    let d := ws.w.extractLsb' 16 8
    let a := ws.w.extractLsb' 8 8
    let b := ws.w.extractLsb' 0 8
    fin ws .none [] (some ⟨false, false, false⟩) (onceR d [a, b]) (.sar ws.pf d a b)
  | 0x1C =>
    let d := ws.w.extractLsb' 16 8
    let a := ws.w.extractLsb' 8 8
    let b := ws.w.extractLsb' 0 8
    fin ws .none [] (some ⟨false, false, false⟩) (onceR d [a, b]) (.rol ws.pf d a b)
  | 0x1D =>
    let d := ws.w.extractLsb' 16 8
    let a := ws.w.extractLsb' 8 8
    let b := ws.w.extractLsb' 0 8
    fin ws .none [] (some ⟨false, false, false⟩) (onceR d [a, b]) (.fshl ws.pf d a b)
  | 0x1E =>
    let d := ws.w.extractLsb' 16 8
    let a := ws.w.extractLsb' 8 8
    let b := ws.w.extractLsb' 0 8
    fin ws .none [] (some ⟨false, false, false⟩) (onceR d [a, b]) (.bfxU ws.pf d a b)
  | 0x1F =>
    let d := ws.w.extractLsb' 16 8
    let a := ws.w.extractLsb' 8 8
    let b := ws.w.extractLsb' 0 8
    fin ws .none [] (some ⟨false, false, false⟩) (onceR d [a, b]) (.bfxS ws.pf d a b)
  | _ => ws.unassigned

/-- Opcodes 0x20 to 0x2F (R66). SEL and the compares run lane by lane also with `d` = z and no lane source (R96, R97), so that they
accept a mask enable there (DEDUCED, log entry 52). -/
def decode2 (ws : Words) (op : Nat) : Instr :=
  match op with
  | 0x20 =>
    let d := ws.w.extractLsb' 16 8
    let a := ws.w.extractLsb' 8 8
    let b := ws.w.extractLsb' 0 8
    fin ws .none [] (some ⟨false, false, false⟩) (onceR d [a, b]) (.bfi ws.pf d a b)
  | 0x21 =>
    let d := ws.w.extractLsb' 16 8
    let a := ws.w.extractLsb' 8 8
    fin ws .none [(0, 0, ws.w.extractLsb' 0 8 != 0)] (some ⟨false, false, false⟩) (onceR d [a]) (.clz ws.pf d a)
  | 0x22 =>
    let d := ws.w.extractLsb' 16 8
    let a := ws.w.extractLsb' 8 8
    fin ws .none [(0, 0, ws.w.extractLsb' 0 8 != 0)] (some ⟨false, false, false⟩) (onceR d [a]) (.ctz ws.pf d a)
  | 0x23 =>
    let d := ws.w.extractLsb' 16 8
    let a := ws.w.extractLsb' 8 8
    fin ws .none [(0, 0, ws.w.extractLsb' 0 8 != 0)] (some ⟨false, false, false⟩) (onceR d [a]) (.popc ws.pf d a)
  | 0x24 =>
    let d := ws.w.extractLsb' 16 8
    let a := ws.w.extractLsb' 8 8
    fin ws .none [(0, 0, ws.w.extractLsb' 0 8 != 0)] (some ⟨false, false, false⟩) (onceR d [a]) (.brev ws.pf d a)
  | 0x25 =>
    let d := ws.w.extractLsb' 16 8
    let a := ws.w.extractLsb' 8 8
    let b := ws.w.extractLsb' 0 8
    fin ws .none [] (some ⟨false, false, false⟩) (onceR d [a, b]) (.permb ws.pf d a b)
  | 0x26 =>
    let d := ws.w.extractLsb' 16 8
    let a := ws.w.extractLsb' 8 8
    let b := ws.w.extractLsb' 0 8
    fin ws .none [] (some ⟨false, false, false⟩) (toUniform d) (.cmpEq ws.pf d a b)
  | 0x27 =>
    let d := ws.w.extractLsb' 16 8
    let a := ws.w.extractLsb' 8 8
    let b := ws.w.extractLsb' 0 8
    fin ws .none [] (some ⟨false, false, false⟩) (toUniform d) (.cmpNe ws.pf d a b)
  | 0x28 =>
    let d := ws.w.extractLsb' 16 8
    let a := ws.w.extractLsb' 8 8
    let b := ws.w.extractLsb' 0 8
    fin ws .none [] (some ⟨false, false, false⟩) (toUniform d) (.cmpLtS ws.pf d a b)
  | 0x29 =>
    let d := ws.w.extractLsb' 16 8
    let a := ws.w.extractLsb' 8 8
    let b := ws.w.extractLsb' 0 8
    fin ws .none [] (some ⟨false, false, false⟩) (toUniform d) (.cmpLeS ws.pf d a b)
  | 0x2A =>
    let d := ws.w.extractLsb' 16 8
    let a := ws.w.extractLsb' 8 8
    let b := ws.w.extractLsb' 0 8
    fin ws .none [] (some ⟨false, false, false⟩) (toUniform d) (.cmpLtU ws.pf d a b)
  | 0x2B =>
    let d := ws.w.extractLsb' 16 8
    let a := ws.w.extractLsb' 8 8
    let b := ws.w.extractLsb' 0 8
    fin ws .none [] (some ⟨false, false, false⟩) (toUniform d) (.cmpLeU ws.pf d a b)
  | 0x2C =>
    let d := ws.w.extractLsb' 16 8
    let a := ws.w.extractLsb' 8 8
    let b := ws.w.extractLsb' 0 8
    fin ws .none [] (some ⟨false, false, false⟩) (onceDst d) (.sel ws.pf d a b)
  | 0x2D =>
    let d := ws.w.extractLsb' 16 8
    let a := ws.w.extractLsb' 8 8
    fin ws .none [(0, 0, ws.w.extractLsb' 0 8 != 0)] (some ⟨false, false, false⟩) (onceR d [a]) (.mov ws.pf d a)
  | 0x2E =>
    let d := ws.w.extractLsb' 16 8
    let s := ws.w.extractLsb' 8 8
    fin ws .none [(0, 0, ws.w.extractLsb' 0 8 != 0)] (some ⟨false, false, false⟩) (onceR d []) (.movsr ws.pf d s)
  | 0x2F =>
    let i := ws.w.extractLsb' 0 16
    fin ws .none [(0, 16, ws.w.extractLsb' 16 8 != 0)] none (false) (.setmode i)
  | _ => ws.unassigned

/-- Opcodes 0x30 to 0x3F (R66). -/
def decode3 (ws : Words) (op : Nat) : Instr :=
  match op with
  | 0x30 =>
    let d := ws.w.extractLsb' 16 8
    let a := ws.w.extractLsb' 8 8
    let b := ws.w.extractLsb' 0 8
    fin ws .none [] (some ⟨false, false, false⟩) (onceR d [a, b]) (.lea1 ws.pf d a b)
  | 0x31 =>
    let d := ws.w.extractLsb' 16 8
    let a := ws.w.extractLsb' 8 8
    let b := ws.w.extractLsb' 0 8
    fin ws .none [] (some ⟨false, false, false⟩) (onceR d [a, b]) (.lea4 ws.pf d a b)
  | 0x32 =>
    let d := ws.w.extractLsb' 16 8
    let a := ws.w.extractLsb' 8 8
    let b := ws.w.extractLsb' 0 8
    fin ws .none [] (some ⟨false, false, false⟩) (onceR d [a, b]) (.lea8 ws.pf d a b)
  | 0x33 =>
    let d := ws.w.extractLsb' 16 8
    let a := ws.w.extractLsb' 8 8
    let b := ws.w.extractLsb' 0 8
    fin ws .none [] (some ⟨false, false, false⟩) (onceR d [a, b]) (.lea16 ws.pf d a b)
  | 0x34 =>
    let d := ws.w.extractLsb' 16 8
    let a := ws.w.extractLsb' 8 8
    let b := ws.w.extractLsb' 0 8
    fin ws .none [] (some ⟨false, false, false⟩) (onceR d [a, b]) (.add64 ws.pf d a b)
  | 0x35 =>
    let d := ws.w.extractLsb' 16 8
    let a := ws.w.extractLsb' 8 8
    let b := ws.w.extractLsb' 0 8
    fin ws .none [] (some ⟨false, false, false⟩) (onceR d [a, b]) (.sub64 ws.pf d a b)
  | 0x36 =>
    let d := ws.w.extractLsb' 16 8
    let a := ws.w.extractLsb' 8 8
    let b := ws.w.extractLsb' 0 8
    fin ws .none [] (some ⟨false, false, false⟩) (onceR d [a, b]) (.cvti ws.pf d a b)
  | 0x37 =>
    let d := ws.w.extractLsb' 16 8
    let i := ws.w.extractLsb' 0 16
    fin ws .none [] (some ⟨false, false, false⟩) (onceR d []) (.addi16 ws.pf d i)
  | 0x38 =>
    let d := ws.w.extractLsb' 16 8
    let i := ws.w.extractLsb' 0 16
    fin ws .none [] (some ⟨false, false, false⟩) (onceR d []) (.andi16 ws.pf d i)
  | 0x39 =>
    let d := ws.w.extractLsb' 16 8
    let i := ws.w.extractLsb' 0 16
    fin ws .none [] (some ⟨false, false, false⟩) (onceR d []) (.ori16 ws.pf d i)
  | 0x3A =>
    let d := ws.w.extractLsb' 16 8
    let i := ws.w.extractLsb' 0 16
    fin ws .none [] (some ⟨false, false, false⟩) (onceR d []) (.xori16 ws.pf d i)
  | 0x3B =>
    let d := ws.w.extractLsb' 16 8
    let n := ws.w.extractLsb' 0 5
    fin ws .none [(0, 5, ws.w.extractLsb' 5 11 != 0)] (some ⟨false, false, false⟩) (onceR d []) (.shli ws.pf d n)
  | 0x3C =>
    let d := ws.w.extractLsb' 16 8
    let n := ws.w.extractLsb' 0 5
    fin ws .none [(0, 5, ws.w.extractLsb' 5 11 != 0)] (some ⟨false, false, false⟩) (onceR d []) (.shri ws.pf d n)
  | 0x3D =>
    let d := ws.w.extractLsb' 16 8
    let n := ws.w.extractLsb' 0 5
    fin ws .none [(0, 5, ws.w.extractLsb' 5 11 != 0)] (some ⟨false, false, false⟩) (onceR d []) (.sari ws.pf d n)
  | 0x3E =>
    let d := ws.w.extractLsb' 16 8
    let i := ws.w.extractLsb' 0 16
    fin ws .none [] (some ⟨false, false, false⟩) (onceR d []) (.movhi16 ws.pf d i)
  | 0x3F =>
    let d := ws.w.extractLsb' 16 8
    let a := ws.w.extractLsb' 8 8
    let f := ws.w.extractLsb' 0 5
    fin ws .none [(0, 5, ws.w.extractLsb' 5 3 != 0)] (some ⟨false, false, false⟩) (onceR d [a]) (.ldc ws.pf d a f)
  | _ => ws.unassigned

/-- Opcodes 0x40 to 0x4F (R66). -/
def decode4 (ws : Words) (op : Nat) : Instr :=
  match op with
  | 0x40 =>
    let d := ws.w.extractLsb' 16 8
    let a := ws.w.extractLsb' 8 8
    let b := ws.w.extractLsb' 0 8
    fin ws .none [] (some ⟨true, true, false⟩) (onceR d [a, b]) (.fadd ws.pf d a b)
  | 0x41 =>
    let d := ws.w.extractLsb' 16 8
    let a := ws.w.extractLsb' 8 8
    let b := ws.w.extractLsb' 0 8
    fin ws .none [] (some ⟨true, true, false⟩) (onceR d [a, b]) (.fsub ws.pf d a b)
  | 0x42 =>
    let d := ws.w.extractLsb' 16 8
    let a := ws.w.extractLsb' 8 8
    let b := ws.w.extractLsb' 0 8
    fin ws .none [] (some ⟨true, true, false⟩) (onceR d [a, b]) (.fmul ws.pf d a b)
  | 0x43 =>
    let d := ws.w.extractLsb' 16 8
    let a := ws.w.extractLsb' 8 8
    let b := ws.w.extractLsb' 0 8
    fin ws .none [] (some ⟨true, true, true⟩) (onceR d (srcD ws.pf d :: [a, b])) (.ffma ws.pf d a b)
  | 0x44 =>
    let d := ws.w.extractLsb' 16 8
    let a := ws.w.extractLsb' 8 8
    let n := ws.w.extractLsb' 0 8
    fin ws .none [] (some ⟨true, true, true⟩) (onceR d (srcD ws.pf d :: [a])) (.ffmc ws.pf d a n)
  | 0x45 =>
    let d := ws.w.extractLsb' 16 8
    let a := ws.w.extractLsb' 8 8
    let b := ws.w.extractLsb' 0 8
    fin ws .none [] (some ⟨false, true, false⟩) (onceR d [a, b]) (.fmin ws.pf d a b)
  | 0x46 =>
    let d := ws.w.extractLsb' 16 8
    let a := ws.w.extractLsb' 8 8
    let b := ws.w.extractLsb' 0 8
    fin ws .none [] (some ⟨false, true, false⟩) (onceR d [a, b]) (.fmax ws.pf d a b)
  | 0x47 =>
    let d := ws.w.extractLsb' 16 8
    let a := ws.w.extractLsb' 8 8
    fin ws .none [(0, 0, ws.w.extractLsb' 0 8 != 0)] (some ⟨false, true, false⟩) (onceR d [a]) (.fabs ws.pf d a)
  | 0x48 =>
    let d := ws.w.extractLsb' 16 8
    let a := ws.w.extractLsb' 8 8
    fin ws .none [(0, 0, ws.w.extractLsb' 0 8 != 0)] (some ⟨false, true, false⟩) (onceR d [a]) (.fneg ws.pf d a)
  | 0x49 =>
    let d := ws.w.extractLsb' 16 8
    let a := ws.w.extractLsb' 8 8
    let b := ws.w.extractLsb' 0 8
    fin ws .none [] (some ⟨false, true, false⟩) (toUniform d) (.fcmpEq ws.pf d a b)
  | 0x4A =>
    let d := ws.w.extractLsb' 16 8
    let a := ws.w.extractLsb' 8 8
    let b := ws.w.extractLsb' 0 8
    fin ws .none [] (some ⟨false, true, false⟩) (toUniform d) (.fcmpLt ws.pf d a b)
  | 0x4B =>
    let d := ws.w.extractLsb' 16 8
    let a := ws.w.extractLsb' 8 8
    let b := ws.w.extractLsb' 0 8
    fin ws .none [] (some ⟨false, true, false⟩) (toUniform d) (.fcmpLe ws.pf d a b)
  | 0x4C =>
    let d := ws.w.extractLsb' 16 8
    let a := ws.w.extractLsb' 8 8
    let b := ws.w.extractLsb' 0 8
    fin ws .none [] (some ⟨false, true, false⟩) (toUniform d) (.fcmpUn ws.pf d a b)
  | 0x4D =>
    let d := ws.w.extractLsb' 16 8
    let a := ws.w.extractLsb' 8 8
    fin ws .none [(0, 0, ws.w.extractLsb' 0 8 != 0)] (some ⟨false, true, false⟩) (onceR d [a]) (.fclass ws.pf d a)
  | 0x4E =>
    let d := ws.w.extractLsb' 16 8
    let a := ws.w.extractLsb' 8 8
    let b := ws.w.extractLsb' 0 8
    fin ws .none [] (some ⟨true, true, false⟩) (onceR d [a, b]) (.fdiv ws.pf d a b)
  | 0x4F =>
    let d := ws.w.extractLsb' 16 8
    let a := ws.w.extractLsb' 8 8
    fin ws .none [(0, 0, ws.w.extractLsb' 0 8 != 0)] (some ⟨true, true, false⟩) (onceR d [a]) (.fsqrt ws.pf d a)
  | _ => ws.unassigned

/-- Opcodes 0x50 to 0x5F (R66). -/
def decode5 (ws : Words) (op : Nat) : Instr :=
  match op with
  | 0x50 =>
    let d := ws.w.extractLsb' 16 8
    let a := ws.w.extractLsb' 8 8
    fin ws .none [(0, 0, ws.w.extractLsb' 0 8 != 0)] (some ⟨true, true, false⟩) (onceR d [a]) (.frcp ws.pf d a)
  | 0x51 =>
    let d := ws.w.extractLsb' 16 8
    let a := ws.w.extractLsb' 8 8
    fin ws .none [(0, 0, ws.w.extractLsb' 0 8 != 0)] (some ⟨true, true, false⟩) (onceR d [a]) (.frsq ws.pf d a)
  | 0x52 =>
    let d := ws.w.extractLsb' 16 8
    let a := ws.w.extractLsb' 8 8
    fin ws .none [(0, 0, ws.w.extractLsb' 0 8 != 0)] (some ⟨true, true, false⟩) (onceR d [a]) (.fexp2 ws.pf d a)
  | 0x53 =>
    let d := ws.w.extractLsb' 16 8
    let a := ws.w.extractLsb' 8 8
    fin ws .none [(0, 0, ws.w.extractLsb' 0 8 != 0)] (some ⟨true, true, false⟩) (onceR d [a]) (.flog2 ws.pf d a)
  | 0x54 =>
    let d := ws.w.extractLsb' 16 8
    let a := ws.w.extractLsb' 8 8
    fin ws .none [(0, 0, ws.w.extractLsb' 0 8 != 0)] (some ⟨true, true, false⟩) (onceR d [a]) (.fsin ws.pf d a)
  | 0x55 =>
    let d := ws.w.extractLsb' 16 8
    let a := ws.w.extractLsb' 8 8
    fin ws .none [(0, 0, ws.w.extractLsb' 0 8 != 0)] (some ⟨true, true, false⟩) (onceR d [a]) (.fcos ws.pf d a)
  | 0x56 =>
    let d := ws.w.extractLsb' 16 8
    let a := ws.w.extractLsb' 8 8
    fin ws .none [(0, 0, ws.w.extractLsb' 0 8 != 0)] (some ⟨true, true, false⟩) (onceR d [a]) (.fround ws.pf d a)
  | 0x57 =>
    let d := ws.w.extractLsb' 16 8
    let a := ws.w.extractLsb' 8 8
    let b := ws.w.extractLsb' 0 8
    fin ws .none [] (some ⟨true, true, false⟩) (onceR d [a, b]) (.fscale ws.pf d a b)
  | 0x58 =>
    let d := ws.w.extractLsb' 16 8
    let a := ws.w.extractLsb' 8 8
    let b := ws.w.extractLsb' 0 8
    fin ws .none [] (some ⟨true, false, false⟩) (onceR d [a, b]) (.fcvtF2i ws.pf d a b)
  | 0x59 =>
    let d := ws.w.extractLsb' 16 8
    let a := ws.w.extractLsb' 8 8
    let b := ws.w.extractLsb' 0 8
    fin ws .none [] (some ⟨true, false, false⟩) (onceR d [a, b]) (.fcvtI2f ws.pf d a b)
  | 0x5A =>
    let d := ws.w.extractLsb' 16 8
    let a := ws.w.extractLsb' 8 8
    let b := ws.w.extractLsb' 0 8
    fin ws .none [] (some ⟨true, false, false⟩) (onceR d [a, b]) (.fcvtF2f ws.pf d a b)
  | 0x5B =>
    let d := ws.w.extractLsb' 16 8
    let a := ws.w.extractLsb' 8 8
    let b := ws.w.extractLsb' 0 8
    fin ws .none [] (some ⟨true, false, false⟩) (onceR d [a, b]) (.hadd2 ws.pf d a b)
  | 0x5C =>
    let d := ws.w.extractLsb' 16 8
    let a := ws.w.extractLsb' 8 8
    let b := ws.w.extractLsb' 0 8
    fin ws .none [] (some ⟨true, false, false⟩) (onceR d [a, b]) (.hmul2 ws.pf d a b)
  | 0x5D =>
    let d := ws.w.extractLsb' 16 8
    let a := ws.w.extractLsb' 8 8
    let b := ws.w.extractLsb' 0 8
    fin ws .none [] (some ⟨true, false, true⟩) (onceR d (srcD ws.pf d :: [a, b])) (.hfma2 ws.pf d a b)
  | 0x5E =>
    let d := ws.w.extractLsb' 16 8
    let a := ws.w.extractLsb' 8 8
    let b := ws.w.extractLsb' 0 8
    fin ws .none [] (some ⟨true, false, true⟩) (onceR d (srcD ws.pf d :: [a, b])) (.hdot2 ws.pf d a b)
  | _ => ws.unassigned

/-- Opcodes 0x70 to 0x7F (R66). -/
def decode7 (ws : Words) (op : Nat) : Instr :=
  match op with
  | 0x70 =>
    let c := ws.w.extractLsb' 20 4
    let f := ws.w.extractLsb' 0 20
    fin ws .none [] none (false) (.brt c f)
  | 0x71 =>
    let c := ws.w.extractLsb' 20 4
    let f := ws.w.extractLsb' 0 20
    fin ws .none [] none (false) (.brf c f)
  | 0x72 =>
    let f := ws.w.extractLsb' 0 20
    fin ws .none [(0, 20, ws.w.extractLsb' 20 4 != 0)] none (false) (.bra f)
  | 0x73 =>
    let n := ws.w.extractLsb' 16 8
    let a := ws.w.extractLsb' 8 8
    let b := ws.w.extractLsb' 0 8
    fin ws .none [(0, 16, n == 0)] none (false) (.brx n a b)
  | 0x74 =>
    let d := ws.w.extractLsb' 16 8
    let i := ws.w.extractLsb' 0 16
    fin ws .none [] none (false) (.call d i)
  | 0x75 =>
    let d := ws.w.extractLsb' 16 8
    let a := ws.w.extractLsb' 8 8
    fin ws .none [(0, 0, ws.w.extractLsb' 0 8 != 0)] none (false) (.callx d a)
  | 0x76 =>
    let a := ws.w.extractLsb' 8 8
    fin ws .none [(0, 16, ws.w.extractLsb' 16 8 != 0), (0, 0, ws.w.extractLsb' 0 8 != 0)] none (false) (.ret a)
  | 0x77 =>
    let f := ws.w.extractLsb' 0 20
    fin ws .none [(0, 20, ws.w.extractLsb' 20 4 != 0)] none (false) (.jpt f)
  | 0x78 =>
    fin ws .none [(0, 16, ws.w.extractLsb' 16 8 != 0), (0, 8, ws.w.extractLsb' 8 8 != 0), (0, 0, ws.w.extractLsb' 0 8 != 0)] none (false) (.join)
  | 0x79 =>
    let d := ws.w.extractLsb' 16 8
    let e := ws.w.extractLsb' 0 16
    fin ws .none [(0, 0, e == 0)] none (false) (.loop d e)
  | 0x7A =>
    let n := ws.w.extractLsb' 16 8
    let e := ws.w.extractLsb' 0 16
    fin ws .none [(0, 0, e == 0)] none (false) (.loopi n e)
  | 0x7B =>
    fin ws .none [(0, 16, ws.w.extractLsb' 16 8 != 0), (0, 8, ws.w.extractLsb' 8 8 != 0), (0, 0, ws.w.extractLsb' 0 8 != 0)] none (false) (.exit)
  | 0x7C =>
    let l := ws.w.extractLsb' 18 6
    let s := ws.w.extractLsb' 12 6
    let c := ws.w.extractLsb' 6 6
    let t := ws.w.extractLsb' 0 6
    fin ws .none [] none (false) (.wait l s c t)
  | 0x7D =>
    fin ws .none [(0, 16, ws.w.extractLsb' 16 8 != 0), (0, 8, ws.w.extractLsb' 8 8 != 0), (0, 0, ws.w.extractLsb' 0 8 != 0)] none (false) (.yield)
  | 0x7E =>
    let k := ws.w.extractLsb' 0 16
    fin ws .none [(0, 16, ws.w.extractLsb' 16 8 != 0)] none (false) (.safe k)
  | 0x7F =>
    fin ws .none [(0, 16, ws.w.extractLsb' 16 8 != 0), (0, 8, ws.w.extractLsb' 8 8 != 0), (0, 0, ws.w.extractLsb' 0 8 != 0)] none (false) (.nop)
  | _ => ws.unassigned

/-- Opcodes 0x80 to 0x8F (R66). -/
def decode8 (ws : Words) (op : Nat) : Instr :=
  match op with
  | 0x80 =>
    let d := ws.w.extractLsb' 16 8
    let a := ws.w.extractLsb' 8 8
    let o := ws.w.extractLsb' 5 3
    let f := ws.w.extractLsb' 0 5
    fin ws .none [] (some ⟨false, false, false⟩) (onceLoad d a) (.ld8u ws.pf d a o f)
  | 0x81 =>
    let d := ws.w.extractLsb' 16 8
    let a := ws.w.extractLsb' 8 8
    let o := ws.w.extractLsb' 5 3
    let f := ws.w.extractLsb' 0 5
    fin ws .none [] (some ⟨false, false, false⟩) (onceLoad d a) (.ld8s ws.pf d a o f)
  | 0x82 =>
    let d := ws.w.extractLsb' 16 8
    let a := ws.w.extractLsb' 8 8
    let o := ws.w.extractLsb' 5 3
    let f := ws.w.extractLsb' 0 5
    fin ws .none [] (some ⟨false, false, false⟩) (onceLoad d a) (.ld16u ws.pf d a o f)
  | 0x83 =>
    let d := ws.w.extractLsb' 16 8
    let a := ws.w.extractLsb' 8 8
    let o := ws.w.extractLsb' 5 3
    let f := ws.w.extractLsb' 0 5
    fin ws .none [] (some ⟨false, false, false⟩) (onceLoad d a) (.ld16s ws.pf d a o f)
  | 0x84 =>
    let d := ws.w.extractLsb' 16 8
    let a := ws.w.extractLsb' 8 8
    let o := ws.w.extractLsb' 5 3
    let f := ws.w.extractLsb' 0 5
    fin ws .none [] (some ⟨false, false, false⟩) (onceLoad d a) (.ld32 ws.pf d a o f)
  | 0x85 =>
    let d := ws.w.extractLsb' 16 8
    let a := ws.w.extractLsb' 8 8
    let o := ws.w.extractLsb' 5 3
    let f := ws.w.extractLsb' 0 5
    fin ws .none [] (some ⟨false, false, false⟩) (onceLoad d a) (.ld64 ws.pf d a o f)
  | 0x86 =>
    let d := ws.w.extractLsb' 16 8
    let a := ws.w.extractLsb' 8 8
    let o := ws.w.extractLsb' 5 3
    let f := ws.w.extractLsb' 0 5
    fin ws .none [] (some ⟨false, false, false⟩) (onceLoad d a) (.ld128 ws.pf d a o f)
  | 0x87 =>
    let d := ws.w.extractLsb' 16 8
    let a := ws.w.extractLsb' 8 8
    let o := ws.w.extractLsb' 5 3
    let f := ws.w.extractLsb' 0 5
    fin ws .none [] (some ⟨false, false, false⟩) (!(isLane a || isLane d)) (.st8 ws.pf d a o f)
  | 0x88 =>
    let d := ws.w.extractLsb' 16 8
    let a := ws.w.extractLsb' 8 8
    let o := ws.w.extractLsb' 5 3
    let f := ws.w.extractLsb' 0 5
    fin ws .none [] (some ⟨false, false, false⟩) (!(isLane a || isLane d)) (.st16 ws.pf d a o f)
  | 0x89 =>
    let d := ws.w.extractLsb' 16 8
    let a := ws.w.extractLsb' 8 8
    let o := ws.w.extractLsb' 5 3
    let f := ws.w.extractLsb' 0 5
    fin ws .none [] (some ⟨false, false, false⟩) (!(isLane a || isLane d)) (.st32 ws.pf d a o f)
  | 0x8A =>
    let d := ws.w.extractLsb' 16 8
    let a := ws.w.extractLsb' 8 8
    let o := ws.w.extractLsb' 5 3
    let f := ws.w.extractLsb' 0 5
    fin ws .none [] (some ⟨false, false, false⟩) (!(isLane a || isLane d)) (.st64 ws.pf d a o f)
  | 0x8B =>
    let d := ws.w.extractLsb' 16 8
    let a := ws.w.extractLsb' 8 8
    let o := ws.w.extractLsb' 5 3
    let f := ws.w.extractLsb' 0 5
    fin ws .none [] (some ⟨false, false, false⟩) (!(isLane a || isLane d)) (.st128 ws.pf d a o f)
  | 0x8C =>
    let d := ws.w.extractLsb' 16 8
    let a := ws.w.extractLsb' 8 8
    let o := ws.w.extractLsb' 5 3
    let f := ws.w.extractLsb' 0 5
    fin ws .none [] (some ⟨false, false, false⟩) (onceLoad d a) (.lds32 ws.pf d a o f)
  | 0x8D =>
    let d := ws.w.extractLsb' 16 8
    let a := ws.w.extractLsb' 8 8
    let o := ws.w.extractLsb' 5 3
    let f := ws.w.extractLsb' 0 5
    fin ws .none [] (some ⟨false, false, false⟩) (!(isLane a || isLane d)) (.sts32 ws.pf d a o f)
  | 0x8E =>
    let d := ws.w.extractLsb' 16 8
    let a := ws.w.extractLsb' 8 8
    let o := ws.w.extractLsb' 5 3
    let f := ws.w.extractLsb' 0 5
    fin ws .none [] (some ⟨false, false, false⟩) (onceLoad d a) (.lds128 ws.pf d a o f)
  | 0x8F =>
    let d := ws.w.extractLsb' 16 8
    let a := ws.w.extractLsb' 8 8
    let o := ws.w.extractLsb' 5 3
    let f := ws.w.extractLsb' 0 5
    fin ws .none [] (some ⟨false, false, false⟩) (!(isLane a || isLane d)) (.sts128 ws.pf d a o f)
  | _ => ws.unassigned

/-- Opcodes 0x90 to 0x9F (R66). A mask destination of a cross-lane form is judged as a class, 0x02, before the mask enable of the
prefix (DEDUCED, log entry 52). -/
def decode9 (ws : Words) (op : Nat) : Instr :=
  match op with
  | 0x90 =>
    let d := ws.w.extractLsb' 16 8
    let a := ws.w.extractLsb' 8 8
    fin ws .none [(0, 0, ws.w.extractLsb' 0 8 != 0)] (some ⟨false, false, false⟩) (toUniform d) (.ballot ws.pf d a)
  | 0x91 =>
    let d := ws.w.extractLsb' 16 8
    let a := ws.w.extractLsb' 8 8
    let b := ws.w.extractLsb' 0 8
    fin ws .none [] (some ⟨false, false, false⟩) (toUniform d) (.shflIdx ws.pf d a b)
  | 0x92 =>
    let d := ws.w.extractLsb' 16 8
    let a := ws.w.extractLsb' 8 8
    let b := ws.w.extractLsb' 0 8
    fin ws .none [] (some ⟨false, false, false⟩) (toUniform d) (.shflUp ws.pf d a b)
  | 0x93 =>
    let d := ws.w.extractLsb' 16 8
    let a := ws.w.extractLsb' 8 8
    let b := ws.w.extractLsb' 0 8
    fin ws .none [] (some ⟨false, false, false⟩) (toUniform d) (.shflDown ws.pf d a b)
  | 0x94 =>
    let d := ws.w.extractLsb' 16 8
    let a := ws.w.extractLsb' 8 8
    let b := ws.w.extractLsb' 0 8
    fin ws .none [] (some ⟨false, false, false⟩) (toUniform d) (.shflXor ws.pf d a b)
  | 0x95 =>
    let d := ws.w.extractLsb' 16 8
    let a := ws.w.extractLsb' 8 8
    let c := ws.w.extractLsb' 0 8
    fin ws .none [] (some ⟨false, false, false⟩) (toUniform d) (.redux ws.pf d a c)
  | 0x96 =>
    let d := ws.w.extractLsb' 16 8
    let a := ws.w.extractLsb' 8 8
    let c := ws.w.extractLsb' 0 8
    fin ws .none [] (some ⟨false, false, false⟩) (toUniform d) (.scan ws.pf d a c)
  | 0x97 =>
    let d := ws.w.extractLsb' 16 8
    let a := ws.w.extractLsb' 8 8
    fin ws .none [(0, 0, ws.w.extractLsb' 0 8 != 0)] (some ⟨false, false, false⟩) (toUniform d) (.qappend ws.pf d a)
  | 0x98 =>
    let d := ws.w.extractLsb' 16 8
    let a := ws.w.extractLsb' 8 8
    fin ws .none [(0, 0, ws.w.extractLsb' 0 8 != 0)] (some ⟨false, false, false⟩) (toUniform d) (.xchgp ws.pf d a)
  | 0x99 =>
    let d := ws.w.extractLsb' 16 8
    let a := ws.w.extractLsb' 8 8
    let s := ws.w.extractLsb' 4 2
    let o := ws.w.extractLsb' 0 4
    fin ws .none [(0, 6, ws.w.extractLsb' 6 2 != 0)] none (false) (.expand d a s o)
  | 0x9A =>
    let d := ws.w.extractLsb' 16 8
    let a := ws.w.extractLsb' 8 8
    let b := ws.w.extractLsb' 0 8
    fin ws .none [] none (false) (.exnext d a b)
  | 0x9B =>
    let a := ws.w.extractLsb' 8 8
    fin ws .none [(0, 16, ws.w.extractLsb' 16 8 != 0), (0, 0, ws.w.extractLsb' 0 8 != 0)] none (false) (.exred a)
  | 0x9C =>
    let d := ws.w.extractLsb' 16 8
    fin ws .none [(0, 8, ws.w.extractLsb' 8 8 != 0), (0, 0, ws.w.extractLsb' 0 8 != 0)] none (false) (.exfin d)
  | 0x9D =>
    let a := ws.w.extractLsb' 8 8
    fin ws .none [(0, 16, ws.w.extractLsb' 16 8 != 0), (0, 0, ws.w.extractLsb' 0 8 != 0)] none (false) (.exsave a)
  | 0x9E =>
    let a := ws.w.extractLsb' 8 8
    fin ws .none [(0, 16, ws.w.extractLsb' 16 8 != 0), (0, 0, ws.w.extractLsb' 0 8 != 0)] none (false) (.exload a)
  | 0x9F =>
    let d := ws.w.extractLsb' 16 8
    let a := ws.w.extractLsb' 8 8
    fin ws .none [(0, 0, ws.w.extractLsb' 0 8 != 0)] (some ⟨false, false, false⟩) (toUniform d) (.matchLanes ws.pf d a)
  | _ => ws.unassigned

/-- Opcodes 0xA0 to 0xAF (R66). -/
def decodeA (ws : Words) (op : Nat) : Instr :=
  match op with
  | 0xA0 =>
    let d := ws.w.extractLsb' 16 8
    let a := ws.w.extractLsb' 8 8
    let b := ws.w.extractLsb' 0 8
    let aop := ws.x.extractLsb' 28 4
    let width := ws.x.extractLsb' 26 2
    let order := ws.x.extractLsb' 23 3
    let c := ws.x.extractLsb' 15 8
    fin ws .none [(1, 28, aop == 15), (1, 26, decide (1 < width.toNat)), (1, 15, aop != 9 && c != 0), (1, 0, ws.x.extractLsb' 0 15 != 0)] (some ⟨false, false, false⟩) (!(isLane d || isLane a || isLane b || (aop == 9 && isLane c))) (.atom ws.pf d a b aop width order c)
  | 0xA1 =>
    let d := ws.w.extractLsb' 16 8
    let a := ws.w.extractLsb' 8 8
    let b := ws.w.extractLsb' 0 8
    let aop := ws.x.extractLsb' 28 4
    let width := ws.x.extractLsb' 26 2
    let order := ws.x.extractLsb' 23 3
    let c := ws.x.extractLsb' 15 8
    fin ws .none [(1, 28, aop == 15), (1, 26, decide (1 < width.toNat)), (1, 15, aop != 9 && c != 0), (1, 0, ws.x.extractLsb' 0 15 != 0)] (some ⟨false, false, false⟩) (!(isLane d || isLane a || isLane b || (aop == 9 && isLane c))) (.atoms ws.pf d a b aop width order c)
  | 0xA2 =>
    let k := ws.w.extractLsb' 3 2
    let s := ws.w.extractLsb' 0 3
    fin ws .none [(0, 16, ws.w.extractLsb' 16 8 != 0), (0, 8, ws.w.extractLsb' 8 8 != 0), (0, 5, ws.w.extractLsb' 5 3 != 0), (0, 3, k == 3), (0, 0, decide (4 < s.toNat))] none (false) (.fence k s)
  | 0xA3 =>
    let d := ws.w.extractLsb' 16 8
    let a := ws.w.extractLsb' 8 8
    let b := ws.w.extractLsb' 0 8
    fin ws .none [] none (false) (.arrive d a b)
  | 0xA4 =>
    let form := ws.w.extractLsb' 16 8
    if form == 0x00 then
      let a := ws.w.extractLsb' 8 8
      let b := ws.w.extractLsb' 0 8
      fin ws .none [] none (false) (.waitbPh a b)
    else if form == 0x01 then
      let a := ws.w.extractLsb' 8 8
      let b := ws.w.extractLsb' 0 8
      fin ws .none [] none (false) (.waitbCnt a b)
    else
      fin ws .none [(0, 16, true)] none (false) .nop
  | 0xA5 =>
    let form := ws.w.extractLsb' 0 8
    if form == 0x01 then
      fin ws .none [(0, 16, ws.w.extractLsb' 16 8 != 0), (0, 8, ws.w.extractLsb' 8 8 != 0)] none (false) (.barWg)
    else if form == 0x02 then
      fin ws .none [(0, 16, ws.w.extractLsb' 16 8 != 0), (0, 8, ws.w.extractLsb' 8 8 != 0)] none (false) (.barTeam)
    else
      fin ws .none [(0, 16, ws.w.extractLsb' 16 8 != 0), (0, 8, ws.w.extractLsb' 8 8 != 0), (0, 0, true)] none (false) .nop
  | 0xA6 =>
    let form := ws.w.extractLsb' 16 8
    if form == 0x00 then
      let a := ws.w.extractLsb' 8 8
      let b := ws.w.extractLsb' 0 8
      fin ws .none [] none (false) (.mwaitNe a b)
    else if form == 0x01 then
      let a := ws.w.extractLsb' 8 8
      let b := ws.w.extractLsb' 0 8
      fin ws .none [] none (false) (.mwaitGeu a b)
    else
      fin ws .none [(0, 16, true)] none (false) .nop
  | 0xA7 =>
    let form := ws.w.extractLsb' 0 8
    if form == 0x00 then
      let a := ws.w.extractLsb' 8 8
      fin ws .none [(0, 16, ws.w.extractLsb' 16 8 != 0)] none (false) (.pref a)
    else if form == 0x01 then
      let a := ws.w.extractLsb' 8 8
      fin ws .none [(0, 16, ws.w.extractLsb' 16 8 != 0)] none (false) (.prefL1 a)
    else
      fin ws .none [(0, 16, ws.w.extractLsb' 16 8 != 0), (0, 0, true)] none (false) .nop
  | 0xA8 =>
    let form := ws.w.extractLsb' 0 8
    if form == 0x00 then
      let a := ws.w.extractLsb' 8 8
      fin ws .none [(0, 16, ws.w.extractLsb' 16 8 != 0)] none (false) (.cflushWb a)
    else if form == 0x01 then
      let a := ws.w.extractLsb' 8 8
      fin ws .none [(0, 16, ws.w.extractLsb' 16 8 != 0)] none (false) (.cflushInv a)
    else
      fin ws .none [(0, 16, ws.w.extractLsb' 16 8 != 0), (0, 0, true)] none (false) .nop
  | 0xA9 =>
    let d := ws.w.extractLsb' 16 8
    let a := ws.w.extractLsb' 8 8
    let b := ws.w.extractLsb' 0 8
    fin ws .none [] none (false) (.htclaim d a b)
  | 0xAA =>
    let a := ws.w.extractLsb' 8 8
    fin ws .none [(0, 16, ws.w.extractLsb' 16 8 != 0), (0, 0, ws.w.extractLsb' 0 8 != 0)] none (false) (.htrel a)
  | 0xAB =>
    let d := ws.w.extractLsb' 16 8
    let a := ws.w.extractLsb' 8 8
    let b := ws.w.extractLsb' 0 8
    fin ws .none [] (some ⟨false, false, false⟩) (!isLane a) (.hins ws.pf d a b)
  | 0xAC =>
    let d := ws.w.extractLsb' 16 8
    let a := ws.w.extractLsb' 8 8
    let b := ws.w.extractLsb' 0 8
    fin ws .none [] (some ⟨false, false, false⟩) (!isLane a) (.hprobe ws.pf d a b)
  | 0xAD =>
    let d := ws.w.extractLsb' 16 8
    let a := ws.w.extractLsb' 8 8
    let b := ws.w.extractLsb' 0 8
    fin ws .none [] (some ⟨false, false, false⟩) (!isLane a) (.hdel ws.pf d a b)
  | 0xAE =>
    let d := ws.w.extractLsb' 16 8
    let a := ws.w.extractLsb' 8 8
    let b := ws.w.extractLsb' 0 8
    let op := ws.x.extractLsb' 28 4
    let ty := ws.x.extractLsb' 26 2
    fin ws .none [(1, 28, decide (2 < op.toNat)), (1, 26, ty == 3), (1, 0, ws.x.extractLsb' 0 26 != 0)] (some ⟨false, false, false⟩) (!isLane a) (.hacc ws.pf d a b op ty)
  | 0xAF =>
    let d := ws.w.extractLsb' 16 8
    let a := ws.w.extractLsb' 8 8
    let b := ws.w.extractLsb' 0 8
    fin ws .none [] none (false) (.hdrain d a b)
  | _ => ws.unassigned

/-- Opcodes 0xB0 to 0xBF (R66). -/
def decodeB (ws : Words) (op : Nat) : Instr :=
  match op with
  | 0xB0 =>
    let d := ws.w.extractLsb' 16 8
    let a := ws.w.extractLsb' 8 8
    let off := ws.x.extractLsb' 0 16
    fin ws .none [(0, 0, ws.w.extractLsb' 0 8 != 0), (1, 16, ws.x.extractLsb' 16 16 != 0)] none (false) (.thld d a off)
  | 0xB1 =>
    let d := ws.w.extractLsb' 16 8
    let a := ws.w.extractLsb' 8 8
    let sel := ws.x.extractLsb' 0 8
    fin ws .none [(0, 0, ws.w.extractLsb' 0 8 != 0), (1, 8, ws.x.extractLsb' 8 24 != 0), (1, 0, !selOk sel)] none (false) (.thset d a sel)
  | 0xB2 =>
    let d := ws.w.extractLsb' 16 8
    let a := ws.w.extractLsb' 8 8
    let sel := ws.x.extractLsb' 0 8
    fin ws .none [(0, 0, ws.w.extractLsb' 0 8 != 0), (1, 8, ws.x.extractLsb' 8 24 != 0), (1, 0, !selOk sel)] none (false) (.thget d a sel)
  | 0xB3 =>
    let d := ws.w.extractLsb' 16 8
    let a := ws.w.extractLsb' 8 8
    let b := ws.w.extractLsb' 0 8
    let q := ws.x.extractLsb' 24 8
    let tok := ws.x.extractLsb' 16 8
    let bar := ws.x.extractLsb' 8 8
    let yld := ws.x.extractLsb' 7 1
    let cont := ws.x.extractLsb' 0 5
    fin ws .none [(1, 6, ws.x.extractLsb' 6 1 != 0), (1, 5, ws.x.extractLsb' 5 1 != 0), (1, 0, yld == 0 && cont != 0)] none (false) (.copy d a b q tok bar yld cont)
  | 0xB4 =>
    let d := ws.w.extractLsb' 16 8
    let a := ws.w.extractLsb' 8 8
    let b := ws.w.extractLsb' 0 8
    let q := ws.x.extractLsb' 24 8
    let tok := ws.x.extractLsb' 16 8
    let bar := ws.x.extractLsb' 8 8
    let yld := ws.x.extractLsb' 7 1
    let list := ws.x.extractLsb' 6 1
    let cont := ws.x.extractLsb' 0 5
    fin ws .none [(1, 5, ws.x.extractLsb' 5 1 != 0), (1, 0, yld == 0 && cont != 0)] none (false) (.gather d a b q tok bar yld list cont)
  | 0xB5 =>
    let d := ws.w.extractLsb' 16 8
    let a := ws.w.extractLsb' 8 8
    let b := ws.w.extractLsb' 0 8
    let q := ws.x.extractLsb' 24 8
    let tok := ws.x.extractLsb' 16 8
    let bar := ws.x.extractLsb' 8 8
    let yld := ws.x.extractLsb' 7 1
    let list := ws.x.extractLsb' 6 1
    let ordered := ws.x.extractLsb' 5 1
    let cont := ws.x.extractLsb' 0 5
    fin ws .none [(1, 0, yld == 0 && cont != 0)] none (false) (.scatter d a b q tok bar yld list ordered cont)
  | 0xB6 =>
    let d := ws.w.extractLsb' 16 8
    let a := ws.w.extractLsb' 8 8
    let b := ws.w.extractLsb' 0 8
    let q := ws.x.extractLsb' 24 8
    let tok := ws.x.extractLsb' 16 8
    let bar := ws.x.extractLsb' 8 8
    let yld := ws.x.extractLsb' 7 1
    let cont := ws.x.extractLsb' 0 5
    fin ws .none [(1, 6, ws.x.extractLsb' 6 1 != 0), (1, 5, ws.x.extractLsb' 5 1 != 0), (1, 0, yld == 0 && cont != 0)] none (false) (.tsplit d a b q tok bar yld cont)
  | 0xB7 =>
    let d := ws.w.extractLsb' 16 8
    let a := ws.w.extractLsb' 8 8
    let b := ws.w.extractLsb' 0 8
    let qa := ws.x.extractLsb' 24 8
    let qb := ws.x.extractLsb' 16 8
    fin ws .none [(1, 8, ws.x.extractLsb' 8 8 != 0), (1, 0, ws.x.extractLsb' 0 8 != 0)] none (false) (.mma d a b qa qb)
  | 0xB8 =>
    let d := ws.w.extractLsb' 16 8
    let a := ws.w.extractLsb' 8 8
    let b := ws.w.extractLsb' 0 8
    let qa := ws.x.extractLsb' 24 8
    let qb := ws.x.extractLsb' 16 8
    let inc := ws.x.extractLsb' 8 8
    let n := ws.x.extractLsb' 0 8
    fin ws .none [] none (false) (.mmaloop d a b qa qb inc n)
  | 0xB9 =>
    let d := ws.w.extractLsb' 16 8
    let bar := ws.x.extractLsb' 8 8
    fin ws .none [(0, 0, ws.w.extractLsb' 0 16 != 0), (1, 16, ws.x.extractLsb' 16 16 != 0), (1, 0, ws.x.extractLsb' 0 8 != 0)] none (false) (.mbatch d bar)
  | 0xBA =>
    let a := ws.w.extractLsb' 8 8
    fin ws .none [(0, 16, ws.w.extractLsb' 16 8 != 0), (0, 0, ws.w.extractLsb' 0 8 != 0), (1, 0, ws.x.extractLsb' 0 32 != 0)] none (false) (.waitt a)
  | 0xBB =>
    let form := ws.x.extractLsb' 28 4
    if form == 0 then
      let d := ws.w.extractLsb' 16 8
      fin ws .none [(0, 8, ws.w.extractLsb' 8 8 != 0), (0, 0, ws.w.extractLsb' 0 8 != 0), (1, 0, ws.x.extractLsb' 0 28 != 0)] none (false) (.maccAlloc d)
    else if form == 1 then
      let a := ws.w.extractLsb' 8 8
      fin ws .none [(0, 16, ws.w.extractLsb' 16 8 != 0), (0, 0, ws.w.extractLsb' 0 8 != 0), (1, 0, ws.x.extractLsb' 0 28 != 0)] none (false) (.maccFree a)
    else
      fin ws .none [(0, 0, ws.w.extractLsb' 0 8 != 0), (1, 28, true)] none (false) .nop
  | 0xBC =>
    let d := ws.w.extractLsb' 16 8
    let a := ws.w.extractLsb' 8 8
    let b := ws.w.extractLsb' 0 8
    let st := ws.x.extractLsb' 8 8
    let clr := ws.x.extractLsb' 7 1
    fin ws .none [(1, 16, ws.x.extractLsb' 16 16 != 0), (1, 0, ws.x.extractLsb' 0 7 != 0)] none (false) (.mdrain d a b st clr)
  | 0xBD =>
    let a := ws.w.extractLsb' 8 8
    let b := ws.w.extractLsb' 0 8
    fin ws .none [(0, 16, ws.w.extractLsb' 16 8 != 0), (1, 0, ws.x.extractLsb' 0 32 != 0)] none (false) (.bput a b)
  | 0xBE =>
    let d := ws.w.extractLsb' 16 8
    let a := ws.w.extractLsb' 8 8
    let b := ws.w.extractLsb' 0 8
    let n := ws.x.extractLsb' 24 8
    let tok := ws.x.extractLsb' 16 8
    let bar := ws.x.extractLsb' 8 8
    let strict := ws.x.extractLsb' 7 1
    let val := ws.x.extractLsb' 6 1
    let slot := ws.x.extractLsb' 4 2
    fin ws .none [(0, 0, val == 0 && b != 0xFF), (1, 0, ws.x.extractLsb' 0 4 != 0)] none (false) (.kstore d a b n tok bar strict val slot)
  | 0xBF =>
    let d := ws.w.extractLsb' 16 8
    let a := ws.w.extractLsb' 8 8
    let tok := ws.x.extractLsb' 16 8
    let bar := ws.x.extractLsb' 8 8
    let dist := ws.x.extractLsb' 6 2
    let slot := ws.x.extractLsb' 4 2
    let trunc := ws.x.extractLsb' 3 1
    fin ws .none [(0, 0, ws.w.extractLsb' 0 8 != 0), (1, 24, ws.x.extractLsb' 24 8 != 0), (1, 6, dist == 3), (1, 0, ws.x.extractLsb' 0 3 != 0)] none (false) (.bgather d a tok bar dist slot trunc)
  | _ => ws.unassigned

/-- Opcodes 0xC0 to 0xCF (R66). -/
def decodeC (ws : Words) (op : Nat) : Instr :=
  match op with
  | 0xC0 =>
    let d := ws.w.extractLsb' 16 8
    let a := ws.w.extractLsb' 8 8
    let lit := ws.x.extractLsb' 0 32
    fin ws .none [(0, 0, ws.w.extractLsb' 0 8 != 0)] (some ⟨false, false, false⟩) (onceR d [a]) (.addL ws.pf d a lit)
  | 0xC1 =>
    let d := ws.w.extractLsb' 16 8
    let a := ws.w.extractLsb' 8 8
    let lit := ws.x.extractLsb' 0 32
    fin ws .none [(0, 0, ws.w.extractLsb' 0 8 != 0)] (some ⟨false, false, false⟩) (onceR d [a]) (.andL ws.pf d a lit)
  | 0xC2 =>
    let d := ws.w.extractLsb' 16 8
    let a := ws.w.extractLsb' 8 8
    let lit := ws.x.extractLsb' 0 32
    fin ws .none [(0, 0, ws.w.extractLsb' 0 8 != 0)] (some ⟨false, false, false⟩) (onceR d [a]) (.orL ws.pf d a lit)
  | 0xC3 =>
    let d := ws.w.extractLsb' 16 8
    let a := ws.w.extractLsb' 8 8
    let lit := ws.x.extractLsb' 0 32
    fin ws .none [(0, 0, ws.w.extractLsb' 0 8 != 0)] (some ⟨false, false, false⟩) (onceR d [a]) (.xorL ws.pf d a lit)
  | 0xC4 =>
    let d := ws.w.extractLsb' 16 8
    let lit := ws.x.extractLsb' 0 32
    fin ws .none [(0, 8, ws.w.extractLsb' 8 8 != 0), (0, 0, ws.w.extractLsb' 0 8 != 0)] (some ⟨false, false, false⟩) (onceR d []) (.movL ws.pf d lit)
  | 0xC5 =>
    let d := ws.w.extractLsb' 16 8
    let a := ws.w.extractLsb' 8 8
    let lit := ws.x.extractLsb' 0 32
    fin ws .none [(0, 0, ws.w.extractLsb' 0 8 != 0)] (some ⟨false, false, false⟩) (onceR d [a]) (.mulloL ws.pf d a lit)
  | 0xC6 =>
    let d := ws.w.extractLsb' 16 8
    let a := ws.w.extractLsb' 8 8
    let lit := ws.x.extractLsb' 0 32
    fin ws .none [(0, 0, ws.w.extractLsb' 0 8 != 0)] (some ⟨false, false, false⟩) (toUniform d) (.cmpEqL ws.pf d a lit)
  | 0xC7 =>
    let d := ws.w.extractLsb' 16 8
    let a := ws.w.extractLsb' 8 8
    let lit := ws.x.extractLsb' 0 32
    fin ws .none [(0, 0, ws.w.extractLsb' 0 8 != 0)] (some ⟨false, false, false⟩) (toUniform d) (.cmpLtSL ws.pf d a lit)
  | 0xC8 =>
    let d := ws.w.extractLsb' 16 8
    let a := ws.w.extractLsb' 8 8
    let lit := ws.x.extractLsb' 0 32
    fin ws .none [(0, 0, ws.w.extractLsb' 0 8 != 0)] (some ⟨true, true, false⟩) (onceR d [a]) (.faddL ws.pf d a lit)
  | 0xC9 =>
    let d := ws.w.extractLsb' 16 8
    let a := ws.w.extractLsb' 8 8
    let lit := ws.x.extractLsb' 0 32
    fin ws .none [(0, 0, ws.w.extractLsb' 0 8 != 0)] (some ⟨true, true, false⟩) (onceR d [a]) (.fmulL ws.pf d a lit)
  | 0xCA =>
    let d := ws.w.extractLsb' 16 8
    let a := ws.w.extractLsb' 8 8
    let b := ws.w.extractLsb' 0 8
    let lit := ws.x.extractLsb' 0 32
    fin ws .none [] (some ⟨true, true, false⟩) (onceR d [a, b]) (.ffmaL ws.pf d a b lit)
  | 0xCB =>
    let d := ws.w.extractLsb' 16 8
    let a := ws.w.extractLsb' 8 8
    let lit := ws.x.extractLsb' 0 32
    fin ws .none [(0, 0, ws.w.extractLsb' 0 8 != 0)] (some ⟨false, true, false⟩) (onceR d [a]) (.fminL ws.pf d a lit)
  | 0xCC =>
    let d := ws.w.extractLsb' 16 8
    let a := ws.w.extractLsb' 8 8
    let lit := ws.x.extractLsb' 0 32
    fin ws .none [(0, 0, ws.w.extractLsb' 0 8 != 0)] (some ⟨false, true, false⟩) (onceR d [a]) (.fmaxL ws.pf d a lit)
  | 0xCD =>
    let d := ws.w.extractLsb' 16 8
    let a := ws.w.extractLsb' 8 8
    let lit := ws.x.extractLsb' 0 32
    fin ws .none [(0, 0, ws.w.extractLsb' 0 8 != 0)] (some ⟨false, true, false⟩) (toUniform d) (.fcmpLtL ws.pf d a lit)
  | _ => ws.unassigned

/-- Opcodes 0xD0 to 0xDF (R66). -/
def decodeD (ws : Words) (op : Nat) : Instr :=
  match op with
  | 0xD0 =>
    let d := ws.w.extractLsb' 16 8
    let a := ws.w.extractLsb' 8 8
    let b := ws.w.extractLsb' 0 8
    fin ws .none [] none (false) (.qsig d a b)
  | 0xD1 =>
    let n := ws.w.extractLsb' 16 8
    let a := ws.w.extractLsb' 8 8
    fin ws .none [(0, 16, decide (3 < n.toNat)), (0, 0, ws.w.extractLsb' 0 8 != 0)] none (false) (.kidx n a)
  | 0xD2 =>
    let d := ws.w.extractLsb' 16 8
    let a := ws.w.extractLsb' 8 8
    let b := ws.w.extractLsb' 0 8
    fin ws .none [] none (false) (.mload d a b)
  | 0xD3 =>
    let form := ws.w.extractLsb' 0 8
    if form == 0x00 then
      let a := ws.w.extractLsb' 8 8
      fin ws .none [(0, 16, ws.w.extractLsb' 16 8 != 0)] none (false) (.trap a)
    else if form == 0x01 then
      let d := ws.w.extractLsb' 16 8
      fin ws .none [(0, 8, ws.w.extractLsb' 8 8 != 0)] none (false) (.trapFrame d)
    else
      fin ws .none [(0, 0, true)] none (false) .nop
  | 0xD4 =>
    let form := ws.w.extractLsb' 0 8
    if form == 0x00 then
      fin ws .trapMode [(0, 16, ws.w.extractLsb' 16 8 != 0), (0, 8, ws.w.extractLsb' 8 8 != 0)] none (false) (.eretRetry)
    else if form == 0x01 then
      fin ws .trapMode [(0, 16, ws.w.extractLsb' 16 8 != 0), (0, 8, ws.w.extractLsb' 8 8 != 0)] none (false) (.eretSkip)
    else if form == 0x02 then
      let a := ws.w.extractLsb' 8 8
      fin ws .trapMode [(0, 16, ws.w.extractLsb' 16 8 != 0)] none (false) (.eretTo a)
    else
      fin ws .trapMode [(0, 16, ws.w.extractLsb' 16 8 != 0), (0, 0, true)] none (false) .nop
  | 0xD5 =>
    let form := ws.w.extractLsb' 16 8
    if form == 0x0D then
      let a := ws.w.extractLsb' 8 8
      fin ws .none [(0, 0, ws.w.extractLsb' 0 8 != 0)] none (false) (.mtsrFpflags a)
    else if form == 0x26 then
      let a := ws.w.extractLsb' 8 8
      let b := ws.w.extractLsb' 0 8
      fin ws .supervisor [] none (false) (.mtsrCtxPreempt a b)
    else if form == 0x2F then
      let a := ws.w.extractLsb' 8 8
      let b := ws.w.extractLsb' 0 8
      fin ws .supervisor [] none (false) (.mtsrCtxHalt a b)
    else if form == 0x2E then
      let a := ws.w.extractLsb' 8 8
      let b := ws.w.extractLsb' 0 8
      fin ws .supervisor [] none (false) (.mtsrCtxLcbins a b)
    else if form == 0x30 then
      let a := ws.w.extractLsb' 8 8
      let b := ws.w.extractLsb' 0 8
      fin ws .supervisor [] none (false) (.mtsrFaultlog a b)
    else
      let s := ws.w.extractLsb' 16 8
      let a := ws.w.extractLsb' 8 8
      let b := ws.w.extractLsb' 0 8
      fin ws .supervisor [(0, 16, !mtsrOk s)] none (false) (.mtsr s a b)
  | 0xD6 =>
    let form := ws.w.extractLsb' 0 8
    if form == 0x00 then
      let d := ws.w.extractLsb' 16 8
      let a := ws.w.extractLsb' 8 8
      fin ws .supervisor [] none (false) (.resumeReplay d a)
    else if form == 0x01 then
      let d := ws.w.extractLsb' 16 8
      let a := ws.w.extractLsb' 8 8
      fin ws .supervisor [] none (false) (.resumeDeliver d a)
    else if form == 0x02 then
      let d := ws.w.extractLsb' 16 8
      let a := ws.w.extractLsb' 8 8
      fin ws .supervisor [] none (false) (.resumeTerm d a)
    else
      fin ws .supervisor [(0, 0, true)] none (false) .nop
  | 0xD7 =>
    let d := ws.w.extractLsb' 16 8
    let a := ws.w.extractLsb' 8 8
    fin ws .launch [(0, 0, ws.w.extractLsb' 0 8 != 0)] none (false) (.launch d a)
  | 0xD8 =>
    let form := ws.w.extractLsb' 16 8
    if form == 0x00 then
      let a := ws.w.extractLsb' 8 8
      let b := ws.w.extractLsb' 0 8
      fin ws .supervisor [] none (false) (.tlbinvPage a b)
    else if form == 0x01 then
      let b := ws.w.extractLsb' 0 8
      fin ws .supervisor [(0, 8, ws.w.extractLsb' 8 8 != 0)] none (false) (.tlbinvAsid b)
    else if form == 0x02 then
      fin ws .supervisor [(0, 8, ws.w.extractLsb' 8 8 != 0), (0, 0, ws.w.extractLsb' 0 8 != 0)] none (false) (.tlbinvAll)
    else
      fin ws .supervisor [(0, 16, true)] none (false) .nop
  | 0xD9 =>
    let b := ws.w.extractLsb' 0 8
    fin ws .supervisor [(0, 16, ws.w.extractLsb' 16 8 != 0), (0, 8, ws.w.extractLsb' 8 8 != 0)] none (false) (.asinv b)
  | 0xDA =>
    let c := ws.w.extractLsb' 0 16
    fin ws .none [(0, 16, ws.w.extractLsb' 16 8 != 0)] none (false) (.bkpt c)
  | 0xDB =>
    let a := ws.w.extractLsb' 8 8
    fin ws .supervisor [(0, 16, ws.w.extractLsb' 16 8 != 0), (0, 0, ws.w.extractLsb' 0 8 != 0)] none (false) (.clrset a)
  | 0xDC =>
    let d := ws.w.extractLsb' 16 8
    let k := ws.w.extractLsb' 12 3
    let n := ws.w.extractLsb' 8 4
    fin ws .none [(0, 15, ws.w.extractLsb' 15 1 != 0), (0, 12, decide (5 < k.toNat)), (0, 0, ws.w.extractLsb' 0 8 != 0)] none (false) (.perfrd d k n)
  | _ => ws.unassigned

/-- MOVI20 and MOVF20 (R65), recognised by bits [31:28] alone. -/
def decodeW20 (q : Words) (cls : Nat) : Instr :=
  let d := q.w.extractLsb' 20 8
  let i := q.w.extractLsb' 0 20
  if cls == 0xE then fin q .none [] (some ⟨false, false, false⟩) (onceR d []) (.movi20 q.pf d i)
  else fin q .none [] (some ⟨false, false, false⟩) (onceR d []) (.movf20 q.pf d i)

/-- The instruction of complete words (R66). -/
def decodeBody (q : Words) : Instr :=
  let op := opcode q.w
  match op / 16 with
  | 0x0 => decode0 q op
  | 0x1 => decode1 q op
  | 0x2 => decode2 q op
  | 0x3 => decode3 q op
  | 0x4 => decode4 q op
  | 0x5 => decode5 q op
  | 0x7 => decode7 q op
  | 0x8 => decode8 q op
  | 0x9 => decode9 q op
  | 0xA => decodeA q op
  | 0xB => decodeB q op
  | 0xC => decodeC q op
  | 0xD => if op == 0xDF then .nonInstruction .none 0x04 (subOf 1 24) q.len else decodeD q op
  | 0xE => decodeW20 q 0xE
  | 0xF => decodeW20 q 0xF
  | _ => q.unassigned

/-- What the words fetched so far say (R52, R70). -/
inductive Decoded where
  | more
  | done (i : Instr) (len : Nat)
  deriving DecidableEq, Repr

/-- Decode a run of words: more words are needed, or the instruction and its length. -/
def decode (ws : List Word) : Decoded :=
  match ws with
  | [] => .more
  | w :: r =>
    if opcode w == 0xDF then
      match r with
      | [] => .more
      | w1 :: r1 =>
        if hasSecond (opcode w1) then
          match r1 with
          | [] => .more
          | x :: _ => .done (decodeBody ⟨some w, w1, x⟩) 3
        else .done (decodeBody ⟨some w, w1, 0⟩) 2
    else if hasSecond (opcode w) then
      match r with
      | [] => .more
      | x :: _ => .done (decodeBody ⟨none, w, x⟩) 2
    else .done (decodeBody ⟨none, w, 0⟩) 1

/-- The words of a prefix, if there is one. -/
def prefixWords (pf : Option Prefix) : List Word :=
  match pf with
  | none => []
  | some p => [p.word]

/-- The words of an instruction, from the encodings of R56 to R65 and of its own description. A step that no word
starts has none. -/
def encode (i : Instr) : List Word :=
  match i with
  | .add pf d a b => prefixWords pf ++ [0x01#8 ++ d ++ a ++ b]
  | .sub pf d a b => prefixWords pf ++ [0x02#8 ++ d ++ a ++ b]
  | .adds pf d a b => prefixWords pf ++ [0x03#8 ++ d ++ a ++ b]
  | .subs pf d a b => prefixWords pf ++ [0x04#8 ++ d ++ a ++ b]
  | .mullo pf d a b => prefixWords pf ++ [0x05#8 ++ d ++ a ++ b]
  | .mulhiS pf d a b => prefixWords pf ++ [0x06#8 ++ d ++ a ++ b]
  | .mulhiU pf d a b => prefixWords pf ++ [0x07#8 ++ d ++ a ++ b]
  | .mad pf d a b => prefixWords pf ++ [0x08#8 ++ d ++ a ++ b]
  | .madwU pf d a b => prefixWords pf ++ [0x09#8 ++ d ++ a ++ b]
  | .madwS pf d a b => prefixWords pf ++ [0x0A#8 ++ d ++ a ++ b]
  | .divS pf d a b => prefixWords pf ++ [0x0B#8 ++ d ++ a ++ b]
  | .divU pf d a b => prefixWords pf ++ [0x0C#8 ++ d ++ a ++ b]
  | .remS pf d a b => prefixWords pf ++ [0x0D#8 ++ d ++ a ++ b]
  | .remU pf d a b => prefixWords pf ++ [0x0E#8 ++ d ++ a ++ b]
  | .minS pf d a b => prefixWords pf ++ [0x0F#8 ++ d ++ a ++ b]
  | .minU pf d a b => prefixWords pf ++ [0x10#8 ++ d ++ a ++ b]
  | .maxS pf d a b => prefixWords pf ++ [0x11#8 ++ d ++ a ++ b]
  | .maxU pf d a b => prefixWords pf ++ [0x12#8 ++ d ++ a ++ b]
  | .abs pf d a => prefixWords pf ++ [0x13#8 ++ d ++ a ++ 0#8]
  | .neg pf d a => prefixWords pf ++ [0x14#8 ++ d ++ a ++ 0#8]
  | .and pf d a b => prefixWords pf ++ [0x15#8 ++ d ++ a ++ b]
  | .or pf d a b => prefixWords pf ++ [0x16#8 ++ d ++ a ++ b]
  | .xor pf d a b => prefixWords pf ++ [0x17#8 ++ d ++ a ++ b]
  | .andn pf d a b => prefixWords pf ++ [0x18#8 ++ d ++ a ++ b]
  | .shl pf d a b => prefixWords pf ++ [0x19#8 ++ d ++ a ++ b]
  | .shr pf d a b => prefixWords pf ++ [0x1A#8 ++ d ++ a ++ b]
  | .sar pf d a b => prefixWords pf ++ [0x1B#8 ++ d ++ a ++ b]
  | .rol pf d a b => prefixWords pf ++ [0x1C#8 ++ d ++ a ++ b]
  | .fshl pf d a b => prefixWords pf ++ [0x1D#8 ++ d ++ a ++ b]
  | .bfxU pf d a b => prefixWords pf ++ [0x1E#8 ++ d ++ a ++ b]
  | .bfxS pf d a b => prefixWords pf ++ [0x1F#8 ++ d ++ a ++ b]
  | .bfi pf d a b => prefixWords pf ++ [0x20#8 ++ d ++ a ++ b]
  | .clz pf d a => prefixWords pf ++ [0x21#8 ++ d ++ a ++ 0#8]
  | .ctz pf d a => prefixWords pf ++ [0x22#8 ++ d ++ a ++ 0#8]
  | .popc pf d a => prefixWords pf ++ [0x23#8 ++ d ++ a ++ 0#8]
  | .brev pf d a => prefixWords pf ++ [0x24#8 ++ d ++ a ++ 0#8]
  | .permb pf d a b => prefixWords pf ++ [0x25#8 ++ d ++ a ++ b]
  | .cmpEq pf d a b => prefixWords pf ++ [0x26#8 ++ d ++ a ++ b]
  | .cmpNe pf d a b => prefixWords pf ++ [0x27#8 ++ d ++ a ++ b]
  | .cmpLtS pf d a b => prefixWords pf ++ [0x28#8 ++ d ++ a ++ b]
  | .cmpLeS pf d a b => prefixWords pf ++ [0x29#8 ++ d ++ a ++ b]
  | .cmpLtU pf d a b => prefixWords pf ++ [0x2A#8 ++ d ++ a ++ b]
  | .cmpLeU pf d a b => prefixWords pf ++ [0x2B#8 ++ d ++ a ++ b]
  | .sel pf d a b => prefixWords pf ++ [0x2C#8 ++ d ++ a ++ b]
  | .mov pf d a => prefixWords pf ++ [0x2D#8 ++ d ++ a ++ 0#8]
  | .movsr pf d s => prefixWords pf ++ [0x2E#8 ++ d ++ s ++ 0#8]
  | .setmode i => [0x2F#8 ++ 0#8 ++ i]
  | .lea1 pf d a b => prefixWords pf ++ [0x30#8 ++ d ++ a ++ b]
  | .lea4 pf d a b => prefixWords pf ++ [0x31#8 ++ d ++ a ++ b]
  | .lea8 pf d a b => prefixWords pf ++ [0x32#8 ++ d ++ a ++ b]
  | .lea16 pf d a b => prefixWords pf ++ [0x33#8 ++ d ++ a ++ b]
  | .add64 pf d a b => prefixWords pf ++ [0x34#8 ++ d ++ a ++ b]
  | .sub64 pf d a b => prefixWords pf ++ [0x35#8 ++ d ++ a ++ b]
  | .cvti pf d a b => prefixWords pf ++ [0x36#8 ++ d ++ a ++ b]
  | .addi16 pf d i => prefixWords pf ++ [0x37#8 ++ d ++ i]
  | .andi16 pf d i => prefixWords pf ++ [0x38#8 ++ d ++ i]
  | .ori16 pf d i => prefixWords pf ++ [0x39#8 ++ d ++ i]
  | .xori16 pf d i => prefixWords pf ++ [0x3A#8 ++ d ++ i]
  | .shli pf d n => prefixWords pf ++ [0x3B#8 ++ d ++ 0#11 ++ n]
  | .shri pf d n => prefixWords pf ++ [0x3C#8 ++ d ++ 0#11 ++ n]
  | .sari pf d n => prefixWords pf ++ [0x3D#8 ++ d ++ 0#11 ++ n]
  | .movhi16 pf d i => prefixWords pf ++ [0x3E#8 ++ d ++ i]
  | .ldc pf d a f => prefixWords pf ++ [0x3F#8 ++ d ++ a ++ 0#3 ++ f]
  | .fadd pf d a b => prefixWords pf ++ [0x40#8 ++ d ++ a ++ b]
  | .fsub pf d a b => prefixWords pf ++ [0x41#8 ++ d ++ a ++ b]
  | .fmul pf d a b => prefixWords pf ++ [0x42#8 ++ d ++ a ++ b]
  | .ffma pf d a b => prefixWords pf ++ [0x43#8 ++ d ++ a ++ b]
  | .ffmc pf d a n => prefixWords pf ++ [0x44#8 ++ d ++ a ++ n]
  | .fmin pf d a b => prefixWords pf ++ [0x45#8 ++ d ++ a ++ b]
  | .fmax pf d a b => prefixWords pf ++ [0x46#8 ++ d ++ a ++ b]
  | .fabs pf d a => prefixWords pf ++ [0x47#8 ++ d ++ a ++ 0#8]
  | .fneg pf d a => prefixWords pf ++ [0x48#8 ++ d ++ a ++ 0#8]
  | .fcmpEq pf d a b => prefixWords pf ++ [0x49#8 ++ d ++ a ++ b]
  | .fcmpLt pf d a b => prefixWords pf ++ [0x4A#8 ++ d ++ a ++ b]
  | .fcmpLe pf d a b => prefixWords pf ++ [0x4B#8 ++ d ++ a ++ b]
  | .fcmpUn pf d a b => prefixWords pf ++ [0x4C#8 ++ d ++ a ++ b]
  | .fclass pf d a => prefixWords pf ++ [0x4D#8 ++ d ++ a ++ 0#8]
  | .fdiv pf d a b => prefixWords pf ++ [0x4E#8 ++ d ++ a ++ b]
  | .fsqrt pf d a => prefixWords pf ++ [0x4F#8 ++ d ++ a ++ 0#8]
  | .frcp pf d a => prefixWords pf ++ [0x50#8 ++ d ++ a ++ 0#8]
  | .frsq pf d a => prefixWords pf ++ [0x51#8 ++ d ++ a ++ 0#8]
  | .fexp2 pf d a => prefixWords pf ++ [0x52#8 ++ d ++ a ++ 0#8]
  | .flog2 pf d a => prefixWords pf ++ [0x53#8 ++ d ++ a ++ 0#8]
  | .fsin pf d a => prefixWords pf ++ [0x54#8 ++ d ++ a ++ 0#8]
  | .fcos pf d a => prefixWords pf ++ [0x55#8 ++ d ++ a ++ 0#8]
  | .fround pf d a => prefixWords pf ++ [0x56#8 ++ d ++ a ++ 0#8]
  | .fscale pf d a b => prefixWords pf ++ [0x57#8 ++ d ++ a ++ b]
  | .fcvtF2i pf d a b => prefixWords pf ++ [0x58#8 ++ d ++ a ++ b]
  | .fcvtI2f pf d a b => prefixWords pf ++ [0x59#8 ++ d ++ a ++ b]
  | .fcvtF2f pf d a b => prefixWords pf ++ [0x5A#8 ++ d ++ a ++ b]
  | .hadd2 pf d a b => prefixWords pf ++ [0x5B#8 ++ d ++ a ++ b]
  | .hmul2 pf d a b => prefixWords pf ++ [0x5C#8 ++ d ++ a ++ b]
  | .hfma2 pf d a b => prefixWords pf ++ [0x5D#8 ++ d ++ a ++ b]
  | .hdot2 pf d a b => prefixWords pf ++ [0x5E#8 ++ d ++ a ++ b]
  | .brt c f => [0x70#8 ++ c ++ f]
  | .brf c f => [0x71#8 ++ c ++ f]
  | .bra f => [0x72#8 ++ 0#4 ++ f]
  | .brx n a b => [0x73#8 ++ n ++ a ++ b]
  | .call d i => [0x74#8 ++ d ++ i]
  | .callx d a => [0x75#8 ++ d ++ a ++ 0#8]
  | .ret a => [0x76#8 ++ 0#8 ++ a ++ 0#8]
  | .jpt f => [0x77#8 ++ 0#4 ++ f]
  | .join => [0x78#8 ++ 0#24]
  | .loop d e => [0x79#8 ++ d ++ e]
  | .loopi n e => [0x7A#8 ++ n ++ e]
  | .exit => [0x7B#8 ++ 0#24]
  | .wait l s c t => [0x7C#8 ++ l ++ s ++ c ++ t]
  | .yield => [0x7D#8 ++ 0#24]
  | .safe k => [0x7E#8 ++ 0#8 ++ k]
  | .nop => [0x7F#8 ++ 0#24]
  | .ld8u pf d a o f => prefixWords pf ++ [0x80#8 ++ d ++ a ++ o ++ f]
  | .ld8s pf d a o f => prefixWords pf ++ [0x81#8 ++ d ++ a ++ o ++ f]
  | .ld16u pf d a o f => prefixWords pf ++ [0x82#8 ++ d ++ a ++ o ++ f]
  | .ld16s pf d a o f => prefixWords pf ++ [0x83#8 ++ d ++ a ++ o ++ f]
  | .ld32 pf d a o f => prefixWords pf ++ [0x84#8 ++ d ++ a ++ o ++ f]
  | .ld64 pf d a o f => prefixWords pf ++ [0x85#8 ++ d ++ a ++ o ++ f]
  | .ld128 pf d a o f => prefixWords pf ++ [0x86#8 ++ d ++ a ++ o ++ f]
  | .st8 pf d a o f => prefixWords pf ++ [0x87#8 ++ d ++ a ++ o ++ f]
  | .st16 pf d a o f => prefixWords pf ++ [0x88#8 ++ d ++ a ++ o ++ f]
  | .st32 pf d a o f => prefixWords pf ++ [0x89#8 ++ d ++ a ++ o ++ f]
  | .st64 pf d a o f => prefixWords pf ++ [0x8A#8 ++ d ++ a ++ o ++ f]
  | .st128 pf d a o f => prefixWords pf ++ [0x8B#8 ++ d ++ a ++ o ++ f]
  | .lds32 pf d a o f => prefixWords pf ++ [0x8C#8 ++ d ++ a ++ o ++ f]
  | .sts32 pf d a o f => prefixWords pf ++ [0x8D#8 ++ d ++ a ++ o ++ f]
  | .lds128 pf d a o f => prefixWords pf ++ [0x8E#8 ++ d ++ a ++ o ++ f]
  | .sts128 pf d a o f => prefixWords pf ++ [0x8F#8 ++ d ++ a ++ o ++ f]
  | .ballot pf d a => prefixWords pf ++ [0x90#8 ++ d ++ a ++ 0#8]
  | .shflIdx pf d a b => prefixWords pf ++ [0x91#8 ++ d ++ a ++ b]
  | .shflUp pf d a b => prefixWords pf ++ [0x92#8 ++ d ++ a ++ b]
  | .shflDown pf d a b => prefixWords pf ++ [0x93#8 ++ d ++ a ++ b]
  | .shflXor pf d a b => prefixWords pf ++ [0x94#8 ++ d ++ a ++ b]
  | .redux pf d a c => prefixWords pf ++ [0x95#8 ++ d ++ a ++ c]
  | .scan pf d a c => prefixWords pf ++ [0x96#8 ++ d ++ a ++ c]
  | .qappend pf d a => prefixWords pf ++ [0x97#8 ++ d ++ a ++ 0#8]
  | .xchgp pf d a => prefixWords pf ++ [0x98#8 ++ d ++ a ++ 0#8]
  | .expand d a s o => [0x99#8 ++ d ++ a ++ 0#2 ++ s ++ o]
  | .exnext d a b => [0x9A#8 ++ d ++ a ++ b]
  | .exred a => [0x9B#8 ++ 0#8 ++ a ++ 0#8]
  | .exfin d => [0x9C#8 ++ d ++ 0#16]
  | .exsave a => [0x9D#8 ++ 0#8 ++ a ++ 0#8]
  | .exload a => [0x9E#8 ++ 0#8 ++ a ++ 0#8]
  | .matchLanes pf d a => prefixWords pf ++ [0x9F#8 ++ d ++ a ++ 0#8]
  | .atom pf d a b aop width order c => prefixWords pf ++ [0xA0#8 ++ d ++ a ++ b, aop ++ width ++ order ++ c ++ 0#15]
  | .atoms pf d a b aop width order c => prefixWords pf ++ [0xA1#8 ++ d ++ a ++ b, aop ++ width ++ order ++ c ++ 0#15]
  | .fence k s => [0xA2#8 ++ 0#19 ++ k ++ s]
  | .arrive d a b => [0xA3#8 ++ d ++ a ++ b]
  | .waitbPh a b => [0xA4#8 ++ 0x00#8 ++ a ++ b]
  | .waitbCnt a b => [0xA4#8 ++ 0x01#8 ++ a ++ b]
  | .barWg => [0xA5#8 ++ 0#16 ++ 0x01#8]
  | .barTeam => [0xA5#8 ++ 0#16 ++ 0x02#8]
  | .mwaitNe a b => [0xA6#8 ++ 0x00#8 ++ a ++ b]
  | .mwaitGeu a b => [0xA6#8 ++ 0x01#8 ++ a ++ b]
  | .pref a => [0xA7#8 ++ 0#8 ++ a ++ 0x00#8]
  | .prefL1 a => [0xA7#8 ++ 0#8 ++ a ++ 0x01#8]
  | .cflushWb a => [0xA8#8 ++ 0#8 ++ a ++ 0x00#8]
  | .cflushInv a => [0xA8#8 ++ 0#8 ++ a ++ 0x01#8]
  | .htclaim d a b => [0xA9#8 ++ d ++ a ++ b]
  | .htrel a => [0xAA#8 ++ 0#8 ++ a ++ 0#8]
  | .hins pf d a b => prefixWords pf ++ [0xAB#8 ++ d ++ a ++ b]
  | .hprobe pf d a b => prefixWords pf ++ [0xAC#8 ++ d ++ a ++ b]
  | .hdel pf d a b => prefixWords pf ++ [0xAD#8 ++ d ++ a ++ b]
  | .hacc pf d a b op ty => prefixWords pf ++ [0xAE#8 ++ d ++ a ++ b, op ++ ty ++ 0#26]
  | .hdrain d a b => [0xAF#8 ++ d ++ a ++ b]
  | .thld d a off => [0xB0#8 ++ d ++ a ++ 0#8, 0#16 ++ off]
  | .thset d a sel => [0xB1#8 ++ d ++ a ++ 0#8, 0#24 ++ sel]
  | .thget d a sel => [0xB2#8 ++ d ++ a ++ 0#8, 0#24 ++ sel]
  | .copy d a b q tok bar yld cont => [0xB3#8 ++ d ++ a ++ b, q ++ tok ++ bar ++ yld ++ 0#2 ++ cont]
  | .gather d a b q tok bar yld list cont => [0xB4#8 ++ d ++ a ++ b, q ++ tok ++ bar ++ yld ++ list ++ 0#1 ++ cont]
  | .scatter d a b q tok bar yld list ordered cont => [0xB5#8 ++ d ++ a ++ b, q ++ tok ++ bar ++ yld ++ list ++ ordered ++ cont]
  | .tsplit d a b q tok bar yld cont => [0xB6#8 ++ d ++ a ++ b, q ++ tok ++ bar ++ yld ++ 0#2 ++ cont]
  | .mma d a b qa qb => [0xB7#8 ++ d ++ a ++ b, qa ++ qb ++ 0#16]
  | .mmaloop d a b qa qb inc n => [0xB8#8 ++ d ++ a ++ b, qa ++ qb ++ inc ++ n]
  | .mbatch d bar => [0xB9#8 ++ d ++ 0#16, 0#16 ++ bar ++ 0#8]
  | .waitt a => [0xBA#8 ++ 0#8 ++ a ++ 0#8, 0#32]
  | .maccAlloc d => [0xBB#8 ++ d ++ 0#16, 0#32]
  | .maccFree a => [0xBB#8 ++ 0#8 ++ a ++ 0#8, 0x1#4 ++ 0#28]
  | .mdrain d a b st clr => [0xBC#8 ++ d ++ a ++ b, 0#16 ++ st ++ clr ++ 0#7]
  | .bput a b => [0xBD#8 ++ 0#8 ++ a ++ b, 0#32]
  | .kstore d a b n tok bar strict val slot => [0xBE#8 ++ d ++ a ++ b, n ++ tok ++ bar ++ strict ++ val ++ slot ++ 0#4]
  | .bgather d a tok bar dist slot trunc => [0xBF#8 ++ d ++ a ++ 0#8, 0#8 ++ tok ++ bar ++ dist ++ slot ++ trunc ++ 0#3]
  | .addL pf d a lit => prefixWords pf ++ [0xC0#8 ++ d ++ a ++ 0#8, lit]
  | .andL pf d a lit => prefixWords pf ++ [0xC1#8 ++ d ++ a ++ 0#8, lit]
  | .orL pf d a lit => prefixWords pf ++ [0xC2#8 ++ d ++ a ++ 0#8, lit]
  | .xorL pf d a lit => prefixWords pf ++ [0xC3#8 ++ d ++ a ++ 0#8, lit]
  | .movL pf d lit => prefixWords pf ++ [0xC4#8 ++ d ++ 0#16, lit]
  | .mulloL pf d a lit => prefixWords pf ++ [0xC5#8 ++ d ++ a ++ 0#8, lit]
  | .cmpEqL pf d a lit => prefixWords pf ++ [0xC6#8 ++ d ++ a ++ 0#8, lit]
  | .cmpLtSL pf d a lit => prefixWords pf ++ [0xC7#8 ++ d ++ a ++ 0#8, lit]
  | .faddL pf d a lit => prefixWords pf ++ [0xC8#8 ++ d ++ a ++ 0#8, lit]
  | .fmulL pf d a lit => prefixWords pf ++ [0xC9#8 ++ d ++ a ++ 0#8, lit]
  | .ffmaL pf d a b lit => prefixWords pf ++ [0xCA#8 ++ d ++ a ++ b, lit]
  | .fminL pf d a lit => prefixWords pf ++ [0xCB#8 ++ d ++ a ++ 0#8, lit]
  | .fmaxL pf d a lit => prefixWords pf ++ [0xCC#8 ++ d ++ a ++ 0#8, lit]
  | .fcmpLtL pf d a lit => prefixWords pf ++ [0xCD#8 ++ d ++ a ++ 0#8, lit]
  | .qsig d a b => [0xD0#8 ++ d ++ a ++ b]
  | .kidx n a => [0xD1#8 ++ n ++ a ++ 0#8]
  | .mload d a b => [0xD2#8 ++ d ++ a ++ b]
  | .trap a => [0xD3#8 ++ 0#8 ++ a ++ 0x00#8]
  | .trapFrame d => [0xD3#8 ++ d ++ 0#8 ++ 0x01#8]
  | .eretRetry => [0xD4#8 ++ 0#16 ++ 0x00#8]
  | .eretSkip => [0xD4#8 ++ 0#16 ++ 0x01#8]
  | .eretTo a => [0xD4#8 ++ 0#8 ++ a ++ 0x02#8]
  | .mtsrFpflags a => [0xD5#8 ++ 0x0D#8 ++ a ++ 0#8]
  | .mtsrCtxPreempt a b => [0xD5#8 ++ 0x26#8 ++ a ++ b]
  | .mtsrCtxHalt a b => [0xD5#8 ++ 0x2F#8 ++ a ++ b]
  | .mtsrCtxLcbins a b => [0xD5#8 ++ 0x2E#8 ++ a ++ b]
  | .mtsrFaultlog a b => [0xD5#8 ++ 0x30#8 ++ a ++ b]
  | .mtsr s a b => [0xD5#8 ++ s ++ a ++ b]
  | .resumeReplay d a => [0xD6#8 ++ d ++ a ++ 0x00#8]
  | .resumeDeliver d a => [0xD6#8 ++ d ++ a ++ 0x01#8]
  | .resumeTerm d a => [0xD6#8 ++ d ++ a ++ 0x02#8]
  | .launch d a => [0xD7#8 ++ d ++ a ++ 0#8]
  | .tlbinvPage a b => [0xD8#8 ++ 0x00#8 ++ a ++ b]
  | .tlbinvAsid b => [0xD8#8 ++ 0x01#8 ++ 0#8 ++ b]
  | .tlbinvAll => [0xD8#8 ++ 0x02#8 ++ 0#16]
  | .asinv b => [0xD9#8 ++ 0#16 ++ b]
  | .bkpt c => [0xDA#8 ++ 0#8 ++ c]
  | .clrset a => [0xDB#8 ++ 0#8 ++ a ++ 0#8]
  | .perfrd d k n => [0xDC#8 ++ d ++ 0#1 ++ k ++ n ++ 0#8]
  | .movi20 pf d i => prefixWords pf ++ [0xE#4 ++ d ++ i]
  | .movf20 pf d i => prefixWords pf ++ [0xF#4 ++ d ++ i]
  | .nonInstruction _ _ _ _ => []
  | .faultLogHeldAppend _ => []
  | .heldTransferReexecution _ _ => []
  | .waitRelease _ => []
  | .barRelease _ => []
  | .waitbRelease _ => []
  | .mwaitRelease _ => []
  | .waittRelease _ => []
  | .xchgpMatch _ => []
  | .asterStepMatch _ => []
  | .launchEnqueue _ => []
  | .dependenceConditionRead _ _ => []
  | .teamAdmission _ => []
  | .l1Reclaim _ => []
  | .warpCompletion _ => []
  | .teamCompletion _ => []
  | .translationRequest _ => []
  | .corePinnedSlotWaitEnd _ => []
  | .sliceMiss _ => []
  | .accessPerform _ => []
  | .loadCompletion _ => []
  | .storeAcknowledge _ => []
  | .engineLineTransfer _ => []
  | .tsplitTileEncode _ => []
  | .copyOperationComplete _ => []
  | .matrixStep _ => []
  | .matrixOperationComplete _ => []
  | .mdrainExecute _ => []
  | .batchComplete _ => []
  | .kstoreToken _ => []
  | .bgatherBucketVisit _ => []
  | .bgatherToken _ => []
  | .remoteRequest _ => []
  | .remoteTimeout _ => []
  | .watchdogExpiry _ => []
  | .handlerLimitExpiry _ => []
  | .preemptionOverdue _ => []
  | .teamReadmission _ => []
  | .startCold _ => []
  | .startWarm _ => []
  | .mboxWrite _ => []
  | .bar0RegisterWrite _ _ => []
  | .bar2WindowAccess _ _ _ => []
  | .powerGood => []
  | .startStage1 => []
  | .startStage2 => []
  | .idleEntry _ => []
  | .clockGateEntry _ => []
  | .retentionEntry _ => []
  | .powerWake _ => []
  | .dieThrottle _ _ => []
  | .criticalTemperature => []
  | .storageSoftError _ _ => []
  | .fabricResponseLost _ _ => []
  | .memorySideStampLost _ => []
  | .routeLinksDown _ _ => []
  | .routeLinksUp _ => []
  | .peerDebugHoldChange _ _ => []

/-- The length of an instruction in words (R52). -/
def Instr.words (i : Instr) : Nat := (encode i).length

/-- A word from four little-endian bytes (R52). -/
def wordOfBytes (b0 b1 b2 b3 : Byte) : Word := b3 ++ b2 ++ b1 ++ b0

/-- The words of a byte string, whole words only (R52). -/
def wordsOfBytes : List Byte → List Word
  | b0 :: b1 :: b2 :: b3 :: r => wordOfBytes b0 b1 b2 b3 :: wordsOfBytes r
  | _ => []

/-- Byte `k` of the number `w`. -/
def byteAt (w k : Nat) : Byte := BitVec.ofNat 8 (w / 2 ^ (8 * k))

/-- The twelve bytes (the longest instruction, R52) of an instruction whose lowest `nbits` bits are those of `w` and
whose other bits are 0. -/
def tableBytes (nbits w : Nat) : List Byte :=
  [0, 1, 2, 3, 4, 5, 6, 7, 8, 9, 10, 11].map (byteAt (w % 2 ^ nbits))

/-- The instruction the decoder reads from an instruction whose bits are `w`. -/
def decodeTableWord (nbits w : Nat) : Option Instr :=
  match decode (wordsOfBytes (tableBytes nbits w)) with
  | .done (.nonInstruction _ _ _ _) _ => none
  | .done i _ => some i
  | .more => none

end Sys2Proof
end

