-- ==== Sys2Proof/Machine/Registers.lean ====
section
/-!
DEFINITION. Registers of a warp: what a register code reads and where it writes (R15 to R20, R55, R96), and `fpflags` (R26).
-/
namespace Sys2Proof.Machine

/-- The word a code supplies in a lane (R15, R18, R19, R55). -/
def Warp.rd (w : Warp) (c : Code) (lane : Nat) : Word :=
  match classOf c with
  | .lane => Assoc.get w.v 0 (c.toNat * 32 + lane)
  | .uniform => Assoc.get w.sreg 0 (c.toNat - 0x80)
  | .mask => if c = 0xC0 then Mask.full else Assoc.get w.m 0 (c.toNat - 0xC0)
  | .const => Config.inlineConst (c.toNat - 0xD0)
  | .handle => 0
  | .token => 0
  | .reserved => 0
  | .zero => 0

/-- The register after a code, z staying z. -/
def nextCode (c : Code) (k : Nat) : Code := if c = 0xFF then c else c + BitVec.ofNat 8 k

/-- The value of a pair in a lane (R17). -/
def Warp.rdPair (w : Warp) (c : Code) (lane : Nat) : DWord := DWord.ofWords (w.rd c lane) (w.rd (nextCode c 1) lane)

/-- The word of a mask register (R15). -/
def Warp.maskReg (w : Warp) (n : Nat) : Mask := if n = 0 then Mask.full else Assoc.get w.m 0 n

/-- Write a code in a lane (R18): z and m0 discard the write, and a written lane register is readable again (R359). -/
def Warp.wr (w : Warp) (c : Code) (lane : Nat) (x : Word) : Warp :=
  match classOf c with
  | .lane => { w with v := Assoc.set w.v 0 (c.toNat * 32 + lane) x,
                      badReg := Assoc.set w.badReg false (c.toNat * 32 + lane) false }
  | .uniform => { w with sreg := Assoc.set w.sreg 0 (c.toNat - 0x80) x }
  | .mask => if c = 0xC0 then w else { w with m := Assoc.set w.m 0 (c.toNat - 0xC0) x }
  | .const => w
  | .handle => w
  | .token => w
  | .reserved => w
  | .zero => w

/-- Write a pair in a lane (R17). -/
def Warp.wrPair (w : Warp) (c : Code) (lane : Nat) (x : DWord) : Warp :=
  (w.wr c lane x.lo).wr (nextCode c 1) lane x.hi

/-- Set or clear one lane's bit of a mask register (R96). -/
def Warp.wrBit (w : Warp) (c : Code) (lane : Nat) (b : Bool) : Warp :=
  let old := w.maskReg (c.toNat - 0xC0)
  match classOf c with
  | .mask => w.wr c lane (if b then old ||| Mask.bit lane else old &&& ~~~(Mask.bit lane))
  | _ => w

/-- OR exceptions into a lane's `fpflags` (R26). -/
def Warp.orFlags (w : Warp) (lane : Nat) (f : BitVec 5) : Warp :=
  { w with fpflags := Assoc.set w.fpflags 0 lane (Assoc.get w.fpflags 0 lane ||| f) }

end Sys2Proof.Machine
end

