-- ==== Sys2Proof/Machine/Access.lean ====
section
/-!
DEFINITION. Pending accesses and the perform order P (R234 to R247): which access precedes which, performing one at its
ordering point, forwarding, stamps and mixed sizes, the operators of atomics (R260) and barrier words (R266).
-/
namespace Sys2Proof.Machine

/-! ## Barrier words and atomic operators -/

/-- The update of a barrier word by an arrival of `n` (R266); none where it raises 0x2C. -/
def arriveWord (w : Word) (n : Nat) : Option Word :=
  let phase := (w.extractLsb' 24 8).toNat
  let target := (w.extractLsb' 12 12).toNat
  let count := (w.extractLsb' 0 12).toNat
  if 4095 < n then none
  else if target ≠ 0 ∧ target ≤ count then none
  else
    let sum := count + n
    if target = 0 then
      if 4095 < sum then none else some (BitVec.ofNat 32 (phase * 2 ^ 24 + sum))
    else some (BitVec.ofNat 32 ((phase + sum / target) % 256 * 2 ^ 24 + target * 2 ^ 12 + sum % target))

/-- A barrier word is malformed (R266). -/
def wordMalformed (w : Word) : Bool :=
  let target := (w.extractLsb' 12 12).toNat
  decide (target ≠ 0) && decide (target ≤ (w.extractLsb' 0 12).toNat)

/-- A signed reading of the low `n` bits. -/
def signedNat (n v : Nat) : Int := if 2 ^ (n - 1) ≤ v % 2 ^ n then ((v % 2 ^ n : Nat) : Int) - 2 ^ n else (v % 2 ^ n : Nat)

/-- The value an atomic writes (R260), on `n`-bit numbers. An arrival that R266 rejects leaves the word. -/
def atomicNew (aop : BitVec 4) (n old x c : Nat) : Nat :=
  match aop.toNat with
  | 0x0 => (old + x) % 2 ^ n
  | 0x1 => if signedNat n old ≤ signedNat n x then old else x
  | 0x2 => if old ≤ x then old else x
  | 0x3 => if signedNat n old ≤ signedNat n x then x else old
  | 0x4 => if old ≤ x then x else old
  | 0x5 => old &&& x
  | 0x6 => old ||| x
  | 0x7 => old ^^^ x
  | 0x8 => x
  | 0x9 => if old = c then x else old
  | 0xA => (FpFmt.fp32.add 0 old x).1
  | 0xB => (FpFmt.fp32.minMax false old x).1
  | 0xC => (FpFmt.fp32.minMax true old x).1
  | 0xD => (FpFmt.bf16.add 0 (old % 65536) (x % 65536)).1 + 65536 * (FpFmt.bf16.add 0 (old / 65536) (x / 65536)).1
  | 0xE => match arriveWord (BitVec.ofNat 32 old) x with
    | some w => w.toNat
    | none => old
  | _ => old

/-! ## Path order and the rows of R237 -/

/-- `x` stands before `y` in path order (R241). -/
def Access.pathBefore (x y : Access) : Bool := y.segs.contains x.seg && decide (x.seq < y.seq)

/-- The bytes of two parts overlap. -/
def Part.meets (x y : Part) : Bool := decide (x.off < y.off + y.size) && decide (y.off < x.off + x.size)

/-- Two accesses share a byte. -/
def Access.meets (x y : Access) : Bool := x.place == y.place && x.parts.any (fun a => y.parts.any (fun b => a.meets b))

/-- An access reads only. -/
def Access.isLoad (a : Access) : Bool := a.kind == .load
/-- An access writes only. -/
def Access.isStore (a : Access) : Bool := a.kind == .store
/-- An access reads: a load or an atomic. -/
def Access.reads (a : Access) : Bool := !a.isStore
/-- An access writes: a store or an atomic. -/
def Access.writes (a : Access) : Bool := !a.isLoad

/-- A fence lies between two accesses of a path. -/
def Fence.between (f : Fence) (x y : Access) : Bool :=
  f.w == x.w && y.segs.contains f.seg && decide (x.seq < f.seq) && decide (f.seq < y.seq)

/-! ## Scopes (R235, R240) -/

/-- The scopes by the nesting of their instances. -/
def Scope.rank (s : Scope) : Nat :=
  match s with
  | .warp => 0
  | .wg => 1
  | .team => 2
  | .device => 3
  | .system => 4

/-- The wider of two scopes. -/
def Scope.wider (x y : Scope) : Scope := if x.rank ≤ y.rank then y else x

/-- The scope of an order code (R235, R136): a weak access names none. -/
def Scope.ofOrder (order : Nat) : Scope :=
  match order with
  | 1 => .wg
  | 2 => .device
  | 3 => .system
  | 4 => .wg
  | 5 => .team
  | 6 => .device
  | 7 => .system
  | _ => .warp

/-- The scope of a FENCE's field (R265). -/
def Scope.ofFence (sc : Nat) : Scope :=
  match sc with
  | 0 => .warp
  | 1 => .wg
  | 2 => .team
  | 3 => .device
  | _ => .system

/-- The instance takes in every warp of this device: a scope that holds toward all of them. -/
def Scope.hard (s : Scope) : Bool := decide (3 ≤ s.rank)

/-- A warp as an agent. -/
def State.agent (s : State) (k : Nat) : Agent :=
  { w := k, team := ((s.warp? k).map Warp.team).getD 0, wg := ((s.warp? k).map Warp.wg).getD 0 }

/-- An agent lies in the instance of a scope around another (R235). -/
def Scope.holds (s : Scope) (x y : Agent) : Bool :=
  match s with
  | .warp => x.team == y.team && x.w == y.w
  | .wg => x.team == y.team && x.wg == y.wg
  | .team => x.team == y.team
  | .device => true
  | .system => true

/-- The scopes toward whose instances `x` must be performed before `y` (R237, R240): the widest of those that the rows give;
none where no row applies. Shared bytes and a merge order for everyone. -/
def State.orderOf (s : State) (x y : Access) : Option Scope :=
  if x.w != y.w then none
  else if y.after.contains x.seg || (x.pathBefore y && x.meets y && !(x.isStore && y.isLoad)) then some .system
  else if x.pathBefore y then
    let rows := (if y.rel && y.writes then [y.scope] else []) ++ (if x.acq && x.reads then [x.scope] else []) ++
      (s.fences.filter (fun f => f.between x y &&
        (f.kind == 0 || (f.kind == 2 && y.writes) || (f.kind == 1 && x.reads)))).map Fence.scope
    match rows with
    | [] => none
    | r :: q => some (q.foldl Scope.wider r)
  else none

/-- `x` must be performed before `y`, toward some agents (R237, R240). -/
def State.mustPrecede (s : State) (x y : Access) : Bool := (s.orderOf x y).isSome

/-- How an engine's ownership names the line of a part of an access. -/
def State.lineName (s : State) (y : Access) (p : Part) : Place × Nat :=
  match y.place with
  | .line t n => (.line t n, 0)
  | .scratch t g => (.scratch t g, p.off / 128)
  | _ => (.line (tagAsid (((s.warp? y.w).map Warp.asid).getD 0) p.va) (lineOf p.va), 0)

/-- The lines of an index that an ASID uses: its buckets, and its pool as far as the capacity in the pool's header (R323, R324). -/
def State.inIndexOf (s : State) (asid : Nat) (ix : Index) (tasid va : Nat) : Bool :=
  let within := fun (base size : Nat) => tagAsid asid base == tasid && decide (base ≤ va) && decide (va < base + size)
  within ix.buckets.toNat (128 * 2 ^ ix.bits) ||
    (ix.pool != 0 && within ix.pool.toNat (128 + 128 * s.standing8 asid (ix.pool.toNat + 8)))

/-- The tag ASID under which a lane's address was formed; none for the scratchpad. -/
def State.tagOf (s : State) (a : Access) (p : Part) : Option Nat :=
  match a.place with
  | .scratch _ _ => none
  | _ => (s.warp? a.w).map (fun w => tagAsid w.asid p.va)

/-- Lines that an operation may still write and that are known only as it runs (R291, R326, R327): the chains and the pool of a KSTORE
that has tokens left; the part not yet taken of the spill region of a TSPLIT that has tiles left, from its cursor to its
capacity. -/
def State.mayWrite (s : State) (e : EngOp) (tasid va : Nat) : Bool :=
  !e.complete && decide (e.done < e.total) && match e.kind with
    | .kstore ix _ _ _ _ _ _ => s.inIndexOf e.asid ix tasid va
    | .tsplit hd _ _ _ =>
      let aux := (hd.extractLsb' 128 40).toNat * 65536
      let from_ := aux + 16 + s.standing8 e.asid aux
      tagAsid e.asid aux == tasid && decide (from_ / 128 ≤ va / 128) && decide (va < aux + 16 + s.standing8 e.asid (aux + 8))
    | _ => false

/-- The access meets such lines: a load of a chain's, any access to a spill region's. A store to a chain's lines breaks a duty
(R323). -/
def State.meetsWrites (s : State) (e : EngOp) (y : Access) : Bool :=
  (y.isLoad || match e.kind with
    | .kstore _ _ _ _ _ _ _ => false
    | _ => true) && y.parts.any (fun p => (s.tagOf y p).any (fun t => s.mayWrite e t p.va))

/-- An engine operation has taken the access's line and not yet written it (R248): cached lines are held from every agent,
other places, lines whose ownership is recalled, and lines that it may yet write, from the issuing warp. -/
def State.recalled (s : State) (y : Access) : Bool :=
  let names := fun (os : List (Place × Nat)) => os.any (fun o => y.parts.any (fun p => s.lineName y p == o))
  s.engines.any (fun e => (names e.2.owned && (e.2.w == y.w || match y.place with
      | .line _ _ => true
      | _ => false)) || (e.2.w == y.w && (names e.2.bound || s.meetsWrites e.2 y)))

/-- A later access has been performed before some access to these bytes, which no agent of its scope may see (R240): until
that access is performed, those agents' accesses that would conflict with it wait. -/
def State.owed (s : State) (k : Nat) (y : Access) : Bool :=
  s.accesses.any (fun e => e.1 != k && e.2.owes.any (fun sc => sc.holds (s.agent e.2.w) (s.agent y.w)) &&
    e.2.meets y && (e.2.writes || y.writes) && !s.mustPrecede y e.2 && !(e.2.pathBefore y && e.2.isStore && y.isLoad))

/-- An engine or an earlier access of another agent holds the access. -/
def State.blocked (s : State) (k : Nat) (y : Access) : Bool := s.recalled y || s.owed k y

/-- The pending accesses that `seed` names, those that must be performed before them, and so on, in order of issue. -/
def State.needed (s : State) (seed : Nat → Access → Bool) : List (Nat × Access) :=
  s.accesses.foldr (fun e es => if seed e.1 e.2 || es.any (fun a => s.mustPrecede e.2 a.2) then e :: es else es) []

/-- The pending accesses that an access passes if it is performed now. -/
def State.passed (s : State) (k : Nat) (y : Access) : List (Nat × Access) :=
  s.needed (fun j x => j != k && s.mustPrecede x y)

/-- The access can be performed now: nothing that must precede it toward every agent is pending, nothing holds it, and what it
passes toward the agents outside a scope can still come before them for those inside (R237, R240, R248). -/
def State.canPerform (s : State) (k : Nat) (y : Access) : Bool :=
  !s.accesses.any (fun e => e.1 != k && (s.orderOf e.2 y).any Scope.hard) && !s.blocked k y &&
    (s.passed k y).all (fun e => !s.blocked e.1 e.2)

/-- The widest scope toward which an access that is performed passes others. -/
def State.passScope (s : State) (k : Nat) (y : Access) : Option Scope :=
  s.accesses.foldl (fun (b : Option Scope) e =>
    if e.1 = k then b
    else match s.orderOf e.2 y with
      | none => b
      | some sc => some ((b.getD sc).wider sc)) none

/-- An access is performed before others that must precede it: those now owe their place to the agents of the scope (R240). -/
def State.pass (s : State) (k : Nat) (y : Access) : State :=
  match s.passScope k y with
  | none => s
  | some sc =>
    let es := (s.passed k y).map (fun e => e.1)
    { s with accesses := s.accesses.map (fun e =>
        if es.contains e.1 then (e.1, { e.2 with owes := some ((e.2.owes.getD sc).wider sc) }) else e) }

/-! ## What is known to stand before what (R237, R242, R245; the model's record of it) -/

/-- A performed access is one of the known ones. -/
def Known.covers (k : Known) (x : Strong) : Bool :=
  k.agent == x.agent && (k.after.contains x.seg ||
    (decide (x.seq < k.seq) && (k.all || k.segs.contains x.seg) && !k.but.contains x.op))

/-- An acquire or full fence stands between what a path has heard and an access, wide enough for those it comes from. -/
def Heard.fenced (h : Heard) (w : Warp) (me : Agent) (y : Access) (k : Known) : Bool :=
  w.marks.any (fun m => decide (m.kind ≤ 1) && (m.seg == h.seg || y.segs.contains m.seg) &&
    decide (h.seq < m.seq) && decide (m.seq < y.seq) && m.scope.holds me k.agent)

/-- The accesses of others that are known to stand before an access. -/
def State.knownTo (s : State) (y : Access) : List Known :=
  match s.warp? y.w with
  | none => []
  | some w => w.heard.flatMap (fun h =>
    if y.after.contains h.seg || (y.segs.contains h.seg && decide (h.seq < y.seq)) then
      h.known.filter (fun k => k.scope.holds k.agent (s.agent y.w) &&
        (h.acq || !y.opened.contains h.op || h.fenced w (s.agent y.w) y k))
    else [])

/-- A performed access stands before an access by R237, R241 or R242. -/
def State.forced (s : State) (x : Strong) (y : Access) : Bool :=
  (x.agent == s.agent y.w &&
    (y.after.contains x.seg ||
      (y.segs.contains x.seg && decide (x.seq < y.seq) &&
        (x.reads || y.writes || !y.opened.contains x.op ||
          ((s.warp? y.w).any (fun w => w.marks.any (fun m => m.kind == 0 && y.segs.contains m.seg &&
            decide (x.seq < m.seq) && decide (m.seq < y.seq)))))))) ||
  (s.knownTo y).any (fun k => k.covers x)

/-- The last release or full fence before an access in path order: its number and scope; 0 without one. -/
def State.lastRelease (s : State) (y : Access) : Nat × Scope :=
  match s.warp? y.w with
  | none => (0, .warp)
  | some w => w.marks.foldl (fun b m =>
    if (m.kind == 0 || m.kind == 2) && y.segs.contains m.seg && decide (m.seq < y.seq) && decide (b.1 ≤ m.seq) then (m.seq, m.scope) else b)
    (0, .warp)

/-- What a write tells: the accesses that are known to stand before it, toward the agents of its scope. -/
def State.tells (s : State) (y : Access) : List Known :=
  let me := s.agent y.w
  let own := fun (scope : Scope) (seq : Nat) (but : List Nat) =>
    ({ agent := me, scope := scope, seq := seq, all := false, segs := y.segs, but := but, after := y.after } : Known)
  let heard := (s.knownTo y).filter (fun k => y.scope.holds me k.agent)
  if y.rel then own y.scope y.seq [] :: heard
  else
    let f := s.lastRelease y
    own f.2 f.1 [] :: own y.scope y.seq y.opened :: heard

/-- A strong write tells, and a strong read hears, at these bytes. An atomic's write hands on what the word told before. -/
def State.tellHear (s : State) (a : Access) (p : Part) : State :=
  if a.strong then
    let me := s.agent a.w
    let here := fun (x : Told) => x.place == a.place && decide (x.off < p.off + p.size) && decide (p.off < x.off + x.len)
    let heard := (s.told.filter (fun x => here x && x.scope.holds x.agent me && a.scope.holds me x.agent)).flatMap Told.known
    let s1 := if a.reads && !heard.isEmpty then
        s.updWarp a.w (fun w => { w with heard := w.heard ++
          [{ seg := a.seg, seq := a.seq, op := a.op, acq := a.acq, known := heard.filter (fun k => a.scope.holds me k.agent) }] })
      else s
    if a.writes then
      { s1 with told := { place := a.place, off := p.off, len := p.size, agent := me, scope := a.scope, known := s1.tells a } ::
          s1.told.filter (fun x => a.reads || !here x) }
    else s1
  else s

/-! ## Performing an access (R236) -/

/-- Overlay a store's bytes on a read: byte `i` of the read stands at offset `off + i`. -/
def overlay (off : Nat) (bs : List Byte) (p : Part) : List Byte :=
  let rec go (i : Nat) (l : List Byte) : List Byte :=
    match l with
    | [] => []
    | b :: r => (if p.off ≤ i ∧ i < p.off + p.size then (p.data[i - p.off]?).getD b else b) :: go (i + 1) r
  go off bs

/-- The bytes a load unit reads: those at its place, overlaid with the path's own earlier stores that are still pending,
in path order (R236, forwarding). Of several lanes of one store to the same bytes the last in issue order is forwarded (R140;
DESIGN CHOICE, log entry 77). -/
def State.readUnit (s : State) (y : Access) (off n : Nat) : List Byte :=
  let mine := s.accesses.filter (fun e => e.2.isStore && e.2.w == y.w && e.2.place == y.place && e.2.pathBefore y)
  mine.foldl (fun bs e => e.2.parts.foldl (fun bs p => overlay off bs p) bs) (s.peekBytes y.place off n)

/-- The stamp of a line (R246). -/
def State.stampAt (s : State) (p : Place) (base : Nat) : Option Stamp :=
  s.stamps.find? (fun x => x.place == p && x.base == base)

/-- The access is one coalesced event (R244). -/
def Access.coalesced (a : Access) : Bool := decide (1 < a.parts.length)

/-- Record the stamp of a strong access (R246): of a coalesced event, the line. -/
def State.recordStamp (s : State) (a : Access) (p : Part) : State :=
  if a.strong then
    let base := p.off / 128
    let st : Stamp :=
      { place := a.place, base := base, off := if a.coalesced then 0 else p.off % 128
        len := if a.coalesced then 128 else p.size, size := a.size, agent := s.agent a.w, write := a.writes, scope := a.scope }
    { s with stamps := st :: s.stamps.filter (fun x => !(x.place == a.place && x.base == base)) }
  else s

/-- A strong access overlaps another warp's stamp of a different size, one of the two being a write, each within the other's
scope (R240, R245, R246). -/
def State.mixedSize (s : State) (a : Access) (p : Part) : Bool :=
  a.strong && (s.stampAt a.place (p.off / 128)).any (fun x =>
    let me := s.agent a.w
    x.agent != me && x.size != a.size && (x.write || a.writes) && decide (x.off < p.off % 128 + p.size) &&
      decide (p.off % 128 < x.off + x.len) && x.scope.holds x.agent me && a.scope.holds me x.agent)

/-! ## Mixed-size races (R245; DEDUCED, log entry 6) -/

/-- The performed strong accesses with which a strong access races at these bytes. -/
def State.races (s : State) (a : Access) (p : Part) : List Strong :=
  let me := s.agent a.w
  if a.strong then s.strong.filter (fun x =>
    x.place == a.place && decide (x.off < p.off + p.size) && decide (p.off < x.off + x.len) && x.size != a.size &&
      (x.write || a.writes) && x.scope.holds x.agent me && a.scope.holds me x.agent && !s.forced x a)
  else []

/-- The bytes at which a strong read races with a strong write that is still pending: their first and the one past them. -/
def State.racesAhead (s : State) (k : Nat) (a : Access) (p : Part) : List (Nat × Nat) :=
  let me := s.agent a.w
  if a.strong && a.reads then s.accesses.flatMap (fun e =>
    if e.1 != k && e.2.op != a.op && e.2.strong && e.2.writes && e.2.place == a.place && e.2.size != a.size &&
        e.2.scope.holds (s.agent e.2.w) me && a.scope.holds me (s.agent e.2.w) && !s.mustPrecede a e.2 then
      (e.2.parts.filter (fun q => q.meets p)).map (fun q => (q.off, q.off + q.size))
    else [])
  else []

/-- Record a strong access that is performed; it stands for an earlier one of its path to the same bytes. -/
def State.recordStrong (s : State) (a : Access) (p : Part) : State :=
  if a.strong then
    let x : Strong :=
      { place := a.place, off := p.off, len := p.size, size := a.size, reads := a.reads, write := a.writes, scope := a.scope
        agent := s.agent a.w, seg := a.seg, seq := a.seq, op := a.op, lane := p.lane, voff := p.voff }
    { s with strong := x :: s.strong.filter (fun y => !(y.agent == x.agent && y.seg == x.seg && y.place == x.place &&
        y.off == x.off && y.len == x.len && y.size == x.size && y.reads == x.reads && y.write == x.write && y.scope == x.scope)) }
  else s

/-- `n` free bytes. -/
def State.freeBytes (s : State) (n : Nat) : List Byte × State :=
  (bytesOfNat n s.freeVal, s.takeFree)

/-- Replace the bytes at offsets `lo` to `hi - 1` by those of another string; byte `i` stands at offset `off + i`. -/
def mixBytes (lo hi off : Nat) (bs new : List Byte) : List Byte :=
  match bs, new with
  | b :: r, f :: q => (if lo ≤ off ∧ off < hi then f else b) :: mixBytes lo hi (off + 1) r q
  | l, _ => l

/-- Bytes that a race leaves undefined: those of `bs`, which stand from `off` on, in the ranges (R245; DEDUCED, log entry
6). -/
def State.blur (s : State) (off : Nat) (bs : List Byte) (rs : List (Nat × Nat)) : List Byte × State :=
  rs.foldl (fun (r : List Byte × State) x =>
    let f := r.2.freeBytes bs.length
    (mixBytes x.1 x.2 off r.1 f.1, f.2)) (bs, s)

/-- The ranges of the writes among performed accesses. -/
def writeRanges (xs : List Strong) : List (Nat × Nat) :=
  (xs.filter Strong.write).map (fun x => (x.off, x.off + x.len))

/-- The bytes a strong access reads, undefined where it races with a write. -/
def State.scramble (s : State) (a : Access) (p : Part) (bs : List Byte) : List Byte × State :=
  s.blur p.off bs (writeRanges (s.races a p) ++ s.racesAhead 0 a p)

/-- The bytes a strong access leaves in memory, undefined where it races with another write. -/
def State.scrambleWrite (s : State) (a : Access) (p : Part) (bs : List Byte) : List Byte × State :=
  s.blur p.off bs (writeRanges (s.races a p))

/-- The bytes an outstanding instruction receives in a lane. -/
def OutOp.receive (o : OutOp) (lane voff : Nat) (bs : List Byte) : OutOp :=
  match bs with
  | [] => o
  | b :: r => OutOp.receive { o with got := Assoc.set o.got 0 (lane * 16 + voff) b } lane (voff + 1) r

/-- A write races with reads that are performed but whose instructions are outstanding: what they read there is undefined. -/
def State.blurReads (s : State) (a : Access) (p : Part) : State :=
  if a.writes then
    ((s.races a p).filter (fun x => x.reads && !x.write)).foldl (fun (s : State) x =>
      let lo := Nat.max x.off p.off
      let n := Nat.min (x.off + x.len) (p.off + p.size) - lo
      let f := s.freeBytes n
      { f.2 with outs := Assoc.upd f.2.outs x.op (fun o => o.receive x.lane (x.voff + (lo - x.off)) f.1) }) s
  else s

/-- What performing a part of a strong access records: its stamp (R246), the access itself, and what it tells and hears. -/
def State.recordPart (s : State) (a : Access) (p : Part) : State :=
  ((((s.blurReads a p).recordStamp a p).tellHear a p).recordStrong a p)

/-- The event of an atomic (R261): the bytes it read, and the state after it. -/
def State.rmwPart (s : State) (a : Access) (p : Part) (aop : BitVec 4) (c : DWord) : List Byte × State :=
  let got := s.scramble a p (s.peekBytes a.place p.off p.size)
  let new := atomicNew aop (8 * p.size) (natOfBytes got.1) (natOfBytes p.data) c.toNat
  let put := got.2.scrambleWrite a p (bytesOfNat p.size new)
  (got.1, (put.2.recordPart a p).poke a.place p.off put.1)

/-! ## Accesses that software must not make (R11) -/

/-- A virtual address, under its tag ASID, lies in a spill area that is claimed (R273). -/
def State.inClaim (s : State) (tasid va : Nat) : Bool :=
  s.teams.any (fun t => (s.launch? t.2.launch).any (fun l => t.2.groups.any (fun g => g.claims.any (fun c =>
    c.2.spill.any (fun a => tagAsid l.asid a.toNat == tasid && decide (a.toNat ≤ va) &&
      decide (va < a.toNat + 16 + 16 * c.2.capacity))))))

/-- The address lies in a line of an index that an outstanding KSTORE or BGATHER uses (R323). -/
def State.inIndex (s : State) (tasid va : Nat) : Bool :=
  s.engines.any (fun e => !e.2.complete && match e.2.kind with
    | .kstore ix _ _ _ _ _ _ => s.inIndexOf e.2.asid ix tasid va
    | .bgather ix _ _ _ _ _ _ _ => s.inIndexOf e.2.asid ix tasid va
    | _ => false)

/-- A team of the ASID is pending or saved (R369). -/
def State.poolBusy (s : State) (asid : Nat) : Bool :=
  s.warps.any (fun e => e.2.asid == asid && e.2.pending) ||
    s.teams.any (fun t => t.2.saving && (s.launch? t.2.launch).any (fun l => l.asid == asid)) ||
    s.launches.any (fun l => l.2.asid == asid && !l.2.saved.isEmpty)

/-- The bytes of an ASID's save pool: its header and free stack, as far as the capacity in the header, and its records (R369). -/
def State.inPoolOf (s : State) (asid pool tasid va : Nat) : Bool :=
  let field := fun (off n : Nat) => ((s.standing asid (pool + off) n).map natOfBytes).getD 0
  let within := fun (base size : Nat) => tagAsid asid base == tasid && decide (base ≤ va) && decide (va < base + size)
  within pool (64 + 4 * field 8 4) || within (field 0 8) (16640 * field 8 4)

/-- The address lies in a save pool that software must not change (R369). -/
def State.inPool (s : State) (tasid va : Nat) : Bool :=
  s.ctx.any (fun x => x.2.save != 0 && s.poolBusy x.1 && s.inPoolOf x.1 x.2.save.toNat tasid va)

/-- The place and the offset that a scratchpad offset of a warp names (R139). -/
def Warp.scratchAt (w : Warp) (off : Nat) : Place × Nat :=
  (.scratch w.team (if 2 ^ 31 ≤ off then 1 - w.wg else w.wg), off % 2 ^ 31)

/-- The barrier word on which a warp is parked at WAITB (R268). -/
def Warp.waitbWord (w : Warp) : Option (Place × Nat) :=
  match w.held with
  | none => none
  | some h => match h.i with
    | some (.waitbPh a _) => some (w.scratchAt (w.rd a 0).toNat)
    | some (.waitbCnt a _) => some (w.scratchAt (w.rd a 0).toNat)
    | _ => none

/-- Arrivals or waits on the barrier word at this offset are in flight (R266): a pending arrival, an operation or a batch that is to
arrive there, a warp parked on it. -/
def State.wordBusy (s : State) (place : Place) (off : Nat) : Bool :=
  let here := fun (w : Warp) (o : Nat) => w.scratchAt o == (place, off)
  s.accesses.any (fun e => e.2.place == place && e.2.parts.any (fun p => p.off == off) && match e.2.kind with
      | .rmw aop _ => aop == 0xE
      | _ => false) ||
    s.engines.any (fun e => !e.2.complete && e.2.bar.any (fun o => (s.warp? e.2.w).any (fun w => here w o))) ||
    s.warps.any (fun e => e.2.waitbWord == some (place, off) ||
      e.2.batches.any (fun b => !b.complete && b.bar.any (here e.2)))

/-- The words of a range on which arrivals or waits are in flight. -/
def State.busyWords (s : State) (place : Place) (off n : Nat) : List Nat :=
  ((numsFrom (off / 4) ((off % 4 + n + 3) / 4)).map (fun i => 4 * i)).filter (s.wordBusy place)

/-- A read of a claimed spill area returns undefined bytes (R11, R273). -/
def State.spoilRead (s : State) (a : Access) (p : Part) (bs : List Byte) : List Byte × State :=
  if (s.tagOf a p).any (fun t => s.inClaim t p.va) then s.freeBytes bs.length else (bs, s)

/-- A write to a claimed spill area, to a line of an index in use or to a save pool in use leaves the line undefined; a store to a
barrier word on which arrivals or waits are in flight leaves the word undefined (R11, R266, R273, R323, R369; DEDUCED, log entry
64). -/
def State.spoilWrite (s : State) (a : Access) (p : Part) : State :=
  if (s.tagOf a p).any (fun t => s.inClaim t p.va || s.inIndex t p.va || s.inPool t p.va) then
    let f := s.freeBytes 128
    f.2.poke a.place (p.off / 128 * 128) f.1
  else if a.isStore then
    (s.busyWords a.place p.off p.size).foldl (fun (s : State) o =>
      let f := s.freeBytes 4
      f.2.poke a.place o f.1) s
  else s

/-- Perform one part of an access at its ordering point. -/
def State.performPart (s : State) (a : Access) (p : Part) : State :=
  match a.kind with
  | .load =>
    let x := s.scramble a p (s.readUnit a p.off p.size)
    let r := x.2.spoilRead a p x.1
    let s1 := r.2.recordPart a p
    { s1 with outs := Assoc.upd s1.outs a.op (fun o => o.receive p.lane p.voff r.1) }
  | .store =>
    let r := s.scrambleWrite a p p.data
    ((r.2.recordPart a p).poke a.place p.off r.1).spoilWrite a p
  | .rmw aop c =>
    let x := s.rmwPart a p aop c
    let y := x.2.spoilRead a p x.1
    let r := (y.1, y.2.spoilWrite a p)
    { r.2 with outs := Assoc.upd r.2.outs a.op (fun o => o.receive p.lane p.voff r.1) }

/-- A coalesced store writes its line as one, which clears the line's poison (R244, R360). -/
def State.wholeLine (s : State) (a : Access) : State :=
  if a.isStore && a.coalesced then
    match a.parts with
    | [] => s
    | p :: _ => s.poke a.place (p.off / 128 * 128) (s.peekBytes a.place (p.off / 128 * 128) 128)
  else s

/-- Drop fences that no pending access precedes. -/
def State.sweepFences (s : State) : State :=
  { s with fences := s.fences.filter (fun f => s.accesses.any (fun e => e.2.w == f.w && decide (e.2.seq < f.seq))) }

/-- A store invalidates the other cores' L1 copies of its line (R207, R236). -/
def State.dropL1 (s : State) (keep : Option Nat) (tasid line : Nat) : State :=
  { s with cores := s.cores.map (fun c =>
      if keep = some c.1 then c
      else (c.1, { c.2 with l1 := c.2.l1.filter (fun x => !(x.line == line && x.asid == tasid)) })) }

/-- What follows an access that is performed: a write invalidates other L1 copies, the access is no longer pending. -/
def State.performed (s : State) (k : Nat) (a : Access) : State :=
  let s2 :=
    match a.place with
    | .line t n => if a.writes then s.dropL1 (some (coreOfKey a.w)) t n else s
    | _ => s
  ({ s2 with accesses := Assoc.erase s2.accesses k }).sweepFences

/-- Perform an access at one point of P (R236, R243, R244): all its parts together. -/
def State.perform (s : State) (k : Nat) (a : Access) : State :=
  ((a.parts.foldl (fun s p => s.performPart a p) (s.pass k a)).wholeLine a).performed k a

/-- Perform the pending accesses that `seed` names, after all that must precede them; none while one of these cannot be
performed within the step: another device performs it, or something holds it. -/
def State.settle (s : State) (seed : Nat → Access → Bool) : Option State :=
  let es := s.needed seed
  if es.any (fun e => e.2.remote.isSome || s.blocked e.1 e.2) then none
  else some (es.foldl (fun s e => s.perform e.1 e.2) s)

/-- Perform all that must precede an access of a warp which is about to be performed in the same step (R237). -/
def State.settleFor (s : State) (y : Access) : Option State :=
  if s.blocked 0 y then none else s.settle (fun _ x => s.mustPrecede x y)

/-- An engine operation holds a line of these bytes from every agent (R248). -/
def State.engineHolds (s : State) (place : Place) (off n : Nat) : Bool :=
  s.engines.any (fun e => e.2.owned.any (fun o => o.1 == place && decide (off / 128 ≤ o.2) &&
    decide (o.2 * 128 < off + n) && match place with
      | .line _ _ => true
      | _ => false))

/-- Perform every pending access to a place that meets these bytes, each after what must precede it; none while one of them, or
an engine, holds the place. -/
def State.settleAt (s : State) (place : Place) (off n : Nat) : Option State :=
  if s.engineHolds place off n then none
  else s.settle (fun _ x => x.place == place &&
    x.parts.any (fun p => decide (p.off < off + n) && decide (off < p.off + p.size)))

/-! ## Writing within a step -/

/-- The context of a warp's path. -/
def Warp.who (w : Warp) (key path : Nat) : Who :=
  { core := coreOfKey key, slot := slotOfKey key, path := path, asid := w.asid, principal := w.principal,
    team := some w.team, clr := w.clearance }

/-- The checks of a store of `n` bytes within one line, made within a step (R143 rows 2 to 4, R214, R221): the place, and the
code of a response that is lost, with which the store may have been performed or not (R391). -/
def State.resolveWrite (s : State) (who : Who) (va n : Nat) : Got (Hit × Option Nat) :=
  if 2 ^ 56 ≤ va then .cause 0x24 0 s
  else
    let go := fun (h : Hit) (absent : Option Nat) (q : State) =>
      if h.w = false then (.cause 0x27 0 q : Got (Hit × Option Nat))
      else match q.cleared who.core who.asid who.team who.clr h.tag with
        | .cause c b q => .cause c b q
        | .wait q => .wait q
        | .ok ok q =>
          if ok = false then .cause 0x28 0 q
          else match absent with
            | some b => .cause 0x2F b q
            | none => match q.way (some who.core) h with
              | .cause c b =>
                let q := q.wayUsed (some who.core) h
                if c = 0x2A then .cause c b q else .ok (h, some c) q
              | .wait => .wait (q.ask (some who.core) h)
              | .go => match q.settleAt h.place h.off n with
                | none => .wait q
                | some q => .ok (h, none) (q.wakeFor (some who.core) h)
    match s.resolve who.asid who.team va with
    | (.cause c b, q) => .cause c b q
    | (.miss _ _, q) => .wait q
    | (.absent b h, q) => go h (some b) q
    | (.hit h, q) => go h none q

/-- The checks of a load of `n` bytes within one line, made within a step; a denied read answers none. -/
def State.resolveRead (s : State) (who : Who) (va n : Nat) : Got (Option Hit × Nat) :=
  if 2 ^ 56 ≤ va then .cause 0x24 0 s
  else
    let go := fun (h : Hit) (absent : Option Nat) (q : State) =>
      match q.cleared who.core who.asid who.team who.clr h.tag with
      | .cause c b q => (.cause c b q : Got (Option Hit × Nat))
      | .wait q => .wait q
      | .ok ok q =>
        if ok = false then .ok (none, h.tag) q
        else match absent with
          | some b => .cause 0x2F b q
          | none => match q.way (some who.core) h with
            | .cause c b => .cause c b (q.wayUsed (some who.core) h)
            | .wait => .wait (q.ask (some who.core) h)
            | .go => match q.settleAt h.place h.off n with
              | none => .wait q
              | some q => if q.badAt h.place h.off n then .cause (q.errorCode h.place h.off n) 0 q
                else .ok (some h, h.tag) (q.wakeFor (some who.core) h)
    match s.resolve who.asid who.team va with
    | (.cause c b, q) => .cause c b q
    | (.miss _ _, q) => .wait q
    | (.absent b h, q) => go h (some b) q
    | (.hit h, q) => go h none q

/-- A write whose response was lost may have been made or not, which is free (R391). -/
def State.maybePoke (s : State) (h : Hit) (bs : List Byte) : State :=
  if s.freeVal % 2 = 0 then s.takeFree else s.takeFree.poke h.place h.off bs

/-- Pieces of a byte range that each lie in one line: virtual address, offset in the range, size. -/
def linePieces (va n : Nat) (fuel : Nat) (done : Nat) : List (Nat × Nat × Nat) :=
  match fuel with
  | 0 => []
  | fuel + 1 =>
    if n = 0 then []
    else
      let k := Nat.min n (128 - va % 128)
      (va, done, k) :: linePieces (va + k) (n - k) fuel (done + k)

/-- Store bytes within a step, line by line; a cause leaves the lines before it written. -/
def State.storeNow (s : State) (who : Who) (va : Nat) (bs : List Byte) : Got Unit :=
  (linePieces va bs.length (bs.length / 128 + 2) 0).foldl (fun (g : Got Unit) x =>
    match g with
    | .ok _ s =>
      match s.resolveWrite who x.1 x.2.2 with
      | .ok (h, none) q => .ok () (q.poke h.place h.off (sliceBytes bs x.2.1 x.2.2))
      | .ok (h, some c) q => .cause c 0 (q.maybePoke h (sliceBytes bs x.2.1 x.2.2))
      | .cause c b q => .cause c b q
      | .wait q => .wait q
    | o => o) (.ok () s)

/-- Load bytes within a step; the lines denied, with the tag found, are listed, and read as zeros (R221)
(DEDUCED, log entry 27). -/
def State.loadNow (s : State) (who : Who) (va n : Nat) : Got (List Byte × List (Nat × Nat)) :=
  (linePieces va n (n / 128 + 2) 0).foldl (fun (g : Got (List Byte × List (Nat × Nat))) x =>
    match g with
    | .ok acc s =>
      match s.resolveRead who x.1 x.2.2 with
      | .ok (some h, _) q => .ok (acc.1 ++ q.peekBytes h.place h.off x.2.2, acc.2) q
      | .ok (none, tag) q => .ok (acc.1 ++ zeros x.2.2, acc.2 ++ [(x.1 / 128 * 128, tag)]) q
      | .cause c b q => .cause c b q
      | .wait q => .wait q
    | o => o) (.ok ([], []) s)

end Sys2Proof.Machine
end

