-- ==== Sys2Proof/Machine/Log.lean ====
section
/-!
DEFINITION. The fault record (R345, R346), tickets (R352), the fault log (R353) and the
permission log (R222).
-/
namespace Sys2Proof.Machine

/-! ## The fault record -/

/-- The 64-byte record header (R345). -/
def State.recordHeader (s : State) (key : Nat) (w : Warp) (f : FaultInfo) : List Byte :=
  let t := s.team? w.team
  [BitVec.ofNat 8 f.code, BitVec.ofNat 8 f.flags] ++ bytesOfNat 2 (Nat.min f.further 0xFFFF) ++ bytesOfNat 4 f.sub ++
    bytesOfNat 8 f.pc.toNat ++ bytesOfNat 8 f.opPc.toNat ++ bytesOfNat 4 f.lanes.toNat ++ bytesOfNat 4 f.pathMask.toNat ++
    [BitVec.ofNat 8 f.path, BitVec.ofNat 8 (slotOfKey key)] ++ bytesOfNat 2 (coreOfKey key) ++ bytesOfNat 2 w.asid ++
    bytesOfNat 2 w.principal ++ [BitVec.ofNat 8 w.warpId, BitVec.ofNat 8 w.wg] ++ bytesOfNat 2 s.device ++
    bytesOfNat 4 f.ticket ++ bytesOfNat 8 f.time.toNat ++ bytesOfNat 4 ((t.map Team.x).getD 0) ++
    [BitVec.ofNat 8 ((t.map Team.y).getD 0), BitVec.ofNat 8 ((t.map Team.z).getD 0)] ++ zeros 2

/-- The attribution word of a faulting lane (R197): its flat index within an attribution span. -/
def Warp.attribution (w : Warp) (lane : Nat) : Nat :=
  if w.span then (Assoc.at? w.slice.item lane).getD 0xFFFFFFFF else 0xFFFFFFFF

/-- The whole 512-byte record (R345). -/
def State.record (s : State) (key : Nat) (w : Warp) (f : FaultInfo) (q : Path) : List Byte :=
  let adr := allLanes.flatMap (fun i =>
    bytesOfNat 8 (if f.lanes.getLsbD i then ((Assoc.at? f.addrs i).map BitVec.toNat).getD 0 else 0))
  let att := allLanes.flatMap (fun i => bytesOfNat 4 (if f.lanes.getLsbD i then w.attribution i else 0xFFFFFFFF))
  s.recordHeader key w f ++ adr ++ att ++ bytesOfNat 2 w.mode.toNat ++ [BitVec.ofNat 8 q.stack.length] ++ zeros 5 ++
    bytesOfNat 8 ((q.jp.map BitVec.toNat).getD 0xFFFFFFFFFFFFFFFF) ++ zeros 48

/-- The address of a warp's frame (R346). -/
def State.frameAddr (s : State) (key : Nat) (w : Warp) : DWord :=
  (s.ctxOf w.asid).frames + BitVec.ofNat 64 (512 * key)

/-! ## Tickets (R352) -/

/-- The ticket a core issues next, for a slot and a kind. -/
def State.nextTicket (s : State) (core slot kind : Nat) : Nat :=
  dieOfCore core * 2 ^ 30 + core % Config.coresPerDie * 2 ^ 24 + slot * 2 ^ 18 + kind * 2 ^ 16 +
    (s.core core).ticket % 65536

/-- Issue a ticket that names something. -/
def State.issueTicket (s : State) (core slot kind : Nat) (what : TicketOf) : Nat × State :=
  let t := s.nextTicket core slot kind
  let s1 := s.updCore core (fun c => { c with ticket := (c.ticket + 1) % 65536 })
  (t, { s1 with tickets := Assoc.put s1.tickets t what })

/-- A ticket names nothing any more. -/
def State.dropTicket (s : State) (t : Nat) : State := { s with tickets := Assoc.erase s.tickets t }

/-! ## The fault log (R353) -/

/-- The supervisor as a requester (R342; DEDUCED, log entry 20): ASID 0, cleared for tag 0 only. -/
def supervisorWho : Who :=
  { core := 0, slot := 0, path := 0, asid := 0, principal := 0, team := none, clr := none }

/-- How an append ends. -/
inductive Append where
  | done
  | full
  | failing
  /-- the log's page waits for a slot, or something holds its line -/
  | wait
  deriving DecidableEq, Repr

/-- Append an entry to the supervisor's fault log (R353). -/
def State.appendFault (s : State) (entry : List Byte) : Append × State :=
  let base := s.faultlog.toNat
  if base = 0 then (.full, s)
  else match s.loadNow supervisorWho base 20 with
    | .ok (h, []) q =>
      let wc := fieldOf h 0 8
      let rc := fieldOf h 8 8
      let cap := fieldOf h 16 4
      if wc - rc = cap ∨ cap = 0 then (.full, q)
      else match q.storeNow supervisorWho (base + 128 + 128 * (wc % cap)) entry with
        | .ok _ q2 =>
          match q2.storeNow supervisorWho base (bytesOfNat 8 (wc + 1)) with
          | .ok _ q3 => (.done, q3)
          | .cause _ _ q3 => (.failing, q3)
          | .wait q3 => (.wait, q3)
        | .cause _ _ q2 => (.failing, q2)
        | .wait q2 => (.wait, q2)
    | .ok (_, _ :: _) q => (.failing, q)
    | .cause _ _ q => (.failing, q)
    | .wait q => (.wait, q)

/-- Keep an entry until the log takes it; `failing`: its append met a cause and waits for a repaired log (R353). -/
def State.holdEntry (s : State) (entry : List Byte) (failing : Bool) : State :=
  { s with heldLog := s.heldLog ++ [{ bytes := entry, failing := failing }] }

/-- Append an entry, or hold it (R353). Entries already held go first, as before a full log. The answer `true` sends a warp that
has a handler there with 0x3F: the log is full, and the entry is not kept, or its append met a cause, and the entry is held
(DEDUCED, log entry 21). -/
def State.logEntry (s : State) (entry : List Byte) (handler : Bool) : Bool × State :=
  match if s.heldLog = [] then s.appendFault entry else (.full, s) with
  | (.done, q) => (false, q)
  | (.full, q) => if handler then (true, q) else (false, q.holdEntry entry false)
  | (.failing, q) => (handler, q.holdEntry entry true)
  | (.wait, q) => (false, q.holdEntry entry false)

/-- Append an entry, or hold it: the way of stops by route G, of engines and of the distributor. -/
def State.logOrHold (s : State) (entry : List Byte) : State := (s.logEntry entry false).2

/-- An entry: a record header, the address of the lowest faulting lane, zeros (R353). -/
def faultEntry (header : List Byte) (va : Nat) : List Byte := header ++ bytesOfNat 8 va ++ zeros 56

/-- The address of the lowest faulting lane, 0 where there is none. -/
def FaultInfo.lowestVa (f : FaultInfo) : Nat :=
  match f.lanes.lanes with
  | [] => 0
  | i :: _ => ((Assoc.at? f.addrs i).map BitVec.toNat).getD 0

/-! ## The permission log (R222) -/

/-- Count a dropped event, where the header can be read and written. -/
def State.countDropped (s : State) (who : Who) (base : Nat) : State :=
  match s.loadNow who base 32 with
  | .ok (h, []) q =>
    match q.storeNow who (base + 20) (bytesOfNat 4 (fieldOf h 20 4 + 1)) with
    | .ok _ q2 => q2
    | .cause _ _ q2 => q2
    | .wait q2 => q2
  | .ok (_, _ :: _) q => q
  | .cause _ _ q => q
  | .wait q => q

/-- Append an event to a context's permission log (R222): false while the log's page waits for a slot or something holds its
line. -/
def State.appendEvent (s : State) (who : Who) (ev : List Byte) : Bool × State :=
  let base := (s.ctxOf who.asid).permlog.toNat
  if base = 0 then (true, s)
  else match s.loadNow who base 32 with
    | .ok (h, []) q =>
      let wc := fieldOf h 0 8
      let rc := fieldOf h 8 8
      let cap := fieldOf h 16 4
      if wc - rc = cap ∨ cap = 0 then (true, q.countDropped who base)
      else match q.storeNow who (base + 32 + 32 * (wc % cap)) ev with
        | .ok _ q2 =>
          match q2.storeNow who base (bytesOfNat 8 (wc + 1)) with
          | .ok _ q3 => (true, q3)
          | .cause _ _ q3 => (true, q3)
          | .wait q3 => (false, q3)
        | .cause _ _ q2 => (true, q2.countDropped who base)
        | .wait q2 => (false, q2)
    | .ok (_, _ :: _) q => (true, q)
    | .cause _ _ q => (true, q)
    | .wait q => (false, q)

/-- Append one denied read to the context's permission log (R222): the line, the tag found, the kind of reader, the
denied lanes. `dist` marks the distributor, which names no core. An event that cannot be written yet is kept; nothing is held
for it. -/
def State.permEvent (s : State) (who : Who) (dist : Bool) (line tag cause : Nat) (lanes : Mask) : State :=
  let ev := bytesOfNat 8 line ++ bytesOfNat 2 who.asid ++ bytesOfNat 2 who.principal ++ bytesOfNat 2 tag ++
    [BitVec.ofNat 8 cause, 0] ++ bytesOfNat 8 s.clock.toNat ++
    bytesOfNat 2 (if dist then 0xFFFF else who.core) ++
    [BitVec.ofNat 8 (if dist then 0xFF else who.slot), BitVec.ofNat 8 (if dist then 0xFF else who.path)] ++
    bytesOfNat 4 lanes.toNat
  let keep := fun (s : State) => ({ s with heldEvents := s.heldEvents ++ [{ who := who, bytes := ev }] } : State)
  if s.heldEvents.any (fun e => e.who.asid == who.asid) then keep s
  else
    let r := s.appendEvent who ev
    if r.1 then r.2 else keep r.2

/-- Try the first of the events that are kept again. -/
def State.retryEvent (s : State) : State :=
  match s.heldEvents with
  | [] => s
  | e :: r =>
    let x := ({ s with heldEvents := r } : State).appendEvent e.who e.bytes
    if x.1 then x.2 else { x.2 with heldEvents := s.heldEvents }

/-- One event for each line of a list with the tag found there. -/
def State.permEvents (s : State) (who : Who) (dist : Bool) (lines : List (Nat × Nat)) (cause : Nat) (lanes : Mask) : State :=
  lines.foldl (fun s e => s.permEvent who dist e.1 e.2 cause lanes) s

end Sys2Proof.Machine
end

