-- ==== Sys2Proof/Machine/Ops.lean ====
section
/-!
DEFINITION. The named operations that the meanings share: retiring an instruction (R122, R133), taking an exception
(R342 to R346, R354, R356, R367), returning from one (R349), parking (R218), stopping a warp or a path (R354, R373), and
ending lanes (R130, R152, R349).
-/
namespace Sys2Proof.Machine

/-! ## The issue record -/

/-- The address after the instruction (R13). -/
def Cur.next (c : Cur) : DWord := c.pc + BitVec.ofNat 64 (4 * c.len)

/-- The launch of a warp. -/
def State.launchOf (s : State) (w : Warp) : Option Launch := s.launch? w.launch

/-- A field of the kernel header of a warp's launch, 0 without one. -/
def State.headerField (s : State) (w : Warp) (f : Launch → Nat) : Nat := ((s.launchOf w).map f).getD 0

/-- A PC given as an offset from the kernel header (R84). -/
def State.headerPc (s : State) (w : Warp) (off : Nat) : DWord :=
  ((s.launchOf w).map Launch.header).getD 0 + BitVec.ofNat 64 off

/-- An address as a pc: bits [1:0] are ignored (R13). -/
def pairTarget (x : DWord) : DWord := x &&& ~~~3#64

/-- The pc at an offset from the kernel header: where the offset is no multiple of 4, its low bits are ignored (R13; DESIGN CHOICE, log
entry 76). -/
def State.entryPc (s : State) (w : Warp) (off : Nat) : DWord := pairTarget (s.headerPc w off)

/-- The warp runs in supervisor mode (R342). -/
def Warp.supervisor (w : Warp) : Bool := w.asid == 0

/-- Debug is enabled in the warp's context (R373). -/
def State.debugOn (s : State) (w : Warp) : Bool := ((s.ctxOf w.asid).debug).getLsbD 0

/-- Instructions of the warp count as retired: outside trap, save and restore mode (R378) (DEDUCED, log entry 44). -/
def Warp.counting (w : Warp) : Bool := w.trap.isNone && w.pre == .normal

/-! ## Stops and log entries -/

/-- The lanes of the path as they issue: the held lanes of a waiting path (R171, R345). -/
def Path.issueMask (q : Path) : Mask := if q.status = .wait then q.held else q.mask

/-- What the record of a cause met by the instruction in issue says. -/
def State.infoOf (s : State) (c : Cur) (x : Cause) : FaultInfo :=
  let mask := ((s.warp? c.w).map (fun w => (w.path c.p).issueMask)).getD 0
  { code := x.code, flags := if x.other then 16 else 0, further := 0, sub := x.sub, pc := c.pc, opPc := c.pc,
    lanes := x.lanes, pathMask := mask, path := c.p, ticket := 0, addrs := x.addrs, time := s.clock }

/-- The cause that a record states. -/
def FaultInfo.cause (f : FaultInfo) : Cause :=
  { code := f.code, sub := f.sub, lanes := f.lanes, addrs := f.addrs, other := decide (16 ≤ f.flags)
    time := f.time }

/-- The warp is stopped under a ticket. -/
def State.stopAs (s : State) (key : Nat) (c : Cur) (f : FaultInfo) (replay : Mask) : State :=
  s.updWarp key (fun w => { w with held := some { why := .stopped f.ticket f.cause replay, cur := c, i := none } })

/-- Stop a warp with a log entry and a ticket of kind 0 (R354, R367, R372, R377); `replay` are the lanes a replay issues
again. The entry is held where the log does not take it (R353). -/
def State.stopWarp (s : State) (key : Nat) (c : Cur) (f : FaultInfo) (replay : Mask) : State :=
  match s.warp? key with
  | none => s
  | some w =>
    let t := s.issueTicket (coreOfKey key) (slotOfKey key) 0 (.warp key)
    let f := { f with ticket := t.1 }
    (t.2.logOrHold (faultEntry (t.2.recordHeader key w f) f.lowestVa)).stopAs key c f replay

/-- Stop a path for the debugger, or the whole warp under ctx_debug[1] (R373); a replay issues the faulting lanes
again. -/
def State.debugStop (s : State) (key : Nat) (c : Cur) (f : FaultInfo) : State :=
  match s.warp? key with
  | none => s
  | some w =>
    if ((s.ctxOf w.asid).debug).getLsbD 1 then s.stopWarp key c f f.lanes
    else
      let t := s.issueTicket (coreOfKey key) (slotOfKey key) 0 (.path key c.p)
      let f := { f with ticket := t.1 }
      let s1 := t.2.logOrHold (faultEntry (t.2.recordHeader key w f) f.lowestVa)
      s1.updPath key c.p (fun q => { q with hold := .debug t.1 f.cause c.pc c.len })

/-! ## Taking an exception -/

/-- The path of a trap as it runs the handler (R344). Of a waiting path the held lanes run it; its children and its own
held lanes, and its place among the paths, wait for the return (DEDUCED, log entry 24). -/
def Path.toHandler (q : Path) (pc : DWord) : Path :=
  { q with status := .run, mask := q.issueMask, kids := 0, arrived := 0, held := 0, hstack := [], stack := [], jp := none
           arr := none, parent := none, pc := pc, hold := .none, replay := none, replayOp := none, passBreak := false, passWatch := false }

/-- What a trap saves (R344). Where no instruction was in issue (`len` is 0) a return goes on with every lane at the PC. -/
def Warp.trapSave (w : Warp) (c : Cur) (f : FaultInfo) : TrapSave :=
  let q := w.path c.p
  { path := c.p, pc := c.pc, len := c.len, mode := w.mode, old := q, replay := if c.len = 0 then Mask.full else f.lanes
    code := f.code, begun := q.issueMask
    suspended := (numsFrom 0 8).filter (fun i => i != c.p && (w.path i).status != .free), sync := c.sync }

/-- The warp enters trap mode (R344). -/
def Warp.enterTrap (w : Warp) (c : Cur) (f : FaultInfo) (pc : DWord) : Warp :=
  { (w.updPath c.p (fun q => q.toHandler pc)) with
    mode := w.mode &&& 0x2000, trap := some (w.trapSave c f), held := none, handler := 0, lastSafe := none }

/-- A store that the path makes next, as far as its order goes (R237). -/
def Path.nextStore (q : Path) (key seq : Nat) : Access :=
  { w := key, op := 0, seg := (q.segs[0]?).getD 0, seq := seq, segs := q.segs, after := q.after, kind := .store, place := .phys
    parts := [], strong := false, acq := false, rel := false, scope := .warp, size := 0, opened := [], owes := none
    remote := none, sent := 0 }

/-- Write the record to the warp's frame, as weak stores that follow the path's earlier accesses (R344). -/
def State.writeRecord (s : State) (c : Cur) (w : Warp) (f : FaultInfo) : Got Unit :=
  match s.settleFor ((w.path c.p).nextStore c.w w.seq) with
  | none => .wait s
  | some q => q.storeNow (w.who c.w c.p) (q.frameAddr c.w w).toNat (q.record c.w w f (w.path c.p))

/-- Trap entry (R344): the record is written to the frame; PC, length, MODE, mask, loop stack, join point and replay mask
are saved; MODE keeps mixed_size_trap alone; the path goes to the handler. A record write that meets a cause turns the
trap into 0x5D; while the record cannot be written yet, the warp waits with its trap taken. -/
def State.trapEntry (s : State) (c : Cur) (f : FaultInfo) (handler : Nat) : State :=
  match s.warp? c.w with
  | none => s
  | some w =>
    match s.writeRecord c w f with
    | .ok _ s1 => s1.updWarp c.w (fun w => w.enterTrap c f (s1.entryPc w handler))
    | .cause _ _ s1 => s1.stopWarp c.w c { f with code := 0x5D, sub := f.code, flags := f.flags ||| 4 } f.lanes
    | .wait s1 => s1.updWarp c.w (fun w => { w with held := some { why := .entering f, cur := c, i := none } })

/-- A stop by route S (R354): as `stopWarp`, but a warp with a handler whose entry the log does not take goes there with 0x3F
(R353). -/
def State.stopOrHandle (s : State) (c : Cur) (f : FaultInfo) (replay : Mask) : State :=
  match s.warp? c.w with
  | none => s
  | some w =>
    let handler := s.headerField w Launch.trap
    let t := s.issueTicket (coreOfKey c.w) (slotOfKey c.w) 0 (.warp c.w)
    let g := { f with ticket := t.1 }
    let r := t.2.logEntry (faultEntry (t.2.recordHeader c.w w g) g.lowestVa) (handler != 0)
    if r.1 then (r.2.dropTicket t.1).trapEntry c { f with code := 0x3F, sub := f.code, flags := f.flags &&& 16 } handler
    else r.2.stopAs c.w c g replay

/-- The counted instruction of a replay is no longer open (R144, R218). -/
def State.closeReplay (s : State) (c : Cur) : State :=
  match (s.warp? c.w).bind (fun w => (w.path c.p).replayOp) with
  | some o => ({ s with outs := Assoc.upd s.outs o (fun x => { x with more := false }) }).updPath c.w c.p
      (fun q => { q with replayOp := none })
  | none => s

/-- A route-H cause (R344, R354, R367): in save and restore mode the warp stops with 0x5C, in trap mode with 0x5D, without
a handler under route S; otherwise the trap is entered. -/
def State.routeH (s : State) (c : Cur) (f : FaultInfo) : State :=
  match s.warp? c.w with
  | none => s
  | some w =>
    let s := s.closeReplay c
    let handler := s.headerField w Launch.trap
    if w.pre = .normal then
      if w.trap.isSome then s.stopOrHandle c { f with code := 0x5D, sub := f.code, flags := f.flags ||| 4 } f.lanes
      else if handler = 0 then s.stopWarp c.w c { f with flags := f.flags ||| 1 } f.lanes
      else s.trapEntry c f handler
    else s.stopWarp c.w c { f with code := 0x5C, sub := f.code } f.lanes

/-- Park the path at its instruction for the unfinished lanes (R218, route P of R343). With the log full, or failing, the
warp enters its handler with 0x3F; without a handler it waits parked and the entry is held (R353). -/
def State.park (s : State) (c : Cur) (x : Cause) (op : Option Nat) : State :=
  match s.warp? c.w with
  | none => s
  | some w =>
    let t := s.issueTicket (coreOfKey c.w) (slotOfKey c.w) 0 (.path c.w c.p)
    let f := { (s.infoOf c x) with ticket := t.1 }
    let r := t.2.logEntry (faultEntry (t.2.recordHeader c.w w f) f.lowestVa) (s.headerField w Launch.trap != 0)
    if r.1 then
      let q := r.2.dropTicket t.1
      let q1 := match op with
        | some o => { q with outs := Assoc.upd q.outs o (fun y => { y with more := false }) }
        | none => q
      q1.routeH c { f with code := 0x3F, sub := x.code, ticket := 0 }
    else r.2.updPath c.w c.p (fun q => { q with hold := .parked t.1 f.cause c.pc c.len, replayOp := op })

/-- A cause of the instruction in issue takes its route (R343, R356): 0x30 and 0x31 park, a watchpoint stops the path (R375),
every other code of an instruction enters the trap. `op` is the counted instruction whose other lanes go on. -/
def State.raise (s : State) (c : Cur) (x : Cause) (op : Option Nat) : State :=
  if x.code = 0x30 ∨ x.code = 0x31 then s.park c x op
  else if x.code = 0x52 then
    (s.updPath c.w c.p (fun q => { q with replayOp := op })).debugStop c.w c (s.infoOf c x)
  else
    let s1 :=
      match op with
      | some o => { s with outs := Assoc.upd s.outs o (fun y => { y with more := false }) }
      | none => s
    s1.routeH c (s1.infoOf c x)

/-- Codes that park (R218). -/
def parks (code : Nat) : Bool := code == 0x30 || code == 0x31

/-- The lanes of a cause that concerns the instruction as a whole: the issuing path's (R70, R349), also where a replay meets it;
a path that parks keeps its unfinished lanes (R218) (DEDUCED, log entry 66). -/
def State.wholeLanes (s : State) (c : Cur) (code : Nat) : Mask :=
  if parks code then c.lanes else ((s.warp? c.w).map (fun w => (w.path c.p).issueMask)).getD c.lanes

/-- A cause of the instruction as a whole: its faulting lanes are the path's (R70). -/
def State.raiseWhole (s : State) (c : Cur) (code sub : Nat) : State :=
  s.raise c { code := code, sub := sub, lanes := s.wholeLanes c code, addrs := [], other := false } none

/-- A whole-instruction cause with the address it met, the same for every lane (R345). -/
def State.raiseAt (s : State) (c : Cur) (code sub : Nat) (va : Nat) : State :=
  s.raise c { code := code, sub := sub, lanes := s.wholeLanes c code,
              addrs := (s.wholeLanes c code).lanes.map (fun i => (i, BitVec.ofNat 64 va)), other := false } none

/-- The first of the lanes' causes: lowest row, then lowest lane (R356). -/
def firstCause (xs : List LaneCause) : Option LaneCause :=
  xs.foldl (fun (b : Option LaneCause) x =>
    match b with
    | none => some x
    | some y => if x.row < y.row ∨ (x.row = y.row ∧ x.lane < y.lane) then some x else some y) none

/-- The one cause of several lanes' (R356): a route-H cause goes before 0x30 and 0x31. -/
def joinCauses (xs : List LaneCause) : Option Cause :=
  let hs := xs.filter (fun x => !parks x.code)
  match firstCause (if hs = [] then xs else hs) with
  | none => none
  | some f =>
    some { code := f.code, sub := f.sub, lanes := xs.foldl (fun (m : Mask) x => m ||| Mask.bit x.lane) 0,
           addrs := xs.map (fun x => (x.lane, x.addr)), other := xs.any (fun x => x.code != f.code) }

/-! ## Retiring -/

/-- The single-step stop after an instruction that path `p` retired (R376): the record names the next PC, at which no instruction
is in issue. -/
def State.stepStop (s : State) (c : Cur) : State :=
  match s.warp? c.w with
  | none => s
  | some w =>
    let d := (s.ctxOf w.asid).debug
    let q := w.path c.p
    if d.getLsbD 0 ∧ d.getLsbD 2 ∧ (d.extractLsb' 3 3).toNat = c.p ∧ (d.extractLsb' 6 6).toNat = slotOfKey c.w ∧
        (d.extractLsb' 12 8).toNat = coreOfKey c.w ∧ q.status = .run ∧ q.mask ≠ 0 then
      let c1 := { c with pc := q.pc, len := 0, sync := 0 }
      s.debugStop c.w c1 (s.infoOf c1 { code := 0x53, sub := 0, lanes := q.mask, addrs := [], other := false })
    else s

/-- What every retirement does besides moving the path (R357, R365, R378): the retired-instruction count, the watchdog's return to 0 at
the instructions `resets`, and the end of a replay. -/
def State.endInstr (s : State) (c : Cur) (resets : Bool) : State :=
  s.updWarp c.w (fun w =>
    let w1 := w.updPath c.p (fun q => { q with replay := none, replayOp := none, passBreak := false, passWatch := false })
    { w1 with retired := if w.counting then w.retired + 1 else w.retired, watch := if resets then 0 else w.watch,
              lastSafe := none, age := 0 })

/-- A retirement with its single-step stop (R376). -/
def State.finish (s : State) (c : Cur) (resets : Bool) : State := (s.endInstr c resets).stepStop c

/-- The instruction retires and the path goes on after it, with the end check and the arrival check (R13, R133, R172). -/
def State.retire (s : State) (c : Cur) : State :=
  (s.updWarp c.w (fun w => w.advance c.p c.pc c.next)).finish c false

/-- The entry of the replay stream that synchronising operation `k` uses (R378): its address, none beyond the stream. Denied
lines read as zeros (R221). -/
def State.replayEntry (s : State) (key : Nat) (w : Warp) (p k header : Nat) : Got (Option Nat) :=
  match s.loadNow (w.who key p) header 12 with
  | .ok r q =>
    let base := fieldOf r.1 0 8
    let e := fieldOf r.1 8 4
    let stream := 64 * ((q.team? w.team).map Team.index).getD 0 + 32 * w.wg + w.warpId
    .ok (if k < e then some ((base + 8 * (stream * e + k)) % 2 ^ 64) else none)
      (q.permEvents (w.who key p) false r.2 0 (w.path p).mask)
  | .cause c b q => .cause c b q
  | .wait q => .wait q

/-- Record or check the retired-instruction count `n` of a warp at synchronising operation `k` (R378; DEDUCED, log entry 22):
none where it agrees, else the subcause of 0x54. -/
def State.replayCheck (s : State) (key : Nat) (w : Warp) (p : Nat) (n : DWord) (k : Nat) : Got (Option Nat) :=
  let reg := (s.ctxOf w.asid).replay
  let mode := (reg.extractLsb' 0 2).toNat
  if mode = 0 ∨ mode = 3 then .ok none s
  else match s.replayEntry key w p k (reg.toNat / 256 * 256) with
    | .cause _ _ q => .ok (some 0xFFFFFFFF) q
    | .wait q => .wait q
    | .ok none q => .ok none q
    | .ok (some va) q =>
      if mode = 1 then
        match q.storeNow (w.who key p) va (bytesOfNat 8 n.toNat) with
        | .ok _ q2 => .ok none q2
        | .cause _ _ q2 => .ok (some 0xFFFFFFFF) q2
        | .wait q2 => .wait q2
      else
        match q.loadNow (w.who key p) va 8 with
        | .ok r q2 =>
          .ok (if natOfBytes r.1 = n.toNat then none else some k) (q2.permEvents (w.who key p) false r.2 0 (w.path p).mask)
        | .cause _ _ q2 => .ok (some 0xFFFFFFFF) q2
        | .wait q2 => .wait q2

/-- Use the entry of a synchronising operation that has retired; the warp waits while the entry cannot be reached. -/
def State.useEntry (s : State) (c : Cur) (n : DWord) (k : Nat) : State :=
  match s.warp? c.w with
  | none => s
  | some w =>
    match s.replayCheck c.w w c.p n k with
    | .ok none q => q
    | .ok (some sub) q =>
      q.stopWarp c.w c (q.infoOf c { code := 0x54, sub := sub, lanes := c.lanes, addrs := [], other := false }) 0
    | .cause _ _ q => q
    | .wait q => q.updWarp c.w (fun w => { w with held := some { why := .checking n k, cur := c, i := none } })

/-- A synchronising operation of the warp `w` has retired: it is counted, and records or checks the retired-instruction count
(R378). -/
def State.countSync (s : State) (c : Cur) (w : Warp) : State :=
  if w.counting then (s.updWarp c.w (fun x => { x with syncs := x.syncs + 1 })).useEntry c w.retired w.syncs else s

/-- The single-step stop after a synchronising operation: while its count is still to be checked, or the check has stopped the warp,
the stop waits for that (R376, R378). -/
def State.stepAfter (s : State) (c : Cur) : State :=
  if (s.warp? c.w).any (fun w => w.held.isSome) then s else s.stepStop c

/-- As `retire`, for the synchronising operations, which return the watchdog count to 0 (R357) and record or check the
retired-instruction count (R378). -/
def State.retireSync (s : State) (c : Cur) : State :=
  match s.warp? c.w with
  | none => s
  | some w => (((s.updWarp c.w (fun w => w.advance c.p c.pc c.next)).endInstr c true).countSync c w).stepAfter c

/-- A transfer whose lanes reach these targets retires (R122, R169, R170). -/
def State.retireTransfer (s : State) (c : Cur) (k : Xfer) (gs : List Branch) : State :=
  (s.updWarp c.w (fun w => w.transfer c.p k c.pc c.next gs)).finish c false

/-- Update the warp in issue, then retire. -/
def State.retireWith (s : State) (c : Cur) (f : Warp → Warp) : State := (s.updWarp c.w f).retire c

/-! ## Returning from an exception (R349) -/

/-- How ERET continues. -/
inductive EretForm where
  | retry
  | skip
  | to (target : DWord)
  deriving DecidableEq, Repr

/-- The held lanes of a waiting path go on at a target instead of re-executing their transfer: as one group of R170. -/
def Warp.releaseHeld (w : Warp) (p : Nat) (k : Xfer) (x target : DWord) : Warp :=
  let q := w.path p
  (w.updPath p (fun q => { q with held := 0 })).split p q.hstack k x (x + 4) [{ target := target, lanes := q.held }]

/-- The order of what follows the handler: its last path `p`, and after the accesses of its other paths, which have ended (R241). -/
def Warp.handlerOrder (w : Warp) (t : TrapSave) (p : Nat) : Path :=
  (numsFrom 0 8).foldl (fun (h : Path) i =>
    if i == p || t.suspended.contains i then h else h.joinAfter ((w.path i).segs ++ (w.path i).after)) (w.path p)

/-- The table without the handler's paths, and the trap's path as it stood, for the lanes still live; `p` is the handler's
last path. -/
def Warp.dropHandler (w : Warp) (t : TrapSave) (p : Nat) : Warp :=
  let h := w.handlerOrder t p
  let w0 := (numsFrom 0 8).foldl (fun (w : Warp) i =>
    if t.suspended.contains i then w else w.updPath i (fun _ => Path.empty)) w
  { (w0.updPath t.path (fun _ =>
      { t.old with mask := t.old.mask &&& w.live, held := t.old.held &&& w.live, arrived := t.old.arrived &&& w.live
                   hold := .none, segs := h.segs, after := h.after, replay := none, replayOp := none, passBreak := false, passWatch := false })) with
    mode := t.mode, trap := none }

/-- Leave trap mode: the handler's own paths end, MODE, loop stack, join point and mask come back, the suspended paths
resume (R349); a target at the path's own join point arrives there (R172). -/
def Warp.leaveTrap (w : Warp) (t : TrapSave) (p : Nat) (form : EretForm) : Warp :=
  let w1 := w.dropHandler t p
  let next := t.pc + BitVec.ofNat 64 (4 * t.len)
  if t.old.status = .wait then
    match form with
    | .retry => w1
    | .skip => w1.releaseHeld t.path .cond t.pc next
    | .to a => w1.releaseHeld t.path .call t.pc a
  else
    match form with
    | .retry => w1.updPath t.path (fun q => { q with pc := t.pc, replay := some (t.replay &&& w.live) })
    | .skip => w1.advance t.path t.pc next
    | .to a => (w1.updPath t.path (fun q => { q with pc := a })).settle t.path

/-- ERET issued by the path in `c` (R349); one that is not issued by the handler's remaining lanes raises 0x5D, as does a
target with a bit of [63:56] set (DEDUCED, log entry 23). A skipped instruction retires: as any other, or as a synchronising
one. -/
def State.trapReturn (s : State) (c : Cur) (form : EretForm) : State :=
  match s.warp? c.w with
  | none => s
  | some w =>
    match w.trap with
    | none => s
    | some t =>
      let bad := { (s.infoOf c { code := 0x5D, sub := 0, lanes := c.lanes, addrs := [], other := false }) with flags := 4 }
      let far := match form with
        | .to a => decide (2 ^ 56 ≤ a.toNat)
        | _ => false
      if (w.path c.p).mask ≠ t.begun &&& w.live ∨ far = true then s.stopOrHandle c bad c.lanes
      else
        let s1 := s.updWarp c.w (fun w => w.leaveTrap t c.p form)
        let c1 := { c with p := t.path, sync := 0 }
        match form with
        | .skip =>
          let w1 := { w with trap := none }
          let s2 := (s1.updWarp c.w (fun w => { w with
            retired := if w1.counting && t.len != 0 then w.retired + 1 else w.retired
            watch := if t.sync != 0 then 0 else w.watch, lastSafe := none }))
          (if t.sync = 2 then s2.countSync c1 w1 else s2).stepAfter c1
        | _ => s1.stepStop c1

/-! ## Ending lanes (R130, R152, R349) -/

/-- Trap mode ends without a return, once none of the handler's lanes is left (R349): the trap's path follows R172 as one
whose lanes have all exited. -/
def Warp.endTrap (w : Warp) (t : TrapSave) (p : Nat) : Warp :=
  let w1 := w.dropHandler t p
  if t.old.status = .wait then w1.merge t.path 9 else w1.leave t.path

/-- The lanes of the issuing path become absent. In trap mode, once none of the handler's lanes is left, trap mode ends and
the suspended paths resume (R349). -/
def State.endLanes (s : State) (c : Cur) : State :=
  s.updWarp c.w (fun w =>
    let lanes := (w.path c.p).mask
    match w.trap with
    | none => w.loseLanes c.p lanes
    | some t =>
      if t.begun &&& (w.live &&& ~~~lanes) = 0 then { w with live := w.live &&& ~~~lanes }.endTrap t c.p
      else w.loseLanes c.p lanes)

end Sys2Proof.Machine
end

