-- ==== Sys2Proof/Machine/Operands.lean ====
section
/-!
DEFINITION. Every operand form (R54, R55, R87): the table of the operands of each instruction, the checks 8 to 11 of R70 on
it, the scoreboard (R166), the guard (R24), and the wrapper in which every instruction's meaning runs.
-/
namespace Sys2Proof.Machine

/-- One register field of an instruction: its code, the word it stands in (0 the instruction word, 1 the second word; `pre`
marks e of the prefix), its lowest bit, the classes its description accepts, the registers it names, whether it is a
destination, whether a destination is read as well. -/
structure Opnd where
  code : Code
  word : Nat
  pre : Bool
  lo : Nat
  accept : List RegClass
  width : Nat
  dest : Bool
  both : Bool := false
  deriving DecidableEq, Repr

/-- Any source of a per-lane instruction (R87). -/
def srcAny : List RegClass := [.lane, .uniform, .mask, .const, .zero]
/-- Destination of an integer instruction (R87). -/
def dInt : List RegClass := [.lane, .uniform, .mask, .zero]
/-- Lane or uniform register, or z. -/
def dReg : List RegClass := [.lane, .uniform, .zero]
/-- Lane register or z (R97, R178). -/
def dLane : List RegClass := [.lane, .zero]
/-- Mask register or z (R96, R112). -/
def dMask : List RegClass := [.mask, .zero]
/-- Uniform register or z. -/
def uniPair : List RegClass := [.uniform, .zero]
/-- Uniform register, inline constant or z. -/
def uniOff : List RegClass := [.uniform, .const, .zero]
/-- Uniform register or inline constant. -/
def uniConst : List RegClass := [.uniform, .const]
/-- Offset of a scratchpad access (R136). -/
def srcOff : List RegClass := [.lane, .uniform, .const, .zero]

/-- Sources beside destination `d` (R20, R87). -/
def srcFor (d : Code) : List RegClass := if onceDst d then [.uniform, .mask, .const, .zero] else srcAny
/-- Pair or quad sources beside destination `d`. -/
def pairFor (d : Code) : List RegClass := if onceDst d then uniPair else dReg
/-- Scratchpad offsets beside destination `d`. -/
def offFor (d : Code) : List RegClass := if onceDst d then uniOff else srcOff

/-- A destination in d. -/
def od (c : Code) (acc : List RegClass) (n : Nat) : Opnd :=
  { code := c, word := 0, pre := false, lo := 16, accept := acc, width := n, dest := true }
/-- A source in d. -/
def os (c : Code) (acc : List RegClass) (n : Nat) : Opnd := { od c acc n with dest := false }
/-- d as source and destination (R102). -/
def odr (c : Code) (acc : List RegClass) (n : Nat) : Opnd := { od c acc n with both := true }
/-- A source in a. -/
def oa (c : Code) (acc : List RegClass) (n : Nat) : Opnd := { od c acc n with lo := 8, dest := false }
/-- A source in b. -/
def ob (c : Code) (acc : List RegClass) (n : Nat) : Opnd := { od c acc n with lo := 0, dest := false }
/-- A source in the second word. -/
def o2 (c : Code) (lo : Nat) (acc : List RegClass) (n : Nat) : Opnd :=
  { od c acc n with word := 1, lo := lo, dest := false }
/-- A destination in the second word. -/
def o2d (c : Code) (lo : Nat) (acc : List RegClass) (n : Nat) : Opnd := { o2 c lo acc n with dest := true }
/-- The fourth operand (R62): under a prefix e plays the source role of d. -/
def oe (pf : Option Prefix) (d : Code) (acc : List RegClass) (n : Nat) : List Opnd :=
  match pf with
  | none => [{ od d acc n with dest := false }]
  | some p => [{ od p.e acc n with pre := true, lo := 8, dest := false }]
/-- Registers of an atomic's operand (R259). -/
def wide (width : BitVec 2) : Nat := if width = 0 then 1 else 2
/-- The compare register of cas (R259). -/
def casOperand (aop : BitVec 4) (c : Code) (acc : List RegClass) (n : Nat) : List Opnd :=
  if aop = 9 then [o2 c 15 acc n] else []
/-- The 64-bit selectors of THSET and THGET (R284). -/
def selWide (sel : BitVec 8) : Bool := sel == 0x06 || sel == 0x07
/-- The 64-bit selectors of MTSR (R351, R364). -/
def mtsrWide (sel : BitVec 8) : Bool :=
  sel == 0x20 || sel == 0x21 || sel == 0x24 || (decide (0x28 ≤ sel.toNat) && decide (sel.toNat ≤ 0x2E)) || sel == 0x30
/-- The destination of MOVSR (R98): a pair for `clock`; no uniform or mask register for what differs between lanes. -/
def movsrDst (d : Code) (s : BitVec 8) : Opnd :=
  if s = 0x0C then od d dReg 2 else if s = 0x00 ∨ s = 0x0D then od d dLane 1 else od d dInt 1

/-- The register operands of an instruction in the order of R70: d, a, b, e, then the second word (DEDUCED, log entry 19). -/
def operandsOf (i : Instr) : List Opnd :=
  match i with
  | .add _ d a b => [od d dInt 1, oa a (srcFor d) 1, ob b (srcFor d) 1]
  | .sub _ d a b => [od d dInt 1, oa a (srcFor d) 1, ob b (srcFor d) 1]
  | .adds _ d a b => [od d dInt 1, oa a (srcFor d) 1, ob b (srcFor d) 1]
  | .subs _ d a b => [od d dInt 1, oa a (srcFor d) 1, ob b (srcFor d) 1]
  | .mullo _ d a b => [od d dInt 1, oa a (srcFor d) 1, ob b (srcFor d) 1]
  | .mulhiS _ d a b => [od d dInt 1, oa a (srcFor d) 1, ob b (srcFor d) 1]
  | .mulhiU _ d a b => [od d dInt 1, oa a (srcFor d) 1, ob b (srcFor d) 1]
  | .mad pf d a b => [od d dInt 1, oa a (srcFor d) 1, ob b (srcFor d) 1] ++ oe pf d (srcFor d) 1
  | .madwU pf d a b => [od d dReg 2, oa a (srcFor d) 1, ob b (srcFor d) 1] ++ oe pf d (pairFor d) 2
  | .madwS pf d a b => [od d dReg 2, oa a (srcFor d) 1, ob b (srcFor d) 1] ++ oe pf d (pairFor d) 2
  | .divS _ d a b => [od d dInt 1, oa a (srcFor d) 1, ob b (srcFor d) 1]
  | .divU _ d a b => [od d dInt 1, oa a (srcFor d) 1, ob b (srcFor d) 1]
  | .remS _ d a b => [od d dInt 1, oa a (srcFor d) 1, ob b (srcFor d) 1]
  | .remU _ d a b => [od d dInt 1, oa a (srcFor d) 1, ob b (srcFor d) 1]
  | .minS _ d a b => [od d dInt 1, oa a (srcFor d) 1, ob b (srcFor d) 1]
  | .minU _ d a b => [od d dInt 1, oa a (srcFor d) 1, ob b (srcFor d) 1]
  | .maxS _ d a b => [od d dInt 1, oa a (srcFor d) 1, ob b (srcFor d) 1]
  | .maxU _ d a b => [od d dInt 1, oa a (srcFor d) 1, ob b (srcFor d) 1]
  | .abs _ d a => [od d dInt 1, oa a (srcFor d) 1]
  | .neg _ d a => [od d dInt 1, oa a (srcFor d) 1]
  | .and _ d a b => [od d dInt 1, oa a (srcFor d) 1, ob b (srcFor d) 1]
  | .or _ d a b => [od d dInt 1, oa a (srcFor d) 1, ob b (srcFor d) 1]
  | .xor _ d a b => [od d dInt 1, oa a (srcFor d) 1, ob b (srcFor d) 1]
  | .andn _ d a b => [od d dInt 1, oa a (srcFor d) 1, ob b (srcFor d) 1]
  | .shl _ d a b => [od d dInt 1, oa a (srcFor d) 1, ob b (srcFor d) 1]
  | .shr _ d a b => [od d dInt 1, oa a (srcFor d) 1, ob b (srcFor d) 1]
  | .sar _ d a b => [od d dInt 1, oa a (srcFor d) 1, ob b (srcFor d) 1]
  | .rol _ d a b => [od d dInt 1, oa a (srcFor d) 1, ob b (srcFor d) 1]
  | .fshl _ d a b => [od d dInt 1, oa a (pairFor d) 2, ob b (srcFor d) 1]
  | .bfxU _ d a b => [od d dInt 1, oa a (srcFor d) 1, ob b (srcFor d) 1]
  | .bfxS _ d a b => [od d dInt 1, oa a (srcFor d) 1, ob b (srcFor d) 1]
  | .bfi _ d a b => [od d dInt 1, oa a (pairFor d) 2, ob b (srcFor d) 1]
  | .clz _ d a => [od d dInt 1, oa a (srcFor d) 1]
  | .ctz _ d a => [od d dInt 1, oa a (srcFor d) 1]
  | .popc _ d a => [od d dInt 1, oa a (srcFor d) 1]
  | .brev _ d a => [od d dInt 1, oa a (srcFor d) 1]
  | .permb _ d a b => [od d dInt 1, oa a (srcFor d) 1, ob b (srcFor d) 1]
  | .cmpEq _ d a b => [od d dMask 1, oa a srcAny 1, ob b srcAny 1]
  | .cmpNe _ d a b => [od d dMask 1, oa a srcAny 1, ob b srcAny 1]
  | .cmpLtS _ d a b => [od d dMask 1, oa a srcAny 1, ob b srcAny 1]
  | .cmpLeS _ d a b => [od d dMask 1, oa a srcAny 1, ob b srcAny 1]
  | .cmpLtU _ d a b => [od d dMask 1, oa a srcAny 1, ob b srcAny 1]
  | .cmpLeU _ d a b => [od d dMask 1, oa a srcAny 1, ob b srcAny 1]
  | .sel _ d a b => [od d dLane 1, oa a srcAny 1, ob b srcAny 1]
  | .mov _ d a => [od d dInt 1, oa a (srcFor d) 1]
  | .movsr _ d s => [movsrDst d s]
  | .setmode _ => []
  | .lea1 _ d a b => [od d dReg 2, oa a (pairFor d) 2, ob b (srcFor d) 1]
  | .lea4 _ d a b => [od d dReg 2, oa a (pairFor d) 2, ob b (srcFor d) 1]
  | .lea8 _ d a b => [od d dReg 2, oa a (pairFor d) 2, ob b (srcFor d) 1]
  | .lea16 _ d a b => [od d dReg 2, oa a (pairFor d) 2, ob b (srcFor d) 1]
  | .add64 _ d a b => [od d dReg 2, oa a (pairFor d) 2, ob b (pairFor d) 2]
  | .sub64 _ d a b => [od d dReg 2, oa a (pairFor d) 2, ob b (pairFor d) 2]
  | .cvti _ d a b => [od d dInt 1, oa a (srcFor d) 1, ob b (srcFor d) 1]
  | .addi16 _ d _ => [odr d dInt 1]
  | .andi16 _ d _ => [odr d dInt 1]
  | .ori16 _ d _ => [odr d dInt 1]
  | .xori16 _ d _ => [odr d dInt 1]
  | .shli _ d _ => [odr d dInt 1]
  | .shri _ d _ => [odr d dInt 1]
  | .sari _ d _ => [odr d dInt 1]
  | .movhi16 _ d _ => [odr d dInt 1]
  | .ldc _ d a _ => [od d dInt 1, oa a (pairFor d) 1]
  | .fadd _ d a b => [od d dReg 1, oa a (srcFor d) 1, ob b (srcFor d) 1]
  | .fsub _ d a b => [od d dReg 1, oa a (srcFor d) 1, ob b (srcFor d) 1]
  | .fmul _ d a b => [od d dReg 1, oa a (srcFor d) 1, ob b (srcFor d) 1]
  | .ffma pf d a b => [od d dReg 1, oa a (srcFor d) 1, ob b (srcFor d) 1] ++ oe pf d (srcFor d) 1
  | .ffmc pf d a _ => [od d dReg 1, oa a (srcFor d) 1] ++ oe pf d (srcFor d) 1
  | .fmin _ d a b => [od d dReg 1, oa a (srcFor d) 1, ob b (srcFor d) 1]
  | .fmax _ d a b => [od d dReg 1, oa a (srcFor d) 1, ob b (srcFor d) 1]
  | .fabs _ d a => [od d dReg 1, oa a (srcFor d) 1]
  | .fneg _ d a => [od d dReg 1, oa a (srcFor d) 1]
  | .fcmpEq _ d a b => [od d dMask 1, oa a srcAny 1, ob b srcAny 1]
  | .fcmpLt _ d a b => [od d dMask 1, oa a srcAny 1, ob b srcAny 1]
  | .fcmpLe _ d a b => [od d dMask 1, oa a srcAny 1, ob b srcAny 1]
  | .fcmpUn _ d a b => [od d dMask 1, oa a srcAny 1, ob b srcAny 1]
  | .fclass _ d a => [od d dReg 1, oa a (srcFor d) 1]
  | .fdiv _ d a b => [od d dReg 1, oa a (srcFor d) 1, ob b (srcFor d) 1]
  | .fsqrt _ d a => [od d dReg 1, oa a (srcFor d) 1]
  | .frcp _ d a => [od d dReg 1, oa a (srcFor d) 1]
  | .frsq _ d a => [od d dReg 1, oa a (srcFor d) 1]
  | .fexp2 _ d a => [od d dReg 1, oa a (srcFor d) 1]
  | .flog2 _ d a => [od d dReg 1, oa a (srcFor d) 1]
  | .fsin _ d a => [od d dReg 1, oa a (srcFor d) 1]
  | .fcos _ d a => [od d dReg 1, oa a (srcFor d) 1]
  | .fround _ d a => [od d dReg 1, oa a (srcFor d) 1]
  | .fscale _ d a b => [od d dReg 1, oa a (srcFor d) 1, ob b (srcFor d) 1]
  | .fcvtF2i _ d a b => [od d dReg 1, oa a (srcFor d) 1, ob b (srcFor d) 1]
  | .fcvtI2f _ d a b => [od d dReg 1, oa a (srcFor d) 1, ob b (srcFor d) 1]
  | .fcvtF2f _ d a b => [od d dReg 1, oa a (srcFor d) 1, ob b (srcFor d) 1]
  | .hadd2 _ d a b => [od d dReg 1, oa a (srcFor d) 1, ob b (srcFor d) 1]
  | .hmul2 _ d a b => [od d dReg 1, oa a (srcFor d) 1, ob b (srcFor d) 1]
  | .hfma2 pf d a b => [od d dReg 1, oa a (srcFor d) 1, ob b (srcFor d) 1] ++ oe pf d (srcFor d) 1
  | .hdot2 pf d a b => [od d dReg 1, oa a (srcFor d) 1, ob b (srcFor d) 1] ++ oe pf d (srcFor d) 1
  | .brt _ _ => []
  | .brf _ _ => []
  | .bra _ => []
  | .brx _ a b => [oa a srcAny 1, ob b uniPair 2]
  | .call d _ => [od d dReg 2]
  | .callx d a => [od d dReg 2, oa a (pairFor d) 2]
  | .ret a => [oa a dReg 2]
  | .jpt _ => []
  | .join => []
  | .loop d _ => [os d [.uniform, .mask, .const, .zero] 1]
  | .loopi _ _ => []
  | .exit => []
  | .wait _ _ _ _ => []
  | .yield => []
  | .safe _ => []
  | .nop => []
  | .ld8u _ d a _ _ => [od d dReg 1, oa a (pairFor d) 2]
  | .ld8s _ d a _ _ => [od d dReg 1, oa a (pairFor d) 2]
  | .ld16u _ d a _ _ => [od d dReg 1, oa a (pairFor d) 2]
  | .ld16s _ d a _ _ => [od d dReg 1, oa a (pairFor d) 2]
  | .ld32 _ d a _ _ => [od d dReg 1, oa a (pairFor d) 2]
  | .ld64 _ d a _ _ => [od d dReg 2, oa a (pairFor d) 2]
  | .ld128 _ d a _ _ => [od d dReg 4, oa a (pairFor d) 2]
  | .st8 _ d a _ _ => [os d srcAny 1, oa a dReg 2]
  | .st16 _ d a _ _ => [os d srcAny 1, oa a dReg 2]
  | .st32 _ d a _ _ => [os d srcAny 1, oa a dReg 2]
  | .st64 _ d a _ _ => [os d dReg 2, oa a dReg 2]
  | .st128 _ d a _ _ => [os d dReg 4, oa a dReg 2]
  | .lds32 _ d a _ _ => [od d dReg 1, oa a (offFor d) 1]
  | .sts32 _ d a _ _ => [os d srcAny 1, oa a srcOff 1]
  | .lds128 _ d a _ _ => [od d dReg 4, oa a (offFor d) 1]
  | .sts128 _ d a _ _ => [os d dReg 4, oa a srcOff 1]
  | .ballot _ d a => [od d dLane 1, oa a srcAny 1]
  | .shflIdx _ d a b => [od d dLane 1, oa a srcAny 1, ob b srcAny 1]
  | .shflUp _ d a b => [od d dLane 1, oa a srcAny 1, ob b srcAny 1]
  | .shflDown _ d a b => [od d dLane 1, oa a srcAny 1, ob b srcAny 1]
  | .shflXor _ d a b => [od d dLane 1, oa a srcAny 1, ob b srcAny 1]
  | .redux _ d a _ => [od d dLane 1, oa a srcAny 1]
  | .scan _ d a _ => [od d dLane 1, oa a srcAny 1]
  | .qappend _ d a => [od d dLane 1, oa a uniOff 1]
  | .xchgp _ d a => [od d dLane 1, oa a srcAny 1]
  | .expand d a _ _ => [od d uniPair 1, oa a dReg 2]
  | .exnext d a b => [od d dLane 1, { oa a dLane 1 with dest := true }, { ob b dMask 1 with dest := true }]
  | .exred a => [oa a srcAny 1]
  | .exfin d => [od d dLane 1]
  | .exsave a => [oa a [.uniform] 2]
  | .exload a => [oa a [.uniform] 2]
  | .matchLanes _ d a => [od d dLane 1, oa a srcAny 1]
  | .atom _ d a b aop width _ c => [od d dReg (wide width), oa a (pairFor d) 2, ob b (if width = 0 then srcFor d else pairFor d) (wide width)] ++ casOperand aop c (if width = 0 then srcFor d else pairFor d) (wide width)
  | .atoms _ d a b aop width _ c => [od d dReg (wide width), oa a (offFor d) 1, ob b (if width = 0 then srcFor d else pairFor d) (wide width)] ++ casOperand aop c (if width = 0 then srcFor d else pairFor d) (wide width)
  | .fence _ _ => []
  | .arrive d a b => [od d uniPair 1, oa a uniOff 1, ob b uniOff 1]
  | .waitbPh a b => [oa a uniOff 1, ob b uniOff 1]
  | .waitbCnt a b => [oa a uniOff 1, ob b uniOff 1]
  | .barWg => []
  | .barTeam => []
  | .mwaitNe a b => [oa a uniPair 2, ob b uniOff 1]
  | .mwaitGeu a b => [oa a uniPair 2, ob b uniOff 1]
  | .pref a => [oa a dReg 2]
  | .prefL1 a => [oa a dReg 2]
  | .cflushWb a => [oa a dReg 2]
  | .cflushInv a => [oa a dReg 2]
  | .htclaim d a b => [od d uniPair 1, oa a uniPair 2, ob b uniConst 1]
  | .htrel a => [oa a uniOff 1]
  | .hins _ d a b => [od d dReg 1, oa a (pairFor d) 4, ob b uniOff 1]
  | .hprobe _ d a b => [od d dReg 4, oa a (pairFor d) 2, ob b uniOff 1]
  | .hdel _ d a b => [od d dReg 1, oa a (pairFor d) 2, ob b uniOff 1]
  | .hacc _ d a b _ _ => [od d dReg 1, oa a (pairFor d) 4, ob b uniOff 1]
  | .hdrain d a b => [od d uniPair 1, oa a uniPair 2, ob b uniOff 1]
  | .thld d a _ => [od d [.handle] 1, oa a uniPair 2]
  | .thset d a sel => [od d [.handle] 1, oa a (if selWide sel then uniPair else uniConst) (if selWide sel then 2 else 1)]
  | .thget d a sel => [od d uniPair (if selWide sel then 2 else 1), oa a [.handle] 1]
  | .copy d a b q tok bar _ _ => [od d [.handle] 1, oa a [.handle] 1, ob b uniPair 4, o2 q 24 uniPair 4, o2 tok 16 [.token, .zero] 1, o2 bar 8 uniOff 1]
  | .gather d a b q tok bar _ list _ => [od d [.handle] 1, oa a [.handle] 1, ob b (if list = 1 then uniPair else [.lane, .uniform, .const]) (if list = 1 then 2 else 1), o2 q 24 uniPair 4, o2 tok 16 [.token, .zero] 1, o2 bar 8 uniOff 1]
  | .scatter d a b q tok bar _ list _ _ => [od d [.handle] 1, oa a [.handle] 1, ob b (if list = 1 then uniPair else [.lane, .uniform, .const]) (if list = 1 then 2 else 1), o2 q 24 uniPair 4, o2 tok 16 [.token, .zero] 1, o2 bar 8 uniOff 1]
  | .tsplit d a b q tok bar _ _ => [od d [.handle] 1, oa a [.handle] 1, ob b uniPair 4, o2 q 24 uniPair 4, o2 tok 16 [.token, .zero] 1, o2 bar 8 uniOff 1]
  | .mma d a b qa qb => [os d uniConst 1, oa a [.handle] 1, ob b [.handle, .zero] 1, o2 qa 24 uniPair 4, o2 qb 16 (if b = 0xFF then [.zero] else uniPair) 4]
  | .mmaloop d a b qa qb inc n => [os d uniConst 1, oa a [.handle] 1, ob b [.handle, .zero] 1, o2 qa 24 uniPair 4, o2 qb 16 (if b = 0xFF then [.zero] else uniPair) 4, o2 inc 8 uniPair 4, o2 n 0 uniConst 1]
  | .mbatch d bar => [od d [.token, .zero] 1, o2 bar 8 uniOff 1]
  | .waitt a => [oa a [.token] 1]
  | .maccAlloc d => [od d uniPair 1]
  | .maccFree a => [oa a uniConst 1]
  | .mdrain d a b st _ => [od d [.handle, .lane] 1, oa a uniConst 1, ob b (if isLane d then uniConst else uniPair) (if isLane d then 1 else 4), o2d st 8 uniPair 1]
  | .bput a b => [oa a [.handle] 1, ob b uniPair 4]
  | .kstore d a b n tok bar _ val _ => [os d [.uniform] 1, oa a uniOff 1, ob b (if val = 1 then uniOff else [.zero]) 1, o2 n 24 uniConst 1, o2 tok 16 [.token, .zero] 1, o2 bar 8 uniOff 1]
  | .bgather d a tok bar _ _ _ => [os d uniPair 4, oa a uniOff 1, o2 tok 16 [.token, .zero] 1, o2 bar 8 uniOff 1]
  | .addL _ d a _ => [od d dInt 1, oa a (srcFor d) 1]
  | .andL _ d a _ => [od d dInt 1, oa a (srcFor d) 1]
  | .orL _ d a _ => [od d dInt 1, oa a (srcFor d) 1]
  | .xorL _ d a _ => [od d dInt 1, oa a (srcFor d) 1]
  | .movL _ d _ => [od d dInt 1]
  | .mulloL _ d a _ => [od d dInt 1, oa a (srcFor d) 1]
  | .cmpEqL _ d a _ => [od d dMask 1, oa a srcAny 1]
  | .cmpLtSL _ d a _ => [od d dMask 1, oa a srcAny 1]
  | .faddL _ d a _ => [od d dReg 1, oa a (srcFor d) 1]
  | .fmulL _ d a _ => [od d dReg 1, oa a (srcFor d) 1]
  | .ffmaL _ d a b _ => [od d dReg 1, oa a (srcFor d) 1, ob b (srcFor d) 1]
  | .fminL _ d a _ => [od d dReg 1, oa a (srcFor d) 1]
  | .fmaxL _ d a _ => [od d dReg 1, oa a (srcFor d) 1]
  | .fcmpLtL _ d a _ => [od d dMask 1, oa a srcAny 1]
  | .qsig d a b => [od d dReg 1, oa a (offFor d) 1, ob b uniConst 1]
  | .kidx _ a => [oa a uniPair 2]
  | .mload d a b => [os d uniConst 1, oa a [.handle, .lane] 1, ob b (if isLane a then uniConst else uniPair) (if isLane a then 1 else 4)]
  | .trap a => [oa a uniOff 1]
  | .trapFrame d => [od d uniPair 2]
  | .eretRetry => []
  | .eretSkip => []
  | .eretTo a => [oa a uniPair 2]
  | .mtsrFpflags a => [oa a srcAny 1]
  | .mtsrCtxPreempt a b => [oa a uniOff 1, ob b uniConst 1]
  | .mtsrCtxHalt a b => [oa a uniOff 1, ob b uniConst 1]
  | .mtsrCtxLcbins a b => [oa a uniPair 2, ob b uniConst 1]
  | .mtsrFaultlog a b => [oa a uniPair 2, ob b uniConst 1]
  | .mtsr s a b => [oa a (if mtsrWide s then uniPair else uniOff) (if mtsrWide s then 2 else 1), ob b uniConst 1]
  | .resumeReplay d a => [od d uniPair 1, oa a [.uniform] 1]
  | .resumeDeliver d a => [od d uniPair 1, oa a [.uniform] 1]
  | .resumeTerm d a => [od d uniPair 1, oa a uniConst 1]
  | .launch d a => [od d uniPair 1, oa a uniPair 2]
  | .tlbinvPage a b => [oa a uniPair 2, ob b uniConst 1]
  | .tlbinvAsid b => [ob b uniConst 1]
  | .tlbinvAll => []
  | .asinv b => [ob b uniConst 1]
  | .bkpt _ => []
  | .clrset a => [oa a uniPair 2]
  | .perfrd d _ _ => [od d uniPair 2]
  | .movi20 _ d _ => [{ od d dInt 1 with lo := 20 }]
  | .movf20 _ d _ => [{ od d dInt 1 with lo := 20 }]
  | .nonInstruction _ _ _ _ => []
  | .faultLogHeldAppend _ => []
  | .heldTransferReexecution _ _ => []
  | .waitRelease _ => []
  | .barRelease _ => []
  | .waitbRelease _ => []
  | .mwaitRelease _ => []
  | .waittRelease _ => []
  | .xchgpMatch _ => []
  | .asterStepMatch _ => []
  | .launchEnqueue _ => []
  | .dependenceConditionRead _ _ => []
  | .teamAdmission _ => []
  | .l1Reclaim _ => []
  | .warpCompletion _ => []
  | .teamCompletion _ => []
  | .translationRequest _ => []
  | .corePinnedSlotWaitEnd _ => []
  | .sliceMiss _ => []
  | .accessPerform _ => []
  | .loadCompletion _ => []
  | .storeAcknowledge _ => []
  | .engineLineTransfer _ => []
  | .tsplitTileEncode _ => []
  | .copyOperationComplete _ => []
  | .matrixStep _ => []
  | .matrixOperationComplete _ => []
  | .mdrainExecute _ => []
  | .batchComplete _ => []
  | .kstoreToken _ => []
  | .bgatherBucketVisit _ => []
  | .bgatherToken _ => []
  | .remoteRequest _ => []
  | .remoteTimeout _ => []
  | .watchdogExpiry _ => []
  | .handlerLimitExpiry _ => []
  | .preemptionOverdue _ => []
  | .teamReadmission _ => []
  | .startCold _ => []
  | .startWarm _ => []
  | .mboxWrite _ => []
  | .bar0RegisterWrite _ _ => []
  | .bar2WindowAccess _ _ _ => []
  | .powerGood => []
  | .startStage1 => []
  | .startStage2 => []
  | .idleEntry _ => []
  | .clockGateEntry _ => []
  | .retentionEntry _ => []
  | .powerWake _ => []
  | .dieThrottle _ _ => []
  | .criticalTemperature => []
  | .storageSoftError _ _ => []
  | .fabricResponseLost _ _ => []
  | .memorySideStampLost _ => []
  | .routeLinksDown _ _ => []
  | .routeLinksUp _ => []
  | .peerDebugHoldChange _ _ => []

/-- The prefix of an instruction that carries one. -/
def prefixOf (i : Instr) : Option Prefix :=
  match i with
  | .add pf _ _ _ => pf
  | .sub pf _ _ _ => pf
  | .adds pf _ _ _ => pf
  | .subs pf _ _ _ => pf
  | .mullo pf _ _ _ => pf
  | .mulhiS pf _ _ _ => pf
  | .mulhiU pf _ _ _ => pf
  | .mad pf _ _ _ => pf
  | .madwU pf _ _ _ => pf
  | .madwS pf _ _ _ => pf
  | .divS pf _ _ _ => pf
  | .divU pf _ _ _ => pf
  | .remS pf _ _ _ => pf
  | .remU pf _ _ _ => pf
  | .minS pf _ _ _ => pf
  | .minU pf _ _ _ => pf
  | .maxS pf _ _ _ => pf
  | .maxU pf _ _ _ => pf
  | .abs pf _ _ => pf
  | .neg pf _ _ => pf
  | .and pf _ _ _ => pf
  | .or pf _ _ _ => pf
  | .xor pf _ _ _ => pf
  | .andn pf _ _ _ => pf
  | .shl pf _ _ _ => pf
  | .shr pf _ _ _ => pf
  | .sar pf _ _ _ => pf
  | .rol pf _ _ _ => pf
  | .fshl pf _ _ _ => pf
  | .bfxU pf _ _ _ => pf
  | .bfxS pf _ _ _ => pf
  | .bfi pf _ _ _ => pf
  | .clz pf _ _ => pf
  | .ctz pf _ _ => pf
  | .popc pf _ _ => pf
  | .brev pf _ _ => pf
  | .permb pf _ _ _ => pf
  | .cmpEq pf _ _ _ => pf
  | .cmpNe pf _ _ _ => pf
  | .cmpLtS pf _ _ _ => pf
  | .cmpLeS pf _ _ _ => pf
  | .cmpLtU pf _ _ _ => pf
  | .cmpLeU pf _ _ _ => pf
  | .sel pf _ _ _ => pf
  | .mov pf _ _ => pf
  | .movsr pf _ _ => pf
  | .setmode _ => none
  | .lea1 pf _ _ _ => pf
  | .lea4 pf _ _ _ => pf
  | .lea8 pf _ _ _ => pf
  | .lea16 pf _ _ _ => pf
  | .add64 pf _ _ _ => pf
  | .sub64 pf _ _ _ => pf
  | .cvti pf _ _ _ => pf
  | .addi16 pf _ _ => pf
  | .andi16 pf _ _ => pf
  | .ori16 pf _ _ => pf
  | .xori16 pf _ _ => pf
  | .shli pf _ _ => pf
  | .shri pf _ _ => pf
  | .sari pf _ _ => pf
  | .movhi16 pf _ _ => pf
  | .ldc pf _ _ _ => pf
  | .fadd pf _ _ _ => pf
  | .fsub pf _ _ _ => pf
  | .fmul pf _ _ _ => pf
  | .ffma pf _ _ _ => pf
  | .ffmc pf _ _ _ => pf
  | .fmin pf _ _ _ => pf
  | .fmax pf _ _ _ => pf
  | .fabs pf _ _ => pf
  | .fneg pf _ _ => pf
  | .fcmpEq pf _ _ _ => pf
  | .fcmpLt pf _ _ _ => pf
  | .fcmpLe pf _ _ _ => pf
  | .fcmpUn pf _ _ _ => pf
  | .fclass pf _ _ => pf
  | .fdiv pf _ _ _ => pf
  | .fsqrt pf _ _ => pf
  | .frcp pf _ _ => pf
  | .frsq pf _ _ => pf
  | .fexp2 pf _ _ => pf
  | .flog2 pf _ _ => pf
  | .fsin pf _ _ => pf
  | .fcos pf _ _ => pf
  | .fround pf _ _ => pf
  | .fscale pf _ _ _ => pf
  | .fcvtF2i pf _ _ _ => pf
  | .fcvtI2f pf _ _ _ => pf
  | .fcvtF2f pf _ _ _ => pf
  | .hadd2 pf _ _ _ => pf
  | .hmul2 pf _ _ _ => pf
  | .hfma2 pf _ _ _ => pf
  | .hdot2 pf _ _ _ => pf
  | .brt _ _ => none
  | .brf _ _ => none
  | .bra _ => none
  | .brx _ _ _ => none
  | .call _ _ => none
  | .callx _ _ => none
  | .ret _ => none
  | .jpt _ => none
  | .join => none
  | .loop _ _ => none
  | .loopi _ _ => none
  | .exit => none
  | .wait _ _ _ _ => none
  | .yield => none
  | .safe _ => none
  | .nop => none
  | .ld8u pf _ _ _ _ => pf
  | .ld8s pf _ _ _ _ => pf
  | .ld16u pf _ _ _ _ => pf
  | .ld16s pf _ _ _ _ => pf
  | .ld32 pf _ _ _ _ => pf
  | .ld64 pf _ _ _ _ => pf
  | .ld128 pf _ _ _ _ => pf
  | .st8 pf _ _ _ _ => pf
  | .st16 pf _ _ _ _ => pf
  | .st32 pf _ _ _ _ => pf
  | .st64 pf _ _ _ _ => pf
  | .st128 pf _ _ _ _ => pf
  | .lds32 pf _ _ _ _ => pf
  | .sts32 pf _ _ _ _ => pf
  | .lds128 pf _ _ _ _ => pf
  | .sts128 pf _ _ _ _ => pf
  | .ballot pf _ _ => pf
  | .shflIdx pf _ _ _ => pf
  | .shflUp pf _ _ _ => pf
  | .shflDown pf _ _ _ => pf
  | .shflXor pf _ _ _ => pf
  | .redux pf _ _ _ => pf
  | .scan pf _ _ _ => pf
  | .qappend pf _ _ => pf
  | .xchgp pf _ _ => pf
  | .expand _ _ _ _ => none
  | .exnext _ _ _ => none
  | .exred _ => none
  | .exfin _ => none
  | .exsave _ => none
  | .exload _ => none
  | .matchLanes pf _ _ => pf
  | .atom pf _ _ _ _ _ _ _ => pf
  | .atoms pf _ _ _ _ _ _ _ => pf
  | .fence _ _ => none
  | .arrive _ _ _ => none
  | .waitbPh _ _ => none
  | .waitbCnt _ _ => none
  | .barWg => none
  | .barTeam => none
  | .mwaitNe _ _ => none
  | .mwaitGeu _ _ => none
  | .pref _ => none
  | .prefL1 _ => none
  | .cflushWb _ => none
  | .cflushInv _ => none
  | .htclaim _ _ _ => none
  | .htrel _ => none
  | .hins pf _ _ _ => pf
  | .hprobe pf _ _ _ => pf
  | .hdel pf _ _ _ => pf
  | .hacc pf _ _ _ _ _ => pf
  | .hdrain _ _ _ => none
  | .thld _ _ _ => none
  | .thset _ _ _ => none
  | .thget _ _ _ => none
  | .copy _ _ _ _ _ _ _ _ => none
  | .gather _ _ _ _ _ _ _ _ _ => none
  | .scatter _ _ _ _ _ _ _ _ _ _ => none
  | .tsplit _ _ _ _ _ _ _ _ => none
  | .mma _ _ _ _ _ => none
  | .mmaloop _ _ _ _ _ _ _ => none
  | .mbatch _ _ => none
  | .waitt _ => none
  | .maccAlloc _ => none
  | .maccFree _ => none
  | .mdrain _ _ _ _ _ => none
  | .bput _ _ => none
  | .kstore _ _ _ _ _ _ _ _ _ => none
  | .bgather _ _ _ _ _ _ _ => none
  | .addL pf _ _ _ => pf
  | .andL pf _ _ _ => pf
  | .orL pf _ _ _ => pf
  | .xorL pf _ _ _ => pf
  | .movL pf _ _ => pf
  | .mulloL pf _ _ _ => pf
  | .cmpEqL pf _ _ _ => pf
  | .cmpLtSL pf _ _ _ => pf
  | .faddL pf _ _ _ => pf
  | .fmulL pf _ _ _ => pf
  | .ffmaL pf _ _ _ _ => pf
  | .fminL pf _ _ _ => pf
  | .fmaxL pf _ _ _ => pf
  | .fcmpLtL pf _ _ _ => pf
  | .qsig _ _ _ => none
  | .kidx _ _ => none
  | .mload _ _ _ => none
  | .trap _ => none
  | .trapFrame _ => none
  | .eretRetry => none
  | .eretSkip => none
  | .eretTo _ => none
  | .mtsrFpflags _ => none
  | .mtsrCtxPreempt _ _ => none
  | .mtsrCtxHalt _ _ => none
  | .mtsrCtxLcbins _ _ => none
  | .mtsrFaultlog _ _ => none
  | .mtsr _ _ _ => none
  | .resumeReplay _ _ => none
  | .resumeDeliver _ _ => none
  | .resumeTerm _ _ => none
  | .launch _ _ => none
  | .tlbinvPage _ _ => none
  | .tlbinvAsid _ => none
  | .tlbinvAll => none
  | .asinv _ => none
  | .bkpt _ => none
  | .clrset _ => none
  | .perfrd _ _ _ => none
  | .movi20 pf _ _ => pf
  | .movf20 pf _ _ => pf
  | .nonInstruction _ _ _ _ => none
  | .faultLogHeldAppend _ => none
  | .heldTransferReexecution _ _ => none
  | .waitRelease _ => none
  | .barRelease _ => none
  | .waitbRelease _ => none
  | .mwaitRelease _ => none
  | .waittRelease _ => none
  | .xchgpMatch _ => none
  | .asterStepMatch _ => none
  | .launchEnqueue _ => none
  | .dependenceConditionRead _ _ => none
  | .teamAdmission _ => none
  | .l1Reclaim _ => none
  | .warpCompletion _ => none
  | .teamCompletion _ => none
  | .translationRequest _ => none
  | .corePinnedSlotWaitEnd _ => none
  | .sliceMiss _ => none
  | .accessPerform _ => none
  | .loadCompletion _ => none
  | .storeAcknowledge _ => none
  | .engineLineTransfer _ => none
  | .tsplitTileEncode _ => none
  | .copyOperationComplete _ => none
  | .matrixStep _ => none
  | .matrixOperationComplete _ => none
  | .mdrainExecute _ => none
  | .batchComplete _ => none
  | .kstoreToken _ => none
  | .bgatherBucketVisit _ => none
  | .bgatherToken _ => none
  | .remoteRequest _ => none
  | .remoteTimeout _ => none
  | .watchdogExpiry _ => none
  | .handlerLimitExpiry _ => none
  | .preemptionOverdue _ => none
  | .teamReadmission _ => none
  | .startCold _ => none
  | .startWarm _ => none
  | .mboxWrite _ => none
  | .bar0RegisterWrite _ _ => none
  | .bar2WindowAccess _ _ _ => none
  | .powerGood => none
  | .startStage1 => none
  | .startStage2 => none
  | .idleEntry _ => none
  | .clockGateEntry _ => none
  | .retentionEntry _ => none
  | .powerWake _ => none
  | .dieThrottle _ _ => none
  | .criticalTemperature => none
  | .storageSoftError _ _ => none
  | .fabricResponseLost _ _ => none
  | .memorySideStampLost _ => none
  | .routeLinksDown _ _ => none
  | .routeLinksUp _ => none
  | .peerDebugHoldChange _ _ => none

/-- The selector of MOVSR is out of range (R25, check 8 of R70). -/
def selectorBad (i : Instr) : Bool :=
  match i with
  | .movsr _ _ s => decide (0x16 < s.toNat)
  | _ => false

/-- The first register of an operand is a lane or uniform register at or beyond its declared count (R16, R17). -/
def Opnd.beyond (o : Opnd) (vregs sregs : Nat) : Bool :=
  match classOf o.code with
  | .lane => decide (vregs < o.code.toNat + o.width)
  | .uniform => decide (sregs + 0x80 < o.code.toNat + o.width)
  | _ => false

/-- A pair is odd, or a quad is not at a multiple of 4 (R17, R136). -/
def Opnd.odd (o : Opnd) : Bool :=
  match classOf o.code with
  | .lane => o.code.toNat % o.width != 0
  | .uniform => o.code.toNat % o.width != 0
  | _ => false

/-- The subcause of a field (R70): with a prefix the instruction word is word 1. -/
def Opnd.sub (o : Opnd) (prefixed : Bool) : Nat :=
  (if o.pre then 0 else o.word + (if prefixed then 1 else 0)) * 256 + o.lo

/-- Checks 8 to 11 of R70 over the operand table: the first cause and its subcause. -/
def checkOf (i : Instr) (vregs sregs : Nat) : Option (Nat × Nat) :=
  let ops := (operandsOf i)
  let pre := (prefixOf i).isSome
  match ops.find? (fun o => classOf o.code == .reserved) with
  | some o => some (0x03, o.sub pre)
  | none =>
    if selectorBad i then some (0x03, (if pre then 256 else 0) + 8)
    else match ops.find? (fun o => !o.accept.contains (classOf o.code)) with
      | some o => some (0x02, o.sub pre)
      | none =>
        match ops.find? (fun o => o.beyond vregs sregs) with
        | some o => some (0x07, o.sub pre)
        | none =>
          match ops.find? (fun o => o.odd) with
          | some o => some (0x09, o.sub pre)
          | none => none

/-! ## Guard (R23, R24) -/

/-- The guard mask in force (R23). -/
def Warp.guardOf (w : Warp) (pf : Option Prefix) : Mask :=
  match pf with
  | some p => if p.maskEn then w.maskReg p.mask.toNat else w.maskReg (w.mode.extractLsb' 7 4).toNat
  | none => w.maskReg (w.mode.extractLsb' 7 4).toNat

/-- Zero policy is in force (R23, R24). -/
def Warp.zeroPolicy (w : Warp) (pf : Option Prefix) : Bool :=
  match pf with
  | some p => if p.maskEn then p.zero else w.mode.getLsbD 11
  | none => w.mode.getLsbD 11

/-- The active rounding mode (R106): a nonzero override, or MODE. -/
def Warp.rounding (w : Warp) (pf : Option Prefix) : Nat :=
  match pf with
  | some p => if p.rnd = 0 then (w.mode.extractLsb' 4 3).toNat else p.rnd.toNat - 1
  | none => (w.mode.extractLsb' 4 3).toNat

/-- The format of a type code of MODE (R21). -/
def fmtOfCode (n : Nat) : FpFmt :=
  match n with
  | 1 => .fp16
  | 2 => .bf16
  | _ => .fp32

/-- The active type (R106). -/
def Warp.fpType (w : Warp) (pf : Option Prefix) : FpFmt :=
  match pf with
  | some p => if p.ty = 0 then fmtOfCode (w.mode.extractLsb' 0 4).toNat else fmtOfCode (p.ty.toNat - 1)
  | none => fmtOfCode (w.mode.extractLsb' 0 4).toNat

/-- An instruction with destination `d` and these sources executes once per warp (R87). -/
def onceFor (d : Code) (srcs : List Code) : Bool := onceR d srcs

/-! ## Scoreboard (R166) -/

/-- Two ranges of register codes meet. -/
def codesMeet (a : Code) (n : Nat) (b : Code) (k : Nat) : Bool :=
  decide (a.toNat < b.toNat + k) && decide (b.toNat < a.toNat + n)

/-- A write to these registers of a warp is outstanding from an earlier instruction; `own` is the counted instruction that
the path replays. A load some lanes of which wait for their replay (R218) is not complete (R144). -/
def State.outstanding (s : State) (key : Nat) (own : Option Nat) (c : Code) (n : Nat) : Bool :=
  s.outs.any (fun e => e.2.w == key && e.2.isLoad && own != some e.1 && codesMeet e.2.dst e.2.regs c n) ||
    s.engines.any (fun e => e.2.w == key && !e.2.complete &&
      match e.2.kind with
      | .drainReg _ d k _ _ _ st _ => codesMeet (BitVec.ofNat 8 d) k c n || codesMeet st 1 c n
      | .drain _ _ _ _ st => codesMeet st 1 c n
      | _ => false)

/-- An operand of the instruction waits for an outstanding write (R14, R141, R166). -/
def State.scoreboard (s : State) (key : Nat) (own : Option Nat) (ops : List Opnd) : Bool :=
  ops.any (fun o => (classOf o.code == .lane || classOf o.code == .uniform) && s.outstanding key own o.code o.width)

/-! ## Register errors (R359) -/

/-- The lanes, among these, in which a source of the instruction reads an uncorrectable lane register. -/
def Warp.badLanes (w : Warp) (ops : List Opnd) (lanes : List Nat) : List Nat :=
  if w.badReg = [] then []
  else lanes.filter (fun i => ops.any (fun o => (!o.dest || o.both) && classOf o.code == .lane &&
    (numsFrom o.code.toNat o.width).any (fun r => Assoc.get w.badReg false (r * 32 + i))))

end Sys2Proof.Machine
end

