-- ==== Sys2Proof/Machine/Fetch.lean ====
section
/-!
DEFINITION. Fetching an instruction's words (R13, R52, R70 checks 1 and 2) and which path of a warp may go on (R176).
-/
namespace Sys2Proof.Machine

/-! ## Fetch -/

/-- What the fetch of one word ends with. -/
inductive FetchWord where
  | word (x : Word)
  /-- the line is neither cached nor translated -/
  | miss (tasid line : Nat)
  | cause (code sub : Nat)
  /-- the clearance bitmap's page waits for its core-pinned slot (R216) -/
  | wait
  deriving DecidableEq, Repr

/-- The first byte past the code (R13, R84). -/
def State.codeEnd (s : State) (w : Warp) : Nat := (s.headerPc w (s.headerField w Launch.codeLimit)).toNat

/-- Fetch the word at an address: the code limit (check 1 of R70), then a weak read through L1 with the fetch's own causes
(R207, R214, R221, R360, R391). A denied fetch appends one permission event of cause 1 (R222). -/
def State.fetchWord (s : State) (key p : Nat) (w : Warp) (va : Nat) : FetchWord × State :=
  let core := coreOfKey key
  let go := fun (h : Hit) (absent : Option Nat) (s : State) =>
    if h.x = false then (FetchWord.cause 0x29 0, s)
    else match s.cleared core w.asid (some w.team) w.clearance h.tag with
      | .cause c b q => (.cause c b, q)
      | .wait q => (.wait, q)
      | .ok false q =>
        (.cause 0x29 1, q.permEvent (w.who key p) false (va / 128 * 128) h.tag 1 (w.path p).mask)
      | .ok true q =>
        match absent with
        | some b => (.cause 0x2F b, q)
        | none => match q.way (some core) h with
          | .cause c b => (.cause c b, q.wayUsed (some core) h)
          | .wait => (.wait, q.ask (some core) h)
          | .go =>
            if q.badAt h.place h.off 4 then (.cause 0x35 0, q)
            else (.word (BitVec.ofNat 32 (natOfBytes (q.peekBytes h.place h.off 4))), (q.readThrough core h).wakeFor (some core) h)
  if s.codeEnd w ≤ va then (.cause 0x06 0, s)
  else match s.look w.asid (some w.team) va with
    | .miss t l => (.miss t l, s)
    | .cause c b => (.cause (if c = 0x30 then 0x31 else c) b, s)
    | .absent b h => go h (some b) s
    | .hit h => go h none (s.usedAt w.asid va h)

/-- What the fetch of an instruction ends with. -/
inductive Fetched where
  /-- an instruction and its length in words; a fetch cause is a non-instruction -/
  | instr (i : Instr) (len : Nat)
  | miss (tasid line : Nat)
  | wait
  deriving DecidableEq, Repr

/-- Fetch word by word until the words show the whole instruction (R52, R70). `ws` are the words fetched so far; a word
that fails makes the instruction one of length one more (R344). -/
def State.fetchMore (s : State) (key p : Nat) (w : Warp) (pc : DWord) (ws : List Word) (fuel : Nat) : Fetched × State :=
  match fuel with
  | 0 => (.wait, s)
  | fuel + 1 =>
    let n := ws.length
    match s.fetchWord key p w (pc.toNat + 4 * n) with
    | (.miss t l, q) => (.miss t l, q)
    | (.wait, q) => (.wait, q)
    | (.cause c b, q) =>
      (.instr (.nonInstruction .none (BitVec.ofNat 8 c) (BitVec.ofNat 32 (if c = 0x06 then n else b)) (n + 1)) (n + 1), q)
    | (.word x, q) =>
      match decode (ws ++ [x]) with
      | .done i len => (.instr i len, q)
      | .more => q.fetchMore key p w pc (ws ++ [x]) fuel

/-- Fetch the instruction at a PC: at most three words (R52). -/
def State.fetch (s : State) (key p : Nat) (w : Warp) (pc : DWord) : Fetched × State := s.fetchMore key p w pc [] 3

/-! ## Paths that may go on -/

/-- None of these lines is being missed on any more; a slot held by the requester's own team is no wait (R216). -/
def State.filled (s : State) (team : Nat) (lines : List (Nat × Nat)) : Bool :=
  lines.all (fun l => match s.findMiss l.1 l.2 with
    | none => true
    | some (_, m) => match m.result with
      | .fault _ _ => true
      | .noCore _ _ => true
      | .pending => false
      | .waitSlot c k _ _ => s.ownSlot (some team) c k)

/-- Nothing but its own instruction keeps the path from issuing: it is a candidate (R176), not suspended by a trap (R344),
held by no park, stop or remote access, and its fills have come. -/
def State.pathFree (s : State) (w : Warp) (p : Nat) : Bool :=
  w.candidate p && w.held.isNone && !(w.trap.any (fun t => t.suspended.contains p)) &&
    match (w.path p).hold with
    | .none => true
    | .fill lines => s.filled w.team lines
    | .parked _ _ _ _ => false
    | .remote _ _ _ _ => false
    | .debug _ _ _ _ => false

/-- The path that a stop between instructions names: the candidate that R176 would take next, or the lowest entry (R357). -/
def Warp.nextPath (w : Warp) : Nat :=
  let can := (numsFrom 0 8).filter w.candidate
  match w.choosePath can with
  | some p => p
  | none => (((numsFrom 0 8).filter (fun i => (w.path i).status != .free)).head?).getD 0

/-- The issue record of a path at its next PC: the replay's lanes where one is due (R218, R349), the held lanes of a
waiting path (R171), else all its lanes. -/
def Warp.curFor (w : Warp) (key p len : Nat) : Cur :=
  let q := w.path p
  { w := key, p := p, pc := q.nextPc, len := len, held := q.status == .wait
    lanes := if q.status = .wait then q.held else match q.replay with
      | some m => m &&& q.mask
      | none => q.mask }

end Sys2Proof.Machine
end

