-- ==== Sys2Proof/Machine/Loads.lean ====
section
/-!
DEFINITION. Issuing accesses of lanes: addresses and their checks (R138, R139, R143), watchpoints (R375), waiting for fills
(R217, R226), denied reads (R221, R222), the counted instructions (R144), units and coalesced events (R234, R244), the
mixed-size trap (R246), and reads completed within their instruction (R103, R109, R124).
-/
namespace Sys2Proof.Machine

/-! ## Rows of R143 -/

/-- Row of an uncorrectable register (R359). -/
def rowReg : Nat := 0
/-- First check of row 1. -/
def rowForm : Nat := 1
/-- Second check of row 1. -/
def rowForm2 : Nat := 2
/-- Third check of row 1. -/
def rowForm3 : Nat := 3
/-- Fourth check of row 1. -/
def rowForm4 : Nat := 4
/-- Watchpoints (R375). -/
def rowWatch : Nat := 5
/-- Row 2. -/
def rowWalk : Nat := 6
/-- Row 3. -/
def rowStore : Nat := 7
/-- Row 4. -/
def rowHome : Nat := 8
/-- Row 5. -/
def rowError : Nat := 10
/-- A malformed barrier word (R264). -/
def rowWord : Nat := 9

/-! ## Checking a lane's access -/

/-- A watchpoint of the context matches (R375). -/
def State.watched (s : State) (c : Cur) (w : Warp) (va n : Nat) (reads writes : Bool) : Bool :=
  let x := s.ctxOf w.asid
  (x.debug).getLsbD 0 && x.wp.getLsbD 0 && !(w.path c.p).passWatch &&
    ((writes && x.wp.getLsbD 1) || (reads && x.wp.getLsbD 2)) &&
    decide (va / 8 ≤ (x.wp.extractLsb' 3 53).toNat) && decide ((x.wp.extractLsb' 3 53).toNat ≤ (va + n - 1) / 8)

/-- The row of a cause that a lookup ends in: 0x2F stands in row 4, the others in row 2. -/
def lookRow (code : Nat) : Nat := if code = 0x2F then rowHome else rowWalk

/-- What a lane's address ends in. -/
inductive LaneLook where
  | go (h : Hit)
  /-- the bytes are poisoned or uncorrectable: 0x34 or 0x39, the last cause of the order (R143, R264) -/
  | error (h : Hit) (code : Nat)
  | denied (tag : Nat)
  | miss (tasid line : Nat)
  | bad (row code sub : Nat)
  /-- the clearance bitmap's page waits for its core-pinned slot (R216), or a response does not come yet (R392) -/
  | wait
  deriving DecidableEq, Repr

/-- Rows 2 to 5 of R143 for one lane (R214, R221, R360, R391), judged at issue (DEDUCED, log entry 8); a remote line's poison is
judged where the access is performed. The constant space is read by the same rules (R29): FFMC and LDC meet 0x2F and 0x3E here as
every load does (DEDUCED, log entry 67). -/
def State.lookLane (s : State) (who : Who) (reads writes : Bool) (va n : Nat) : LaneLook × State :=
  let go := fun (h : Hit) (absent : Option Nat) (s : State) =>
    if writes && !h.w then (LaneLook.bad rowStore 0x27 0, s)
    else match s.cleared who.core who.asid who.team who.clr h.tag with
      | .cause c b q => (.bad (lookRow c) c b, q)
      | .wait q => (.wait, q)
      | .ok false q => (if writes then .bad rowStore 0x28 0 else .denied h.tag, q)
      | .ok true q =>
        match absent with
        | some b => (.bad rowHome 0x2F b, q)
        | none => match h.remote.bind (fun _ => q.remoteCause h.pa) with
          | some (c, b) => (.bad rowHome c b, q)
          | none =>
            (if reads && h.remote.isNone && q.badAt h.place h.off n then .error h (q.errorCode h.place h.off n) else .go h,
              if writes then q else q.readThrough who.core h)
  match s.look who.asid who.team va with
  | .miss t l => (.miss t l, s)
  | .cause c b => (.bad (lookRow c) c b, s)
  | .absent b h => go h (some b) s
  | .hit h => go h none (s.usedAt who.asid va h)

/-- A lane with its address. -/
structure LaneAddr where
  lane : Nat
  va : Nat
  deriving DecidableEq, Repr

/-- The lookups of several lanes. -/
def State.lookLanes (s : State) (who : Who) (reads writes : Bool) (n : Nat) (as : List LaneAddr) :
    List (LaneAddr × LaneLook) × State :=
  match as with
  | [] => ([], s)
  | a :: r =>
    let x := s.lookLane who reads writes a.va n
    let y := x.2.lookLanes who reads writes n r
    ((a, x.1) :: y.1, y.2)

/-- The lines missed on. -/
def missedLines (ls : List (LaneAddr × LaneLook)) : List (Nat × Nat) :=
  ls.filterMap (fun x => match x.2 with
    | .miss t l => some (t, l)
    | _ => none)

/-- Some lane cannot be judged yet. -/
def anyWait (ls : List (LaneAddr × LaneLook)) : Bool :=
  ls.any (fun x => match x.2 with
    | .wait => true
    | .miss _ _ => true
    | _ => false)

/-- The lines of all lanes, by tag ASID. -/
def linesOf (asid : Nat) (ls : List (LaneAddr × LaneLook)) : List (Nat × Nat) :=
  (ls.map (fun x => (tagAsid asid x.1.va, lineOf x.1.va))).eraseDups

/-- Post the misses of an instruction; its path waits for its fills and issues it again (R217, R226). -/
def State.waitFill (s : State) (c : Cur) (w : Warp) (l1 : Bool) (ls : List (LaneAddr × LaneLook)) : State :=
  let s1 := (missedLines ls).foldl (fun (s : State) x =>
    s.postMiss x.1 x.2 (some w.team) (if l1 then some (coreOfKey c.w) else none) false) s
  match missedLines ls with
  | [] => s1
  | _ => s1.updPath c.w c.p (fun q => { q with hold := .fill (linesOf w.asid ls) })

/-- The causes of the lanes. -/
def lookCauses (ls : List (LaneAddr × LaneLook)) : List LaneCause :=
  ls.filterMap (fun x => match x.2 with
    | .bad row code sub => some { lane := x.1.lane, row := row, code := code, sub := sub, addr := BitVec.ofNat 64 x.1.va }
    | _ => none)

/-- One permission event for each line denied, covering the lanes denied on it (R222). -/
def State.logDenied (s : State) (c : Cur) (w : Warp) (once : Bool) (ls : List (LaneAddr × LaneLook)) : State :=
  let ds := ls.filterMap (fun x => match x.2 with
    | .denied tag => some (x.1.lane, x.1.va / 128 * 128, tag)
    | _ => none)
  let lines := (ds.map (fun d => d.2)).eraseDups
  lines.foldl (fun (s : State) l =>
    let m : Mask := if once then (w.path c.p).mask
      else ds.foldl (fun (m : Mask) d => if d.2 = l then m ||| Mask.bit d.1 else m) 0
    s.permEvent (w.who c.w c.p) false l.1 l.2 0 m) s

/-- The cause of an instruction: of its lanes (R356), or of the whole path for a once-per-warp form (R138). -/
def Cur.causeOf (c : Cur) (once : Bool) (xs : List LaneCause) : Option Cause :=
  if once then
    (firstCause xs).map (fun f => { code := f.code, sub := f.sub, lanes := c.lanes,
                                    addrs := c.lanes.lanes.map (fun i => (i, f.addr)), other := false })
  else joinCauses xs

/-! ## Units -/

/-- The instructions of a warp that are not complete (R144). -/
def Warp.incomplete (w : Warp) : List Nat := ((w.loads ++ w.stores).filter (fun x => !x.done)).map Counted.id

/-- The access of one unit of size `n`, in path order after everything the path has issued (R234, R241). -/
def Warp.unit (w : Warp) (key p op : Nat) (kind : AccKind) (h : Hit) (parts : List Part) (n order : Nat) : Access :=
  let q := w.path p
  { w := key, op := op, seg := (q.segs[0]?).getD 0, seq := w.seq, segs := q.segs, after := q.after, kind := kind
    place := h.place, parts := parts, strong := decide (0 < order)
    acq := decide (4 ≤ order) && (match kind with
      | .load => true
      | _ => false)
    rel := decide (4 ≤ order) && (match kind with
      | .store => true
      | _ => false)
    scope := Scope.ofOrder order, size := n, opened := w.incomplete, owes := none, remote := h.remote, sent := 0 }

/-- A lane's pieces of at most 8 bytes (R234): offset in the lane's value and size. -/
def pieces (n : Nat) : List (Nat × Nat) := if n ≤ 8 then [(0, n)] else [(0, 8), (8, 8)]

/-- The lanes' accesses together are coalesced (R244): the 128 bytes of one line, each once. -/
def coalesced (n : Nat) (hs : List (LaneAddr × Hit)) : Bool :=
  match hs with
  | [] => false
  | x :: r =>
    decide ((x :: r).length * n = 128) && r.all (fun y => y.1.va / 128 == x.1.va / 128) &&
      decide (((x :: r).map (fun y => y.1.va)).eraseDups.length = (x :: r).length)

/-- The accesses of an instruction on these lanes: one event where they are coalesced, else its units. `bytes` gives a
store's data. -/
def Warp.unitsOf (w : Warp) (key p op : Nat) (kind : AccKind) (n order : Nat) (whole : Bool) (hs : List (LaneAddr × Hit))
    (bytes : Nat → List Byte) : List Access :=
  if whole && coalesced n hs then
    match hs with
    | [] => []
    | x :: _ =>
      [w.unit key p op kind x.2 (hs.map (fun y =>
        { lane := y.1.lane, va := y.1.va, voff := 0, off := y.2.off, size := n, data := bytes y.1.lane })) 128 order]
  else
    hs.flatMap (fun y => (pieces n).map (fun z =>
      w.unit key p op kind y.2 [{ lane := y.1.lane, va := y.1.va, voff := z.1, off := y.2.off + z.1, size := z.2,
                                  data := sliceBytes (bytes y.1.lane) z.1 z.2 }] n order))

/-- Add pending accesses. -/
def State.addAccesses (s : State) (as : List Access) : State :=
  as.foldl (fun (s : State) a => { s with accesses := Assoc.put s.accesses s.fresh a, fresh := s.fresh + 1 }) s

/-- The warp traps mixed sizes (R21, R246). -/
def Warp.mixedTrap (w : Warp) : Bool := w.mode.getLsbD 13

/-- The cause that the event of an access meets at its executing unit (R246, R264, R266), the first of the order: another warp's
stamp of another size, where the issuing warp traps those; a barrier word that an arrival finds malformed; an error in the bytes
read. -/
def State.eventCause (s : State) (trap : Bool) (a : Access) : Option (Nat × Nat) :=
  let arrives := match a.kind with
    | .rmw aop _ => aop == 0xE
    | _ => false
  if trap && a.parts.any (fun p => s.mixedSize a p) then some (rowHome, 0x25)
  else if arrives && a.parts.any (fun p =>
      (arriveWord (BitVec.ofNat 32 (natOfBytes (s.peekBytes a.place p.off p.size))) (natOfBytes p.data)).isNone) then
    some (rowWord, 0x2C)
  else if a.reads then firstSome a.parts (fun p =>
    if s.badAt a.place p.off p.size then some (rowError, s.errorCode a.place p.off p.size) else none)
  else none

/-- The causes of an access's lanes. -/
def Access.laneCauses (a : Access) (row code sub : Nat) : List LaneCause :=
  a.parts.map (fun p => { lane := p.lane, row := row, code := code, sub := sub, addr := BitVec.ofNat 64 p.va })

/-- The lane of a unit. -/
def Access.laneOf (a : Access) : Option Nat := a.parts.head?.map Part.lane

/-- Take the elements of a list in an order that free values choose (R140, R262). -/
def State.anyOrder {α : Type} (s : State) (xs : List α) (fuel : Nat) : List α × State :=
  match fuel with
  | 0 => ([], s)
  | fuel + 1 =>
    match xs with
    | [] => ([], s)
    | [x] => ([x], s)
    | _ =>
      let k := s.freeVal % xs.length
      let r := s.takeFree.anyOrder (xs.take k ++ xs.drop (k + 1)) fuel
      match xs[k]? with
      | some x => (x :: r.1, r.2)
      | none => r

/-- Perform one of the accesses `as` of an instruction unless its lane meets a cause in one of its units: such a lane performs
nothing (R88, R246). -/
def State.performOr (s : State) (trap : Bool) (as : List Access) (a : Access) : List LaneCause × State :=
  match firstSome (as.filter (fun x => x.laneOf == a.laneOf)) (s.eventCause trap) with
  | some (row, code) => (a.laneCauses row code 0, s)
  | none => ([], s.perform 0 a)

/-- Perform accesses in the step that issues them, in any order; the lanes whose events met a cause. -/
def State.performTrapping (s : State) (trap : Bool) (as : List Access) : List LaneCause × State :=
  let o := s.anyOrder as as.length
  o.1.foldl (fun (r : List LaneCause × State) a =>
    if r.1.any (fun x => a.laneOf == some x.lane) then r
    else
      let x := r.2.performOr trap as a
      (r.1 ++ x.1, x.2)) ([], o.2)

/-! ## Reads completed within their instruction (R103, R109, R124) -/

/-- How such a read ends: the path waits, or each lane has its bytes (zeros where denied) or its cause. -/
inductive ReadNow where
  | hold (s : State)
  | done (vals : List (Nat × List Byte)) (causes : List LaneCause) (s : State)

/-- How the access of a lane fares that is completed within its instruction (R359, R391). A read meets what its bytes hold. -/
def State.laneWay (s : State) (core : Nat) (reads : Bool) (n : Nat) (l : LaneLook) : LaneLook × State :=
  let go := fun (h : Hit) (error : Option Nat) =>
    match s.way (some core) h with
    | .cause c b => (LaneLook.bad rowHome c b, s.wayUsed (some core) h)
    | .wait => (.wait, s.ask (some core) h)
    | .go =>
      match error with
      | some code => (.bad rowError code 0, s)
      | none => (if reads && h.remote.isSome && s.badAt h.place h.off n then .bad rowError (s.errorCode h.place h.off n) 0 else .go h, s)
  match l with
  | .go h => go h none
  | .error h code => go h (some code)
  | l => (l, s)

/-- The same for several lanes. -/
def State.laneWays (s : State) (core : Nat) (reads : Bool) (n : Nat) (ls : List (LaneAddr × LaneLook)) : List (LaneAddr × LaneLook) × State :=
  match ls with
  | [] => ([], s)
  | (a, l) :: r =>
    let x := s.laneWay core reads n l
    let y := x.2.laneWays core reads n r
    ((a, x.1) :: y.1, y.2)

/-- Weak reads of `n` bytes by lanes, checked from row 2 of R143. Everything that must precede them is performed first
(R237); the path waits for fills, for responses (R392) and for lines that an engine holds (R248). -/
def State.readLanes (s : State) (c : Cur) (w : Warp) (once : Bool) (n : Nat) (as : List LaneAddr) : ReadNow :=
  let l := s.lookLanes (w.who c.w c.p) true false n as
  if anyWait l.1 then .hold (l.2.waitFill c w true l.1)
  else
    let r := l.2.laneWays (coreOfKey c.w) true n l.1
    let hs := r.1.filterMap (fun x => match x.2 with
      | .go h => some (x.1, h)
      | _ => none)
    let probes := hs.map (fun x =>
      (x.1.lane, x.2, w.unit c.w c.p 0 .load x.2 [{ lane := x.1.lane, va := x.1.va, voff := 0, off := x.2.off, size := n, data := [] }] n 0))
    let settled := probes.foldl (fun (t : Option State) x => t.bind (fun s => s.settleFor x.2.2)) (some r.2)
    if anyWait r.1 then .hold (s.waitIn r.2)
    else match settled with
      | none => .hold s
      | some s1 =>
        let s2 := s1.logDenied c w once r.1
        let got := probes.map (fun x => (x.1, s2.readUnit x.2.2 x.2.1.off n))
        let zero := r.1.filterMap (fun x => match x.2 with
          | .denied _ => some (x.1.lane, zeros n)
          | _ => none)
        .done (got ++ zero) (lookCauses r.1) (hs.foldl (fun (s : State) x => s.wakeFor (some (coreOfKey c.w)) x.2) s2)

/-- The number a lane read. -/
def readValue (vals : List (Nat × List Byte)) (lane : Nat) : Nat :=
  natOfBytes (((vals.find? (fun v => v.1 == lane)).map (fun v => v.2)).getD [])

/-! ## Counted instructions (R144, R145) -/

/-- The lanes of an instruction: its lanes, or the one lane that stands for a once-per-warp form. -/
def Cur.run (c : Cur) (once : Bool) : List Nat := if once then [0] else c.lanes.lanes

/-- Enter a counted load or store: the replayed instruction's record, or a new one. -/
def State.openOp (s : State) (c : Cur) (w : Warp) (o : OutOp) : Nat × State :=
  match (w.path c.p).replayOp with
  | some k => (k, { s with outs := Assoc.upd s.outs k (fun x => { x with lanes := x.lanes ||| o.lanes, more := o.more }) })
  | none =>
    let k := s.fresh
    let s1 := { s with outs := Assoc.put s.outs k o, fresh := k + 1 }
    (k, s1.updWarp c.w (fun w =>
      if o.isLoad then { w with loads := w.loads ++ [{ id := k, done := false }] }
      else { w with stores := w.stores ++ [{ id := k, done := false }] }))

/-- The numbers that leave a queue: its complete head (R145). -/
def dropDone (q : List Counted) : List Counted :=
  match q with
  | [] => []
  | x :: r => if x.done then dropDone r else x :: r

/-- Mark an instruction of a queue complete; the counter falls in issue order (R145). -/
def complete (q : List Counted) (id : Nat) : List Counted :=
  dropDone (q.map (fun x => if x.id = id then { x with done := true } else x))

/-- The registers a complete load writes in a lane (R135). -/
def OutOp.words (o : OutOp) (lane : Nat) : List Word :=
  let bs := (numsFrom 0 o.size).map (fun k => Assoc.get o.got 0 (lane * 16 + k))
  let v := natOfBytes bs
  if o.size < 4 then
    [if o.signed then BitVec.ofInt 32 (signedNat (8 * o.size) v) else BitVec.ofNat 32 v]
  else (numsFrom 0 o.regs).map (fun j => BitVec.ofNat 32 (fieldOf bs (4 * j) 4))

/-- Write consecutive registers. -/
def Warp.wrWords (w : Warp) (d : Code) (lane : Nat) (xs : List Word) : Warp :=
  match xs with
  | [] => w
  | x :: r => (w.wr d lane x).wrWords (nextCode d 1) lane r

/-- The bytes of consecutive registers in a lane. -/
def Warp.rdBytes (w : Warp) (d : Code) (lane n : Nat) : List Byte :=
  let regs := (numsFrom 0 ((n + 3) / 4)).flatMap (fun j => bytesOfNat 4 (w.rd (nextCode d j) lane).toNat)
  sliceBytes regs 0 n

/-! ## Loads and stores -/

/-- What a load or store is (R135, R59): destination or data code, size, sign extension, order code, once per warp. -/
structure Mem where
  isLoad : Bool
  d : Code
  size : Nat
  signed : Bool
  order : Nat
  once : Bool
  deriving DecidableEq, Repr

/-- The registers that a load writes: one, a pair or a quad. -/
def Mem.regs (m : Mem) : Nat := (m.size + 3) / 4

/-- The checks of row 1 for one lane: an address or offset, or a cause. -/
inductive Formed where
  | at (va : Nat)
  | bad (row code : Nat) (addr : DWord)
  deriving DecidableEq, Repr

/-- Row 1 of R143 for a global access (R138). -/
def formGlobal (base : DWord) (size off : Nat) : Formed :=
  let a := base + BitVec.ofNat 64 (size * off)
  if 2 ^ 56 ≤ a.toNat then .bad rowForm 0x24 a
  else if a.toNat % size ≠ 0 then .bad rowForm2 0x20 a
  else .at a.toNat

/-- Row 1 of R143 for a scratchpad access (R139): `two` says that the team holds two workgroups. -/
def formScratch (base : Word) (size off limit : Nat) (two : Bool) : Formed :=
  let o := base.toNat + size * off
  if o % size ≠ 0 then .bad rowForm 0x21 (BitVec.ofNat 64 o)
  else if 2 ^ 32 ≤ o then .bad rowForm2 0x22 (BitVec.ofNat 64 o)
  else if 2 ^ 31 ≤ o ∧ two = false then .bad rowForm3 0x4D (BitVec.ofNat 64 o)
  else if limit < o % 2 ^ 31 + size then .bad rowForm4 0x22 (BitVec.ofNat 64 o)
  else .at o

/-- The causes of row 1, the uncorrectable registers and the watchpoints, lane by lane (DEDUCED, log entry 56). -/
def State.formLanes (s : State) (c : Cur) (w : Warp) (ops : List Opnd) (lanes : List Nat) (watch : Bool)
    (reads writes : Bool) (n : Nat) (f : Nat → Formed) : List LaneCause × List LaneAddr :=
  lanes.foldl (fun (r : List LaneCause × List LaneAddr) i =>
    match w.badLanes ops [i] with
    | [] =>
      match f i with
      | .bad row code addr => (r.1 ++ [{ lane := i, row := row, code := code, sub := 0, addr := addr }], r.2)
      | .at va =>
        if watch && s.watched c w va n reads writes then
          (r.1 ++ [{ lane := i, row := rowWatch, code := 0x52, sub := 0, addr := BitVec.ofNat 64 va }], r.2)
        else (r.1, r.2 ++ [{ lane := i, va := va }])
    | _ => (r.1 ++ [{ lane := i, row := rowReg, code := 0x38, sub := 0, addr := 0 }], r.2)) ([], [])

/-- Guarded-off lanes of a load write zero under zero policy (R24, R138). -/
def Warp.zeroOff (w : Warp) (pf : Option Prefix) (m : Mem) (lanes : List Nat) : Warp :=
  if m.isLoad && !m.once && w.zeroPolicy pf then
    lanes.foldl (fun (x : Warp) i =>
      if (w.guardOf pf).getLsbD i then x else x.wrWords m.d i (List.replicate m.regs 0)) w
  else w

/-- The lanes that access: guarded on, or the one of a once-per-warp form. -/
def Warp.onLanes (w : Warp) (pf : Option Prefix) (once : Bool) (c : Cur) : List Nat :=
  if once then [0] else c.lanes.lanes.filter (fun i => (w.guardOf pf).getLsbD i)

/-- The instruction over all the lanes of its path, also where a replay issues it for some of them. -/
def Warp.wholeCur (w : Warp) (c : Cur) : Cur := { c with lanes := (w.path c.p).issueMask }

/-- The contributors of a cross-lane instruction: the lanes of the issuing path that are guarded on (R178). -/
def Warp.contributors (w : Warp) (pf : Option Prefix) (c : Cur) : List Nat := w.onLanes pf false (w.wholeCur c)

/-- The mask of a list of lanes. -/
def maskOf (ls : List Nat) : Mask := ls.foldl (fun (m : Mask) i => m ||| Mask.bit i) 0

/-- The instruction has issued its accesses: it raises what its lanes met, or retires. Where remote accesses of it are
outstanding, whether the path waits for their acknowledgement (R390) or goes on is free; it waits where its lanes have met causes,
so that one trap takes them all (R356), and where `must` says that its events can meet causes of their own
(DEDUCED, log entry 36). -/
def State.retireOrRemote (s : State) (c : Cur) (op : Nat) (remote must resets once : Bool) (met : List LaneCause) : State :=
  let on := fun (s : State) => if resets then s.retireSync c else s.retire c
  if remote then
    if must || !met.isEmpty then s.updPath c.w c.p (fun q => { q with hold := .remote op c resets met })
    else if s.freeVal % 2 = 1 then on s.takeFree
    else s.takeFree.updPath c.w c.p (fun q => { q with hold := .remote op c resets [] })
  else match c.causeOf once met with
    | some x => s.raise c x (some op)
    | none => on s

/-- What a lane's error becomes: judged with its event where the events are performed in this step (`hot`), else a cause now. -/
def LaneLook.settle (hot : Bool) (l : LaneLook) : LaneLook :=
  match l with
  | .error h code => if hot then .go h else .bad rowError code 0
  | l => l

/-- Issue a counted instruction once its lanes are judged (R144): the lanes that go on perform their accesses later
(or now, where the warp traps mixed sizes or `now` is set), denied lanes receive zeros, the others raise. `kind` and `bytes`
give each lane's access, `strong` says whether they are strong. -/
def State.issueAccesses (s : State) (c : Cur) (w : Warp) (pf : Option Prefix) (m : Mem) (early : List LaneCause)
    (looks : List (LaneAddr × LaneLook)) (kind : AccKind) (bytes : Nat → List Byte) (whole strong : Bool)
    (tweak : Access → Access) (now resets : Bool) : State :=
  let hot := now || (w.mixedTrap && strong)
  let ls := looks.map (fun x => (x.1, x.2.settle hot))
  let hs := ls.filterMap (fun x => match x.2 with
    | .go h => some (x.1, h)
    | _ => none)
  let denied := ls.filterMap (fun x => match x.2 with
    | .denied _ => some x.1.lane
    | _ => none)
  let causes := early ++ lookCauses ls
  let w0 := w.zeroOff pf m c.lanes.lanes
  let s0 := s.setWarp c.w w0
  if ls = [] ∧ causes ≠ [] ∧ (w.path c.p).replayOp = none then
    match c.causeOf m.once causes with
    | some x => s0.raise c x none
    | none => s0
  else
    let o : OutOp :=
      { w := c.w, path := c.p, pc := c.pc, isLoad := m.isLoad, dst := m.d, regs := m.regs, size := m.size
        signed := m.signed, lanes := maskOf (hs.map (fun x => x.1.lane) ++ denied), uniform := m.once, got := []
        more := !causes.isEmpty }
    let r := (s0.logDenied c w m.once ls).openOp c w0 o
    let as := (w0.unitsOf c.w c.p r.1 kind m.size m.order (whole && causes.isEmpty && denied.isEmpty) hs bytes).map tweak
    let s1 := r.2.updWarp c.w (fun w => { w with seq := w.seq + 1 })
    let away := as.filter (fun a => a.remote.isSome)
    if hot then
      let here := as.filter (fun a => a.remote.isNone)
      match here.foldl (fun (t : Option State) a => t.bind (fun s => s.settleFor a)) (some s1) with
      | none => s
      | some s2 =>
        let t := (s2.addAccesses away).performTrapping w.mixedTrap here
        let bad := maskOf (t.1.map (fun x => x.lane))
        let s3 := { t.2 with outs := Assoc.upd t.2.outs r.1 (fun x =>
          { x with lanes := x.lanes &&& ~~~bad, more := x.more || !t.1.isEmpty }) }
        s3.retireOrRemote c r.1 (!away.isEmpty) true resets m.once (causes ++ t.1)
    else (s1.addAccesses as).retireOrRemote c r.1 (!away.isEmpty) false resets m.once causes

/-- A global load or store (R135 to R144). -/
def State.globalAccess (s : State) (c : Cur) (w : Warp) (i : Instr) (pf : Option Prefix) (m : Mem) (a : Code)
    (off : Nat) : State :=
  let on := w.onLanes pf m.once c
  let f := s.formLanes c w (operandsOf i) on true m.isLoad (!m.isLoad) m.size
    (fun l => formGlobal (w.rdPair a l) m.size off)
  let r := s.lookLanes (w.who c.w c.p) m.isLoad (!m.isLoad) m.size f.2
  if anyWait r.1 then r.2.waitFill c w m.isLoad r.1
  else
    r.2.issueAccesses c w pf m f.1 r.1 (if m.isLoad then .load else .store) (fun l => w.rdBytes m.d l m.size)
      (!m.once && decide (on.length = (w.path c.p).mask.lanes.length)) (decide (0 < m.order)) (fun a => a) false false

/-- The lookup of a scratchpad offset, which needs no translation (R139, R250); an uncorrectable word is 0x39 (R359). -/
def State.scratchLook (s : State) (w : Warp) (reads : Bool) (n : Nat) (a : LaneAddr) : LaneAddr × LaneLook :=
  let place : Place := .scratch w.team (if 2 ^ 31 ≤ a.va then 1 - w.wg else w.wg)
  let h : Hit := { place := place, off := a.va % 2 ^ 31, pa := 0, tag := 0, w := true, x := false, home := 0,
                   remote := none }
  (a, if reads && s.badAt place h.off n then .error h 0x39 else .go h)

/-- The team of a warp holds two workgroups (R139). -/
def State.twoGroups (s : State) (w : Warp) : Bool := decide (1 < ((s.team? w.team).map (fun t => t.groups.length)).getD 1)

/-- A scratchpad load or store (R139). -/
def State.scratchAccess (s : State) (c : Cur) (w : Warp) (i : Instr) (pf : Option Prefix) (m : Mem) (a : Code)
    (off : Nat) : State :=
  let on := w.onLanes pf m.once c
  let f := s.formLanes c w (operandsOf i) on false m.isLoad (!m.isLoad) m.size
    (fun l => formScratch (w.rd a l) m.size off (s.headerField w Launch.scratch) (s.twoGroups w))
  s.issueAccesses c w pf m f.1 (f.2.map (s.scratchLook w m.isLoad m.size)) (if m.isLoad then .load else .store)
    (fun l => w.rdBytes m.d l m.size) false (decide (0 < m.order)) (fun a => a) false false

end Sys2Proof.Machine
end

