-- ==== Sys2Proof/Machine/Delivery.lean ====
section
/-!
DEFINITION. Operation counters as WAIT and EXIT see them (R144 to R146), causes held by engine operations and their delivery
(R294, R314), and the targets of transfers (R57, R122 to R129, R169).
-/
namespace Sys2Proof.Machine

/-! ## Engine operations of a warp -/

/-- The operation counts in the copies class; the others in the tile operations (R144). -/
def EngKind.isCopy (k : EngKind) : Bool :=
  match k with
  | .copy _ _ _ _ => true
  | .gather _ _ _ _ => true
  | .gatherList _ _ _ _ _ => true
  | .scatter _ _ _ _ _ => true
  | .scatterList _ _ _ _ _ _ => true
  | .tsplit _ _ _ _ => true
  | .kstore _ _ _ _ _ _ _ => true
  | .bgather _ _ _ _ _ _ _ _ => true
  | .mma _ _ _ _ _ _ => false
  | .drain _ _ _ _ _ => false
  | .drainReg _ _ _ _ _ _ _ _ => false
  | .load _ _ _ => false
  | .loadReg _ _ => false

/-- The engine operations of a warp, in the order posted. -/
def State.opsOf (s : State) (key : Nat) : List (Nat × EngOp) := s.engines.filter (fun e => e.2.w == key)

/-- A tile operation, frozen while its warp is in trap mode (R310). -/
def State.frozen (s : State) (e : EngOp) : Bool :=
  !e.kind.isCopy && ((s.warp? e.w).any (fun w => w.trap.isSome))

/-- A WAIT field of `f` requires the operation to be complete (R294): `f` is not 63 and at least `f` operations of its
class were issued after it. -/
def waitNeeds (issued f : Nat) (e : EngOp) : Bool := f != 63 && decide (e.no + 1 + f ≤ issued)

/-- Complete operations that hold a cause. -/
def heldOps (es : List (Nat × EngOp)) : List (Nat × EngOp) := es.filter (fun e => e.2.complete && e.2.cause.isSome)

/-- Complete batches that hold a cause (R307). -/
def heldBatches (bs : List Batch) : List Batch := bs.filter (fun b => b.complete && b.cause.isSome)

/-- Forget operations whose causes are delivered. -/
def State.dropOps (s : State) (es : List (Nat × EngOp)) : State :=
  { s with engines := s.engines.filter (fun e => !es.any (fun x => x.1 == e.1)) }

/-- Forget the causes of batches. -/
def State.dropBatches (s : State) (key : Nat) (bs : List Batch) : State :=
  s.updWarp key (fun w => { w with batches := w.batches.filter (fun b => !bs.any (fun x => x.seq == b.seq)) })

/-- Deliver the causes held by these operations and batches at the instruction in issue: the earliest posted traps, the
others are counted (R294, R314, R345). None where nothing is held. -/
def State.deliverHeld (s : State) (c : Cur) (es : List (Nat × EngOp)) (bs : List Batch) : Option State :=
  let hs := heldOps es
  let hb := heldBatches bs
  let more := hs.foldl (fun n e => n + 1 + e.2.further) 0 + hb.length - 1
  let s1 := (s.dropOps hs).dropBatches c.w hb
  let fire := fun (x : HeldCause) (pc : DWord) =>
    let f := s1.infoOf c { code := x.code, sub := x.sub, lanes := c.lanes, addrs := [], other := false }
    some (s1.routeH c { f with time := x.time, flags := if more = 0 then 8 else 10, further := more, opPc := pc })
  match hs.head?, hb.head? with
  | some e, some b =>
    if e.1 < b.posted then e.2.cause.bind (fun x => fire x e.2.pc) else b.cause.bind (fun x => fire x b.pc)
  | some e, none => e.2.cause.bind (fun x => fire x e.2.pc)
  | none, some b => b.cause.bind (fun x => fire x b.pc)
  | none, none => none

/-! ## WAIT (R146) -/

/-- The fields of a WAIT are met by the counters. -/
def Warp.waitMet (w : Warp) (l st cp tl : BitVec 6) : Bool :=
  (l == 63 || decide (w.loads.length ≤ l.toNat)) && (st == 63 || decide (w.stores.length ≤ st.toNat)) &&
    (cp == 63 || decide (w.copies.length ≤ cp.toNat)) && (tl == 63 || decide (w.tiles.length ≤ tl.toNat))

/-- The operations whose completion a WAIT requires. -/
def State.waitOps (s : State) (key : Nat) (w : Warp) (cp tl : BitVec 6) : List (Nat × EngOp) :=
  (s.opsOf key).filter (fun e =>
    if e.2.kind.isCopy then waitNeeds w.copyNo cp.toNat e.2 else waitNeeds w.tileNo tl.toNat e.2)

/-! ## Targets (R57, R169) -/

/-- PC + 4 × sign_extend(off). -/
def farOff {n : Nat} (pc : DWord) (off : BitVec n) : DWord := pc + 4 * off.signExtend 64

/-- The lanes of a transfer: all the lanes of the path, or the held lanes that re-execute (R169, R171). -/
def Warp.transferLanes (w : Warp) (c : Cur) : List Nat :=
  let q := w.path c.p
  if q.status = .wait then q.held.lanes else q.mask.lanes

/-- The groups of a BRT or BRF. -/
def Warp.condGroups (w : Warp) (c : Cur) (m : BitVec 4) (sense : Bool) (off : BitVec 20) : List Branch :=
  branches ((w.transferLanes c).map (fun i =>
    (i, if (w.maskReg m.toNat).getLsbD i == sense then farOff c.pc off else c.next)))

/-- The groups of a transfer through a register pair. -/
def Warp.pairGroups (w : Warp) (c : Cur) (a : Code) : List Branch :=
  branches ((w.transferLanes c).map (fun i => (i, pairTarget (w.rdPair a i))))

/-- The result of a BRX before its transfer: it waits, or its lanes' causes at the first check that fails, or the lanes'
targets (R124, R169). -/
inductive BrxGot where
  | hold (s : State)
  | bad (causes : List LaneCause) (s : State)
  | go (ts : List (Nat × DWord)) (s : State)

/-- The checks and the table read of BRX, each check made for the whole instruction (R124, R169). -/
def State.brxRead (s : State) (c : Cur) (w : Warp) (i : Instr) (n a b : Code) : BrxGot :=
  let lanes := w.transferLanes c
  let regs := w.badLanes (operandsOf i) lanes
  let at_ := fun (l : Nat) => w.rdPair b 0 + 4 * (w.rd a l).setWidth 64
  let mk := fun (row code : Nat) (ls : List Nat) (addr : Nat → DWord) =>
    ls.map (fun l => ({ lane := l, row := row, code := code, sub := 0, addr := addr l } : LaneCause))
  let out := lanes.filter (fun l => decide (n.toNat ≤ (w.rd a l).toNat))
  let far := lanes.filter (fun l => decide (2 ^ 56 ≤ (at_ l).toNat))
  let odd := lanes.filter (fun l => decide ((at_ l).toNat % 4 ≠ 0))
  let seen := lanes.filter (fun l => s.watched c w (at_ l).toNat 4 true false)
  if regs ≠ [] then .bad (mk rowReg 0x38 regs (fun _ => 0)) s
  else if out ≠ [] then .bad (mk rowForm 0x0F out (fun _ => 0)) s
  else if far ≠ [] then .bad (mk rowForm 0x24 far at_) s
  else if odd ≠ [] then .bad (mk rowForm2 0x20 odd at_) s
  else if seen ≠ [] then .bad (mk rowWatch 0x52 seen at_) s
  else match s.readLanes c w false 4 (lanes.map (fun l => { lane := l, va := (at_ l).toNat })) with
    | .hold q => .hold q
    | .done vals causes q =>
      if causes ≠ [] then .bad causes q
      else
        let ts := lanes.map (fun l => (l, farOff c.pc (BitVec.ofNat 32 (readValue vals l))))
        let bad := (ts.filter (fun t => decide (2 ^ 56 ≤ t.2.toNat))).map (fun t => t.1)
        if bad ≠ [] then .bad (mk rowError 0x24 bad (fun _ => 0)) q else .go ts q

/-- The groups that a transfer would make, where it can be told (R171). -/
def State.groupsOf (s : State) (i : Instr) (c : Cur) (w : Warp) : List Branch :=
  match i with
  | .brt m f => w.condGroups c m true f
  | .brf m f => w.condGroups c m false f
  | .callx _ a => w.pairGroups c a
  | .ret a => w.pairGroups c a
  | .brx n a b => match s.brxRead c w i n a b with
    | .go ts _ => branches ts
    | .hold _ => []
    | .bad _ _ => []
  | _ => []

end Sys2Proof.Machine
end

