-- ==== Sys2Proof/Machine/Hold.lean ====
section
/-!
DEFINITION. What keeps an instruction from issuing though its path may go on (R144, R145, R153, R171, R285, R301): until it
ends the instruction has no effect and its path is not ready. And the wrapper in which every instruction's meaning runs.
-/
namespace Sys2Proof.Machine

/-- The counter stands at its limit (R145); a replay raises no counter. -/
def Warp.full (w : Warp) (c : Cur) (q : List Counted) : Bool :=
  (w.path c.p).replayOp.isNone && decide (Config.counterMax ≤ q.length)

/-- The outstanding memory requests of a core: its pending accesses outside scratchpad (R4; DESIGN CHOICE, log entry 82). -/
def State.requestsOf (s : State) (core : Nat) : Nat :=
  (s.accesses.filter (fun a => coreOfKey a.2.w == core && match a.2.place with
    | .scratch _ _ => false
    | _ => true)).length

/-- `n` further requests would be more than the core can have outstanding (R4): they wait at issue (DESIGN CHOICE, log entry 82). -/
def State.crowded (s : State) (c : Cur) (n : Nat) : Bool :=
  decide (Config.coreRequests < s.requestsOf (coreOfKey c.w) + n)

/-- A counted access of `n` bytes to global memory waits at issue (R4, R145): for its counter, and for room for the requests of all
its lanes. -/
def State.memWaits (s : State) (c : Cur) (w : Warp) (pf : Option Prefix) (once : Bool) (n : Nat) (q : List Counted) : Bool :=
  w.full c q || s.crowded c ((w.onLanes pf once c).length * (pieces n).length)

/-- A load waits at issue. -/
def State.loadWaits (s : State) (c : Cur) (w : Warp) (pf : Option Prefix) (d a : Code) (n : Nat) : Bool :=
  s.memWaits c w pf (onceLoad d a) n w.loads

/-- A store waits at issue. -/
def State.storeWaits (s : State) (c : Cur) (w : Warp) (pf : Option Prefix) (d a : Code) (n : Nat) : Bool :=
  s.memWaits c w pf (!(isLane d || isLane a)) n w.stores

/-- Executes once per warp: no lane register among the registers that the operator uses (R261). -/
def atomOnce (d a b : Code) (aop : BitVec 4) (c : Code) : Bool :=
  !(isLane d || isLane a || isLane b || (aop == 9 && isLane c))

/-- CFLUSH waits for the warp's stores, and for engines that hold a line it names (R229). -/
def State.flushWaits (s : State) (c : Cur) (w : Warp) (a : Code) : Bool :=
  !w.stores.isEmpty ||
    (w.onLanes none (!isLane a) c).any (fun l =>
      let va := (w.rdPair a l).toNat
      s.engines.any (fun e => e.2.owned.any (fun o => o.1 == .line (tagAsid w.asid va) (lineOf va))))

/-- SAFE waits before it enters save, and before it ends save or restore mode (R366, R367). -/
def Warp.safeWaits (w : Warp) (p : Nat) : Bool :=
  w.trap.isNone && match w.pre with
    | .normal => w.pending && !w.stores.isEmpty && (numsFrom 0 8).all (fun i => i == p || (w.path i).status == .free)
    | .saving _ => !(w.loads.isEmpty && w.stores.isEmpty && w.copies.isEmpty && w.tiles.isEmpty)
    | .restoring _ _ _ _ _ => !(w.loads.isEmpty && w.stores.isEmpty && w.copies.isEmpty && w.tiles.isEmpty)
    | .saved => true

/-- The number of a token register; none for z. -/
def tokenNo (c : Code) : Option Nat := if c = 0xFF then none else some (c.toNat - 0xF0)

/-- A token is pending: its operation or batch is not complete (R286, R307) (DEDUCED, log entry 61). -/
def State.tokenBusy (s : State) (w : Warp) (t : Token) : Bool :=
  match t with
  | .invalid => false
  | .op id => (Assoc.at? s.engines id).any (fun e => !e.complete)
  | .batch n => w.batches.any (fun b => b.seq == n && !b.complete)

/-- The token that a field names is pending. -/
def State.tokenPending (s : State) (w : Warp) (c : Code) : Bool :=
  (tokenNo c).any (fun t => s.tokenBusy w (Assoc.get w.tok Token.invalid t))

/-- The copies of a core's engines that are not complete (R285). -/
def State.copyLoad (s : State) (core : Nat) : Nat :=
  (s.engines.filter (fun e => e.2.core == core && e.2.kind.isCopy && !e.2.complete)).length

/-- A copy waits for room in its engine, for its token, and for its counter (R145, R286). -/
def State.copyWaits (s : State) (c : Cur) (w : Warp) (tok : Code) : Bool :=
  w.full c w.copies || s.tokenPending w tok || decide (Config.copyDepth ≤ s.copyLoad (coreOfKey c.w))

/-! ## Tile operations (R166, R300, R301, R309) -/

/-- The tile of a tile operation. -/
def EngKind.tile? (k : EngKind) : Option Nat :=
  match k with
  | .mma t _ _ _ _ _ => some t
  | .drain t _ _ _ _ => some t
  | .drainReg t _ _ _ _ _ _ _ => some t
  | .load t _ _ => some t
  | .loadReg t _ => some t
  | _ => none

/-- Operations of a warp on one of its tiles. -/
def State.tileOps (s : State) (key t : Nat) : List (Nat × EngOp) := (s.opsOf key).filter (fun e => e.2.kind.tile? == some t)

/-- The register control: registers, column, row block; none where it is not allowed (R309). -/
def regControl (x : Word) : Option (Nat × Nat × Nat) :=
  let lw := (x.extractLsb' 16 3).toNat
  let col := (x.extractLsb' 8 7).toNat
  if 5 < lw ∨ 128 < col + 2 ^ lw then none else some (2 ^ lw, col, (x.extractLsb' 0 2).toNat)

/-- The tile operations of a core that are not complete: entries of its FIFO (R301). -/
def State.fifoLoad (s : State) (core : Nat) : Nat :=
  (s.engines.filter (fun e => e.2.core == core && !e.2.kind.isCopy && !e.2.complete)).length

/-- A tile operation waits for its counter and for room in the FIFO. -/
def State.tileWaits (s : State) (c : Cur) (w : Warp) : Bool :=
  w.full c w.tiles || decide (Config.fifoDepth ≤ s.fifoLoad (coreOfKey c.w))

/-- The data registers of a register form wait for outstanding writes (R166). -/
def State.dataWaits (s : State) (c : Cur) (w : Warp) (x b : Code) : Bool :=
  isLane x && (regControl (w.rd b 0)).any (fun r => s.outstanding c.w none x r.1)

/-- Freeing a tile waits for the operations posted to it (R300). -/
def State.freeWaits (s : State) (c : Cur) (w : Warp) (a : Code) : Bool :=
  (s.tileOps c.w (w.rd a 0).toNat).any (fun e => !e.2.complete)

/-- The instruction does not issue yet. -/
def State.mustWait (s : State) (i : Instr) (c : Cur) (w : Warp) : Bool :=
  match i with
  | .ld8u pf d a _ _ => s.loadWaits c w pf d a 1
  | .ld8s pf d a _ _ => s.loadWaits c w pf d a 1
  | .ld16u pf d a _ _ => s.loadWaits c w pf d a 2
  | .ld16s pf d a _ _ => s.loadWaits c w pf d a 2
  | .ld32 pf d a _ _ => s.loadWaits c w pf d a 4
  | .ld64 pf d a _ _ => s.loadWaits c w pf d a 8
  | .ld128 pf d a _ _ => s.loadWaits c w pf d a 16
  | .lds32 _ _ _ _ _ => w.full c w.loads
  | .lds128 _ _ _ _ _ => w.full c w.loads
  | .st8 pf d a _ _ => s.storeWaits c w pf d a 1
  | .st16 pf d a _ _ => s.storeWaits c w pf d a 2
  | .st32 pf d a _ _ => s.storeWaits c w pf d a 4
  | .st64 pf d a _ _ => s.storeWaits c w pf d a 8
  | .st128 pf d a _ _ => s.storeWaits c w pf d a 16
  | .sts32 _ _ _ _ _ => w.full c w.stores
  | .sts128 _ _ _ _ _ => w.full c w.stores
  | .atom pf d a b aop width _ cmp =>
    s.memWaits c w pf (atomOnce d a b aop cmp) (4 * wide width) (if d = 0xFF then w.stores else w.loads)
  | .atoms _ d _ _ _ _ _ _ => w.full c (if d = 0xFF then w.stores else w.loads)
  | .brt _ _ => w.splitBlocked c.p c.pc (s.groupsOf i c w)
  | .brf _ _ => w.splitBlocked c.p c.pc (s.groupsOf i c w)
  | .brx _ _ _ => w.splitBlocked c.p c.pc (s.groupsOf i c w)
  | .callx _ _ => w.splitBlocked c.p c.pc (s.groupsOf i c w)
  | .ret _ => w.splitBlocked c.p c.pc (s.groupsOf i c w)
  | .cflushWb a => s.flushWaits c w a
  | .cflushInv a => s.flushWaits c w a
  | .safe _ => w.safeWaits c.p
  | .copy _ _ _ _ tok _ _ _ => s.copyWaits c w tok
  | .gather _ _ _ _ tok _ _ _ _ => s.copyWaits c w tok
  | .scatter _ _ _ _ tok _ _ _ _ _ => s.copyWaits c w tok
  | .tsplit _ _ _ _ tok _ _ _ => s.copyWaits c w tok
  | .mma _ _ _ _ _ => s.tileWaits c w
  | .mmaloop _ _ _ _ _ _ _ => s.tileWaits c w
  | .mdrain d _ b _ _ => s.tileWaits c w || s.dataWaits c w d b
  | .mload _ a b => s.tileWaits c w || s.dataWaits c w a b
  | .mbatch d _ => s.tokenPending w d
  | .maccFree a => s.freeWaits c w a
  | .kstore _ _ _ _ tok _ _ _ _ => s.copyWaits c w tok
  | .bgather _ _ tok _ _ _ _ => s.copyWaits c w tok
  | .launch _ _ => s.boot != .stage3 || !(w.loads.isEmpty && w.stores.isEmpty)
  | .exit => (s.opsOf c.w).any (fun e => !e.2.complete && !s.frozen e.2) || (w.trap.isNone && w.batches.any (fun b => !b.complete))
  | _ => false

/-! ## Running an instruction -/

/-- The privilege of R68 is held; launch privilege by the context (R156). -/
def State.permits (s : State) (w : Warp) (p : Priv) : Bool :=
  match p with
  | .none => true
  | .trapMode => w.trap.isSome
  | .supervisor => w.supervisor
  | .launch => w.launchPriv || (s.ctxOf w.asid).launchPriv

/-- The wrapper of every instruction (R70): privilege (check 5), the operand checks (8 to 11), then the scoreboard, under
which nothing happens yet (R166), then the effect. Without an issuing warp there is nothing to do. -/
def issue (i : Instr) (priv : Priv) (s : State) (body : State → Cur → Warp → State) :
    Host.Outcome State Fault Refusal :=
  match s.cur with
  | none => .fault .noIssuingPath
  | some c =>
    match s.warp? c.w with
    | none => .fault .noIssuingPath
    | some w =>
      if s.permits w priv then
        match checkOf i (s.headerField w Launch.vregs) (s.headerField w Launch.sregs) with
        | some (code, sub) => .next (s.raiseWhole c code sub)
        | none =>
          if s.scoreboard c.w (w.path c.p).replayOp (operandsOf i) || s.mustWait i c w then .next s else .next (body s c w)
      else .next (s.raiseWhole c 0x08 24)

/-- As `issue`, for an instruction that does not judge uncorrectable registers lane by lane: 0x38 in the guarded-on lanes
that read one, and no lane performs (R359). -/
def issueClean (i : Instr) (priv : Priv) (s : State) (body : State → Cur → Warp → State) :
    Host.Outcome State Fault Refusal :=
  issue i priv s (fun s c w =>
    match w.badLanes (operandsOf i) (w.onLanes (prefixOf i) false c) with
    | [] => body s c w
    | l => s.raise c { code := 0x38, sub := 0, lanes := l.foldl (fun (m : Mask) i => m ||| Mask.bit i) 0, addrs := [],
                       other := false } none)

end Sys2Proof.Machine
end

