-- ==== Sys2Proof/Machine/Ready.lean ====
section
/-!
DEFINITION. When a path is ready (R164, R176), which pipe its instruction needs (R164), breakpoints (R375), and the
counts of the watchdog, the handler limit and the overdue limit (R357, R358, R367, R372).
-/
namespace Sys2Proof.Machine

/-! ## Stopped and parked warps -/

/-- The warp is stopped, by a route or by ctx_halt, or it has ended its save routine and waits for its team (R367). -/
def Warp.stopped (w : Warp) : Bool :=
  w.halt.isSome || w.pre == .saved || match w.held with
    | none => false
    | some h => match h.why with
      | .stopped _ _ _ => true
      | _ => false

/-- The warp is between the end of an instruction and what follows from it: trap entry, or the use of a replay entry, waits. -/
def Warp.midway (w : Warp) : Bool :=
  match w.held with
  | none => false
  | some h => match h.why with
    | .entering _ => true
    | .checking _ _ => true
    | _ => false

/-- The warp is parked at MWAIT (R269). -/
def Warp.atMwait (w : Warp) : Bool :=
  match w.held with
  | none => false
  | some h => match h.why with
    | .mwait => true
    | _ => false

/-- A path is parked under R218. -/
def Warp.pathParked (w : Warp) : Bool :=
  w.paths.any (fun q => match q.hold with
    | .parked _ _ _ _ => true
    | _ => false)

/-- A path is held by a debug stop (R373). -/
def Warp.debugHeld (w : Warp) : Bool :=
  w.paths.any (fun q => match q.hold with
    | .debug _ _ _ _ => true
    | _ => false)

/-- A warp is stopped by ctx_halt or by a debug stop: causes 0x50 to 0x54 (R373, R377, R378, R392). -/
def Warp.debugStopped (w : Warp) : Bool :=
  w.debugHeld || w.halt.isSome || match w.held with
    | none => false
    | some h => match h.why with
      | .stopped _ x _ => decide (0x50 ≤ x.code) && decide (x.code ≤ 0x54)
      | _ => false

/-- This device advertises debug hold (R392). -/
def State.advertises (s : State) : Bool := s.warps.any (fun e => e.2.debugStopped)

/-! ## Counts -/

/-- Cycles that a limit register allows; none where it is off (R351, R364). -/
def limitOf (x : Word) : Option Nat := if x = 0 then none else some (x.toNat * 1024)

/-- A count stands at its limit. -/
def atLimit (x : Word) (n : Nat) : Bool := (limitOf x).any (fun l => decide (l ≤ n))

/-- The watchdog count runs (R357, R373, R392). -/
def State.watchRuns (s : State) (w : Warp) : Bool :=
  w.live != 0 && w.trap.isNone && !w.stopped && !w.pathParked && !w.debugHeld && !atLimit (s.ctxOf w.asid).wdog w.watch &&
    !(w.atMwait && s.debugOn w && (s.advertises || s.peerHold.any (fun e => e.2)))

/-- The handler count runs (R358, R367). -/
def Warp.handlerRuns (w : Warp) : Bool :=
  !w.stopped && (w.trap.isSome || match w.pre with
    | .saving _ => true
    | .restoring _ _ _ _ _ => true
    | _ => false)

/-- The overdue count runs (R372): not in save mode, in trap mode or while the warp is stopped. -/
def Warp.overdueRuns (w : Warp) : Bool :=
  w.pending && w.trap.isNone && !w.stopped && !w.debugHeld && (match w.pre with
    | .normal => true
    | .restoring _ _ _ _ _ => true
    | .saving _ => false
    | .saved => false)

/-- The watchdog is due: the count stands at its limit and nothing holds the warp in trap mode, parked or stopped. -/
def State.watchDue (s : State) (w : Warp) : Bool :=
  atLimit (s.ctxOf w.asid).wdog w.watch && w.live != 0 && w.trap.isNone && !w.stopped && !w.pathParked && !w.debugHeld && !w.midway

/-- The handler limit is reached. -/
def State.handlerDue (s : State) (w : Warp) : Bool :=
  w.handlerRuns && !w.midway && atLimit (s.ctxOf w.asid).hlimit w.handler

/-- The overdue limit is reached. -/
def State.overdueDue (s : State) (w : Warp) : Bool :=
  w.overdueRuns && !w.midway && atLimit (s.ctxOf w.asid).overdue w.overdue

/-- A limit stops the warp before it issues again. -/
def State.due (s : State) (w : Warp) : Bool := s.watchDue w || s.handlerDue w || s.overdueDue w

/-! ## Breakpoints -/

/-- An enabled breakpoint matches (R375). -/
def State.breaks (s : State) (w : Warp) (p : Nat) (pc : DWord) : Bool :=
  s.debugOn w && !(w.path p).passBreak &&
    (s.ctxOf w.asid).bp.any (fun b => b.getLsbD 0 && b.extractLsb' 2 62 == pc.extractLsb' 2 62)

/-! ## Pipes -/

/-- Opcode of an instruction behind its prefix; 0 for a step that has no words. -/
def opcodeOf (i : Instr) : Nat :=
  match encode i with
  | [] => 0
  | x :: r => if opcode x = 0xDF then ((r.head?).map opcode).getD 0 else opcode x

/-- Compares (R20). -/
def comparesLanes (i : Instr) : Bool :=
  let op := opcodeOf i
  (decide (0x26 ≤ op) && decide (op ≤ 0x2B)) || (decide (0x49 ≤ op) && decide (op ≤ 0x4C)) || op == 0xC6 || op == 0xC7 || op == 0xCD

/-- Cross-lane instructions (R179 to R182). -/
def crossesLanes (i : Instr) : Bool := (decide (0x90 ≤ opcodeOf i) && decide (opcodeOf i ≤ 0x98)) || opcodeOf i == 0x9F

/-- The instruction issues on the vector pipe (R164): an instruction of the integer or the floating-point chapter (R67) that
executes per lane, or a cross-lane instruction. -/
def vectorPipe (i : Instr) : Bool :=
  let op := opcodeOf i
  let arith := op != 0x2F && (decide (op ≤ 0x5E) || (decide (0xC0 ≤ op) && decide (op ≤ 0xCD)))
  if crossesLanes i then true
  else if op = 0 || !arith then false
  else match operandsOf i with
    | [] => false
    | o :: r => comparesLanes i || !onceR o.code (r.map Opnd.code)

/-- The block in which an access is performed. -/
def State.homeOf (s : State) (a : Access) : Block :=
  s.homeBlock a.place (((a.parts.head?).map Part.off).getD 0) a.remote

/-- The bridge stations between the core of an access and its block (R386). -/
def State.bridgesOf (s : State) (a : Access) : List Block := bridgesTo (coreOfKey a.w) (s.homeOf a)

/-- The block in which an access is performed is awake, and so are the bridge stations on the way to it (R400). -/
def State.wayAwake (s : State) (a : Access) : Bool := !s.asleep (s.homeOf a) && (s.bridgesOf a).all (fun b => !s.asleep b)

/-- The blocks of an access have something to do. -/
def State.touchWay (s : State) (a : Access) : State :=
  (s.homeOf a :: s.bridgesOf a).foldl (fun (s : State) b => s.touch b) s

/-! ## Ready paths -/

/-- Whether a path is ready, and then whether its instruction needs the vector pipe (R164, R166, R176). A path whose words
are not yet at hand is taken so that they are fetched. -/
def State.pathReady (s : State) (key p : Nat) (w : Warp) : Option Bool :=
  if s.pathFree w p then
    if s.breaks w p (w.path p).nextPc then some false
    else match s.fetch key p w (w.path p).nextPc with
      | (.miss _ _, _) => some false
      | (.wait, _) => none
      | (.instr i len, _) =>
        let c := w.curFor key p len
        if s.scoreboard key (w.path p).replayOp (operandsOf i) || s.mustWait i c w then none else some (vectorPipe i)
  else none

/-- What a warp offers: the path of R176, the ready paths, and whether the instruction needs the vector pipe. -/
structure Offer where
  key : Nat
  path : Nat
  ready : List Nat
  vector : Bool
  deriving DecidableEq, Repr

/-- The offer of a warp on a core that is awake; one that is to be halted starts nothing more (R377). -/
def State.offerAwake (s : State) (key : Nat) (w : Warp) : Option Offer :=
  if w.held.isSome || w.halt.isSome || w.halting || w.pre == .saved || s.due w then none
  else
    let rs := (numsFrom 0 8).filterMap (fun p => (s.pathReady key p w).map (fun v => (p, v)))
    let ready := rs.map (fun x => x.1)
    match w.choosePath ready with
    | none => none
    | some p => some { key := key, path := p, ready := ready, vector := (rs.find? (fun x => x.1 == p)).any (fun x => x.2) }

/-- The offer of a warp, if it is ready; a sleeping core offers nothing (R400). -/
def State.offer (s : State) (key : Nat) (w : Warp) : Option Offer :=
  if s.asleep (.core (coreOfKey key)) then none else s.offerAwake key w

/-- The offers of all warps, by key. -/
def State.offers (s : State) : List Offer := s.warps.filterMap (fun e => s.offer e.1 e.2)

/-- The scheduler, a partition of a core, of a warp (R150, R164). -/
def partitionOf (key : Nat) : Nat := key / 16

end Sys2Proof.Machine
end

