-- ==== Sys2Proof/Machine/Lanes.lean ====
section
/-!
DEFINITION. How an instruction runs over its lanes: per lane under the guard (R24, R88), or once per warp (R20, R87).
-/
namespace Sys2Proof.Machine

/-- What a lane's operation ends with: a value and the floating-point exceptions raised, or a cause (R88, R26). -/
inductive Res (α : Type) where
  | ok (x : α) (fl : FpFlags)
  | bad (row code sub : Nat) (addr : DWord)

/-- One lane of a per-lane instruction (R88): `w` is the warp before the instruction, `acc` what the lanes so far made. A
guarded-off lane writes `zero` under zero policy; a lane that reads an uncorrectable register meets 0x38 (R359). -/
def Warp.laneStep {α : Type} (w : Warp) (ops : List Opnd) (guard : Mask) (zeroing : Bool) (f : Nat → Res α)
    (put : Warp → Nat → α → Warp) (zero : α) (acc : Warp × List LaneCause) (i : Nat) : Warp × List LaneCause :=
  if guard.getLsbD i then
    match w.badLanes ops [i] with
    | [] =>
      match f i with
      | .ok x fl => ((put acc.1 i x).orFlags i fl, acc.2)
      | .bad row code sub addr => (acc.1, acc.2 ++ [{ lane := i, row := row, code := code, sub := sub, addr := addr }])
    | _ => (acc.1, acc.2 ++ [{ lane := i, row := 0, code := 0x38, sub := 0, addr := 0 }])
  else (if zeroing then put acc.1 i zero else acc.1, acc.2)

/-- All the lanes of a per-lane instruction: the warp after them and the causes met (R88). -/
def Warp.laneRun {α : Type} (w : Warp) (ops : List Opnd) (guard : Mask) (zeroing : Bool) (lanes : List Nat)
    (f : Nat → Res α) (put : Warp → Nat → α → Warp) (zero : α) : Warp × List LaneCause :=
  lanes.foldl (w.laneStep ops guard zeroing f put zero) (w, [])

/-- The lanes' effects take place; then the instruction retires, or raises what they met (R88, R356). -/
def State.finishLanes (s : State) (c : Cur) (r : Warp × List LaneCause) : State :=
  match joinCauses r.2 with
  | none => (s.setWarp c.w r.1).retire c
  | some x => (s.setWarp c.w r.1).raise c x none

/-- OR exceptions into the `fpflags` of several lanes (R26). -/
def Warp.orFlagsOf (w : Warp) (lanes : List Nat) (fl : FpFlags) : Warp := lanes.foldl (fun w i => w.orFlags i fl) w

/-- An instruction whose operation is a function of the registers: per lane, or once for the issuing path (R87, R88). -/
def runOp {α : Type} (i : Instr) (pf : Option Prefix) (once : Bool) (s : State) (f : Warp → Nat → Res α)
    (put : Warp → Nat → α → Warp) (zero : α) : Host.Outcome State Fault Refusal :=
  issue i .none s (fun s c w =>
    if once then
      match f w 0 with
      | .ok x fl => s.retireWith c (fun w => (put w 0 x).orFlagsOf c.lanes.lanes fl)
      | .bad _ code sub _ => s.raiseWhole c code sub
    else s.finishLanes c (w.laneRun (operandsOf i) (w.guardOf pf) (w.zeroPolicy pf) c.lanes.lanes (f w) put zero))

/-- Write a word destination. -/
def putWord (d : Code) (w : Warp) (l : Nat) (x : Word) : Warp := w.wr d l x
/-- Write a pair destination. -/
def putPair (d : Code) (w : Warp) (l : Nat) (x : DWord) : Warp := w.wrPair d l x
/-- Write a lane's bit of a mask destination (R96). -/
def putBit (d : Code) (w : Warp) (l : Nat) (b : Bool) : Warp := w.wrBit d l b

/-- A word operation. -/
def runWord (i : Instr) (pf : Option Prefix) (once : Bool) (d : Code) (s : State) (f : Warp → Nat → Res Word) :
    Host.Outcome State Fault Refusal := runOp i pf once s f (putWord d) 0

/-- A pair operation. -/
def runPair (i : Instr) (pf : Option Prefix) (once : Bool) (d : Code) (s : State) (f : Warp → Nat → Res DWord) :
    Host.Outcome State Fault Refusal := runOp i pf once s f (putPair d) 0

/-- A compare: one bit per lane, never once per warp (R20, R96, R112). -/
def runBit (i : Instr) (pf : Option Prefix) (d : Code) (s : State) (f : Warp → Nat → Res Bool) :
    Host.Outcome State Fault Refusal := runOp i pf false s f (putBit d) false

end Sys2Proof.Machine
end

