-- ==== Sys2Proof/Machine/Sync.lean ====
section
/-!
DEFINITION. Accesses made within the instruction that issues them: atomics on one word (R183, R267), reads and writes of
records in global memory (R154, R194, R277), and warps of one team (R150, R184, R186, R270).
-/
namespace Sys2Proof.Machine

/-! ## Atomics within an instruction -/

/-- How such an atomic ends: it must wait, it meets a stamp of another size (R246), or it returns the old value. -/
inductive RmwNow where
  | hold
  | mixed (s : State)
  | done (old : Nat) (s : State)

/-- The atomic of an instruction on one unit, after what must precede it (R236, R237). -/
def State.rmwNow (s : State) (c : Cur) (w : Warp) (h : Hit) (n : Nat) (aop : BitVec 4) (x : Nat) (cmp : DWord)
    (acq rel : Bool) (scope : Scope) : RmwNow :=
  let p : Part := { lane := 0, va := 0, voff := 0, off := h.off, size := n, data := bytesOfNat n x }
  let a := { (w.unit c.w c.p 0 (.rmw aop cmp) h [p] n 1) with acq := acq, rel := rel, scope := scope }
  match s.settleFor a with
  | none => .hold
  | some s1 =>
    if w.mixedTrap && s1.mixedSize a p then .mixed s1
    else
      let r := s1.rmwPart a p aop cmp
      .done (natOfBytes r.1) ((r.2.performed 0 a).wakeFor (some (coreOfKey c.w)) h)

/-- An acquire read of one unit as an access. -/
def Warp.acquire (w : Warp) (c : Cur) (h : Hit) (n : Nat) (scope : Scope) : Access × Part :=
  let p : Part := { lane := 0, va := 0, voff := 0, off := h.off, size := n, data := [] }
  ({ (w.unit c.w c.p 0 .load h [p] n 1) with acq := true, scope := scope }, p)

/-- An acquire read of one unit, after what must precede it: none where it must wait. -/
def State.strongRead (s : State) (c : Cur) (w : Warp) (h : Hit) (n : Nat) (scope : Scope) : Option (Nat × State) :=
  let a := w.acquire c h n scope
  (s.settleFor a.1).map (fun s1 =>
    let r := s1.scramble a.1 a.2 (s1.readUnit a.1 a.2.off n)
    (natOfBytes r.1, ((r.2.recordPart a.1 a.2).performed 0 a.1).wakeFor (some (coreOfKey c.w)) h))

/-- An acquire read meets a stamp of another size, where the warp traps those (R246). -/
def State.mixedRead (s : State) (c : Cur) (w : Warp) (h : Hit) (n : Nat) (scope : Scope) : Bool :=
  let a := w.acquire c h n scope
  w.mixedTrap && s.mixedSize a.1 a.2

/-! ## Writes within an instruction -/

/-- How such writes end: the path waits; or causes, with the units that met none; or everything is written. -/
inductive WriteNow where
  | hold (s : State)
  | bad (causes : List LaneCause) (good : List (LaneAddr × Hit)) (s : State)
  | done (s : State)

/-- Weak writes of `n` bytes, checked from row 2 of R143, after everything that must precede them (R237). `data` gives the
bytes of each. Where a response is lost the lane's bytes may have been written as well (R391). -/
def State.writeLanes (s : State) (c : Cur) (w : Warp) (n : Nat) (as : List LaneAddr) (data : Nat → List Byte) : WriteNow :=
  let l := s.lookLanes (w.who c.w c.p) false true n as
  if anyWait l.1 then .hold (l.2.waitFill c w false l.1)
  else
    let r := l.2.laneWays (coreOfKey c.w) false n l.1
    let hits := fun (x : LaneAddr × LaneLook) => match x.2 with
      | .go h => some (x.1, h)
      | _ => none
    if anyWait r.1 then .hold (s.waitIn r.2)
    else match lookCauses r.1 with
      | [] =>
        let hs := r.1.filterMap hits
        let units := hs.map (fun x => w.unit c.w c.p 0 .store x.2
          [{ lane := x.1.lane, va := x.1.va, voff := 0, off := x.2.off, size := n, data := data x.1.lane }] n 0)
        match units.foldl (fun (t : Option State) a => t.bind (fun s => s.settleFor a)) (some r.2) with
        | none => .hold s
        | some s1 =>
          .done (hs.foldl (fun (s : State) x => s.wakeFor (some (coreOfKey c.w)) x.2) (units.foldl (fun (s : State) a => s.perform 0 a) s1))
      | causes =>
        .bad causes ((l.1.filter (fun x => !causes.any (fun y => y.lane == x.1.lane && y.code == 0x2A))).filterMap hits) r.2

/-- The bytes that a failed instruction may have written are undefined (R194, R277). -/
def State.undefineBytes (s : State) (n : Nat) (good : List (LaneAddr × Hit)) : State :=
  good.foldl (fun (s : State) x =>
    let f := s.freeBytes n
    f.2.poke x.2.place x.2.off f.1) s

/-- Consecutive addresses of `k` units of `n` bytes from `va` on; the unit's index stands for the lane. -/
def unitAddrs (va n k : Nat) : List LaneAddr := (numsFrom 0 k).map (fun j => { lane := j, va := va + n * j })

/-- Row 1 of R143 and the watchpoint for a block that is accessed in `k` units of `n` bytes, aligned to `align`. -/
def State.formBlock (s : State) (c : Cur) (w : Warp) (base : DWord) (align n k : Nat) (reads writes : Bool) :
    List LaneCause :=
  if 2 ^ 56 ≤ base.toNat then [{ lane := 0, row := rowForm, code := 0x24, sub := 0, addr := base }]
  else if base.toNat % align ≠ 0 then [{ lane := 0, row := rowForm2, code := 0x20, sub := 0, addr := base }]
  else (unitAddrs base.toNat n k).filterMap (fun a =>
    if 2 ^ 56 ≤ a.va then some { lane := a.lane, row := rowForm, code := 0x24, sub := 0, addr := BitVec.ofNat 64 a.va }
    else if s.watched c w a.va n reads writes then
      some { lane := a.lane, row := rowWatch, code := 0x52, sub := 0, addr := BitVec.ofNat 64 a.va }
    else none)

/-- Raise the cause of a once-per-warp instruction. -/
def State.raiseOnce (s : State) (c : Cur) (xs : List LaneCause) : State :=
  match c.causeOf true xs with
  | some x => s.raise c x none
  | none => s

/-- The bytes of a block read in units. -/
def blockBytes (vals : List (Nat × List Byte)) (k : Nat) : List Byte :=
  (numsFrom 0 k).flatMap (fun j => ((vals.find? (fun v => v.1 == j)).map (fun v => v.2)).getD [])

/-! ## Clearance bitmaps (R154, R232) -/

/-- The lines of a bitmap as weak loads of the path read them, unchecked against any clearance (R154, R232): what must precede them is
performed first, the path's own pending stores are forwarded, and they wait for a line that an engine holds. -/
def State.bitmapLoads (s : State) (c : Cur) (w : Warp) (va k : Nat) : Got Nat :=
  match k with
  | 0 => .ok 0 s
  | k + 1 =>
    match s.resolve w.asid (some w.team) va with
    | (.cause c b, q) => .cause c b q
    | (.absent b _, q) => .cause 0x2F b q
    | (.miss _ _, q) => .wait q
    | (.hit h, q) =>
      match q.way (some (coreOfKey c.w)) h with
      | .cause k b => .cause k b (q.wayUsed (some (coreOfKey c.w)) h)
      | .wait => .wait (q.ask (some (coreOfKey c.w)) h)
      | .go =>
        let y := w.unit c.w c.p 0 .load h [{ lane := 0, va := va, voff := 0, off := h.off, size := 128, data := [] }] 128 0
        match q.settleFor y with
        | none => .wait q
        | some q =>
          if q.badAt h.place h.off 128 then .cause 0x3E 0 q
          else match (q.wakeFor (some (coreOfKey c.w)) h).bitmapLoads c w (va + 128) k with
            | .ok r q2 => .ok (natOfBytes (q.readUnit y h.off 128) + 2 ^ 1024 * r) q2
            | o => o

/-! ## Scratchpad words (R139, R183, R267) -/

/-- The word of a scratchpad offset, checked as a 4-byte access (R139), or its cause. -/
inductive WordAt where
  | at (h : Hit)
  | bad (code : Nat) (addr : DWord)

/-- The lookup of a word named by a uniform register or constant (R139). -/
def State.scratchWord (s : State) (w : Warp) (off : Word) : WordAt :=
  match formScratch off 4 0 (s.headerField w Launch.scratch) (s.twoGroups w) with
  | .bad _ code addr => .bad code addr
  | .at va =>
    match (s.scratchLook w true 4 { lane := 0, va := va }).2 with
    | .go h => .at h
    | .error h _ => .at h
    | _ => .bad 0x39 (BitVec.ofNat 64 va)

/-! ## Warps of a team -/

/-- The key of a workgroup's warp. -/
def Group.keyAt (g : Group) (i : Nat) : Option Nat := (g.slots[i]?).map (fun k => g.core * Config.slotsPerCore + k)

/-- A warp of the same team that has not exited. -/
def State.mate (s : State) (w : Warp) (wg i : Nat) : Option (Nat × Warp) :=
  match (s.group? w.team wg).bind (fun g => g.keyAt i) with
  | none => none
  | some k =>
    match s.warp? k with
    | none => none
    | some x => if x.team = w.team ∧ x.wg = wg ∧ x.warpId = i ∧ x.live ≠ 0 then some (k, x) else none

/-- The warps of a team that have not exited; of one workgroup, where it is named. -/
def State.crew (s : State) (team : Nat) (wg : Option Nat) : List (Nat × Warp) :=
  s.warps.filter (fun e => e.2.team == team && e.2.live != 0 && (wg.isNone || wg == some e.2.wg))

/-- Warps per workgroup of the launch (R150, R156). -/
def State.wgDim (s : State) (w : Warp) : Nat := s.headerField w Launch.wgWarps

/-- Raise a cause of the whole path in a warp that is held at an instruction (R184, R187). -/
def State.raiseHeld (s : State) (key : Nat) (h : Held) (code : Nat) : State :=
  (s.updWarp key (fun w => { w with held := none })).raiseWhole h.cur code 0

/-- Hold the warp at its instruction, which has had no effect (R271). -/
def State.parkAt (s : State) (c : Cur) (why : Why) (i : Instr) : State :=
  s.updWarp c.w (fun w => { w with held := some { why := why, cur := c, i := some i } })

/-- A held instruction retires. -/
def State.unpark (s : State) (key : Nat) : State := s.updWarp key (fun w => { w with held := none })

end Sys2Proof.Machine
end

