-- ==== Sys2Proof/Machine/Partners.lean ====
section
/-!
DEFINITION. Steps that several warps make together: the exchange of XCHGP (R184) and the collective steps of the Aster unit
(R186 to R193, R196). What a warp's exit does to warps that wait for it.
-/
namespace Sys2Proof.Machine

/-! ## Combining (R182, R190) -/

/-- The operators of REDUX, SCAN and the Aster unit, by code. -/
def combine (op mode : Nat) (x y : Word) : Word × FpFlags :=
  let fp := fun (r : Nat × FpFlags) => (BitVec.ofNat 32 r.1, r.2)
  match op with
  | 0 => (x + y, 0)
  | 1 => (if x.toInt ≤ y.toInt then x else y, 0)
  | 2 => (if x ≤ y then x else y, 0)
  | 3 => (if x.toInt ≤ y.toInt then y else x, 0)
  | 4 => (if x ≤ y then y else x, 0)
  | 5 => (x &&& y, 0)
  | 6 => (x ||| y, 0)
  | 7 => (x ^^^ y, 0)
  | 8 => fp (FpFmt.fp32.add mode x.toNat y.toNat)
  | 9 => fp (FpFmt.fp32.minMax false x.toNat y.toNat)
  | _ => fp (FpFmt.fp32.minMax true x.toNat y.toNat)

/-! ## XCHGP (R184) -/

/-- The matching XCHGP: the partner warp is held at one after the same number of exchanges, and is not halted. -/
def State.xchgpPartner (s : State) (w : Warp) : Option (Nat × Warp × Held) :=
  match s.mate w (1 - w.wg) w.warpId with
  | none => none
  | some (k, x) =>
    match x.held with
    | none => none
    | some h => if h.why = .xchgp w.xchgp ∧ x.halt = none ∧ x.halting = false then some (k, x, h) else none

/-- The partner warp has exited. -/
def State.xchgpAlone (s : State) (w : Warp) : Bool := (s.mate w (1 - w.wg) w.warpId).isNone

/-- Lanes of an XCHGP that exchange: in the issuing path and guarded on. -/
def Warp.xchgpOwn (w : Warp) (pf : Option Prefix) (c : Cur) : Mask := c.lanes &&& w.guardOf pf

/-- The registers of one of two matched warps after the exchange; `y`, `hy` and `a2` are the partner's. -/
def Warp.exchange (w : Warp) (pf : Option Prefix) (c : Cur) (d : Code) (y : Warp) (theirs : Mask) (a2 : Code) : Warp :=
  let own := w.xchgpOwn pf c
  let w1 := c.lanes.lanes.foldl (fun (x : Warp) i =>
    if own.getLsbD i then (if theirs.getLsbD i then x.wr d i (y.rd a2 i) else x)
    else if w.zeroPolicy pf then x.wr d i 0 else x) w
  { w1 with xchgp := w1.xchgp + 1, held := none }

/-- Two matched XCHGPs exchange their values and retire. -/
def State.exchange (s : State) (c1 : Cur) (p1 : Option Prefix) (d1 a1 : Code) (c2 : Cur) (p2 : Option Prefix)
    (d2 a2 : Code) : State :=
  match s.warp? c1.w, s.warp? c2.w with
  | some w1, some w2 =>
    let n1 := w1.exchange p1 c1 d1 w2 (w2.xchgpOwn p2 c2) a2
    let n2 := w2.exchange p2 c2 d2 w1 (w1.xchgpOwn p1 c1) a1
    (((s.setWarp c1.w n1).setWarp c2.w n2).retire c1).retire c2
  | _, _ => s

/-! ## Aster deal sets (R186) -/

/-- Warps of a deal set, by its code. -/
def setSize (n : BitVec 2) : Nat := 2 ^ n.toNat

/-- The set size of a collective instruction: EXPAND names it, the others take it from the slice. -/
def Warp.setOf (w : Warp) (i : Instr) : Nat :=
  match i with
  | .expand _ _ n _ => setSize n
  | _ => setSize w.slice.n

/-- The first warp of the set. -/
def Warp.setBase (w : Warp) (n : Nat) : Nat := w.warpId / n * n

/-- What must agree between matched collective instructions (R187): the opcode, and the b byte of EXPAND. -/
def stepCode (i : Instr) : Nat :=
  match i with
  | .expand _ _ n o => 16 + 16 * n.toNat + o.toNat
  | .exnext _ _ _ => 1
  | .exred _ => 2
  | .exfin _ => 3
  | _ => 0

/-- A warp of a deal set that is held at a collective instruction. -/
structure Dealt where
  key : Nat
  w : Warp
  cur : Cur
  i : Instr
  deriving DecidableEq, Repr

/-- The warp as held at a collective instruction. -/
def Warp.dealt (w : Warp) (key : Nat) : Option Dealt :=
  match w.held with
  | none => none
  | some h =>
    match h.why, h.i with
    | .aster, some i => some { key := key, w := w, cur := h.cur, i := i }
    | _, _ => none

/-- The warps of a set that are held, by position. -/
def State.dealtSet (s : State) (w : Warp) (n : Nat) : List Dealt :=
  (numsFrom (w.setBase n) n).filterMap (fun k => (s.mate w w.wg k).bind (fun m => m.2.dealt m.1))

/-- A warp of the set has exited. -/
def State.setBroken (s : State) (w : Warp) (n : Nat) : Bool :=
  (numsFrom (w.setBase n) n).any (fun k => (s.mate w w.wg k).isNone)

/-- The set of `n` warps that a warp belongs to takes in the warp `k`. -/
def Warp.inSet (w : Warp) (n k : Nat) : Bool := decide (w.setBase n ≤ k) && decide (k < w.setBase n + n)

/-- The size of the set that a warp is in: that of the instruction at which it is held, else that of its expansion. -/
def Warp.reach (w : Warp) : Nat :=
  match w.dealt 0 with
  | some d => w.setOf d.i
  | none => if w.slice.active then setSize w.slice.n else 1

/-- The warps whose next step is matched with that of a held warp: those of its set (R187), and, where one of the two has loaded a slice
since its last step, those whose set takes it in (R196) (DEDUCED, log entry 53). -/
def State.mates (s : State) (d : Dealt) : List (Nat × Warp) :=
  (numsFrom (d.w.setBase 4) 4).filterMap (fun k => (s.mate d.w d.w.wg k).bind (fun m =>
    if d.w.inSet (d.w.setOf d.i) k || ((d.w.slice.loaded || m.2.slice.loaded) && m.2.inSet m.2.reach d.w.warpId) then some m
    else none))

/-- A warp is held at EXPAND. -/
def Dealt.expands (d : Dealt) : Bool := decide (16 ≤ stepCode d.i)

/-- A mate has issued the step at which `d` is held: it is held at one too, and not halted; or `d` is at EXPAND and the mate's own
EXPAND, its step 0, has been made already. -/
def Dealt.met (d : Dealt) (m : Nat × Warp) : Bool :=
  match m.2.dealt m.1 with
  | some x => x.w.halt.isNone && !x.w.halting
  | none => d.expands && m.2.slice.active && !m.2.slice.loaded && !d.w.slice.loaded

/-- A mate is held at the same instruction of the same set (R187). -/
def Dealt.agrees (d : Dealt) (m : Nat × Warp) : Bool :=
  match m.2.dealt m.1 with
  | some x => stepCode x.i == stepCode d.i && x.w.setOf x.i == d.w.setOf d.i && d.w.inSet (d.w.setOf d.i) x.w.warpId
  | none => false

/-- Every warp with which a held warp's step is matched has issued it. -/
def State.allMet (s : State) (d : Dealt) : Bool :=
  !s.setBroken d.w (d.w.setOf d.i) && (s.mates d).all d.met

/-- Some warp with which a held warp's step is matched has issued another instruction, or one of another set. -/
def State.differs (s : State) (d : Dealt) : Bool := (s.mates d).any (fun m => !d.agrees m)

/-- The held warps in which a difference is raised: those whose instruction is matched with this one. -/
def State.matched (s : State) (d : Dealt) : List Dealt :=
  ((s.mates d).filterMap (fun m => m.2.dealt m.1)).filter (fun x =>
    d.w.slice.loaded || x.w.slice.loaded || x.expands == d.expands)

/-- A held warp of the block of four whose step is matched with a different one. -/
def State.asterDue (s : State) (w : Warp) : Option Dealt := (s.dealtSet w 4).find? (fun d => s.allMet d && s.differs d)

/-- The step of a held warp can be made: all that it is matched with have issued it, and a difference is found, or all of its set
agree (DEDUCED, log entry 53). -/
def State.asterReady (s : State) (key : Nat) : Bool :=
  match (s.warp? key).bind (fun w => w.dealt key) with
  | none => false
  | some d => s.allMet d && (s.differs d || (s.dealtSet d.w (d.w.setOf d.i)).all (fun x => s.allMet x && !s.differs x))

/-! ## Totals (R188, R189) -/

/-- The lengths of the owners of a set, in slot order. -/
def setLens (ds : List Dealt) : List Nat := ds.flatMap (fun d => allLanes.map (fun i => (Assoc.get d.w.slice.ln 0 i).toNat))

/-- Owner and offset of a flat index. -/
def ownerOf (lens : List Nat) (f o : Nat) : Nat × Nat :=
  match lens with
  | [] => (o, f)
  | n :: r => if f < n then (o, f) else ownerOf r (f - n) (o + 1)

/-- Rounds that deal `t` items to `l` slots. -/
def roundsOf (t l : Nat) : Nat := (t + l - 1) / l

/-- The items of round `r`, lane by lane, of the warp at position `p`. -/
def dealItems (t l r p : Nat) : Assoc Nat :=
  (allLanes.filter (fun i => decide (r * l + p * 32 + i < t))).map (fun i => (i, r * l + p * 32 + i))

/-- The items that a cursor stands for (R195). -/
def itemsAt (t l cursor p : Nat) : Assoc Nat := if cursor = 0 then [] else dealItems t l (cursor - 1) p

/-- The lists of the members with their positions. -/
def withPos {α : Type} (xs : List α) (p : Nat) : List (Nat × α) :=
  match xs with
  | [] => []
  | x :: r => (p, x) :: withPos r (p + 1)

/-! ## The steps -/

/-- The identity of an operator (R190). -/
def asterIdentity (op : Nat) : Word :=
  match op with
  | 0 => 0
  | 1 => 0x7FFFFFFF
  | 2 => 0xFFFFFFFF
  | 3 => 0x80000000
  | 4 => 0
  | 8 => 0x80000000
  | 9 => 0x7F800000
  | _ => 0xFF800000

/-- The operator codes of R190. -/
def asterOpOk (op : Nat) : Bool := decide (op ≤ 4) || op == 8 || op == 9 || op == 10

/-- The start and length that a lane supplies at EXPAND, 0 where it is guarded off (R190). -/
def Dealt.supply (d : Dealt) (a : Code) (i : Nat) : Word × Word :=
  if (d.w.guardOf none).getLsbD i then ((d.w.rdPair a i).lo, (d.w.rdPair a i).hi) else (0, 0)

/-- The start pair named by an EXPAND. -/
def Dealt.source (d : Dealt) : Code :=
  match d.i with
  | .expand _ a _ _ => a
  | _ => 0xFF

/-- A member after EXPAND: its slice and d (R190). -/
def Dealt.expand (d : Dealt) (nr : Nat) : Warp :=
  match d.i with
  | .expand dst a n o =>
    let put := fun (f : Nat → Word) => allLanes.foldl (fun (m : Assoc Word) i => Assoc.set m 0 i (f i)) []
    let sl : Slice :=
      { st := put (fun i => (d.supply a i).1), ln := put (fun i => (d.supply a i).2)
        acc := put (fun _ => asterIdentity o.toNat), item := [], cursor := 0, active := true, op := o, n := n
        loaded := false }
    { (d.w.wr dst 0 (BitVec.ofNat 32 nr)) with slice := sl }
  | _ => d.w

/-- A member after EXNEXT (R191): `lens` and `starts` are the set's, `p` its position. -/
def Dealt.next (d : Dealt) (lens : List Nat) (starts : List Word) (p : Nat) : Warp :=
  match d.i with
  | .exnext dst a b =>
    let t := lens.foldl (fun n x => n + x) 0
    let nr := roundsOf t lens.length
    let cur := d.w.slice.cursor
    let dealt := decide (cur < nr)
    let items := if dealt then dealItems t lens.length cur p else []
    let w1 := allLanes.foldl (fun (w : Warp) i =>
      match Assoc.at? items i with
      | some f =>
        let o := ownerOf lens f 0
        ((w.wr dst i ((starts[o.1]?).getD 0 + BitVec.ofNat 32 o.2)).wr a i (BitVec.ofNat 32 o.1)).wrBit b i true
      | none => w.wrBit b i false) d.w
    { w1 with slice := { w1.slice with cursor := if dealt then cur + 1 else nr + 1, item := items }, span := dealt }
  | _ => d.w

/-- The value a lane contributes at EXRED. -/
def Dealt.gives (d : Dealt) (i : Nat) : Word :=
  match d.i with
  | .exred a => d.w.rd a i
  | _ => 0

/-- The contributions of EXRED in ascending flat index: owner and value (R192). -/
def contributions (ds : List Dealt) (lens : List Nat) : List (Nat × Word) :=
  ds.flatMap (fun d => (allLanes.filter (fun i => (d.w.guardOf none).getLsbD i)).filterMap (fun i =>
    (Assoc.at? d.w.slice.item i).map (fun f => ((ownerOf lens f 0).1, d.gives i))))

/-- A member's accumulators after the contributions to its owners. -/
def Dealt.reduce (d : Dealt) (p : Nat) (cs : List (Nat × Word)) : Warp :=
  let acc := cs.foldl (fun (m : Assoc Word) c =>
    if c.1 / 32 = p then
      Assoc.set m 0 (c.1 % 32) (combine d.w.slice.op.toNat 0 (Assoc.get m 0 (c.1 % 32)) c.2).1
    else m) d.w.slice.acc
  { d.w with slice := { d.w.slice with acc := acc } }

/-- A member after EXFIN (R193). -/
def Dealt.finish (d : Dealt) : Warp :=
  match d.i with
  | .exfin dst =>
    let w1 := allLanes.foldl (fun (w : Warp) i => w.wr dst i (Assoc.get d.w.slice.acc 0 i)) d.w
    { w1 with slice := { w1.slice with active := false, cursor := 0, item := [] } }
  | _ => d.w

/-- The check of a set in which a slice was loaded (R196). -/
def loadedBad (ds : List Dealt) : Option Nat :=
  match ds with
  | [] => none
  | d :: r =>
    if (d :: r).any (fun x => x.w.slice.loaded) then
      let lens := setLens (d :: r)
      let t := lens.foldl (fun n x => n + x) 0
      if (d :: r).any (fun x => !x.w.slice.active || x.w.slice.op != d.w.slice.op || x.w.slice.n != d.w.slice.n ||
          x.w.slice.cursor != d.w.slice.cursor) then some 0x1C
      else if 2 ^ 32 ≤ t then some 0x11
      else if roundsOf t lens.length + 1 < d.w.slice.cursor then some 0x1C
      else none
    else none

/-- The members with the items that their cursor stands for, after a load (R195, R196). -/
def reloaded (ds : List Dealt) : List Dealt :=
  if ds.any (fun x => x.w.slice.loaded) then
    let lens := setLens ds
    let t := lens.foldl (fun n x => n + x) 0
    (withPos ds 0).map (fun x =>
      { x.2 with w := { x.2.w with slice := { x.2.w.slice with item := itemsAt t lens.length x.2.w.slice.cursor x.1
                                                               loaded := false } } })
  else ds

/-- Raise a cause in every held member. -/
def State.raiseSet (s : State) (ds : List Dealt) (code : Nat) : State :=
  ds.foldl (fun (s : State) d => (s.unpark d.key).raiseWhole d.cur code 0) s

/-- The members as the step leaves them, or the cause that the step raises in every one. -/
def asterStep (ds : List Dealt) : Nat ⊕ List Warp :=
  match ds with
  | [] => .inr []
  | d :: _ =>
    let lens := setLens ds
    match d.i with
    | .expand _ _ _ _ =>
      let t := (ds.flatMap (fun x => allLanes.map (fun i => (x.supply x.source i).2.toNat))).foldl (fun n x => n + x) 0
      if 2 ^ 32 ≤ t then .inl 0x11 else .inr (ds.map (fun x => x.expand (roundsOf t (32 * ds.length))))
    | .exnext _ _ _ =>
      let starts := ds.flatMap (fun x => allLanes.map (fun i => Assoc.get x.w.slice.st 0 i))
      .inr ((withPos ds 0).map (fun x => x.2.next lens starts x.1))
    | .exred _ => .inr ((withPos ds 0).map (fun x => x.2.reduce x.1 (contributions ds lens)))
    | .exfin _ => .inr (ds.map (fun x => x.finish))
    | _ => .inr (ds.map (fun x => x.w))

/-- The step of a set whose warps are all held (R187): one action, or a cause in every warp of the set. Where instructions differ
after an EXLOAD and T overflows as well, the difference comes first (DESIGN CHOICE, log entry 69). -/
def State.asterMatch (s : State) (key : Nat) : State :=
  match (s.warp? key).bind (fun w => w.dealt key) with
  | none => s
  | some d =>
    let ds := s.dealtSet d.w (d.w.setOf d.i)
    if s.differs d then s.raiseSet (s.matched d) 0x1C
    else match (if 16 ≤ stepCode d.i then none else loadedBad ds) with
      | some code => s.raiseSet ds code
      | none =>
        match asterStep (if 16 ≤ stepCode d.i then ds else reloaded ds) with
        | .inl code => s.raiseSet ds code
        | .inr ws =>
          let s1 := (ds.zip ws).foldl (fun (s : State) x => s.setWarp x.1.key { x.2 with held := none }) s
          ds.foldl (fun (s : State) x => s.retire x.cur) s1

/-! ## Exits (R184, R187) -/

/-- A warp has exited: a partner that waits at XCHGP meets 0x4D, the warps held in a deal set that it belonged to meet
0x1C. -/
def State.exited (s : State) (key : Nat) (gone : Warp) : State :=
  let waiting := (s.crew gone.team none).filterMap (fun e =>
    match e.2.held with
    | none => none
    | some h => match h.why, h.i with
      | .xchgp _, _ => if e.2.wg = 1 - gone.wg ∧ e.2.warpId = gone.warpId then some (e.1, h, 0x4D) else none
      | .aster, some i =>
        let n := e.2.setOf i
        if e.2.wg = gone.wg ∧ e.2.setBase n ≤ gone.warpId ∧ gone.warpId < e.2.setBase n + n then some (e.1, h, 0x1C)
        else none
      | _, _ => none)
  waiting.foldl (fun (s : State) x => if x.1 = key then s else s.raiseHeld x.1 x.2.1 x.2.2) s

end Sys2Proof.Machine
end

