-- ==== Sys2Proof/Machine/Aster.lean ====
section
/-!
DEFINITION. The Aster unit's instructions (R186 to R199).
-/
namespace Sys2Proof.Machine

/-! ## Collective steps -/

/-- A collective instruction that has passed its own checks (R187): all 32 lanes of the warp must be in the path and no warp
of the set gone, else 0x1C; then the warp holds, and the step is made once all that it is matched with have issued it. A difference is
raised first. -/
def State.collective (s : State) (c : Cur) (w : Warp) (i : Instr) : State :=
  if (w.path c.p).mask ≠ Mask.full ∨ s.setBroken w (w.setOf i) = true then s.raiseWhole c 0x1C 0
  else
    let s1 := s.parkAt c .aster i
    match s1.asterDue w with
    | some d => s1.asterMatch d.key
    | none => if s1.asterReady c.w then s1.asterMatch c.w else s1

/-- The issue of a collective instruction ends the attribution span (R197), before any cause of its own. -/
def State.closeSpan (s : State) (i : Instr) : State :=
  match s.cur with
  | none => s
  | some c =>
    match s.warp? c.w with
    | none => s
    | some w =>
      if (checkOf i (s.headerField w Launch.vregs) (s.headerField w Launch.sregs)).isNone &&
          s.scoreboard c.w (w.path c.p).replayOp (operandsOf i) then s
      else s.setWarp c.w { w with span := false }

/-- EXPAND (R190). -/
def execExpand (d a : BitVec 8) (n : BitVec 2) (o : BitVec 4) (s : State) : Host.Outcome State Fault Refusal :=
  let i : Instr := .expand d a n o
  issueClean i .none (s.closeSpan i) (fun s c w =>
    if asterOpOk o.toNat = false then s.raiseWhole c 0x1F 0
    else if n = 3 then s.raiseWhole c 0x1C 0
    else if w.slice.active then s.raiseWhole c 0x1C 0
    else if s.wgDim w < w.setBase (setSize n) + setSize n then s.raiseWhole c 0x1C 0
    else s.collective c w i)

/-- A collective instruction within an expansion: without one it raises 0x1B (R191 to R193). -/
def withinExpansion (i : Instr) (s : State) : Host.Outcome State Fault Refusal :=
  issueClean i .none (s.closeSpan i) (fun s c w =>
    if w.slice.active then s.collective c w i else s.raiseWhole c 0x1B 0)

def execExnext (d a b : BitVec 8) (s : State) : Host.Outcome State Fault Refusal := withinExpansion (.exnext d a b) s
def execExred (a : BitVec 8) (s : State) : Host.Outcome State Fault Refusal := withinExpansion (.exred a) s
def execExfin (d : BitVec 8) (s : State) : Host.Outcome State Fault Refusal := withinExpansion (.exfin d) s

def execAsterStepMatch (key : Nat) (s : State) : Host.Outcome State Fault Refusal :=
  if s.asterReady key then .next (s.asterMatch key) else .refused .notEnabled

/-! ## The Aster image (R194 to R196) -/

/-- 32 words of 4 bytes. -/
def laneWords (f : Nat → Word) : List Byte := allLanes.flatMap (fun i => bytesOfNat 4 (f i).toNat)

/-- The image of a slice (R195); an inactive slice is all zeros. -/
def Warp.image (w : Warp) : List Byte :=
  let x := w.slice
  if x.active then
    laneWords (fun i => Assoc.get x.st 0 i) ++ laneWords (fun i => Assoc.get x.ln 0 i) ++
      laneWords (fun i => Assoc.get x.acc 0 i) ++ bytesOfNat 4 x.cursor ++
      bytesOfNat 4 (2 ^ 31 + x.n.toNat * 4096 + x.op.toNat * 256 + w.warpId % setSize x.n)
  else zeros 392

/-- EXSAVE (R194): the image is written and acknowledged within the instruction; a cause leaves the slice, and what was
written is undefined. -/
def execExsave (a : BitVec 8) (s : State) : Host.Outcome State Fault Refusal :=
  issue (.exsave a) .none s (fun s c w =>
    let base := w.rdPair a 0
    match s.formBlock c w base 8 8 49 false true with
    | [] =>
      match s.writeLanes c w 8 (unitAddrs base.toNat 8 49) (fun j => sliceBytes w.image (8 * j) 8) with
      | .hold q => q
      | .bad causes good q => (q.undefineBytes 8 good).raiseOnce c causes
      | .done q => q.retire c
    | xs => s.raiseOnce c xs)

/-- 32 words of an image. -/
def imageWords (bs : List Byte) (off : Nat) : Assoc Word :=
  allLanes.foldl (fun (m : Assoc Word) i => Assoc.set m 0 i (BitVec.ofNat 32 (fieldOf bs (off + 4 * i) 4))) []

/-- The checks of an image (R196): none where it is accepted. -/
def State.imageCause (s : State) (w : Warp) (bs : List Byte) : Option Nat :=
  let control : Word := BitVec.ofNat 32 (fieldOf bs 0x184 4)
  let n := (control.extractLsb' 12 2).toNat
  let size := 2 ^ n
  if control.getLsbD 31 = false ∧ bs.any (fun b => b != 0) = true then some 0x1C
  else if control &&& 0x7FFFC0FC ≠ 0 ∨ n = 3 then some 0x1C
  else if control.getLsbD 31 = false then none
  else if asterOpOk (control.extractLsb' 8 4).toNat = false then some 0x1F
  else if (control.extractLsb' 0 2).toNat ≠ w.warpId % size ∨ s.wgDim w < w.setBase size + size then some 0x1C
  else none

/-- The slice that an image holds (R195), without its items. -/
def sliceOfImage (bs : List Byte) : Slice :=
  let control : Word := BitVec.ofNat 32 (fieldOf bs 0x184 4)
  { st := imageWords bs 0, ln := imageWords bs 0x80, acc := imageWords bs 0x100, item := [],
    cursor := fieldOf bs 0x180 4, active := control.getLsbD 31, op := control.extractLsb' 8 4,
    n := control.extractLsb' 12 2, loaded := true }

/-- The items that a loaded slice's cursor stands for, by the lengths that the set's slices hold (R188, R195). -/
def State.loadedItems (s : State) (w : Warp) (x : Slice) : Assoc Nat :=
  let n := setSize x.n
  let lens := (numsFrom (w.setBase n) n).flatMap (fun k =>
    let ln := if k = w.warpId then x.ln else ((s.mate w w.wg k).map (fun m => m.2.slice.ln)).getD []
    allLanes.map (fun i => (Assoc.get ln 0 i).toNat))
  if x.active then itemsAt (lens.foldl (fun n x => n + x) 0) lens.length x.cursor (w.warpId % n) else []

/-- EXLOAD (R194, R196). -/
def execExload (a : BitVec 8) (s : State) : Host.Outcome State Fault Refusal :=
  issue (.exload a) .none s (fun s c w =>
    let base := w.rdPair a 0
    match s.formBlock c w base 8 8 49 true false with
    | [] =>
      match s.readLanes c w true 8 (unitAddrs base.toNat 8 49) with
      | .hold q => q
      | .done vals [] q =>
        let bs := blockBytes vals 49
        match s.imageCause w bs with
        | some code => q.raiseWhole c code 0
        | none =>
          let x := sliceOfImage bs
          (q.updWarp c.w (fun w => { w with slice := { x with item := q.loadedItems w x } })).retire c
      | .done _ causes q => q.raiseOnce c causes
    | xs => s.raiseOnce c xs)

end Sys2Proof.Machine
end

