-- ==== Sys2Proof/Machine/Atomics.lean ====
section
/-!
DEFINITION. Atomics (R259 to R264), FENCE (R265), barrier words (R266 to R268), MWAIT (R269) and BAR (R270, R271).
-/
namespace Sys2Proof.Machine

/-! ## ATOM and ATOMS -/

/-- The value that an operand of an atomic supplies in a lane. -/
def Warp.rdWide (w : Warp) (width : BitVec 2) (c : Code) (l : Nat) : Nat :=
  if width = 0 then (w.rd c l).toNat else (w.rdPair c l).toNat

/-- What an atomic is as a memory instruction: a load, or a store where d is z (R261). -/
def atomMem (d : Code) (width : BitVec 2) (once : Bool) : Mem :=
  { isLoad := d != 0xFF, d := d, size := 4 * wide width, signed := false, order := 1, once := once }

/-- The scope of an atomic's order code (R259); on a scratchpad device and system act as team (R250). -/
def atomScope (order : BitVec 3) (scratch : Bool) : Scope :=
  match order.toNat % 4 with
  | 0 => .wg
  | 1 => .team
  | 2 => if scratch then .team else .device
  | _ => if scratch then .team else .system

/-- The lanes of an atomic issue their events (R261, R264). An arrival is performed before the instruction retires. -/
def State.issueAtomic (s : State) (c : Cur) (w : Warp) (pf : Option Prefix) (m : Mem) (b cmp : Code) (aop : BitVec 4)
    (width : BitVec 2) (order : BitVec 3) (scratch : Bool) (early : List LaneCause) (ls : List (LaneAddr × LaneLook)) : State :=
  s.issueAccesses c w pf m early ls .load (fun l => bytesOfNat m.size (w.rdWide width b l)) false true
    (fun x => { x with kind := .rmw aop (BitVec.ofNat 64 (((x.parts.head?).map (fun p => w.rdWide width cmp p.lane)).getD 0))
                       strong := true, acq := decide (4 ≤ order.toNat), rel := decide (4 ≤ order.toNat)
                       scope := atomScope order scratch })
    (aop == 0xE) (decide (4 ≤ order.toNat))

/-- The operator does not work at 64 bits (R260). -/
def atomUnsupported (aop : BitVec 4) (width : BitVec 2) : Bool := width != 0 && decide (0xA ≤ aop.toNat)

def execAtom (pf : Option Prefix) (d a b : BitVec 8) (aop : BitVec 4) (width : BitVec 2) (order : BitVec 3) (c : BitVec 8)
    (s : State) : Host.Outcome State Fault Refusal :=
  let i : Instr := .atom pf d a b aop width order c
  issue i .none s (fun s k w =>
    if atomUnsupported aop width then s.raiseWhole k 0x26 0
    else
      let m := atomMem d width (atomOnce d a b aop c)
      let f := s.formLanes k w (operandsOf i) (w.onLanes pf m.once k) true true true m.size
        (fun l => formGlobal (w.rdPair a l) m.size 0)
      let r := s.lookLanes (w.who k.w k.p) true true m.size f.2
      if anyWait r.1 then r.2.waitFill k w false r.1
      else r.2.issueAtomic k w pf m b c aop width order false f.1 r.1)

def execAtoms (pf : Option Prefix) (d a b : BitVec 8) (aop : BitVec 4) (width : BitVec 2) (order : BitVec 3) (c : BitVec 8)
    (s : State) : Host.Outcome State Fault Refusal :=
  let i : Instr := .atoms pf d a b aop width order c
  issue i .none s (fun s k w =>
    if atomUnsupported aop width then s.raiseWhole k 0x26 0
    else
      let m := atomMem d width (atomOnce d a b aop c)
      let f := s.formLanes k w (operandsOf i) (w.onLanes pf m.once k) false true true m.size
        (fun l => formScratch (w.rd a l) m.size 0 (s.headerField w Launch.scratch) (s.twoGroups w))
      s.issueAtomic k w pf m b c aop width order true f.1 (f.2.map (s.scratchLook w true m.size)))

/-! ## FENCE -/

/-- FENCE (R265): kind 0 full, 1 acquire, 2 release, in the order of the issuing path, toward the agents of its scope (R240). -/
def execFence (k : BitVec 2) (sc : BitVec 3) (s : State) : Host.Outcome State Fault Refusal :=
  issue (.fence k sc) .none s (fun s c w =>
    let scope := Scope.ofFence sc.toNat
    let f : Fence := { w := c.w, seg := ((w.path c.p).segs[0]?).getD 0, seq := w.seq, kind := k.toNat, scope := scope }
    let s1 := ({ s with fences := s.fences ++ [f] }).sweepFences
    s1.retireWith c (fun w =>
      { w with seq := w.seq + 1, marks := w.marks ++ [{ seg := f.seg, seq := f.seq, kind := f.kind, scope := scope }] }))

/-! ## ARRIVE and WAITB -/

/-- ARRIVE (R267): one atomic with release, made in this step. -/
def execArrive (d a b : BitVec 8) (s : State) : Host.Outcome State Fault Refusal :=
  issue (.arrive d a b) .none s (fun s c w =>
    match s.scratchWord w (w.rd a 0) with
    | .bad code va => s.raiseAt c code 0 va.toNat
    | .at h =>
      match s.rmwNow c w h 4 0xE (w.rd b 0).toNat 0 false true .team with
      | .hold => s
      | .mixed _ => s.raiseAt c 0x25 0 (w.rd a 0).toNat
      | .done old q =>
        match arriveWord (BitVec.ofNat 32 old) (w.rd b 0).toNat with
        | none => s.raiseAt c 0x2C 0 (w.rd a 0).toNat
        | some _ =>
          if s.badAt h.place h.off 4 then s.raiseAt c 0x39 0 (w.rd a 0).toNat
          else (q.updWarp c.w (fun w => { (w.wr d 0 (BitVec.ofNat 32 old)) with seq := w.seq + 1 })).retireSync c)

/-- What the read of a WAITB or MWAIT finds. -/
inductive WaitRead where
  | hold (s : State)
  | bad (code sub : Nat) (addr : DWord) (s : State)
  | got (word : Word) (denied : Bool) (s : State)

/-- A WAITB reads its word with acquire at team scope (R268). -/
def State.readBarrier (s : State) (c : Cur) (w : Warp) (cnt : Bool) (a b : Code) : WaitRead :=
  let va : DWord := (w.rd a 0).setWidth 64
  match s.scratchWord w (w.rd a 0) with
  | .bad code va => .bad code 0 va s
  | .at h =>
    if s.mixedRead c w h 4 .team then .bad 0x25 0 va s
    else match s.strongRead c w h 4 .team with
      | none => .hold s
      | some (v, q) =>
        if wordMalformed (BitVec.ofNat 32 v) || (cnt && (w.rd b 0).extractLsb' 12 20 != 0) then .bad 0x2C 0 va s
        else if s.badAt h.place h.off 4 then .bad 0x39 0 va s
        else .got (BitVec.ofNat 32 v) false q

/-- The word releases a WAITB; `phase0` is the phase read at issue (R268). -/
def waitbMet (cnt : Bool) (b word : Word) (phase0 : Nat) : Bool :=
  if cnt then decide ((b.extractLsb' 0 12).toNat ≤ (word.extractLsb' 0 12).toNat) ||
    decide ((word.extractLsb' 24 8).toNat ≠ phase0)
  else word.extractLsb' 24 8 != b.extractLsb' 0 8

/-- WAITB (R268, R271): released at once by a word that satisfies it, else the warp parks. -/
def waitBarrier (i : Instr) (cnt : Bool) (a b : Code) (s : State) : Host.Outcome State Fault Refusal :=
  issue i .none s (fun s c w =>
    match s.readBarrier c w cnt a b with
    | .hold q => q
    | .bad code sub va q => q.raiseAt c code sub va.toNat
    | .got word _ q =>
      let phase := (word.extractLsb' 24 8).toNat
      let q1 := q.updWarp c.w (fun w => { w with seq := w.seq + 1 })
      if waitbMet cnt (w.rd b 0) word phase then q1.retireSync c else q1.parkAt c (.waitb phase) i)

def execWaitbPh (a b : BitVec 8) (s : State) : Host.Outcome State Fault Refusal := waitBarrier (.waitbPh a b) false a b s
def execWaitbCnt (a b : BitVec 8) (s : State) : Host.Outcome State Fault Refusal := waitBarrier (.waitbCnt a b) true a b s

/-- The next read of a parked WAITB: none where the warp is not parked at one or stays parked; else the state after it. -/
def State.waitbTry (s : State) (key : Nat) : Option State :=
  match s.warp? key with
  | none => none
  | some w =>
    match w.held with
    | none => none
    | some h =>
      let go := fun (cnt : Bool) (a b : Code) (phase0 : Nat) =>
        match s.readBarrier h.cur w cnt a b with
        | .hold _ => none
        | .bad code sub va q => some ((q.unpark key).raiseAt h.cur code sub va.toNat)
        | .got word _ q =>
          if waitbMet cnt (w.rd b 0) word phase0 then
            some (((q.unpark key).updWarp key (fun w => { w with seq := w.seq + 1 })).retireSync h.cur)
          else none
      if w.halt.isSome then none
      else match h.why, h.i with
        | .waitb p, some (.waitbPh a b) => go false a b p
        | .waitb p, some (.waitbCnt a b) => go true a b p
        | _, _ => none

def execWaitbRelease (key : Nat) (s : State) : Host.Outcome State Fault Refusal :=
  match s.waitbTry key with
  | some t => .next t
  | none => .refused .notEnabled

/-! ## MWAIT -/

/-- An MWAIT reads its word with acquire at system scope, checked as a weak LD.32 (R143, R269); a denied read sees zero. -/
def State.readMwait (s : State) (c : Cur) (w : Warp) (a : Code) : WaitRead :=
  let x := w.rdPair a 0
  let go := fun (h : Hit) (absent : Option Nat) (q : State) =>
    match q.cleared (coreOfKey c.w) w.asid (some w.team) w.clearance h.tag with
    | .cause k b q => WaitRead.bad k b x q
    | .wait q => .hold q
    | .ok false q => .got 0 true q
    | .ok true q =>
      match absent with
      | some b => .bad 0x2F b x q
      | none =>
        if q.mixedRead c w h 4 .system then .bad 0x25 0 x q
        else match q.way (some (coreOfKey c.w)) h with
          | .cause k b => .bad k b x (q.wayUsed (some (coreOfKey c.w)) h)
          | .wait => .hold (q.ask (some (coreOfKey c.w)) h)
          | .go =>
            if q.badAt h.place h.off 4 then .bad (q.errorCode h.place h.off 4) 0 x q
            else match q.strongRead c w h 4 .system with
              | none => .hold q
              | some (v, q2) => .got (BitVec.ofNat 32 v) false q2
  match formGlobal x 4 0 with
  | .bad _ code _ => .bad code 0 x s
  | .at va =>
    if s.watched c w va 4 true false then .bad 0x52 0 x s
    else match s.resolve w.asid (some w.team) va with
      | (.miss _ _, q) => .hold q
      | (.cause k b, q) => .bad k b x q
      | (.absent b h, q) => go h (some b) q
      | (.hit h, q) => go h none q

/-- The word releases an MWAIT. -/
def mwaitMet (geu : Bool) (b word : Word) : Bool := if geu then decide (b ≤ word) else word != b

/-- A denied read appends one event, at the first evaluation only (R269). -/
def State.mwaitLog (s : State) (c : Cur) (w : Warp) (a : Code) (denied : Bool) : State :=
  let va := (w.rdPair a 0).toNat
  if denied then
    match s.look w.asid (some w.team) va with
    | .hit h => s.permEvent (w.who c.w c.p) false (va / 128 * 128) h.tag 0 (w.path c.p).mask
    | .absent _ h => s.permEvent (w.who c.w c.p) false (va / 128 * 128) h.tag 0 (w.path c.p).mask
    | _ => s
  else s

/-- MWAIT (R269, R271): released at once by a word that satisfies it, else the warp parks. -/
def mwaitOp (i : Instr) (geu : Bool) (a b : Code) (s : State) : Host.Outcome State Fault Refusal :=
  issue i .none s (fun s c w =>
    match s.readMwait c w a with
    | .hold q => q
    | .bad code sub va q => q.raiseAt c code sub va.toNat
    | .got word denied q =>
      let q1 := (q.mwaitLog c w a denied).updWarp c.w (fun w => { w with seq := w.seq + 1 })
      if mwaitMet geu (w.rd b 0) word then q1.retireSync c else q1.parkAt c .mwait i)

def execMwaitNe (a b : BitVec 8) (s : State) : Host.Outcome State Fault Refusal := mwaitOp (.mwaitNe a b) false a b s
def execMwaitGeu (a b : BitVec 8) (s : State) : Host.Outcome State Fault Refusal := mwaitOp (.mwaitGeu a b) true a b s

/-- The next read of a parked MWAIT: none where the warp is not parked at one or stays parked; else the state after it. -/
def State.mwaitTry (s : State) (key : Nat) : Option State :=
  match s.warp? key with
  | none => none
  | some w =>
    match w.held with
    | none => none
    | some h =>
      let go := fun (geu : Bool) (a b : Code) =>
        match s.readMwait h.cur w a with
        | .hold q => s.newWait q
        | .bad code sub va q => some ((q.unpark key).raiseAt h.cur code sub va.toNat)
        | .got word _ q =>
          if mwaitMet geu (w.rd b 0) word then
            some (((q.unpark key).updWarp key (fun w => { w with seq := w.seq + 1 })).retireSync h.cur)
          else none
      if w.halt.isSome then none
      else match h.why, h.i with
        | .mwait, some (.mwaitNe a b) => go false a b
        | .mwait, some (.mwaitGeu a b) => go true a b
        | _, _ => none

def execMwaitRelease (key : Nat) (s : State) : Host.Outcome State Fault Refusal :=
  match s.mwaitTry key with
  | some t => .next t
  | none => .refused .notEnabled

/-! ## BAR -/

/-- Save and restore mode keep their own counts, and their BARs match only those of the same mode (R367). -/
def Warp.barMode (w : Warp) : Nat :=
  match w.pre with
  | .normal => 0
  | .saving _ => 1
  | .saved => 1
  | .restoring _ _ _ _ _ => 2

/-- BARs of a scope that the warp has retired in a mode. -/
def Warp.barsIn (w : Warp) (mode : Nat) (team : Bool) : Nat :=
  match mode with
  | 0 => if team then w.barTeam else w.barWg
  | 1 => if team then w.barTeamPre else w.barWgPre
  | _ => if team then w.barTeamRes else w.barWgRes

/-- BARs of a scope that the warp has retired in its mode. -/
def Warp.bars (w : Warp) (team : Bool) : Nat := w.barsIn w.barMode team

/-- The warp is parked at a BAR of a scope. -/
def Warp.atBar (w : Warp) (team : Bool) : Bool :=
  match w.held with
  | none => false
  | some h => match h.why with
    | .bar t _ => t == team
    | _ => false

/-- BARs of a scope that the warp has issued in a mode: those retired, and the one at which it is parked, or was parked when
it entered save (R271). -/
def Warp.barsIssued (w : Warp) (mode : Nat) (team : Bool) : Nat :=
  w.barsIn mode team + (if (w.barMode == mode && w.atBar team) || (mode == 0 && w.barArrived == some team) then 1 else 0)

/-- Warps of an instance: of the workgroup, or of the team (R270). -/
def State.barCrew (s : State) (w : Warp) (team : Bool) : List (Nat × Warp) :=
  s.warps.filter (fun e => e.2.team == w.team && (team || e.2.wg == w.wg))

/-- The access number at which a warp has issued its `k`-th BAR of a scope in a mode; its next one where it has not. -/
def Warp.barSeq (x : Warp) (mode : Nat) (team : Bool) (k : Nat) : Nat :=
  let scope : Scope := if team then .team else .wg
  ((x.marks.find? (fun m => m.kind == 3 && m.seg == 4 * k + mode && m.scope == scope)).map Mark.seq).getD x.seq

/-- The k-th barrier of an instance is complete: every other warp that has not exited has issued its k-th BAR, and no
access issued before is pending (R270) (DEDUCED, log entry 47). -/
def State.barMet (s : State) (key : Nat) (w : Warp) (team : Bool) (k : Nat) : Bool :=
  let crew := s.barCrew w team
  crew.all (fun e => e.1 == key || e.2.live == 0 || decide (k ≤ e.2.barsIssued w.barMode team)) &&
    !s.accesses.any (fun a => crew.any (fun e => e.1 == a.2.w && decide (a.2.seq < e.2.barSeq w.barMode team k)))

/-- A BAR is issued as the `k`-th of its scope. -/
def Warp.markBar (w : Warp) (team : Bool) (k : Nat) : Warp :=
  { w with marks := w.marks ++ [{ seg := 4 * k + w.barMode, seq := w.seq, kind := 3, scope := if team then .team else .wg }]
           seq := w.seq + 1 }

/-- The accesses that a warp issued before its `k`-th BAR, and those known to stand before them. -/
def Warp.beforeBar (x : Warp) (key mode : Nat) (team : Bool) (k : Nat) : List Known :=
  let seq := x.barSeq mode team k
  { agent := { w := key, team := x.team, wg := x.wg }, scope := .system, seq := seq, all := true, segs := [], but := [], after := [] } ::
    (x.heard.filter (fun h => decide (h.seq < seq))).flatMap Heard.known

/-- What a warp knows once the instance releases it from its `k`-th BAR (R245, R270): on every path. -/
def State.barHeard (s : State) (w : Warp) (team : Bool) (k : Nat) : List Heard :=
  let known := (s.barCrew w team).flatMap (fun e => e.2.beforeBar e.1 w.barMode team k)
  (w.paths.filterMap (fun q => q.segs.head?)).eraseDups.map (fun g => { seg := g, seq := w.seq - 1, op := 0, acq := true, known := known })

/-- A BAR retires and is counted. -/
def State.retireBar (s : State) (c : Cur) (team : Bool) (k : Nat) : State :=
  let s := s.updWarp c.w (fun w => { w with heard := w.heard ++ s.barHeard w team k })
  (s.updWarp c.w (fun w =>
    match w.barMode with
    | 0 => if team then { w with barTeam := w.barTeam + 1 } else { w with barWg := w.barWg + 1 }
    | 1 => if team then { w with barTeamPre := w.barTeamPre + 1 } else { w with barWgPre := w.barWgPre + 1 }
    | _ => if team then { w with barTeamRes := w.barTeamRes + 1 } else { w with barWgRes := w.barWgRes + 1 })).retireSync c

/-- BAR (R270, R271): the last warp to issue goes on at once, the others park. In a team of one workgroup the team's is the
workgroup's. -/
def barOp (i : Instr) (wide : Bool) (s : State) : Host.Outcome State Fault Refusal :=
  issue i .none s (fun s c w =>
    let team := wide && s.twoGroups w
    let k := w.bars team + 1
    let s1 := s.updWarp c.w (fun w => w.markBar team k)
    if s.barMet c.w w team k then s1.retireBar c team k else s1.parkAt c (.bar team k) i)

def execBarWg (s : State) : Host.Outcome State Fault Refusal := barOp .barWg false s
def execBarTeam (s : State) : Host.Outcome State Fault Refusal := barOp .barTeam true s

/-- The barrier at which a warp is parked is complete: the issue record, the scope and the number. -/
def State.barReady (s : State) (key : Nat) : Option (Cur × Bool × Nat) :=
  match s.warp? key with
  | none => none
  | some w =>
    match w.held with
    | none => none
    | some h => match h.why with
      | .bar t k => if w.halt.isNone && s.barMet key w t k then some (h.cur, t, k) else none
      | _ => none

def execBarRelease (key : Nat) (s : State) : Host.Outcome State Fault Refusal :=
  match s.barReady key with
  | some (c, t, k) => .next ((s.unpark key).retireBar c t k)
  | none => .refused .notEnabled

end Sys2Proof.Machine
end

