-- ==== Sys2Proof/Machine/Control.lean ====
section
/-!
DEFINITION. Branches, calls, join points, hardware loops, EXIT, WAIT, YIELD and NOP (R122 to R134, R146, R152, R167, R171).
SAFE stands with pre-emption.
-/
namespace Sys2Proof.Machine

/-! ## Branches (R123, R124) -/

/-- A branch to an encoded target: the target is checked only where a lane takes the branch (R57). -/
def State.branch (s : State) (c : Cur) (k : Xfer) (taken : Bool) (target : DWord) (gs : List Branch) : State :=
  if 2 ^ 56 ≤ target.toNat ∧ taken = true then s.raiseWhole c 0x24 0
  else s.retireTransfer c k gs

/-- The lanes in which the condition of a BRT or BRF holds. -/
def Warp.takers (w : Warp) (c : Cur) (m : BitVec 4) (sense : Bool) : List Nat :=
  (w.transferLanes c).filter (fun i => (w.maskReg m.toNat).getLsbD i == sense)

/-- BRT and BRF. -/
def State.condBranch (s : State) (c : Cur) (w : Warp) (m : BitVec 4) (sense : Bool) (f : BitVec 20) : State :=
  let on := w.takers c m sense
  s.branch c (if on = w.transferLanes c then .jump else .cond) (!on.isEmpty) (farOff c.pc f) (w.condGroups c m sense f)

def execBrt (m : BitVec 4) (f : BitVec 20) (s : State) : Host.Outcome State Fault Refusal :=
  issue (.brt m f) .none s (fun s c w => s.condBranch c w m true f)
def execBrf (m : BitVec 4) (f : BitVec 20) (s : State) : Host.Outcome State Fault Refusal :=
  issue (.brf m f) .none s (fun s c w => s.condBranch c w m false f)
def execBra (f : BitVec 20) (s : State) : Host.Outcome State Fault Refusal :=
  issue (.bra f) .none s (fun s c w =>
    s.branch c .jump true (farOff c.pc f) (branches ((w.transferLanes c).map (fun i => (i, farOff c.pc f)))))

/-- BRX (R124): the entry is read and the transfer is made in one step. -/
def execBrx (n a b : BitVec 8) (s : State) : Host.Outcome State Fault Refusal :=
  issue (.brx n a b) .none s (fun s c w =>
    match s.brxRead c w (.brx n a b) n a b with
    | .hold q => q
    | .bad xs q => match joinCauses xs with
      | some x => q.raise c x none
      | none => q
    | .go ts q => q.retireTransfer c .jump (branches ts))

/-! ## Join points (R125, R126, R174) -/

def execJpt (f : BitVec 20) (s : State) : Host.Outcome State Fault Refusal :=
  issue (.jpt f) .none s (fun s c _ =>
    s.retireWith c (fun w => w.updPath c.p (fun q => { q with jp := some (farOff c.pc f) })))
def execJoin (s : State) : Host.Outcome State Fault Refusal :=
  issue .join .none s (fun s c w =>
    match (w.path c.p).jp with
    | none => s.raiseWhole c 0x0E 0
    | some _ => s.retireWith c (fun w => w.updPath c.p (fun q => { q with jp := none })))

/-! ## Calls and returns (R127 to R129) -/

/-- Write a link pair in every lane of the path, once for a uniform pair. -/
def Warp.link (w : Warp) (c : Cur) (d : Code) (x : DWord) : Warp :=
  if isLane d then (w.transferLanes c).foldl (fun w l => w.wrPair d l x) w else w.wrPair d 0 x

def execCall (d : BitVec 8) (i : BitVec 16) (s : State) : Host.Outcome State Fault Refusal :=
  issue (.call d i) .none s (fun s c w =>
    let target := farOff c.pc i
    if 2 ^ 56 ≤ target.toNat then s.raiseWhole c 0x24 0
    else
      (s.updWarp c.w (fun w => w.link c d c.next)).retireTransfer c .call
        (branches ((w.transferLanes c).map (fun l => (l, target)))))

/-- The lanes of a transfer through a pair that read an uncorrectable register (0x38), else those whose target has a bit of
[63:56] set (0x24) (R13, R169, R359) (DEDUCED, log entry 35). -/
def Warp.pairCauses (w : Warp) (c : Cur) (i : Instr) (a : Code) : List LaneCause :=
  let lanes := w.transferLanes c
  match w.badLanes (operandsOf i) lanes with
  | [] => (lanes.filter (fun l => decide (2 ^ 56 ≤ (pairTarget (w.rdPair a l)).toNat))).map
      (fun l => { lane := l, row := rowForm, code := 0x24, sub := 0, addr := 0 })
  | bad => bad.map (fun l => { lane := l, row := rowReg, code := 0x38, sub := 0, addr := 0 })

/-- CALLX (R128): a uniform link admits a uniform target alone (R20). -/
def execCallx (d a : BitVec 8) (s : State) : Host.Outcome State Fault Refusal :=
  issue (.callx d a) .none s (fun s c w =>
    match joinCauses (w.pairCauses c (.callx d a) a) with
    | some x => s.raise c x none
    | none => (s.updWarp c.w (fun w => w.link c d c.next)).retireTransfer c .call (w.pairGroups c a))
def execRet (a : BitVec 8) (s : State) : Host.Outcome State Fault Refusal :=
  issue (.ret a) .none s (fun s c w =>
    match joinCauses (w.pairCauses c (.ret a) a) with
    | some x => s.raise c x none
    | none => s.retireTransfer c .jump (w.pairGroups c a))

/-! ## Hardware loops (R131, R132) -/

/-- The length of an instruction that is only looked at, or the cause its fetch meets with the address of that word. -/
inductive LengthAt where
  | words (n : Nat)
  | cause (code sub va : Nat)
  | miss (tasid line : Nat)
  | wait

/-- The length of the instruction at an address, from the opcodes of the words it depends on (R132). -/
def State.lengthAt (s : State) (c : Cur) (w : Warp) (va : Nat) : LengthAt × State :=
  match s.fetchWord c.w c.p w va with
  | (.cause k b, q) => (.cause k b va, q)
  | (.miss t l, q) => (.miss t l, q)
  | (.wait, q) => (.wait, q)
  | (.word x, q) =>
    if opcode x = 0xDF then
      match q.fetchWord c.w c.p w (va + 4) with
      | (.cause k b, q2) => (.cause k b (va + 4), q2)
      | (.miss t l, q2) => (.miss t l, q2)
      | (.wait, q2) => (.wait, q2)
      | (.word y, q2) => (.words (if hasSecond (opcode y) then 3 else 2), q2)
    else (.words (if hasSecond (opcode x) then 2 else 1), q)

/-- Push an entry, or skip the body for a count of zero (R132). -/
def State.enterLoop (s : State) (c : Cur) (w : Warp) (count : Word) (off : BitVec 16) : State :=
  let stop := c.pc + 4 * off.setWidth 64
  if 4 ≤ (w.path c.p).stack.length then s.raiseWhole c 0x0D 0
  else if count = 0 then
    match s.lengthAt c w stop.toNat with
    | (.wait, q) => q
    | (.miss t l, q) =>
      (q.postMiss t l (some w.team) (some (coreOfKey c.w)) false).updPath c.w c.p (fun p => { p with hold := .fill [(t, l)] })
    | (.cause k b va, q) => q.raiseAt c k b va
    | (.words n, q) =>
      let target := stop + BitVec.ofNat 64 (4 * n)
      if 2 ^ 56 ≤ target.toNat then q.raiseWhole c 0x24 0
      else q.retireTransfer c .jump (branches (c.lanes.lanes.map (fun l => (l, target))))
  else
    -- the end check that follows sees the new top (R134)
    s.retireWith c (fun w => w.updPath c.p (fun q => { q with stack := { start := c.next, stop := stop, count := count } :: q.stack }))

def execLoop (d : BitVec 8) (e : BitVec 16) (s : State) : Host.Outcome State Fault Refusal :=
  issue (.loop d e) .none s (fun s c w => s.enterLoop c w (w.rd d 0) e)
def execLoopi (n : BitVec 8) (e : BitVec 16) (s : State) : Host.Outcome State Fault Refusal :=
  issue (.loopi n e) .none s (fun s c w => s.enterLoop c w (n.setWidth 32) e)

/-! ## EXIT, WAIT, YIELD, NOP -/

/-- The path's lanes end; a warp left with none has exited, which warps that wait for it find out (R152, R184, R187). An EXIT of
trap mode is not counted as retired though it ends it (R378). -/
def State.exitLanes (s : State) (c : Cur) (w : Warp) : State :=
  let s0 := (s.endLanes c).finish c false
  let s1 := if w.trap.isSome then s0.updWarp c.w (fun x => { x with retired := w.retired }) else s0
  if (s1.warp? c.w).any (fun x => x.live == 0) then s1.exited c.w w else s1

/-- EXIT (R130, R152, R349): it waits for the warp's engine operations, delivers what they hold, and makes the lanes absent.
In save and restore mode it stops the warp with 0x5C (R367). -/
def execExit (s : State) : Host.Outcome State Fault Refusal :=
  issue .exit .none s (fun s c w =>
    if w.pre = .normal then
      match s.deliverHeld c (s.opsOf c.w) w.batches with
      | some t => t
      | none => s.exitLanes c w
    else
      s.stopWarp c.w c (s.infoOf c { code := 0x5C, sub := 0x104, lanes := c.lanes, addrs := [], other := false }) c.lanes)

/-- WAIT (R146): it holds the warp until the counters have fallen; a cause held by an operation that it requires to be
complete is delivered, and it then does not retire. -/
def execWait (l st cp tl : BitVec 6) (s : State) : Host.Outcome State Fault Refusal :=
  issue (.wait l st cp tl) .none s (fun s c w =>
    if w.waitMet l st cp tl then
      match s.deliverHeld c (s.waitOps c.w w cp tl) [] with
      | some t => t
      | none => s.retire c
    else s.updWarp c.w (fun w => { w with held := some { why := .wait, cur := c, i := some (.wait l st cp tl) } }))

/-- The release of a held WAIT (R146). -/
def State.waitReady (s : State) (key : Nat) : Bool :=
  match s.warp? key with
  | none => false
  | some w =>
    match w.held with
    | some h => match h.why, h.i with
      | .wait, some (.wait l st cp tl) => w.waitMet l st cp tl
      | _, _ => false
    | none => false

def execWaitRelease (key : Nat) (s : State) : Host.Outcome State Fault Refusal :=
  match s.warp? key with
  | none => .refused .notEnabled
  | some w =>
    match w.held with
    | none => .refused .notEnabled
    | some h =>
      if s.waitReady key then
        let s1 := s.updWarp key (fun w => { w with held := none })
        match h.i with
        | some (.wait _ _ cp tl) =>
          match s1.deliverHeld h.cur (s1.waitOps key w cp tl) [] with
          | some t => .next t
          | none => .next (s1.retire h.cur)
        | _ => .next (s1.retire h.cur)
      else .refused .notEnabled

/-- The other warps of the partition that are ready on the pipe of YIELD (R164, R167). -/
def State.partners (s : State) (key : Nat) : List Nat :=
  (s.offers.filter (fun o => o.key != key && partitionOf o.key == partitionOf key && !o.vector)).map Offer.key

/-- YIELD (R167): NOP, and the partition's other warps that are ready go first. -/
def execYield (s : State) : Host.Outcome State Fault Refusal :=
  issue .yield .none s (fun s c _ =>
    let others := s.partners c.w
    s.retireWith c (fun w => { w with age := 0, yielded := w.yielded ++ others.filter (fun k => !w.yielded.contains k) }))

/-- NOP (R130). -/
def execNop (s : State) : Host.Outcome State Fault Refusal :=
  issue .nop .none s (fun s c _ => s.retire c)

/-- A word or run of words that is not an instruction raises its cause (R69, R70); the check of privilege stands before
those of fields (R70). A fetch cause names the address of the word that failed (R345). -/
def execNonInstruction (priv : Priv) (cause : BitVec 8) (sub : BitVec 32) (len : Nat) (s : State) :
    Host.Outcome State Fault Refusal :=
  issue (.nonInstruction priv cause sub len) priv s (fun s c _ =>
    if cause = 0x06 ∨ 0x20 ≤ cause.toNat then s.raiseAt c cause.toNat sub.toNat (c.pc.toNat + 4 * (len - 1))
    else s.raiseWhole c cause.toNat sub.toNat)

/-! ## Held transfers (R171) -/

/-- Lanes are held at a transfer of path `p` and an entry is free. -/
def State.heldReady (s : State) (key p : Nat) : Bool :=
  match s.warp? key with
  | none => false
  | some w => (w.path p).status == .wait && (w.path p).held != 0 && s.pathFree w p

/-- The instruction fetched for held lanes executes for them; it is the transfer that held them (R171)
(DEDUCED, log entry 60). -/
def execHeldTransferReexecution (key p : Nat) (s : State) : Host.Outcome State Fault Refusal :=
  if s.heldReady key p then
    match s.warp? key with
    | none => .refused .notEnabled
    | some w =>
      match s.fetch key p w (w.path p).hpc with
      | (.wait, _) => .refused .notEnabled
      | (.miss t l, q) =>
        .next ((q.postMiss t l (some w.team) (some (coreOfKey key)) false).updPath key p (fun x => { x with hold := .fill [(t, l)] }))
      | (.instr i len, q) =>
        let s1 := { (q.updPath key p (fun x => { x with hold := .none })) with cur := some (w.curFor key p len) }
        match i with
        | .brt m f => execBrt m f s1
        | .brf m f => execBrf m f s1
        | .bra f => execBra f s1
        | .brx n a b => execBrx n a b s1
        | .call d f => execCall d f s1
        | .callx d a => execCallx d a s1
        | .ret a => execRet a s1
        | .nonInstruction pr k b n => execNonInstruction pr k b n s1
        | _ => .refused .notEnabled
  else .refused .notEnabled

end Sys2Proof.Machine
end

