-- ==== Sys2Proof/Machine/Handles.lean ====
section
/-!
DEFINITION. Tensor handles (R280 to R282): their fields, validity, and where a coordinate's element lies; and THLD, THSET and
THGET (R283, R284).
-/
namespace Sys2Proof.Machine

/-! ## Fields (R280) -/

/-- A handle register's 256 bits. -/
abbrev Handle := BitVec 256

/-- 0 dense, 1 split-Q3, 2 split-Q4, 3 N:M structured, 4 coordinate list. -/
def hType (h : Handle) : Nat := (h.extractLsb' 252 4).toNat
def hElem (h : Handle) : Nat := (h.extractLsb' 248 4).toNat
def hIndex (h : Handle) : Nat := (h.extractLsb' 244 4).toNat
/-- The tensor lies in scratchpad. -/
def hScratch (h : Handle) : Bool := h.getLsbD 243
def hTau (h : Handle) : Nat := (h.extractLsb' 168 16).toNat
/-- Base as an address: a virtual address, or a scratchpad offset. -/
def hBase (h : Handle) : Nat := (h.extractLsb' 184 48).toNat * 256
/-- Whether aux is a scratchpad offset: N:M and coordinate-list tensors in scratchpad. -/
def auxScratch (h : Handle) : Bool := hScratch h && (hType h == 3 || hType h == 4)
/-- Aux as an address. -/
def hAux (h : Handle) : Nat :=
  if auxScratch h then (h.extractLsb' 128 24).toNat * 256 else (h.extractLsb' 128 40).toNat * 65536

/-- What becomes of a coordinate beyond a level's bound. -/
inductive Beyond where
  | clip
  | trap
  | wrap
  deriving DecidableEq, Repr

/-- A present level. -/
structure Level where
  bound : Nat
  extent : Nat
  stride : Nat
  beyond : Beyond
  deriving DecidableEq, Repr

/-- Level j, if it is present. -/
def levelOf (h : Handle) (j : Nat) : Option Level :=
  let w := h.extractLsb' (32 * j) 32
  let mk := fun (b : Beyond) =>
    some { bound := (w.extractLsb' 16 16).toNat + 1, extent := 2 ^ (w.extractLsb' 13 3).toNat
           stride := (w.extractLsb' 5 8).toNat * 2 ^ (w.extractLsb' 0 5).toNat, beyond := b }
  match (h.extractLsb' (232 + 2 * j) 2).toNat with
  | 0 => none
  | 1 => mk .clip
  | 2 => mk .trap
  | _ => mk .wrap

/-- The four levels. -/
def levelsOf (h : Handle) : List (Option Level) := [0, 1, 2, 3].map (levelOf h)

/-- The extents, 1 at absent levels. -/
def extentsOf (h : Handle) : List Nat := (levelsOf h).map (fun l => (l.map Level.extent).getD 1)

/-- The present levels. -/
def presence (h : Handle) : List Bool := (levelsOf h).map Option.isSome

/-- Element j of a list of numbers, 0 past its end. -/
def nth (l : List Nat) (j : Nat) : Nat := (l[j]?).getD 0

/-- The width of an element in bytes (R280). -/
def elemSize (e : Nat) : Nat :=
  match e with
  | 1 => 2
  | 2 => 2
  | 3 => 1
  | 4 => 1
  | 5 => 1
  | 6 => 2
  | _ => 4

/-- Bytes of a split tile of a handle's type (R44). -/
def tileBytes (h : Handle) : Nat := if hType h = 1 then 2048 else 2560

/-- A split type. -/
def isSplit (h : Handle) : Bool := hType h == 1 || hType h == 2

/-! ## Validity (R282) -/

/-- The number that every present level's stride must be a multiple of. -/
def strideUnit (h : Handle) : Nat :=
  match hType h with
  | 1 => 2048
  | 2 => 2560
  | 4 => 4
  | _ => elemSize (hElem h)

/-- A reserved bit is nonzero. -/
def handleReserved (h : Handle) : Bool :=
  h.extractLsb' 240 3 != 0 || (hScratch h && h.extractLsb' 208 24 != 0) || (auxScratch h && h.extractLsb' 152 16 != 0)

/-- The largest index of a type. -/
def indexMax (t : Nat) : Nat :=
  match t with
  | 3 => 3
  | 4 => 1
  | _ => 0

/-- The first condition that makes a handle invalid, in the order of R282: code and subcause. -/
def handleBad (h : Handle) : Option (Nat × Nat) :=
  let p := presence h
  let full := fun (j : Nat) => (levelOf h j).any (fun l => l.extent == 64)
  if 5 ≤ hType h then some (0x43, 0)
  else if decide (8 ≤ hElem h) || (isSplit h && hElem h != 0) || decide (indexMax (hType h) < hIndex h) || handleReserved h then
    some (0x16, 0)
  else if p[0]? != some true || [1, 2, 3].any (fun j => p[j]? == some true && p[j - 1]? == some false) then some (0x16, 1)
  else if isSplit h && !(full 0 && full 1) then some (0x16, 2)
  else if (levelsOf h).any (fun l => l.any (fun l => l.stride % strideUnit h != 0)) then some (0x16, 3)
  else if hType h == 3 && (levelOf h 0).any (fun l => l.stride != elemSize (hElem h)) then some (0x16, 4)
  else none

/-! ## Addressing (R281) -/

/-- Where an adjusted coordinate leads. -/
inductive Spot where
  | at (addr : Nat)
  | clip
  | trap
  deriving DecidableEq, Repr

/-- A coordinate adjusted at one level. -/
inductive Adjusted where
  | at (c : Nat)
  | clip
  | trap
  deriving DecidableEq, Repr

/-- Adjust one coordinate. -/
def Level.adjust (l : Level) (c : Nat) : Adjusted :=
  if c < l.bound then .at c
  else match l.beyond with
    | .clip => .clip
    | .trap => .trap
    | .wrap => .at (c % l.bound)

/-- Adjust coordinates level by level; the first clip or trap decides. -/
def adjustAll (ls : List (Option Level)) (c : List Nat) : List Nat ⊕ Spot :=
  match ls, c with
  | [], _ => .inl []
  | _ :: _, [] => .inl []
  | none :: r, x :: c => match adjustAll r c with
    | .inl q => .inl (x :: q)
    | .inr b => .inr b
  | some l :: r, x :: c => match l.adjust x with
    | .clip => .inr .clip
    | .trap => .inr .trap
    | .at y => match adjustAll r c with
      | .inl q => .inl (y :: q)
      | .inr b => .inr b

/-- A sum of strides. -/
def strideSum (ls : List (Option Level)) (c : List Nat) : Nat :=
  match ls, c with
  | some l :: r, x :: c => x * l.stride + strideSum r c
  | none :: r, _ :: c => strideSum r c
  | _, _ => 0

/-- An address of a handle's space: a global one is formed modulo 2^64. -/
def inSpace (h : Handle) (a : Nat) : Nat := if hScratch h then a else a % 2 ^ 64

/-- The address that adjusted coordinates lead to: an element, or the tile that holds it. Of a coordinate list only level 0
counts: its entry. -/
def addressOf (h : Handle) (c : List Nat) : Nat :=
  match hType h with
  | 1 => inSpace h (hBase h + strideSum (levelsOf h) [nth c 0 / 64, nth c 1 / 64, nth c 2, nth c 3])
  | 2 => inSpace h (hBase h + strideSum (levelsOf h) [nth c 0 / 64, nth c 1 / 64, nth c 2, nth c 3])
  | 4 => inSpace h (hBase h + strideSum ((levelsOf h).take 1) c)
  | _ => inSpace h (hBase h + strideSum (levelsOf h) c)

/-- Where the element (or tile, or entry) of a coordinate lies: the coordinate is adjusted at every present level. -/
def spotOf (h : Handle) (c : List Nat) : Spot :=
  match adjustAll (levelsOf h) c with
  | .inl q => .at (addressOf h q)
  | .inr b => b

/-- Stored values per group of an N:M pattern (R280). -/
def groupN (h : Handle) : Nat :=
  match hIndex h with
  | 1 => 1
  | 2 => 4
  | _ => 2
/-- Logical elements per group of an N:M pattern. -/
def groupM (h : Handle) : Nat :=
  match hIndex h with
  | 0 => 4
  | 1 => 4
  | _ => 8

/-- The metadata word of a stored value's group (R281). -/
def metaAddr (h : Handle) (addr : Nat) : Nat :=
  let a := hAux h + 2 * ((addr - hBase h) / (groupN h * elemSize (hElem h)))
  if auxScratch h then a else a % 2 ^ 64

/-- Levels above level 0 that are present, and so the coordinates that an entry of a coordinate list holds. -/
def entryCoords (h : Handle) : Nat := ((presence h).drop 1).foldl (fun n b => if b then n + 1 else n) 0
/-- Bytes of one coordinate of a coordinate list. -/
def coordWidth (h : Handle) : Nat := if hIndex h = 0 then 2 else 4
/-- The coordinates of entry k. -/
def coordsAddr (h : Handle) (k : Nat) : Nat :=
  let a := hAux h + k * entryCoords h * coordWidth h
  if auxScratch h then a else a % 2 ^ 64

/-! ## THLD, THSET and THGET -/

/-- The number of a handle register. -/
def handleNo (c : Code) : Nat := c.toNat - 0xE0

/-- A handle register, if it is loaded. -/
def Warp.handle? (w : Warp) (c : Code) : Option Handle := Assoc.at? w.h (handleNo c)

/-- Load a handle register. -/
def Warp.setHandle (w : Warp) (c : Code) (h : Handle) : Warp := { w with h := Assoc.put w.h (handleNo c) h }

/-- Check a handle value that has been formed, and load it, or raise its cause (R282). -/
def State.formHandle (s : State) (c : Cur) (d : Code) (h : Handle) : State :=
  match handleBad h with
  | some (code, sub) => s.raiseWhole c code sub
  | none => s.retireWith c (fun w => w.setHandle d h)

/-- THLD (R283): 32 bytes read as weak 8-byte loads. -/
def execThld (d a : BitVec 8) (off : BitVec 16) (s : State) : Host.Outcome State Fault Refusal :=
  issue (.thld d a off) .none s (fun s c w =>
    let base := w.rdPair a 0 + BitVec.ofNat 64 (32 * off.toNat)
    match s.formBlock c w base 8 8 4 true false with
    | f :: r => s.raiseOnce c (f :: r)
    | [] => match s.readLanes c w true 8 (unitAddrs base.toNat 8 4) with
      | .hold q => q
      | .done vals causes q => match causes with
        | f :: r => q.raiseOnce c (f :: r)
        | [] => q.formHandle c d (BitVec.ofNat 256 (natOfBytes (blockBytes vals 4))))

/-- A field of a handle by selector (R284): its lowest bit, its width, and the bits of its value below it. Addresses of a
scratchpad tensor are offsets. None for other selectors. -/
def handleField (h : Handle) (sel : Nat) : Option (Nat × Nat × Nat) :=
  match sel with
  | 0x00 => some (252, 4, 0)
  | 0x01 => some (248, 4, 0)
  | 0x02 => some (244, 4, 0)
  | 0x03 => some (243, 1, 0)
  | 0x04 => some (232, 8, 0)
  | 0x05 => some (168, 16, 0)
  | 0x06 => some (184, if hScratch h then 24 else 48, 8)
  | 0x07 => some (128, if auxScratch h then 24 else 40, if auxScratch h then 8 else 16)
  | _ =>
    if 0x08 ≤ sel ∧ sel ≤ 0x0B then some (32 * (sel - 0x08), 32, 0)
    else if 0x10 ≤ sel ∧ sel ≤ 0x17 then some (32 * (sel - 0x10), 32, 0)
    else none

/-- Replace `n` bits of a handle from bit `lo` on. -/
def setBits (h : Handle) (lo n x : Nat) : Handle :=
  let mask : Handle := BitVec.ofNat 256 ((2 ^ n - 1) * 2 ^ lo)
  (h &&& ~~~mask) ||| BitVec.ofNat 256 (x % 2 ^ n * 2 ^ lo)

/-- THSET (R284). -/
def execThset (d a sel : BitVec 8) (s : State) : Host.Outcome State Fault Refusal :=
  issue (.thset d a sel) .none s (fun s c w =>
    let h := (w.handle? d).getD 0
    match handleField h sel.toNat with
    | none => s.raiseWhole c 0x01 0
    | some (lo, n, low) =>
      let x := if selWide sel then (w.rdPair a 0).toNat else (w.rd a 0).toNat
      if x % 2 ^ low ≠ 0 ∨ 2 ^ (n + low) ≤ x then s.raiseWhole c 0x16 0
      else s.formHandle c d (setBits h lo n (x / 2 ^ low)))

/-- THGET (R284). -/
def execThget (d a sel : BitVec 8) (s : State) : Host.Outcome State Fault Refusal :=
  issue (.thget d a sel) .none s (fun s c w =>
    match handleField ((w.handle? a).getD 0) sel.toNat with
    | none => s.raiseWhole c 0x01 0
    | some (lo, n, low) =>
      match w.handle? a with
      | none => s.raiseWhole c 0x0A 0
      | some h =>
        let x := (h.extractLsb' lo n).toNat * 2 ^ low
        s.retireWith c (fun w => if selWide sel then w.wrPair d 0 (BitVec.ofNat 64 x) else w.wr d 0 (BitVec.ofNat 32 x)))

end Sys2Proof.Machine
end

