-- ==== Sys2Proof/Machine/Engine.lean ====
section
/-!
DEFINITION. What the engines share (R248, R249, R286, R293, R294): reads in snapshots, checked writes, arrivals, pauses on
absent pages, held causes, and the posting and completion of operations.
-/
namespace Sys2Proof.Machine

/-! ## Operations -/

/-- An operation. -/
def State.engOp? (s : State) (id : Nat) : Option EngOp := Assoc.at? s.engines id

/-- Change an operation. -/
def State.updEng (s : State) (id : Nat) (f : EngOp → EngOp) : State := { s with engines := Assoc.upd s.engines id f }

/-- The team of the warp that posted an operation. -/
def State.engTeam (s : State) (e : EngOp) : Option Nat := (s.warp? e.w).map Warp.team

/-- An operation as a requester (R286, R293). -/
def State.engWho (s : State) (e : EngOp) : Who :=
  { core := e.core, slot := slotOfKey e.w, path := e.path, asid := e.asid, principal := e.principal, team := s.engTeam e
    clr := e.clearance }

/-- How a piece of an engine's work ends. -/
inductive EngGot (α : Type) where
  | ok (x : α) (s : State)
  /-- a cause to be held -/
  | cause (code sub : Nat) (s : State)
  /-- a page that is not present: its address (R294) -/
  | pause (va : Nat) (s : State)
  /-- the piece waits for a core-pinned slot (R216), for another engine's line (R248) or for a response (R392); of the state only
  the wait for a slot is kept -/
  | wait (s : State)

/-- Go on with what a piece gave. -/
def EngGot.bind {α β : Type} (g : EngGot α) (f : α → State → EngGot β) : EngGot β :=
  match g with
  | .ok x s => f x s
  | .cause c b s => .cause c b s
  | .pause va s => .pause va s
  | .wait s => .wait s

/-- Do the same for each element of a list. -/
def engEach {α : Type} (xs : List α) (s : State) (f : α → State → EngGot Unit) : EngGot Unit :=
  match xs with
  | [] => .ok () s
  | x :: r => (f x s).bind (fun _ s => engEach r s f)

/-- Do the same for each element of a list, keeping the results. -/
def engMap {α β : Type} (xs : List α) (s : State) (f : α → State → EngGot β) : EngGot (List β) :=
  match xs with
  | [] => .ok [] s
  | x :: r => (f x s).bind (fun y s => (engMap r s f).bind (fun ys s => .ok (y :: ys) s))

/-! ## Where an engine's access leads -/

/-- A range in scratchpad (`scr`) or global memory that an engine reads or writes. -/
structure Span where
  scr : Bool
  addr : Nat
  size : Nat
  /-- its address must be a multiple of this -/
  align : Nat
  deriving DecidableEq, Repr

/-- The place of a scratchpad offset of a warp, checked as R139 checks one; or the cause. -/
def State.engScratch (s : State) (key : Nat) (x : Span) : Hit ⊕ Nat :=
  match s.warp? key with
  | none => .inr 0x22
  | some w =>
    if x.addr % x.align ≠ 0 then .inr 0x21
    else if 2 ^ 32 ≤ x.addr then .inr 0x22
    else if 2 ^ 31 ≤ x.addr ∧ s.twoGroups w = false then .inr 0x4D
    else if s.headerField w Launch.scratch < x.addr % 2 ^ 31 + x.size then .inr 0x22
    else .inl { place := .scratch w.team (if 2 ^ 31 ≤ x.addr then 1 - w.wg else w.wg), off := x.addr % 2 ^ 31, pa := 0
                tag := 0, w := true, x := false, home := 0, remote := none }

/-- The form of an address in global memory is wrong (R139). -/
def Span.formBad (x : Span) : Option Nat :=
  if 2 ^ 56 < x.addr + x.size then some 0x24 else if x.addr % x.align ≠ 0 then some 0x20 else none

/-- The checks of an access within one line (R143, R214, R293): the place and whether the clearance covers it. -/
def State.engHit (s : State) (e : EngOp) (write : Bool) (x : Span) : EngGot (Hit × Bool) :=
  if x.scr then
    match s.engScratch e.w x with
    | .inl h => .ok (h, true) s
    | .inr c => .cause c 0 s
  else match x.formBad with
  | some c => .cause c 0 s
  | none =>
    let go := fun (h : Hit) (absent : Option Nat) (q : State) =>
      if write && !h.w then (.cause 0x27 0 q : EngGot (Hit × Bool))
      else match q.cleared e.core e.asid (s.engTeam e) e.clearance h.tag with
        | .wait q => .wait q
        | .cause c b q => if c = 0x30 then .pause x.addr q else .cause c b q
        | .ok ok q =>
          if write && !ok then .cause 0x4F 0 q
          else if ok = false then .ok (h, false) q
          else match absent with
            | some b => .cause 0x2F b q
            | none => .ok (h, true) q
    match s.resolveAs (write && e.owned.contains (.line (tagAsid e.asid x.addr) (lineOf x.addr), 0)) e.asid (s.engTeam e) x.addr with
    | (.miss _ _, q) => .wait q
    | (.cause c b, q) => if c = 0x30 then .pause x.addr q else .cause c b q
    | (.absent b h, q) => go h (some b) q
    | (.hit h, q) => go h none q

/-- Another engine operation holds the line (R248); none does from an operation that has taken it as well. -/
def State.heldFrom (s : State) (id : Nat) (h : Hit) : Bool :=
  match h.place with
  | .line t n =>
    let takes := fun (e : Nat × EngOp) => e.2.owned.contains (.line t n, 0)
    s.engines.any (fun e => e.1 != id && takes e) && !s.engines.any (fun e => e.1 == id && takes e)
  | _ => false

/-- The way of an access that is not to scratchpad (R359, R391, R400). -/
def State.engReach (s : State) (id : Nat) (scr : Bool) (h : Hit) : EngGot Unit :=
  if scr then .ok () s
  else if s.heldFrom id h then .wait s
  else
    let core := (s.engOp? id).map EngOp.core
    match s.way core h with
    | .cause c b => .cause c b (s.wayUsed core h)
    | .wait => .wait (s.ask core h)
    | .go => .ok () (s.wakeFor core h)

/-- The parts of a range that each lie in one line, with their offsets in the range. -/
def Span.pieces (x : Span) : List (Span × Nat) :=
  (linePieces x.addr x.size (x.size / 128 + 2) 0).map (fun p =>
    ({ scr := x.scr, addr := p.1, size := p.2.2, align := if p.2.1 = 0 then x.align else 1 }, p.2.1))

/-! ## Reading (R249, R293) -/

/-- The snapshot of a line, if the operation has read it. -/
def EngOp.snapAt (e : EngOp) (p : Place) (line : Nat) : Option Snap :=
  e.snap.find? (fun x => x.place == p && x.line == line && !x.denied)

/-- The snapshot of a line of global memory by the address that it was read by: it stands whatever its translation is now (R295). -/
def EngOp.snapOf (e : EngOp) (x : Span) : Option Snap :=
  if x.scr then none else e.snap.find? (fun t => t.va == x.addr / 128 && !t.denied && match t.place with
    | .scratch _ _ => false
    | _ => true)

/-- The event of a line that this clearance denies is logged. -/
def EngOp.deniedAt (e : EngOp) (p : Place) (line : Nat) : Bool :=
  e.snap.any (fun x => x.place == p && x.line == line && x.denied && x.clr == e.clearance)

/-- A line as it stands, read by an address. -/
def State.snapshot (s : State) (p : Place) (line va : Nat) : Snap :=
  { place := p, line := line, va := va, bytes := s.peekBytes p (line * 128) 128
    bad := (numsFrom 0 32).filter (fun i => s.badAt p (line * 128 + 4 * i) 4), denied := false, clr := none }

/-- The words of these bytes, from the first on, in which a snapshot holds errors. -/
def Snap.badIn (x : Snap) (off n : Nat) : List Nat :=
  (x.bad.filter (fun i => decide (4 * i < off + n) && decide (off < 4 * i + 4))).map (fun i => i - off / 4)

/-- Keep what an operation has learnt of a line. -/
def State.keepSnap (s : State) (id : Nat) (x : Snap) : State := s.updEng id (fun e => { e with snap := e.snap ++ [x] })

/-- The cause byte of the permission event of a denied line (R222). -/
def EngKind.eventCode (k : EngKind) : Nat :=
  match k with
  | .mma _ _ _ _ _ _ => 3
  | .load _ _ _ => 3
  | .kstore _ _ _ _ _ _ _ => 4
  | .bgather _ _ _ _ _ _ _ _ => 4
  | _ => 2

/-- The cause of poison in what is read: for the matrix unit, of its metadata (R312, R360). -/
def EngKind.poisonCode (k : EngKind) : Nat :=
  match k with
  | .mma _ _ _ _ _ _ => 0x36
  | _ => 0x34

/-- The code of an error in a line that an operation reads: of scratchpad, in which a present page lies, 0x39 (R359, R360); of a
tile's metadata 0x36 (R312). -/
def State.engErrorCode (s : State) (e : EngOp) (t : Snap) : Nat :=
  if e.kind.poisonCode = 0x36 then 0x36 else s.errorCode t.place (t.line * 128) 128

/-- What a read of a range gives: the bytes, those of its words of 4 bytes that cannot be read, and the code of such an error. -/
structure EngBytes where
  bytes : List Byte
  bad : List Nat
  code : Nat
  deriving DecidableEq, Repr

/-- A line that the clearance denies reads as zeros, which are its snapshot; its event is logged once (R222). -/
def State.engDenied (s : State) (id : Nat) (e : EngOp) (h : Hit) (va : Nat) : State :=
  let entry : Snap := { place := h.place, line := h.off / 128, va := va, bytes := zeros 128, bad := [], denied := false, clr := none }
  (if e.deniedAt h.place (h.off / 128) then s
    else (s.permEvent (s.engWho e) false (va * 128) h.tag e.kind.eventCode 0).keepSnap id
      { entry with denied := true, clr := e.clearance }).keepSnap id entry

/-- Read within one line, which is read whole once. -/
def State.engReadWords (s : State) (id : Nat) (x : Span) : EngGot EngBytes :=
  match s.engOp? id with
  | none => .wait s
  | some e =>
    let off := x.addr % 128
    let from_ := fun (t : Snap) (s : State) =>
      (.ok { bytes := sliceBytes t.bytes off x.size, bad := t.badIn off x.size, code := s.engErrorCode e t } s : EngGot EngBytes)
    let fresh := fun (s : State) => (s.engHit e false x).bind (fun r s =>
      let h := r.1
      let line := h.off / 128
      if r.2 = false then .ok { bytes := zeros x.size, bad := [], code := 0 } (s.engDenied id e h (x.addr / 128))
      else match e.snapAt h.place line with
        | some t => from_ t s
        | none => (s.engReach id x.scr h).bind (fun _ s =>
            let t := s.snapshot h.place line (x.addr / 128)
            from_ t (s.keepSnap id t)))
    match x.formBad, e.snapOf x with
    | none, some t => from_ t s
    | _, _ => fresh s

/-- Read within one line; an error in the bytes is a cause. -/
def State.engReadPiece (s : State) (id : Nat) (x : Span) : EngGot (List Byte) :=
  (s.engReadWords id x).bind (fun r s => if r.bad = [] then .ok r.bytes s else .cause r.code 0 s)

/-- Read a range. -/
def State.engRead (s : State) (id : Nat) (x : Span) : EngGot (List Byte) :=
  (engMap x.pieces s (fun p s => s.engReadPiece id p.1)).bind (fun bs s => .ok bs.flatten s)

/-! ## Writing (R248, R293) -/

/-- Bytes for a range. -/
structure Put where
  scr : Bool
  addr : Nat
  align : Nat
  data : List Byte
  deriving DecidableEq, Repr

/-- The range that a write covers. -/
def Put.span (x : Put) : Span := { scr := x.scr, addr := x.addr, size := x.data.length, align := x.align }

/-- What is known of a piece to be written: its place and bytes. -/
abbrev Landed := Hit × List Byte

/-- Check a piece of a write, which is not made yet. Where its response is lost it has been made or not (R391). -/
def State.engCheckPiece (s : State) (id : Nat) (e : EngOp) (x : Put) (p : Span × Nat) : EngGot Landed :=
  let bs := sliceBytes x.data p.2 p.1.size
  (s.engHit e true p.1).bind (fun r s =>
    match s.engReach id x.scr r.1 with
    | .cause c b s => .cause c b (if c = 0x2A then s else s.maybePoke r.1 bs)
    | .ok _ s => .ok (r.1, bs) s
    | .pause va s => .pause va s
    | .wait s => .wait s)

/-- Check a write, piece by piece; nothing is written yet. -/
def State.engCheck (s : State) (id : Nat) (x : Put) : EngGot (List Landed) :=
  match s.engOp? id with
  | none => .wait s
  | some e => engMap x.span.pieces s (fun p s => s.engCheckPiece id e x p)

/-- Write checked pieces: other copies of their lines are dropped, and a line that an engine has taken loses its stamp (R246,
R248). -/
def State.engLand (s : State) (ls : List Landed) : State :=
  ls.foldl (fun (s : State) l =>
    let q := s.poke l.1.place l.1.off l.2
    match l.1.place with
    | .line t n => (q.dropL1 none t n).loseStamps (.line t n)
    | _ => q) s

/-- Write all of these or none. -/
def State.engStore (s : State) (id : Nat) (xs : List Put) : EngGot Unit :=
  (engMap xs s (fun x s => s.engCheck id x)).bind (fun ls s => .ok () (s.engLand ls.flatten))

/-- Check pieces one by one: those that may be written, and the causes of the others. -/
def State.engSift (s : State) (id : Nat) (e : EngOp) (ps : List (Put × Span × Nat)) : EngGot (List Landed × List (Nat × Nat)) :=
  match ps with
  | [] => .ok ([], []) s
  | (x, p) :: r =>
    let rest := fun (l : List Landed) (c : List (Nat × Nat)) (s : State) =>
      (s.engSift id e r).bind (fun y s => .ok (l ++ y.1, c ++ y.2) s)
    match s.engCheckPiece id e x p with
    | .ok l s => rest [l] [] s
    | .cause c b s => rest [] [(c, b)] s
    | .pause va s => .pause va s
    | .wait s => .wait s

/-- Write every line of these that meets no cause (R293); the causes of the others. A page that is not present leaves all of them
unwritten. -/
def State.engStoreLines (s : State) (id : Nat) (xs : List Put) : EngGot (List (Nat × Nat)) :=
  match s.engOp? id with
  | none => .wait s
  | some e => (s.engSift id e (xs.flatMap (fun x => x.span.pieces.map (fun p => (x, p))))).bind (fun r s =>
      .ok r.2 (s.engLand r.1))

/-! ## Causes, pauses and progress (R294) -/

/-- Hold a cause; the first is delivered, the others are counted. -/
def EngOp.hold (e : EngOp) (code sub : Nat) (time : DWord) : EngOp :=
  match e.cause with
  | none => { e with cause := some { code := code, sub := sub, time := time } }
  | some _ => { e with further := e.further + 1 }

/-- Pause at a page that is not present: a ticket and an entry of cause 0x4E (R294, R353). -/
def State.engPause (s : State) (id va kind sub : Nat) : State :=
  match s.engOp? id with
  | none => s
  | some e => match s.warp? e.w with
    | none => s
    | some w =>
      let t := s.issueTicket e.core (slotOfKey e.w) kind (.engine id)
      let f : FaultInfo :=
        { code := 0x4E, flags := 0, further := 0, sub := sub, pc := e.pc, opPc := e.pc, lanes := 0, pathMask := e.pathMask
          path := e.path, ticket := t.1, addrs := [], time := s.clock }
      (t.2.logOrHold (faultEntry (t.2.recordHeader e.w w f) va)).updEng id (fun e => { e with paused := some (va, t.1) })

/-- The token index in the subcause of a copy's pause: 0xFF for none. -/
def EngOp.tokenSub (e : EngOp) : Nat := e.tok.getD 0xFF

/-- The next task has ended, with these causes to be held. -/
def State.engDone (s : State) (id : Nat) (bad : List (Nat × Nat)) : State :=
  s.updEng id (fun e => bad.foldl (fun (e : EngOp) x => e.hold x.1 x.2 s.clock) { e with done := e.done + 1 })

/-- Lines of destination that an operation no longer owns (R248). -/
def State.engDisown (s : State) (id : Nat) (os : List (Place × Nat)) : State :=
  s.updEng id (fun e => { e with owned := e.owned.filter (fun o => !os.contains o), bound := e.bound.filter (fun o => !os.contains o) })

/-- What remains of a task that was to write the lines `os`: causes are held and the task counts as done, a pause is recorded; while
it waits or is paused its lines stay taken. -/
def State.engEnd (s : State) (id kind sub : Nat) (os : List (Place × Nat)) (g : EngGot (List (Nat × Nat))) : State :=
  match g with
  | .ok bad q => (q.engDone id bad).engDisown id os
  | .cause c b q => (q.engDone id [(c, b)]).engDisown id os
  | .pause va q => q.engPause id va kind sub
  | .wait q => s.waitIn q

/-- The names of the lines of a destination range; scratchpad takes no grant (R248). -/
def EngOp.linesOf (e : EngOp) (x : Span) : List (Place × Nat) :=
  if x.scr then [] else x.pieces.map (fun p => (.line (tagAsid e.asid p.1.addr) (lineOf p.1.addr), 0))

/-! ## Arrivals (R266, R286, R307) -/

/-- One arrival of 1 at a scratchpad word: the cause where it fails, and the state. `counting` words have target 0. -/
def State.engArrive (s : State) (key off : Nat) (counting : Bool) (bad : Nat) : Option Nat × State :=
  match s.engScratch key { scr := true, addr := off, size := 4, align := 4 } with
  | .inr c => (some c, s)
  | .inl h =>
    if s.badAt h.place h.off 4 then (some 0x39, s)
    else
      let word := BitVec.ofNat 32 (natOfBytes (s.peekBytes h.place h.off 4))
      if counting && word.extractLsb' 12 12 != 0 then (some bad, s)
      else match arriveWord word 1 with
        | none => (some bad, s)
        | some x => (none, s.poke h.place h.off (bytesOfNat 4 x.toNat))

/-- The arrival of an operation on its counting word, if it has one; a failure is held. -/
def State.engCount (s : State) (id : Nat) : State :=
  match s.engOp? id with
  | none => s
  | some e => match e.bar with
    | none => s
    | some off => match s.engArrive e.w off true 0x44 with
      | (none, q) => q
      | (some c, q) => q.updEng id (fun e => e.hold c 0 s.clock)

/-! ## Posting (R144, R248, R286) -/

/-- The operand of a barrier field: an offset, none for z. -/
def Warp.barOffset (w : Warp) (c : Code) : Option Nat := if c = 0xFF then none else some (w.rd c 0).toNat

/-- The coordinates of a quad: four registers, or zeros for z. -/
def Warp.quad (w : Warp) (c : Code) : List Nat := [0, 1, 2, 3].map (fun j => (w.rd (nextCode c j) 0).toNat)

/-- A new operation of the path in issue. -/
def EngOp.make (c : Cur) (w : Warp) (kind : EngKind) (no total : Nat) (tok bar : Option Nat) : EngOp :=
  { w := c.w, core := coreOfKey c.w, path := c.p, pathMask := (w.path c.p).issueMask, pc := c.pc, kind := kind, no := no
    tok := tok, bar := bar, clearance := w.clearance, asid := w.asid, principal := w.principal, yld := none, done := 0
    total := total, cause := none, further := 0, paused := none
    gath := { todo := [], next := none, ids := [], count := 0, visited := 0, flags := 0, stop := false }
    owned := [], bound := [], snap := [], complete := false }

/-- A pending access precedes, in path order, what a path of this warp does now. -/
def Path.follows (q : Path) (key : Nat) (a : Access) : Bool := a.w == key && (q.segs.contains a.seg || q.after.contains a.seg)

/-- The accesses of a path to these lines, or to others that the operation may write, that are still pending stand before the grant
(R248); none while one of them cannot be performed. -/
def State.drainBefore (s : State) (c : Cur) (w : Warp) (e : EngOp) (os : List (Place × Nat)) : Option State :=
  s.settle (fun _ a => (w.path c.p).follows c.w a &&
    a.parts.any (fun p => os.contains (s.lineName a p) || (s.tagOf a p).any (fun t => s.mayWrite e t p.va)))

/-- Post an operation: it takes its destination lines, the stamps of taken lines are lost, its counter rises, its token is
pending on it (R286) (DEDUCED, log entry 34). None while an earlier access of the path to these lines cannot be performed. -/
def State.post (s : State) (c : Cur) (w : Warp) (e : EngOp) (os : List (Place × Nat)) : Option (Nat × State) :=
  (s.drainBefore c w e os).map (fun s1 =>
    let id := s1.fresh
    let s2 := os.foldl (fun (s : State) o => match o.1 with
      | .line t n => s.loseStamps (.line t n)
      | _ => s) s1
    let s3 := { s2 with engines := Assoc.put s2.engines id { e with owned := os }, fresh := id + 1 }
    (id, s3.updWarp c.w (fun w =>
      let w1 : Warp := if e.kind.isCopy then { w with copies := w.copies ++ [{ id := id, done := false }], copyNo := w.copyNo + 1 }
        else { w with tiles := w.tiles ++ [{ id := id, done := false }], tileNo := w.tileNo + 1 }
      match e.tok with
      | none => { w1 with seq := w1.seq + 1 }
      | some t => { w1 with seq := w1.seq + 1, tok := Assoc.put w1.tok t (.op id) })))

/-- The lines of destination ranges. -/
def EngOp.ownLines (e : EngOp) (dst : List Span) : List (Place × Nat) := (dst.flatMap e.linesOf).eraseDups

/-- An operation may do its next task: the operations of a warp have all started in the order of issue, since nothing but a task
shows that one has (R286; DEDUCED, log entry 15). Its core is awake (R400). -/
def State.engReady (s : State) (id : Nat) : Bool :=
  (s.engOp? id).any (fun e => !e.complete && e.paused.isNone && decide (e.done < e.total) && !s.asleep (.core e.core))

/-- All tasks of an operation are done. -/
def State.engFinished (s : State) (id : Nat) : Bool :=
  (s.engOp? id).any (fun e => !e.complete && e.paused.isNone && decide (e.total ≤ e.done))

/-! ## Completion (R145, R286, R292) -/

/-- A warp parked by `yield` for an operation. -/
def Warp.yieldedOn (w : Warp) (id : Nat) : Bool :=
  match w.held with
  | none => false
  | some h => match h.why with
    | .yielded k => k == id
    | _ => false

/-- Re-activate a warp that yielded for a complete operation: a held cause is delivered at its next boundary (R292, R294). -/
def State.reactivate (s : State) (key id : Nat) : State :=
  match s.warp? key with
  | none => s
  | some w =>
    if w.yieldedOn id then
      let s1 := s.unpark key
      let p := w.nextPath
      let c : Cur := { w := key, p := p, lanes := (w.path p).issueMask, pc := (w.path p).nextPc, len := 0, held := false }
      (s1.deliverHeld c ((s1.opsOf key).filter (fun e => e.1 == id)) []).getD s1
    else s

/-- An operation is complete, and so its token is done: its counter falls, a warp that yielded for it goes on. It is kept while a cause
waits to be delivered. -/
def State.engComplete (s : State) (id : Nat) : State :=
  match s.engOp? id with
  | none => s
  | some e =>
    let s1 := s.updEng id (fun e => { e with complete := true, owned := [], bound := [], snap := [] })
    let s2 := s1.updWarp e.w (fun w =>
      if e.kind.isCopy then { w with copies := complete w.copies id } else { w with tiles := complete w.tiles id })
    let s3 := s2.reactivate e.w id
    if e.cause.isNone then { s3 with engines := Assoc.erase s3.engines id } else s3

end Sys2Proof.Machine
end

