-- ==== Sys2Proof/Machine/Split.lean ====
section
/-!
DEFINITION. Split tiles (R42 to R49): scales, layout, the encoder, and the validation that every consumer makes.
-/
namespace Sys2Proof.Machine

/-! ## Exact magnitudes -/

/-- m × 2^e is at least m' × 2^e'. -/
def magGe (m : Nat) (e : Int) (m' : Nat) (e' : Int) : Bool :=
  decide (m' * 2 ^ (e' - e).toNat ≤ m * 2 ^ (e - e').toNat)

/-- The nearest integer to a quotient, ties to even. -/
def rneDiv (a b : Nat) : Nat :=
  let q := a / b
  let r := a % b
  if b < 2 * r ∨ (b = 2 * r ∧ q % 2 = 1) then q + 1 else q

/-! ## Scales (R43) -/

/-- A scale code's significand and exponent: 0 for the zero scale. -/
def scaleValue (code : Nat) : Nat × Int := if code < 16 then (0, 0) else (16 + code % 16, (code / 16 : Nat) - 36)

/-- The smallest scale not less than M / qmax, with floor 2^-31; none above the largest (R49). -/
def scaleFor (qmax m : Nat) (e : Int) : Option Nat :=
  if m = 0 then some 0
  else (numsFrom 0x010 0x3E0).find? (fun c => magGe ((scaleValue c).1 * qmax) (scaleValue c).2 m e)

/-! ## A tile's content -/

/-- An outlier entry (R47): its place 64 × row + column, and its BF16 value. -/
structure Outlier where
  pos : Nat
  value : Nat
  deriving DecidableEq, Repr

/-- A tile: bits per code, scale codes, body codes by 64 × row + column, outliers in ascending order. -/
structure Split where
  w : Nat
  scales : List Nat
  codes : List Nat
  outs : List Outlier
  deriving DecidableEq, Repr

/-- The code of a hole (R42). -/
def holeCode (w : Nat) : Nat := 2 ^ (w - 1)

/-- The largest level. -/
def levelMax (w : Nat) : Nat := 2 ^ (w - 1) - 1

/-! ## The encoder (R49) -/

/-- An element is an outlier under a threshold, both values. -/
def isOutlier (tau x : Fp) : Bool :=
  match x with
  | .nan _ _ _ => true
  | .inf _ => true
  | .fin _ m e => match tau with
    | .nan _ _ _ => false
    | .inf s => s
    | .fin s mt et => s || mt == 0 || magGe m e mt et

/-- The magnitude of a finite value. -/
def fpMag (x : Fp) : Nat × Int :=
  match x with
  | .fin _ m e => (m, e)
  | _ => (0, 0)

/-- The largest magnitude of a list. -/
def maxMag (xs : List Fp) : Nat × Int :=
  xs.foldl (fun b x => if magGe (fpMag x).1 (fpMag x).2 b.1 b.2 then fpMag x else b) (0, 0)

/-- The level of a value under a scale, as a code of `w` bits. -/
def levelCode (w scale : Nat) (x : Fp) : Nat :=
  match x with
  | .fin s m e =>
    let v := scaleValue scale
    let q := if v.1 = 0 then 0
      else Nat.min (levelMax w) (rneDiv (m * 2 ^ (e - v.2).toNat) (v.1 * 2 ^ (v.2 - e).toNat))
    if s ∧ q ≠ 0 then 2 ^ w - q else q
  | _ => 0

/-- Encode a region of 64 × 64 patterns of a format, row by row: a tile, or the cause of R49; `limit` outliers are accepted,
more raise `many`. -/
def encodeRegion (f : FpFmt) (w tau limit many : Nat) (bits : List Nat) : Split ⊕ Nat :=
  let t := FpFmt.bf16.unpack tau
  let xs := bits.map f.unpack
  let far := xs.map (isOutlier t)
  let outs := ((numsFrom 0 4096).zip (bits.zip far)).filterMap (fun x =>
    if x.2.2 then some { pos := x.1, value := (f.convert .bf16 0 x.2.1).1 : Outlier } else none)
  if limit < outs.length then .inr many
  else
    let pairs := xs.zip far
    let blocks := (numsFrom 0 128).map (fun j => (pairs.drop (32 * j)).take 32)
    let scales := blocks.map (fun b =>
      let m := maxMag (b.map (fun x => if x.2 then .fin false 0 0 else x.1))
      scaleFor (levelMax w) m.1 m.2)
    if scales.any Option.isNone then .inr 0x14
    else
      let codes := (blocks.zip scales).flatMap (fun b =>
        b.1.map (fun x => if x.2 then holeCode w else levelCode w (b.2.getD 0) x.1))
      .inl { w := w, scales := scales.map (fun c => c.getD 0), codes := codes, outs := outs }

/-! ## The layout (R44 to R47) -/

/-- The number whose bits are these fields of `w` bits, the first lowest. -/
def packBits (w : Nat) (xs : List Nat) : Nat := xs.foldr (fun x n => x + 2 ^ w * n) 0

/-- Bytes of an entry. -/
def Outlier.word (o : Outlier) : Nat := o.value * 65536 + o.pos * 16

/-- The check byte (R45). -/
def checkByte (bs : List Byte) : Byte :=
  (bs.take 95 ++ (bs.take 256).drop 96).foldl (fun a b => a ^^^ b) 0x5A

/-- A tile's bytes with a threshold and a spill pointer. -/
def Split.image (t : Split) (tau spill : Nat) : List Byte :=
  let head := [BitVec.ofNat 8 (t.w - 2), 0] ++ bytesOfNat 2 t.outs.length ++ bytesOfNat 2 tau ++ zeros 2 ++
    bytesOfNat 6 (spill / 256) ++ zeros 81
  let rest := bytesOfNat 160 (packBits 10 t.scales) ++
    bytesOfNat 256 (packBits 32 ((t.outs.take 64).map Outlier.word)) ++ bytesOfNat (512 * t.w) (packBits t.w t.codes)
  head ++ [checkByte (head ++ [0] ++ rest)] ++ rest

/-- Bytes of the spill area of a tile's further entries. -/
def Split.spillBytes (t : Split) : List Byte := (t.outs.drop 64).flatMap (fun o => bytesOfNat 4 o.word)

/-- The tile that reads as zeros (R288): scales, codes and entries all zero. -/
def Split.zero (w : Nat) : Split :=
  { w := w, scales := List.replicate 128 0, codes := List.replicate 4096 0, outs := [] }

/-! ## Validation (R48) -/

/-- Orders 2 and the header part of 3: the number of outliers and the spill address, or a cause. -/
def splitHead (w : Nat) (bs : List Byte) : (Nat × Nat) ⊕ Nat :=
  let n := fieldOf bs 2 2
  let spill := fieldOf bs 8 6
  if bs[95]? ≠ some (checkByte bs) then .inr 0x36
  else if fieldOf bs 0 1 ≠ w - 2 ∨ fieldOf bs 1 1 ≠ 0 ∨ fieldOf bs 6 2 ≠ 0 ∨ fieldOf bs 14 81 ≠ 0 ∨ 256 < n ∨
      (64 < n ∧ spill = 0) then .inr 0x16
  else .inl (n, spill * 256)

/-- The spill area that a header names: its address and its size in bytes; none where the header names none that can be read. -/
def splitSpill (bs : List Byte) : Option (Nat × Nat) :=
  let n := fieldOf bs 2 2
  if 64 < n ∧ n ≤ 256 ∧ fieldOf bs 8 6 ≠ 0 then some (fieldOf bs 8 6 * 256, 4 * (n - 64)) else none

/-- A list rises strictly. -/
def risingNats : List Nat → Bool
  | [] => true
  | [_] => true
  | a :: b :: r => decide (a < b) && risingNats (b :: r)

/-- The rest of order 3, and order 4: the tile with its entries, those past the 64th from the spill area, or a cause. The codes
that `lost` names cannot be read; nothing is judged by them (R312). -/
def splitRest (w n : Nat) (bs spill : List Byte) (lost : Nat → Bool) : Split ⊕ Nat :=
  let words := (numsFrom 0 (Nat.min n 64)).map (fun i => fieldOf bs (256 + 4 * i) 4) ++
    (numsFrom 0 (n - 64)).map (fun i => fieldOf spill (4 * i) 4)
  let outs := words.map (fun x => ({ pos := x / 16 % 4096, value := x / 65536 } : Outlier))
  let body := fieldOf bs 512 (512 * w)
  let codes := (numsFrom 0 4096).map (fun i =>
    if lost i then (if outs.any (fun o => o.pos == i) then holeCode w else 0) else body / 2 ^ (w * i) % 2 ^ w)
  let field := fieldOf bs 96 160
  let scales := (numsFrom 0 128).map (fun j => field / 2 ^ (10 * j) % 1024)
  let holes := (codes.filter (fun c => c == holeCode w)).length
  if words.any (fun x => x % 16 != 0) || !risingNats (outs.map Outlier.pos) || holes != n ||
      outs.any (fun o => codes[o.pos]? != some (holeCode w)) then .inr 0x16
  else if scales.any (fun c => decide (0x3F0 ≤ c)) then .inr 0x15
  else .inl { w := w, scales := scales, codes := codes, outs := outs }

end Sys2Proof.Machine
end

