-- ==== Sys2Proof/Machine/Copy.lean ====
section
/-!
DEFINITION. The copy engine (R285 to R294): COPY, GATHER, SCATTER and TSPLIT, their tasks and their completion.
-/
namespace Sys2Proof.Machine

/-! ## Moves -/

/-- Bytes that an operation moves: destination, size, and the source or, without one, the bytes themselves. -/
structure Move where
  dst : Nat
  size : Nat
  src : Option Nat
  data : List Byte
  deriving DecidableEq, Repr

/-- The offsets of a box, level 0 fastest (R287). -/
def boxOffsets (e : List Nat) : List (List Nat) :=
  (numsFrom 0 (nth e 3)).flatMap (fun d => (numsFrom 0 (nth e 2)).flatMap (fun c =>
    (numsFrom 0 (nth e 1)).flatMap (fun b => (numsFrom 0 (nth e 0)).map (fun a => [a, b, c, d]))))

/-- The sum of two coordinates. -/
def addCoord (x y : List Nat) : List Nat := [0, 1, 2, 3].map (fun j => nth x j + nth y j)

/-- The move of one element: nothing where the destination is clipped, zeros where the source is. -/
def elementMove (hd hs : Handle) (n : Nat) (d c : List Nat) : List Move :=
  match spotOf hd d with
  | .at a => match spotOf hs c with
    | .at b => [{ dst := a, size := n, src := some b, data := [] }]
    | _ => [{ dst := a, size := n, src := none, data := zeros n }]
  | _ => []

/-- Moves grouped by the line of 128 bytes that they write, in order of first appearance. -/
def byLine (ms : List Move) : List (List Move) :=
  ((ms.map (fun m => m.dst / 128)).eraseDups).map (fun k => ms.filter (fun m => m.dst / 128 == k))

/-- The tasks of a dense COPY (R288). -/
def denseTasks (hd hs : Handle) (q c : List Nat) : List (List Move) :=
  byLine ((boxOffsets (extentsOf hs)).flatMap (fun o => elementMove hd hs (elemSize (hElem hs)) (addCoord q o) (addCoord c o)))

/-- The zero tile of a source handle (R288). -/
def zeroTile (hs : Handle) : List Byte := (Split.zero (hType hs + 2)).image (hTau hs) 0

/-- The tasks of a COPY of split tiles, line by line (R288, R293). -/
def tileTasks (hd hs : Handle) (q c : List Nat) : List (List Move) :=
  let e := extentsOf hs
  (boxOffsets [1, 1, nth e 2, nth e 3]).flatMap (fun o =>
    match spotOf hd (addCoord q o) with
    | .at a =>
      let lines := numsFrom 0 (tileBytes hs / 128)
      match spotOf hs (addCoord c o) with
      | .at b => lines.map (fun i => [{ dst := a + 128 * i, size := 128, src := some (b + 128 * i), data := [] }])
      | _ =>
        let z := zeroTile hs
        lines.map (fun i => [{ dst := a + 128 * i, size := 128, src := none, data := sliceBytes z (128 * i) 128 }])
    | _ => [])

/-- The tasks of an N:M COPY: the stored values with the metadata words of their groups (R281, R288). -/
def structuredTasks (hd hs : Handle) (q c : List Nat) : List (List Move) :=
  let n := elemSize (hElem hs)
  let vals := (boxOffsets (extentsOf hs)).flatMap (fun o => elementMove hd hs n (addCoord q o) (addCoord c o))
  let metas := vals.filterMap (fun m => m.src.map (fun b =>
    ({ dst := metaAddr hd m.dst, size := 2, src := some (metaAddr hs b), data := [] } : Move)))
  let once := ((metas.map Move.dst).eraseDups).filterMap (fun a => metas.find? (fun m => m.dst == a))
  byLine (vals ++ once)

/-- The number of the entry of a coordinate list that a coordinate leads to: none where a present level clips it (R281). -/
def entryAt (h : Handle) (c : List Nat) : Option Nat :=
  match adjustAll (levelsOf h) c with
  | .inl q => some (nth q 0)
  | .inr _ => none

/-- The tasks of a coordinate-list COPY: entries with their values and coordinates; the other coordinates of the operands stay as
they are, and an entry that one of them clips is neither read nor written (R281, R288; DEDUCED, log entry 49). -/
def listTasks (hd hs : Handle) (q c : List Nat) : List (List Move) :=
  let w := coordWidth hs
  let ks := numsFrom 0 (nth (extentsOf hs) 0)
  let vals := ks.flatMap (fun k => elementMove hd hs (elemSize (hElem hs)) (addCoord q [k]) (addCoord c [k]))
  let coords := ks.flatMap (fun k =>
    match entryAt hd (addCoord q [k]) with
    | none => []
    | some x => (numsFrom 0 (entryCoords hs)).map (fun j =>
      match entryAt hs (addCoord c [k]) with
      | some y => ({ dst := coordsAddr hd x + w * j, size := w, src := some (coordsAddr hs y + w * j), data := [] } : Move)
      | none => { dst := coordsAddr hd x + w * j, size := w, src := none, data := zeros w }))
  byLine (vals ++ coords)

/-- The tasks of a COPY. -/
def copyTasks (hd hs : Handle) (q c : List Nat) : List (List Move) :=
  match hType hs with
  | 0 => denseTasks hd hs q c
  | 3 => structuredTasks hd hs q c
  | 4 => listTasks hd hs q c
  | _ => tileTasks hd hs q c

/-- Where moves write. -/
def moveSpans (hd : Handle) (ms : List Move) : List Span :=
  ms.map (fun m => { scr := hScratch hd, addr := m.dst, size := m.size, align := m.size })

/-- Read what moves carry. -/
def State.readMoves (s : State) (id : Nat) (hd hs : Handle) (ms : List Move) : EngGot (List Put) :=
  engMap ms s (fun m s =>
    (match m.src with
      | some a => s.engRead id { scr := hScratch hs, addr := a, size := m.size, align := m.size }
      | none => .ok m.data s).bind (fun bs s =>
        .ok { scr := hScratch hd, addr := m.dst, align := m.size, data := bs } s))

/-! ## Issue (R285 to R289, R291, R292) -/

/-- Subcauses 1 and 2 of 0x40 (R287), for handles with a coordinate and extents each: a box that runs along an absent level has a
coordinate that is nonzero there (DEDUCED, log entry 49). -/
def shapeBad (xs : List (Handle × List Nat × List Nat)) : Option Nat :=
  let each := fun (f : Option Level → Nat → Nat → Bool) =>
    xs.any (fun x => [0, 1, 2, 3].any (fun j => f (levelOf x.1 j) (nth x.2.1 j) (nth x.2.2 j)))
  if each (fun l c e => l.any (fun l => l.beyond == .trap && decide (l.bound ≤ c + e - 1))) then some 1
  else if each (fun l c e => l.isNone && decide (0 < c + e - 1)) then some 2
  else none

/-- Elements of a box. -/
def boxSize (e : List Nat) : Nat := e.foldl (fun n x => n * x) 1

/-- Bytes of a box: its elements, or the tiles that hold them (R8, R287; DEDUCED, log entry 49). -/
def boxBytes (h : Handle) (e : List Nat) : Nat :=
  if isSplit h then nth e 2 * nth e 3 * tileBytes h else boxSize e * elemSize (hElem h)

/-- The pair of types is none of R288's table. -/
def pairBad (hd hs : Handle) : Bool :=
  hType hd != hType hs || (hType hs == 3 && (hIndex hd != hIndex hs || hElem hd != hElem hs)) ||
    (hType hs == 4 && (hIndex hd != hIndex hs || presence hd != presence hs))

/-- The checks of COPY on its handles and coordinates (R286 step 2, R287, R288) (DEDUCED, log entry 49). -/
def copyBad (hd hs : Handle) (q c : List Nat) : Option (Nat × Nat) :=
  if pairBad hd hs then some (0x43, 1)
  else if hType hs = 0 ∧ hElem hd ≠ hElem hs then some (0x16, 0)
  else if 2 ^ 20 < boxBytes hs (extentsOf hs) then some (0x40, 0)
  else match shapeBad [(hs, c, extentsOf hs), (hd, q, extentsOf hd)] with
    | some b => some (0x40, b)
    | none =>
      if presence hd ≠ presence hs ∨ extentsOf hd ≠ extentsOf hs then some (0x40, 3)
      else if isSplit hs && [nth c 0, nth c 1, nth q 0, nth q 1].any (fun x => x % 64 != 0) then some (0x40, 4)
      else none

/-- The checks of TSPLIT (R287, R291). -/
def tsplitBad (hd hs : Handle) (q c : List Nat) : Option (Nat × Nat) :=
  let e := extentsOf hs
  if hType hs ≠ 0 ∨ isSplit hd = false then some (0x43, 0)
  else if 2 < hElem hs then some (0x16, 0)
  else if 2 ^ 20 < boxBytes hs e then some (0x40, 0)
  else match shapeBad [(hs, c, e), (hd, q, e)] with
    | some b => some (0x40, b)
    | none =>
      if nth e 0 % 64 ≠ 0 ∨ nth e 1 % 64 ≠ 0 ∨ nth q 0 % 64 ≠ 0 ∨ nth q 1 % 64 ≠ 0 then some (0x40, 4) else none

/-- The checks of GATHER and SCATTER on `n` rows, before and after the list range (R287, R289). -/
def rowsBad (hd hs : Handle) (gather : Bool) : Option (Nat × Nat) :=
  if hType hd ≠ 0 ∨ hType hs ≠ 0 then some (0x43, 0)
  else if hScratch (if gather then hd else hs) = false then some (0x43, 2)
  else if hElem hd ≠ hElem hs then some (0x16, 0)
  else if nth (extentsOf hd) 0 ≠ nth (extentsOf hs) 0 then some (0x40, 3)
  else none

/-- The shape checks of `n` rows, whose indices are `ixs` where they are known at issue. -/
def rowsShape (hd hs : Handle) (q : List Nat) (n : Nat) (ixs : List Nat) (gather : Bool) : Option (Nat × Nat) :=
  let e := nth (extentsOf hs) 0
  let one := [e, 1, 1, 1]
  let box := [e, n, 1, 1]
  let indexed := if gather then hs else hd
  if 2 ^ 20 < e * n * elemSize (hElem hs) then some (0x40, 0)
  else match shapeBad (if gather then [(hs, [0, 0, 0, 0], one), (hd, q, box)] else [(hs, q, box), (hd, [0, 0, 0, 0], one)]) with
    | some b => some (0x40, b)
    | none =>
      if (levelOf indexed 1).isNone && ixs.any (fun x => x != 0) then some (0x40, 2)
      else if !gather && (decide (e * elemSize (hElem hd) % 4 ≠ 0) || (levelOf hd 1).any (fun l => l.stride % 4 != 0)) then
        some (0x40, 5)
      else none

/-- The continuation of `yield` (R286, R292). -/
def contPc (c : Cur) (cont : BitVec 5) : DWord := c.pc + 8 + 4 * cont.setWidth 64

/-- The yield flag with a continuation at or past the code limit. -/
def State.yieldBad (s : State) (c : Cur) (w : Warp) (yld : BitVec 1) (cont : BitVec 5) : Bool :=
  yld == 1 && decide (s.codeEnd w ≤ (contPc c cont).toNat)

/-- Post a copy and retire, or yield: the path goes on at the continuation and the warp parks until the operation is complete
(R286, R292). -/
def State.postCopy (s : State) (c : Cur) (w : Warp) (i : Instr) (e : EngOp) (dst : List Span) (yld : BitVec 1)
    (cont : BitVec 5) : State :=
  if s.yieldBad c w yld cont then s.raiseWhole c 0x4C 0
  else match s.post c w { e with yld := if yld = 1 then some (contPc c cont) else none } (e.ownLines dst) with
  | none => s
  | some r =>
    if yld = 0 then r.2.retire c
    else
      let s1 := r.2.updWarp c.w (fun w =>
        if cont = 0 then w.advance c.p c.pc c.next else w.goto c.p .jump (contPc c cont))
      (s1.finish c false).updWarp c.w (fun w =>
        if w.held.isSome then w else { w with held := some { why := .yielded r.1, cur := c, i := some i } })

/-- Two handles, or 0x0A. -/
def State.withHandles (s : State) (c : Cur) (w : Warp) (d a : Code) (f : Handle → Handle → State) : State :=
  match w.handle? d, w.handle? a with
  | some hd, some hs => f hd hs
  | _, _ => s.raiseWhole c 0x0A 0

/-- COPY (R288). -/
def execCopy (d a b q tok bar : BitVec 8) (yld : BitVec 1) (cont : BitVec 5) (s : State) : Host.Outcome State Fault Refusal :=
  let i : Instr := .copy d a b q tok bar yld cont
  issue i .none s (fun s c w =>
    s.withHandles c w d a (fun hd hs =>
      let cd := w.quad q
      let cs := w.quad b
      match copyBad hd hs cd cs with
      | some (code, sub) => s.raiseWhole c code sub
      | none =>
        let ts := copyTasks hd hs cd cs
        s.postCopy c w i (EngOp.make c w (.copy hd hs cd cs) w.copyNo ts.length (tokenNo tok) (w.barOffset bar))
          (ts.flatMap (moveSpans hd)) yld cont))

/-- The destination coordinate of a split tile's region, and of its source (R291). -/
def regionOffsets (e : List Nat) : List (List Nat) :=
  (boxOffsets [nth e 0 / 64, nth e 1 / 64, nth e 2, nth e 3]).map (fun o => [64 * nth o 0, 64 * nth o 1, nth o 2, nth o 3])

/-- Where a TSPLIT writes the tile of a region. -/
def tsplitSpan (hd : Handle) (q o : List Nat) : List Span :=
  match spotOf hd (addCoord q o) with
  | .at a => [{ scr := hScratch hd, addr := a, size := tileBytes hd, align := 128 }]
  | _ => []

/-- Where a TSPLIT writes its tiles. -/
def tsplitSpans (hd hs : Handle) (q : List Nat) : List Span := (regionOffsets (extentsOf hs)).flatMap (tsplitSpan hd q)

/-- TSPLIT (R291). -/
def execTsplit (d a b q tok bar : BitVec 8) (yld : BitVec 1) (cont : BitVec 5) (s : State) :
    Host.Outcome State Fault Refusal :=
  let i : Instr := .tsplit d a b q tok bar yld cont
  issue i .none s (fun s c w =>
    s.withHandles c w d a (fun hd hs =>
      let cd := w.quad q
      let cs := w.quad b
      match tsplitBad hd hs cd cs with
      | some (code, sub) => s.raiseWhole c code sub
      | none =>
        s.postCopy c w i
          (EngOp.make c w (.tsplit hd hs cd cs) w.copyNo (regionOffsets (extentsOf hs)).length (tokenNo tok)
            (w.barOffset bar)) (tsplitSpans hd hs cd) yld cont))

/-- The row indices of GATHER and SCATTER without `list` (R289): the lanes of a lane register, or the one value. -/
def Warp.rowIndices (w : Warp) (c : Cur) (b : Code) : List Nat :=
  (w.onLanes none (!isLane b) c).map (fun l => (w.rd b l).toNat)

/-- The checks of an index list in scratchpad (R289): the range is that of `n` words. -/
def State.listBad (s : State) (w : Warp) (off n : Nat) : Option (Nat × Nat) :=
  if 4096 < n then some (0x40, 0)
  else if n = 0 then none
  else match formScratch (BitVec.ofNat 32 off) 4 0 (s.headerField w Launch.scratch) (s.twoGroups w) with
    | .bad _ code _ => some (code, 0)
    | .at _ => if s.headerField w Launch.scratch < off % 2 ^ 31 + 4 * n then some (0x22, 0) else none

/-! ## Rows (R289) -/

/-- The moves of row `k` with index `ix`; none where the index lies beyond a trap level. -/
def rowMoves (gather : Bool) (hd hs : Handle) (q : List Nat) (k ix : Nat) : Option (List Move) :=
  let at_ := fun (o : Nat) => [o, ix, 0, 0]
  let box := fun (o : Nat) => [nth q 0 + o, nth q 1 + k, nth q 2, nth q 3]
  let n := elemSize (hElem hs)
  let os := numsFrom 0 (nth (extentsOf hs) 0)
  let far := os.any (fun o => spotOf (if gather then hs else hd) (at_ o) == .trap)
  if far then none
  else some (os.flatMap (fun o =>
    if gather then elementMove hd hs n (box o) (at_ o) else elementMove hd hs n (at_ o) (box o)))

/-- The destination lines of a GATHER's row; a row that writes nothing has one empty task. -/
def gatherLines (hd hs : Handle) (q : List Nat) (k : Nat) : List (Nat × Option Nat) :=
  let as := (numsFrom 0 (nth (extentsOf hs) 0)).filterMap (fun o =>
    match spotOf hd [nth q 0 + o, nth q 1 + k, nth q 2, nth q 3] with
    | .at a => some (a / 128)
    | _ => none)
  match as.eraseDups with
  | [] => [(k, none)]
  | ls => ls.map (fun l => (k, some l))

/-- The tasks of a GATHER of `n` rows: row and destination line. -/
def gatherTasks (hd hs : Handle) (q : List Nat) (n : Nat) : List (Nat × Option Nat) :=
  (numsFrom 0 n).flatMap (gatherLines hd hs q)

/-- GATHER (R289). -/
def execGather (d a b q tok bar : BitVec 8) (yld list : BitVec 1) (cont : BitVec 5) (s : State) :
    Host.Outcome State Fault Refusal :=
  let i : Instr := .gather d a b q tok bar yld list cont
  issue i .none s (fun s c w =>
    s.withHandles c w d a (fun hd hs =>
      let cd := w.quad q
      let off := (w.rd b 0).toNat
      let rows := w.rowIndices c b
      let n := if list = 1 then (w.rd (nextCode b 1) 0).toNat else rows.length
      let range := if list = 1 then s.listBad w off n else none
      match (rowsBad hd hs true).or (range.or (rowsShape hd hs cd n (if list = 1 then [] else rows) true)) with
      | some (code, sub) => s.raiseWhole c code sub
      | none =>
        let kind : EngKind := if list = 1 then .gatherList hd hs cd off n else .gather hd hs cd rows
        s.postCopy c w i
          (EngOp.make c w kind w.copyNo (gatherTasks hd hs cd n).length (tokenNo tok) (w.barOffset bar)) [] yld cont))

/-- The index list of a SCATTER as it stands at issue, which names the lines that the operation takes (R248). -/
def State.listNow (s : State) (key off n : Nat) : List Nat :=
  match s.engScratch key { scr := true, addr := off, size := 4, align := 4 } with
  | .inl h => (numsFrom 0 n).map (fun k => natOfBytes (s.peekBytes h.place (h.off + 4 * k) 4))
  | .inr _ => []

/-- SCATTER (R289, R290). -/
def execScatter (d a b q tok bar : BitVec 8) (yld list ordered : BitVec 1) (cont : BitVec 5) (s : State) :
    Host.Outcome State Fault Refusal :=
  let i : Instr := .scatter d a b q tok bar yld list ordered cont
  issue i .none s (fun s c w =>
    s.withHandles c w d a (fun hd hs =>
      let cs := w.quad q
      let off := (w.rd b 0).toNat
      let rows := w.rowIndices c b
      let n := if list = 1 then (w.rd (nextCode b 1) 0).toNat else rows.length
      let range := if list = 1 then s.listBad w off n else none
      match (rowsBad hd hs false).or (range.or (rowsShape hd hs cs n (if list = 1 then [] else rows) false)) with
      | some (code, sub) => s.raiseWhole c code sub
      | none =>
        let kind : EngKind := if list = 1 then .scatterList hd hs cs off n (ordered == 1)
          else .scatter hd hs cs rows (ordered == 1)
        let dst := (withPos (if list = 1 then s.listNow c.w off n else rows) 0).flatMap (fun r =>
          moveSpans hd ((rowMoves false hd hs cs r.1 r.2).getD []))
        s.postCopy c w i (EngOp.make c w kind w.copyNo n (tokenNo tok) (w.barOffset bar)) dst yld cont))

/-! ## COPY's tasks -/

/-- One task of a COPY: its lines are written, or its cause is held, or it pauses. -/
def State.copyTask (s : State) (id : Nat) (e : EngOp) (hd hs : Handle) (q c : List Nat) : State :=
  let ms := ((copyTasks hd hs q c)[e.done]?).getD []
  s.engEnd id 1 e.tokenSub (e.ownLines (moveSpans hd ms))
    ((s.readMoves id hd hs ms).bind (fun ps s => s.engStoreLines id ps))

/-! ## GATHER's and SCATTER's tasks -/

/-- The index of a row: given at issue, or read from the list (R289). -/
def State.rowIndex (s : State) (id : Nat) (e : EngOp) (k : Nat) : EngGot Nat :=
  let given := fun (rows : List Nat) => EngGot.ok (nth rows k) s
  let listed := fun (off : Nat) =>
    (s.engRead id { scr := true, addr := off + 4 * k, size := 4, align := 4 }).bind (fun bs s => .ok (natOfBytes bs) s)
  match e.kind with
  | .gather _ _ _ rows => given rows
  | .scatter _ _ _ rows _ => given rows
  | .gatherList _ _ _ off _ => listed off
  | .scatterList _ _ _ off _ _ => listed off
  | _ => given []

/-- The row has met a cause. -/
def State.failRow (s : State) (id k : Nat) : State :=
  s.updEng id (fun e => { e with gath := { e.gath with ids := e.gath.ids ++ [k] } })

/-- What the row writes: its index, its moves, their bytes, with every check of its writes made (R289). -/
def State.rowPuts (s : State) (id : Nat) (e : EngOp) (gather : Bool) (hd hs : Handle) (q : List Nat) (k : Nat) :
    EngGot (List Put) :=
  (s.rowIndex id e k).bind (fun ix s =>
    match rowMoves gather hd hs q k ix with
    | none => .cause (if gather then 0x41 else 0x42) 0 s
    | some ms => (s.readMoves id hd hs ms).bind (fun ps s =>
      (engMap ps s (fun p s => s.engCheck id p)).bind (fun _ s => .ok ps s)))

/-- One task of a GATHER: a line of a row; the row's last makes its arrival (R286, R289). -/
def State.gatherTask (s : State) (id : Nat) (e : EngOp) (hd hs : Handle) (q : List Nat) (n : Nat) : State :=
  match (gatherTasks hd hs q n)[e.done]? with
  | none => s.engDone id []
  | some (k, line) =>
    if e.gath.ids.contains k then s.engDone id []
    else
      let g := (s.rowPuts id e true hd hs q k).bind (fun ps s =>
        s.engStore id (ps.filter (fun p => some (p.addr / 128) == line)))
      match g with
      | .ok _ r =>
        let last := ((gatherTasks hd hs q n)[e.done + 1]?).all (fun t => t.1 != k)
        (if last then r.engCount id else r).engDone id []
      | .cause c b r => (r.engDone id [(c, b)]).failRow id k
      | .pause va r => r.engPause id va 1 e.tokenSub
      | .wait r => s.waitIn r

/-- The rows of a SCATTER that meet no cause, with what each writes, and the causes of the others. -/
def State.scatterRows (s : State) (id : Nat) (e : EngOp) (hd hs : Handle) (q : List Nat) (ks : List Nat) :
    EngGot (List (Nat × List Put) × List (Nat × Nat × Nat)) :=
  match ks with
  | [] => .ok ([], []) s
  | k :: r =>
    let rest := fun (rows : List (Nat × List Put)) (bad : List (Nat × Nat × Nat)) (s : State) =>
      (s.scatterRows id e hd hs q r).bind (fun y s => .ok (rows ++ y.1, bad ++ y.2) s)
    match s.rowPuts id e false hd hs q k with
    | .ok ps s => rest [(k, ps)] [] s
    | .cause c b s => rest [] [(k, c, b)] s
    | .pause va s => .pause va s
    | .wait s => .wait s

/-- Rows have met causes: they are held, and the rows are left out. -/
def State.failRows (s : State) (id : Nat) (bad : List (Nat × Nat × Nat)) : State :=
  bad.foldl (fun (s : State) x => (s.updEng id (fun e => e.hold x.2.1 x.2.2 s.clock)).failRow id x.1) s

/-- The lines that rows write, in order of first appearance. -/
def rowLines (rows : List (Nat × List Put)) : List Nat :=
  (rows.flatMap (fun r => r.2.map (fun p => p.addr / 128))).eraseDups

/-- The row that supplies each unit of 4 bytes of a line: of the rows that target it the highest with `ordered`, else a free
choice (R290). -/
def State.chooseUnits (s : State) (rows : List (Nat × List Put)) (ordered : Bool) (units : List Nat) :
    List (Nat × Nat) × State :=
  match units with
  | [] => ([], s)
  | u :: r =>
    let ks := (rows.filter (fun x => x.2.any (fun p => p.addr / 4 == u))).map (fun x => x.1)
    let pick := if ordered then (ks.getLast?, s) else (ks[s.freeVal % ks.length]?, s.takeFree)
    let rest := pick.2.chooseUnits rows ordered r
    match pick.1 with
    | some k => ((u, k) :: rest.1, rest.2)
    | none => rest

/-- The rows of a SCATTER that have met no cause. -/
def EngOp.goodRows (e : EngOp) (n : Nat) : List Nat := (numsFrom 0 n).filter (fun k => !e.gath.ids.contains k)

/-- One task of a SCATTER: first each row is read and checked, the last of them with all that went before it, then each destination
line is written (R289, R290). The lines are those of the rows that are good when the reading ends, and `todo` keeps them: a row that meets a
cause later, as its line is written, leaves the others' lines as they are. -/
def State.scatterTask (s : State) (id : Nat) (e : EngOp) (hd hs : Handle) (q : List Nat) (n : Nat) (ordered : Bool) : State :=
  if e.done < n then
    match s.scatterRows id e hd hs q (if e.done + 1 = n then e.goodRows n else [e.done]) with
    | .ok r t =>
      let t1 := (t.failRows id r.2).engDone id []
      if e.done + 1 = n then
        t1.updEng id (fun e => { e with total := n + (rowLines r.1).length, gath := { e.gath with todo := rowLines r.1 } })
      else t1
    | .cause _ _ t => t
    | .pause va t => t.engPause id va 1 e.tokenSub
    | .wait t => s.waitIn t
  else
    let g := (s.scatterRows id e hd hs q (e.goodRows n)).bind (fun r s =>
      match e.gath.todo[e.done - n]? with
      | none => .ok ([], r.2) s
      | some line =>
        let here := r.1.map (fun r => (r.1, r.2.filter (fun p => p.addr / 128 == line)))
        let units := (here.flatMap (fun r => r.2.map (fun p => p.addr / 4))).eraseDups
        let ch := s.chooseUnits here ordered units
        let ps := here.flatMap (fun r => r.2.filter (fun p => ch.1.contains (p.addr / 4, r.1)))
        (ch.2.engStore id ps).bind (fun _ s => .ok (ps, r.2) s))
    match g with
    | .ok r t => ((t.failRows id r.2).engDone id []).engDisown id (e.ownLines (r.1.map Put.span))
    | .cause c b t => t.engDone id [(c, b)]
    | .pause va t => t.engPause id va 1 e.tokenSub
    | .wait t => s.waitIn t

/-- One line transfer of a copy-engine operation (R248, R249). -/
def execEngineLineTransfer (id : Nat) (s : State) : Host.Outcome State Fault Refusal :=
  if s.engReady id then
    match s.engOp? id with
    | none => .refused .notEnabled
    | some e => match e.kind with
      | .copy hd hs q c => .next (s.copyTask id e hd hs q c)
      | .gather hd hs q rows => .next (s.gatherTask id e hd hs q rows.length)
      | .gatherList hd hs q _ n => .next (s.gatherTask id e hd hs q n)
      | .scatter hd hs q rows o => .next (s.scatterTask id e hd hs q rows.length o)
      | .scatterList hd hs q _ n o => .next (s.scatterTask id e hd hs q n o)
      | _ => .refused .notEnabled
  else .refused .notEnabled

/-! ## TSPLIT's tasks (R291) -/

/-- The format of a dense handle's floating-point elements. -/
def fmtOf (e : Nat) : FpFmt :=
  match e with
  | 0 => .fp32
  | 1 => .fp16
  | 2 => .bf16
  | 3 => .e4m3
  | _ => .e5m2

/-- Read a region of 64 × 64 elements from a coordinate on, row by row; clipped elements are zero. -/
def State.readRegion (s : State) (id : Nat) (h : Handle) (c : List Nat) : EngGot (List Nat) :=
  let n := elemSize (hElem h)
  engMap (numsFrom 0 4096) s (fun i s =>
    match spotOf h (addCoord c [i % 64, i / 64, 0, 0]) with
    | .at a => (s.engRead id { scr := hScratch h, addr := a, size := n, align := n }).bind (fun bs s => .ok (natOfBytes bs) s)
    | _ => .ok 0 s)

/-- Take a spill area for a tile of `n` outliers (R291): its address and the write of the cursor; none beyond the capacity. -/
def State.takeSpill (s : State) (id : Nat) (aux n : Nat) : EngGot (Option (Nat × Put)) :=
  match s.engOp? id with
  | none => .wait s
  | some e =>
    (s.engHit e true { scr := false, addr := aux, size := 16, align := 16 }).bind (fun r s =>
      (s.engReach id false r.1).bind fun _ s =>
      if s.badAt r.1.place r.1.off 16 then .cause (s.errorCode r.1.place r.1.off 16) 0 s
      else
        let hdr := s.peekBytes r.1.place r.1.off 16
        let size := (4 * (n - 64) + 255) / 256 * 256
        let o := (16 + fieldOf hdr 0 8 + 255) / 256 * 256
        let c2 := o + size - 16
        if fieldOf hdr 8 8 < c2 then .ok none s
        else .ok (some (aux + o, { scr := false, addr := aux, align := 8, data := bytesOfNat 8 c2 })) s)

/-- Encode one tile and write it with its spill area: whether the operation goes on. -/
def State.tsplitTile (s : State) (id : Nat) (hd hs : Handle) (q c o : List Nat) : EngGot (List (Nat × Nat)) :=
  (s.readRegion id hs (addCoord c o)).bind (fun bits s =>
    match encodeRegion (fmtOf (hElem hs)) (hType hd + 2) (hTau hd) 256 0x12 bits with
    | .inr code => .cause code 0 s
    | .inl t =>
      match spotOf hd (addCoord q o) with
      | .at a =>
        let tile := fun (spill : Nat) =>
          ({ scr := hScratch hd, addr := a, align := 128, data := t.image (hTau hd) spill } : Put)
        if t.outs.length ≤ 64 then s.engStoreLines id [tile 0]
        else (s.takeSpill id (hAux hd) t.outs.length).bind (fun r s =>
          match r with
          | none => .cause 0x4B 0 s
          | some (sp, cursor) => s.engStoreLines id [cursor, { scr := false, addr := sp, align := 4, data := t.spillBytes }, tile sp])
      | _ => .ok [] s)

/-- The operation stops: no further task runs. -/
def State.engStop (s : State) (id : Nat) : State := s.updEng id (fun e => { e with done := e.total, owned := [], bound := [] })

/-- One tile of a TSPLIT; the first that raises 0x12, 0x14 or 0x4B stops the operation. -/
def execTsplitTileEncode (id : Nat) (s : State) : Host.Outcome State Fault Refusal :=
  if s.engReady id then
    match s.engOp? id with
    | none => .refused .notEnabled
    | some e => match e.kind with
      | .tsplit hd hs q c =>
        let o := ((regionOffsets (extentsOf hs))[e.done]?).getD []
        let g := s.tsplitTile id hd hs q c o
        let s1 := s.engEnd id 1 e.tokenSub (e.ownLines (tsplitSpan hd q o)) g
        match g with
        | .cause code _ _ => .next (if code = 0x12 ∨ code = 0x14 ∨ code = 0x4B then s1.engStop id else s1)
        | _ => .next s1
      | _ => .refused .notEnabled
  else .refused .notEnabled

/-! ## Completion (R286) -/

/-- The arrival of a completed operation: GATHER and BGATHER have made one per row. -/
def EngKind.arrivesOnce (k : EngKind) : Bool :=
  match k with
  | .copy _ _ _ _ => true
  | .scatter _ _ _ _ _ => true
  | .scatterList _ _ _ _ _ _ => true
  | .tsplit _ _ _ _ => true
  | .kstore _ _ _ _ _ _ _ => true
  | _ => false

/-- A copy-engine operation is complete: its writes are performed. -/
def State.copyFinished (s : State) (id : Nat) : Bool :=
  s.engFinished id && (s.engOp? id).any (fun e => e.kind.isCopy)

/-- The list header of a BGATHER, written after every gathered row (R331). -/
def State.listHeader (s : State) (id q2 : Nat) (g : Gathering) : State :=
  let bs := bytesOfNat 4 g.count ++ bytesOfNat 4 g.flags ++ bytesOfNat 4 g.visited ++ zeros 4
  match s.engStore id [{ scr := true, addr := q2, align := 16, data := bs }] with
  | .ok _ r => r
  | .cause k b r => r.updEng id (fun e => e.hold k b s.clock)
  | .pause _ r => r
  | .wait _ => s

def execCopyOperationComplete (id : Nat) (s : State) : Host.Outcome State Fault Refusal :=
  if s.copyFinished id then
    match s.engOp? id with
    | none => .refused .notEnabled
    | some e => match e.kind with
      | .bgather _ _ _ _ q2 _ _ _ => .next ((s.listHeader id q2 e.gath).engComplete id)
      | _ => .next ((if e.kind.arrivesOnce then s.engCount id else s).engComplete id)
  else .refused .notEnabled

end Sys2Proof.Machine
end

