-- ==== Sys2Proof/Machine/CrossLane.lean ====
section
/-!
DEFINITION. Cross-lane instructions (R178 to R184): votes, shuffles, matches, reductions, queue appends and the exchange
between partner warps.
-/
namespace Sys2Proof.Machine

/-! ## Within a path -/

/-- The wrapper of a cross-lane instruction (R178): guarded-off lanes write by R24; the receivers write what `f` gives them
from the contributors, with the exceptions it raises. Where a replay issues it for some lanes, those receive, and the whole path
contributes. `from_` names the contributors whose a it reads for a receiver: one of them
uncorrectable, or the receiver's own b, is 0x38 in that receiver (R359; DEDUCED, log entry 70). -/
def crossLane (i : Instr) (pf : Option Prefix) (d : Code) (s : State) (from_ : Warp → List Nat → Nat → List Nat)
    (f : Warp → List Nat → Nat → Word × FpFlags) : Host.Outcome State Fault Refusal :=
  issue i .none s (fun s c w =>
    let on := w.contributors pf c
    let takers := w.onLanes pf false c
    let w1 := if w.zeroPolicy pf then
        (c.lanes.lanes.filter (fun l => !(w.guardOf pf).getLsbD l)).foldl (fun (x : Warp) l => x.wr d l 0) w
      else w
    let bad := takers.filter (fun l => !(w.badLanes ((operandsOf i).drop 2) [l]).isEmpty ||
      !(w.badLanes (((operandsOf i).drop 1).take 1) (from_ w on l)).isEmpty)
    let s1 := s.setWarp c.w ((takers.filter (fun l => !bad.contains l)).foldl (fun (x : Warp) l =>
      (x.wr d l (f w on l).1).orFlags l (f w on l).2) w1)
    match bad with
    | [] => s1.retire c
    | _ => s1.raise c { code := 0x38, sub := 0, lanes := maskOf bad, addrs := [], other := false } none)

/-- BALLOT (R179). -/
def execBallot (pf : Option Prefix) (d a : BitVec 8) (s : State) : Host.Outcome State Fault Refusal :=
  crossLane (.ballot pf d a) pf d s (fun _ on _ => on) (fun w on _ => (maskOf (on.filter (fun j => w.rd a j != 0)), 0))

/-- A shuffle whose source lane is given by `from_`, none where it is out of range (R180). -/
def shuffle (i : Instr) (pf : Option Prefix) (d a b : Code) (s : State) (from_ : Nat → Nat → Option Nat) :
    Host.Outcome State Fault Refusal :=
  let source := fun (w : Warp) (on : List Nat) (l : Nat) =>
    match from_ l ((w.rd b l).toNat % 32) with
    | some j => if on.contains j then j else l
    | none => l
  crossLane i pf d s (fun w on l => [source w on l]) (fun w on l => (w.rd a (source w on l), 0))

def execShflIdx (pf : Option Prefix) (d a b : BitVec 8) (s : State) : Host.Outcome State Fault Refusal :=
  shuffle (.shflIdx pf d a b) pf d a b s (fun _ c => some c)
def execShflUp (pf : Option Prefix) (d a b : BitVec 8) (s : State) : Host.Outcome State Fault Refusal :=
  shuffle (.shflUp pf d a b) pf d a b s (fun l c => if c ≤ l then some (l - c) else none)
def execShflDown (pf : Option Prefix) (d a b : BitVec 8) (s : State) : Host.Outcome State Fault Refusal :=
  shuffle (.shflDown pf d a b) pf d a b s (fun l c => if l + c ≤ 31 then some (l + c) else none)
def execShflXor (pf : Option Prefix) (d a b : BitVec 8) (s : State) : Host.Outcome State Fault Refusal :=
  shuffle (.shflXor pf d a b) pf d a b s (fun l c => some (l ^^^ c))

/-- MATCH (R181). -/
def execMatchLanes (pf : Option Prefix) (d a : BitVec 8) (s : State) : Host.Outcome State Fault Refusal :=
  crossLane (.matchLanes pf d a) pf d s (fun _ on _ => on) (fun w on l => (maskOf (on.filter (fun j => w.rd a j == w.rd a l)), 0))

/-- The chain of R182 over these lanes in ascending order, with the exceptions of its steps. -/
def Warp.chain (w : Warp) (op : Nat) (a : Code) (ls : List Nat) : Word × FpFlags :=
  match ls with
  | [] => (0, 0)
  | l :: r => r.foldl (fun (acc : Word × FpFlags) j =>
      let x := combine op (w.rounding none) acc.1 (w.rd a j)
      (x.1, acc.2 ||| x.2)) (w.rd a l, 0)

/-- REDUX or SCAN: an operator code beyond the table is 0x1F for the whole instruction (R182). -/
def reduceLanes (i : Instr) (pf : Option Prefix) (d a c : Code) (s : State) (upTo : List Nat → Nat → List Nat) :
    Host.Outcome State Fault Refusal :=
  if c.toNat ≤ 0x0A then crossLane i pf d s (fun _ on l => upTo on l) (fun w on l => w.chain c.toNat a (upTo on l))
  else issue i .none s (fun s k _ => s.raiseWhole k 0x1F 0)

def execRedux (pf : Option Prefix) (d a c : BitVec 8) (s : State) : Host.Outcome State Fault Refusal :=
  reduceLanes (.redux pf d a c) pf d a c s (fun on _ => on)
def execScan (pf : Option Prefix) (d a c : BitVec 8) (s : State) : Host.Outcome State Fault Refusal :=
  reduceLanes (.scan pf d a c) pf d a c s (fun on l => on.filter (fun j => decide (j ≤ l)))

/-! ## QAPPEND (R183) -/

/-- The lanes' places in the queue: `old` plus the contributor's rank. -/
def Warp.takePlaces (w : Warp) (d : Code) (old : Nat) (on : List Nat) : Warp :=
  match on with
  | [] => w
  | l :: r => (w.wr d l (BitVec.ofNat 32 old)).takePlaces d (old + 1) r

/-- QAPPEND: one relaxed atomic on the cursor, made in this step; a cause of the cursor is every contributor's, and then no d is
written. -/
def execQappend (pf : Option Prefix) (d a : BitVec 8) (s : State) : Host.Outcome State Fault Refusal :=
  issue (.qappend pf d a) .none s (fun s c w =>
    let on := w.onLanes pf false c
    let w1 := if w.zeroPolicy pf then
        (c.lanes.lanes.filter (fun l => !(w.guardOf pf).getLsbD l)).foldl (fun (x : Warp) l => x.wr d l 0) w
      else w
    let fail := fun (s : State) (code : Nat) (va : DWord) =>
      s.raise c { code := code, sub := 0, lanes := maskOf on, addrs := on.map (fun l => (l, va)), other := false }
        none
    match on with
    | [] => (s.setWarp c.w w1).retire c
    | _ =>
      match s.scratchWord w (w.rd a 0) with
      | .bad code va => fail s code va
      | .at h =>
        match s.rmwNow c w h 4 0 on.length 0 false false (if 2 ^ 31 ≤ (w.rd a 0).toNat then .team else .wg) with
        | .hold => s
        | .mixed q => fail q 0x25 ((w.rd a 0).setWidth 64)
        | .done old q =>
          if s.badAt h.place h.off 4 then fail s 0x39 ((w.rd a 0).setWidth 64)
          else (q.updWarp c.w (fun x => { (w1.takePlaces d old on) with seq := w.seq + 1, heard := x.heard })).retire c)

/-! ## XCHGP (R184) -/

/-- XCHGP: with the partner's matching XCHGP already issued the two exchange; else the warp holds. It exchanges for the whole path,
also where a replay issues it; an uncorrectable register keeps the path from exchanging at all (DEDUCED, log entry 70). -/
def execXchgp (pf : Option Prefix) (d a : BitVec 8) (s : State) : Host.Outcome State Fault Refusal :=
  issue (.xchgp pf d a) .none s (fun s c0 w =>
    let c := w.wholeCur c0
    let bad := w.badLanes (operandsOf (.xchgp pf d a)) (w.contributors pf c)
    if bad ≠ [] then s.raise c { code := 0x38, sub := 0, lanes := maskOf bad, addrs := [], other := false } none
    else if !s.twoGroups w || s.xchgpAlone w then s.raiseWhole c 0x4D 0
    else match s.xchgpPartner w with
      | some (_, _, h) =>
        match h.i with
        | some (.xchgp p2 d2 a2) => s.exchange c pf d a h.cur p2 d2 a2
        | _ => s
      | none => s.parkAt c (.xchgp w.xchgp) (.xchgp pf d a))

/-- Both partners are held at their matching XCHGPs. -/
def State.xchgpReady (s : State) (key : Nat) : Bool :=
  match s.warp? key with
  | none => false
  | some w =>
    match w.held with
    | none => false
    | some h => h.why == .xchgp w.xchgp && w.halt.isNone && (s.xchgpPartner w).isSome

def execXchgpMatch (key : Nat) (s : State) : Host.Outcome State Fault Refusal :=
  if s.xchgpReady key then
    match (s.warp? key).bind (fun w => w.held.bind (fun h => (s.xchgpPartner w).map (fun p => (h, p.2.2)))) with
    | some (h1, h2) =>
      match h1.i, h2.i with
      | some (.xchgp p1 d1 a1), some (.xchgp p2 d2 a2) => .next (s.exchange h1.cur p1 d1 a1 h2.cur p2 d2 a2)
      | _, _ => .refused .notEnabled
    | none => .refused .notEnabled
  else .refused .notEnabled

end Sys2Proof.Machine
end

