-- ==== Sys2Proof/Machine/Launch.lean ====
section
/-!
DEFINITION. LAUNCH (R153 to R157), the queues and their dependence conditions (R158, R159), admission (R160 to R162, R371),
and the completion of warps, teams and launches (R130, R163).
-/
namespace Sys2Proof.Machine

/-! ## The launch record and the kernel header -/

/-- An address of a record: bits [63:56] zero, and a multiple of `al` (R156). -/
def addrBad (a al : Nat) : Bool := decide (2 ^ 56 ≤ a) || decide (a % al ≠ 0)

/-- The limits of the launch record, each with its byte offset, in ascending order (R156). `sup` says that the issuing warp is
in supervisor mode. -/
def recordChecks (r : List Byte) (sup : Bool) : List (Nat × Bool) :=
  let f := fieldOf r
  let inherit := decide (2 ^ 15 ≤ f 0x20 2)
  let asid := f 0x20 2 % 512
  [(0x00, addrBad (f 0x00 8) 256), (0x0C, f 0x0C 1 = 0 || decide (32 < f 0x0C 1)),
   (0x0D, f 0x0D 1 != 1 && f 0x0D 1 != 2), (0x0E, decide (2 < f 0x0E 1) && f 0x0E 1 != 0xFF), (0x0F, decide (7 < f 0x0F 1)),
   (0x10, addrBad (f 0x10 8) 16), (0x18, addrBad (f 0x18 8) 256),
   (0x20, f 0x20 2 / 512 % 64 != 0 || (!inherit && asid == 0 && !sup)),
   (0x22, !inherit && asid == 0 && f 0x22 2 != 0), (0x24, decide (15 < f 0x24 1)), (0x25, decide (1 < f 0x25 1)),
   (0x26, decide (4 < f 0x26 1)), (0x27, decide (2 < f 0x27 1)), (0x28, f 0x27 1 != 0 && addrBad (f 0x28 8) 4),
   (0x34, f 0x34 12 != 0)] ++
  (numsFrom 0 (Nat.min 4 (f 0x26 1))).flatMap (fun k =>
    [(0x40 + 16 * k, addrBad (f (0x40 + 16 * k) 8) 4), (0x4C + 16 * k, f (0x4C + 16 * k) 4 != 0)])

/-- The limits of the kernel header, each with its byte offset (R84). -/
def headerChecks (h : List Byte) : List (Nat × Bool) :=
  let f := fieldOf h
  let limit := f 0x0C 4
  let inCode := fun (x : Nat) => decide (x % 4 = 0) && decide (0x100 ≤ x) && decide (x < limit)
  [(0x00, f 0x00 4 != 0x4B344150), (0x04, f 0x04 2 != 1), (0x06, f 0x06 2 != 0), (0x08, !inCode (f 0x08 4)),
   (0x0C, limit % 4 != 0), (0x10, f 0x10 1 = 0 || decide (128 < f 0x10 1)), (0x11, decide (64 < f 0x11 1)),
   (0x12, decide (4 < f 0x12 1)), (0x13, decide (2 < f 0x13 1)),
   (0x14, decide (Config.scratchBytes < f 0x14 4) || f 0x14 4 % 16 != 0),
   (0x18, f 0x18 4 != 0 && (decide (f 0x18 4 < 512) || decide (262144 < f 0x18 4) || f 0x18 4 % 128 != 0)),
   (0x1C, decide (65536 < f 0x1C 4) || f 0x1C 4 % 4 != 0), (0x20, f 0x20 4 != 0 && !inCode (f 0x20 4)),
   (0x24, f 0x28 2 = 0 && f 0x24 4 != 0), (0x28, decide (4096 < f 0x28 2)), (0x2A, f 0x2A 0xD6 != 0)]

/-- The first field that breaks its limit. -/
def firstBroken (cs : List (Nat × Bool)) : Option Nat := (cs.find? (fun c => c.2)).map (fun c => c.1)

/-- The launch that a record and a header describe, as it stands in the queue (R153, R156, R157). -/
def Launch.ofRecord (r h : List Byte) (die : Nat) (asid principal : Nat) (clr : Option DWord) (mask : BitVec 4) : Launch :=
  let f := fieldOf r
  let g := fieldOf h
  { number := 0, die := die, prio := f 0x0F 1, order := 0, queued := true, header := BitVec.ofNat 64 (f 0x00 8)
    gridX := f 0x08 2 + 1, gridY := f 0x0A 1 + 1, gridZ := f 0x0B 1 + 1, wgWarps := f 0x0C 1, teamWgs := f 0x0D 1
    cls := if f 0x0E 1 = 0xFF then g 0x13 1 else Nat.min (f 0x0E 1) (g 0x13 1)
    args := BitVec.ofNat 64 (f 0x10 8), clearance := clr, asid := asid, principal := principal, dieMask := mask
    grant := decide (f 0x25 1 = 1)
    deps := (numsFrom 0 (f 0x26 1)).map (fun k =>
      { addr := BitVec.ofNat 64 (f (0x40 + 16 * k) 8), value := BitVec.ofNat 32 (f (0x48 + 16 * k) 4)
        holds := false, logged := false, failed := false })
    doneKind := f 0x27 1, doneAddr := BitVec.ofNat 64 (f 0x28 8), doneValue := BitVec.ofNat 32 (f 0x30 4)
    entry := g 0x08 4, codeLimit := g 0x0C 4, vregs := g 0x10 1, sregs := g 0x11 1, acctiles := g 0x12 1
    scratch := g 0x14 4, hashmax := g 0x18 4, constSize := g 0x1C 4, trap := g 0x20 4, safeTable := g 0x24 4
    safeCount := g 0x28 2, next := 0, completed := 0, saved := [], savedSyncs := [], doneFailed := false, known := [], made := [] }

/-- Teams of the grid. -/
def Launch.total (l : Launch) : Nat := l.gridX * l.gridY * l.gridZ

/-! ## Resources of a core (R160) -/

/-- Bytes of the scratchpad allocation of a workgroup. -/
def Launch.scratchSize (l : Launch) : Nat := (l.scratch + l.hashmax + 1023) / 1024 * 1024
/-- Bytes of lane registers of one warp. -/
def Launch.regBytes (l : Launch) : Nat := (l.vregs + 7) / 8 * 8 * 128
/-- Warps of a workgroup that lie in a partition. -/
def Launch.warpsIn (l : Launch) (p : Nat) : Nat := (l.wgWarps + 3 - p) / 4

/-- The workgroups admitted to a core, each with its launch. -/
def State.groupsOn (s : State) (core : Nat) : List (Launch × Group) :=
  s.teams.flatMap (fun t => match s.launch? t.2.launch with
    | none => []
    | some l => (t.2.groups.filter (fun g => g.core == core)).map (fun g => (l, g)))

/-- Scratchpad ranges of a core that are not free: allocations, present core-pinned pages, and slots for which a walk waits
(R216). -/
def State.takenOn (s : State) (core : Nat) : List (Nat × Nat) :=
  ((s.groupsOn core).filter (fun x => decide (0 < x.2.size))).map (fun x => (x.2.base, x.2.size)) ++
    (s.pinned.filter (fun p => p.core == core)).map (fun p => (p.slot * 65536, 65536)) ++
    s.misses.filterMap (fun m => match m.2.result with
      | .waitSlot c k _ _ => if c = core then some (k * 65536, 65536) else none
      | .pending => none
      | .noCore _ _ => none
      | .fault _ _ => none)

/-- The range meets none of the others. -/
def rangeFree (taken : List (Nat × Nat)) (base size : Nat) : Bool :=
  decide (base + size ≤ Config.scratchBytes) && taken.all (fun t => decide (base + size ≤ t.1) || decide (t.1 + t.2 ≤ base))

/-- The lowest place for an allocation of `size` bytes (DESIGN CHOICE, log entry 85). -/
def lowestGap (taken : List (Nat × Nat)) (size : Nat) : Option Nat :=
  let starts := (0 :: taken.map (fun t => t.1 + t.2)).filter (fun b => rangeFree taken b size)
  match starts with
  | [] => none
  | b :: r => some (r.foldl (fun a x => Nat.min a x) b)

/-- The lowest free slots of a partition. -/
def freeSlots (used : List Nat) (p n : Nat) : List Nat := ((numsFrom (16 * p) 16).filter (fun k => !used.contains k)).take n

/-- Slots for a workgroup's warps, warp by warp, warp w in partition w mod 4 (R150): of the free ones the lowest (DESIGN CHOICE, log
entry 85). -/
def slotsFor (used : List Nat) (l : Launch) : List Nat :=
  let by_ := (numsFrom 0 4).map (fun p => freeSlots used p (l.warpsIn p))
  (numsFrom 0 l.wgWarps).map (fun w => (((by_[w % 4]?).getD [])[w / 4]?).getD 0)

/-- A place for a workgroup on a core: the base of its allocation and its slots; none where it does not fit (R160). -/
def State.roomOn (s : State) (core : Nat) (l : Launch) : Option (Nat × List Nat) :=
  let gs := s.groupsOn core
  let used := gs.flatMap (fun x => x.2.slots)
  let slotsOk := (numsFrom 0 4).all (fun p => decide ((freeSlots used p (l.warpsIn p)).length = l.warpsIn p))
  let regsOk := (numsFrom 0 4).all (fun p =>
    decide (gs.foldl (fun n x => n + x.1.warpsIn p * x.1.regBytes) 0 + l.warpsIn p * l.regBytes ≤ Config.regBytesPerPartition))
  let tilesOk := decide (gs.foldl (fun n x => n + x.1.acctiles) 0 + l.acctiles ≤ Config.tilesPerCore)
  if slotsOk && regsOk && tilesOk then
    if l.scratchSize = 0 then some (0, slotsFor used l)
    else (lowestGap (s.takenOn core) l.scratchSize).map (fun b => (b, slotsFor used l))
  else none

/-- Working cores on which a launch may place teams (R156). -/
def State.coresFor (s : State) (l : Launch) : List Nat :=
  (numsFrom 0 Config.cores).filter (fun c => l.dieMask.getLsbD (dieOfCore c) && !s.failed.getLsbD (dieOfCore c))

/-- The cores that a team may start on: each, or the even ones of the pairs (R150). -/
def State.firstCores (s : State) (l : Launch) : List Nat :=
  if l.teamWgs = 1 then s.coresFor l else (s.coresFor l).filter (fun c => decide (c % 2 = 0))

/-- Gaps between taken ranges of an empty core, in allocations of `size` bytes. -/
def gapCount (taken : List (Nat × Nat)) (size base fuel : Nat) : Nat :=
  match fuel with
  | 0 => 0
  | fuel + 1 => match lowestGap ((0, base) :: taken) size with
    | none => 0
    | some b => 1 + gapCount taken size (b + size) fuel

/-- Workgroups of a launch that an otherwise empty core holds at once (R160). -/
def State.emptyCapacity (s : State) (core : Nat) (l : Launch) : Nat :=
  let pins := (s.pinned.filter (fun p => p.core == core)).map (fun p => (p.slot * 65536, 65536))
  let warps := l.warpsIn 0
  let bySlots := 16 / warps
  let byRegs := Config.regBytesPerPartition / (warps * l.regBytes)
  let byTiles := if l.acctiles = 0 then 16 else Config.tilesPerCore / l.acctiles
  let byScratch := if l.scratchSize = 0 then 16 else gapCount pins l.scratchSize 0 16
  Nat.min (Nat.min bySlots byRegs) (Nat.min byTiles byScratch)

/-- Teams of a launch that the empty cores hold at once. -/
def State.teamCapacity (s : State) (l : Launch) : Nat :=
  (s.firstCores l).foldl (fun n c =>
    n + (if l.teamWgs = 1 then s.emptyCapacity c l else Nat.min (s.emptyCapacity c l) (s.emptyCapacity (c + 1) l))) 0

/-! ## LAUNCH (R153, R154) -/

/-- How a LAUNCH ends. -/
inductive LaunchGot where
  /-- its path waits for fills or a slot -/
  | wait (s : State)
  /-- the queue is full (R153) -/
  | full
  | done (s : State)

/-- The first line of a block whose read meets a cause. -/
def State.firstBadLine (s : State) (asid : Nat) (team : Option Nat) (va k : Nat) : Nat :=
  match k with
  | 0 => va
  | k + 1 => match s.readPart asid team va 128 with
    | .ok _ q => q.firstBadLine asid team (va + 128) k
    | .cause _ _ _ => va
    | .wait _ => va

/-- The clearance of a launch is loaded, as CLRSET loads one, in the launched ASID where the record names one; the bits found
beside bit 0 make the context tagged (R154 step 7, R402) (DEDUCED, log entry 31). -/
def State.launchClearance (s : State) (c : Cur) (w : Warp) (asid : Nat) (clr : Option DWord) (named : Bool) : Got Bool :=
  match clr with
  | none => .ok false s
  | some a =>
    if named then
      match s.bitmapLoads c { w with asid := asid } a.toNat 64 with
      | .ok bits q => .ok (decide (1 < bits)) q
      | .cause k b q => .cause k b q
      | .wait q => .wait q
    else
      match s.readBitmap asid (some w.team) a.toNat 64 with
      | .ok bits q => .ok (decide (1 < bits)) q
      | .cause _ _ _ => .ok true s
      | .wait _ => .ok true s

/-- What happens before every access of a launch's warps: the accesses of the issuing path, and what it knows (R155). -/
def Warp.launchKnown (w : Warp) (key p : Nat) : List Known :=
  let q := w.path p
  { agent := { w := key, team := w.team, wg := w.wg }, scope := .system, seq := w.seq, all := false, segs := q.segs, but := []
    after := q.after } :: (w.heard.filter (fun h => q.segs.contains h.seg || q.after.contains h.seg)).flatMap Heard.known

/-- Queue a checked launch at the tail (R153). A granted launch privilege is the launched context's (R68, R156), which keeps it
until ASINV (DEDUCED, log entry 72). -/
def State.enqueue (s : State) (c : Cur) (w : Warp) (d : Code) (l : Launch) (tagged : Bool) : State :=
  let id := s.fresh
  let n := (s.launchNo[l.die]?).getD 0
  let old := (s.ctxOf l.asid).tagged && s.launches.any (fun x => x.2.asid == l.asid)
  let s1 := { s with launches := Assoc.put s.launches id { l with number := n, order := id, known := w.launchKnown c.w c.p }, fresh := id + 1,
                     launchNo := listUpd s.launchNo l.die (fun x => x + 1) }
  let s2 := s1.updCtx l.asid (fun x =>
    { x with tagged := old || tagged || decide (l.principal ≠ 0), launchPriv := x.launchPriv || l.grant })
  s2.retireWith c (fun w => w.wr d 0 n)

/-- Steps 7 to 9 of R154 and the queue, once the record `r` is read and checked (DEDUCED, log entry 58). Where not even one team of
a concurrent launch fits, both conditions of R160 hold: subcause 1 is raised (DESIGN CHOICE, log entry 73). A launch counts toward
the 64 of its queue until its last team has been admitted (DESIGN CHOICE, log entry 74). -/
def State.launchRecord (s : State) (c : Cur) (w : Warp) (d : Code) (r : List Byte) : LaunchGot :=
  let inherit := decide (2 ^ 15 ≤ fieldOf r 0x20 2)
  let asid := if inherit then w.asid else fieldOf r 0x20 2 % 512
  let principal := if inherit then w.principal else fieldOf r 0x22 2
  let die := dieOfCore (coreOfKey c.w)
  let cad := fieldOf r 0x18 8
  let named := if cad = 0 then w.clearance else some (BitVec.ofNat 64 cad)
  -- in the non-secure authorised state the supervisor context is cleared for tag 0 alone (R402)
  let clr := if asid = 0 ∧ s.lock = .nonSecure then none else named
  let header := fieldOf r 0x00 8
  if s.isLive asid = false then .done (s.raiseWhole c 0x33 0)
  else match s.launchClearance c w asid named (cad != 0) with
    | .cause k b q => .done (q.raiseAt c k b (q.firstBadLine asid (some w.team) cad 64))
    | .wait q => .wait q
    | .ok tagged q =>
      let who : Who := { (w.who c.w c.p) with asid := asid, principal := principal, clr := clr }
      match q.loadNow who header 256 with
      | .cause k b q => .done (q.raiseAt c k b (q.firstBadLine asid (some w.team) header 2))
      | .wait q => .wait q
      | .ok h q =>
        let q := q.permEvents who false h.2 0 (w.path c.p).mask
        match firstBroken (headerChecks h.1) with
        | some off => .done (q.raiseWhole c 0x5A off)
        | none =>
          let dies := BitVec.ofNat 4 (fieldOf r 0x24 1)
          let mask := (if dies = 0 then 1#4 <<< die else dies) &&& ~~~q.failed
          let l := Launch.ofRecord r h.1 die asid principal clr mask
          if mask = 0 then .done (q.raiseWhole c 0x58 0)
          else if q.teamCapacity l = 0 then .done (q.raiseWhole c 0x58 1)
          else if l.cls = 0 ∧ q.teamCapacity l < l.total then .done (q.raiseWhole c 0x58 0)
          else if Config.queueDepth ≤
              (q.launches.filter (fun x => x.2.die == die && x.2.prio == l.prio && x.2.queued)).length then .full
          else .done (q.enqueue c w d l tagged)

/-- LAUNCH from its second check on (R154). -/
def State.launchTry (s : State) (c : Cur) (w : Warp) (d a : Code) : LaunchGot :=
  let x := w.rdPair a 0
  if 2 ^ 56 ≤ x.toNat then .done (s.raiseAt c 0x24 0 x.toNat)
  else if x.toNat % 128 ≠ 0 then .done (s.raiseWhole c 0x59 0)
  else match s.formBlock c w x 128 16 8 true false with
    | f :: r => .done (s.raiseOnce c (f :: r))
    | [] =>
      match s.readLanes c w true 16 (unitAddrs x.toNat 16 8) with
      | .hold q => .wait q
      | .done vals causes q =>
        match causes with
        | f :: r => .done (q.raiseOnce c (f :: r))
        | [] =>
          let r := blockBytes vals 8
          match firstBroken (recordChecks r w.supervisor) with
          | some off => .done (q.raiseWhole c 0x59 off)
          | none => q.launchRecord c w d r

/-- LAUNCH (R153): with the queue full the warp is held, with its other paths, before it has had any effect (DEDUCED, and for the
other paths DESIGN CHOICE, log entry 29). -/
def execLaunch (d a : BitVec 8) (s : State) : Host.Outcome State Fault Refusal :=
  issue (.launch d a) .launch s (fun s c w =>
    match s.launchTry c w d a with
    | .wait q => q
    | .full => s.parkAt c .launch (.launch d a)
    | .done q => q)

/-- A LAUNCH held before a full queue tries again: none while the queue is still full. -/
def State.enqueueTry (s : State) (key : Nat) : Option State :=
  match s.warp? key with
  | none => none
  | some w =>
    match w.held with
    | none => none
    | some h =>
      if w.halt.isSome then none
      else match h.why, h.i with
        | .launch, some (.launch d a) =>
          match (s.unpark key).launchTry h.cur { w with held := none } d a with
          | .wait q => some q
          | .full => none
          | .done q => some q
        | _, _ => none

def execLaunchEnqueue (key : Nat) (s : State) : Host.Outcome State Fault Refusal :=
  match s.enqueueTry key with
  | some t => .next t
  | none => .refused .notEnabled

/-! ## The distributor (R158, R159) -/

/-- A die's distributor as a requester for a launch (R158); it is no core and has its own place for clearances. -/
def Launch.who (l : Launch) : Who :=
  { core := Config.cores + l.die, slot := 0, path := 0, asid := l.asid, principal := l.principal, team := none
    clr := l.clearance }

/-- The record header of a distributor's entry: the cause, the launch number, the context and the ticket (R159, R352)
(DESIGN CHOICE, log entry 28). -/
def State.distHeader (s : State) (l : Launch) (code ticket : Nat) : List Byte :=
  [BitVec.ofNat 8 code, 0, 0, 0] ++ bytesOfNat 4 l.number.toNat ++ zeros 28 ++ bytesOfNat 2 l.asid ++
    bytesOfNat 2 l.principal ++ zeros 2 ++ bytesOfNat 2 s.device ++ bytesOfNat 4 ticket ++ bytesOfNat 8 s.clock.toNat ++ zeros 8

/-- The next ticket of a die's distributor, which numbers its own: kind 3 (R352). -/
def State.distTicket (s : State) (l : Launch) : Nat × State :=
  let c := Config.cores + l.die
  let t := l.die * 2 ^ 30 + 3 * 2 ^ 16 + (s.core c).ticket % 65536
  let s1 := s.updCore c (fun c => { c with ticket := (c.ticket + 1) % 65536 })
  (t, { s1 with tickets := Assoc.put s1.tickets t (.distributor l.order) })

/-- Append, or hold, a distributor's entry (R159, R353). -/
def State.distLog (s : State) (l : Launch) (code : Nat) (va : Nat) : State :=
  let t := s.distTicket l
  t.2.logOrHold (faultEntry (t.2.distHeader l code t.1) va)

/-- What strong writes have told at these bytes, to agents outside every smaller instance. -/
def State.toldAt (s : State) (place : Place) (off n : Nat) : List Known :=
  (s.told.filter (fun x => x.place == place && decide (x.off < off + n) && decide (off < x.off + x.len) && x.scope.hard)).flatMap
    Told.known

/-- Change a dependence condition. -/
def State.updDep (s : State) (id k : Nat) (f : Dep → Dep) : State :=
  s.updLaunch id (fun l => { l with deps := listUpd l.deps k f })

/-- A read of a dependence word that changes something: the condition holds, the read fails, or is denied for the first time;
none where it changes nothing (R158, R159). -/
def State.depTry (s : State) (id k : Nat) : Option State :=
  match s.launch? id with
  | none => none
  | some l =>
    match l.deps[k]? with
    | none => none
    | some d =>
      if d.holds || d.failed || !l.queued then none
      else match s.resolveRead l.who d.addr.toNat 4 with
        | .cause c _ q => some ((q.distLog l c d.addr.toNat).updDep id k (fun d => { d with failed := true }))
        | .wait q => s.newWait q
        | .ok (none, tag) q =>
          let q1 := if d.logged then q
            else (q.permEvent l.who true (d.addr.toNat / 128 * 128) tag 0 0).updDep id k (fun d => { d with logged := true })
          if d.value = 0 then some (q1.updDep id k (fun d => { d with holds := true }))
          else if d.logged then none else some q1
        | .ok (some h, _) q =>
          if d.value.toNat ≤ natOfBytes (q.peekBytes h.place h.off 4) then
            some ((q.updDep id k (fun d => { d with holds := true })).updLaunch id (fun l =>
              { l with known := l.known ++ q.toldAt h.place h.off 4 }))
          else none

def execDependenceConditionRead (id k : Nat) (s : State) : Host.Outcome State Fault Refusal :=
  match s.depTry id k with
  | some t => .next t
  | none => .refused .notEnabled

/-- A launch is ready (R158). -/
def Launch.ready (l : Launch) : Bool := l.deps.all (fun d => d.holds)

/-- The current launch of a die (R158): ready, with teams to admit, not held, of highest priority and then earliest. -/
def State.current (s : State) (die : Nat) : Option (Nat × Launch) :=
  let can := s.launches.filter (fun e => e.2.die == die && e.2.ready && !(s.ctxOf e.2.asid).preempt.getLsbD 0 &&
    (decide (e.2.next < e.2.total) || !e.2.saved.isEmpty))
  can.foldl (fun (b : Option (Nat × Launch)) e =>
    match b with
    | none => some e
    | some x => if x.2.prio < e.2.prio ∨ (x.2.prio = e.2.prio ∧ e.2.order < x.2.order) then some e else some x) none

/-! ## Admission (R160 to R162) -/

/-- A warp as it starts (R162). -/
def Warp.start (launch team wg warpId asid principal : Nat) (launchPriv : Bool) (clr : Option DWord) (pc : DWord)
    (known : List Known) : Warp :=
  { launch := launch, team := team, wg := wg, warpId := warpId, asid := asid, principal := principal
    launchPriv := launchPriv, v := [], sreg := [], m := [], h := [], tok := [], mode := 0, fpflags := [], badReg := []
    paths := { Path.empty with status := .run, pc := pc, mask := Mask.full, segs := [0] } :: List.replicate 7 Path.empty
    live := Mask.full, loads := [], stores := [], copies := [], tiles := [], copyNo := 0, tileNo := 0, clearance := clr
    held := none, halt := none, halting := false, trap := none, pending := false, pre := .normal, lastSafe := none, watch := 0, handler := 0
    overdue := 0, barWg := 0, barTeam := 0, barWgPre := 0, barTeamPre := 0, barWgRes := 0, barTeamRes := 0
    barArrived := none, xchgp := 0, batchNo := 0, batchSeq := 0
    openBatch := [], batches := [], index := [], slice := Slice.reset, span := false, retired := 0, syncs := 0, age := 0
    yielded := [], seg := 1, seq := 1, heard := [{ seg := 0, seq := 0, op := 0, acq := true, known := known }], marks := [] }

/-- The context of a launch's warps holds launch privilege: granted by the record, or the supervisor's (R156, R399). -/
def Launch.privileged (l : Launch) : Bool := l.grant || l.asid == 0

/-- A workgroup just admitted: its scratchpad reads zero (R162). -/
def Group.fresh (core base size : Nat) (slots : List Nat) : Group :=
  { core := core, base := base, size := size, slots := slots, scratch := [], badScratch := [], claims := [], tiles := []
    quarters := [] }

/-- The rooms for a team that would start on a core. -/
def State.roomsAt (s : State) (l : Launch) (core : Nat) : Option (List Group) :=
  match s.roomOn core l with
  | none => none
  | some a =>
    if l.teamWgs = 1 then some [Group.fresh core a.1 l.scratchSize a.2]
    else (s.roomOn (core + 1) l).map (fun b =>
      [Group.fresh core a.1 l.scratchSize a.2, Group.fresh (core + 1) b.1 l.scratchSize b.2])

/-- Lent units stand in the way of a workgroup (R160, R207). -/
def State.lentInWay (s : State) (g : Group) : Bool :=
  decide (s.lentMax g.core - (g.size + Config.lentUnit - 1) / Config.lentUnit < (s.core g.core).lent)

/-- The warps of a workgroup, warp by warp. -/
def State.startGroup (s : State) (id team wg : Nat) (l : Launch) (g : Group) : State :=
  (numsFrom 0 l.wgWarps).foldl (fun (s : State) w =>
    match g.keyAt w with
    | none => s
    | some k =>
      { s with warps := Assoc.put s.warps k
                 (Warp.start id team wg w l.asid l.principal l.privileged l.clearance (pairTarget (l.header + BitVec.ofNat 64 l.entry)) l.known) }) s

/-- Place the team of a linear index (R150, R160): which core is a free choice, among those where no lent unit stands in the
way if there is one (DESIGN CHOICE, log entry 2). -/
def State.placeTeam (s : State) (id : Nat) (l : Launch) (index : Nat) : Option State :=
  let all := (s.firstCores l).filterMap (fun c => s.roomsAt l c)
  let easy := all.filter (fun gs => gs.all (fun g => !s.lentInWay g))
  let can := if easy = [] then all else easy
  match can[s.freeVal % can.length]? with
  | none => none
  | some gs =>
    let team := s.fresh
    let t : Team := { launch := id, index := index, x := index % l.gridX, y := index / l.gridX % l.gridY
                      z := index / (l.gridX * l.gridY), groups := gs, record := none, saving := false }
    let s1 := { s.takeFree with teams := Assoc.put s.teams team t, fresh := team + 1 }
    some ((withPos gs 0).foldl (fun (s : State) g => s.startGroup id team g.1 l g.2) s1)

/-- Place teams, all or none. -/
def State.placeTeams (s : State) (id : Nat) (l : Launch) (is : List Nat) : Option State :=
  match is with
  | [] => some s
  | i :: r => (s.placeTeam id l i).bind (fun q => q.placeTeams id l r)

/-- Cores on which lent units overlap what is now reserved. -/
def State.lentOver (s : State) (l : Launch) : List Nat :=
  (s.coresFor l).filter (fun c => decide (s.lentMax c < (s.core c).lent))

/-- Admission waits for reclaims under way on the launch's dies (R160). -/
def State.reclaiming (s : State) (l : Launch) : Bool := (s.coresFor l).any (fun c => decide (0 < (s.core c).reclaim))

/-- The team's reservations are in place (`s`), unless lent units must first be reclaimed from the machine as it was (R160,
R207). -/
def State.orReclaim (s : State) (old : State) (l : Launch) : State :=
  match s.lentOver l with
  | [] => s
  | cs => cs.foldl (fun (q : State) c => q.updCore c (fun x => { x with reclaim := x.lent - s.lentMax c }))
      { old with free := s.free }

/-- The next admission of a die: the current launch has no saved team, and its next team fits, or all of a concurrent
launch's (R158, R161). A launch leaves its queue with the admission of its last team (DESIGN CHOICE, log entry 74). -/
def State.admitTry (s : State) (die : Nat) : Option State :=
  match s.current die with
  | none => none
  | some (id, l) =>
    if !l.saved.isEmpty || s.reclaiming l then none
    else
      let n := if l.cls = 0 then l.total - l.next else 1
      match s.placeTeams id l (numsFrom l.next n) with
      | none => none
      | some q =>
        some ((q.updLaunch id (fun l => { l with next := l.next + n, queued := decide (l.next + n < l.total) })).orReclaim s l)

def execTeamAdmission (die : Nat) (s : State) : Host.Outcome State Fault Refusal :=
  match s.admitTry die with
  | some t => .next t
  | none => .refused .notEnabled

/-! ## Completion (R130, R163) -/

/-- An exited warp has no operation outstanding (R130); one that is complete and holds a cause met after an EXIT in trap mode, which
waits for no frozen operation, has nobody left to deliver it to (R310, R316). -/
def State.warpDone (s : State) (key : Nat) : Bool :=
  match s.warp? key with
  | none => false
  | some w =>
    w.live == 0 && !s.outs.any (fun o => o.2.w == key) && !s.accesses.any (fun a => a.2.w == key) &&
      !s.engines.any (fun e => e.2.w == key && !e.2.complete) && w.batches.all (fun b => b.complete)

/-- All the accesses of a warp, and those it knows (R155, R163, R245). -/
def Warp.allKnown (w : Warp) (key : Nat) : List Known :=
  { agent := { w := key, team := w.team, wg := w.wg }, scope := .system, seq := w.seq, all := true, segs := [], but := [], after := [] } ::
    w.heard.flatMap Heard.known

/-- The warp completes; the accumulator tiles that it owns and its ticket are released. -/
def execWarpCompletion (key : Nat) (s : State) : Host.Outcome State Fault Refusal :=
  match s.warp? key with
  | none => .refused .notEnabled
  | some w =>
    if s.warpDone key then
      let s1 := s.updGroup w.team w.wg (fun g =>
        { g with tiles := g.tiles.filter (fun t => t.2.owner != some w.warpId) })
      let s2 := s1.updLaunch w.launch (fun l => { l with made := l.made ++ w.allKnown key })
      .next { s2 with warps := Assoc.erase s2.warps key, fences := s2.fences.filter (fun f => f.w != key),
                       engines := s2.engines.filter (fun e => e.2.w != key) }
    else .refused .notEnabled

/-- The completion action of a launch, a release at system scope (R163): whether it counts as made, as an add does whose response
is lost (R159); none where it must wait. -/
def State.completionAction (s : State) (l : Launch) : Option Bool × State :=
  if l.doneKind = 0 then (some true, s)
  else match s.resolveWrite l.who l.doneAddr.toNat 4 with
    | .cause c _ q => (some false, q.distLog l c l.doneAddr.toNat)
    | .wait q => (none, q)
    | .ok (h, lost) q =>
      if q.badAt h.place h.off 4 then (some false, q.distLog l (q.errorCode h.place h.off 4) l.doneAddr.toNat)
      else
        let old := BitVec.ofNat 32 (natOfBytes (q.peekBytes h.place h.off 4))
        let put := fun (x : Word) =>
          match lost with
          | some code =>
            (some (decide (l.doneKind = 1 ∧ code = 0x2B)), (q.maybePoke h (bytesOfNat 4 x.toNat)).distLog l code l.doneAddr.toNat)
          | none =>
            let told : Told := { place := h.place, off := h.off, len := 4, agent := { w := 0, team := 0, wg := 0 }, scope := .system
                                 known := l.known ++ l.made }
            let q1 := q.poke h.place h.off (bytesOfNat 4 x.toNat)
            (some true, { q1 with told := told :: q1.told })
        if l.doneKind = 1 then put (old + l.doneValue)
        else match arriveWord old l.doneValue.toNat with
          | some x => put x
          | none => (some true, q.distLog l 0x2C l.doneAddr.toNat)

/-- A launch has completed but for its action: all its teams are admitted and complete, and no failure of the action stands
(R159, R163). -/
def State.finishing (s : State) (id : Nat) (l : Launch) : Bool :=
  decide (l.total ≤ l.next) && l.saved.isEmpty && !l.doneFailed && !s.teams.any (fun t => t.2.launch == id)

/-- A launch whose teams are all admitted and complete completes with its action (R163); it stays while the action must wait, or
fails (R159). -/
def State.finishLaunch (s : State) (id : Nat) : State :=
  match s.launch? id with
  | none => s
  | some l =>
    if s.finishing id l then
      match s.completionAction l with
      | (none, q) => q
      | (some true, q) =>
        { q with launches := Assoc.erase q.launches id, tickets := q.tickets.filter (fun t => t.2 != .distributor id) }
      | (some false, q) => q.updLaunch id (fun l => { l with doneFailed := true })
    else s

/-- Completion actions that have waited are tried in every cycle. -/
def State.finishLaunches (s : State) : State := s.launches.foldl (fun (q : State) e => q.finishLaunch e.1) s

/-- The reservations of a team are released, and its space may be lent to L1 again (R163, R207). -/
def State.releaseTeam (s : State) (team : Nat) (t : Team) : State :=
  let s1 := { s with teams := Assoc.erase s.teams team
                     stamps := s.stamps.filter (fun x => match x.place with
                       | .scratch k _ => k != team
                       | _ => true) }
  t.groups.foldl (fun (q : State) g => q.updCore g.core (fun c => { c with lent := q.lentMax g.core - c.reclaim })) s1

/-- Every warp of a team has completed. Its reservations are released whether or not its launch's action can be made (R163). -/
def State.teamTry (s : State) (team : Nat) : Option State :=
  match s.team? team with
  | none => none
  | some t =>
    if s.warps.any (fun e => e.2.team == team) then none
    else
      let s1 := s.releaseTeam team t
      some ((s1.updLaunch t.launch (fun l => { l with completed := l.completed + 1 })).finishLaunch t.launch)

def execTeamCompletion (team : Nat) (s : State) : Host.Outcome State Fault Refusal :=
  match s.teamTry team with
  | some t => .next t
  | none => .refused .notEnabled

/-- Retry what failed in the distributor, after a TLBINV or ASINV on the launch's die: reads of dependence words, readmissions and
completion actions; one that must wait is made when it can (R159). -/
def State.retryLaunches (s : State) (die : Nat) : State :=
  let s1 : State := { s with launches := s.launches.map (fun e =>
    if e.2.die = die then
      (e.1, { e.2 with deps := e.2.deps.map (fun d => { d with failed := false }), doneFailed := false })
    else e) }
  s1.finishLaunches

end Sys2Proof.Machine
end

