-- ==== Sys2Proof/Machine/Traps.lean ====
section
/-!
DEFINITION. TRAP, ERET, MTSR and RESUME (R348 to R351, R355, R364, R365, R377, R379), the watchdog and the handler limit
(R357, R358, R367), entries held for the fault log (R353), and the release of parked, stopped and paused work.
-/
namespace Sys2Proof.Machine

/-! ## TRAP and ERET -/

/-- TRAP (R348): 0x57 for the whole path, with a[15:0] as its subcause. -/
def execTrap (a : BitVec 8) (s : State) : Host.Outcome State Fault Refusal :=
  issue (.trap a) .none s (fun s c w => s.raiseWhole c 0x57 ((w.rd a 0).toNat % 65536))

/-- TRAP.FRAME (R348): the address of the warp's frame in trap mode, else 0. -/
def execTrapFrame (d : BitVec 8) (s : State) : Host.Outcome State Fault Refusal :=
  issue (.trapFrame d) .none s (fun s c w =>
    s.retireWith c (fun x => x.wrPair d 0 (if w.trap.isSome then s.frameAddr c.w w else 0)))

def execEretRetry (s : State) : Host.Outcome State Fault Refusal :=
  issue .eretRetry .trapMode s (fun s c _ => s.trapReturn c .retry)
def execEretSkip (s : State) : Host.Outcome State Fault Refusal :=
  issue .eretSkip .trapMode s (fun s c _ => s.trapReturn c .skip)
def execEretTo (a : BitVec 8) (s : State) : Host.Outcome State Fault Refusal :=
  issue (.eretTo a) .trapMode s (fun s c w => s.trapReturn c (.to (pairTarget (w.rdPair a 0))))

/-! ## Fault log entries held back (R353) -/

/-- A repaired log is tried again after TLBINV, ASINV and MTSR of faultlog. -/
def State.retryLog (s : State) : State :=
  { s with heldLog := s.heldLog.map (fun e => { e with failing := false }) }

/-- The first held entry is appended, or found to fail; none while the log is full or not yet repaired. -/
def State.heldLogTry (s : State) : Option State :=
  match s.heldLog with
  | [] => none
  | e :: r =>
    if e.failing then none
    else match s.appendFault e.bytes with
      | (.done, q) => some { q with heldLog := r }
      | (.failing, q) => some { q with heldLog := { e with failing := true } :: r }
      | (.full, _) => none
      | (.wait, _) => none

/-- Entries are appended in order, so the entry is the first one. -/
def execFaultLogHeldAppend (k : Nat) (s : State) : Host.Outcome State Fault Refusal :=
  match s.heldLogTry with
  | some t => if k = 0 then .next t else .refused .notEnabled
  | none => .refused .notEnabled

/-! ## Limits (R357, R358, R367) -/

/-- The issue record between two instructions: none is in issue at the path's next PC. -/
def Warp.boundary (w : Warp) (key : Nat) : Cur :=
  let p := w.nextPath
  let q := w.path p
  { w := key, p := p, lanes := q.issueMask, pc := q.nextPc, len := 0, held := q.status == .wait }

/-- As `boundary`, where the path is parked at an instruction, which is abandoned and which a return may skip (R349, R357, R358). -/
def Warp.abandoned (w : Warp) (key : Nat) : Cur :=
  let c := w.boundary key
  match w.held with
  | none => c
  | some h =>
    let parked := match h.why with
      | .wait => true
      | .waitb _ => true
      | .mwait => true
      | .bar _ _ => true
      | .waitt => true
      | .xchgp _ => true
      | .aster => true
      | .launch => true
      | .yielded _ => false
      | .stopped _ _ _ => false
      | .entering _ => false
      | .checking _ _ => false
    if parked && h.cur.p == c.p then { c with len := h.cur.len, sync := h.cur.sync } else c

/-- What a record of such a stop says. -/
def State.boundaryInfo (s : State) (c : Cur) (code sub : Nat) : FaultInfo :=
  s.infoOf c { code := code, sub := sub, lanes := c.lanes, addrs := [], other := false }

/-- The record of a cause that was met earlier (R345). -/
def State.infoAt (s : State) (c : Cur) (x : Cause) : FaultInfo := { (s.infoOf c x) with time := x.time }

/-- No path of the warp is in the middle of an instruction. -/
def Warp.atBoundary (w : Warp) : Bool :=
  !w.midway && !w.paths.any (fun q => match q.hold with
    | .remote _ _ _ _ => true
    | _ => false)

/-- The watchdog expires (R357): the parked instruction is abandoned unperformed, and 0x55 takes route H. -/
def State.watchReady (s : State) (key : Nat) : Bool := (s.warp? key).any (fun w => s.watchDue w && w.atBoundary)

def execWatchdogExpiry (key : Nat) (s : State) : Host.Outcome State Fault Refusal :=
  match s.warp? key with
  | none => .refused .notEnabled
  | some w =>
    if s.watchReady key then
      let c := w.abandoned key
      let s1 := s.updWarp key (fun w => { w with held := none, watch := 0 })
      .next (s1.routeH c (s1.boundaryInfo c 0x55 0))
    else .refused .notEnabled

/-- The handler limit is reached (R358, R367); the count starts again with the stop, for a replay (DEDUCED, log entry 33). -/
def State.handlerReady (s : State) (key : Nat) : Bool := (s.warp? key).any (fun w => s.handlerDue w && w.atBoundary)

def execHandlerLimitExpiry (key : Nat) (s : State) : Host.Outcome State Fault Refusal :=
  match s.warp? key with
  | none => .refused .notEnabled
  | some w =>
    if s.handlerReady key then
      let c := w.boundary key
      let f := if w.trap.isSome then s.boundaryInfo c 0x55 1 else s.boundaryInfo c 0x5C 0x55
      let s := s.updWarp key (fun w => { w with handler := 0 })
      .next (if w.trap.isSome then s.stopOrHandle c f c.lanes else s.stopWarp key c f c.lanes)
    else .refused .notEnabled

/-! ## MTSR (R350, R351, R364) -/

/-- MTSR of fpflags (R350): every lane of the issuing path, whatever the guard; a lane whose source is uncorrectable meets 0x38 (R88,
R359). -/
def execMtsrFpflags (a : BitVec 8) (s : State) : Host.Outcome State Fault Refusal :=
  issue (.mtsrFpflags a) .none s (fun s c w =>
    let bad := w.badLanes (operandsOf (.mtsrFpflags a)) c.lanes.lanes
    let s1 := s.updWarp c.w (fun x => (c.lanes.lanes.filter (fun l => !bad.contains l)).foldl (fun (x : Warp) l =>
      { x with fpflags := Assoc.set x.fpflags 0 l ((w.rd a l).setWidth 5) }) x)
    match bad with
    | [] => s1.retire c
    | _ => s1.raise c { code := 0x38, sub := 0, lanes := maskOf bad, addrs := [], other := false } none)

/-- The cause of a value that a selector does not accept: a reserved bit, or an alignment (R351, R364). -/
def selectorCheck (sel : Nat) (x : DWord) : Option Nat :=
  let n := x.toNat
  let al := fun (k : Nat) => if n % k = 0 then none else some 0x20
  let bits := fun (bad : Bool) => if bad then some 0x01 else none
  match sel with
  | 0x20 => al 512
  | 0x21 => al 32
  | 0x24 => al 64
  | 0x26 => bits (decide (4 ≤ n))
  | 0x27 => bits (decide (2 ^ 20 ≤ n))
  | 0x28 => bits (n % 4 = 3 || n / 4 % 64 != 0)
  | 0x29 => bits (x.getLsbD 1)
  | 0x2A => bits (x.getLsbD 1)
  | 0x2B => bits (x.getLsbD 1)
  | 0x2C => bits (x.getLsbD 1)
  | 0x2D => bits (decide (2 ^ 56 ≤ n) || (x.getLsbD 0 && !x.getLsbD 1 && !x.getLsbD 2))
  | 0x2E => al 256
  | 0x2F => bits (decide (2 ≤ n))
  | 0x30 => al 128
  | _ => none

/-- The selectors that the lock state limits (R402). -/
def debugSelector (sel : Nat) : Bool := sel == 0x27 || (decide (0x29 ≤ sel) && decide (sel ≤ 0x2D)) || sel == 0x2F

/-- The checks of MTSR of a context selector: the lock state (R402), the ASID (R350), the value, and ASID 0 (R364)
(DEDUCED, log entry 30). -/
def State.mtsrCause (s : State) (sel : Nat) (asid : Word) (x : DWord) : Option (Nat × Nat) :=
  if debugSelector sel && s.lock == .locked then some (0x08, 24)
  else if 512 ≤ asid.toNat then some (0x33, 2)
  else if debugSelector sel && s.lock == .nonSecure && (s.ctxOf asid.toNat).tagged then some (0x08, 24)
  else match selectorCheck sel x with
    | some code => some (code, 0)
    | none => if (sel == 0x26 || sel == 0x2F) && asid == 0 then some (0x33, 1) else none

/-- MTSR of a context selector: its checks, then `act` on the ASID and the value. -/
def mtsrWith (i : Instr) (sel : Nat) (wide : Bool) (a b : Code) (act : State → Cur → Warp → Nat → DWord → State) (s : State) :
    Host.Outcome State Fault Refusal :=
  issue i .supervisor s (fun s c w =>
    let x := if wide then w.rdPair a 0 else (w.rd a 0).setWidth 64
    match s.mtsrCause sel (w.rd b 0) x with
    | some (code, sub) => s.raiseWhole c code sub
    | none => act s c w (w.rd b 0).toNat x)

/-- The context registers after a selector is written. -/
def Ctx.write (k : Ctx) (sel : Nat) (x : DWord) : Ctx :=
  match sel with
  | 0x20 => { k with frames := x }
  | 0x21 => { k with permlog := x }
  | 0x22 => { k with wdog := x.lo }
  | 0x23 => { k with hlimit := x.lo }
  | 0x24 => { k with save := x }
  | 0x25 => { k with overdue := x.lo }
  | 0x26 => { k with preempt := x.lo }
  | 0x27 => { k with debug := x.lo }
  | 0x28 => { k with replay := x }
  | 0x29 => { k with bp := listUpd k.bp 0 (fun _ => x) }
  | 0x2A => { k with bp := listUpd k.bp 1 (fun _ => x) }
  | 0x2B => { k with bp := listUpd k.bp 2 (fun _ => x) }
  | 0x2C => { k with bp := listUpd k.bp 3 (fun _ => x) }
  | 0x2D => { k with wp := x }
  | 0x2F => { k with halt := x.lo }
  | _ => k

/-- A selector without behaviour of its own. -/
def execMtsr (sel a b : BitVec 8) (s : State) : Host.Outcome State Fault Refusal :=
  mtsrWith (.mtsr sel a b) sel.toNat (mtsrWide sel) a b
    (fun s c _ asid x => (s.updCtx asid (fun k => k.write sel.toNat x)).retire c) s

/-- Warps of an ASID. -/
def State.warpsOf (s : State) (asid : Nat) : List (Nat × Warp) := s.warps.filter (fun e => e.2.asid == asid)

/-- Setting hold makes pre-emption pending for every warp of the ASID; clearing it cancels pending for the teams of which no
warp has entered save (R365). -/
def State.setHold (s : State) (asid : Nat) (hold : Bool) : State :=
  (s.warpsOf asid).foldl (fun (s : State) e =>
    if hold then
      s.updWarp e.1 (fun w => { w with pending := true, overdue := if w.pending then w.overdue else 0 })
    else if (s.team? e.2.team).any (fun t => t.saving) then s
    else s.updWarp e.1 (fun w => { w with pending := false, overdue := 0 })) s

def execMtsrCtxPreempt (a b : BitVec 8) (s : State) : Host.Outcome State Fault Refusal :=
  mtsrWith (.mtsrCtxPreempt a b) 0x26 false a b
    (fun s c _ asid x => ((s.updCtx asid (fun k => k.write 0x26 x)).setHold asid (x.getLsbD 0)).retire c) s

/-- Stop a warp whole with 0x5E at its next instruction boundary, its core awake; what it is parked at stays (R377, R403). -/
def State.haltWarp (s : State) (key : Nat) : State :=
  match s.warp? key with
  | none => s
  | some w =>
    let s := s.wake (.core (coreOfKey key))
    if w.halt.isSome || w.live = 0 then s
    else if !w.atBoundary then s.updWarp key (fun w => { w with halting := true })
    else
      let c := w.boundary key
      let t := s.issueTicket (coreOfKey key) (slotOfKey key) 0 (.warp key)
      let f := { (s.boundaryInfo c 0x5E 0) with ticket := t.1 }
      (t.2.logOrHold (faultEntry (t.2.recordHeader key w f) 0)).updWarp key (fun w => { w with halt := some t.1, halting := false })

/-- The warps that a halt has met in the middle of an instruction stop once it is over. -/
def State.haltDue (s : State) : State :=
  s.warps.foldl (fun (s : State) e => if e.2.halting && e.2.atBoundary then s.haltWarp e.1 else s) s

/-- Release a warp stopped by the halt. -/
def State.unhaltWarp (s : State) (key : Nat) : State :=
  let s := s.updWarp key (fun w => { w with halting := false })
  match (s.warp? key).bind (fun w => w.halt) with
  | none => s
  | some t => (s.dropTicket t).updWarp key (fun w => { w with halt := none })

def execMtsrCtxHalt (a b : BitVec 8) (s : State) : Host.Outcome State Fault Refusal :=
  mtsrWith (.mtsrCtxHalt a b) 0x2F false a b
    (fun s c _ asid x =>
      let s1 := s.updCtx asid (fun k => k.write 0x2F x)
      ((s1.warpsOf asid).foldl (fun (s : State) e => if x.getLsbD 0 then s.haltWarp e.1 else s.unhaltWarp e.1) s1).retire c) s

/-- Bind a bin table, or none, and clear every lane-cycle counter (R379). -/
def State.bindBins (s : State) (b : Option Bins) : State :=
  { s with bins := b, cores := s.cores.map (fun c => (c.1, { c.2 with bins := [] })) }

/-- The ranges of a bin table: start and exclusive end, as offsets from the kernel header (R379). -/
def binRanges (bs : List Byte) : List (Nat × Nat) :=
  (numsFrom 0 16).map (fun k => (fieldOf bs (16 * k) 8, fieldOf bs (16 * k + 8) 8))

/-- MTSR of ctx_lcbins: the table is read under the checks of R143 from its second row on, so neither the form of its address nor a
watchpoint is checked (R379; DEDUCED, log entry 43). -/
def execMtsrCtxLcbins (a b : BitVec 8) (s : State) : Host.Outcome State Fault Refusal :=
  mtsrWith (.mtsrCtxLcbins a b) 0x2E true a b
    (fun s c w asid x =>
      if x = 0 then (s.bindBins none).retire c
      else match s.readLanes c w true 16 (unitAddrs (x.toNat % 2 ^ 56) 16 16) with
        | .hold q => q
        | .done vals causes q => match causes with
          | f :: r => q.raiseOnce c (f :: r)
          | [] => (q.bindBins (some { asid := asid, ranges := binRanges (blockBytes vals 16) })).retire c) s

/-- Start stage 3 (R397): `clock` and the launch numbers begin at 0, the device number and the second-tier capacities are
fixed. -/
def State.beginStage3 (s : State) : State :=
  { s with boot := .stage3, stage := 3, clock := 0, launchNo := [0, 0, 0, 0], device := s.hw.device.toNat
           cxl := s.hw.cxl.map (Nat.min cxlReach) }

/-- MTSR of faultlog (R351): 0 is refused while other ASIDs are live; a nonzero base ends start stage 2 (R399). -/
def execMtsrFaultlog (a b : BitVec 8) (s : State) : Host.Outcome State Fault Refusal :=
  mtsrWith (.mtsrFaultlog a b) 0x30 true a b
    (fun s c _ _ x =>
      if x = 0 ∧ 1 < s.live.toNat then s.raiseWhole c 0x01 0
      else
        let s1 := { s with faultlog := x }.retryLog
        (if s1.boot = .stage2 ∧ x ≠ 0 then s1.beginStage3 else s1).retire c) s

/-! ## RESUME (R355) -/

/-- End a paused operation: its cause is held, no further task runs (R294, R314, R355) (DEDUCED, log entry 18). -/
def EngOp.giveUp (e : EngOp) (time : DWord) : EngOp :=
  let sub := if e.kind.isCopy then 0 else match e.kind with
    | .mma t _ _ _ _ _ => t * 4096 + e.done
    | .drain t _ _ _ _ => t * 4096
    | .drainReg t _ _ _ _ _ _ _ => t * 4096
    | .load t _ _ => t * 4096
    | .loadReg t _ => t * 4096
    | _ => 0
  { e with paused := none, done := e.total, owned := [], bound := []
           cause := some (e.cause.getD { code := 0x30, sub := sub, time := time }), further := if e.cause.isSome then e.further + 1 else e.further }

/-- A cause that interrupted an instruction, which a replay issues again; the others stopped the warp between instructions
(R355, R372 to R377). -/
def Cause.replays (x : Cause) : Bool :=
  !((decide (0x50 ≤ x.code) && decide (x.code ≤ 0x56)) || (x.code == 0x5C && x.sub == 0x55))

/-- Release a debug stop of a path by `replay` (R374 to R376): BKPT retires with no effect, a breakpoint passes once, a
watchpoint's lanes issue again unchecked. -/
def State.passDebug (s : State) (key p : Nat) (x : Cause) (pc : DWord) (len : Nat) : State :=
  if x.code = 0x50 then
    let c : Cur := { w := key, p := p, lanes := x.lanes, pc := pc, len := len, held := false }
    s.retire c
  else if x.code = 0x51 then s.updPath key p (fun q => { q with passBreak := true })
  else if x.code = 0x52 then s.updPath key p (fun q => { q with passWatch := true, replay := some x.lanes })
  else s

/-- A warp that the single step stopped at a COPY that yields parks again until its operation is complete, whose held cause is then
delivered (R292, R376). -/
def State.yieldAgain (s : State) (key : Nat) : State :=
  match s.warp? key with
  | none => s
  | some w =>
    let c := w.boundary key
    let ops := (s.opsOf key).filter (fun e => e.2.yld.isSome)
    match ops.find? (fun e => !e.2.complete) with
    | some e => s.updWarp key (fun w => { w with held := some { why := .yielded e.1, cur := c, i := none } })
    | none => (s.deliverHeld c ops []).getD s

/-- Release a stopped warp by `replay` (R355, R358, R372) (DEDUCED, log entry 33) (DEDUCED, log entry 59). -/
def State.replayWarp (s : State) (key : Nat) (c : Cur) (x : Cause) (replay : Mask) : State :=
  let s1 := s.updWarp key (fun w => { w with held := none, overdue := if x.code = 0x56 then 0 else w.overdue })
  if x.code = 0x53 then s1.yieldAgain key
  else if x.code ≤ 0x52 ∧ 0x50 ≤ x.code then s1.passDebug key c.p x c.pc c.len
  else if x.code = 0x54 then s1.stepStop c
  else if x.replays then
    s1.updWarp key (fun w => w.updPath c.p (fun q => { q with replay := if q.status = .wait then none else some (replay &&& w.live) }))
  else s1

/-- RESUME of a ticket: none where it names nothing any more (R352, R355). -/
def State.resumeTicket (s : State) (ticket : Nat) (deliver : Bool) : Option State :=
  match Assoc.at? s.tickets ticket with
  | none => none
  | some what =>
    let s := s.dropTicket ticket
    match what with
    | .warp key =>
      match s.warp? key with
      | none => none
      | some w =>
        if w.halt = some ticket then
          let s1 := (s.updWarp key (fun w => { w with halt := none })).wake (.core (coreOfKey key))
          if deliver then
            let c := w.boundary key
            some ((s1.updWarp key (fun w => { w with held := none })).routeH c (s1.boundaryInfo c 0x5E 0))
          else some s1
        else match w.held with
          | none => none
          | some h => match h.why with
            | .stopped t x replay =>
              if t ≠ ticket then none
              else if deliver then
                let s1 := s.updWarp key (fun w => { w with held := none })
                some (s1.routeH h.cur (s1.infoAt h.cur x))
              else some ((s.replayWarp key h.cur x replay).wake (.core (coreOfKey key)))
            | _ => none
    | .path key p =>
      match s.warp? key with
      | none => none
      | some w => match (w.path p).hold with
        | .parked t x pc len =>
          if t ≠ ticket then none
          else
            let s1 := s.updPath key p (fun q => { q with hold := .none })
            if deliver then
              let c : Cur := { w := key, p := p, lanes := x.lanes, pc := pc, len := len, held := (w.path p).status == .wait }
              some (s1.routeH c (s1.infoAt c x))
            else some (s1.updPath key p (fun q =>
              { q with replay := if q.status = .wait then none else some (x.lanes &&& w.live) }))
        | .debug t x pc len =>
          if t ≠ ticket then none
          else
            let s1 := s.updPath key p (fun q => { q with hold := .none })
            if deliver then
              let c : Cur := { w := key, p := p, lanes := x.lanes, pc := pc, len := len, held := (w.path p).status == .wait }
              some (s1.routeH c (s1.infoAt c x))
            else some (s1.passDebug key p x pc len)
        | _ => none
    | .engine e =>
      match Assoc.at? s.engines e with
      | none => none
      | some op =>
        if op.paused.any (fun x => x.2 == ticket) then
          some { s with engines := Assoc.put s.engines e (if deliver then op.giveUp s.clock else { op with paused := none }) }
        else none
    | .distributor _ => none

/-- RESUME by ticket: d receives 0 where the form acted, 1 where nothing matched. -/
def resumeOp (i : Instr) (deliver : Bool) (d a : Code) (s : State) : Host.Outcome State Fault Refusal :=
  issue i .supervisor s (fun s c w =>
    match s.resumeTicket (w.rd a 0).toNat deliver with
    | some q => q.retireWith c (fun w => w.wr d 0 0)
    | none => s.retireWith c (fun w => w.wr d 0 1))

def execResumeReplay (d a : BitVec 8) (s : State) : Host.Outcome State Fault Refusal :=
  resumeOp (.resumeReplay d a) false d a s
def execResumeDeliver (d a : BitVec 8) (s : State) : Host.Outcome State Fault Refusal :=
  resumeOp (.resumeDeliver d a) true d a s

/-- A warp that is terminated: its lanes are gone, its posted operations complete, what it holds is discarded (R355). -/
def Warp.terminated (w : Warp) : Warp :=
  { w with live := 0, paths := List.replicate 8 Path.empty, held := none, halt := none, halting := false, trap := none, pre := .normal
           pending := false, openBatch := [], batches := [], span := false }

/-- Terminate one warp with its tickets: paused operations end, instructions with lanes to replay close. -/
def State.terminateWarp (s : State) (key : Nat) : State :=
  let gone := fun (e : EngOp) => e.w == key && (e.paused.isSome || e.complete)
  let s1 : State := { s with
    engines := (s.engines.filter (fun e => !gone e.2)).map (fun e =>
      if e.2.w = key then (e.1, { e.2 with cause := none, further := 0, yld := none }) else e)
    outs := s.outs.map (fun o => if o.2.w = key then (o.1, { o.2 with more := false }) else o)
    tickets := s.tickets.filter (fun t => match t.2 with
      | .warp k => k != key
      | .path k _ => k != key
      | .engine e => !(Assoc.at? s.engines e).any (fun x => x.w == key)
      | .distributor _ => true) }
  s1.updWarp key Warp.terminated

/-- Stop every warp of an ASID and remove its launches from the queues (R355). -/
def State.terminate (s : State) (asid : Nat) : State :=
  let s1 := (s.warpsOf asid).foldl (fun (s : State) e => s.terminateWarp e.1) s
  let ls := s1.launches.filter (fun l => l.2.asid == asid)
  ls.foldl (fun (s : State) l =>
    let s2 := (s.distLog l.2 0x5F 0).updLaunch l.1 (fun l =>
      { l with queued := false, next := l.total, saved := [], deps := [], doneKind := 0, doneFailed := false })
    s2.finishLaunch l.1) s1

/-- RESUME term (R355): ASID 0 is refused. -/
def execResumeTerm (d a : BitVec 8) (s : State) : Host.Outcome State Fault Refusal :=
  issue (.resumeTerm d a) .supervisor s (fun s c w =>
    let asid := (w.rd a 0).toNat
    if asid = 0 then s.raiseWhole c 0x33 1
    else if s.warpsOf asid = [] ∧ s.launches.all (fun l => l.2.asid != asid) then s.retireWith c (fun w => w.wr d 0 1)
    else (s.terminate asid).retireWith c (fun w => w.wr d 0 0))

end Sys2Proof.Machine
end

