-- ==== Sys2Proof/Machine/Preempt.lean ====
section
/-!
DEFINITION. Safe points, save and restore mode, the save pool and the team record (R363 to R372), BKPT (R374) and PERFRD
(R380).
-/
namespace Sys2Proof.Machine

/-! ## The safe-point table (R85, R363) -/

/-- What an entry of the table reads as: its save and restore offsets, or the cause of the read. -/
inductive SafeEntry where
  | entry (save restore : Nat) (s : State)
  | cause (code sub va : Nat) (s : State)
  | wait (s : State)

/-- Entry `k` of a launch's safe-point table, read by a requester (R85). A denied read reads zero (R221). -/
def State.safeEntry (s : State) (who : Who) (l : Launch) (k : Nat) (lanes : Mask) : SafeEntry :=
  let va := l.header.toNat + l.safeTable + 8 * k
  match s.loadNow who va 8 with
  | .ok r q => .entry (fieldOf r.1 0 4) (fieldOf r.1 4 4) (q.permEvents who false r.2 0 lanes)
  | .cause c b q => .cause c b va q
  | .wait q => .wait q

/-! ## The save pool and the record (R369, R370) -/

/-- Bytes of a team record. -/
def recordSize : Nat := 16640

/-- What a step of save or restore ends with. -/
inductive SaveGot where
  | done (s : State)
  /-- no free record (R366) -/
  | empty
  | cause (code sub va : Nat) (s : State)
  | wait (s : State)

/-- The base of the record array, from the pool header of the warp's context. -/
def State.recordBase (s : State) (who : Who) : Got Nat :=
  match s.loadNow who (s.ctxOf who.asid).save.toNat 8 with
  | .ok r q => .ok (natOfBytes r.1) (q.permEvents who (decide (Config.cores ≤ who.core)) r.2 0 0)
  | .cause c b q => .cause c b q
  | .wait q => .wait q

/-- The word that an atomic made within a step reads, and where (R261, R264). -/
def State.atomWord (s : State) (who : Who) (va : Nat) : Got (Nat × Hit) :=
  match s.resolveWrite who va 4 with
  | .cause c b q => .cause c b q
  | .wait q => .wait q
  | .ok (_, some c) q => .cause c 0 q
  | .ok (h, none) q =>
    if q.badAt h.place h.off 4 then .cause (q.errorCode h.place h.off 4) 0 q else .ok (natOfBytes (q.peekBytes h.place h.off 4), h) q

/-- Take a record from the pool for a team, as one atomic (R366 step 2, R369). -/
def State.takeRecord (s : State) (who : Who) (team : Nat) : SaveGot :=
  let pool := (s.ctxOf who.asid).save.toNat
  if pool = 0 then .empty
  else match s.atomWord who (pool + 12) with
    | .wait q => .wait q
    | .cause c b q => .cause c b (pool + 12) q
    | .ok (n, h) q =>
      if n = 0 then .empty
      else match q.atomWord who (pool + 64 + 4 * (n - 1)) with
        | .wait q => .wait q
        | .cause c b q => .cause c b (pool + 64 + 4 * (n - 1)) q
        | .ok (r, _) q =>
          .done ((q.poke h.place h.off (bytesOfNat 4 (n - 1))).updTeam team (fun t => { t with record := some r }))

/-- Return a record to the pool, as one atomic (R369). -/
def State.returnRecord (s : State) (who : Who) (r : Nat) : SaveGot :=
  let pool := (s.ctxOf who.asid).save.toNat
  match s.atomWord who (pool + 12) with
  | .wait q => .wait q
  | .cause c b q => .cause c b (pool + 12) q
  | .ok (n, h) q =>
    match q.resolveWrite who (pool + 64 + 4 * n) 4 with
    | .wait q => .wait q
    | .cause c b q => .cause c b (pool + 64 + 4 * n) q
    | .ok (k, some c) q => .cause c 0 (pool + 64 + 4 * n) (q.maybePoke k (bytesOfNat 4 r))
    | .ok (k, none) q =>
      .done ((q.poke k.place k.off (bytesOfNat 4 r)).poke h.place h.off (bytesOfNat 4 (n + 1)))

/-- Write bytes of a record. -/
def State.putRecord (s : State) (who : Who) (r off : Nat) (bs : List Byte) : SaveGot :=
  match s.recordBase who with
  | .wait q => .wait q
  | .cause c b q => .cause c b (s.ctxOf who.asid).save.toNat q
  | .ok base q =>
    let va := base + recordSize * r + off
    match q.storeNow who va bs with
    | .wait q => .wait q
    | .cause c b q => .cause c b va q
    | .ok _ q => .done q

/-- The bytes of one loop entry in the record. -/
def LoopEntry.bytes (e : LoopEntry) : List Byte :=
  bytesOfNat 8 e.start.toNat ++ bytesOfNat 8 e.stop.toNat ++ bytesOfNat 4 e.count.toNat

/-- A warp part of the record (R370). -/
def Warp.savedPart (w : Warp) (k : Nat) (pc : DWord) (stack : List LoopEntry) (jp : Option DWord) (retired : DWord) : List Byte :=
  let loops := stack.flatMap LoopEntry.bytes
  bytesOfNat 8 pc.toNat ++ bytesOfNat 2 k ++ bytesOfNat 2 w.mode.toNat ++ bytesOfNat 4 w.live.toNat ++
    bytesOfNat 8 ((jp.map BitVec.toNat).getD 0xFFFFFFFFFFFFFFFF) ++ [BitVec.ofNat 8 stack.length, w.batchNo] ++ zeros 2 ++
    bytesOfNat 4 w.barWg ++ bytesOfNat 4 w.barTeam ++ bytesOfNat 4 w.xchgp ++ bytesOfNat 8 retired.toNat ++
    bytesOfNat 8 ((w.clearance.map BitVec.toNat).getD 0) ++ zeros 8 ++ loops ++ zeros (0xC0 - loops.length)

/-- The offset of a warp part. -/
def partOffset (wg warp : Nat) : Nat := 256 + 256 * (32 * wg + warp)

/-! ## Entering save (R366) -/

/-- Every other entry of the path table is free. -/
def Warp.sole (w : Warp) (p : Nat) : Bool := (numsFrom 0 8).all (fun i => i == p || (w.path i).status == .free)

/-- The warp in save mode (R366 step 4, R367). -/
def Warp.saveMode (w : Warp) (p k : Nat) (pc : DWord) : Warp :=
  { (w.updPath p (fun q => { q with stack := [], jp := none, pc := pc, hold := .none, replay := none, replayOp := none
                                    passBreak := false, passWatch := false })) with
    pre := .saving k, mode := w.mode &&& 0x2000, handler := 0, barWgPre := 0, barTeamPre := 0, lastSafe := none
    barArrived := match w.held with
      | some h => match h.why with
        | .bar t _ => some t
        | _ => none
      | none => none
    held := none, age := 0 }

/-- Steps 2 to 4 of R366 for a warp whose stores are acknowledged. -/
def State.enterSave (s : State) (key : Nat) (w : Warp) (p k save : Nat) (pc : DWord) (stack : List LoopEntry)
    (retired : DWord) : SaveGot :=
  let who := w.who key p
  let first : SaveGot :=
    match s.team? w.team with
    | none => .empty
    | some t => if t.record.isSome then .done s else s.takeRecord who w.team
  match first with
  | .done q =>
    match (q.team? w.team).bind Team.record with
    | none => .empty
    | some r =>
      match q.putRecord who r (partOffset w.wg w.warpId) (w.savedPart k pc stack (w.path p).jp retired) with
      | .done q =>
        let q1 := q.updTeam w.team (fun t => { t with saving := true })
        .done (q1.updWarp key (fun w => { (w.saveMode p k (q1.entryPc w save)) with retired := retired }))
      | o => o
  | o => o

/-- A cause met at save entry (R366): 0x30 parks the warp at `c`, any other stops it with 0x5C. -/
def State.saveCause (s : State) (c : Cur) (code sub va : Nat) : State :=
  if code = 0x30 then (s.updWarp c.w (fun w => { w with held := none })).raiseAt c code sub va
  else s.stopWarp c.w c (s.infoOf c { code := 0x5C, sub := code, lanes := c.lanes, addrs := [], other := false }) c.lanes

/-- A warp parked behind SAFE k may enter save (R366, second case): the record of the park and k. -/
def Warp.parkedSafe (w : Warp) : Option (Held × Nat) :=
  match w.held, w.lastSafe with
  | some h, some (k, pc) =>
    let at_ := match h.why with
      | .bar _ _ => true
      | .waitb _ => true
      | .mwait => true
      | .aster => true
      | _ => false
    if at_ && pc == h.cur.pc && w.pending && w.trap.isNone && w.pre == .normal && w.halt.isNone && !w.debugHeld &&
        w.sole h.cur.p && w.stores.isEmpty then some (h, k) else none
  | _, _ => none

/-- Enter save from a park; the machine is unchanged where the warp stays parked. -/
def State.saveParked (s : State) (key : Nat) (w : Warp) : State :=
  match w.parkedSafe, s.launchOf w with
  | some (h, k), some l =>
    match s.safeEntry (w.who key h.cur.p) l k h.cur.lanes with
    | .wait q => s.waitIn q
    | .cause c b va q => q.saveCause h.cur c b va
    | .entry save _ q =>
      if save = 0 then s
      else match q.enterSave key w h.cur.p k save h.cur.pc (w.path h.cur.p).stack w.retired with
        | .done q => q
        | .cause c b va q => q.saveCause h.cur c b va
        | .empty => s
        | .wait q => s.waitIn q
  | _, _ => s

/-- Every pending warp that is parked behind its safe point enters save (R366). -/
def State.saveAllParked (s : State) : State :=
  (s.warps.filter (fun e => e.2.pending)).foldl (fun (s : State) e =>
    match s.warp? e.1 with
    | some w => s.saveParked e.1 w
    | none => s) s

/-! ## The end of save and restore mode (R367, R371) -/

/-- The warps of a team. -/
def State.teamWarps (s : State) (team : Nat) : List (Nat × Warp) := s.warps.filter (fun e => e.2.team == team)

/-- This is the last warp of its team to end its save routine. -/
def State.lastSaved (s : State) (key : Nat) (w : Warp) : Bool :=
  (s.teamWarps w.team).all (fun e => e.1 == key || e.2.live == 0 || e.2.pre == .saved)

/-- What a saved team must not hold (R367): the subcause of 0x5C. -/
def State.saveObstacle (s : State) (w : Warp) : Option Nat :=
  let gs := ((s.team? w.team).map Team.groups).getD []
  if gs.any (fun g => g.tiles.any (fun t => t.2.owner.isSome)) then some 0x101
  else if (s.teamWarps w.team).any (fun e => e.2.live != 0 && e.2.slice.active) then some 0x103
  else if gs.any (fun g => !g.claims.isEmpty) && !(s.ctxOf w.asid).preempt.getLsbD 1 then some 0x102
  else none

/-- The header of a team record (R370). -/
def Launch.savedHeader (l : Launch) (index : Nat) : List Byte :=
  let present := fun (wg : Nat) => if wg < l.teamWgs then 2 ^ l.wgWarps - 1 else 0
  bytesOfNat 4 l.number.toNat ++ [BitVec.ofNat 8 l.die] ++ zeros 3 ++ bytesOfNat 4 index ++ bytesOfNat 4 (present 0) ++
    bytesOfNat 4 (present 1) ++ zeros 0xEC

/-- Write the parts of the warps that had exited, with live mask 0. -/
def State.putExited (s : State) (who : Who) (r team : Nat) (l : Launch) (ks : List (Nat × Nat)) : SaveGot :=
  match ks with
  | [] => .done s
  | (g, i) :: rest =>
    if (s.teamWarps team).any (fun e => e.2.wg == g && e.2.warpId == i && e.2.live != 0) then s.putExited who r team l rest
    else match s.putRecord who r (partOffset g i) (zeros 256) with
      | .done q => q.putExited who r team l rest
      | o => o

/-- Insert a saved team in ascending linear index. -/
def insertSaved {α : Type} (x : Nat × α) (l : List (Nat × α)) : List (Nat × α) :=
  match l with
  | [] => [x]
  | y :: r => if x.1 < y.1 then x :: y :: r else y :: insertSaved x r

/-- The team is saved: its header and the parts of exited warps are written, its reservations released (R367, R370)
(DESIGN CHOICE, log entry 37). -/
def State.saveTeam (s : State) (key p : Nat) (w : Warp) : SaveGot :=
  match s.team? w.team, s.launchOf w with
  | some t, some l =>
    match t.record with
    | none => .empty
    | some r =>
      let who := w.who key p
      let all := (numsFrom 0 l.teamWgs).flatMap (fun g => (numsFrom 0 l.wgWarps).map (fun i => (g, i)))
      match s.putExited who r w.team l all with
      | .done q =>
        match q.putRecord who r 0 (l.savedHeader t.index) with
        | .done q =>
          let counts := all.map (fun x =>
            (((q.teamWarps w.team).find? (fun e => e.2.wg == x.1 && e.2.warpId == x.2)).map (fun e => e.2.syncs)).getD 0)
          let gone := (q.teamWarps w.team).map (fun e => e.1)
          let q1 := { (q.releaseTeam w.team t) with
                      warps := q.warps.filter (fun e => e.2.team != w.team)
                      fences := q.fences.filter (fun f => !gone.contains f.w) }
          .done (q1.updLaunch t.launch (fun l =>
            { l with made := l.made ++ (q.teamWarps w.team).flatMap (fun e => e.2.allKnown e.1), saved := insertSaved (t.index, r) l.saved, savedSyncs := insertSaved (t.index, counts) l.savedSyncs }))
        | o => o
      | o => o
  | _, _ => .empty

/-- Stop with 0x5C (R367). -/
def State.saveStop (s : State) (c : Cur) (sub : Nat) : State :=
  s.stopWarp c.w c (s.infoOf c { code := 0x5C, sub := sub, lanes := c.lanes, addrs := [], other := false }) c.lanes

/-- The SAFE that ends the save routine (R367). -/
def State.endSave (s : State) (c : Cur) (w : Warp) (k entry : Nat) : State :=
  if k ≠ entry then s.saveStop c 0x5B
  else match s.deliverHeld c (s.opsOf c.w) w.batches with
    | some t => t
    | none =>
      if s.lastSaved c.w w then
        if (s.teamWarps w.team).any (fun e => e.2.live == 0 && !s.warpDone e.1) then s
        else match s.saveObstacle w with
        | some sub => s.saveStop c sub
        | none => match s.saveTeam c.w c.p w with
          | .done q => q
          | .cause code b va q => q.saveCause c code b va
          | .empty => s
          | .wait q => s.waitIn q
      else ((s.updWarp c.w (fun w => { (w.advance c.p c.pc c.next) with pre := .saved, age := 0 })).stepStop c)

/-- The warps that have not exited have all ended their save routines, the others have exited since and completed: the team is
saved by the first of them (R365, R367). -/
def State.saveTeamDue (s : State) (key : Nat) (w : Warp) : Bool :=
  w.pre == .saved && w.held.isNone && s.lastSaved key w &&
    (s.teamWarps w.team).all (fun e => e.1 == key || if e.2.live = 0 then s.warpDone e.1 else decide (key < e.1))

/-- Save the teams whose last warp in question has exited. -/
def State.saveTeamsDue (s : State) : State :=
  s.warps.foldl (fun (s : State) e =>
    if s.saveTeamDue e.1 e.2 then
      let c := e.2.boundary e.1
      match s.saveObstacle e.2 with
      | some sub => s.saveStop c sub
      | none => match s.saveTeam e.1 c.p e.2 with
        | .done q => q
        | .cause code b va q => q.saveCause c code b va
        | .empty => s
        | .wait q => s.waitIn q
    else s) s

/-- The SAFE that ends the restore routine reinstates MODE, the loop stack, jp and pc; no end check is made (R371). -/
def State.endRestore (s : State) (c : Cur) (w : Warp) (k entry : Nat) (pc : DWord) (mode : BitVec 16)
    (stack : List LoopEntry) (jp : Option DWord) : State :=
  if k ≠ entry then s.saveStop c 0x5B
  else match s.deliverHeld c (s.opsOf c.w) w.batches with
    | some t => t
    | none =>
      (s.updWarp c.w (fun w =>
        { (w.updPath c.p (fun q => { q with pc := pc, stack := stack, jp := jp, replay := none, replayOp := none
                                            passBreak := false, passWatch := false })) with
          pre := .normal, mode := mode, watch := 0, lastSafe := some (k, pc), age := 0 })).stepStop c

/-! ## SAFE (R363) -/

/-- SAFE that retires as NOP: the watchdog count returns to 0, and outside trap mode it is the last safe point (R363, R366). -/
def State.safeNop (s : State) (c : Cur) (w : Warp) (k : Nat) : State :=
  let next := (endCheck c.pc c.next (w.path c.p).stack).2
  let s1 := (s.updWarp c.w (fun w => w.advance c.p c.pc c.next)).finish c true
  if w.trap.isSome then s1
  else s1.updWarp c.w (fun w => { w with lastSafe := some (k, next) })

/-- SAFE of a running warp (R363). -/
def State.safeRunning (s : State) (c : Cur) (w : Warp) (k save : Nat) : State :=
  if w.pending && w.trap.isNone && w.sole c.p && !w.debugHeld then
    let l := endCheck c.pc c.next (w.path c.p).stack
    match s.enterSave c.w w c.p k save l.2 l.1 (w.retired + 1) with
    | .done q => (q.updWarp c.w (fun w => { w with watch := 0 })).stepStop c
    | .empty => s.safeNop c w k
    | .cause code b va q => q.saveCause c code b va
    | .wait q => s.waitIn q
  else s.safeNop c w k

/-- SAFE (R363). Its own read of the table is an access of the issuing warp, with its clearance, and raises at SAFE what it meets
(DESIGN CHOICE, log entry 75). -/
def execSafe (k : BitVec 16) (s : State) : Host.Outcome State Fault Refusal :=
  issue (.safe k) .none s (fun s c w =>
    match s.launchOf w with
    | none => s
    | some l =>
      if l.safeCount ≤ k.toNat then s.raiseWhole c 0x5B 0
      else match s.safeEntry (w.who c.w c.p) l k.toNat c.lanes with
        | .wait q => s.waitIn q
        | .cause code b va q => q.raiseAt c code b va
        | .entry save _ q =>
          if save = 0 then q.raiseWhole c 0x5B 0
          else if w.trap.isSome then q.safeNop c w k.toNat
          else match w.pre with
            | .saving e => q.endSave c w k.toNat e
            | .restoring e pc mode stack jp => q.endRestore c w k.toNat e pc mode stack jp
            | .normal => q.safeRunning c w k.toNat save
            | .saved => s)

/-! ## Overdue pre-emption (R372) -/

/-- The overdue limit is reached. -/
def State.overdueReady (s : State) (key : Nat) : Bool := (s.warp? key).any (fun w => s.overdueDue w && w.atBoundary)

def execPreemptionOverdue (key : Nat) (s : State) : Host.Outcome State Fault Refusal :=
  match s.warp? key with
  | none => .refused .notEnabled
  | some w =>
    if s.overdueReady key then
      let c := w.boundary key
      .next (s.stopWarp key c (s.boundaryInfo c 0x56 0) c.lanes)
    else .refused .notEnabled

/-! ## Readmission (R371) -/

/-- A warp as restore mode starts it from its record part (R371). -/
def Warp.restored (w : Warp) (part : List Byte) (restore : DWord) (syncs : Nat) : Warp :=
  let f := fieldOf part
  let live : Mask := BitVec.ofNat 32 (f 0x0C 4)
  let stack := (numsFrom 0 (Nat.min 4 (f 0x18 1))).map (fun j =>
    ({ start := BitVec.ofNat 64 (f (0x40 + 20 * j) 8), stop := BitVec.ofNat 64 (f (0x48 + 20 * j) 8)
       count := BitVec.ofNat 32 (f (0x50 + 20 * j) 4) } : LoopEntry))
  let jp := if f 0x10 8 = 0xFFFFFFFFFFFFFFFF then none else some (BitVec.ofNat 64 (f 0x10 8))
  { (w.updPath 0 (fun q => { q with mask := live, pc := restore })) with
    live := live, barWg := f 0x1C 4, barTeam := f 0x20 4, xchgp := f 0x24 4, batchNo := BitVec.ofNat 8 (f 0x19 1)
    retired := BitVec.ofNat 64 (f 0x28 8), syncs := syncs
    clearance := if f 0x30 8 = 0 then none else some (BitVec.ofNat 64 (f 0x30 8))
    pre := .restoring (f 0x08 2) (pairTarget (BitVec.ofNat 64 (f 0x00 8))) (BitVec.ofNat 16 (f 0x0A 2)) stack jp }

/-- At readmission a warp's bitmap is read again (R223, R370). -/
def State.rereadClearance (s : State) (l : Launch) (key : Nat) : SaveGot :=
  match (s.warp? key).bind (fun w => w.clearance.map (fun a => (w, a))) with
  | none => .done s
  | some (w, a) =>
    match s.readBitmap l.asid (some w.team) a.toNat 64 with
    | .ok bits q => .done (q.enterClearance (coreOfKey key) (tagAsid l.asid a.toNat) a bits)
    | .cause c b q => .cause c b a.toNat q
    | .wait q => .wait q

/-- Restore one warp of a readmitted team; one that had exited is not started. -/
def State.restoreWarp (s : State) (l : Launch) (r key wg i syncs : Nat) : SaveGot :=
  match s.recordBase l.who with
  | .wait q => .wait q
  | .cause c b q => .cause c b (s.ctxOf l.asid).save.toNat q
  | .ok base q =>
    let va := base + recordSize * r + partOffset wg i
    match q.loadNow l.who va 256 with
    | .wait q => .wait q
    | .cause c b q => .cause c b va q
    | .ok part q =>
      if fieldOf part.1 0x0C 4 = 0 then .done { q with warps := Assoc.erase q.warps key }
      else match q.safeEntry l.who l (fieldOf part.1 0x08 2) 0 with
        | .wait q => .wait q
        | .cause c b va q => .cause c b va q
        | .entry _ restore q =>
          let q1 := (q.permEvents l.who true part.2 0 0).updWarp key (fun w =>
            { (w.restored part.1 (pairTarget (l.header + BitVec.ofNat 64 restore)) syncs) with
              heard := w.heard ++ [{ seg := 0, seq := 0, op := 0, acq := true, known := l.made }] })
          q1.rereadClearance l key

/-- The warps of a placed team, with their positions: key, workgroup, index. -/
def Team.positions (t : Team) : List (Nat × Nat × Nat) :=
  (withPos t.groups 0).flatMap (fun g => (withPos g.2.slots 0).map (fun k =>
    (g.2.core * Config.slotsPerCore + k.2, g.1, k.1)))

/-- Restore the warps of a placed team. -/
def State.restoreWarps (s : State) (l : Launch) (r : Nat) (counts : List Nat) (ps : List (Nat × Nat × Nat)) : SaveGot :=
  match ps with
  | [] => .done s
  | (key, wg, i) :: rest =>
    match s.restoreWarp l r key wg i ((counts[wg * l.wgWarps + i]?).getD 0) with
    | .done q => q.restoreWarps l r counts rest
    | o => o

/-- Restore placed teams and return their records (R371). -/
def State.restoreTeams (s : State) (id : Nat) (l : Launch) (ts : List (Nat × Nat)) : SaveGot :=
  match ts with
  | [] => .done s
  | (index, r) :: rest =>
    match s.teams.find? (fun t => t.2.launch == id && t.2.index == index) with
    | none => .empty
    | some t =>
      match s.restoreWarps l r (((l.savedSyncs.find? (fun x => x.1 == index)).map (fun x => x.2)).getD []) t.2.positions with
      | .done q => match q.returnRecord l.who r with
        | .done q => q.restoreTeams id l rest
        | o => o
      | o => o

/-- The next readmission of a die (R371): the saved teams of the current launch before its unadmitted ones, in ascending
linear index; a concurrent launch whole. A cause at the record is logged as a distributor's and waits for a TLBINV (log
entry 25). -/
def State.readmitTry (s : State) (die : Nat) : Option State :=
  match s.current die with
  | none => none
  | some (id, l) =>
    let ts := if l.cls = 0 then l.saved else l.saved.take 1
    let busy := l.cls == 0 && s.teams.any (fun t => t.2.launch == id && t.2.saving)
    if l.saved.isEmpty || busy || l.doneFailed || s.reclaiming l then none
    else match s.placeTeams id l (ts.map (fun t => t.1)) with
      | none => none
      | some q => match q.lentOver l with
        | _ :: _ => some (q.orReclaim s l)
        | [] => match q.restoreTeams id l ts with
          | .done q => some (q.updLaunch id (fun l =>
              { l with saved := l.saved.drop ts.length, savedSyncs := l.savedSyncs.drop ts.length }))
          | .cause c _ va _ => some ((s.distLog l c va).updLaunch id (fun l => { l with doneFailed := true }))
          | .empty => none
          | .wait q => s.newWait q

/-- DEDUCED, log entry 25. -/
def execTeamReadmission (die : Nat) (s : State) : Host.Outcome State Fault Refusal :=
  match s.readmitTry die with
  | some t => .next t
  | none => .refused .notEnabled

/-! ## BKPT and PERFRD -/

/-- BKPT (R374): with debug enabled the path stops with 0x50, else NOP. -/
def execBkpt (code : BitVec 16) (s : State) : Host.Outcome State Fault Refusal :=
  issue (.bkpt code) .none s (fun s c w =>
    if s.debugOn w then
      s.debugStop c.w c (s.infoOf c { code := 0x50, sub := code.toNat, lanes := c.lanes, addrs := [], other := false })
    else s.retire c)

/-- PERFRD (R380): a lane-cycle counter of the issuing core, or its count of corrected soft errors (DEDUCED, log entry 54). -/
def execPerfrd (d : BitVec 8) (k : BitVec 3) (n : BitVec 4) (s : State) : Host.Outcome State Fault Refusal :=
  issue (.perfrd d k n) .none s (fun s c w =>
    let core := s.core (coreOfKey c.w)
    let bound := s.bins.any (fun b => b.asid == w.asid)
    let v := if k = 5 then core.soft
      else if bound then Assoc.get core.bins 0 (n.toNat * 8 + k.toNat) else 0
    s.retireWith c (fun w => w.wrPair d 0 (BitVec.ofNat 64 v)))

end Sys2Proof.Machine
end

