-- ==== Sys2Proof/Machine/Events.lean ====
section
/-!
DEFINITION. What other devices and faults of the storage do: remote accesses (R389 to R392), routes and debug hold, soft errors
(R359), lost responses, and lost stamps (R246).
-/
namespace Sys2Proof.Machine

/-! ## Remote accesses (R390, R391) -/

/-- The path that waits for an operation's remote accesses: its issue record, whether the instruction returns the watchdog count to
0, and what its lanes have met. -/
def State.remoteCur (s : State) (a : Access) : Option (Cur × Bool × List LaneCause) :=
  match s.warp? a.w with
  | none => none
  | some w => firstSome w.paths (fun q => match q.hold with
    | .remote op c resets met => if op = a.op then some (c, resets, met) else none
    | _ => none)

/-- A cause of the access can be told to its warp: the path waits for it, or the warp is between instructions and not stopped. -/
def State.canTell (s : State) (a : Access) : Bool :=
  (s.remoteCur a).isSome || (s.warp? a.w).all (fun w => !w.stopped && w.atBoundary)

/-- An access is dropped; the lanes it served receive nothing. -/
def State.dropAccess (s : State) (k : Nat) (a : Access) : State :=
  let bad := maskOf (a.parts.map Part.lane)
  { s with accesses := Assoc.erase s.accesses k
           outs := Assoc.upd s.outs a.op (fun o => { o with lanes := o.lanes &&& ~~~bad }) }

/-- A store or an atomic that lost its response may have been performed or not; which is free (R391). -/
def State.maybePerform (s : State) (k : Nat) (a : Access) : State :=
  let q := if a.isLoad then s else if s.freeVal % 2 = 0 then s.takeFree else s.takeFree.perform k a
  q.dropAccess k a

/-- The units that are performed with a remote access: itself; where the warp traps mixed sizes also the other of its lane, since a lane
of 16 bytes has two (R234) and one that faults performs neither (R246). -/
def State.laneUnits (s : State) (k : Nat) (a : Access) : List (Nat × Access) :=
  if (s.warp? a.w).any Warp.mixedTrap then
    s.accesses.filter (fun e => e.1 == k || (e.2.op == a.op && e.2.w == a.w && e.2.remote.isSome && e.2.laneOf == a.laneOf))
  else [(k, a)]

/-- Perform the remote units of one lane, or answer the cause that one of them meets, with which none is performed (R246, R391): what
the lanes met. One without a response may have been performed or not. -/
def State.remoteOne (s : State) (us : List (Nat × Access)) : List LaneCause × State :=
  let pa := fun (a : Access) => ((a.parts.head?).map Part.off).getD 0
  let drop := fun (s : State) => us.foldl (fun (s : State) u => s.dropAccess u.1 u.2) s
  let all := fun (row code sub : Nat) => us.flatMap (fun u => u.2.laneCauses row code sub)
  match firstSome us (fun u => if Config.remoteLimit ≤ u.2.sent then some u else none) with
  | some _ => (all rowHome 0x2B 0, us.foldl (fun (s : State) u => s.maybePerform u.1 u.2) s)
  | none => match firstSome us (fun u => u.2.remote.bind (fun _ => s.remoteCause (pa u.2))) with
    | some (code, sub) => (all rowHome code sub, drop s)
    | none => match firstSome us (fun u => s.eventCause ((s.warp? u.2.w).any Warp.mixedTrap) u.2) with
      | some (row, code) => (all row code 0, drop s)
      | none => ([], us.foldl (fun (s : State) u => s.perform u.1 u.2) s)

/-- The owner answers the request of a remote access: its route is up; or it is known to be down before the request is sent (R391). -/
def State.answers (s : State) (d : Nat) (a : Access) : Bool :=
  match Assoc.get s.routes Route.up d with
  | .up => true
  | .down => a.sent == 0
  | .silent => false

/-- A remote access may be performed by its owner, with the other units of its lane: nothing that must precede them is pending,
their route answers, their port is awake, and a cause that they meet can be told. -/
def State.remoteReady (s : State) (k : Nat) : Bool :=
  match Assoc.at? s.accesses k with
  | none => false
  | some a => match a.remote with
    | none => false
    | some d =>
      let us := s.laneUnits k a
      us.all (fun u => s.canPerform u.1 u.2 && s.answers d u.2) && s.wayAwake a &&
        (s.canTell a || (s.remoteOne us).1.isEmpty)

/-- The trap of a cause that is met once its path has gone on, between two instructions: the record names the lanes, and the
interrupted PC, at which every form of return goes on (DEDUCED, log entry 48). -/
def State.deliverLate (s : State) (key : Nat) (once : Bool) (met : List LaneCause) : State :=
  match s.warp? key with
  | none => s
  | some w =>
    if w.live = 0 then s
    else
      let c := w.boundary key
      match c.causeOf once met with
      | none => s
      | some x =>
        let s1 := (s.updWarp key (fun w => { w with held := none })).routeH c (s.infoOf c x)
        s1.updWarp key (fun w => { w with trap := w.trap.map (fun t => { t with replay := Mask.full }) })

/-- An access of an instruction with remote accesses is over, its lanes having met `met`. Once none of the instruction's remote
accesses is left, one trap takes what all its lanes met (R356): at the instruction where its path has waited, which else retires,
or between two instructions. -/
def State.remoteDone (s : State) (a : Access) (met : List LaneCause) : State :=
  let more := s.accesses.any (fun e => e.2.op == a.op && e.2.w == a.w && e.2.remote.isSome)
  let once := (Assoc.at? s.outs a.op).any OutOp.uniform
  match s.remoteCur a with
  | some (c, resets, old) =>
    if more then s.updPath c.w c.p (fun q => { q with hold := .remote a.op c resets (old ++ met) })
    else
      let s1 := s.updPath c.w c.p (fun q => { q with hold := .none })
      match c.causeOf once (old ++ met) with
      | some x => s1.raise c x (some a.op)
      | none => if resets then s1.retireSync c else s1.retire c
  | none =>
    let all := ((Assoc.at? s.outs a.op).map OutOp.late).getD [] ++ met
    let keep := fun (l : List LaneCause) => { s with outs := Assoc.upd s.outs a.op (fun o => { o with late := l }) }
    if all = [] then s else if more then keep all else (keep []).deliverLate a.w once all

def execRemoteRequest (k : Nat) (s : State) : Host.Outcome State Fault Refusal :=
  match Assoc.at? s.accesses k with
  | none => .refused .notEnabled
  | some a =>
    if s.remoteReady k then
      let r := s.remoteOne (s.laneUnits k a)
      .next ((r.2.remoteDone a r.1).touchWay a)
    else .refused .notEnabled

/-- No response within the limit (R391). -/
def State.timedOut (s : State) (k : Nat) : Bool :=
  (Assoc.at? s.accesses k).any (fun a => a.remote.isSome && decide (Config.remoteLimit ≤ a.sent) && s.canTell a)

def execRemoteTimeout (k : Nat) (s : State) : Host.Outcome State Fault Refusal :=
  match Assoc.at? s.accesses k with
  | none => .refused .notEnabled
  | some a =>
    if s.timedOut k then
      let r := s.remoteOne (s.laneUnits k a)
      .next (r.2.remoteDone a r.1)
    else .refused .notEnabled

/-- The links of a route go down, or its device fails (R391): `known` before the next request is sent, or not. -/
def execRouteLinksDown (dev : Nat) (known : Bool) (s : State) : Host.Outcome State Fault Refusal :=
  .next { s with routes := Assoc.put s.routes dev (if known then Route.down else Route.silent) }

def execRouteLinksUp (dev : Nat) (s : State) : Host.Outcome State Fault Refusal :=
  .next { s with routes := Assoc.erase s.routes dev }

/-- A peer begins or stops advertising debug hold (R392). -/
def execPeerDebugHoldChange (dev : Nat) (hold : Bool) (s : State) : Host.Outcome State Fault Refusal :=
  .next { s with peerHold := Assoc.set s.peerHold false dev hold }

/-! ## Lost responses and stamps -/

/-- An access whose bytes stand in this device's second-tier memory, behind a CXL link (R208). -/
def State.inTier (s : State) (a : Access) : Bool :=
  match a.place with
  | .line t l => (s.findLine t l).any (fun x => s.inSecondTier x.pa)
  | .phys => a.parts.any (fun p => s.inSecondTier p.off)
  | .pinned _ _ => false
  | .scratch _ _ => false

/-- A response is lost (R359), with `code` 0x3C beyond link retry or 0x3D by a CXL link error, in the lanes it served: its access
is over (DEDUCED, log entry 48). -/
def State.loseResponse (s : State) (k : Nat) (a : Access) (code : Nat) : State :=
  (s.maybePerform k a).remoteDone a (a.laneCauses rowHome code 0)

/-- A response of the rings, the interposer or UALink is lost, or (`tier`) a CXL link fails an access to second-tier memory
(DEDUCED, log entry 41). Key 0, which no access has, names the next read that completes within its step. -/
def execFabricResponseLost (k : Nat) (tier : Bool) (s : State) : Host.Outcome State Fault Refusal :=
  if k = 0 then .next { s with lost := some tier }
  else match Assoc.at? s.accesses k with
  | none => .refused .notEnabled
  | some a =>
    if s.canPerform k a && (!tier || s.inTier a) && s.canTell a then
      .next (s.loseResponse k a (if tier then 0x3D else 0x3C))
    else .refused .notEnabled

/-- A stamp kept at a memory-side atomic unit is lost (R246). -/
def execMemorySideStampLost (line : Nat) (s : State) : Host.Outcome State Fault Refusal :=
  .next { s with stamps := s.stamps.filter (fun x => !(x.place == .phys && x.base == line)) }

/-! ## Soft errors (R359, R360) -/

/-- A corrected error is counted at its core (R380). -/
def State.countSoft (s : State) (core : Nat) : State := s.updCore core (fun c => { c with soft := c.soft + 1 })

/-- The core whose counter takes the corrected errors of a site: of shared storage the first core of its die (DESIGN CHOICE, log entry 26). -/
def State.coreOfSite (s : State) (x : Site) : Nat :=
  match x with
  | .register w _ _ => coreOfKey w
  | .scratch t g _ => ((s.group? t g).map Group.core).getD 0
  | .pinned c _ _ => c
  | .acc t g _ _ => ((s.group? t g).map Group.core).getD 0
  | .l1 c _ => c
  | .l2 a l _ => homeSlice a l / 32 * Config.coresPerDie
  | .memory g => localOfPa (g * 32) / 2 ^ 36 / 3 % 4 * Config.coresPerDie

/-- The site exists. -/
def State.siteExists (s : State) (x : Site) : Bool :=
  match x with
  | .register w r l => (s.warp? w).isSome && decide (r < 128) && decide (l < 32)
  | .scratch t g off => (s.group? t g).any (fun x => decide (off < x.size))
  | .pinned c k off => (s.findPinned c k).isSome && decide (off < 65536)
  | .acc t g k e => (s.group? t g).isSome && decide (k < 4) && decide (e < 16384)
  | .l1 c l => (s.core c).l1.any (fun x => x.line == l)
  | .l2 a l g => (s.findLine a l).isSome && decide (g < 4)
  | .memory g => s.isLocal (g * 32) && s.paPresent (localOfPa (g * 32))

/-- What an uncorrectable error leaves. A clean line of L2 is fetched again, a dirty one is poisoned; a line of L1 is
invalidated and fetched again. -/
def State.strike (s : State) (x : Site) : State :=
  match x with
  | .register w r l => s.updWarp w (fun y => { y with badReg := Assoc.set y.badReg false (r * 32 + l) true })
  | .scratch t g off => s.updGroup t g (fun y => { y with badScratch := Assoc.set y.badScratch false (off / 4) true })
  | .pinned c k off => s.updPinned c k (fun y => { y with bad := Assoc.set y.bad false (off / 4) true })
  | .acc t g k e =>
    let f := s.takeFree
    f.updGroup t g (fun y =>
      let tile := Assoc.get y.tiles Tile.reset k
      { y with tiles := Assoc.put y.tiles k
                 { tile with poisoned := true, bad := e :: tile.bad, acc := Assoc.set tile.acc 0 e (BitVec.ofNat 32 s.freeVal) } })
  | .l1 c l => s.updCore c (fun y => { y with l1 := y.l1.filter (fun x => x.line != l) })
  | .l2 a l g =>
    s.updLine a l (fun y =>
      if y.dirty then { y with poison := y.poison ||| (1#4 <<< g) }
      else { y with data := Memory.readBytes s.mem y.pa 128, poison := s.linePoison y.pa })
  | .memory g => s.setPoison g true

def execStorageSoftError (site : Site) (sev : Severity) (s : State) : Host.Outcome State Fault Refusal :=
  if s.siteExists site then
    .next (match sev with
      | .corrected => s.countSoft (s.coreOfSite site)
      | .uncorrectable => s.strike site)
  else .refused .notEnabled

end Sys2Proof.Machine
end

