-- ==== Sys2Proof/Machine/Float.lean ====
section
/-!
DEFINITION. Floating-point instructions (R106 to R120) over the number formats of `Flags`. FFMC, which reads the constant
space, stands with the memory instructions.
-/
namespace Sys2Proof.Machine

/-! ## Forms -/

/-- A result under R34: the format's bits, zero above. -/
def okFp (r : Nat × FpFlags) : Res Word := .ok (BitVec.ofNat 32 r.1) r.2

/-- The bits of an operand that the active type reads (R106). -/
def fpBits (f : FpFmt) (x : Word) : Nat := x.toNat % 2 ^ f.width

/-- `d, a, b` in the active type and mode. -/
def fbin (i : Instr) (pf : Option Prefix) (d a b : Code) (s : State) (op : FpFmt → Nat → Nat → Nat → Nat × FpFlags) :
    Host.Outcome State Fault Refusal :=
  runWord i pf (onceR d [a, b]) d s (fun w l =>
    let f := w.fpType pf
    okFp (op f (w.rounding pf) (fpBits f (w.rd a l)) (fpBits f (w.rd b l))))

/-- `d, a, literal` in the active type and mode (R120). -/
def fbinL (i : Instr) (pf : Option Prefix) (d a : Code) (lit : Word) (s : State)
    (op : FpFmt → Nat → Nat → Nat → Nat × FpFlags) : Host.Outcome State Fault Refusal :=
  runWord i pf (onceR d [a]) d s (fun w l =>
    let f := w.fpType pf
    okFp (op f (w.rounding pf) (fpBits f (w.rd a l)) (fpBits f lit)))

/-- `d, a` in the active type and mode. -/
def funa (i : Instr) (pf : Option Prefix) (d a : Code) (s : State) (op : FpFmt → Nat → Nat → Nat × FpFlags) :
    Host.Outcome State Fault Refusal :=
  runWord i pf (onceR d [a]) d s (fun w l =>
    let f := w.fpType pf
    okFp (op f (w.rounding pf) (fpBits f (w.rd a l))))

/-- A result with its exceptions. -/
def okBit (r : Bool × FpFlags) : Res Bool := .ok r.1 r.2

/-- A compare (R112). -/
def fcmp (i : Instr) (rel : FpRel) (pf : Option Prefix) (d a b : Code) (s : State) :
    Host.Outcome State Fault Refusal :=
  runBit i pf d s (fun w l =>
    let f := w.fpType pf
    okBit (f.compare rel (fpBits f (w.rd a l)) (fpBits f (w.rd b l))))

/-! ## Arithmetic (R108 to R110) -/

def execFadd (pf : Option Prefix) (d a b : BitVec 8) (s : State) : Host.Outcome State Fault Refusal :=
  fbin (.fadd pf d a b) pf d a b s FpFmt.add
def execFsub (pf : Option Prefix) (d a b : BitVec 8) (s : State) : Host.Outcome State Fault Refusal :=
  fbin (.fsub pf d a b) pf d a b s FpFmt.sub
def execFmul (pf : Option Prefix) (d a b : BitVec 8) (s : State) : Host.Outcome State Fault Refusal :=
  fbin (.fmul pf d a b) pf d a b s FpFmt.mul
def execFdiv (pf : Option Prefix) (d a b : BitVec 8) (s : State) : Host.Outcome State Fault Refusal :=
  fbin (.fdiv pf d a b) pf d a b s FpFmt.div

/-- FFMA (R109). -/
def execFfma (pf : Option Prefix) (d a b : BitVec 8) (s : State) : Host.Outcome State Fault Refusal :=
  runWord (.ffma pf d a b) pf (onceR d [srcD pf d, a, b]) d s (fun w l =>
    let f := w.fpType pf
    okFp (f.fma (w.rounding pf) (fpBits f (w.rd a l)) (fpBits f (w.rd b l)) (fpBits f (w.rd (srcD pf d) l))))

def execFsqrt (pf : Option Prefix) (d a : BitVec 8) (s : State) : Host.Outcome State Fault Refusal :=
  funa (.fsqrt pf d a) pf d a s FpFmt.sqrt
def execFround (pf : Option Prefix) (d a : BitVec 8) (s : State) : Host.Outcome State Fault Refusal :=
  funa (.fround pf d a) pf d a s FpFmt.rint

/-- FSCALE: b is a signed 32-bit integer (R110). -/
def execFscale (pf : Option Prefix) (d a b : BitVec 8) (s : State) : Host.Outcome State Fault Refusal :=
  runWord (.fscale pf d a b) pf (onceR d [a, b]) d s (fun w l =>
    let f := w.fpType pf
    okFp (f.scale (w.rounding pf) (fpBits f (w.rd a l)) (w.rd b l).toInt))

/-! ## Minimum, maximum, absolute value, negation, compares, classification (R111 to R113) -/

/-- FMIN and FMAX as operations. -/
def minMaxOp (wantMax : Bool) (f : FpFmt) (_mode a b : Nat) : Nat × FpFlags := f.minMax wantMax a b

def execFmin (pf : Option Prefix) (d a b : BitVec 8) (s : State) : Host.Outcome State Fault Refusal :=
  fbin (.fmin pf d a b) pf d a b s (minMaxOp false)
def execFmax (pf : Option Prefix) (d a b : BitVec 8) (s : State) : Host.Outcome State Fault Refusal :=
  fbin (.fmax pf d a b) pf d a b s (minMaxOp true)

/-- The register with the sign bit of the active type set to a value: all other bits are copied (R111), those above a
16-bit format written as zero (R34). -/
def withSign (f : FpFmt) (x : Nat) (sign : Bool) : Nat × FpFlags := (f.sign sign (x % f.signBit), 0)

/-- DEDUCED, log entry 55. -/
def execFabs (pf : Option Prefix) (d a : BitVec 8) (s : State) : Host.Outcome State Fault Refusal :=
  funa (.fabs pf d a) pf d a s (fun f _ x => withSign f x false)
def execFneg (pf : Option Prefix) (d a : BitVec 8) (s : State) : Host.Outcome State Fault Refusal :=
  funa (.fneg pf d a) pf d a s (fun f _ x => withSign f x (x / f.signBit % 2 == 0))
def execFcmpEq (pf : Option Prefix) (d a b : BitVec 8) (s : State) : Host.Outcome State Fault Refusal :=
  fcmp (.fcmpEq pf d a b) .eq pf d a b s
def execFcmpLt (pf : Option Prefix) (d a b : BitVec 8) (s : State) : Host.Outcome State Fault Refusal :=
  fcmp (.fcmpLt pf d a b) .lt pf d a b s
def execFcmpLe (pf : Option Prefix) (d a b : BitVec 8) (s : State) : Host.Outcome State Fault Refusal :=
  fcmp (.fcmpLe pf d a b) .le pf d a b s
def execFcmpUn (pf : Option Prefix) (d a b : BitVec 8) (s : State) : Host.Outcome State Fault Refusal :=
  fcmp (.fcmpUn pf d a b) .un pf d a b s
def execFclass (pf : Option Prefix) (d a : BitVec 8) (s : State) : Host.Outcome State Fault Refusal :=
  funa (.fclass pf d a) pf d a s (fun f _ x => (f.classify x, 0))

/-! ## Approximate functions (R114, R115) -/

def execFrcp (pf : Option Prefix) (d a : BitVec 8) (s : State) : Host.Outcome State Fault Refusal :=
  funa (.frcp pf d a) pf d a s (ApFn.apply .rcp)
def execFrsq (pf : Option Prefix) (d a : BitVec 8) (s : State) : Host.Outcome State Fault Refusal :=
  funa (.frsq pf d a) pf d a s (ApFn.apply .rsq)
def execFexp2 (pf : Option Prefix) (d a : BitVec 8) (s : State) : Host.Outcome State Fault Refusal :=
  funa (.fexp2 pf d a) pf d a s (ApFn.apply .exp2)
def execFlog2 (pf : Option Prefix) (d a : BitVec 8) (s : State) : Host.Outcome State Fault Refusal :=
  funa (.flog2 pf d a) pf d a s (ApFn.apply .log2)
def execFsin (pf : Option Prefix) (d a : BitVec 8) (s : State) : Host.Outcome State Fault Refusal :=
  funa (.fsin pf d a) pf d a s (ApFn.apply .sin)
def execFcos (pf : Option Prefix) (d a : BitVec 8) (s : State) : Host.Outcome State Fault Refusal :=
  funa (.fcos pf d a) pf d a s (ApFn.apply .cos)

/-! ## Packed 16-bit pairs (R116 to R118) -/

/-- The packed element type (R116). -/
def Warp.packedType (w : Warp) : FpFmt := if w.mode.extractLsb' 0 4 = 2 then .bf16 else .fp16

/-- Element `j` of a packed operand. -/
def elemOf (x : Word) (j : Nat) : Nat := x.toNat / 2 ^ (16 * j) % 65536

/-- A packed result from its elements. -/
def packed (r0 r1 : Nat × FpFlags) : Res Word := .ok (BitVec.ofNat 32 (r0.1 + 65536 * r1.1)) (r0.2 ||| r1.2)

def execHadd2 (pf : Option Prefix) (d a b : BitVec 8) (s : State) : Host.Outcome State Fault Refusal :=
  runWord (.hadd2 pf d a b) pf (onceR d [a, b]) d s (fun w l =>
    let op := fun j => w.packedType.add (w.rounding pf) (elemOf (w.rd a l) j) (elemOf (w.rd b l) j)
    packed (op 0) (op 1))
def execHmul2 (pf : Option Prefix) (d a b : BitVec 8) (s : State) : Host.Outcome State Fault Refusal :=
  runWord (.hmul2 pf d a b) pf (onceR d [a, b]) d s (fun w l =>
    let op := fun j => w.packedType.mul (w.rounding pf) (elemOf (w.rd a l) j) (elemOf (w.rd b l) j)
    packed (op 0) (op 1))
def execHfma2 (pf : Option Prefix) (d a b : BitVec 8) (s : State) : Host.Outcome State Fault Refusal :=
  runWord (.hfma2 pf d a b) pf (onceR d [srcD pf d, a, b]) d s (fun w l =>
    let op := fun j => w.packedType.fmaElem (w.rounding pf) (elemOf (w.rd a l) j) (elemOf (w.rd b l) j)
      (elemOf (w.rd (srcD pf d) l) j)
    packed (op 0) (op 1))

/-- HDOT2 (R118): the first NaN of a0, b0, a1, b1, c, else the two steps in FP32. A NaN result raises invalid for a signalling NaN
and for the products and sums that are invalid in themselves, and keeps no other exception of its steps where an operand is the NaN
(R38; DEDUCED, log entry 80). -/
def hdot2 (e : FpFmt) (mode : Nat) (a b c : Word) : Nat × FpFlags :=
  let elems := [elemOf a 0, elemOf b 0, elemOf a 1, elemOf b 1].map e.unpack
  let fc := FpFmt.fp32.unpack c.toNat
  let wide := fun x => (e.convert .fp32 mode x).1
  let p0 := FpFmt.fp32.mul mode (wide (elemOf a 0)) (wide (elemOf b 0))
  let p1 := FpFmt.fp32.mul mode (wide (elemOf a 1)) (wide (elemOf b 1))
  let t := FpFmt.fp32.add mode c.toNat p0.1
  let r := FpFmt.fp32.add mode t.1 p1.1
  let flags := p0.2 ||| p1.2 ||| t.2 ||| r.2
  let bad : FpFlags := if elems.any Fp.isSnan || fc.isSnan then FpFlags.invalid else flags &&& FpFlags.invalid
  match firstNan e .fp32 elems with
  | some r => (r.1, bad)
  | none =>
    match firstNan .fp32 .fp32 [fc] with
    | some r => (r.1, bad)
    | none => (r.1, flags)

def execHdot2 (pf : Option Prefix) (d a b : BitVec 8) (s : State) : Host.Outcome State Fault Refusal :=
  runWord (.hdot2 pf d a b) pf (onceR d [srcD pf d, a, b]) d s (fun w l =>
    okFp (hdot2 w.packedType (w.rounding pf) (w.rd a l) (w.rd b l) (w.rd (srcD pf d) l)))

/-! ## Conversions (R119) -/

/-- The scalar formats of a two-bit code. -/
def scalarFmt (n : Nat) : Option FpFmt :=
  match n with
  | 0 => some .fp32
  | 1 => some .fp16
  | 2 => some .bf16
  | _ => none

/-- The formats of FCVT.F2F. -/
def anyFmt (n : Nat) : Option FpFmt :=
  match n with
  | 0 => some .fp32
  | 1 => some .fp16
  | 2 => some .bf16
  | 3 => some .e4m3
  | 4 => some .e5m2
  | _ => none

/-- The integer width of a two-bit code. -/
def intWidth (n : Nat) : Option Nat :=
  match n with
  | 0 => some 32
  | 1 => some 16
  | 2 => some 8
  | _ => none

/-- FCVT.F2I on a value under a control; 0x16 for a control not listed. -/
def f2i (mode : Nat) (a b : Word) : Res Word :=
  match intWidth (b.extractLsb' 2 2).toNat, scalarFmt (b.extractLsb' 0 2).toNat with
  | some n, some f =>
    let lo : Int := if b.getLsbD 4 then -(2 ^ (n - 1)) else 0
    let hi : Int := if b.getLsbD 4 then 2 ^ (n - 1) - 1 else 2 ^ n - 1
    let r := f.toInt mode (fpBits f a) lo hi
    .ok (BitVec.ofInt 32 r.1) r.2
  | _, _ => .bad 1 0x16 0 0

/-- FCVT.I2F. -/
def i2f (mode : Nat) (a b : Word) : Res Word :=
  match intWidth (b.extractLsb' 2 2).toNat, scalarFmt (b.extractLsb' 0 2).toNat with
  | some n, some f => okFp (f.ofInt mode (if b.getLsbD 4 then signedNat n a.toNat else (a.toNat % 2 ^ n : Nat)))
  | _, _ => .bad 1 0x16 0 0

/-- FCVT.F2F. -/
def f2f (mode : Nat) (a b : Word) : Res Word :=
  match anyFmt (b.extractLsb' 4 3).toNat, anyFmt (b.extractLsb' 0 3).toNat with
  | some f, some g => okFp (f.convert g mode (fpBits f a))
  | _, _ => .bad 1 0x16 0 0

/-- A conversion in the active mode. -/
def fcvt (i : Instr) (pf : Option Prefix) (d a b : Code) (s : State) (op : Nat → Word → Word → Res Word) :
    Host.Outcome State Fault Refusal :=
  runWord i pf (onceR d [a, b]) d s (fun w l => op (w.rounding pf) (w.rd a l) (w.rd b l))

def execFcvtF2i (pf : Option Prefix) (d a b : BitVec 8) (s : State) : Host.Outcome State Fault Refusal :=
  fcvt (.fcvtF2i pf d a b) pf d a b s f2i
def execFcvtI2f (pf : Option Prefix) (d a b : BitVec 8) (s : State) : Host.Outcome State Fault Refusal :=
  fcvt (.fcvtI2f pf d a b) pf d a b s i2f
def execFcvtF2f (pf : Option Prefix) (d a b : BitVec 8) (s : State) : Host.Outcome State Fault Refusal :=
  fcvt (.fcvtF2f pf d a b) pf d a b s f2f

/-! ## Literal forms (R120) -/

def execFaddL (pf : Option Prefix) (d a : BitVec 8) (lit : BitVec 32) (s : State) : Host.Outcome State Fault Refusal :=
  fbinL (.faddL pf d a lit) pf d a lit s FpFmt.add
def execFmulL (pf : Option Prefix) (d a : BitVec 8) (lit : BitVec 32) (s : State) : Host.Outcome State Fault Refusal :=
  fbinL (.fmulL pf d a lit) pf d a lit s FpFmt.mul
def execFfmaL (pf : Option Prefix) (d a b : BitVec 8) (lit : BitVec 32) (s : State) :
    Host.Outcome State Fault Refusal :=
  runWord (.ffmaL pf d a b lit) pf (onceR d [a, b]) d s (fun w l =>
    let f := w.fpType pf
    okFp (f.fma (w.rounding pf) (fpBits f (w.rd a l)) (fpBits f (w.rd b l)) (fpBits f lit)))
def execFminL (pf : Option Prefix) (d a : BitVec 8) (lit : BitVec 32) (s : State) : Host.Outcome State Fault Refusal :=
  fbinL (.fminL pf d a lit) pf d a lit s (minMaxOp false)
def execFmaxL (pf : Option Prefix) (d a : BitVec 8) (lit : BitVec 32) (s : State) : Host.Outcome State Fault Refusal :=
  fbinL (.fmaxL pf d a lit) pf d a lit s (minMaxOp true)
def execFcmpLtL (pf : Option Prefix) (d a : BitVec 8) (lit : BitVec 32) (s : State) :
    Host.Outcome State Fault Refusal :=
  runBit (.fcmpLtL pf d a lit) pf d s (fun w l =>
    let f := w.fpType pf
    okBit (f.compare .lt (fpBits f (w.rd a l)) (fpBits f lit)))

end Sys2Proof.Machine
end

