-- ==== Sys2Proof/Machine/Hash.lean ====
section
/-!
DEFINITION. The scratch hash table (R272 to R278): claims, keyed operations and the drain.
-/
namespace Sys2Proof.Machine

/-- The key that marks an empty entry (R272). -/
def emptyKey : DWord := 0xFFFFFFFFFFFFFFFF

/-- The home bucket of a key in a claim of `b` buckets (R274). -/
def homeBucket (key : DWord) (b : Nat) : Nat := (key * 0x9E3779B97F4A7C15).toNat / (2 ^ 64 / b)

/-- The claim of a table id that a warp names, none where it is not claimed (R273). -/
def State.claim? (s : State) (w : Warp) (id : Nat) : Option Claim :=
  (s.group? w.team w.wg).bind (fun g => Assoc.at? g.claims id)

/-- Change a claim. -/
def State.updClaim (s : State) (w : Warp) (id : Nat) (f : Claim → Claim) : State :=
  s.updGroup w.team w.wg (fun g => { g with claims := Assoc.upd g.claims id f })

/-! ## Spill areas (R273, R274) -/

/-- What an access to a spill area ends with; a cause comes with its address (R345). -/
inductive SpillGot (α : Type) where
  | ok (x : α) (s : State)
  | cause (code sub va : Nat) (s : State)
  /-- a read is denied: 0x28, and an event with the tag found (R222, R274) -/
  | denied (tag va : Nat) (s : State)
  | wait (s : State)

/-- Go on with what an access gave. -/
def SpillGot.bind {α β : Type} (g : SpillGot α) (f : α → State → SpillGot β) : SpillGot β :=
  match g with
  | .ok x s => f x s
  | .cause k b v s => .cause k b v s
  | .denied t v s => .denied t v s
  | .wait s => .wait s

/-- The checks of an access to a spill area (R274): as a weak LD.64 or ST.64, but a tag that is not cleared is 0x28 on a read as
well. A lost response leaves a write made or not (R391). -/
def State.spillHit (s : State) (c : Cur) (w : Warp) (va n : Nat) (bs : List Byte) (writes : Bool) : SpillGot Hit :=
  let who := w.who c.w c.p
  let go := fun (h : Hit) (absent : Option Nat) (q : State) =>
    if writes && !h.w then (.cause 0x27 0 va q : SpillGot Hit)
    else match q.cleared who.core who.asid who.team who.clr h.tag with
      | .cause k b q => .cause k b va q
      | .wait q => .wait q
      | .ok false q => if writes then .cause 0x28 0 va q else .denied h.tag va q
      | .ok true q =>
        match absent with
        | some b => .cause 0x2F b va q
        | none => match q.way (some who.core) h with
          | .cause k b =>
            let q := q.wayUsed (some who.core) h
            .cause k b va (if writes && k != 0x2A then q.maybePoke h bs else q)
          | .wait => .wait (q.ask (some who.core) h)
          | .go => .ok h (q.wakeFor (some who.core) h)
  if 2 ^ 56 ≤ va then .cause 0x24 0 va s
  else if s.watched c w va n (!writes) writes then .cause 0x52 0 va s
  else match s.resolve who.asid who.team va with
    | (.cause k b, q) => .cause k b va q
    | (.miss _ _, q) => .wait q
    | (.absent b h, q) => go h (some b) q
    | (.hit h, q) => go h none q

/-- The access to a spill area, relaxed at device scope (R274). -/
def Warp.spillUnit (w : Warp) (c : Cur) (h : Hit) (kind : AccKind) (n : Nat) (bs : List Byte) : Access × Part :=
  let p : Part := { lane := 0, va := 0, voff := 0, off := h.off, size := n, data := bs }
  (w.unit c.w c.p 0 kind h [p] n 2, p)

/-- Read `n` bytes of a spill area, after what must precede the read (R237). -/
def State.spillRead (s : State) (c : Cur) (w : Warp) (va n : Nat) : SpillGot Nat :=
  (s.spillHit c w va n [] false).bind (fun h q =>
    let a := w.spillUnit c h .load n []
    match q.settleFor a.1 with
    | none => .wait q
    | some q =>
      if w.mixedTrap && q.mixedSize a.1 a.2 then .cause 0x25 0 va q
      else if q.badAt h.place h.off n then .cause (q.errorCode h.place h.off n) 0 va q
      else
        let r := q.scramble a.1 a.2 (q.readUnit a.1 h.off n)
        .ok (natOfBytes r.1) ((r.2.recordPart a.1 a.2).performed 0 a.1))

/-- Write at most 8 bytes of a spill area. -/
def State.spillPut (s : State) (c : Cur) (w : Warp) (va : Nat) (bs : List Byte) : SpillGot Unit :=
  (s.spillHit c w va bs.length bs true).bind (fun h q =>
    let a := w.spillUnit c h .store bs.length bs
    match q.settleFor a.1 with
    | none => .wait q
    | some q =>
      if w.mixedTrap && q.mixedSize a.1 a.2 then .cause 0x25 0 va q
      else
        let r := q.scrambleWrite a.1 a.2 bs
        .ok () (((r.2.recordPart a.1 a.2).poke h.place h.off r.1).performed 0 a.1))

/-- Write a key and a value, or one of them. -/
def State.spillWrite (s : State) (c : Cur) (w : Warp) (va : Nat) (bs : List Byte) : SpillGot Unit :=
  (s.spillPut c w va (bs.take 8)).bind (fun _ q => if bs.length ≤ 8 then .ok () q else q.spillPut c w (va + 8) (bs.drop 8))

/-- The cursor of a spill area. -/
def State.spillCursor (s : State) (c : Cur) (w : Warp) (base : Nat) : SpillGot Nat := s.spillRead c w base 4

/-- The first spill entry from `j` on that holds a key, among `n` more (R274). -/
def State.spillFind (s : State) (c : Cur) (w : Warp) (base : Nat) (key : DWord) (n j : Nat) : SpillGot (Option Nat) :=
  match n with
  | 0 => .ok none s
  | n + 1 =>
    (s.spillRead c w (base + 16 + 16 * j) 8).bind (fun k q =>
      if k = key.toNat then .ok (some j) q else q.spillFind c w base key n (j + 1))

/-! ## Finding and inserting (R274) -/

/-- Where a key lies. -/
inductive KeyAt where
  /-- entry number: bucket × 8 + slot -/
  | bucket (e : Nat)
  | spill (j : Nat)
  | absent
  deriving DecidableEq, Repr

/-- The entries of a key's two buckets, in search order (R274). -/
def bucketEntries (key : DWord) (b : Nat) : List Nat :=
  let h := homeBucket key b
  numsFrom (h * 8) 8 ++ numsFrom ((h + 1) % b * 8) 8

/-- Find a key of a claim. -/
def State.findKey (s : State) (c : Cur) (w : Warp) (cl : Claim) (key : DWord) : SpillGot KeyAt :=
  match (bucketEntries key cl.b).find? (fun e => (Assoc.at? cl.entries e).any (fun x => x.1 == key)) with
  | some e => .ok (.bucket e) s
  | none =>
    match cl.spill with
    | none => .ok .absent s
    | some a =>
      (s.spillCursor c w a.toNat).bind (fun n q => (q.spillFind c w a.toNat key n 0).bind (fun j q =>
        .ok ((j.map KeyAt.spill).getD .absent) q))

/-- Insert an absent key: the lowest empty slot of its buckets, else the spill area; the state, and whether the entry lies in
the spill area. -/
def State.insertKey (s : State) (c : Cur) (w : Warp) (id : Nat) (cl : Claim) (key x : DWord) : SpillGot Bool :=
  match (bucketEntries key cl.b).find? (fun e => (Assoc.at? cl.entries e).isNone) with
  | some e => .ok false (s.updClaim w id (fun c => { c with entries := Assoc.put c.entries e (key, x) }))
  | none =>
    match cl.spill with
    | none => .cause 0x2E 0 0 s
    | some a =>
      (s.spillCursor c w a.toNat).bind (fun n q =>
        if n = cl.capacity then .cause 0x2E 0 0 q
        else
          (q.spillWrite c w (a.toNat + 16 + 16 * n) (bytesOfNat 8 key.toNat ++ bytesOfNat 8 x.toNat)).bind (fun _ q =>
            (q.spillWrite c w a.toNat (bytesOfNat 4 (n + 1))).bind (fun _ q => .ok true q)))

/-- The value of a found entry. -/
def State.keyValue (s : State) (c : Cur) (w : Warp) (cl : Claim) (k : KeyAt) : SpillGot DWord :=
  match k with
  | .bucket e => .ok (((Assoc.at? cl.entries e).map (fun x => x.2)).getD 0) s
  | .spill j =>
    (s.spillRead c w ((cl.spill.getD 0).toNat + 16 + 16 * j + 8) 8).bind (fun v q => .ok (BitVec.ofNat 64 v) q)
  | .absent => .ok 0 s

/-- Write the value of a found entry. -/
def State.setKeyValue (s : State) (c : Cur) (w : Warp) (id : Nat) (cl : Claim) (k : KeyAt) (key x : DWord) : SpillGot Unit :=
  match k with
  | .bucket e => .ok () (s.updClaim w id (fun c => { c with entries := Assoc.put c.entries e (key, x) }))
  | .spill j => s.spillWrite c w ((cl.spill.getD 0).toNat + 16 + 16 * j + 8) (bytesOfNat 8 x.toNat)
  | .absent => .ok () s

/-- Empty a found entry (R274). -/
def State.emptyEntry (s : State) (c : Cur) (w : Warp) (id : Nat) (cl : Claim) (k : KeyAt) : SpillGot Unit :=
  match k with
  | .bucket e => .ok () (s.updClaim w id (fun c => { c with entries := Assoc.erase c.entries e }))
  | .spill j => s.spillWrite c w ((cl.spill.getD 0).toNat + 16 + 16 * j) (bytesOfNat 8 emptyKey.toNat)
  | .absent => .ok () s

/-- Status bit 8: the entry lies in the spill area (R275). -/
def KeyAt.mark (k : KeyAt) : Word :=
  match k with
  | .spill _ => 0x100
  | _ => 0

/-! ## HTCLAIM and HTREL (R273) -/

/-- Bytes of the live claims of a workgroup. -/
def Group.claimed (g : Group) : Nat := g.claims.foldl (fun n c => n + c.2.b * 128) 0

/-- The lowest table id that is free. -/
def Group.freeId (g : Group) : Option Nat := (numsFrom 0 8).find? (fun i => (Assoc.at? g.claims i).isNone)

/-- The first three causes of HTCLAIM: subcauses of 0x2D. -/
def State.claimCause (s : State) (w : Warp) (g : Group) (b : Nat) : Option Nat :=
  if b < 4 ∨ 2048 < b ∨ 2 ^ Nat.log2 b ≠ b then some 1
  else if g.freeId = none then some 3
  else if s.headerField w Launch.hashmax < b * 128 + g.claimed then some 0
  else none

/-- Open a claim and write its id. -/
def State.openClaim (s : State) (c : Cur) (w : Warp) (d : Code) (id b : Nat) (spill : Option DWord) (capacity : Nat) : State :=
  ((s.updGroup w.team w.wg (fun g =>
      { g with claims := Assoc.put g.claims id { b := b, entries := [], spill := spill, capacity := capacity } })).updWarp c.w
    (fun w => w.wr d 0 (BitVec.ofNat 32 id))).retire c

def execHtclaim (d a b : BitVec 8) (s : State) : Host.Outcome State Fault Refusal :=
  issue (.htclaim d a b) .none s (fun s c w =>
    match s.group? w.team w.wg with
    | none => s
    | some g =>
      let n := (w.rd b 0).toNat
      let base := w.rdPair a 0
      match s.claimCause w g n with
      | some sub => s.raiseWhole c 0x2D sub
      | none =>
        let id := g.freeId.getD 0
        if a = 0xFF then s.openClaim c w d id n none 0
        else match s.formBlock c w base 16 8 1 true false ++ s.formBlock c w base 16 4 1 false true with
          | f :: r => s.raiseOnce c (f :: r)
          | [] => match s.readLanes c w true 8 [{ lane := 0, va := base.toNat }] with
            | .hold q => q
            | .done vals [] q =>
              match q.writeLanes c w 4 [{ lane := 0, va := base.toNat }] (fun _ => zeros 4) with
              | .hold q2 => q2
              | .bad causes _ q2 => q2.raiseOnce c causes
              | .done q2 => q2.openClaim c w d id n (some base) (readValue vals 0 / 2 ^ 32)
            | .done _ causes q => q.raiseOnce c causes)

def execHtrel (a : BitVec 8) (s : State) : Host.Outcome State Fault Refusal :=
  issue (.htrel a) .none s (fun s c w =>
    let id := (w.rd a 0).toNat
    match s.claim? w id with
    | none => s.raiseWhole c 0x2D 2
    | some _ => (s.updGroup w.team w.wg (fun g => { g with claims := Assoc.erase g.claims id })).retire c)

/-! ## Keyed operations (R275, R276) -/

/-- A group of lanes with one key, lowest lane first. -/
structure KeyGroup where
  key : DWord
  lanes : List Nat
  deriving DecidableEq, Repr

/-- Add a lane to the groups, which stand in the order of their lowest lanes. -/
def addKey (gs : List KeyGroup) (k : DWord) (l : Nat) : List KeyGroup :=
  match gs with
  | [] => [{ key := k, lanes := [l] }]
  | g :: r => if g.key = k then { g with lanes := g.lanes ++ [l] } :: r else g :: addKey r k l

/-- What a group's operation gives: the value and status of its lowest lane, and those of its other lanes. -/
structure KeyResult where
  value : DWord
  status : Word
  others : Word
  deriving DecidableEq, Repr

/-- The operator of HACC (R275). -/
def haccOp (op : BitVec 4) (ty : BitVec 2) (x y : DWord) : DWord :=
  if ty = 2 then
    let f := match op.toNat with
      | 0 => (FpFmt.fp32.add 0 x.lo.toNat y.lo.toNat).1
      | 1 => (FpFmt.fp32.minMax false x.lo.toNat y.lo.toNat).1
      | _ => (FpFmt.fp32.minMax true x.lo.toNat y.lo.toNat).1
    BitVec.ofNat 64 f
  else match op.toNat with
    | 0 => x + y
    | 1 => if (if ty = 0 then decide (x ≤ y) else decide (x.toInt ≤ y.toInt)) then x else y
    | _ => if (if ty = 0 then decide (x ≤ y) else decide (x.toInt ≤ y.toInt)) then y else x

/-- What HACC stores: the high half of an f32 value is 0 (R275). -/
def haccStored (ty : BitVec 2) (x : DWord) : DWord := if ty = 2 then x.lo.setWidth 64 else x

/-- HINS on a group: `x` is the lowest lane's value. -/
def State.hashInsert (s : State) (c : Cur) (w : Warp) (id : Nat) (cl : Claim) (key x : DWord) : SpillGot KeyResult :=
  (s.findKey c w cl key).bind (fun k q =>
    if k = .absent then
      (q.insertKey c w id cl key x).bind (fun sp q =>
        let m : Word := if sp then 0x100 else 0
        .ok { value := 0, status := m, others := 1 ||| m } q)
    else .ok { value := 0, status := 1 ||| k.mark, others := 1 ||| k.mark } q)

/-- HPROBE on a group. -/
def State.hashProbe (s : State) (c : Cur) (w : Warp) (cl : Claim) (key : DWord) : SpillGot KeyResult :=
  (s.findKey c w cl key).bind (fun k q =>
    if k = .absent then .ok { value := 0, status := 2, others := 2 } q
    else (q.keyValue c w cl k).bind (fun v q => .ok { value := v, status := k.mark, others := k.mark } q))

/-- HDEL on a group. -/
def State.hashDelete (s : State) (c : Cur) (w : Warp) (id : Nat) (cl : Claim) (key : DWord) : SpillGot KeyResult :=
  (s.findKey c w cl key).bind (fun k q =>
    if k = .absent then .ok { value := 0, status := 2, others := 2 } q
    else (q.emptyEntry c w id cl k).bind (fun _ q => .ok { value := 0, status := k.mark, others := 2 } q))

/-- HACC on a group: `x` is the combined contribution. -/
def State.hashAccumulate (s : State) (c : Cur) (w : Warp) (id : Nat) (cl : Claim) (op : BitVec 4) (ty : BitVec 2)
    (key x : DWord) : SpillGot KeyResult :=
  (s.findKey c w cl key).bind (fun k q =>
    if k = .absent then
      (q.insertKey c w id cl key (haccStored ty x)).bind (fun sp q =>
        let m : Word := if sp then 0x100 else 0
        .ok { value := 0, status := 1 ||| m, others := 1 ||| m } q)
    else
      (q.keyValue c w cl k).bind (fun v q =>
        (q.setKeyValue c w id cl k key (haccStored ty (haccOp op ty v x))).bind (fun _ q =>
          .ok { value := 0, status := k.mark, others := k.mark } q)))

/-- The run over the groups: the lanes' results and causes, the lines that reads were denied with their tags and the lanes, and the
state. -/
structure KeyRun where
  results : List (Nat × DWord × Word)
  causes : List LaneCause
  denied : List (Nat × Nat × Mask) := []
  s : State

/-- How the run ends: it waits, or it is over. -/
inductive KeyEnd where
  | wait (s : State)
  | ok (r : KeyRun)

/-- Apply the groups in order; a cause of a group is every lane's, the other groups go on (R276, R278). -/
def runKeys (w : Warp) (id : Nat) (f : State → Claim → KeyGroup → SpillGot KeyResult) (gs : List KeyGroup) (n : Nat) (r : KeyRun) :
    KeyEnd :=
  match gs with
  | [] => .ok r
  | g :: rest =>
    match r.s.claim? w id with
    | none => .ok r
    | some cl =>
      let bad := fun (k b v : Nat) => g.lanes.map (fun l =>
        ({ lane := l, row := n, code := k, sub := b, addr := BitVec.ofNat 64 v } : LaneCause))
      match f r.s cl g with
      | .ok x q =>
        let out := match g.lanes with
          | [] => []
          | l :: ls => (l, x.value, x.status) :: ls.map (fun j => (j, x.value, x.others))
        runKeys w id f rest (n + 1) { r with results := r.results ++ out, s := q }
      | .cause k b v q => runKeys w id f rest (n + 1) { r with causes := r.causes ++ bad k b v, s := q }
      | .denied t v q =>
        runKeys w id f rest (n + 1)
          { r with causes := r.causes ++ bad 0x28 0 v, denied := r.denied ++ [(v / 128 * 128, t, maskOf g.lanes)], s := q }
      | .wait q => .wait q

/-- One event for each line that reads of a run were denied, with the lanes of all its groups; of a once-per-warp form the path's
(R222). -/
def State.logRun (s : State) (c : Cur) (w : Warp) (once : Bool) (ds : List (Nat × Nat × Mask)) : State :=
  ((ds.map (fun d => (d.1, d.2.1))).eraseDups).foldl (fun (s : State) l =>
    s.permEvent (w.who c.w c.p) false l.1 l.2 0
      (if once then c.lanes else ds.foldl (fun (m : Mask) d => if (d.1, d.2.1) = l then m ||| d.2.2 else m) 0)) s

/-- The event of a keyed operation at its claim, as an access that R237 orders after others: relaxed at workgroup scope, sharing no
byte (R275). -/
def Warp.keyedAccess (w : Warp) (c : Cur) : Access :=
  w.unit c.w c.p 0 (.rmw 0 0)
    { place := .scratch w.team w.wg, off := 0, pa := 0, tag := 0, w := true, x := false, home := 0, remote := none } [] 8 1

/-- A keyed operation (R275, R278). `quad` says that d receives the value and the status (DEDUCED, log entry 45). -/
def keyedOp (i : Instr) (pf : Option Prefix) (d a b : Code) (quad : Bool) (s : State)
    (f : Cur → Warp → Nat → State → Claim → KeyGroup → SpillGot KeyResult) : Host.Outcome State Fault Refusal :=
  issue i .none s (fun s c w =>
    let once := !isLane a
    let id := (w.rd b 0).toNat
    match s.claim? w id with
    | none => s.raiseWhole c 0x2D 2
    | some _ =>
      match s.settleFor (w.keyedAccess c) with
      | none => s
      | some s0 =>
      let on := w.onLanes pf once c
      let regs := w.badLanes (operandsOf i) on
      let good := on.filter (fun l => !regs.contains l)
      let reserved := good.filter (fun l => w.rdPair a l == emptyKey)
      let keyed := good.filter (fun l => w.rdPair a l != emptyKey)
      let gs := keyed.foldl (fun gs l => addKey gs (w.rdPair a l) l) []
      let early := regs.map (fun l => ({ lane := l, row := 0, code := 0x38, sub := 0, addr := 0 } : LaneCause)) ++
        reserved.map (fun l => { lane := l, row := 1, code := 0x1A, sub := 0, addr := 0 })
      let run := fun (s : State) (cl : Claim) (g : KeyGroup) =>
        f { c with lanes := if once then c.lanes else maskOf g.lanes } w id s cl g
      match runKeys w id run gs 2 { results := [], causes := early, s := s0 } with
      | .wait q => s.waitIn q
      | .ok r =>
        let put := fun (x : Warp) (l : Nat) (v : DWord) (st : Word) =>
          if quad then ((x.wrPair d l v).wr (nextCode d 2) l st).wr (nextCode d 3) l 0 else x.wr d l st
        let put1 := fun (x : Warp) (e : Nat × DWord × Word) =>
          if once && isLane d then c.lanes.lanes.foldl (fun (y : Warp) l => put y l e.2.1 e.2.2) x
          else put x e.1 e.2.1 e.2.2
        let w1 := r.results.foldl put1 (match r.s.warp? c.w with
          | some x => x
          | none => w)
        let w2 := if !once && w.zeroPolicy pf then
            (c.lanes.lanes.filter (fun l => !(w.guardOf pf).getLsbD l)).foldl (fun (x : Warp) l => put x l 0 0) w1
          else w1
        let s2 := (r.s.setWarp c.w { w2 with seq := w.seq + 1 }).logRun c w once r.denied
        match c.causeOf once r.causes with
        | none => s2.retire c
        | some x => s2.raise c x none)

/-- The value that a quad supplies. -/
def Warp.quadValue (w : Warp) (a : Code) (l : Nat) : DWord := w.rdPair (nextCode a 2) l

def execHins (pf : Option Prefix) (d a b : BitVec 8) (s : State) : Host.Outcome State Fault Refusal :=
  keyedOp (.hins pf d a b) pf d a b false s (fun c w id s cl g =>
    s.hashInsert c w id cl g.key (w.quadValue a ((g.lanes.head?).getD 0)))
def execHprobe (pf : Option Prefix) (d a b : BitVec 8) (s : State) : Host.Outcome State Fault Refusal :=
  keyedOp (.hprobe pf d a b) pf d a b true s (fun c w _ s cl g => s.hashProbe c w cl g.key)
def execHdel (pf : Option Prefix) (d a b : BitVec 8) (s : State) : Host.Outcome State Fault Refusal :=
  keyedOp (.hdel pf d a b) pf d a b false s (fun c w id s cl g => s.hashDelete c w id cl g.key)
def execHacc (pf : Option Prefix) (d a b : BitVec 8) (op : BitVec 4) (ty : BitVec 2) (s : State) :
    Host.Outcome State Fault Refusal :=
  keyedOp (.hacc pf d a b op ty) pf d a b false s (fun c w id s cl g =>
    match g.lanes with
    | [] => .ok { value := 0, status := 0, others := 0 } s
    | l :: r => s.hashAccumulate c w id cl op ty g.key
        (r.foldl (fun (x : DWord) j => haccOp op ty x (w.quadValue a j)) (w.quadValue a l)))

/-! ## HDRAIN (R277) -/

/-- The spill entries that hold a key, among `n` from `j` on. -/
def State.spillEntries (s : State) (c : Cur) (w : Warp) (base : Nat) (n j : Nat) : SpillGot (List (DWord × DWord)) :=
  match n with
  | 0 => .ok [] s
  | n + 1 =>
    (s.spillRead c w (base + 16 + 16 * j) 8).bind (fun k q => (q.spillRead c w (base + 24 + 16 * j) 8).bind (fun v q =>
      (q.spillEntries c w base n (j + 1)).bind (fun r q =>
        .ok (if k = emptyKey.toNat then r else (BitVec.ofNat 64 k, BitVec.ofNat 64 v) :: r) q)))

/-- All entries of a claim, in ascending bucket, slot and spill index. -/
def State.claimEntries (s : State) (c : Cur) (w : Warp) (cl : Claim) : SpillGot (List (DWord × DWord)) :=
  match cl.spill with
  | none => .ok (Assoc.vals cl.entries) s
  | some a =>
    (s.spillCursor c w a.toNat).bind (fun n q => (q.spillEntries c w a.toNat n 0).bind (fun r q =>
      .ok (Assoc.vals cl.entries ++ r) q))

/-- HDRAIN: one event at the claim, which follows what keyed operations follow (R275); a cause leaves the table, and what was written is
undefined. -/
def execHdrain (d a b : BitVec 8) (s : State) : Host.Outcome State Fault Refusal :=
  issue (.hdrain d a b) .none s (fun s c w =>
    let id := (w.rd b 0).toNat
    let base := w.rdPair a 0
    match s.claim? w id with
    | none => s.raiseWhole c 0x2D 2
    | some cl =>
      match s.settleFor (w.keyedAccess c) with
      | none => s
      | some s0 =>
      match s0.claimEntries c w cl with
      | .cause k sub v q => q.raiseAt c k sub v
      | .denied t v q => (q.logRun c w true [(v / 128 * 128, t, 0)]).raiseAt c 0x28 0 v
      | .wait q => s.waitIn q
      | .ok es q =>
        let bs := es.flatMap (fun e => bytesOfNat 8 e.1.toNat ++ bytesOfNat 8 e.2.toNat)
        let k := 2 * es.length
        match q.formBlock c w base 16 8 k false true with
        | [] =>
          match q.writeLanes c w 8 (unitAddrs base.toNat 8 k) (fun j => sliceBytes bs (8 * j) 8) with
          | .hold q2 => q2
          | .bad causes good q2 => (q2.undefineBytes 8 good).raiseOnce c causes
          | .done q2 =>
            let done := fun (s : State) =>
              ((s.updClaim w id (fun x => { x with entries := [] })).updWarp c.w (fun w =>
                { (w.wr d 0 (BitVec.ofNat 32 es.length)) with seq := w.seq + 1 })).retire c
            match cl.spill with
            | none => done q2
            | some sp =>
              match q2.spillWrite c w sp.toNat (zeros 4) with
              | .ok _ q3 => done q3
              | .cause x sub v q3 => q3.raiseAt c x sub v
              | .denied _ v q3 => q3.raiseAt c 0x28 0 v
              | .wait q4 => s.waitIn q4
        | xs => q.raiseOnce c xs)

end Sys2Proof.Machine
end

