-- ==== Sys2Proof/Machine/Integer.lean ====
section
/-!
DEFINITION. Integer, logical, compare and move instructions (R87 to R104), and MOVI20 and MOVF20 (R65). LDC stands with the
memory instructions.
-/
namespace Sys2Proof.Machine

/-! ## Forms -/

/-- `d, a, b` on words. -/
def bin (i : Instr) (pf : Option Prefix) (d a b : Code) (s : State) (op : Word → Word → Word) :
    Host.Outcome State Fault Refusal :=
  runWord i pf (onceR d [a, b]) d s (fun w l => .ok (op (w.rd a l) (w.rd b l)) 0)

/-- `d, a` on words. -/
def una (i : Instr) (pf : Option Prefix) (d a : Code) (s : State) (op : Word → Word) :
    Host.Outcome State Fault Refusal :=
  runWord i pf (onceR d [a]) d s (fun w l => .ok (op (w.rd a l)) 0)

/-- A division, 0x10 for a zero divisor (R92). -/
def dvd (i : Instr) (pf : Option Prefix) (d a b : Code) (s : State) (op : Word → Word → Word) :
    Host.Outcome State Fault Refusal :=
  runWord i pf (onceR d [a, b]) d s (fun w l =>
    if w.rd b l = 0 then .bad 1 0x10 0 0 else .ok (op (w.rd a l) (w.rd b l)) 0)

/-- A compare (R96). -/
def cmp (i : Instr) (pf : Option Prefix) (d a b : Code) (s : State) (rel : Word → Word → Bool) :
    Host.Outcome State Fault Refusal :=
  runBit i pf d s (fun w l => .ok (rel (w.rd a l) (w.rd b l)) 0)

/-- `d, imm` with d as source (R102). -/
def imm (i : Instr) (pf : Option Prefix) (d : Code) (s : State) (op : Word → Word) : Host.Outcome State Fault Refusal :=
  runWord i pf (onceR d []) d s (fun w l => .ok (op (w.rd d l)) 0)

/-! ## Operations on words -/

/-- Clamp an integer to the signed 32-bit range (R90). -/
def clampS (x : Int) : Word :=
  if x < -2147483648 then 0x80000000 else if 2147483647 < x then 0x7FFFFFFF else BitVec.ofInt 32 x

/-- ADDS. -/
def addS (a b : Word) : Word := clampS (a.toInt + b.toInt)
/-- SUBS. -/
def subS (a b : Word) : Word := clampS (a.toInt - b.toInt)
/-- MULHI.S. -/
def mulhiS (a b : Word) : Word := ((a.signExtend 64 * b.signExtend 64) >>> 32).setWidth 32
/-- MULHI.U. -/
def mulhiU (a b : Word) : Word := ((a.setWidth 64 * b.setWidth 64) >>> 32).setWidth 32
/-- MIN.S. -/
def minS (a b : Word) : Word := if a.slt b then a else b
/-- MIN.U. -/
def minU (a b : Word) : Word := if a.ult b then a else b
/-- MAX.S. -/
def maxS (a b : Word) : Word := if a.slt b then b else a
/-- MAX.U. -/
def maxU (a b : Word) : Word := if a.ult b then b else a
/-- ABS. -/
def absW (a : Word) : Word := if a.msb then 0 - a else a
/-- The shift count b[7:0]. -/
def shiftCount (b : Word) : Nat := (b.extractLsb' 0 8).toNat
/-- SHL. -/
def shlW (a b : Word) : Word := if 32 ≤ shiftCount b then 0 else a <<< shiftCount b
/-- SHR. -/
def shrW (a b : Word) : Word := if 32 ≤ shiftCount b then 0 else a >>> shiftCount b
/-- SAR. -/
def sarW (a b : Word) : Word := a.sshiftRight (Nat.min (shiftCount b) 31)
/-- ROL. -/
def rolW (a b : Word) : Word := a.rotateLeft (b.extractLsb' 0 5).toNat
/-- The number of one bits. -/
def popcount (a : Word) : Nat := (allLanes.filter (fun i => a.getLsbD i)).length
/-- The bits in reverse order. -/
def reverseBits (a : Word) : Word := BitVec.ofNat 32 (natOf (allLanes.map (fun i => a.getLsbD (31 - i))))
where
  /-- The number of these bits, least significant first. -/
  natOf : List Bool → Nat
    | [] => 0
    | b :: r => (if b then 1 else 0) + 2 * natOf r
/-- Trailing zero bits; 32 for zero. -/
def trailing (a : Word) : Nat := (allLanes.find? (fun i => a.getLsbD i)).getD 32
/-- Leading zero bits; 32 for zero. -/
def leading (a : Word) : Nat := (allLanes.find? (fun i => a.getLsbD (31 - i))).getD 32

/-- FSHL (R94). -/
def fshlW (lo hi : Word) (n : Nat) : Word := if n = 0 then hi else (hi <<< n) ||| (lo >>> (32 - n))

/-- pos of a field control (R93). -/
def fieldPos (b : Word) : Nat := (b.extractLsb' 0 5).toNat
/-- w of a field control (R93). -/
def fieldWidth (b : Word) : Nat := Nat.min (b.extractLsb' 8 6).toNat (32 - fieldPos b)
/-- 2^w - 1. -/
def lowOnes (w : Nat) : Word := BitVec.ofNat 32 (2 ^ w - 1)
/-- BFX.U. -/
def bfxUW (a b : Word) : Word := (a >>> fieldPos b) &&& lowOnes (fieldWidth b)
/-- BFX.S. -/
def bfxSW (a b : Word) : Word :=
  let n := fieldWidth b
  let x := bfxUW a b
  if n ≠ 0 ∧ x.getLsbD (n - 1) then x ||| ~~~(lowOnes n) else x
/-- BFI. -/
def bfiW (base ins b : Word) : Word :=
  let m := lowOnes (fieldWidth b) <<< fieldPos b
  (base &&& ~~~m) ||| ((ins <<< fieldPos b) &&& m)

/-- Byte `j` of a word. -/
def byteOf (a : Word) (j : Nat) : Word := (a >>> (8 * j)) &&& 0xFF
/-- Byte `j` of a PERMB (R95). -/
def permByte (a b : Word) (j : Nat) : Word :=
  let s := ((b >>> (4 * j)) &&& 0xF).toNat
  if 8 ≤ s then 0
  else if s < 4 then byteOf a s
  else if (byteOf a (s - 4)).getLsbD 7 then 0xFF else 0
/-- PERMB. -/
def permbW (a b : Word) : Word :=
  permByte a b 0 ||| (permByte a b 1 <<< 8) ||| (permByte a b 2 <<< 16) ||| (permByte a b 3 <<< 24)

/-- CVTI (R100). -/
def cvtiW (a b : Word) : Word :=
  let n := if (b.extractLsb' 0 2).toNat = 0 then 8 else if (b.extractLsb' 0 2).toNat = 1 then 16 else 32
  let x : Int := if b.getLsbD 3 then a.toInt else (a.toNat : Int)
  let lo : Int := if b.getLsbD 2 then -(2 ^ (n - 1)) else 0
  let hi : Int := if b.getLsbD 2 then 2 ^ (n - 1) - 1 else 2 ^ n - 1
  BitVec.ofInt 32 (if x < lo then lo else if hi < x then hi else x)

/-! ## Arithmetic and logic (R90) -/

def execAdd (pf : Option Prefix) (d a b : BitVec 8) (s : State) : Host.Outcome State Fault Refusal :=
  bin (.add pf d a b) pf d a b s (fun x y => x + y)
def execSub (pf : Option Prefix) (d a b : BitVec 8) (s : State) : Host.Outcome State Fault Refusal :=
  bin (.sub pf d a b) pf d a b s (fun x y => x - y)
def execAdds (pf : Option Prefix) (d a b : BitVec 8) (s : State) : Host.Outcome State Fault Refusal :=
  bin (.adds pf d a b) pf d a b s addS
def execSubs (pf : Option Prefix) (d a b : BitVec 8) (s : State) : Host.Outcome State Fault Refusal :=
  bin (.subs pf d a b) pf d a b s subS
def execMullo (pf : Option Prefix) (d a b : BitVec 8) (s : State) : Host.Outcome State Fault Refusal :=
  bin (.mullo pf d a b) pf d a b s (fun x y => x * y)
def execMulhiS (pf : Option Prefix) (d a b : BitVec 8) (s : State) : Host.Outcome State Fault Refusal :=
  bin (.mulhiS pf d a b) pf d a b s mulhiS
def execMulhiU (pf : Option Prefix) (d a b : BitVec 8) (s : State) : Host.Outcome State Fault Refusal :=
  bin (.mulhiU pf d a b) pf d a b s mulhiU
def execMinS (pf : Option Prefix) (d a b : BitVec 8) (s : State) : Host.Outcome State Fault Refusal :=
  bin (.minS pf d a b) pf d a b s minS
def execMinU (pf : Option Prefix) (d a b : BitVec 8) (s : State) : Host.Outcome State Fault Refusal :=
  bin (.minU pf d a b) pf d a b s minU
def execMaxS (pf : Option Prefix) (d a b : BitVec 8) (s : State) : Host.Outcome State Fault Refusal :=
  bin (.maxS pf d a b) pf d a b s maxS
def execMaxU (pf : Option Prefix) (d a b : BitVec 8) (s : State) : Host.Outcome State Fault Refusal :=
  bin (.maxU pf d a b) pf d a b s maxU
def execAbs (pf : Option Prefix) (d a : BitVec 8) (s : State) : Host.Outcome State Fault Refusal :=
  una (.abs pf d a) pf d a s absW
def execNeg (pf : Option Prefix) (d a : BitVec 8) (s : State) : Host.Outcome State Fault Refusal :=
  una (.neg pf d a) pf d a s (fun x => 0 - x)
def execAnd (pf : Option Prefix) (d a b : BitVec 8) (s : State) : Host.Outcome State Fault Refusal :=
  bin (.and pf d a b) pf d a b s (fun x y => x &&& y)
def execOr (pf : Option Prefix) (d a b : BitVec 8) (s : State) : Host.Outcome State Fault Refusal :=
  bin (.or pf d a b) pf d a b s (fun x y => x ||| y)
def execXor (pf : Option Prefix) (d a b : BitVec 8) (s : State) : Host.Outcome State Fault Refusal :=
  bin (.xor pf d a b) pf d a b s (fun x y => x ^^^ y)
def execAndn (pf : Option Prefix) (d a b : BitVec 8) (s : State) : Host.Outcome State Fault Refusal :=
  bin (.andn pf d a b) pf d a b s (fun x y => x &&& ~~~y)
def execShl (pf : Option Prefix) (d a b : BitVec 8) (s : State) : Host.Outcome State Fault Refusal :=
  bin (.shl pf d a b) pf d a b s shlW
def execShr (pf : Option Prefix) (d a b : BitVec 8) (s : State) : Host.Outcome State Fault Refusal :=
  bin (.shr pf d a b) pf d a b s shrW
def execSar (pf : Option Prefix) (d a b : BitVec 8) (s : State) : Host.Outcome State Fault Refusal :=
  bin (.sar pf d a b) pf d a b s sarW
def execRol (pf : Option Prefix) (d a b : BitVec 8) (s : State) : Host.Outcome State Fault Refusal :=
  bin (.rol pf d a b) pf d a b s rolW
def execClz (pf : Option Prefix) (d a : BitVec 8) (s : State) : Host.Outcome State Fault Refusal :=
  una (.clz pf d a) pf d a s (fun x => BitVec.ofNat 32 (leading x))
def execCtz (pf : Option Prefix) (d a : BitVec 8) (s : State) : Host.Outcome State Fault Refusal :=
  una (.ctz pf d a) pf d a s (fun x => BitVec.ofNat 32 (trailing x))
def execPopc (pf : Option Prefix) (d a : BitVec 8) (s : State) : Host.Outcome State Fault Refusal :=
  una (.popc pf d a) pf d a s (fun x => BitVec.ofNat 32 (popcount x))
def execBrev (pf : Option Prefix) (d a : BitVec 8) (s : State) : Host.Outcome State Fault Refusal :=
  una (.brev pf d a) pf d a s reverseBits
def execMov (pf : Option Prefix) (d a : BitVec 8) (s : State) : Host.Outcome State Fault Refusal :=
  una (.mov pf d a) pf d a s (fun x => x)

/-! ## Multiply-add (R91) -/

/-- MAD. -/
def execMad (pf : Option Prefix) (d a b : BitVec 8) (s : State) : Host.Outcome State Fault Refusal :=
  runWord (.mad pf d a b) pf (onceR d [srcD pf d, a, b]) d s
    (fun w l => .ok (w.rd a l * w.rd b l + w.rd (srcD pf d) l) 0)
/-- MADW.U. -/
def execMadwU (pf : Option Prefix) (d a b : BitVec 8) (s : State) : Host.Outcome State Fault Refusal :=
  runPair (.madwU pf d a b) pf (onceR d [srcD pf d, a, b]) d s
    (fun w l => .ok (w.rdPair (srcD pf d) l + (w.rd a l).setWidth 64 * (w.rd b l).setWidth 64) 0)
/-- MADW.S. -/
def execMadwS (pf : Option Prefix) (d a b : BitVec 8) (s : State) : Host.Outcome State Fault Refusal :=
  runPair (.madwS pf d a b) pf (onceR d [srcD pf d, a, b]) d s
    (fun w l => .ok (w.rdPair (srcD pf d) l + (w.rd a l).signExtend 64 * (w.rd b l).signExtend 64) 0)

/-! ## Division (R92) -/

def execDivS (pf : Option Prefix) (d a b : BitVec 8) (s : State) : Host.Outcome State Fault Refusal :=
  dvd (.divS pf d a b) pf d a b s (fun x y => BitVec.ofInt 32 (Int.tdiv x.toInt y.toInt))
def execDivU (pf : Option Prefix) (d a b : BitVec 8) (s : State) : Host.Outcome State Fault Refusal :=
  dvd (.divU pf d a b) pf d a b s (fun x y => x / y)
def execRemS (pf : Option Prefix) (d a b : BitVec 8) (s : State) : Host.Outcome State Fault Refusal :=
  dvd (.remS pf d a b) pf d a b s (fun x y => BitVec.ofInt 32 (Int.tmod x.toInt y.toInt))
def execRemU (pf : Option Prefix) (d a b : BitVec 8) (s : State) : Host.Outcome State Fault Refusal :=
  dvd (.remU pf d a b) pf d a b s (fun x y => x % y)

/-! ## Fields, funnels and bytes (R93 to R95) -/

def execFshl (pf : Option Prefix) (d a b : BitVec 8) (s : State) : Host.Outcome State Fault Refusal :=
  runWord (.fshl pf d a b) pf (onceR d [a, b]) d s
    (fun w l => .ok (fshlW (w.rd a l) (w.rd (nextCode a 1) l) ((w.rd b l).extractLsb' 0 5).toNat) 0)
def execBfxU (pf : Option Prefix) (d a b : BitVec 8) (s : State) : Host.Outcome State Fault Refusal :=
  bin (.bfxU pf d a b) pf d a b s bfxUW
def execBfxS (pf : Option Prefix) (d a b : BitVec 8) (s : State) : Host.Outcome State Fault Refusal :=
  bin (.bfxS pf d a b) pf d a b s bfxSW
def execBfi (pf : Option Prefix) (d a b : BitVec 8) (s : State) : Host.Outcome State Fault Refusal :=
  runWord (.bfi pf d a b) pf (onceR d [a, b]) d s
    (fun w l => .ok (bfiW (w.rd a l) (w.rd (nextCode a 1) l) (w.rd b l)) 0)
def execPermb (pf : Option Prefix) (d a b : BitVec 8) (s : State) : Host.Outcome State Fault Refusal :=
  bin (.permb pf d a b) pf d a b s permbW

/-! ## Compares and selection (R96, R97) -/

def execCmpEq (pf : Option Prefix) (d a b : BitVec 8) (s : State) : Host.Outcome State Fault Refusal :=
  cmp (.cmpEq pf d a b) pf d a b s (fun x y => x == y)
def execCmpNe (pf : Option Prefix) (d a b : BitVec 8) (s : State) : Host.Outcome State Fault Refusal :=
  cmp (.cmpNe pf d a b) pf d a b s (fun x y => x != y)
def execCmpLtS (pf : Option Prefix) (d a b : BitVec 8) (s : State) : Host.Outcome State Fault Refusal :=
  cmp (.cmpLtS pf d a b) pf d a b s (fun x y => x.slt y)
def execCmpLeS (pf : Option Prefix) (d a b : BitVec 8) (s : State) : Host.Outcome State Fault Refusal :=
  cmp (.cmpLeS pf d a b) pf d a b s (fun x y => x.sle y)
def execCmpLtU (pf : Option Prefix) (d a b : BitVec 8) (s : State) : Host.Outcome State Fault Refusal :=
  cmp (.cmpLtU pf d a b) pf d a b s (fun x y => x.ult y)
def execCmpLeU (pf : Option Prefix) (d a b : BitVec 8) (s : State) : Host.Outcome State Fault Refusal :=
  cmp (.cmpLeU pf d a b) pf d a b s (fun x y => x.ule y)

/-- SEL: every lane of the path writes, a where its guard bit is 1, else b (R97). -/
def execSel (pf : Option Prefix) (d a b : BitVec 8) (s : State) : Host.Outcome State Fault Refusal :=
  issue (.sel pf d a b) .none s (fun s c w =>
    let g := w.guardOf pf
    s.finishLanes c (w.laneRun (operandsOf (.sel pf d a b)) Mask.full false c.lanes.lanes
      (fun l => .ok (if g.getLsbD l then w.rd a l else w.rd b l) 0) (putWord d) 0))

/-! ## Moves, special registers and MODE (R98 to R100) -/

/-- The value of a 32-bit special register in a lane (R25). -/
def State.special (s : State) (c : Cur) (w : Warp) (sel : BitVec 8) (lane : Nat) : Word :=
  let q := w.path c.p
  let t := s.team? w.team
  let core := coreOfKey c.w
  match sel.toNat with
  | 0x00 => BitVec.ofNat 32 lane
  | 0x01 => BitVec.ofNat 32 w.warpId
  | 0x02 => BitVec.ofNat 32 ((t.map Team.x).getD 0)
  | 0x03 => BitVec.ofNat 32 ((t.map Team.y).getD 0)
  | 0x04 => BitVec.ofNat 32 ((t.map Team.z).getD 0)
  | 0x05 => BitVec.ofNat 32 w.wg
  | 0x06 => BitVec.ofNat 32 (s.headerField w Launch.wgWarps)
  | 0x07 => BitVec.ofNat 32 ((s.headerField w Launch.gridZ - 1) * 2 ^ 24 + (s.headerField w Launch.gridY - 1) * 2 ^ 16 +
              (s.headerField w Launch.gridX - 1))
  | 0x08 => BitVec.ofNat 32 core
  | 0x09 => BitVec.ofNat 32 (core / 2)
  | 0x0A => BitVec.ofNat 32 (dieOfCore core)
  | 0x0B => BitVec.ofNat 32 s.device
  | 0x0D => (Assoc.get w.fpflags 0 lane).setWidth 32
  | 0x0E => q.mask
  | 0x0F => ((q.stack[0]?).map LoopEntry.count).getD 0
  | 0x10 => ((q.stack[1]?).map LoopEntry.count).getD 0
  | 0x11 => ((q.stack[2]?).map LoopEntry.count).getD 0
  | 0x12 => ((q.stack[3]?).map LoopEntry.count).getD 0
  | 0x13 => BitVec.ofNat 32 w.asid
  | 0x14 => BitVec.ofNat 32 w.principal
  | _ => 0

/-- MOVSR (R98). -/
def execMovsr (pf : Option Prefix) (d sel : BitVec 8) (s : State) : Host.Outcome State Fault Refusal :=
  if sel = 0x0C then runPair (.movsr pf d sel) pf (onceR d []) d s (fun _ _ => .ok s.clock 0)
  else
    match s.cur with
    | none => .fault .noIssuingPath
    | some c => runWord (.movsr pf d sel) pf (onceR d []) d s (fun w l => .ok (s.special c w sel l) 0)

/-- A value MODE may hold (R22). -/
def modeOk (m : BitVec 16) : Bool :=
  decide ((m.extractLsb' 0 4).toNat ≤ 2) && decide ((m.extractLsb' 4 3).toNat ≤ 3) && m.extractLsb' 14 2 == 0

/-- SETMODE (R99, R22). -/
def execSetmode (i : BitVec 16) (s : State) : Host.Outcome State Fault Refusal :=
  issue (.setmode i) .none s (fun s c w =>
    if modeOk i then
      let m := if w.supervisor then i else (i &&& ~~~0x2000#16) ||| (w.mode &&& 0x2000#16)
      s.retireWith c (fun w => { w with mode := m })
    else s.raiseWhole c 0x0C 0)

/-- CVTI (R100). -/
def execCvti (pf : Option Prefix) (d a b : BitVec 8) (s : State) : Host.Outcome State Fault Refusal :=
  bin (.cvti pf d a b) pf d a b s cvtiW

/-! ## Pairs (R101) -/

/-- LEA by a power of two. -/
def lea (i : Instr) (k : DWord) (pf : Option Prefix) (d a b : Code) (s : State) : Host.Outcome State Fault Refusal :=
  runPair i pf (onceR d [a, b]) d s (fun w l => .ok (w.rdPair a l + k * (w.rd b l).setWidth 64) 0)

def execLea1 (pf : Option Prefix) (d a b : BitVec 8) (s : State) : Host.Outcome State Fault Refusal :=
  lea (.lea1 pf d a b) 1 pf d a b s
def execLea4 (pf : Option Prefix) (d a b : BitVec 8) (s : State) : Host.Outcome State Fault Refusal :=
  lea (.lea4 pf d a b) 4 pf d a b s
def execLea8 (pf : Option Prefix) (d a b : BitVec 8) (s : State) : Host.Outcome State Fault Refusal :=
  lea (.lea8 pf d a b) 8 pf d a b s
def execLea16 (pf : Option Prefix) (d a b : BitVec 8) (s : State) : Host.Outcome State Fault Refusal :=
  lea (.lea16 pf d a b) 16 pf d a b s
def execAdd64 (pf : Option Prefix) (d a b : BitVec 8) (s : State) : Host.Outcome State Fault Refusal :=
  runPair (.add64 pf d a b) pf (onceR d [a, b]) d s (fun w l => .ok (w.rdPair a l + w.rdPair b l) 0)
def execSub64 (pf : Option Prefix) (d a b : BitVec 8) (s : State) : Host.Outcome State Fault Refusal :=
  runPair (.sub64 pf d a b) pf (onceR d [a, b]) d s (fun w l => .ok (w.rdPair a l - w.rdPair b l) 0)

/-! ## Sixteen-bit immediates (R102) -/

def execAddi16 (pf : Option Prefix) (d : BitVec 8) (i : BitVec 16) (s : State) : Host.Outcome State Fault Refusal :=
  imm (.addi16 pf d i) pf d s (fun x => x + i.signExtend 32)
def execAndi16 (pf : Option Prefix) (d : BitVec 8) (i : BitVec 16) (s : State) : Host.Outcome State Fault Refusal :=
  imm (.andi16 pf d i) pf d s (fun x => x &&& i.setWidth 32)
def execOri16 (pf : Option Prefix) (d : BitVec 8) (i : BitVec 16) (s : State) : Host.Outcome State Fault Refusal :=
  imm (.ori16 pf d i) pf d s (fun x => x ||| i.setWidth 32)
def execXori16 (pf : Option Prefix) (d : BitVec 8) (i : BitVec 16) (s : State) : Host.Outcome State Fault Refusal :=
  imm (.xori16 pf d i) pf d s (fun x => x ^^^ i.setWidth 32)
def execShli (pf : Option Prefix) (d : BitVec 8) (n : BitVec 5) (s : State) : Host.Outcome State Fault Refusal :=
  imm (.shli pf d n) pf d s (fun x => x <<< n.toNat)
def execShri (pf : Option Prefix) (d : BitVec 8) (n : BitVec 5) (s : State) : Host.Outcome State Fault Refusal :=
  imm (.shri pf d n) pf d s (fun x => x >>> n.toNat)
def execSari (pf : Option Prefix) (d : BitVec 8) (n : BitVec 5) (s : State) : Host.Outcome State Fault Refusal :=
  imm (.sari pf d n) pf d s (fun x => x.sshiftRight n.toNat)
def execMovhi16 (pf : Option Prefix) (d : BitVec 8) (i : BitVec 16) (s : State) : Host.Outcome State Fault Refusal :=
  imm (.movhi16 pf d i) pf d s (fun x => (i.setWidth 32 <<< 16) ||| (x &&& 0xFFFF))

/-! ## Literal forms (R104) -/

/-- `d, a, literal` on words. -/
def lit2 (i : Instr) (pf : Option Prefix) (d a : Code) (s : State) (op : Word → Word) :
    Host.Outcome State Fault Refusal :=
  runWord i pf (onceR d [a]) d s (fun w l => .ok (op (w.rd a l)) 0)

def execAddL (pf : Option Prefix) (d a : BitVec 8) (lit : BitVec 32) (s : State) : Host.Outcome State Fault Refusal :=
  lit2 (.addL pf d a lit) pf d a s (fun x => x + lit)
def execAndL (pf : Option Prefix) (d a : BitVec 8) (lit : BitVec 32) (s : State) : Host.Outcome State Fault Refusal :=
  lit2 (.andL pf d a lit) pf d a s (fun x => x &&& lit)
def execOrL (pf : Option Prefix) (d a : BitVec 8) (lit : BitVec 32) (s : State) : Host.Outcome State Fault Refusal :=
  lit2 (.orL pf d a lit) pf d a s (fun x => x ||| lit)
def execXorL (pf : Option Prefix) (d a : BitVec 8) (lit : BitVec 32) (s : State) : Host.Outcome State Fault Refusal :=
  lit2 (.xorL pf d a lit) pf d a s (fun x => x ^^^ lit)
def execMovL (pf : Option Prefix) (d : BitVec 8) (lit : BitVec 32) (s : State) : Host.Outcome State Fault Refusal :=
  runWord (.movL pf d lit) pf (onceR d []) d s (fun _ _ => .ok lit 0)
def execMulloL (pf : Option Prefix) (d a : BitVec 8) (lit : BitVec 32) (s : State) : Host.Outcome State Fault Refusal :=
  lit2 (.mulloL pf d a lit) pf d a s (fun x => x * lit)
def execCmpEqL (pf : Option Prefix) (d a : BitVec 8) (lit : BitVec 32) (s : State) : Host.Outcome State Fault Refusal :=
  runBit (.cmpEqL pf d a lit) pf d s (fun w l => .ok (w.rd a l == lit) 0)
def execCmpLtSL (pf : Option Prefix) (d a : BitVec 8) (lit : BitVec 32) (s : State) :
    Host.Outcome State Fault Refusal :=
  runBit (.cmpLtSL pf d a lit) pf d s (fun w l => .ok ((w.rd a l).slt lit) 0)

/-! ## MOVI20 and MOVF20 (R65) -/

def execMovi20 (pf : Option Prefix) (d : BitVec 8) (i : BitVec 20) (s : State) : Host.Outcome State Fault Refusal :=
  runWord (.movi20 pf d i) pf (onceR d []) d s (fun _ _ => .ok (i.signExtend 32) 0)
def execMovf20 (pf : Option Prefix) (d : BitVec 8) (i : BitVec 20) (s : State) : Host.Outcome State Fault Refusal :=
  runWord (.movf20 pf d i) pf (onceR d []) d s (fun _ _ => .ok (i.setWidth 32 <<< 12) 0)

end Sys2Proof.Machine
end

