-- ==== Sys2Proof/Machine/Larkspur.lean ====
section
/-!
DEFINITION. The Larkspur index (R317 to R333): KIDX and QSIG, signatures, chains and the pool, KSTORE and BGATHER with the
engine's steps.
-/
namespace Sys2Proof.Machine

/-! ## The descriptor (R318, R319) -/

/-- Key dimension. -/
def Index.dim (x : Index) : Nat := 64 * 2 ^ x.dcode
/-- Bytes of an element: FP32, FP16 or BF16. -/
def Index.size (x : Index) : Nat := if x.elem = 0 then 4 else 2
/-- Row size. -/
def Index.row (x : Index) : Nat := x.dim * x.size
/-- Key and value rows of a token. -/
def Index.keyRow (x : Index) (t : Nat) : Nat := x.kbase.toNat + t * x.stride
def Index.valueRow (x : Index) (t : Nat) : Nat := x.vbase.toNat + t * x.stride
/-- The head line of a bucket. -/
def Index.head (x : Index) (sig : Nat) : Nat := x.buckets.toNat + 128 * sig
/-- An extension line of the pool; line 0 is the pool header. -/
def Index.poolLine (x : Index) (i : Nat) : Nat := x.pool.toNat + 128 * i

/-- The fields of a descriptor. -/
def indexOf (bs : List Byte) : Index :=
  let q := fun (o : Nat) => BitVec.ofNat 64 (fieldOf bs o 8)
  { seed := q 0, buckets := q 8, pool := q 0x10, kbase := q 0x18, vbase := q 0x20, stride := fieldOf bs 0x28 4
    limit := fieldOf bs 0x2C 4, bits := fieldOf bs 0x30 1, dcode := fieldOf bs 0x31 1, elem := fieldOf bs 0x32 1 }

/-- An address off its alignment, or with a bit of [63:56] set. -/
def addressBad (x : DWord) (align : Nat) : Bool := decide (x.toNat % align ≠ 0) || decide (2 ^ 56 ≤ x.toNat)

/-- The first condition that a descriptor fails: code and subcause. -/
def indexBad (bs : List Byte) : Option (Nat × Nat) :=
  let x := indexOf bs
  let fields : List (Nat × Bool) :=
    [(0x08, addressBad x.buckets 128), (0x10, addressBad x.pool 128), (0x18, addressBad x.kbase 64),
     (0x20, addressBad x.vbase 64), (0x28, x.stride % 64 != 0), (0x2C, x.limit == 0),
     (0x30, decide (x.bits < 4) || decide (16 < x.bits)), (0x31, decide (2 < x.dcode)), (0x32, decide (2 < x.elem))] ++
    (numsFrom 0x33 13).map (fun o => (o, fieldOf bs o 1 != 0))
  match fields.find? (fun f => f.2) with
  | some f => some (0x1D, f.1)
  | none => if x.stride < x.row then some (0x4A, 0) else none

/-- KIDX (R319): 64 bytes read as weak 8-byte loads. -/
def execKidx (n a : BitVec 8) (s : State) : Host.Outcome State Fault Refusal :=
  issue (.kidx n a) .none s (fun s c w =>
    if a = 0xFF then s.retireWith c (fun w => { w with index := Assoc.erase w.index n.toNat })
    else
      let base := w.rdPair a 0
      match s.formBlock c w base 64 8 8 true false with
      | f :: r => s.raiseOnce c (f :: r)
      | [] => match s.readLanes c w true 8 (unitAddrs base.toNat 8 8) with
        | .hold q => q
        | .done vals causes q => match causes with
          | f :: r => q.raiseOnce c (f :: r)
          | [] =>
            let bs := blockBytes vals 8
            match indexBad bs with
            | some (code, sub) => q.raiseWhole c code sub
            | none => q.retireWith c (fun w => { w with index := Assoc.put w.index n.toNat (indexOf bs) }))

/-! ## Signatures (R320, R321) -/

/-- The mixing function of the generator. -/
def mixWord (z : DWord) : DWord :=
  let z := (z ^^^ (z >>> 30)) * 0xBF58476D1CE4E5B9#64
  let z := (z ^^^ (z >>> 27)) * 0x94D049BB133111EB#64
  z ^^^ (z >>> 31)

/-- Word n of the projection. -/
def projWord (seed : DWord) (n : Nat) : DWord := mixWord (seed + BitVec.ofNat 64 (n + 1) * 0x9E3779B97F4A7C15#64)

/-- The sign of signature bit j at element i is minus. -/
def projMinus (x : Index) (j i : Nat) : Bool := (projWord x.seed (j * (x.dim / 64) + i / 64)).getLsbD (i % 64)

/-- An element widened to FP32. -/
def widenKey (elem bits : Nat) : Nat :=
  match elem with
  | 0 => bits
  | 1 => (FpFmt.fp16.convert .fp32 0 bits).1
  | _ => bits * 65536

/-- An FP32 pattern with its sign inverted. -/
def flipSign (x : Nat) : Nat := if x < 2 ^ 31 then x + 2 ^ 31 else x - 2 ^ 31

/-- Signature bit j of the widened elements. -/
def signatureBit (x : Index) (j : Nat) (ks : List Nat) : Bool :=
  let ts := ((numsFrom 0 ks.length).zip ks).map (fun e => if projMinus x j e.1 then flipSign e.2 else e.2)
  match ts with
  | [] => false
  | t :: r =>
    let acc := r.foldl (fun a t => (FpFmt.fp32.add 0 a t).1) t
    let v := FpFmt.fp32.unpack acc
    v.isNan || v.isZero || !v.neg

/-- The signature of a vector's bytes. -/
def signature (x : Index) (bs : List Byte) : Nat :=
  let ks := (numsFrom 0 x.dim).map (fun i => widenKey x.elem (fieldOf bs (i * x.size) x.size))
  (numsFrom 0 x.bits).foldl (fun n j => if signatureBit x j ks then n + 2 ^ j else n) 0

/-! ## QSIG (R322) -/

/-- The check of a range of scratchpad by R139, with an alignment: the row of the check that fails, and its cause. -/
def State.rangeRow (s : State) (w : Warp) (off n align : Nat) : Option (Nat × Nat) :=
  if off % align ≠ 0 then some (rowForm, 0x21)
  else if 2 ^ 31 ≤ off ∧ s.twoGroups w = false then some (rowForm3, 0x4D)
  else if s.headerField w Launch.scratch < off % 2 ^ 31 + n then some (rowForm4, 0x22)
  else none

/-- The cause of a range. -/
def State.rangeBad (s : State) (w : Warp) (off n align : Nat) : Option Nat := (s.rangeRow w off n align).map (fun r => r.2)

/-- The read of a vector as an access of the path. -/
def State.vectorRead (s : State) (c : Cur) (w : Warp) (off n : Nat) : Access :=
  let h := (s.scratchLook w true n { lane := 0, va := off }).2
  let place : Place := .scratch w.team (if 2 ^ 31 ≤ off then 1 - w.wg else w.wg)
  let hit : Hit := match h with
    | .go x => x
    | _ => { place := place, off := off % 2 ^ 31, pa := 0, tag := 0, w := true, x := false, home := 0, remote := none }
  w.unit c.w c.p 0 .load hit [{ lane := 0, va := 0, voff := 0, off := hit.off, size := n, data := [] }] n 0

/-- A lane's signature. -/
def State.signLane (s : State) (c : Cur) (w : Warp) (x : Index) (off : Nat) : Res Word :=
  match s.rangeRow w off x.row x.size with
  | some r => .bad r.1 r.2 0 (BitVec.ofNat 64 off)
  | none =>
    let y := s.vectorRead c w off x.row
    if s.badAt y.place (off % 2 ^ 31) x.row then .bad rowError 0x39 0 (BitVec.ofNat 64 off)
    else .ok (BitVec.ofNat 32 (signature x (s.readUnit y (off % 2 ^ 31) x.row))) 0

/-- An access of another agent, or an engine, still holds the bytes of a lane's vector (R240, R248). -/
def State.vectorHeld (s : State) (c : Cur) (w : Warp) (x : Index) (off : Nat) : Bool :=
  (s.rangeRow w off x.row x.size).isNone && s.blocked 0 (s.vectorRead c w off x.row)

/-- A configured index slot. -/
def Warp.slotOf (w : Warp) (n : Nat) : Option Index := if 3 < n then none else Assoc.at? w.index n

/-- QSIG (R322): the vectors follow every earlier access of the path, and it waits while one of them is held. -/
def execQsig (d a b : BitVec 8) (s : State) : Host.Outcome State Fault Refusal :=
  issue (.qsig d a b) .none s (fun s c w =>
    match w.slotOf (w.rd b 0).toNat with
    | none => s.raiseWhole c 0x1D 0x40
    | some x =>
      let once := onceR d [a]
      match s.settle (fun _ y => (w.path c.p).follows c.w y) with
      | none => s
      | some s1 =>
        let w1 := (s1.warp? c.w).getD w
        let f := fun (l : Nat) => s1.signLane c w1 x (w1.rd a l).toNat
        if (w1.onLanes none once c).any (fun l => s1.vectorHeld c w1 x (w1.rd a l).toNat) then s
        else if once then
          match f 0 with
          | .ok v _ => s1.retireWith c (fun w => w.wr d 0 v)
          | .bad _ code sub va => s1.raiseAt c code sub va.toNat
        else s1.finishLanes c (w1.laneRun (operandsOf (.qsig d a b)) (w1.guardOf none) (w1.zeroPolicy none) c.lanes.lanes f
          (putWord d) 0))

/-! ## Issue of KSTORE and BGATHER (R325, R328) -/

/-- The rows that a KSTORE writes. -/
def storeSpans (x : Index) (t0 n : Nat) (val : Bool) : List Span :=
  (numsFrom t0 n).flatMap (fun t =>
    let row := fun (a : Nat) => ({ scr := false, addr := a, size := x.row, align := 1 } : Span)
    row (x.keyRow t) :: if val then [row (x.valueRow t)] else [])

/-- KSTORE (R325). -/
def execKstore (d a b n tok bar : BitVec 8) (strict val : BitVec 1) (slot : BitVec 2) (s : State) :
    Host.Outcome State Fault Refusal :=
  issue (.kstore d a b n tok bar strict val slot) .none s (fun s c w =>
    match w.slotOf slot.toNat with
    | none => s.raiseWhole c 0x1D 0x40
    | some x =>
      let k := (w.rd n 0).toNat
      let t0 := (w.rd d 0).toNat
      let ka := (w.rd a 0).toNat
      let va := if val = 1 then (w.rd b 0).toNat else 0
      if 256 < k then s.raiseWhole c 0x40 6
      else if k = 0 then s.retire c
      else if x.limit ≤ t0 + k - 1 then s.raiseWhole c 0x42 1
      else match (s.rangeBad w ka (k * x.row) x.size).or
          (if val = 1 then s.rangeBad w va (k * x.row) x.size else none) with
        | some code => s.raiseWhole c code 0
        | none =>
          let e := EngOp.make c w (.kstore x t0 ka va k (strict == 1) (val == 1)) w.copyNo k (tokenNo tok) (w.barOffset bar)
          match s.post c w e (e.ownLines (storeSpans x t0 k (val == 1))) with
          | none => s
          | some r => r.2.retire c)

/-- Bits that differ. -/
def hamming (x y b : Nat) : Nat := ((numsFrom 0 b).filter (fun j => x / 2 ^ j % 2 != y / 2 ^ j % 2)).length

/-- The buckets within a radius of a signature: by distance, then by index (R329). -/
def bucketOrder (sig b dist : Nat) : List Nat :=
  (numsFrom 0 (dist + 1)).flatMap (fun k => (numsFrom 0 (2 ^ b)).filter (fun x => hamming x sig b == k))

/-- BGATHER (R328). -/
def execBgather (d a tok bar : BitVec 8) (dist slot : BitVec 2) (trunc : BitVec 1) (s : State) :
    Host.Outcome State Fault Refusal :=
  issue (.bgather d a tok bar dist slot trunc) .none s (fun s c w =>
    match w.slotOf slot.toNat with
    | none => s.raiseWhole c 0x1D 0x40
    | some x =>
      let sig := (w.rd a 0).toNat
      let q := w.quad d
      let k := nth q 3
      if 2 ^ x.bits ≤ sig then s.raiseWhole c 0x4A 1
      else if k = 0 ∨ 4096 < k then s.raiseWhole c 0x40 9
      else match firstSome [(nth q 0, k * x.row), (nth q 1, k * x.row), (nth q 2, 16 + 4 * k)]
          (fun r => s.rangeBad w r.1 r.2 16) with
        | some code => s.raiseWhole c code 0
        | none =>
          let kind : EngKind := .bgather x sig (nth q 0) (nth q 1) (nth q 2) k dist.toNat (trunc == 1)
          let e := EngOp.make c w kind w.copyNo 1 (tokenNo tok) (w.barOffset bar)
          match s.post c w { e with gath := { e.gath with todo := bucketOrder sig x.bits dist.toNat } } [] with
          | none => s
          | some r => r.2.retire c)

/-! ## Chains (R323, R324) -/

/-- A line of global memory as a fresh snapshot. -/
def State.indexLine (s : State) (id addr : Nat) : EngGot (List Byte) :=
  s.engRead id { scr := false, addr := addr, size := 128, align := 128 }

/-- The pool's cursor and capacity; no pool has no lines. -/
def State.poolHead (s : State) (id : Nat) (x : Index) : EngGot (Nat × Nat) :=
  if x.pool = 0 then .ok (1, 0) s
  else (s.engRead id { scr := false, addr := x.poolLine 0, size := 16, align := 16 }).bind (fun bs s =>
    .ok (fieldOf bs 0 8, fieldOf bs 8 8) s)

/-- Ids in a line. -/
def lineCount (bs : List Byte) : Nat := fieldOf bs 0 1
/-- The pool index of the next line. -/
def lineNext (bs : List Byte) : Nat := fieldOf bs 2 6
/-- The ids of a line. -/
def lineIds (bs : List Byte) : List Nat := (numsFrom 0 (lineCount bs)).map (fun k => fieldOf bs (8 + 4 * k) 4)
/-- A link to the chain was dropped. -/
def lineLossy (bs : List Byte) : Bool := fieldOf bs 1 1 % 2 == 1
/-- A line is malformed under a pool capacity. -/
def lineBad (bs : List Byte) (cap : Nat) : Bool :=
  decide (30 < lineCount bs) || decide (2 ≤ fieldOf bs 1 1) || decide (cap < lineNext bs)

/-- The last line of a chain from a line on, with `more` extension lines allowed after it. -/
def State.lastLine (s : State) (id : Nat) (x : Index) (cap more addr : Nat) : EngGot (Nat × List Byte) :=
  match more with
  | 0 => (s.indexLine id addr).bind (fun bs s =>
      if lineBad bs cap || lineNext bs != 0 then .cause 0x16 0 s else .ok (addr, bs) s)
  | n + 1 => (s.indexLine id addr).bind (fun bs s =>
      if lineBad bs cap then .cause 0x16 0 s
      else if lineNext bs = 0 then .ok (addr, bs) s
      else s.lastLine id x cap n (x.poolLine (lineNext bs)))

/-- A write to global memory. -/
def globalPut (addr align : Nat) (bs : List Byte) : Put := { scr := false, addr := addr, align := align, data := bs }

/-- The last line of a bucket's chain; the pool's header is read where the chain leaves its head line. -/
def State.chainEnd (s : State) (id : Nat) (x : Index) (sig : Nat) : EngGot (Nat × List Byte) :=
  (s.indexLine id (x.head sig)).bind (fun bs s =>
    if lineNext bs = 0 then s.lastLine id x 0 0 (x.head sig)
    else (s.poolHead id x).bind (fun p s => s.lastLine id x p.2 p.2 (x.head sig)))

/-- Check writes that are made together or not at all. -/
def State.engTogether (s : State) (id : Nat) (xs : List Put) : EngGot (List Landed × List (Nat × Nat)) :=
  (engMap xs s (fun x s => s.engCheck id x)).bind (fun ls s => .ok (ls.flatten, []) s)

/-- The writes that link a token into its chain (R326, R327), checked. -/
def State.linkToken (s : State) (id : Nat) (x : Index) (sig t : Nat) (strict : Bool) :
    EngGot (List Landed × List (Nat × Nat)) :=
  (s.chainEnd id x sig).bind (fun l s =>
    let n := lineCount l.2
    if n < 30 then
      s.engTogether id [globalPut (l.1 + 8 + 4 * n) 4 (bytesOfNat 4 t), globalPut l.1 1 (bytesOfNat 1 (n + 1))]
    else (s.poolHead id x).bind (fun p s =>
      if p.1 ≤ p.2 then
        s.engTogether id [globalPut (x.poolLine 0) 8 (bytesOfNat 8 (p.1 + 1)),
          globalPut (x.poolLine p.1) 128 ([1, 0] ++ zeros 6 ++ bytesOfNat 4 t ++ zeros 116),
          globalPut (l.1 + 2) 1 (bytesOfNat 6 p.1)]
      else if strict then .cause 0x49 0 s
      else (s.engRead id { scr := false, addr := x.head sig + 1, size := 1, align := 1 }).bind (fun f s =>
        s.engTogether id [globalPut (x.head sig + 1) 1 (f.map (fun b => b ||| 1))])))

/-! ## KSTORE's tokens (R326) -/

/-- The next reads of an operation are fresh snapshots; which lines it has logged as denied stays (R222). -/
def State.freshReads (s : State) (id : Nat) : State := s.updEng id (fun e => { e with snap := e.snap.filter Snap.denied })

/-- What is to be written after `ls`: a cause leaves `ls` standing. -/
def EngGot.after (ls : List Landed) (g : EngGot (List Landed × List (Nat × Nat))) : EngGot (List Landed × List (Nat × Nat)) :=
  match g with
  | .ok r s => .ok (ls ++ r.1, r.2) s
  | .cause c b s => .ok (ls, [(c, b)]) s
  | .pause va s => .pause va s
  | .wait s => .wait s

/-- One token: its rows are read, signed, written, and it is linked; where it pauses or waits nothing is written yet (DEDUCED,
log entry 51). -/
def State.storeToken (s : State) (id : Nat) (x : Index) (t ka va : Nat) (strict val : Bool) : EngGot (List (Nat × Nat)) :=
  let row := fun (o : Nat) => ({ scr := true, addr := o, size := x.row, align := x.size } : Span)
  ((s.freshReads id).engRead id (row ka)).bind (fun key s =>
    (if val then s.engRead id (row va) else .ok [] s).bind (fun v s =>
      (s.engCheck id (globalPut (x.keyRow t) 1 key)).bind (fun lk s =>
        (EngGot.after lk ((if val then s.engCheck id (globalPut (x.valueRow t) 1 v) else .ok [] s).bind (fun lv s =>
          EngGot.after lv (s.linkToken id x (signature x key) t strict)))).bind (fun r s => .ok r.2 (s.engLand r.1)))))

/-- One token of a KSTORE. A line that a later token's row shares stays taken until that row is written (R248). -/
def execKstoreToken (id : Nat) (s : State) : Host.Outcome State Fault Refusal :=
  if s.engReady id then
    match s.engOp? id with
    | none => .refused .notEnabled
    | some e => match e.kind with
      | .kstore x t0 ka va _ strict val =>
        let t := t0 + e.done
        let later := e.ownLines (storeSpans x (t + 1) (e.total - e.done - 1) val)
        .next (s.engEnd id 1 e.tokenSub ((e.ownLines (storeSpans x t 1 val)).filter (fun o => !later.contains o))
          (s.storeToken id x t (ka + e.done * x.row) (va + e.done * x.row) strict val))
      | _ => .refused .notEnabled
  else .refused .notEnabled

/-! ## BGATHER's buckets and tokens (R329 to R331) -/

/-- Nothing is left to visit or to treat. -/
def Gathering.atEnd (g : Gathering) : Bool := g.stop || (g.ids.isEmpty && g.next.isNone && g.todo.isEmpty)

/-- A piece of a gather is done. -/
def State.setGath (s : State) (id : Nat) (g : Gathering) : State :=
  s.updEng id (fun e => { e with gath := g, done := e.done + 1, total := if g.atEnd then e.done + 1 else e.done + 2 })

/-- A cause is held, and the gather goes on. -/
def State.holdGath (s : State) (id code sub : Nat) (g : Gathering) : State :=
  (s.updEng id (fun e => e.hold code sub s.clock)).setGath id g

/-- A line's ids are taken, or it is malformed and the rest of its chain is skipped. `k` extension lines came before the
next. The pool's header is read where the chain goes on; where that read fails the line itself is intact, and the visit of the next
line holds the cause. -/
def State.takeLine (s : State) (id : Nat) (e : EngOp) (x : Index) (g : Gathering) (bs : List Byte) (k : Nat) : State :=
  let taken : Gathering := { g with ids := lineIds bs, next := if lineNext bs = 0 then none else some (lineNext bs, k) }
  let bad := fun (q : State) => q.holdGath id 0x16 0 { g with next := none }
  if lineBad bs (lineNext bs) then bad s
  else if lineNext bs = 0 then s.setGath id taken
  else match s.poolHead id x with
    | .ok p q => if p.2 < lineNext bs then bad q else q.setGath id taken
    | .cause _ _ q => q.setGath id taken
    | .pause va q => q.engPause id va 1 e.tokenSub
    | .wait q => s.waitIn q

/-- The next line of a gather: of the chain being visited, or the head line of the next bucket. -/
def State.visitLine (s : State) (id : Nat) (e : EngOp) (x : Index) : State :=
  let g := e.gath
  let s0 := s.freshReads id
  match g.next with
  | some (i, k) =>
    let rest : Gathering := { g with next := none }
    let got := (s0.poolHead id x).bind (fun p s => if p.2 ≤ k then .cause 0x16 0 s else s.indexLine id (x.poolLine i))
    match got with
    | .ok bs q => q.takeLine id e x rest bs (k + 1)
    | .cause code b q => q.holdGath id code b rest
    | .pause va q => q.engPause id va 1 e.tokenSub
    | .wait q => s.waitIn q
  | none =>
    match g.todo with
    | [] => s0.setGath id g
    | sig :: todo =>
      let rest : Gathering := { g with todo := todo }
      match s0.indexLine id (x.head sig) with
      | .ok bs q =>
        let seen : Gathering := { rest with visited := g.visited + 1 }
        if lineLossy bs then q.holdGath id 0x48 0 { seen with flags := g.flags ||| 2, stop := true }
        else q.takeLine id e x seen bs 0
      | .cause code b q => q.holdGath id code b rest
      | .pause va q => q.engPause id va 1 e.tokenSub
      | .wait q => s.waitIn q

/-- A bucket line is visited. -/
def execBgatherBucketVisit (id : Nat) (s : State) : Host.Outcome State Fault Refusal :=
  if s.engReady id then
    match s.engOp? id with
    | none => .refused .notEnabled
    | some e => match e.kind, e.gath.ids with
      | .bgather x _ _ _ _ _ _ _, [] => .next (s.visitLine id e x)
      | _, _ => .refused .notEnabled
  else .refused .notEnabled

/-- The lines of a row, read in order: none at the first that the clearance denies, with its event (R330). -/
def State.rowPieces (s : State) (id : Nat) (ps : List (Span × Nat)) : EngGot (Option (List Byte)) :=
  match ps with
  | [] => .ok (some []) s
  | p :: r => match s.engOp? id with
    | none => .wait s
    | some e => (s.engHit e false p.1).bind (fun h s =>
        if h.2 = false then .ok none (s.engDenied id e h.1 (p.1.addr / 128))
        else (s.engReach id false h.1).bind (fun _ s =>
          if s.badAt h.1.place h.1.off p.1.size then .cause (s.errorCode h.1.place h.1.off p.1.size) 0 s
          else
            let bs := s.peekBytes h.1.place h.1.off p.1.size
            (s.rowPieces id r).bind (fun m s => .ok (m.map (fun x => bs ++ x)) s)))

/-- The rows of a token: key, then value; none where the token is omitted. -/
def State.tokenRows (s : State) (id : Nat) (x : Index) (t : Nat) : EngGot (Option (List Byte × List Byte)) :=
  let row := fun (s : State) (a : Nat) => s.rowPieces id (Span.pieces { scr := false, addr := a, size := x.row, align := 1 })
  (row s (x.keyRow t)).bind (fun k s =>
    match k with
    | none => .ok none s
    | some kb => (row s (x.valueRow t)).bind (fun v s => .ok (v.map (fun vb => (kb, vb))) s))

/-- A token that is reached: skipped, omitted, gathered with its arrival, or the budget is overrun (R330, R331). -/
def State.gatherToken (s : State) (id : Nat) (e : EngOp) (x : Index) (q0 q1 q2 budget : Nat) (trunc : Bool) (t : Nat)
    (ids : List Nat) : State :=
  let g : Gathering := { e.gath with ids := ids }
  if x.limit ≤ t then s.holdGath id 0x41 0 g
  else match s.tokenRows id x t with
    | .cause code b q => q.holdGath id code b g
    | .pause va q => q.engPause id va 1 e.tokenSub
    | .wait q => s.waitIn q
    | .ok none q => q.setGath id g
    | .ok (some (kb, vb)) q =>
      if g.count = budget then
        let full : Gathering := { g with flags := g.flags ||| 1, stop := true }
        if trunc then q.setGath id full else q.holdGath id 0x47 0 full
      else
        let put := fun (o : Nat) (bs : List Byte) => ({ scr := true, addr := o, align := 4, data := bs } : Put)
        match q.engStore id [put (q0 + g.count * x.row) kb, put (q1 + g.count * x.row) vb,
            put (q2 + 16 + 4 * g.count) (bytesOfNat 4 t)] with
        | .ok _ r => (r.setGath id { g with count := g.count + 1 }).engCount id
        | .cause code b r => r.holdGath id code b g
        | .pause _ r => r
        | .wait r => s.waitIn r

def execBgatherToken (id : Nat) (s : State) : Host.Outcome State Fault Refusal :=
  if s.engReady id then
    match s.engOp? id with
    | none => .refused .notEnabled
    | some e => match e.kind, e.gath.ids with
      | .bgather x _ q0 q1 q2 k _ trunc, t :: ids => .next (s.gatherToken id e x q0 q1 q2 k trunc t ids)
      | _, _ => .refused .notEnabled
  else .refused .notEnabled

end Sys2Proof.Machine
end

