-- ==== Sys2Proof/Machine/Merge.lean ====
section
/-!
DEFINITION. The merge (R50, R51): what one K-block adds to an accumulator element, from the rows of A and B as a step reads
them (R296).
-/
namespace Sys2Proof.Machine

/-- One row of an operand in a K-block: its scale, its 32 positions as a level and an outlier, and whether some of its data is
uncorrectable (R312). -/
structure KRow where
  scale : Nat
  els : List (Int × Option Nat)
  lost : Bool
  deriving DecidableEq, Repr

/-- A row that is clipped as a whole (R296). -/
def KRow.clipped : KRow := { scale := 0, els := List.replicate 32 (0, none), lost := false }

/-- The level of a code; a hole counts as 0 (R42). -/
def levelOfCode (w code : Nat) : Int :=
  if code = holeCode w then 0 else if holeCode w < code then (code : Int) - (2 : Int) ^ w else (code : Int)

/-- A row of a tile in the K-block whose positions are the columns `cols`; none where clipped. -/
def Split.kRow (t : Split) (row : Nat) (cols : List (Option Nat)) (lost : Bool) : KRow :=
  let codes := (t.codes.drop (64 * row)).take 64
  let outs := t.outs.filter (fun o => o.pos / 64 == row)
  let block := (cols.findSome? (fun c => c)).getD 0 / 32
  { scale := (t.scales[2 * row + block]?).getD 0
    els := cols.map (fun c => match c with
      | none => (0, none)
      | some x => (levelOfCode t.w ((codes[x]?).getD 0), (outs.find? (fun o => o.pos % 64 == x)).map Outlier.value))
    lost := lost }

/-- The value of a position: its outlier, or its level times the scale (R42). -/
def elemValue (scale : Nat) (x : Int × Option Nat) : Fp :=
  match x.2 with
  | some b => FpFmt.bf16.unpack b
  | none =>
    let v := scaleValue scale
    .fin (decide (x.1 < 0) && v.1 != 0) (x.1.natAbs * v.1) v.2

/-- An outlier product in FP32 (R51). -/
def outProduct (x y : Fp) : Nat :=
  match firstNan .bf16 .fp32 [x, y] with
  | some r => r.1
  | none =>
    match x, y with
    | .fin sa ma ea, .fin sb mb eb => (FpFmt.fp32.round 0 (sa != sb) (ma * mb) (ea + eb)).1
    | _, _ => if x.isZero || y.isZero then FpFmt.fp32.nanBits else FpFmt.fp32.sign (x.neg != y.neg) FpFmt.fp32.infBits

/-- Add to an accumulator, RNE. -/
def accAdd (acc x : Nat) : Nat := (FpFmt.fp32.add 0 acc x).1

/-- The body term: the dot product of the levels times both scales; a zero term is +0. -/
def bodyTerm (a b : KRow) : Nat :=
  let dot := (a.els.zip b.els).foldl (fun (n : Int) p => n + p.1.1 * p.2.1) 0
  let x := scaleValue a.scale
  let y := scaleValue b.scale
  let m := dot.natAbs * x.1 * y.1
  (FpFmt.fp32.round 0 (decide (dot < 0) && m != 0) m (x.2 + y.2)).1

/-- The merge of one K-block into one accumulator element: the body term, A's outliers, then B's outliers not yet taken. -/
def mergeAt (acc : Nat) (a b : KRow) : Nat :=
  let ps := a.els.zip b.els
  let add := fun (acc : Nat) (p : (Int × Option Nat) × (Int × Option Nat)) =>
    accAdd acc (outProduct (elemValue a.scale p.1) (elemValue b.scale p.2))
  let acc1 := accAdd acc (bodyTerm a b)
  let acc2 := ps.foldl (fun acc p => if p.1.2.isSome then add acc p else acc) acc1
  ps.foldl (fun acc p => if p.1.2.isNone && p.2.2.isSome then add acc p else acc) acc2

/-- A step over a whole tile, row by row: `acc` holds its elements. -/
def mergeBlock (rows cols : List KRow) (acc : List Nat) : List Nat :=
  match rows with
  | [] => []
  | a :: r => ((cols.zip (acc.take 128)).map (fun p => mergeAt p.2 a p.1)) ++ mergeBlock r cols (acc.drop 128)

/-- Elements k to k + n - 1 of sparse data whose first entry is at k or later. -/
def denseFrom (m : Assoc Word) (k n : Nat) : List Nat :=
  match n with
  | 0 => []
  | n + 1 =>
    match m with
    | (i, x) :: r => if i = k then x.toNat :: denseFrom r (k + 1) n else 0 :: denseFrom ((i, x) :: r) (k + 1) n
    | [] => 0 :: denseFrom [] (k + 1) n

/-- Sparse data of these elements. -/
def sparseOf (xs : List Nat) : Assoc Word :=
  ((numsFrom 0 xs.length).zip xs).filterMap (fun e => if e.2 % 2 ^ 32 = 0 then none else some (e.1, BitVec.ofNat 32 e.2))

/-- All elements of a tile. -/
def Tile.elements (t : Tile) : List Nat := denseFrom t.acc 0 16384

end Sys2Proof.Machine
end

