-- ==== Sys2Proof/Machine/Matrix.lean ====
section
/-!
DEFINITION. The split-form matrix engine (R296 to R316): accumulator tiles, MMA and MMALOOP with their quads, MDRAIN, MLOAD,
batches and tokens, and the steps of the unit.
-/
namespace Sys2Proof.Machine

/-! ## Accumulator tiles (R299) -/

/-- A tile of a warp's workgroup. -/
def State.tileOf? (s : State) (key t : Nat) : Option Tile :=
  (s.warp? key).bind (fun w => (s.group? w.team w.wg).bind (fun g => Assoc.at? g.tiles t))

/-- Replace a tile. -/
def State.setTile (s : State) (key t : Nat) (x : Tile) : State :=
  match s.warp? key with
  | none => s
  | some w => s.updGroup w.team w.wg (fun g => { g with tiles := Assoc.put g.tiles t x })

/-- The tile that a field names, or the cause: free or not reserved, or owned by another warp. -/
def State.namedTile (s : State) (key : Nat) (w : Warp) (c : Code) : Nat ⊕ (Nat × Tile) :=
  let t := (w.rd c 0).toNat
  if 3 < t ∨ s.headerField w Launch.acctiles ≤ t then .inl 0x18
  else match s.tileOf? key t with
    | none => .inl 0x18
    | some x =>
      if x.owner = none then .inl 0x18
      else if x.owner ≠ some w.warpId then .inl 0x46
      else .inr (t, x)

/-! ## Operands (R296, R297) -/

/-- Element j of a list of integers, 0 past its end. -/
def intAt (l : List Int) (j : Nat) : Int := (l[j]?).getD 0

/-- A coordinate at a level: none where it is clipped. An absent level acts as a clip level of bound 1 (R296). -/
def stepAdjust (l : Option Level) (x : Nat) : Option Nat :=
  match l with
  | none => if x = 0 then some 0 else none
  | some l => match l.adjust x with
    | .at y => some y
    | _ => none

/-- The causes of an operand's type, space and elem. -/
def operandBad (h : Handle) : Option (Nat × Nat) :=
  if 4 ≤ hType h then some (0x43, 0)
  else if hScratch h = false then some (0x43, 2)
  else if isSplit h = false ∧ hElem h ≠ 2 then some (0x16, 0)
  else none

/-- The levels run from a coordinate on: 32 positions, `rows` rows. -/
def boxEnd (rows : Nat) (c : List Int) (j : Nat) : Int :=
  intAt c j + (match j with
    | 0 => 31
    | 1 => (rows : Int) - 1
    | _ => 0)

/-- The first position, in its tensor's own elements, of the group of a logical position; other tensors store each position
(R298). -/
def storedAt (h : Handle) (x : Nat) : Nat := if hType h = 3 then x / groupM h * groupN h else x

/-- A K-block spans two stored blocks of a split-type operand (R296). -/
def blockSplit (h : Handle) (c0 : Int) : Bool :=
  isSplit h && (levelOf h 0).any (fun l => l.beyond == .wrap &&
    decide (1 < ((numsFrom c0.toNat 32).map (fun x => x % l.bound / 32)).eraseDups.length))

/-- Subcause 1: a coordinate below 0, at or above 2^32, or beyond its bound at a trap level. -/
def coordFar (h : Handle) (rows : Nat) (c : List Int) : Bool :=
  [0, 1, 2, 3].any (fun j =>
    let x := intAt c j
    let last := (boxEnd rows c j).toNat
    decide (x < 0) || decide ((2 : Int) ^ 32 ≤ x) ||
      (levelOf h j).any (fun l => l.beyond == .trap &&
        decide (l.bound ≤ if j = 0 ∧ hType h = 3 then storedAt h last + groupN h - 1 else last))) ||
    blockSplit h (intAt c 0)

/-- Subcause 2: a nonzero coordinate at an absent level. -/
def coordAbsent (h : Handle) (c : List Int) : Bool := [0, 1, 2, 3].any (fun j => (levelOf h j).isNone && intAt c j != 0)

/-- Subcause 7: a coordinate off the alignment of R296. -/
def coordOdd (rows : Nat) (c : List Int) : Bool :=
  intAt c 0 % 32 != 0 || intAt c 1 % (if rows = 32 then 32 else 64) != 0

/-- The first subcause of 0x40 that any of these boxes has: handle, rows, coordinate (DEDUCED, log entry 50). -/
def coordsBad (xs : List (Handle × Nat × List Int)) : Option Nat :=
  if xs.any (fun x => coordFar x.1 x.2.1 x.2.2) then some 1
  else if xs.any (fun x => coordAbsent x.1 x.2.2) then some 2
  else if xs.any (fun x => coordOdd x.2.1 x.2.2) then some 7
  else none

/-- The coordinate of an operand at step `k` (R303). -/
def stepCoord (q : Quarter) (i0 i2 : Int) (k : Nat) : List Int :=
  [(nth q.coord 0 : Int) + k * i0, (nth q.coord 1 : Int), (nth q.coord 2 : Int) + k * i2, (nth q.coord 3 : Int)]

/-- The rows that each B operand supplies. -/
def quarterRows (bs : List Quarter) : Nat := if bs.length = 4 then 32 else 128

/-- All boxes of an operation (R303). -/
def stepBoxes (a : Quarter) (bs : List Quarter) (inc : List Int) (n : Nat) : List (Handle × Nat × List Int) :=
  (numsFrom 0 n).flatMap (fun k =>
    (a.handle, 128, stepCoord a (intAt inc 0) (intAt inc 1) k) ::
      bs.map (fun b => (b.handle, quarterRows bs, stepCoord b (intAt inc 2) (intAt inc 3) k)))

/-! ## Quads (R305, R306) -/

/-- The quad of a warp lies within its workgroup. -/
def State.quadFits (s : State) (w : Warp) : Bool := decide (4 * (w.warpId / 4) + 4 ≤ s.wgDim w)

/-- The four published quarters of a warp's quad. -/
def State.quarters? (s : State) (w : Warp) : Option (List Quarter) :=
  (s.group? w.team w.wg).bind (fun g =>
    [0, 1, 2, 3].mapM (fun p => Assoc.at? g.quarters (w.warpId / 4 * 4 + p)))

/-- The quad is consumed. -/
def State.consumeQuad (s : State) (w : Warp) : State :=
  s.updGroup w.team w.wg (fun g => { g with quarters := g.quarters.filter (fun e => e.1 / 4 != w.warpId / 4) })

/-- BPUT (R305). -/
def execBput (a b : BitVec 8) (s : State) : Host.Outcome State Fault Refusal :=
  issue (.bput a b) .none s (fun s c w =>
    if s.quadFits w = false then s.raiseWhole c 0x45 1
    else match w.handle? a with
      | none => s.raiseWhole c 0x0A 0
      | some h => match operandBad h with
        | some (k, sub) => s.raiseWhole c k sub
        | none =>
          let q := w.quad b
          match coordsBad [(h, 32, q.map (fun x => (x : Int)))] with
          | some sub => s.raiseWhole c 0x40 sub
          | none =>
            (s.updGroup w.team w.wg (fun g =>
              { g with quarters := Assoc.put g.quarters w.warpId { handle := h, coord := q, clearance := w.clearance } })).retire c)

/-! ## Posting (R301) -/

/-- Post a tile operation with the lines that it writes: it joins the open batch. -/
def State.postTile (s : State) (c : Cur) (w : Warp) (e : EngOp) (os : List (Place × Nat)) : Option (Nat × State) :=
  (s.post c w e os).map (fun r => (r.1, r.2.updWarp c.w (fun w => { w with openBatch := w.openBatch ++ [r.1] })))

/-- Post a tile operation and retire; the path waits where the operation cannot be posted yet. -/
def State.postRetire (s : State) (c : Cur) (w : Warp) (e : EngOp) : State :=
  match s.postTile c w e [] with
  | none => s
  | some r => r.2.retire c

/-- The operands that an MMA names, in the order of R313: its quarters, its handles, their types; or a cause. -/
def State.mmaOperands (s : State) (w : Warp) (a b qa qb : Code) : (Nat × Nat) ⊕ (Quarter × List Quarter) :=
  let quads := if b ≠ 0xFF then some [] else s.quarters? w
  if b = 0xFF ∧ s.quadFits w = false then .inl (0x45, 1)
  else match quads with
    | none => .inl (0x45, 0)
    | some qs => match w.handle? a with
      | none => .inl (0x0A, 0)
      | some ha =>
        let named : List (Option Quarter) :=
          if b = 0xFF then []
          else [(w.handle? b).map (fun hb => { handle := hb, coord := w.quad qb, clearance := w.clearance })]
        match named.mapM (fun x => x) with
        | none => .inl (0x0A, 0)
        | some bs => match firstSome (ha :: bs.map Quarter.handle) operandBad with
          | some x => .inl x
          | none => .inr ({ handle := ha, coord := w.quad qa, clearance := w.clearance }, qs ++ bs)

/-- MMA and MMALOOP (R303): `n` steps with increments. -/
def State.mmaIssue (s : State) (c : Cur) (w : Warp) (d a b qa qb : Code) (inc : List Int) (n : Nat) : State :=
  match s.namedTile c.w w d with
  | .inl k => s.raiseWhole c k 0
  | .inr (t, _) => match s.mmaOperands w a b qa qb with
    | .inl (k, sub) => s.raiseWhole c k sub
    | .inr (oa, obs) =>
      if 4096 < n then s.raiseWhole c 0x40 6
      else match coordsBad (stepBoxes oa obs inc n) with
        | some sub => s.raiseWhole c 0x40 sub
        | none =>
          let s1 := if b = 0xFF then s.consumeQuad w else s
          if n = 0 then s1.retire c
          else s1.postRetire c w (EngOp.make c w (.mma t oa obs inc n (w.mode.getLsbD 12)) w.tileNo n none none)

def execMma (d a b qa qb : BitVec 8) (s : State) : Host.Outcome State Fault Refusal :=
  issue (.mma d a b qa qb) .none s (fun s c w => s.mmaIssue c w d a b qa qb [0, 0, 0, 0] 1)
def execMmaloop (d a b qa qb inc n : BitVec 8) (s : State) : Host.Outcome State Fault Refusal :=
  issue (.mmaloop d a b qa qb inc n) .none s (fun s c w =>
    s.mmaIssue c w d a b qa qb ([0, 1, 2, 3].map (fun j => (w.rd (nextCode inc j) 0).toInt)) (w.rd n 0).toNat)

/-! ## Reading an operand (R298, R304, R315) -/

/-- Do the same for each element of a list; the first cause ends it. -/
def eachLeft {α β : Type} (xs : List α) (f : α → β ⊕ Nat) : List β ⊕ Nat :=
  match xs with
  | [] => .inl []
  | x :: r => match f x with
    | .inr k => .inr k
    | .inl y => match eachLeft r f with
      | .inr k => .inr k
      | .inl ys => .inl (y :: ys)

/-- Bytes of scratchpad, and which of their words are uncorrectable; or a cause. -/
def State.stepRead (s : State) (key addr n align : Nat) : (List Byte × (Nat → Bool)) ⊕ Nat :=
  match s.engScratch key { scr := true, addr := addr, size := n, align := align } with
  | .inr k => .inr k
  | .inl h => .inl (s.peekBytes h.place h.off n, fun i => s.badAt h.place (h.off + 4 * i) (Nat.min 4 (n - 4 * i)))

/-- The inline entries in use (R47) that lie in uncorrectable words. -/
def badEntries (bs : List Byte) (bad : Nat → Bool) : List Nat :=
  (numsFrom 0 (Nat.min (fieldOf bs 2 2) 64)).filter (fun i => bad (64 + i))

/-- Read a spill area whose lines are whole (R315): its bytes, and the entries in words that cannot be read. -/
def State.readSpill (s : State) (id addr n : Nat) : EngGot (List Byte × List Nat) :=
  (engMap ({ scr := false, addr := addr, size := n, align := 4 } : Span).pieces s (fun p s =>
    (s.engReadWords id p.1).bind (fun r s => .ok (r.bytes, r.bad.map (fun i => 64 + p.2 / 4 + i)) s))).bind (fun rs s =>
      .ok ((rs.map (fun r => r.1)).flatten, (rs.map (fun r => r.2)).flatten) s)

/-- Of each of these entries, the error lies in its value alone, whose effect is that of body codes, not in its place, which is
metadata (R48, R312): which of the two is free (DEDUCED, log entry 50). -/
def State.valuesOnly (s : State) (es : List Nat) : Bool := es.all (fun i => Config.freeNat (s.free + i) % 2 == 1)

/-- The free values that choose so for the 256 entries of a tile are used up. -/
def State.takeEntries (s : State) (es : List Nat) : State := if es = [] then s else { s with free := s.free + 256 }

/-- The blocks (2 × row + block) of a tile whose codes lie in uncorrectable words. -/
def lostBlocks (w : Nat) (bad : Nat → Bool) : List Nat :=
  (numsFrom 0 128).filter (fun j => (numsFrom (128 + j * w) w).any bad)

/-- A stored tile, validated (R48), with its blocks some of whose codes or outlier values cannot be read: errors of its metadata,
those in its spill area too, come first, then its check byte, then its header (DEDUCED, log entry 50). -/
def State.readTile (s : State) (id key : Nat) (h : Handle) (addr : Nat) : EngGot (Split × List Nat) :=
  let w := hType h + 2
  match s.stepRead key addr (tileBytes h) 128 with
  | .inr k => .cause k 0 s
  | .inl (bs, bad) =>
    let head := splitHead w bs
    let lost := lostBlocks w bad
    let inl := badEntries bs bad
    let judge := fun (n : Nat) (sp : List Byte) (es : List Nat) (s : State) =>
      match splitRest w n bs sp (fun i => lost.contains (i / 32)) with
      | .inr k => (.cause k 0 s : EngGot (Split × List Nat))
      | .inl t => .ok (t, lost ++ (es.filterMap (fun i => t.outs[i]?)).map (fun o => o.pos / 32)) (s.takeEntries es)
    if (numsFrom 0 64).any bad || !s.valuesOnly inl then .cause 0x36 0 (s.takeEntries inl)
    else match splitSpill bs, head with
      | none, .inl (n, _) => judge n [] inl s
      | none, .inr k => .cause k 0 s
      | some (a, n), _ =>
        if bs[95]? ≠ some (checkByte bs) then .cause 0x36 0 s
        else match s.readSpill id a n with
          | .cause k b q => match head with
            | .inl _ => .cause k b q
            | .inr j => .cause j b q
          | .pause va q => match head with
            | .inl _ => .pause va q
            | .inr j => .cause j 0 s
          | .wait q => .wait q
          | .ok (sp, es) q =>
            if !q.valuesOnly es then .cause 0x36 0 (q.takeEntries es)
            else match head with
              | .inl (n, _) => judge n sp (inl ++ es) q
              | .inr k => .cause k 0 q

/-- An element of a raw operand: its pattern, whether it is clipped, whether it is uncorrectable. -/
structure RawEl where
  bits : Nat
  clip : Bool
  lost : Bool
  deriving DecidableEq, Repr

/-- An element that is clipped. -/
def RawEl.clipped : RawEl := { bits := 0, clip := true, lost := false }

/-- A stored BF16 value; clipped where it has no address. An uncorrectable one counts as zero (R312). -/
def State.rawAt (s : State) (key : Nat) (addr : Option Nat) : RawEl ⊕ Nat :=
  match addr with
  | none => .inl RawEl.clipped
  | some a => match s.stepRead key a 2 2 with
    | .inr k => .inr k
    | .inl (bs, bad) => .inl (if bad 0 then { bits := 0, clip := false, lost := true }
        else { bits := natOfBytes bs, clip := false, lost := false })

/-- The address of a stored value, levels adjusted one by one. -/
def stepAddress (h : Handle) (c : List Nat) : Option Nat :=
  ([0, 1, 2, 3].mapM (fun j => stepAdjust (levelOf h j) (nth c j))).map (addressOf h)

/-- The positions that a metadata word lists, if it is as R298 wants it. -/
def groupPositions (h : Handle) (word : Nat) : Option (List Nat) :=
  let b := if groupM h = 4 then 2 else 3
  let n := groupN h
  let ps := (numsFrom 0 n).map (fun j => word / 2 ^ (b * j) % 2 ^ b)
  if risingNats ps && word / 2 ^ (b * n) == 0 then some ps else none

/-- A group of M positions of an N:M row, expanded (R298). -/
def State.rawGroup (s : State) (key : Nat) (h : Handle) (g y c2 c3 : Nat) : List RawEl ⊕ Nat :=
  let addr := fun (j : Nat) => stepAddress h [g * groupN h + j, y, c2, c3]
  match addr 0 with
  | none => .inl (List.replicate (groupM h) RawEl.clipped)
  | some a => match s.stepRead key (metaAddr h a) 2 2 with
    | .inr k => .inr k
    | .inl (bs, bad) =>
      if bad 0 then .inr 0x36
      else match groupPositions h (natOfBytes bs) with
        | none => .inr 0x17
        | some ps => eachLeft (numsFrom 0 (groupM h)) (fun p =>
            match (ps.zip (numsFrom 0 ps.length)).find? (fun x => x.1 == p) with
            | some x => s.rawAt key (addr x.2)
            | none => .inl { bits := 0, clip := false, lost := false })

/-- 64 positions of a row of a raw operand, from `ox` on. -/
def State.rawRow (s : State) (key : Nat) (h : Handle) (ox y c2 c3 : Nat) : List RawEl ⊕ Nat :=
  if hType h = 3 then
    match eachLeft (numsFrom (ox / groupM h) (64 / groupM h)) (fun g => s.rawGroup key h g y c2 c3) with
    | .inl gs => .inl gs.flatten
    | .inr k => .inr k
  else eachLeft (numsFrom ox 64) (fun x => s.rawAt key (stepAddress h [x, y, c2, c3]))

/-- What a step knows of one tile or region of an operand: each row's K-block. -/
abbrev Region := Nat → KRow

/-- The K-block at `c0` of a region split on the fly as Q4 (R298). -/
def State.rawRegion (s : State) (key : Nat) (h : Handle) (c0 oy c2 c3 : Nat) : Region ⊕ Nat :=
  match eachLeft (numsFrom oy 64) (fun y => s.rawRow key h (c0 / 64 * 64) y c2 c3) with
  | .inr k => .inr k
  | .inl rows =>
    match encodeRegion .bf16 4 (hTau h) 64 0x13 (rows.flatMap (fun r => r.map RawEl.bits)) with
    | .inr k => .inr k
    | .inl t => .inl (fun r =>
        let els := (((rows[r]?).getD []).drop (c0 % 64)).take 32
        t.kRow r (((numsFrom (c0 % 64) 32).zip els).map (fun x => if x.2.clip then none else some x.1))
          (els.any RawEl.lost))

/-- The K-block of a stored tile whose positions are the columns `cols` of the tensor; none where clipped. -/
def State.tileRegion (s : State) (id key : Nat) (h : Handle) (cols : List (Option Nat)) (y c2 c3 : Nat) : EngGot Region :=
  let x := (cols.findSome? (fun c => c)).getD 0
  (s.readTile id key h (addressOf h [x, y, c2, c3])).bind (fun r s =>
    .ok (fun row => r.1.kRow row (cols.map (fun c => c.map (fun v => v % 64))) (r.2.contains (2 * row + x % 64 / 32))) s)

/-- The rows of an operand at a step (R296): its tiles and regions are read and validated in the order of the first row that
each supplies (R304). -/
def State.readOperand (s : State) (id key : Nat) (q : Quarter) (rows : Nat) (c : List Int) : EngGot (List KRow) :=
  let h := q.handle
  let s0 := s.updEng id (fun e => { e with clearance := q.clearance })
  let c0 := (intAt c 0).toNat
  let cols := (numsFrom c0 32).map (fun x => (stepAdjust (levelOf h 0) (storedAt h x)).map (fun y => if hType h = 3 then x else y))
  let ys := (numsFrom (intAt c 1).toNat rows).map (fun y => (y, stepAdjust (levelOf h 1) y))
  let hi := [2, 3].map (fun j => stepAdjust (levelOf h j) (intAt c j).toNat)
  match hi with
  | [some c2, some c3] =>
    if cols.all Option.isNone then .ok (List.replicate rows KRow.clipped) s0
    else
      -- the row a region is known by: as stored for split types, else as named
      let at_ := fun (y : Nat × Option Nat) => y.2.map (fun z => if isSplit h then z else y.1)
      let keys := ((ys.filterMap at_).map (fun y => y / 64)).eraseDups
      (engMap keys s0 (fun k s =>
        (if isSplit h then s.tileRegion id key h cols (64 * k) c2 c3
          else match s.rawRegion key h c0 (64 * k) (intAt c 2).toNat (intAt c 3).toNat with
            | .inl r => .ok r s
            | .inr code => .cause code 0 s).bind (fun r s => .ok (k, r) s))).bind (fun rs s =>
        .ok (ys.map (fun y => match at_ y with
          | none => KRow.clipped
          | some z => match rs.find? (fun r => r.1 == z / 64) with
            | some r => r.2 (z % 64)
            | none => KRow.clipped)) s)
  | _ => .ok (List.replicate rows KRow.clipped) s0

/-! ## Steps (R303, R304, R312) -/

/-- Elements fed by data that cannot be read are undefined. -/
def State.freeWords (s : State) (xs : List (Nat × Bool)) : List Nat :=
  ((numsFrom s.free xs.length).zip xs).map (fun e => if e.2.2 then Config.freeNat e.1 % 2 ^ 32 else e.2.1)

/-- Apply a step to its tile. -/
def State.applyStep (s : State) (key t : Nat) (rows cols : List KRow) : State :=
  match s.tileOf? key t with
  | none => s
  | some x =>
    let lost := rows.flatMap (fun a => cols.map (fun b => a.lost || b.lost))
    let els := mergeBlock rows cols x.elements
    if lost.any (fun b => b) then
      let q := s.setTile key t { x with acc := sparseOf (s.freeWords (els.zip lost)), poisoned := true }
      { q with free := q.free + 16384 }
    else s.setTile key t { x with acc := sparseOf els }

/-- The comparison of a step in redundant mode (R311): where the array of the warp's core can err, whether its halves differ
is free; the tile keeps the primary result and marks a difference. -/
def State.compareHalves (s : State) (key t : Nat) (redundant : Bool) : State :=
  if redundant && s.hw.arrays.contains (coreOfKey key) then
    match s.tileOf? key t with
    | none => s
    | some x => (s.setTile key t { x with mismatch := x.mismatch || s.freeVal % 2 == 1 }).takeFree
  else s

/-- The subcause of a tile operation's cause or pause (R314). -/
def tileSub (t step : Nat) : Nat := t * 4096 + step

/-- The operation ends with a cause: no later step is applied (R304). -/
def State.endSteps (s : State) (id code sub : Nat) : State :=
  s.updEng id (fun e => { e.hold code sub s.clock with done := e.total, snap := [] })

/-- The next step of an MMA or MMALOOP: all of its inputs are validated before any element changes. -/
def State.mmaStep (s : State) (id : Nat) (e : EngOp) (t : Nat) (a : Quarter) (bs : List Quarter) (inc : List Int)
    (redundant : Bool) : State :=
  let g := (s.readOperand id e.w a 128 (stepCoord a (intAt inc 0) (intAt inc 1) e.done)).bind (fun ra s =>
    (engMap bs s (fun b s =>
      s.readOperand id e.w b (quarterRows bs) (stepCoord b (intAt inc 2) (intAt inc 3) e.done))).bind (fun rb s =>
      .ok (ra, rb.flatten) s))
  match g with
  | .ok r q => (((q.applyStep e.w t r.1 r.2).compareHalves e.w t redundant).updEng id (fun e => { e with snap := [] })).engDone id []
  | .cause k _ q => q.endSteps id k (tileSub t e.done)
  | .pause va q => q.engPause id va 2 (tileSub t e.done)
  | .wait q => s.waitIn q

/-- A tile operation may go on: it is not frozen, and no earlier one on its tile is under way (R302, R310, R314). -/
def State.tileReady (s : State) (id : Nat) : Bool :=
  (s.engOp? id).any (fun e => e.kind.tile?.any (fun t =>
    !e.complete && e.paused.isNone && decide (e.done < e.total) && !s.frozen e && !s.asleep (.core e.core) &&
      !(s.tileOps e.w t).any (fun x => decide (x.1 < id) && !x.2.complete)))

/-! ## MLOAD (R309) -/

/-- The elements of a tile and their coordinates in a scratchpad tensor. -/
def tileBox (q : List Nat) : List (List Nat) :=
  (numsFrom 0 16384).map (fun i => addCoord q [i % 128, i / 128, 0, 0])

/-- One element that MLOAD reads: clipped ones are +0; an uncorrectable one is undefined. -/
def State.loadElement (s : State) (key : Nat) (h : Handle) (c : List Nat) : (Nat × Bool) ⊕ Nat :=
  let n := elemSize (hElem h)
  match stepAddress h c with
  | none => .inl (0, false)
  | some a => match s.stepRead key a n n with
    | .inr k => .inr k
    | .inl (bs, bad) => .inl (if hElem h = 2 then natOfBytes bs * 65536 else natOfBytes bs, bad 0)

/-- The write of an MLOAD. -/
def State.loadTile (s : State) (id : Nat) (e : EngOp) : State :=
  match e.kind with
  | .load t h q => match s.tileOf? e.w t with
    | none => s.engDone id []
    | some x => match eachLeft (tileBox q) (fun c => s.loadElement e.w h c) with
      | .inr k => s.engDone id [(k, tileSub t 0)]
      | .inl els =>
        let q := s.setTile e.w t { x with acc := sparseOf (s.freeWords els), poisoned := els.any (fun y => y.2)
                                          mismatch := false, bad := [] }
        ({ q with free := q.free + 16384 } : State).engDone id []
  | .loadReg t vals => match s.tileOf? e.w t with
    | none => s.engDone id []
    | some x =>
      (s.setTile e.w t { x with acc := vals.foldl (fun m v => Assoc.set m 0 v.1 v.2) x.acc
                                bad := x.bad.filter (fun i => !vals.any (fun v => v.1 == i)) }).engDone id []
  | _ => s

/-- One step of the matrix unit: a step of an MMA or MMALOOP, or the write of an MLOAD (DEDUCED, log entry 46). -/
def execMatrixStep (id : Nat) (s : State) : Host.Outcome State Fault Refusal :=
  if s.tileReady id then
    match s.engOp? id with
    | none => .refused .notEnabled
    | some e => match e.kind with
      | .mma t a bs inc _ redundant => .next (s.mmaStep id e t a bs inc redundant)
      | .load _ _ _ => .next (s.loadTile id e)
      | .loadReg _ _ => .next (s.loadTile id e)
      | _ => .refused .notEnabled
  else .refused .notEnabled

/-! ## MDRAIN (R309, R310) -/

/-- What a drain writes to scratchpad: clipped elements are not written. -/
def Tile.drainPuts (x : Tile) (h : Handle) (q : List Nat) : List Put :=
  ((tileBox q).zip x.elements).filterMap (fun e => (stepAddress h e.1).map (fun a =>
    { scr := true, addr := a, align := elemSize (hElem h)
      data := if hElem h = 2 then bytesOfNat 2 (FpFmt.fp32.convert .bf16 0 e.2).1 else bytesOfNat 4 e.2 }))

/-- The elements that a drain reads: register, lane and element index for the register form, all for the other. -/
def drainCells (d w col q : Nat) (lanes : Mask) : List (Nat × Nat × Nat) :=
  lanes.lanes.flatMap (fun i => (numsFrom 0 w).map (fun k => (d + k, i, 128 * (32 * q + i) + col + k)))

/-- The cause that keeps a drain outside trap mode from writing. -/
def Tile.drainBad (x : Tile) (reads : Nat → Bool) : Option Nat :=
  if x.bad.any reads then some 0x3A else if x.poisoned then some 0x37 else if x.mismatch then some 0x3B else none

/-- The status that a drain writes. -/
def Tile.status (x : Tile) (flying : Bool) : Nat :=
  (if x.mismatch then 4 else 0) + (if x.poisoned then 2 else 0) + (if flying then 1 else 0)

/-- A drain has written: its status, and the cleared tile. -/
def State.drained (s : State) (id key t : Nat) (x : Tile) (clr : Bool) (st : Code) (flying : Bool) : State :=
  let s1 := if st = 0xFF then s else s.updWarp key (fun w => w.wr st 0 (BitVec.ofNat 32 (x.status flying)))
  (if clr then s1.setTile key t { x with acc := [], poisoned := false, mismatch := false, bad := [] } else s1).engDone id []

/-- The drain of a tile; in trap mode it raises no cause of the tile, and its status says what is in flight. -/
def State.drainTile (s : State) (id : Nat) (e : EngOp) (trap : Bool) : State :=
  let flying := fun (t : Nat) => (s.tileOps e.w t).any (fun x => decide (x.1 < id) && decide (x.2.done < x.2.total))
  match e.kind with
  | .drain t h q clr st => match s.tileOf? e.w t with
    | none => s.engDone id []
    | some x => match if trap then none else x.drainBad (fun _ => true) with
      | some k => s.engDone id [(k, tileSub t 0)]
      | none => match s.engStore id (x.drainPuts h q) with
        | .ok _ r => r.drained id e.w t x clr st (flying t)
        | .cause k _ r => r.engDone id [(k, tileSub t 0)]
        | .pause _ r => r
        | .wait q => s.waitIn q
  | .drainReg t d w col q clr st lanes => match s.tileOf? e.w t with
    | none => s.engDone id []
    | some x =>
      let cells := drainCells d w col q lanes
      match if trap then none else x.drainBad (fun i => cells.any (fun z => z.2.2 == i)) with
      | some k => s.engDone id [(k, tileSub t 0)]
      | none =>
        let s1 := s.updWarp e.w (fun y => cells.foldl (fun (y : Warp) z =>
          y.wr (BitVec.ofNat 8 z.1) z.2.1 (Assoc.get x.acc 0 z.2.2)) y)
        s1.drained id e.w t x clr st (flying t)
  | _ => s

def execMdrainExecute (id : Nat) (s : State) : Host.Outcome State Fault Refusal :=
  if s.tileReady id then
    match s.engOp? id with
    | none => .refused .notEnabled
    | some e => match e.kind with
      | .drain _ _ _ _ _ => .next (s.drainTile id e false)
      | .drainReg _ _ _ _ _ _ _ _ => .next (s.drainTile id e false)
      | _ => .refused .notEnabled
  else .refused .notEnabled

/-- The causes of a scratchpad form's handle and box (R309). -/
def boxBad (h : Handle) (q : List Nat) : Option (Nat × Nat) :=
  if hType h ≠ 0 then some (0x43, 0)
  else if hScratch h = false then some (0x43, 2)
  else if hElem h ≠ 0 ∧ hElem h ≠ 2 then some (0x16, 0)
  else (shapeBad [(h, q, [128, 128, 1, 1])]).map (fun b => (0x40, b))

/-- The data field of MDRAIN or MLOAD, checked in the order of R313; `place` is its position in the word. -/
inductive DataForm where
  | bad (code sub : Nat)
  | scratch (h : Handle) (q : List Nat)
  | regs (w col q : Nat)

def State.dataForm (s : State) (w : Warp) (x b : Code) (place : Nat) : DataForm :=
  if isLane x then
    match regControl (w.rd b 0) with
    | none => .bad 0x40 8
    | some (n, col, q) => if s.headerField w Launch.vregs < x.toNat + n then .bad 0x07 place else .regs n col q
  else match w.handle? x with
    | none => .bad 0x0A 0
    | some h =>
      let q := w.quad b
      match boxBad h q with
      | some (k, sub) => .bad k sub
      | none => .scratch h q

/-- The lines of scratchpad that a drain writes: later accesses of the path stand after it (R248, R315). -/
def State.drainLines (s : State) (key : Nat) (h : Handle) (q : List Nat) : List (Place × Nat) :=
  ((tileBox q).filterMap (fun c => (stepAddress h c).bind (fun a =>
    match s.engScratch key { scr := true, addr := a, size := elemSize (hElem h), align := elemSize (hElem h) } with
    | .inl x => some (x.place, x.off / 128)
    | .inr _ => none))).eraseDups

/-- A posted drain: in trap mode it executes and completes at once, ahead of what is frozen (R310). -/
def State.drainPosted (s : State) (w : Warp) (id : Nat) : State :=
  if w.trap.isNone then s
  else match s.engOp? id with
    | none => s
    | some e => (s.drainTile id e true).engComplete id

/-- Post a drain and retire; the path waits where an earlier access to the lines that it writes cannot be performed. -/
def State.postDrain (s : State) (c : Cur) (w : Warp) (e : EngOp) (os : List (Place × Nat)) : State :=
  match s.postTile c w e os with
  | none => s
  | some r => (r.2.drainPosted w r.1).retire c

/-- MDRAIN (R309, R310). -/
def execMdrain (d a b st : BitVec 8) (clr : BitVec 1) (s : State) : Host.Outcome State Fault Refusal :=
  issue (.mdrain d a b st clr) .none s (fun s c w =>
    match s.namedTile c.w w a with
    | .inl k => s.raiseWhole c k 0
    | .inr (t, _) => match s.dataForm w d b 16 with
      | .bad k sub => s.raiseWhole c k sub
      | .scratch h q =>
        s.postDrain c w (EngOp.make c w (.drain t h q (clr == 1) st) w.tileNo 1 none none) (s.drainLines c.w h q)
      | .regs n col q =>
        s.postDrain c w
          (EngOp.make c w (.drainReg t d.toNat n col q (clr == 1) st (w.path c.p).issueMask) w.tileNo 1 none none) [])

/-- MLOAD (R309); its register form reads its registers at issue, as a store does (R141, R359). -/
def execMload (d a b : BitVec 8) (s : State) : Host.Outcome State Fault Refusal :=
  issue (.mload d a b) .none s (fun s c w =>
    match s.namedTile c.w w d with
    | .inl k => s.raiseWhole c k 0
    | .inr (t, _) => match s.dataForm w a b 8 with
      | .bad k sub => s.raiseWhole c k sub
      | .scratch h q => s.postRetire c w (EngOp.make c w (.load t h q) w.tileNo 1 none none)
      | .regs n col q =>
        let lanes := (w.path c.p).issueMask
        match w.badLanes [{ code := a, word := 0, pre := false, lo := 8, accept := [.lane], width := n, dest := false }] lanes.lanes with
        | [] =>
          let vals := (drainCells a.toNat n col q lanes).foldl (fun (m : Assoc Word) z =>
            Assoc.put m z.2.2 (w.rd (BitVec.ofNat 8 z.1) z.2.1)) []
          s.postRetire c w (EngOp.make c w (.loadReg t vals) w.tileNo 1 none none)
        | l => s.raise c { code := 0x38, sub := 0, lanes := l.foldl (fun (m : Mask) i => m ||| Mask.bit i) 0, addrs := []
                           other := false } none)

/-! ## MACC (R300) -/

/-- The lowest free tile id of a workgroup. -/
def State.freeTile (s : State) (w : Warp) : Option Nat :=
  (numsFrom 0 (Nat.min 4 (s.headerField w Launch.acctiles))).find? (fun t =>
    ((s.group? w.team w.wg).bind (fun g => Assoc.at? g.tiles t)).all (fun x => x.owner.isNone))

def execMaccAlloc (d : BitVec 8) (s : State) : Host.Outcome State Fault Refusal :=
  issue (.maccAlloc d) .none s (fun s c w =>
    match s.freeTile w with
    | none => s.raiseWhole c 0x19 0
    | some t =>
      (s.setTile c.w t { Tile.reset with owner := some w.warpId }).retireWith c (fun w => w.wr d 0 (BitVec.ofNat 32 t)))

/-- A cause held by the tile's operations is delivered here (R314). -/
def execMaccFree (a : BitVec 8) (s : State) : Host.Outcome State Fault Refusal :=
  issue (.maccFree a) .none s (fun s c w =>
    match s.namedTile c.w w a with
    | .inl k => s.raiseWhole c k 0
    | .inr (t, _) =>
      if (s.tileOps c.w t).any (fun e => !e.2.complete) then s
      else match s.deliverHeld c (s.tileOps c.w t) [] with
        | some q => q
        | none => (s.updGroup w.team w.wg (fun g => { g with tiles := Assoc.erase g.tiles t })).retire c)

/-! ## Completion, batches and tokens (R301, R307, R308) -/

/-- All work of a tile operation is done. -/
def State.tileFinished (s : State) (id : Nat) : Bool :=
  (s.engOp? id).any (fun e => !e.kind.isCopy && !e.complete && e.paused.isNone && decide (e.total ≤ e.done) && !s.frozen e)

def execMatrixOperationComplete (id : Nat) (s : State) : Host.Outcome State Fault Refusal :=
  if s.tileFinished id then .next (s.engComplete id) else .refused .notEnabled

/-- The complete batches that MBATCH keeps in the warp's record: those that hold a cause, or an operation of theirs does. -/
def State.pruneBatches (s : State) (key : Nat) : State :=
  s.updWarp key (fun w => { w with batches := w.batches.filter (fun b =>
    !b.complete || b.cause.isSome || b.ops.any (fun id => (s.engOp? id).isSome)) })

/-- MBATCH (R307). -/
def execMbatch (d bar : BitVec 8) (s : State) : Host.Outcome State Fault Refusal :=
  issue (.mbatch d bar) .none s (fun s c w =>
    if 256 ≤ (w.batches.filter (fun b => !b.complete)).length then s.raiseWhole c 0x1E 0
    else
      let b : Batch := { seq := w.batchSeq, posted := s.fresh, pc := c.pc, ops := w.openBatch, bar := w.barOffset bar
                         cause := none, complete := false }
      let s1 : State := { s with fresh := s.fresh + 1 }
      (s1.pruneBatches c.w).retireWith c (fun w =>
        { w with batches := w.batches ++ [b], batchNo := w.batchNo + 1, batchSeq := w.batchSeq + 1, openBatch := []
                 tok := match tokenNo d with
                   | none => w.tok
                   | some t => Assoc.put w.tok t (.batch b.seq) }))

/-- The first incomplete batch of a warp, if its operations are complete: a warp's batches complete in order. -/
def State.batchReady (s : State) (key : Nat) : Option Batch :=
  match (s.warp? key).bind (fun w => w.batches.find? (fun b => !b.complete)) with
  | none => none
  | some b => if b.ops.all (fun id => (s.engOp? id).all (fun e => e.complete)) then some b else none

/-- A batch completes: it arrives on its barrier word; an arrival that fails is held as 0x2C (R307). -/
def execBatchComplete (key : Nat) (s : State) : Host.Outcome State Fault Refusal :=
  match s.batchReady key with
  | none => .refused .notEnabled
  | some b =>
    let r := match b.bar with
      | none => (none, s)
      | some off => s.engArrive key off false 0x2C
    let b1 : Batch := { b with complete := true, cause := r.1.map (fun _ => { code := 0x2C, sub := 0, time := s.clock }) }
    .next (r.2.updWarp key (fun w => { w with batches := w.batches.map (fun x => if x.seq = b.seq then b1 else x) }))

/-- The operations and batches that a token awaits: its batch and those before it. -/
def State.awaited (s : State) (key : Nat) (w : Warp) (t : Token) : List (Nat × EngOp) × List Batch :=
  match t with
  | .invalid => ([], [])
  | .op id => ((s.opsOf key).filter (fun e => e.1 == id), [])
  | .batch n =>
    let bs := w.batches.filter (fun b => decide (b.seq ≤ n))
    ((s.opsOf key).filter (fun e => bs.any (fun b => b.ops.contains e.1)), bs)

/-- A WAITT whose token is done delivers what is held for it, or retires (R308). -/
def State.endWaitt (s : State) (c : Cur) (w : Warp) (t : Token) : State :=
  let x := s.awaited c.w w t
  (s.deliverHeld c x.1 x.2).getD (s.retireSync c)

/-- The token of a field. -/
def Warp.token (w : Warp) (c : Code) : Token := Assoc.get w.tok Token.invalid ((tokenNo c).getD 0)

/-- WAITT (R308). -/
def execWaitt (a : BitVec 8) (s : State) : Host.Outcome State Fault Refusal :=
  issue (.waitt a) .none s (fun s c w =>
    let t := w.token a
    if t = .invalid then s.raiseWhole c 0x0B 0
    else if s.tokenBusy w t then s.parkAt c .waitt (.waitt a)
    else s.endWaitt c w t)

/-- The release of a held WAITT: its token is done. -/
def State.waittTry (s : State) (key : Nat) : Option State :=
  match s.warp? key with
  | none => none
  | some w => match w.held with
    | none => none
    | some h => match h.why, h.i with
      | .waitt, some (.waitt a) =>
        if s.tokenBusy w (w.token a) || w.halt.isSome then none else some ((s.unpark key).endWaitt h.cur w (w.token a))
      | _, _ => none

def execWaittRelease (key : Nat) (s : State) : Host.Outcome State Fault Refusal :=
  match s.waittTry key with
  | some t => .next t
  | none => .refused .notEnabled

end Sys2Proof.Machine
end

