-- ==== Sys2Proof/Machine/Memory.lean ====
section
/-!
DEFINITION. Loads and stores (R135 to R144), the constant space (R29, R103, R109), PREF and CFLUSH (R228, R229), and the
steps of the memory system: performing accesses (R236), completions (R144), misses and walks (R216, R217, R226), and the
reclaim of L1 (R207).
-/
namespace Sys2Proof.Machine

/-! ## Global loads and stores -/

/-- A global load. -/
def loadGlobal (i : Instr) (pf : Option Prefix) (d a : Code) (o : BitVec 3) (f : BitVec 5) (size : Nat) (signed : Bool)
    (s : State) : Host.Outcome State Fault Refusal :=
  issue i .none s (fun s c w =>
    s.globalAccess c w i pf { isLoad := true, d := d, size := size, signed := signed, order := o.toNat
                              once := onceLoad d a } a f.toNat)

/-- A global store. -/
def storeGlobal (i : Instr) (pf : Option Prefix) (d a : Code) (o : BitVec 3) (f : BitVec 5) (size : Nat) (s : State) :
    Host.Outcome State Fault Refusal :=
  issue i .none s (fun s c w =>
    s.globalAccess c w i pf { isLoad := false, d := d, size := size, signed := false, order := o.toNat
                              once := !(isLane d || isLane a) } a f.toNat)

def execLd8u (pf : Option Prefix) (d a : BitVec 8) (o : BitVec 3) (f : BitVec 5) (s : State) :
    Host.Outcome State Fault Refusal := loadGlobal (.ld8u pf d a o f) pf d a o f 1 false s
def execLd8s (pf : Option Prefix) (d a : BitVec 8) (o : BitVec 3) (f : BitVec 5) (s : State) :
    Host.Outcome State Fault Refusal := loadGlobal (.ld8s pf d a o f) pf d a o f 1 true s
def execLd16u (pf : Option Prefix) (d a : BitVec 8) (o : BitVec 3) (f : BitVec 5) (s : State) :
    Host.Outcome State Fault Refusal := loadGlobal (.ld16u pf d a o f) pf d a o f 2 false s
def execLd16s (pf : Option Prefix) (d a : BitVec 8) (o : BitVec 3) (f : BitVec 5) (s : State) :
    Host.Outcome State Fault Refusal := loadGlobal (.ld16s pf d a o f) pf d a o f 2 true s
def execLd32 (pf : Option Prefix) (d a : BitVec 8) (o : BitVec 3) (f : BitVec 5) (s : State) :
    Host.Outcome State Fault Refusal := loadGlobal (.ld32 pf d a o f) pf d a o f 4 false s
def execLd64 (pf : Option Prefix) (d a : BitVec 8) (o : BitVec 3) (f : BitVec 5) (s : State) :
    Host.Outcome State Fault Refusal := loadGlobal (.ld64 pf d a o f) pf d a o f 8 false s
def execLd128 (pf : Option Prefix) (d a : BitVec 8) (o : BitVec 3) (f : BitVec 5) (s : State) :
    Host.Outcome State Fault Refusal := loadGlobal (.ld128 pf d a o f) pf d a o f 16 false s
def execSt8 (pf : Option Prefix) (d a : BitVec 8) (o : BitVec 3) (f : BitVec 5) (s : State) :
    Host.Outcome State Fault Refusal := storeGlobal (.st8 pf d a o f) pf d a o f 1 s
def execSt16 (pf : Option Prefix) (d a : BitVec 8) (o : BitVec 3) (f : BitVec 5) (s : State) :
    Host.Outcome State Fault Refusal := storeGlobal (.st16 pf d a o f) pf d a o f 2 s
def execSt32 (pf : Option Prefix) (d a : BitVec 8) (o : BitVec 3) (f : BitVec 5) (s : State) :
    Host.Outcome State Fault Refusal := storeGlobal (.st32 pf d a o f) pf d a o f 4 s
def execSt64 (pf : Option Prefix) (d a : BitVec 8) (o : BitVec 3) (f : BitVec 5) (s : State) :
    Host.Outcome State Fault Refusal := storeGlobal (.st64 pf d a o f) pf d a o f 8 s
def execSt128 (pf : Option Prefix) (d a : BitVec 8) (o : BitVec 3) (f : BitVec 5) (s : State) :
    Host.Outcome State Fault Refusal := storeGlobal (.st128 pf d a o f) pf d a o f 16 s

/-! ## Scratchpad loads and stores -/

/-- A scratchpad load or store. -/
def scratchOp (i : Instr) (pf : Option Prefix) (d a : Code) (o : BitVec 3) (f : BitVec 5) (size : Nat) (isLoad : Bool)
    (s : State) : Host.Outcome State Fault Refusal :=
  issue i .none s (fun s c w =>
    s.scratchAccess c w i pf { isLoad := isLoad, d := d, size := size, signed := false, order := o.toNat
                               once := if isLoad then onceLoad d a else !(isLane d || isLane a) } a f.toNat)

def execLds32 (pf : Option Prefix) (d a : BitVec 8) (o : BitVec 3) (f : BitVec 5) (s : State) :
    Host.Outcome State Fault Refusal := scratchOp (.lds32 pf d a o f) pf d a o f 4 true s
def execSts32 (pf : Option Prefix) (d a : BitVec 8) (o : BitVec 3) (f : BitVec 5) (s : State) :
    Host.Outcome State Fault Refusal := scratchOp (.sts32 pf d a o f) pf d a o f 4 false s
def execLds128 (pf : Option Prefix) (d a : BitVec 8) (o : BitVec 3) (f : BitVec 5) (s : State) :
    Host.Outcome State Fault Refusal := scratchOp (.lds128 pf d a o f) pf d a o f 16 true s
def execSts128 (pf : Option Prefix) (d a : BitVec 8) (o : BitVec 3) (f : BitVec 5) (s : State) :
    Host.Outcome State Fault Refusal := scratchOp (.sts128 pf d a o f) pf d a o f 16 false s

/-! ## The constant space (R29) -/

/-- An instruction that reads one constant word per lane at these byte offsets: 0x23 at or beyond the constant-bank size,
then the read's own causes. A word altered while its launch runs reads as memory then has it (R29; DESIGN CHOICE, log entry
68). -/
def constOp (i : Instr) (pf : Option Prefix) (once : Bool) (d : Code) (s : State) (at_ : Warp → Nat → Nat)
    (f : Warp → Nat → Nat → Res Word) : Host.Outcome State Fault Refusal :=
  issue i .none s (fun s c w =>
    let on := w.onLanes pf once c
    let base := ((s.launchOf w).map (fun l => l.args.toNat)).getD 0
    let form := s.formLanes c w (operandsOf i) on false true false 4 (fun l =>
      if s.headerField w Launch.constSize ≤ at_ w l then .bad rowForm 0x23 0 else .at (base + at_ w l))
    match s.readLanes c w once 4 form.2 with
    | .hold q => q
    | .done vals late q =>
      let good := form.2.filter (fun a => !late.any (fun x => x.lane == a.lane))
      let w1 := good.foldl (fun (x : Warp) a =>
        match f w a.lane (readValue vals a.lane) with
        | .ok v fl =>
          let y := x.wr d a.lane v
          if once then y.orFlagsOf c.lanes.lanes fl else y.orFlags a.lane fl
        | .bad _ _ _ _ => x) w
      let w2 := if !once && w.zeroPolicy pf then
          (c.lanes.lanes.filter (fun l => !(w.guardOf pf).getLsbD l)).foldl (fun (x : Warp) l => x.wr d l 0) w1
        else w1
      match c.causeOf once (form.1 ++ late) with
      | none => (q.setWarp c.w w2).retire c
      | some x => (q.setWarp c.w w2).raise c x none)

/-- LDC (R103). -/
def execLdc (pf : Option Prefix) (d a : BitVec 8) (f : BitVec 5) (s : State) : Host.Outcome State Fault Refusal :=
  constOp (.ldc pf d a f) pf (onceR d [a]) d s (fun w l => ((w.rd a l).toNat + 4 * f.toNat) / 4 * 4)
    (fun _ _ v => .ok (BitVec.ofNat 32 v) 0)

/-- FFMC (R109): c × a + K, NaNs in the order a, K, c. -/
def execFfmc (pf : Option Prefix) (d a n : BitVec 8) (s : State) : Host.Outcome State Fault Refusal :=
  constOp (.ffmc pf d a n) pf (onceR d [srcD pf d, a]) d s (fun _ _ => 4 * n.toNat) (fun w l k =>
    let f := w.fpType pf
    let x := f.unpack ((w.rd a l).toNat % 2 ^ f.width)
    let y := f.unpack (k % 2 ^ f.width)
    let z := f.unpack ((w.rd (srcD pf d) l).toNat % 2 ^ f.width)
    let r := fmaInto f f (w.rounding pf) [x, y, z] z x y
    .ok (BitVec.ofNat 32 r.1) r.2)

/-! ## PREF and CFLUSH (R228, R229) -/

/-- The addresses of PREF and CFLUSH: of the guarded-on lanes, or one. -/
def Warp.lineAddrs (w : Warp) (c : Cur) (a : Code) : List LaneAddr :=
  (w.onLanes none (!isLane a) c).map (fun l => { lane := l, va := (w.rdPair a l).toNat })

/-- Request the fill of a line; what would raise a cause, or is not cached, is dropped (R228). -/
def State.prefetch (s : State) (c : Cur) (w : Warp) (l1 : Bool) (va : Nat) : State :=
  if 2 ^ 56 ≤ va then s
  else match s.look w.asid (some w.team) va with
    | .miss t l => s.postMiss t l (some w.team) (if l1 then some (coreOfKey c.w) else none) true
    | .cause _ _ => s
    | .absent _ _ => s
    | .hit h => if l1 then s.readThrough (coreOfKey c.w) h else s

/-- PREF at a level. -/
def prefetchOp (i : Instr) (l1 : Bool) (a : Code) (s : State) : Host.Outcome State Fault Refusal :=
  issue i .none s (fun s c w =>
    let bad := w.badLanes (operandsOf i) (w.onLanes none (!isLane a) c)
    let s1 := ((w.lineAddrs c a).filter (fun x => !bad.contains x.lane)).foldl (fun (s : State) x => s.prefetch c w l1 x.va) s
    match c.causeOf (!isLane a) (bad.map (fun l => { lane := l, row := rowReg, code := 0x38, sub := 0, addr := 0 })) with
    | none => s1.retire c
    | some x => s1.raise c x none)

def execPref (a : BitVec 8) (s : State) : Host.Outcome State Fault Refusal := prefetchOp (.pref a) false a s
def execPrefL1 (a : BitVec 8) (s : State) : Host.Outcome State Fault Refusal := prefetchOp (.prefL1 a) true a s

/-- Drop a line from every L1. -/
def State.dropAllL1 (s : State) (tasid line : Nat) : State := s.dropL1 none tasid line

/-- Write a line back; `inv` also invalidates it, a slice-pinned line only in L1 (R229). Accesses already issued to it are
performed first; none while something holds them. -/
def State.flushLine (s : State) (inv : Bool) (tasid line : Nat) : Option State :=
  match s.findLine tasid line with
  | none => some s
  | some _ =>
    (s.settleAt (.line tasid line) 0 128).map (fun s1 =>
      match s1.findLine tasid line with
      | none => s1
      | some l =>
        if inv && l.home == 0 then s1.dropLine l
        else
          let s2 := (s1.writeBack l).updLine tasid line (fun l => { l with dirty := false })
          if inv then s2.dropAllL1 tasid line else s2)

/-- CFLUSH: lanes with a bit of [63:56] set raise 0x24, the others flush their lines. -/
def cflushOp (i : Instr) (inv : Bool) (a : Code) (s : State) : Host.Outcome State Fault Refusal :=
  issue i .none s (fun s c w =>
    let regs := w.badLanes (operandsOf i) (w.onLanes none (!isLane a) c)
    let as := (w.lineAddrs c a).filter (fun x => !regs.contains x.lane)
    let bad := as.filter (fun x => decide (2 ^ 56 ≤ x.va))
    match (as.filter (fun x => decide (x.va < 2 ^ 56))).foldl (fun (t : Option State) x =>
        t.bind (fun s => s.flushLine inv (tagAsid w.asid x.va) (lineOf x.va))) (some s) with
    | none => s
    | some s1 =>
      match c.causeOf (!isLane a) (regs.map (fun l => { lane := l, row := rowReg, code := 0x38, sub := 0, addr := 0 }) ++ bad.map (fun x =>
          { lane := x.lane, row := rowForm, code := 0x24, sub := 0, addr := BitVec.ofNat 64 x.va })) with
      | none => s1.retire c
      | some x => s1.raise c x none)

def execCflushWb (a : BitVec 8) (s : State) : Host.Outcome State Fault Refusal := cflushOp (.cflushWb a) false a s
/-- DEDUCED, log entry 62. -/
def execCflushInv (a : BitVec 8) (s : State) : Host.Outcome State Fault Refusal := cflushOp (.cflushInv a) true a s

/-! ## Performing and completing (R144, R145, R236) -/

/-- An access may be performed: it is local and nothing that must precede it is pending (R236, R237). -/
def State.performReady (s : State) (k : Nat) : Bool :=
  match Assoc.at? s.accesses k with
  | none => false
  | some a => a.remote.isNone && s.canPerform k a && s.wayAwake a

def execAccessPerform (k : Nat) (s : State) : Host.Outcome State Fault Refusal :=
  if s.performReady k then
    match Assoc.at? s.accesses k with
    | some a => .next ((s.perform k a).touchWay a)
    | none => .refused .notEnabled
  else .refused .notEnabled

/-- Every access of an instruction is performed, and no lane is still to be replayed (R144). -/
def State.opDone (s : State) (k : Nat) (load : Bool) : Bool :=
  match Assoc.at? s.outs k with
  | none => false
  | some o => o.isLoad == load && !o.more && !s.accesses.any (fun a => a.2.op == k)

/-- The accesses of the lanes of a load that met no cause are performed, while others wait for their replay (R218). -/
def State.loadPart (s : State) (k : Nat) : Bool :=
  match Assoc.at? s.outs k with
  | none => false
  | some o => o.isLoad && o.more && o.lanes != 0 && !s.accesses.any (fun a => a.2.op == k)

/-- The values of a load go to its destination and its counter falls in issue order (R144, R145); while lanes have still to be
replayed only the others' destinations are written (R218). -/
def State.completeLoad (s : State) (k : Nat) (o : OutOp) : State :=
  let s1 := { s with outs := if o.more then Assoc.put s.outs k { o with lanes := 0 } else Assoc.erase s.outs k }
  s1.updWarp o.w (fun w =>
    let w1 := o.lanes.lanes.foldl (fun (x : Warp) l => x.wrWords o.dst l (o.words l)) w
    { w1 with loads := if o.more then w1.loads else complete w1.loads k })

def execLoadCompletion (k : Nat) (s : State) : Host.Outcome State Fault Refusal :=
  if s.opDone k true || s.loadPart k then
    match Assoc.at? s.outs k with
    | some o => .next (s.completeLoad k o)
    | none => .refused .notEnabled
  else .refused .notEnabled

def execStoreAcknowledge (k : Nat) (s : State) : Host.Outcome State Fault Refusal :=
  if s.opDone k false then
    match Assoc.at? s.outs k with
    | some o =>
      .next ({ s with outs := Assoc.erase s.outs k }.updWarp o.w (fun w => { w with stores := complete w.stores k }))
    | none => .refused .notEnabled
  else .refused .notEnabled

/-! ## Misses and walks (R216, R217, R226) -/

/-- A miss has one of its slice's miss registers (R226). -/
def State.hasRegister (s : State) (k : Nat) (m : Miss) : Bool :=
  decide ((s.misses.filter (fun e => decide (e.1 < k) &&
    homeSlice e.2.asid e.2.line == homeSlice m.asid m.line)).length < Config.missRegs)

/-- A walk is due: the translation is not at hand (R217). -/
def State.walkReady (s : State) (k : Nat) : Bool :=
  match Assoc.at? s.misses k with
  | none => false
  | some m => m.result == .pending && s.hasRegister k m && (s.findTlb m.asid (m.line * 128)).isNone

/-- A prefetch's fill that cannot be made is dropped (R228). -/
def State.translateQuiet (s : State) (k : Nat) (m : Miss) : State :=
  let s := s.wakeWalk m.asid (m.line * 128)
  let gone := { s with misses := Assoc.erase s.misses k }
  match s.walk m.asid (m.line * 128) with
  | .fault _ _ => gone
  | .leaf _ _ pa attr => if s.isLocal pa ∧ (attrHome attr).toNat < 2 then s.translateMiss k m else gone

def execTranslationRequest (k : Nat) (s : State) : Host.Outcome State Fault Refusal :=
  if s.walkReady k then
    match Assoc.at? s.misses k with
    | some m => .next (if m.quiet then s.translateQuiet k m else s.translateMiss k m)
    | none => .refused .notEnabled
  else .refused .notEnabled

/-- A miss can be answered: its translation is at hand (R226). -/
def State.missReady (s : State) (k : Nat) : Bool :=
  match Assoc.at? s.misses k with
  | none => false
  | some m => m.result == .pending && s.hasRegister k m && (s.findTlb m.asid (m.line * 128)).isSome &&
      !s.asleep (.slice (homeSlice m.asid m.line))

def execSliceMiss (k : Nat) (s : State) : Host.Outcome State Fault Refusal :=
  if s.missReady k then
    match Assoc.at? s.misses k with
    | none => .refused .notEnabled
    | some m => match s.findTlb m.asid (m.line * 128) with
      | some e =>
        let s1 := { s with tlb := s.tlb.map (fun x => if x = e then { x with used := s.cycle } else x) }
        .next ((s1.answerMiss k m e).touch (.slice (homeSlice m.asid m.line)))
      | none => .refused .notEnabled
  else .refused .notEnabled

/-- The slot that a walk waits for is free of other teams and of other pages (R216). -/
def State.slotFree (s : State) (k : Nat) : Bool :=
  match Assoc.at? s.misses k with
  | none => false
  | some m => match m.result with
    | .waitSlot c n pa _ => s.slotHolders c n == [] && (s.findPinned c n).all (fun p => p.pa == pa)
    | .pending => false
    | .noCore _ _ => false
    | .fault _ _ => false

def execCorePinnedSlotWaitEnd (k : Nat) (s : State) : Host.Outcome State Fault Refusal :=
  if s.slotFree k then
    match Assoc.at? s.misses k with
    | some m => .next (s.translateMiss k { m with result := .pending })
    | none => .refused .notEnabled
  else .refused .notEnabled

/-! ## L1 reclaim (R207) -/

/-- Units of a core are asked back, and no fill is in flight into its L1. -/
def State.reclaimReady (s : State) (core : Nat) : Bool :=
  decide (0 < (s.core core).reclaim) && !s.misses.any (fun m => m.2.l1.contains core)

/-- The lines of the reclaimed units are invalidated, then the units become reserved. -/
def execL1Reclaim (core : Nat) (s : State) : Host.Outcome State Fault Refusal :=
  if s.reclaimReady core then
    .next (s.updCore core (fun c =>
      let keep := c.lent - c.reclaim
      { c with lent := keep, reclaim := 0, l1 := c.l1.filter (fun l => decide (l.unit < keep)) }))
  else .refused .notEnabled

end Sys2Proof.Machine
end

