-- ==== Sys2Proof/Machine/Power.lean ====
section
/-!
DEFINITION. The host's attachment (R395, R396), the staged start (R387, R397 to R399), power states (R400) and throttling
(R401).
-/
namespace Sys2Proof.Machine

/-! ## Start (R397 to R399) -/

/-- Memory and poison of other devices, which outlast this one's start. -/
def State.foreign (s : State) : Memory × Assoc Bool :=
  (s.mem.filter (fun c => !s.isLocal c.1), s.poison.filter (fun c => !s.isLocal (c.1 * 32)))

/-- The package without power: what stands outside it stays (DESIGN CHOICE, log entry 39). -/
def State.unpowered (s : State) : State :=
  { State.reset with
    mem := s.foreign.1, poison := s.foreign.2, inputs := s.inputs, free := s.free, fresh := s.fresh
    flash := s.flash, hw := s.hw, device := s.hw.device.toNat, routes := s.routes, peerHold := s.peerHold }

/-- Stage 0: secure boot verifies the firmware image and fixes the lock state, or start has failed
(DESIGN CHOICE, log entry 12). -/
def State.secureBoot (s : State) : State :=
  match s.flash with
  | some f =>
    if f.verifies then { s with boot := .stage0, stage := 1, startFailed := false, verified := some f, lock := f.lock }
    else { s with boot := .stage0, stage := 0, startFailed := true }
  | none => { s with boot := .stage0, stage := 0, startFailed := true }

/-- Power-good begins the start; the first one is cold. -/
def execPowerGood (s : State) : Host.Outcome State Fault Refusal :=
  if s.boot = .off then .next s.unpowered.secureBoot else .refused .notEnabled

/-- What a stop of all warps does with an access that one has issued (R355, R398): it is performed; but a remote one fares as
`remoteOne` says, and one whose request is out on a route that does not answer has been performed or not (R391). -/
def State.lastAccess (s : State) (k : Nat) (a : Access) : State :=
  match a.remote with
  | none => s.perform k a
  | some d =>
    if Assoc.get s.routes Route.up d = Route.up ∨ (a.sent = 0 ∧ Assoc.get s.routes Route.up d = Route.down) then (s.remoteOne (s.laneUnits k a)).2
    else s.maybePerform k a

/-- All that a start finds empty (R398, R399): warps, teams, launches, caches, engines, contexts, the fault log. Accesses that
warps have issued are performed; lines dirty in L2 are lost (DEDUCED, log entry 42). -/
def State.stopAll (s : State) : State :=
  let q := s.accesses.foldl (fun (q : State) e => if (Assoc.at? q.accesses e.1).isSome then q.lastAccess e.1 e.2 else q) s
  { s.unpowered with
    mem := q.mem, poison := q.poison, device := s.device, verified := s.verified, lock := s.lock, mbox := s.mbox
    winbase := s.winbase, mailbox := s.mailbox, failed := s.failed, throttled := s.throttled, slow := s.slow, free := q.free, boot := .stage0
    stage := 1 }

/-- A START write (R398): in stage 3 the device stops and stage 1 begins; after a failed start the stage that failed runs
again; else it is ignored. -/
def State.startWrite (s : State) (warm selftest : Bool) : State :=
  if s.boot = .stage3 then { s.stopAll with warm := warm, selftest := selftest }
  else if s.startFailed then
    let q := { s with startFailed := false, warm := warm, selftest := selftest }
    if s.stage = 0 then q.secureBoot else q
  else s

def execStartCold (selftest : Bool) (s : State) : Host.Outcome State Fault Refusal := .next (s.startWrite false selftest)
def execStartWarm (selftest : Bool) (s : State) : Host.Outcome State Fault Refusal := .next (s.startWrite true selftest)

/-- A die's training is skipped: a warm start finds its saved results within the band (R397). -/
def State.trained (s : State) (die : Nat) : Bool := s.warm && s.hw.inBand.getLsbD die

/-- Self-test runs (R397). -/
def State.tests (s : State) : Bool := !s.warm || s.selftest

/-- The dies that stage 1 finds failed (R3, R387): a die whose training and self-test are both skipped is as it was. -/
def State.failures (s : State) : BitVec 4 :=
  [0, 1, 2, 3].foldl (fun (m : BitVec 4) d =>
    let bad := if s.trained d && !s.tests then s.failed.getLsbD d else s.hw.dieFail.getLsbD d
    if bad then m ||| (1#4 <<< d) else m) 0

/-- Stage 1 is under way. -/
def State.stage1Ready (s : State) : Bool := s.boot == .stage0 && s.stage == 1 && !s.startFailed

/-- Stage 1 (R387, R397): failed dies are marked; a failed slice, station or translation unit keeps the package here. After a
cold start the contents of this device's memory are undefined and start unlisted (DESIGN CHOICE, log entry 1). -/
def execStartStage1 (s : State) : Host.Outcome State Fault Refusal :=
  if s.stage1Ready then
    let q := if s.warm then s else { s with mem := s.foreign.1, poison := s.foreign.2 }
    if s.tests && s.hw.pkgFail then .next { q with failed := s.failures, startFailed := true }
    else .next { q with failed := s.failures, boot := .stage1, stage := 2 }
  else .refused .notEnabled

/-- The launch record of a resident supervisor warp (R399): one team of one warp, weak, priority 7, launch privilege. -/
def supervisorRecord (header args : DWord) : List Byte :=
  bytesOfNat 8 header.toNat ++ zeros 4 ++ [1, 1, 2, 7] ++ bytesOfNat 8 args.toNat ++ zeros 8 ++ zeros 5 ++ [1] ++ zeros 90

/-- One resident launch on each working die, its team yet to be admitted. The image's header is taken as it stands, and a header that
cannot be read leaves no launch (DESIGN CHOICE, log entry 71). -/
def State.residentLaunches (s : State) (f : Firmware) : State :=
  match s.loadNow supervisorWho f.header.toNat 256 with
  | .ok h q =>
    ([0, 1, 2, 3].filter (fun d => !s.failed.getLsbD d)).foldl (fun (q : State) d =>
      let l := Launch.ofRecord (supervisorRecord f.header f.args) h.1 d 0 0 none (1#4 <<< d)
      { q with launches := Assoc.put q.launches q.fresh { l with order := q.fresh, cls := 2 }, fresh := q.fresh + 1 }) q
  | .cause _ _ q => q
  | .wait q => q

/-- Stage 2 (R399): the image is placed in stack 0, the ASID table, mailbox word and winbase are set, the supervisor context is
created with ASID 0 live. -/
def execStartStage2 (s : State) : Host.Outcome State Fault Refusal :=
  if s.boot = .stage1 then
    match s.verified with
    | none => .refused .notEnabled
    | some f =>
      let mem := f.bytes.foldl (fun (m : Memory) e => if e.1 < 64 * 10 ^ 9 then Memory.write m (s.sysPa e.1) e.2 else m) s.mem
      let q := { s with mem := mem, asidTable := f.asidTable, mailbox := f.mailbox
                        winbase := f.winbase &&& 0xFFFFFFFFF0000000, live := 1, boot := .stage2 }
      .next ((q.updCtx 0 (fun k => { k with launchPriv := true })).residentLaunches f)
  else .refused .notEnabled

/-! ## Host writes (R395, R396) -/

/-- A write of mbox: in stage 3 it is kept and stored to the mailbox word, a release after every earlier host write, which are
all performed; before stage 3 it is discarded (DEDUCED, log entry 40). The stack controller wakes for it (R400). -/
def State.mboxStore (s : State) (v : Word) : State :=
  if s.boot = .stage3 then
    let q := { s with mbox := v }
    if s.inHbm s.mailbox then
      (q.poke .phys (s.sysPa s.mailbox) (bytesOfNat 4 v.toNat)).wake (s.homeBlock .phys (s.sysPa s.mailbox) none)
    else q
  else s

def execMboxWrite (v : BitVec 32) (s : State) : Host.Outcome State Fault Refusal := .next (s.mboxStore v)

/-- A write of a BAR0 register: winbase takes its upper bits in the fully authorised state; START and mbox do as their own
writes; every other offset ignores writes. -/
def execBar0RegisterWrite (off : Nat) (v : BitVec 64) (s : State) : Host.Outcome State Fault Refusal :=
  if s.boot = .off then .next s
  else if off = 0x010 then .next (if s.lock = .full then { s with winbase := v &&& 0xFFFFFFFFF0000000 } else s)
  else if off = 0x00C then .next (s.mboxStore (v.extractLsb' 0 32))
  else if off = 0x008 then
    .next (if v.extractLsb' 0 2 = 1 then s.startWrite false (v.getLsbD 2)
      else if v.extractLsb' 0 2 = 2 then s.startWrite true (v.getLsbD 2) else s)
  else .next s

/-- The code of a lock state (R395). -/
def lockCode (l : Lock) : Nat :=
  match l with
  | .locked => 0
  | .nonSecure => 1
  | .full => 2

/-- What a read of the 32-bit BAR0 register at an offset answers (R395); it changes nothing. -/
def State.bar0Read (s : State) (off : Nat) : Word :=
  let flag := fun (b : Bool) (i : Nat) => if b then 2 ^ i else 0
  if s.boot = .off then 0
  else if off = 0x000 then BitVec.ofNat 32 (0x00A40000 + s.hw.stepping % 256 * 256 + s.hw.order % 256)
  else if off = 0x004 then
    BitVec.ofNat 32 (s.throttled.toNat * 2 ^ 24 + s.failed.toNat * 2 ^ 20 + lockCode s.lock * 2 ^ 18 + flag s.startFailed 17 +
      flag s.warm 16 + s.stage % 4)
  else if off = 0x00C then s.mbox
  else if off = 0x010 then s.winbase.setWidth 32
  else if off = 0x014 then s.winbase.extractLsb' 32 32
  else 0

/-- What a read through BAR2 answers (R395): the bytes of memory, or none where an address is absent. -/
def State.bar2Read (s : State) (off n : Nat) : Option (List Byte) :=
  let pa := s.winbase.toNat + off
  if (numsFrom 0 n).all (fun j => s.paPresent (pa + j)) then some (s.peekBytes .phys (s.sysPa pa) n) else none

/-- An access through BAR2 (R395): uncached at winbase plus the offset, after its stack controller has woken; without effect
where an address is absent. A read changes nothing. -/
def execBar2WindowAccess (off : Nat) (data : List (BitVec 8)) (write : Bool) (s : State) :
    Host.Outcome State Fault Refusal :=
  let pa := s.winbase.toNat + off
  let ok := s.boot != .off && decide (off + data.length ≤ 2 ^ 28) &&
    (numsFrom 0 data.length).all (fun j => s.paPresent (pa + j))
  if ok then
    let q := s.wake (s.homeBlock .phys (s.sysPa pa) none)
    .next (if write then q.poke .phys (s.sysPa pa) data else q)
  else .next s

/-! ## Power states (R400) -/

/-- The block exists. -/
def blockPresent (b : Block) : Bool :=
  match b with
  | .core n => decide (n < 256)
  | .slice n => decide (n < 128)
  | .bridge n => decide (n < 16)
  | .stack n => decide (n < 12)
  | .port n => decide (n < 20)

/-- All blocks: cores, slices, bridge stations, stack controllers, link ports (R4, R400). -/
def allBlocks : List Block :=
  (numsFrom 0 256).map Block.core ++ (numsFrom 0 128).map Block.slice ++ (numsFrom 0 16).map Block.bridge ++
    (numsFrom 0 12).map Block.stack ++ (numsFrom 0 20).map Block.port

/-- Cycles of its own clock since a block last had something to do (R401; DESIGN CHOICE, log entry 38). -/
def State.idleFor (s : State) (b : Block) : Nat := s.ownClock b - Assoc.get s.active 0 (blockCode b)

/-- A request waits for the block, or a warp that could issue. -/
def State.wanted (s : State) (b : Block) : Bool :=
  s.accesses.any (fun a => s.homeOf a.2 == b) ||
    match b with
    | .core n => s.warps.any (fun e => coreOfKey e.1 == n && (s.offerAwake e.1 e.2).isSome) ||
        s.engines.any (fun e => e.2.core == n && !e.2.complete && e.2.paused.isNone)
    | .slice n => s.misses.any (fun m => homeSlice m.2.asid m.2.line == n && m.2.result == .pending)
    | .bridge n => s.accesses.any (fun a => (s.bridgesOf a.2).contains (.bridge n))
    | .stack _ => false
    | .port _ => false

/-- The block enters idle. -/
def State.idles (s : State) (b : Block) : Bool :=
  blockPresent b && s.powerOf b == .run && decide (64 ≤ s.idleFor b) && !s.wanted b

/-- The block becomes clock-gated. -/
def State.gates (s : State) (b : Block) : Bool :=
  blockPresent b && s.powerOf b == .idle && decide (64 + 4096 ≤ s.idleFor b) && !s.wanted b

/-- Where `active` keeps the last cycle in which a core had a resident warp or a posted operation. -/
def vacantCode (core : Nat) : Nat := 5000 + core

/-- Cycles of its own clock since a core last had a resident warp or a posted operation (R400). -/
def State.vacantFor (s : State) (core : Nat) : Nat := s.ownClock (.core core) - Assoc.get s.active 0 (vacantCode core)

/-- The cores that have resident warps or posted operations in this cycle are noted. -/
def State.noteOccupied (s : State) : State :=
  ((s.warps.map (fun e => coreOfKey e.1) ++ s.engines.map (fun e => e.2.core)).eraseDups).foldl (fun (s : State) n =>
    { s with active := Assoc.set s.active 0 (vacantCode n) (s.ownClock (.core n)) }) s

/-- The core, without resident warps and posted operations for 2^20 cycles, enters retention. -/
def State.retains (s : State) (core : Nat) : Bool :=
  decide (core < 256) && s.powerOf (.core core) == .gated && decide (2 ^ 20 ≤ s.vacantFor core) &&
    !s.warps.any (fun e => coreOfKey e.1 == core) && !s.engines.any (fun e => e.2.core == core) && !s.wanted (.core core)

/-- A core in retention: lent L1 is discarded. -/
def State.retain (s : State) (core : Nat) : State :=
  { (s.updCore core (fun c => { c with l1 := [] })) with power := Assoc.put s.power core .retention }

/-- A block chooses its power state. -/
def State.choosePower (s : State) (b : Block) : State :=
  if s.idles b then { s with power := Assoc.put s.power (blockCode b) .idle }
  else if s.gates b then { s with power := Assoc.put s.power (blockCode b) .gated }
  else match b with
    | .core n => if s.retains n then s.retain n else s
    | .slice _ => s
    | .bridge _ => s
    | .stack _ => s
    | .port _ => s

/-- Every block that has had nothing to do chooses its power state, in each cycle (R400; DESIGN CHOICE, log entry 38). -/
def State.choosePowers (s : State) : State :=
  let q := s.noteOccupied
  if q.boot = .off ∨ q.cycle < 64 then q
  else allBlocks.foldl (fun (s : State) b => if 64 ≤ s.idleFor b then s.choosePower b else s) q

def execIdleEntry (b : Block) (s : State) : Host.Outcome State Fault Refusal :=
  if s.idles b then .next { s with power := Assoc.put s.power (blockCode b) .idle } else .refused .notEnabled

def execClockGateEntry (b : Block) (s : State) : Host.Outcome State Fault Refusal :=
  if s.gates b then .next { s with power := Assoc.put s.power (blockCode b) .gated } else .refused .notEnabled

def execRetentionEntry (core : Nat) (s : State) : Host.Outcome State Fault Refusal :=
  if s.retains core then .next (s.retain core) else .refused .notEnabled

/-- A sleeping block wakes for a request that waits for it. -/
def State.wakeReady (s : State) (b : Block) : Bool := blockPresent b && s.asleep b && s.wanted b

def execPowerWake (b : Block) (s : State) : Host.Outcome State Fault Refusal :=
  if s.wakeReady b then .next (s.wake b) else .refused .notEnabled

/-! ## Throttling (R401) -/

/-- A die's clock is halved once more, or restored; STATUS shows it while it is slowed. -/
def execDieThrottle (die : Nat) (up : Bool) (s : State) : Host.Outcome State Fault Refusal :=
  if die < Config.dies then
    .next { s with throttled := if up then s.throttled ||| (1#4 <<< die) else s.throttled &&& ~~~(1#4 <<< die)
                   slow := Assoc.set s.slow 0 die (if up then Assoc.get s.slow 0 die + 1 else 0) }
  else .refused .notEnabled

/-- The controller removes power from the package. -/
def execCriticalTemperature (s : State) : Host.Outcome State Fault Refusal := .next s.unpowered

end Sys2Proof.Machine
end

