-- ==== Sys2Proof/Machine/Translation.lean ====
section
/-!
DEFINITION. TLBINV, ASINV (R230, R231) and CLRSET (R232).
-/
namespace Sys2Proof.Machine

/-! ## Invalidation (R230) -/

/-- Engine ownership of the selected places is recalled: the operations go on without it, and their writes are performed
under the new translation (R230, R295); the issuing warp's later accesses still stand after them (R248). -/
def State.recallOwners (s : State) (sel : Place × Nat → Bool) : State :=
  { s with engines := s.engines.map (fun e =>
      (e.1, { e.2 with owned := e.2.owned.filter (fun o => !sel o), bound := e.2.bound ++ e.2.owned.filter sel })) }

/-- A present page was found by a translation that an invalidation selects. -/
def Pinned.selected (p : Pinned) (asid : Nat → Bool) (page : Nat → Bool) : Bool :=
  p.maps.any (fun m => asid m.1 && page m.2)

/-- The places that hold what the selected pages hold (R230): cached lines and present core-pinned pages. -/
def State.selectedPlace (s : State) (asid : Nat → Bool) (page : Nat → Bool) (p : Place) : Bool :=
  match p with
  | .line t n => asid t && page (n * 128)
  | .phys => false
  | .pinned c k => s.pinned.any (fun x => x.core == c && x.slot == k && x.selected asid page)
  | .scratch _ _ => false

/-- A pending access goes through a selected page: its place, or the address that its lane formed for an uncached one. -/
def State.selectedAccess (s : State) (asid : Nat → Bool) (page : Nat → Bool) (a : Access) : Bool :=
  match a.place with
  | .phys => (s.warp? a.w).any (fun w => a.parts.any (fun p => asid (tagAsid w.asid p.va) && page p.va))
  | p => s.selectedPlace asid page p

/-- What invalidation does once no access to a selected page is pending: dirty lines are written back, lines and core-pinned pages
dropped, translations removed, misses walked anew (R230). -/
def State.dropSelected (s : State) (asid : Nat → Bool) (page : Nat → Bool) : State :=
  let s1 := (s.l2.filter (fun l => asid l.asid && page (l.line * 128))).foldl State.dropLine s
  let s2 := (s1.pinned.filter (fun p => p.selected asid page)).foldl State.dropPinned s1
  { s2 with tlb := s2.tlb.filter (fun e => !(asid e.asid && page e.base))
            misses := s2.misses.map (fun m =>
              if asid m.2.asid && page (m.2.line * 128) then (m.1, { m.2 with result := .pending }) else m) }

/-- Perform pending accesses as `settle` does. One that stands after the write of an operation which is paused, and whose ownership is
recalled, does not wait for it (DESIGN CHOICE, log entry 84). -/
def State.settlePast (s : State) (seed : Nat → Access → Bool) : Option State :=
  match s.settle seed with
  | some q => some q
  | none =>
    let free : State := { s with engines := s.engines.map (fun e => if e.2.paused.isSome then (e.1, { e.2 with bound := [] }) else e) }
    (free.settle seed).map (fun q => { q with engines := s.engines })

/-- Invalidate what an ASID's pages hold, those that `page` selects by virtual address (R230). Engine ownership is recalled; the
accesses that are pending to them reach the old physical memory first. While one of these cannot be performed within the step
(its peer has not answered, or another access stands before it) the invalidation waits: the answer is the state to wait in. -/
def State.invalidate (s : State) (asid : Nat → Bool) (page : Nat → Bool) (then_ : State → State) : State :=
  let s1 := s.recallOwners (fun o => s.selectedPlace asid page o.1)
  match s1.settlePast (fun _ a => s1.selectedAccess asid page a) with
  | none => s1
  | some s2 => then_ (s2.dropSelected asid page)

/-- Two addresses lie in one page: of a cached translation, of a line that L2 holds, or of the walk; at least in one granule of
64 KiB (R230: every page of any size containing the address). -/
def samePage (s : State) (t va : Nat) (x : Nat) : Bool :=
  let both := fun (base size : Nat) => decide (base ≤ va) && decide (va < base + size) && decide (base ≤ x) &&
    decide (x < base + size)
  x / 65536 == va / 65536 || s.tlb.any (fun e => e.asid == t && both e.base e.size) ||
    s.l2.any (fun l => l.asid == t && both l.base l.size) ||
    match s.walk t va with
    | .leaf base size _ _ => both base size
    | .fault _ _ => false

/-- What follows every TLBINV and ASINV: failed distributor accesses and held log entries are tried again (R159, R353). -/
def State.afterInvalidate (s : State) (c : Cur) : State := (s.retryLog).retryLaunches (dieOfCore (coreOfKey c.w))

/-- The page form: an address with VA[55] = 1 uses ASID 0. -/
def execTlbinvPage (a b : BitVec 8) (s : State) : Host.Outcome State Fault Refusal :=
  issue (.tlbinvPage a b) .supervisor s (fun s c w =>
    let va := (w.rdPair a 0).toNat
    let asid := (w.rd b 0).toNat
    if 512 ≤ asid then s.raiseWhole c 0x33 2
    else if 2 ^ 56 ≤ va then s.raiseAt c 0x24 0 va
    else
      let t := tagAsid asid va
      s.invalidate (fun x => x == t) (samePage s t va) (fun s => (s.afterInvalidate c).retire c))

/-- The valid bit of an ASID's table entry (R211). -/
def State.asidValid (s : State) (asid : Nat) : Bool :=
  (Memory.read s.mem (s.sysPa (s.asidTable + 16 * asid) + 8)).getLsbD 0

/-- Load or clear an ASID's live bit. -/
def State.setLive (s : State) (asid : Nat) (b : Bool) : State :=
  { s with live := if b then s.live ||| (1#512 <<< asid) else s.live &&& ~~~(1#512 <<< asid) }

def execTlbinvAsid (b : BitVec 8) (s : State) : Host.Outcome State Fault Refusal :=
  issue (.tlbinvAsid b) .supervisor s (fun s c w =>
    let asid := (w.rd b 0).toNat
    if 512 ≤ asid then s.raiseWhole c 0x33 2
    else
      s.invalidate (fun x => x == asid) (fun _ => true) (fun s =>
        ((s.setLive asid (asid == 0 || s.asidValid asid)).afterInvalidate c).retire c))

def execTlbinvAll (s : State) : Host.Outcome State Fault Refusal :=
  issue .tlbinvAll .supervisor s (fun s c _ =>
    s.invalidate (fun _ => true) (fun _ => true) (fun s => (s.afterInvalidate c).retire c))

/-- The valid bit of an ASID's table entry and its live bit are cleared (R231). -/
def State.endAsid (s : State) (asid : Nat) : State :=
  let at_ := s.sysPa (s.asidTable + 16 * asid) + 8
  { s with mem := Memory.write s.mem at_ (Memory.read s.mem at_ &&& 0xFE) }.setLive asid false

/-- ASINV (R231): as TLBINV of the ASID, with V and the live bit cleared. -/
def execAsinv (b : BitVec 8) (s : State) : Host.Outcome State Fault Refusal :=
  issue (.asinv b) .supervisor s (fun s c w =>
    let asid := (w.rd b 0).toNat
    if asid = 0 then s.raiseWhole c 0x33 1
    else if 512 ≤ asid then s.raiseWhole c 0x33 2
    else
      s.invalidate (fun x => x == asid) (fun _ => true) (fun s =>
        (((s.endAsid asid).updCtx asid (fun k => { k with tagged := false, launchPriv := false })).afterInvalidate c).retire c))

/-! ## CLRSET (R232) -/

/-- CLRSET: z installs the clearance of tag 0 alone; a bitmap is read whole, and on a cause the old clearance stays. In the
non-secure authorised state a supervisor warp is cleared for tag 0 alone whatever is installed (R402). -/
def execClrset (a : BitVec 8) (s : State) : Host.Outcome State Fault Refusal :=
  issue (.clrset a) .supervisor s (fun s c w =>
    let x := w.rdPair a 0
    if a = 0xFF then s.retireWith c (fun w => { w with clearance := none })
    else if 2 ^ 56 ≤ x.toNat then s.raiseAt c 0x24 0 x.toNat
    else if x.toNat % 256 ≠ 0 then s.raiseAt c 0x20 0 x.toNat
    else match s.formBlock c w x 256 128 64 true false with
      | f :: r => s.raiseOnce c (f :: r)
      | [] => match s.bitmapLoads c w x.toNat 64 with
        | .cause k b q => q.raiseAt c k b (q.firstBadLine w.asid (some w.team) x.toNat 64)
        | .wait q => q
        | .ok bits q =>
          let q1 := q.enterClearance (coreOfKey c.w) (tagAsid w.asid x.toNat) x bits
          q1.retireWith c (fun w => { w with clearance := if s.lock = .nonSecure then none else some x }))

end Sys2Proof.Machine
end

