-- ==== Sys2Proof/Machine/Dispatch.lean ====
section
/-!
DEFINITION. One arm for each constructor of `Instr`: the meaning of every step.
-/
namespace Sys2Proof.Machine

def exec (i : Instr) (s : State) : Host.Outcome State Fault Refusal :=
  match i with
  | .add pf d a b => Sys2Proof.Machine.execAdd pf d a b s
  | .sub pf d a b => Sys2Proof.Machine.execSub pf d a b s
  | .adds pf d a b => Sys2Proof.Machine.execAdds pf d a b s
  | .subs pf d a b => Sys2Proof.Machine.execSubs pf d a b s
  | .mullo pf d a b => Sys2Proof.Machine.execMullo pf d a b s
  | .mulhiS pf d a b => Sys2Proof.Machine.execMulhiS pf d a b s
  | .mulhiU pf d a b => Sys2Proof.Machine.execMulhiU pf d a b s
  | .mad pf d a b => Sys2Proof.Machine.execMad pf d a b s
  | .madwU pf d a b => Sys2Proof.Machine.execMadwU pf d a b s
  | .madwS pf d a b => Sys2Proof.Machine.execMadwS pf d a b s
  | .divS pf d a b => Sys2Proof.Machine.execDivS pf d a b s
  | .divU pf d a b => Sys2Proof.Machine.execDivU pf d a b s
  | .remS pf d a b => Sys2Proof.Machine.execRemS pf d a b s
  | .remU pf d a b => Sys2Proof.Machine.execRemU pf d a b s
  | .minS pf d a b => Sys2Proof.Machine.execMinS pf d a b s
  | .minU pf d a b => Sys2Proof.Machine.execMinU pf d a b s
  | .maxS pf d a b => Sys2Proof.Machine.execMaxS pf d a b s
  | .maxU pf d a b => Sys2Proof.Machine.execMaxU pf d a b s
  | .abs pf d a => Sys2Proof.Machine.execAbs pf d a s
  | .neg pf d a => Sys2Proof.Machine.execNeg pf d a s
  | .and pf d a b => Sys2Proof.Machine.execAnd pf d a b s
  | .or pf d a b => Sys2Proof.Machine.execOr pf d a b s
  | .xor pf d a b => Sys2Proof.Machine.execXor pf d a b s
  | .andn pf d a b => Sys2Proof.Machine.execAndn pf d a b s
  | .shl pf d a b => Sys2Proof.Machine.execShl pf d a b s
  | .shr pf d a b => Sys2Proof.Machine.execShr pf d a b s
  | .sar pf d a b => Sys2Proof.Machine.execSar pf d a b s
  | .rol pf d a b => Sys2Proof.Machine.execRol pf d a b s
  | .fshl pf d a b => Sys2Proof.Machine.execFshl pf d a b s
  | .bfxU pf d a b => Sys2Proof.Machine.execBfxU pf d a b s
  | .bfxS pf d a b => Sys2Proof.Machine.execBfxS pf d a b s
  | .bfi pf d a b => Sys2Proof.Machine.execBfi pf d a b s
  | .clz pf d a => Sys2Proof.Machine.execClz pf d a s
  | .ctz pf d a => Sys2Proof.Machine.execCtz pf d a s
  | .popc pf d a => Sys2Proof.Machine.execPopc pf d a s
  | .brev pf d a => Sys2Proof.Machine.execBrev pf d a s
  | .permb pf d a b => Sys2Proof.Machine.execPermb pf d a b s
  | .cmpEq pf d a b => Sys2Proof.Machine.execCmpEq pf d a b s
  | .cmpNe pf d a b => Sys2Proof.Machine.execCmpNe pf d a b s
  | .cmpLtS pf d a b => Sys2Proof.Machine.execCmpLtS pf d a b s
  | .cmpLeS pf d a b => Sys2Proof.Machine.execCmpLeS pf d a b s
  | .cmpLtU pf d a b => Sys2Proof.Machine.execCmpLtU pf d a b s
  | .cmpLeU pf d a b => Sys2Proof.Machine.execCmpLeU pf d a b s
  | .sel pf d a b => Sys2Proof.Machine.execSel pf d a b s
  | .mov pf d a => Sys2Proof.Machine.execMov pf d a s
  | .movsr pf d y => Sys2Proof.Machine.execMovsr pf d y s
  | .setmode z => Sys2Proof.Machine.execSetmode z s
  | .lea1 pf d a b => Sys2Proof.Machine.execLea1 pf d a b s
  | .lea4 pf d a b => Sys2Proof.Machine.execLea4 pf d a b s
  | .lea8 pf d a b => Sys2Proof.Machine.execLea8 pf d a b s
  | .lea16 pf d a b => Sys2Proof.Machine.execLea16 pf d a b s
  | .add64 pf d a b => Sys2Proof.Machine.execAdd64 pf d a b s
  | .sub64 pf d a b => Sys2Proof.Machine.execSub64 pf d a b s
  | .cvti pf d a b => Sys2Proof.Machine.execCvti pf d a b s
  | .addi16 pf d z => Sys2Proof.Machine.execAddi16 pf d z s
  | .andi16 pf d z => Sys2Proof.Machine.execAndi16 pf d z s
  | .ori16 pf d z => Sys2Proof.Machine.execOri16 pf d z s
  | .xori16 pf d z => Sys2Proof.Machine.execXori16 pf d z s
  | .shli pf d n => Sys2Proof.Machine.execShli pf d n s
  | .shri pf d n => Sys2Proof.Machine.execShri pf d n s
  | .sari pf d n => Sys2Proof.Machine.execSari pf d n s
  | .movhi16 pf d z => Sys2Proof.Machine.execMovhi16 pf d z s
  | .ldc pf d a f => Sys2Proof.Machine.execLdc pf d a f s
  | .fadd pf d a b => Sys2Proof.Machine.execFadd pf d a b s
  | .fsub pf d a b => Sys2Proof.Machine.execFsub pf d a b s
  | .fmul pf d a b => Sys2Proof.Machine.execFmul pf d a b s
  | .ffma pf d a b => Sys2Proof.Machine.execFfma pf d a b s
  | .ffmc pf d a n => Sys2Proof.Machine.execFfmc pf d a n s
  | .fmin pf d a b => Sys2Proof.Machine.execFmin pf d a b s
  | .fmax pf d a b => Sys2Proof.Machine.execFmax pf d a b s
  | .fabs pf d a => Sys2Proof.Machine.execFabs pf d a s
  | .fneg pf d a => Sys2Proof.Machine.execFneg pf d a s
  | .fcmpEq pf d a b => Sys2Proof.Machine.execFcmpEq pf d a b s
  | .fcmpLt pf d a b => Sys2Proof.Machine.execFcmpLt pf d a b s
  | .fcmpLe pf d a b => Sys2Proof.Machine.execFcmpLe pf d a b s
  | .fcmpUn pf d a b => Sys2Proof.Machine.execFcmpUn pf d a b s
  | .fclass pf d a => Sys2Proof.Machine.execFclass pf d a s
  | .fdiv pf d a b => Sys2Proof.Machine.execFdiv pf d a b s
  | .fsqrt pf d a => Sys2Proof.Machine.execFsqrt pf d a s
  | .frcp pf d a => Sys2Proof.Machine.execFrcp pf d a s
  | .frsq pf d a => Sys2Proof.Machine.execFrsq pf d a s
  | .fexp2 pf d a => Sys2Proof.Machine.execFexp2 pf d a s
  | .flog2 pf d a => Sys2Proof.Machine.execFlog2 pf d a s
  | .fsin pf d a => Sys2Proof.Machine.execFsin pf d a s
  | .fcos pf d a => Sys2Proof.Machine.execFcos pf d a s
  | .fround pf d a => Sys2Proof.Machine.execFround pf d a s
  | .fscale pf d a b => Sys2Proof.Machine.execFscale pf d a b s
  | .fcvtF2i pf d a b => Sys2Proof.Machine.execFcvtF2i pf d a b s
  | .fcvtI2f pf d a b => Sys2Proof.Machine.execFcvtI2f pf d a b s
  | .fcvtF2f pf d a b => Sys2Proof.Machine.execFcvtF2f pf d a b s
  | .hadd2 pf d a b => Sys2Proof.Machine.execHadd2 pf d a b s
  | .hmul2 pf d a b => Sys2Proof.Machine.execHmul2 pf d a b s
  | .hfma2 pf d a b => Sys2Proof.Machine.execHfma2 pf d a b s
  | .hdot2 pf d a b => Sys2Proof.Machine.execHdot2 pf d a b s
  | .brt c f => Sys2Proof.Machine.execBrt c f s
  | .brf c f => Sys2Proof.Machine.execBrf c f s
  | .bra f => Sys2Proof.Machine.execBra f s
  | .brx n a b => Sys2Proof.Machine.execBrx n a b s
  | .call d z => Sys2Proof.Machine.execCall d z s
  | .callx d a => Sys2Proof.Machine.execCallx d a s
  | .ret a => Sys2Proof.Machine.execRet a s
  | .jpt f => Sys2Proof.Machine.execJpt f s
  | .join => Sys2Proof.Machine.execJoin s
  | .loop d e => Sys2Proof.Machine.execLoop d e s
  | .loopi n e => Sys2Proof.Machine.execLoopi n e s
  | .exit => Sys2Proof.Machine.execExit s
  | .wait l y c t => Sys2Proof.Machine.execWait l y c t s
  | .yield => Sys2Proof.Machine.execYield s
  | .safe k => Sys2Proof.Machine.execSafe k s
  | .nop => Sys2Proof.Machine.execNop s
  | .ld8u pf d a o f => Sys2Proof.Machine.execLd8u pf d a o f s
  | .ld8s pf d a o f => Sys2Proof.Machine.execLd8s pf d a o f s
  | .ld16u pf d a o f => Sys2Proof.Machine.execLd16u pf d a o f s
  | .ld16s pf d a o f => Sys2Proof.Machine.execLd16s pf d a o f s
  | .ld32 pf d a o f => Sys2Proof.Machine.execLd32 pf d a o f s
  | .ld64 pf d a o f => Sys2Proof.Machine.execLd64 pf d a o f s
  | .ld128 pf d a o f => Sys2Proof.Machine.execLd128 pf d a o f s
  | .st8 pf d a o f => Sys2Proof.Machine.execSt8 pf d a o f s
  | .st16 pf d a o f => Sys2Proof.Machine.execSt16 pf d a o f s
  | .st32 pf d a o f => Sys2Proof.Machine.execSt32 pf d a o f s
  | .st64 pf d a o f => Sys2Proof.Machine.execSt64 pf d a o f s
  | .st128 pf d a o f => Sys2Proof.Machine.execSt128 pf d a o f s
  | .lds32 pf d a o f => Sys2Proof.Machine.execLds32 pf d a o f s
  | .sts32 pf d a o f => Sys2Proof.Machine.execSts32 pf d a o f s
  | .lds128 pf d a o f => Sys2Proof.Machine.execLds128 pf d a o f s
  | .sts128 pf d a o f => Sys2Proof.Machine.execSts128 pf d a o f s
  | .ballot pf d a => Sys2Proof.Machine.execBallot pf d a s
  | .shflIdx pf d a b => Sys2Proof.Machine.execShflIdx pf d a b s
  | .shflUp pf d a b => Sys2Proof.Machine.execShflUp pf d a b s
  | .shflDown pf d a b => Sys2Proof.Machine.execShflDown pf d a b s
  | .shflXor pf d a b => Sys2Proof.Machine.execShflXor pf d a b s
  | .redux pf d a c => Sys2Proof.Machine.execRedux pf d a c s
  | .scan pf d a c => Sys2Proof.Machine.execScan pf d a c s
  | .qappend pf d a => Sys2Proof.Machine.execQappend pf d a s
  | .xchgp pf d a => Sys2Proof.Machine.execXchgp pf d a s
  | .expand d a y o => Sys2Proof.Machine.execExpand d a y o s
  | .exnext d a b => Sys2Proof.Machine.execExnext d a b s
  | .exred a => Sys2Proof.Machine.execExred a s
  | .exfin d => Sys2Proof.Machine.execExfin d s
  | .exsave a => Sys2Proof.Machine.execExsave a s
  | .exload a => Sys2Proof.Machine.execExload a s
  | .matchLanes pf d a => Sys2Proof.Machine.execMatchLanes pf d a s
  | .atom pf d a b aop width order c => Sys2Proof.Machine.execAtom pf d a b aop width order c s
  | .atoms pf d a b aop width order c => Sys2Proof.Machine.execAtoms pf d a b aop width order c s
  | .fence k y => Sys2Proof.Machine.execFence k y s
  | .arrive d a b => Sys2Proof.Machine.execArrive d a b s
  | .waitbPh a b => Sys2Proof.Machine.execWaitbPh a b s
  | .waitbCnt a b => Sys2Proof.Machine.execWaitbCnt a b s
  | .barWg => Sys2Proof.Machine.execBarWg s
  | .barTeam => Sys2Proof.Machine.execBarTeam s
  | .mwaitNe a b => Sys2Proof.Machine.execMwaitNe a b s
  | .mwaitGeu a b => Sys2Proof.Machine.execMwaitGeu a b s
  | .pref a => Sys2Proof.Machine.execPref a s
  | .prefL1 a => Sys2Proof.Machine.execPrefL1 a s
  | .cflushWb a => Sys2Proof.Machine.execCflushWb a s
  | .cflushInv a => Sys2Proof.Machine.execCflushInv a s
  | .htclaim d a b => Sys2Proof.Machine.execHtclaim d a b s
  | .htrel a => Sys2Proof.Machine.execHtrel a s
  | .hins pf d a b => Sys2Proof.Machine.execHins pf d a b s
  | .hprobe pf d a b => Sys2Proof.Machine.execHprobe pf d a b s
  | .hdel pf d a b => Sys2Proof.Machine.execHdel pf d a b s
  | .hacc pf d a b op ty => Sys2Proof.Machine.execHacc pf d a b op ty s
  | .hdrain d a b => Sys2Proof.Machine.execHdrain d a b s
  | .thld d a off => Sys2Proof.Machine.execThld d a off s
  | .thset d a sel => Sys2Proof.Machine.execThset d a sel s
  | .thget d a sel => Sys2Proof.Machine.execThget d a sel s
  | .copy d a b q tok bar yld cont => Sys2Proof.Machine.execCopy d a b q tok bar yld cont s
  | .gather d a b q tok bar yld list cont => Sys2Proof.Machine.execGather d a b q tok bar yld list cont s
  | .scatter d a b q tok bar yld list ordered cont => Sys2Proof.Machine.execScatter d a b q tok bar yld list ordered cont s
  | .tsplit d a b q tok bar yld cont => Sys2Proof.Machine.execTsplit d a b q tok bar yld cont s
  | .mma d a b qa qb => Sys2Proof.Machine.execMma d a b qa qb s
  | .mmaloop d a b qa qb inc n => Sys2Proof.Machine.execMmaloop d a b qa qb inc n s
  | .mbatch d bar => Sys2Proof.Machine.execMbatch d bar s
  | .waitt a => Sys2Proof.Machine.execWaitt a s
  | .maccAlloc d => Sys2Proof.Machine.execMaccAlloc d s
  | .maccFree a => Sys2Proof.Machine.execMaccFree a s
  | .mdrain d a b st clr => Sys2Proof.Machine.execMdrain d a b st clr s
  | .bput a b => Sys2Proof.Machine.execBput a b s
  | .kstore d a b n tok bar strict val slot => Sys2Proof.Machine.execKstore d a b n tok bar strict val slot s
  | .bgather d a tok bar dist slot trunc => Sys2Proof.Machine.execBgather d a tok bar dist slot trunc s
  | .addL pf d a lit => Sys2Proof.Machine.execAddL pf d a lit s
  | .andL pf d a lit => Sys2Proof.Machine.execAndL pf d a lit s
  | .orL pf d a lit => Sys2Proof.Machine.execOrL pf d a lit s
  | .xorL pf d a lit => Sys2Proof.Machine.execXorL pf d a lit s
  | .movL pf d lit => Sys2Proof.Machine.execMovL pf d lit s
  | .mulloL pf d a lit => Sys2Proof.Machine.execMulloL pf d a lit s
  | .cmpEqL pf d a lit => Sys2Proof.Machine.execCmpEqL pf d a lit s
  | .cmpLtSL pf d a lit => Sys2Proof.Machine.execCmpLtSL pf d a lit s
  | .faddL pf d a lit => Sys2Proof.Machine.execFaddL pf d a lit s
  | .fmulL pf d a lit => Sys2Proof.Machine.execFmulL pf d a lit s
  | .ffmaL pf d a b lit => Sys2Proof.Machine.execFfmaL pf d a b lit s
  | .fminL pf d a lit => Sys2Proof.Machine.execFminL pf d a lit s
  | .fmaxL pf d a lit => Sys2Proof.Machine.execFmaxL pf d a lit s
  | .fcmpLtL pf d a lit => Sys2Proof.Machine.execFcmpLtL pf d a lit s
  | .qsig d a b => Sys2Proof.Machine.execQsig d a b s
  | .kidx n a => Sys2Proof.Machine.execKidx n a s
  | .mload d a b => Sys2Proof.Machine.execMload d a b s
  | .trap a => Sys2Proof.Machine.execTrap a s
  | .trapFrame d => Sys2Proof.Machine.execTrapFrame d s
  | .eretRetry => Sys2Proof.Machine.execEretRetry s
  | .eretSkip => Sys2Proof.Machine.execEretSkip s
  | .eretTo a => Sys2Proof.Machine.execEretTo a s
  | .mtsrFpflags a => Sys2Proof.Machine.execMtsrFpflags a s
  | .mtsrCtxPreempt a b => Sys2Proof.Machine.execMtsrCtxPreempt a b s
  | .mtsrCtxHalt a b => Sys2Proof.Machine.execMtsrCtxHalt a b s
  | .mtsrCtxLcbins a b => Sys2Proof.Machine.execMtsrCtxLcbins a b s
  | .mtsrFaultlog a b => Sys2Proof.Machine.execMtsrFaultlog a b s
  | .mtsr y a b => Sys2Proof.Machine.execMtsr y a b s
  | .resumeReplay d a => Sys2Proof.Machine.execResumeReplay d a s
  | .resumeDeliver d a => Sys2Proof.Machine.execResumeDeliver d a s
  | .resumeTerm d a => Sys2Proof.Machine.execResumeTerm d a s
  | .launch d a => Sys2Proof.Machine.execLaunch d a s
  | .tlbinvPage a b => Sys2Proof.Machine.execTlbinvPage a b s
  | .tlbinvAsid b => Sys2Proof.Machine.execTlbinvAsid b s
  | .tlbinvAll => Sys2Proof.Machine.execTlbinvAll s
  | .asinv b => Sys2Proof.Machine.execAsinv b s
  | .bkpt c => Sys2Proof.Machine.execBkpt c s
  | .clrset a => Sys2Proof.Machine.execClrset a s
  | .perfrd d k n => Sys2Proof.Machine.execPerfrd d k n s
  | .movi20 pf d z => Sys2Proof.Machine.execMovi20 pf d z s
  | .movf20 pf d z => Sys2Proof.Machine.execMovf20 pf d z s
  | .nonInstruction priv cause sub len => Sys2Proof.Machine.execNonInstruction priv cause sub len s
  | .faultLogHeldAppend k => Sys2Proof.Machine.execFaultLogHeldAppend k s
  | .heldTransferReexecution w p => Sys2Proof.Machine.execHeldTransferReexecution w p s
  | .waitRelease w => Sys2Proof.Machine.execWaitRelease w s
  | .barRelease w => Sys2Proof.Machine.execBarRelease w s
  | .waitbRelease w => Sys2Proof.Machine.execWaitbRelease w s
  | .mwaitRelease w => Sys2Proof.Machine.execMwaitRelease w s
  | .waittRelease w => Sys2Proof.Machine.execWaittRelease w s
  | .xchgpMatch w => Sys2Proof.Machine.execXchgpMatch w s
  | .asterStepMatch w => Sys2Proof.Machine.execAsterStepMatch w s
  | .launchEnqueue w => Sys2Proof.Machine.execLaunchEnqueue w s
  | .dependenceConditionRead launch k => Sys2Proof.Machine.execDependenceConditionRead launch k s
  | .teamAdmission die => Sys2Proof.Machine.execTeamAdmission die s
  | .l1Reclaim core => Sys2Proof.Machine.execL1Reclaim core s
  | .warpCompletion w => Sys2Proof.Machine.execWarpCompletion w s
  | .teamCompletion team => Sys2Proof.Machine.execTeamCompletion team s
  | .translationRequest m => Sys2Proof.Machine.execTranslationRequest m s
  | .corePinnedSlotWaitEnd m => Sys2Proof.Machine.execCorePinnedSlotWaitEnd m s
  | .sliceMiss m => Sys2Proof.Machine.execSliceMiss m s
  | .accessPerform a => Sys2Proof.Machine.execAccessPerform a s
  | .loadCompletion o => Sys2Proof.Machine.execLoadCompletion o s
  | .storeAcknowledge o => Sys2Proof.Machine.execStoreAcknowledge o s
  | .engineLineTransfer e => Sys2Proof.Machine.execEngineLineTransfer e s
  | .tsplitTileEncode e => Sys2Proof.Machine.execTsplitTileEncode e s
  | .copyOperationComplete e => Sys2Proof.Machine.execCopyOperationComplete e s
  | .matrixStep e => Sys2Proof.Machine.execMatrixStep e s
  | .matrixOperationComplete e => Sys2Proof.Machine.execMatrixOperationComplete e s
  | .mdrainExecute e => Sys2Proof.Machine.execMdrainExecute e s
  | .batchComplete w => Sys2Proof.Machine.execBatchComplete w s
  | .kstoreToken e => Sys2Proof.Machine.execKstoreToken e s
  | .bgatherBucketVisit e => Sys2Proof.Machine.execBgatherBucketVisit e s
  | .bgatherToken e => Sys2Proof.Machine.execBgatherToken e s
  | .remoteRequest a => Sys2Proof.Machine.execRemoteRequest a s
  | .remoteTimeout a => Sys2Proof.Machine.execRemoteTimeout a s
  | .watchdogExpiry w => Sys2Proof.Machine.execWatchdogExpiry w s
  | .handlerLimitExpiry w => Sys2Proof.Machine.execHandlerLimitExpiry w s
  | .preemptionOverdue w => Sys2Proof.Machine.execPreemptionOverdue w s
  | .teamReadmission die => Sys2Proof.Machine.execTeamReadmission die s
  | .startCold selftest => Sys2Proof.Machine.execStartCold selftest s
  | .startWarm selftest => Sys2Proof.Machine.execStartWarm selftest s
  | .mboxWrite v => Sys2Proof.Machine.execMboxWrite v s
  | .bar0RegisterWrite off v => Sys2Proof.Machine.execBar0RegisterWrite off v s
  | .bar2WindowAccess off data write => Sys2Proof.Machine.execBar2WindowAccess off data write s
  | .powerGood => Sys2Proof.Machine.execPowerGood s
  | .startStage1 => Sys2Proof.Machine.execStartStage1 s
  | .startStage2 => Sys2Proof.Machine.execStartStage2 s
  | .idleEntry b => Sys2Proof.Machine.execIdleEntry b s
  | .clockGateEntry b => Sys2Proof.Machine.execClockGateEntry b s
  | .retentionEntry core => Sys2Proof.Machine.execRetentionEntry core s
  | .powerWake b => Sys2Proof.Machine.execPowerWake b s
  | .dieThrottle die up => Sys2Proof.Machine.execDieThrottle die up s
  | .criticalTemperature => Sys2Proof.Machine.execCriticalTemperature s
  | .storageSoftError site sev => Sys2Proof.Machine.execStorageSoftError site sev s
  | .fabricResponseLost a tier => Sys2Proof.Machine.execFabricResponseLost a tier s
  | .memorySideStampLost line => Sys2Proof.Machine.execMemorySideStampLost line s
  | .routeLinksDown dev known => Sys2Proof.Machine.execRouteLinksDown dev known s
  | .routeLinksUp dev => Sys2Proof.Machine.execRouteLinksUp dev s
  | .peerDebugHoldChange dev hold => Sys2Proof.Machine.execPeerDebugHoldChange dev hold s

end Sys2Proof.Machine
end

