-- ==== Sys2Proof/Machine/Schedule.lean ====
section
/-!
DEFINITION. Which step comes next (DESIGN CHOICE, log entries 2 and 4). One step is one core cycle. An input of the outside world goes first.
Else one of the steps that the machine can make on its own is taken: an event whose condition holds, or the instruction that
a scheduler picks (R164, R165, R176). Where several can be, a free value chooses.
-/
namespace Sys2Proof.Machine

/-! ## Events the machine makes on its own -/

/-- A step as the scheduler hands it on: a meaning with its operands. -/
abbrev Run := State → Host.Outcome State Fault Refusal

/-- The release that a held warp waits for. -/
def State.releases (s : State) (key : Nat) (w : Warp) : List Run :=
  match w.held with
  | none => []
  | some h =>
    let one := fun (b : Bool) (i : Run) => if b && w.halt.isNone && !w.halting then [i] else []
    match h.why with
    | .wait => one (s.waitReady key) (execWaitRelease key)
    | .waitb _ => one (s.waitbTry key).isSome (execWaitbRelease key)
    | .mwait => one (s.mwaitTry key).isSome (execMwaitRelease key)
    | .bar _ _ => one (s.barReady key).isSome (execBarRelease key)
    | .waitt => one (s.waittTry key).isSome (execWaittRelease key)
    | .xchgp _ => one (s.xchgpReady key) (execXchgpMatch key)
    | .aster => one (s.asterReady key) (execAsterStepMatch key)
    | .launch => one (s.enqueueTry key).isSome (execLaunchEnqueue key)
    | .yielded _ => []
    | .stopped _ _ _ => []
    | .entering _ => []
    | .checking _ _ => []

/-- The events of a warp: limits, its release, its completion. -/
def State.warpEvents (s : State) (key : Nat) (w : Warp) : List Run :=
  (if s.watchReady key then [execWatchdogExpiry key] else []) ++
    (if s.handlerReady key then [execHandlerLimitExpiry key] else []) ++
    (if s.overdueReady key then [execPreemptionOverdue key] else []) ++
    s.releases key w ++
    (if (s.batchReady key).isSome then [execBatchComplete key] else []) ++
    (if s.warpDone key then [execWarpCompletion key] else [])

/-- The events of pending accesses and of instructions whose accesses are done. -/
def State.memoryEvents (s : State) : List Run :=
  s.accesses.flatMap (fun e =>
    (if s.performReady e.1 then [execAccessPerform e.1] else []) ++
      (if s.remoteReady e.1 then [execRemoteRequest e.1] else []) ++
      (if s.timedOut e.1 then [execRemoteTimeout e.1] else [])) ++
    s.outs.flatMap (fun e =>
      (if s.opDone e.1 true || s.loadPart e.1 then [execLoadCompletion e.1] else []) ++
        (if s.opDone e.1 false then [execStoreAcknowledge e.1] else [])) ++
    s.misses.flatMap (fun e =>
      (if s.walkReady e.1 then [execTranslationRequest e.1] else []) ++
        (if s.missReady e.1 then [execSliceMiss e.1] else []) ++
        (if s.slotFree e.1 then [execCorePinnedSlotWaitEnd e.1] else [])) ++
    s.cores.filterMap (fun e => if s.reclaimReady e.1 then some (execL1Reclaim e.1) else none)

/-- The next piece of work of an engine operation. -/
def workOf (id : Nat) (e : EngOp) : Run :=
  match e.kind with
  | .tsplit _ _ _ _ => execTsplitTileEncode id
  | .kstore _ _ _ _ _ _ _ => execKstoreToken id
  | .bgather _ _ _ _ _ _ _ _ => if e.gath.ids.isEmpty then execBgatherBucketVisit id else execBgatherToken id
  | .mma _ _ _ _ _ _ => execMatrixStep id
  | .load _ _ _ => execMatrixStep id
  | .loadReg _ _ => execMatrixStep id
  | .drain _ _ _ _ _ => execMdrainExecute id
  | .drainReg _ _ _ _ _ _ _ _ => execMdrainExecute id
  | _ => execEngineLineTransfer id

/-- The events of the engines. -/
def State.engineEvents (s : State) : List Run :=
  s.engines.flatMap (fun e =>
    (if if e.2.kind.isCopy then s.engReady e.1 else s.tileReady e.1 then [workOf e.1 e.2] else []) ++
      (if s.copyFinished e.1 then [execCopyOperationComplete e.1] else []) ++
      (if s.tileFinished e.1 then [execMatrixOperationComplete e.1] else []))

/-- The events of the distributors. -/
def State.distributorEvents (s : State) : List Run :=
  s.launches.flatMap (fun e =>
    (numsFrom 0 e.2.deps.length).filterMap (fun k =>
      if (s.depTry e.1 k).isSome then some (execDependenceConditionRead e.1 k) else none)) ++
    [0, 1, 2, 3].flatMap (fun d =>
      (if (s.admitTry d).isSome then [execTeamAdmission d] else []) ++
        (if (s.readmitTry d).isSome then [execTeamReadmission d] else [])) ++
    s.teams.filterMap (fun e => if (s.teamTry e.1).isSome then some (execTeamCompletion e.1) else none)

/-- The events of the start and of the fault log. -/
def State.systemEvents (s : State) : List Run :=
  (if (s.heldLogTry).isSome then [execFaultLogHeldAppend 0] else []) ++
    (if s.stage1Ready then [execStartStage1] else []) ++
    (if s.boot == .stage1 && s.verified.isSome then [execStartStage2] else [])

/-- The sleeping blocks for which something waits. -/
def State.wakeEvents (s : State) : List Run :=
  s.power.filterMap (fun e =>
    let b : Block := if e.1 < 1000 then .core e.1 else if e.1 < 2000 then .slice (e.1 - 1000)
      else if e.1 < 3000 then .bridge (e.1 - 2000) else if e.1 < 4000 then .stack (e.1 - 3000) else .port (e.1 - 4000)
    if s.wakeReady b then some (execPowerWake b) else none)

/-- All events whose conditions hold. -/
def State.events (s : State) : List Run :=
  s.warps.flatMap (fun e => s.warpEvents e.1 e.2) ++ s.memoryEvents ++ s.engineEvents ++ s.distributorEvents ++ s.systemEvents ++
    s.wakeEvents

/-! ## Counting a cycle -/

/-- A die's core clock has an edge in this cycle: each halving of a throttled die leaves out every
second one (R401). -/
def State.ticks (s : State) (die : Nat) : Bool := s.cycle % 2 ^ Assoc.get s.slow 0 die == 0

/-- The cycles in which each die's clock had no edge, this one included (R401). -/
def State.skips (s : State) : Assoc Nat :=
  (numsFrom 0 Config.dies).foldl (fun (m : Assoc Nat) d =>
    if s.ticks d then m else Assoc.set m 0 d (Assoc.get m 0 d + 1)) s.skipped

/-- One cycle of a warp's counts (R357, R358, R372). The watchdog stands at its limit until it takes effect. -/
def State.countWarp (s : State) (key : Nat) (w : Warp) : Warp :=
  if s.ticks (dieOfCore (coreOfKey key)) then
    { w with watch := if s.watchRuns w then w.watch + 1 else w.watch
             handler := if w.handlerRuns then w.handler + 1 else w.handler
             overdue := if w.overdueRuns then w.overdue + 1 else w.overdue }
  else w

/-- One cycle of the 0x2B count of a remote access, from the sending of its request on (R391, R392). -/
def State.countAccess (s : State) (k : Nat) (a : Access) : Access :=
  match a.remote with
  | none => a
  | some d =>
    if s.ticks (dieOfCore (coreOfKey a.w)) && !Assoc.get s.peerHold false d &&
        (decide (0 < a.sent) || (s.canPerform k a && Assoc.get s.routes Route.up d != Route.down)) then
      { a with sent := a.sent + 1 }
    else a

/-- One cycle of the 0x2B count of the requests that stand unanswered (R391, R392, R401). One that its sender has given up is forgotten
in time. -/
def State.countAsked (s : State) : List Asked :=
  (s.asked.map (fun a =>
    if a.core.all (fun c => s.ticks (dieOfCore c)) && !Assoc.get s.peerHold false (deviceOfPa a.pa) then { a with sent := a.sent + 1 }
    else a)).filter (fun a => decide (a.sent < 2 * Config.remoteLimit))

/-- What a warp has to finish between two instructions is tried again: the record of a trap, the use of a replay entry (R344,
R378). -/
def State.retryHeld (s : State) : State :=
  s.warps.foldl (fun (s : State) e =>
    match e.2.held with
    | none => s
    | some h =>
      if e.2.halt.isSome then s
      else
        let s1 := s.updWarp e.1 (fun w => { w with held := none })
        match h.why with
        | .entering f => s1.trapEntry h.cur f (s.headerField e.2 Launch.trap)
        | .checking n k => (s1.useEntry h.cur n k).stepAfter h.cur
        | _ => s) s

/-- A failed walk is forgotten once no path waits for it. -/
def State.sweepMisses (s : State) : State :=
  let waits := fun (m : Miss) => s.warps.any (fun w => w.2.paths.any (fun q => match q.hold with
    | .fill lines => lines.contains (m.asid, m.line)
    | _ => false))
  { s with misses := s.misses.filter (fun m => match m.2.result with
      | .fault _ _ => waits m.2
      | .noCore _ _ => waits m.2
      | .pending => true
      | .waitSlot _ _ _ _ => true) }

/-- One cycle: the clocks and counts advance; what is kept, and a completion action that waited, is tried again; halts and
pre-emption reach the warps that have come to where they take effect (R365, R366, R377); idle blocks choose their power states (R400). -/
def State.tick (s : State) : State :=
  let q0 : State := { s with cycle := s.cycle + 1, clock := if s.boot = .stage3 then s.clock + 1 else s.clock, cur := none }
  let q : State := { q0 with skipped := q0.skips }
  let q1 : State := { q with asked := q.countAsked
                             warps := q.warps.map (fun e => (e.1, q.countWarp e.1 e.2))
                             accesses := q.accesses.map (fun e => (e.1, q.countAccess e.1 e.2)) }
  q1.sweepMisses.retryEvent.finishLaunches.retryHeld.haltDue.saveAllParked.saveTeamsDue.choosePowers

/-! ## The schedulers' picks (R164, R165, R167) -/

/-- A warp that yielded waits while one of the others that were ready on its pipe, and have not issued since, is ready on either
(R167). -/
def State.deferred (s : State) (os : List Offer) (o : Offer) : Bool :=
  (s.warp? o.key).any (fun w => w.yielded.any (fun k => os.any (fun x => x.key == k)))

/-- A pipe of a partition: its number among the rotation pointers of its core. -/
def Offer.pipe (o : Offer) : Nat := partitionOf o.key % 4 * 2 + (if o.vector then 1 else 0)

/-- The rotation pointer of a pipe. -/
def State.pointer (s : State) (o : Offer) : Nat := ((s.core (coreOfKey o.key)).pointers[o.pipe]?).getD 0

/-- Slots from the rotation pointer to a warp's slot. -/
def State.turns (s : State) (o : Offer) : Nat := (slotOfKey o.key % 16 + 16 - s.pointer o) % 16

/-- The age of an offer's warp (R165). -/
def State.ageOf (s : State) (o : Offer) : Nat := ((s.warp? o.key).map Warp.age).getD 0

/-- The pipe would pick `x` rather than `o`: the greater age, then the first from the rotation pointer. -/
def State.beats (s : State) (x o : Offer) : Bool :=
  if s.ageOf x = s.ageOf o then decide (s.turns x < s.turns o) else decide (s.ageOf o < s.ageOf x)

/-- What each pipe picks of the offers that no yield defers. -/
def State.pipePicks (s : State) (os : List Offer) : List Offer :=
  let free := os.filter (fun o => !s.deferred os o)
  free.filter (fun o => !free.any (fun x =>
    partitionOf x.key == partitionOf o.key && x.vector == o.vector && x.key != o.key && s.beats x o))

/-- What each partition issues: of the picks of its two pipes, which share the one issue of a cycle, that of the older warp, at equal
age that of the lower slot (R165). -/
def State.picks (s : State) (os : List Offer) : List Offer :=
  let ps := s.pipePicks os
  ps.filter (fun o => !ps.any (fun x => partitionOf x.key == partitionOf o.key && x.key != o.key &&
    (decide (s.ageOf o < s.ageOf x) || (s.ageOf x == s.ageOf o && decide (x.key < o.key)))))

/-- Offers that do not issue in this cycle grow older (R165); a warp has one age, whichever instruction is its current one (DESIGN
CHOICE, log entry 86). -/
def State.ageAll (s : State) (os : List Offer) : State :=
  os.foldl (fun (s : State) o => s.updWarp o.key (fun w => { w with age := w.age + 1 })) s

/-! ## Lane-cycle counters (R379) -/

/-- Add lanes of a class to the bins that hold a PC. -/
def State.addBins (s : State) (b : Bins) (core : Nat) (off cls n : Nat) : State :=
  (numsFrom 0 16).foldl (fun (s : State) k =>
    match b.ranges[k]? with
    | some (lo, hi) =>
      if lo ≤ off ∧ off < hi then
        s.updCore core (fun c => { c with bins := Assoc.set c.bins 0 (k * 8 + cls) (Assoc.get c.bins 0 (k * 8 + cls) + n) })
      else s
    | none => s) s

/-- Lanes in a mask. -/
def laneCount (m : Mask) : Nat := (Mask.lanes m).length

/-- A PC as an offset from the kernel header. -/
def State.offsetOf (s : State) (w : Warp) (pc : DWord) : Nat := (pc - s.headerPc w 0).toNat

/-- An issue of the bound ASID (DESIGN CHOICE, log entry 43). -/
def State.binIssue (s : State) (c : Cur) (i : Instr) : State :=
  match s.bins, s.warp? c.w with
  | some b, some w =>
    if b.asid = w.asid then
      let path := (w.path c.p).issueMask
      let once := !comparesLanes i && !crossesLanes i && (operandsOf i).all (fun o => !isLane o.code)
      let on := if once then path else path &&& w.guardOf (prefixOf i)
      let core := coreOfKey c.w
      let off := s.offsetOf w c.pc
      (((s.addBins b core off 0 (laneCount on)).addBins b core off 1 (laneCount (w.live &&& ~~~path))).addBins b core off 2
        (laneCount (path &&& ~~~on))).addBins b core off 3 (laneCount (~~~w.live))
    else s
  | _, _ => s

/-- The pipes that issue nothing from the bound ASID in this cycle, while it has a warp resident there; `used` is the partition
and pipe that does. -/
def State.binIdle (s : State) (used : Option (Nat × Bool)) : State :=
  match s.bins with
  | none => s
  | some b =>
    let here := s.warps.filter (fun e => e.2.asid == b.asid)
    let parts := (here.map (fun e => partitionOf e.1)).eraseDups
    parts.foldl (fun (s : State) p =>
      match here.find? (fun e => partitionOf e.1 == p) with
      | none => s
      | some e =>
        let off := s.offsetOf e.2 (e.2.path e.2.nextPath).nextPc
        [false, true].foldl (fun (s : State) v =>
          if used = some (p, v) then s else s.addBins b (coreOfKey e.1) off 4 32) s) s

/-! ## Issuing -/

/-- The pick leaves the scheduler: the pointer moves on, skip counts follow, and the warps that wait for it to issue no longer
do (R165, R167, R176). -/
def State.pick (s : State) (o : Offer) : State :=
  let s1 := s.updCore (coreOfKey o.key) (fun c =>
    { c with pointers := listUpd c.pointers o.pipe (fun _ => (slotOfKey o.key % 16 + 1) % 16) })
  let s2 : State := { s1 with warps := s1.warps.map (fun e => (e.1, { e.2 with yielded := e.2.yielded.filter (fun k => k != o.key) })) }
  (s2.updWarp o.key (fun w => { (w.countSkips o.ready o.path) with age := 0 })).touch (.core (coreOfKey o.key))

/-- A breakpoint stops the path before issue (R375). -/
def State.atBreakpoint (s : State) (key p : Nat) (w : Warp) : State :=
  let len := match (s.fetch key p w (w.path p).nextPc).1 with
    | .instr _ n => n
    | .miss _ _ => 1
    | .wait => 1
  let c := w.curFor key p len
  s.debugStop key c (s.infoOf c { code := 0x51, sub := 0, lanes := c.lanes, addrs := [], other := false })

/-- What skipping the instruction would do beside moving on (R357, R378): see `Cur.sync`. -/
def syncOf (i : Instr) : Nat :=
  match i with
  | .barWg => 2
  | .barTeam => 2
  | .arrive _ _ _ => 2
  | .waitbPh _ _ => 2
  | .waitbCnt _ _ => 2
  | .mwaitNe _ _ => 2
  | .mwaitGeu _ _ => 2
  | .waitt _ => 2
  | .atom _ _ _ _ _ _ order _ => if 4 ≤ order.toNat then 2 else 0
  | .atoms _ _ _ _ _ _ order _ => if 4 ≤ order.toNat then 2 else 0
  | .safe _ => 1
  | _ => 0

/-- The pipe that issues from the bound ASID in this cycle. -/
def State.binPipe (s : State) (o : Offer) : Option (Nat × Bool) :=
  if s.bins.any (fun b => (s.warp? o.key).any (fun w => w.asid == b.asid)) then some (partitionOf o.key, o.vector) else none

/-- The offered path issues: its instruction and the state in which it executes; none where nothing issues, since the cycle goes to
fetching it or to a breakpoint. -/
def State.issuePath (s : State) (o : Offer) : Option Run × State :=
  let key := o.key
  let p := o.path
  match s.warp? key with
  | none => (none, s.binIdle none)
  | some w =>
    if s.breaks w p (w.path p).nextPc then (none, (s.atBreakpoint key p w).binIdle none)
    else match s.fetch key p w (w.path p).nextPc with
      | (.miss t l, q) =>
        (none, ((q.postMiss t l (some w.team) (some (coreOfKey key)) false).updPath key p
          (fun x => { x with hold := .fill [(t, l)] })).binIdle none)
      | (.wait, q) => (none, q.binIdle none)
      | (.instr i len, q) =>
        let c := { w.curFor key p len with sync := syncOf i }
        let q1 := ((q.pick o).binIdle (q.binPipe o)).binIssue c i
        if (w.path p).status = .wait then (some (execHeldTransferReexecution key p), q1)
        else (some (exec i), { (q1.updPath key p (fun x => { x with hold := .none })) with cur := some c })

/-! ## The next action -/

/-- One of the steps that can be taken. -/
inductive Action where
  | event (f : Run)
  | issue (o : Offer)

/-- The state in which an action executes, and its step: `os` are the offers of the cycle. -/
def State.act (s : State) (os : List Offer) (a : Action) : Option Run × State :=
  match a with
  | .event f => (some f, (s.ageAll os).binIdle none)
  | .issue o => (s.ageAll (os.filter (fun x => x != o))).issuePath o

/-- The actions of a cycle. -/
def State.actions (s : State) (os : List Offer) : List Action := s.events.map .event ++ (s.picks os).map .issue

/-- The next step, if there is one, and the state in which it executes (DESIGN CHOICE, log entry 11). -/
def State.nextAction (s : State) : Option Run × State :=
  let s1 := s.tick
  match s.inputs with
  | i :: rest => (some (exec i), { ((s1.ageAll s1.offers).binIdle none) with inputs := rest })
  | [] =>
    let os := s1.offers
    match s1.actions os with
    | [] => (none, s1.binIdle none)
    | [a] => s1.act os a
    | a :: b :: r =>
      match (a :: b :: r)[s1.freeVal % (r.length + 2)]? with
      | some x => s1.takeFree.act os x
      | none => (none, s1)

end Sys2Proof.Machine
end

