-- ==== Sys2Proof/Machine/Loader.lean ====
section
/-!
DEFINITION. A program loaded from outside the machine (DESIGN CHOICE, log entry 3): one supervisor warp in the middle of its run, whose
next instruction stands in a resident line.
-/
namespace Sys2Proof.Machine

/-- The launch that the warp belongs to: a kernel whose header stands at address 0, whose code ends at 0x180, which declares
every register. Its one team has been admitted. -/
def loaderLaunch : Launch :=
  { number := 0, die := 0, prio := 7, order := 1, queued := false, header := 0, gridX := 1, gridY := 1, gridZ := 1
    wgWarps := 1, teamWgs := 1, cls := 2, args := 0, clearance := none, asid := 0, principal := 0, dieMask := 1
    grant := true, deps := [], doneKind := 0, doneAddr := 0, doneValue := 0, entry := 0x100, codeLimit := 0x180
    vregs := 128, sregs := 64, acctiles := 4, scratch := 65536, hashmax := 0, constSize := 0, trap := 0, safeTable := 0
    safeCount := 0, next := 1, completed := 0, saved := [], savedSyncs := [], doneFailed := false, known := [], made := [] }

/-- The words of an instruction, in the bytes of the line at 0x100; the line is zero after them. -/
def loaderLine (w : Nat) : L2Line :=
  { asid := 0, line := 2, pa := 0x100, base := 0, size := 65536, tag := 0, w := false, x := true, home := 0, dirty := false, poison := 0
    data := bytesOfNat 12 w ++ zeros 116 }

/-- The warp: slot 0 of core 0, all lanes at 0x100. -/
def loaderWarp : Warp := Warp.start 1 2 0 0 0 0 true none 0x100 []

/-- The machine in which that warp is alone and issues next. -/
def State.loadWord (s : State) (w : Nat) : State :=
  let g := Group.fresh 0 0 65536 [0]
  let t : Team := { launch := 1, index := 0, x := 0, y := 0, z := 0, groups := [g], record := none, saving := false }
  { s with
    inputs := [], warps := [(0, loaderWarp)], teams := [(2, t)], launches := [(1, loaderLaunch)], fresh := Nat.max s.fresh 3
    l2 := [loaderLine w], tlb := [], misses := [], accesses := [], fences := [], outs := [], engines := [], heldLog := [], heldEvents := []
    boot := .stage3, stage := 3, live := s.live ||| 1, ctx := Assoc.erase s.ctx 0, power := [], cur := none, lost := none }

end Sys2Proof.Machine
end

