-- ==== Sys2Proof/Machine/Step.lean ====
section
/-!
DEFINITION. One step of the machine: one core cycle in which at most one step of the opcode table is made.
-/
namespace Sys2Proof.Machine

/-- The next action executes; without one the cycle passes. -/
def step (s : State) : Host.Outcome State Fault Refusal :=
  match s.nextAction with
  | (none, q) => .next q
  | (some f, q) => f q

/-- `s` with an instruction where the next step fetches: its words, lowest first, are the bits of `w`. -/
def State.withFetchWord (s : State) (_nbits w : Nat) : State := s.loadWord w

end Sys2Proof.Machine
end

