-- ==== Sys2Proof/Safety.lean ====
section
/-!
DEFINITION. What counts as a safe run, and the words in which statements about instructions are made: when an instruction is
about to take effect, and what a retirement does to the warp besides the instruction's own results.
-/
namespace Sys2Proof

/-- `n` steps from `s` all answer a next state: the state after them. -/
def runSteps (n : Nat) (s : Machine.State) : Option Machine.State :=
  match n with
  | 0 => some s
  | n + 1 => match Machine.step s with
    | .next t => runSteps n t
    | .fault _ => none
    | .refused _ => none

/-- A run of `n` steps ends in neither a fault nor a refusal. -/
def SafeFor (n : Nat) (s : Machine.State) : Prop := (runSteps n s).isSome

/-- Memory is in its canonical form. -/
def Sound (s : Machine.State) : Prop := Machine.Memory.wf s.mem = true

namespace Machine

/-! ## Before an instruction -/

/-- Path `c` of warp `w` issues `i` and nothing keeps the instruction from its effect: the privilege of R68 is held, checks 8 to
11 of R70 pass, no operand waits for an outstanding write (R166), and the instruction need not wait for a counter, a queue
or a path entry. -/
structure Ready (i : Instr) (priv : Priv) (s : State) (c : Cur) (w : Warp) : Prop where
  cur : s.cur = some c
  warp : s.warp? c.w = some w
  held : s.permits w priv = true
  checked : checkOf i (s.headerField w Launch.vregs) (s.headerField w Launch.sregs) = none
  operands : s.scoreboard c.w (w.path c.p).replayOp (operandsOf i) = false
  free : s.mustWait i c w = false

/-- No debugger watches the warp's context (R373), and no lane register of the warp is uncorrectable (R359). -/
structure Plain (s : State) (w : Warp) : Prop where
  debug : s.debugOn w = false
  sound : w.badReg = []

/-- What a lane's operation gave: the value and its exceptions, `z` and none where it met a cause. -/
def Res.got {α : Type} (r : Res α) (z : α) : α × FpFlags :=
  match r with
  | .ok x fl => (x, fl)
  | .bad _ _ _ _ => (z, 0)

/-- The rational number that a finite value is (R32), 0 for the others. -/
def Fp.value (x : Fp) : ℚ :=
  match x with
  | .fin s m e => (if s then -1 else 1) * m * (2 : ℚ) ^ e
  | _ => 0

/-- A pattern of the format is finite. -/
def FpFmt.finite (f : FpFmt) (y : Nat) : Prop := y < 2 ^ f.width ∧ (f.unpack y).isNan = false ∧ (f.unpack y).isInf = false

/-- `r` is the value of sign `s` and magnitude `a` rounded once into the format (R36, R37, R38). Beyond the largest finite value, as
judged with unbounded exponent range, it overflows as R36's table says. Else it is finite and of the same sign; to the nearest no
finite value is nearer and a tie goes to the even pattern; in a directed mode it lies on its side and no finite value lies strictly
between. The flags are inexact where it differs from the exact value, and underflow with it where that, rounded with unbounded
exponent range, lies below the smallest normal. -/
def FpFmt.Rounds (f : FpFmt) (mode : Nat) (s : Bool) (a : ℚ) (r : Nat × FpFlags) : Prop :=
  let up := (mode = 2 ∧ s = true) ∨ (mode = 3 ∧ s = false)
  let size := fun (y : Nat) => |Fp.value (f.unpack y)|
  let top := size (f.infBits - 1)
  let ulp := top - size (f.infBits - 2)
  let low : ℚ := 2 ^ (f.emin + f.frac)
  let overflows := if mode = 0 then 2 * top + ulp < 2 * a ∨ (2 * a = 2 * top + ulp ∧ (f.infBits - 1) % 2 = 1)
    else (up ∧ top < a) ∨ (¬up ∧ top + ulp ≤ a)
  let tiny := if mode = 0 then a < low - 2 ^ (f.emin - 2) else (up ∧ a ≤ low - 2 ^ (f.emin - 1)) ∨ (¬up ∧ a < low)
  (overflows → r.2 = FpFlags.overflow ||| FpFlags.inexact ∧
    (f = .e4m3 → r.1 = f.sign s 0x7E) ∧
    (f ≠ .e4m3 → (mode = 0 ∨ up) → r.1 = f.sign s f.infBits) ∧
    (f ≠ .e4m3 → ¬(mode = 0 ∨ up) → r.1 = f.sign s (f.infBits - 1))) ∧
  (¬overflows → f.finite r.1 ∧ (f.unpack r.1).neg = s ∧
    (mode = 0 → ∀ y, f.finite y → |a - size r.1| ≤ |a - size y| ∧
      (|a - size r.1| = |a - size y| → size y ≠ size r.1 → r.1 % 2 = 0)) ∧
    (mode ≠ 0 → up → a ≤ size r.1 ∧ ∀ y, f.finite y → a ≤ size y → size r.1 ≤ size y) ∧
    (mode ≠ 0 → ¬up → size r.1 ≤ a ∧ ∀ y, f.finite y → size y ≤ a → size y ≤ size r.1) ∧
    (size r.1 = a → r.2 = 0) ∧ (size r.1 ≠ a → tiny → r.2 = FpFlags.inexact ||| FpFlags.underflow) ∧
    (size r.1 ≠ a → ¬tiny → r.2 = FpFlags.inexact))

/-! ## After an instruction -/

/-- The warp after an instruction that moves its path to the next instruction: next PC, end check and arrival check (R13, R133,
R172), the retired-instruction count (R378), the watchdog count where the instruction returns it to 0 (R357). -/
def Warp.afterRetire (w : Warp) (c : Cur) (resets : Bool) : Warp :=
  let w1 := (w.advance c.p c.pc c.next).updPath c.p (fun q => { q with replay := none, replayOp := none, passBreak := false, passWatch := false })
  { w1 with retired := if w.counting then w.retired + 1 else w.retired, watch := if resets then 0 else w.watch
            lastSafe := none, age := 0 }

/-- What every retirement does to a warp besides moving path `p` (R357, R365, R378). -/
def Warp.closed (w : Warp) (p : Nat) (resets : Bool) : Warp :=
  let w1 := w.updPath p (fun q => { q with replay := none, replayOp := none, passBreak := false, passWatch := false })
  { w1 with retired := if w.counting then w.retired + 1 else w.retired, watch := if resets then 0 else w.watch
            lastSafe := none, age := 0 }

/-- The warp after a transfer at `c` that takes all the lanes of a running path to one target (R122, R133, R172): the target becomes
the PC, and unless the transfer is a call every loop whose body does not hold it ends. A branch that no lane takes goes on as any
other instruction. -/
def Warp.wentTo (w : Warp) (c : Cur) (k : Xfer) (target : DWord) : Warp :=
  if k = .cond ∧ target = c.next then w.afterRetire c false
  else ((w.updPath c.p (fun q => { q with pc := target, stack := k.pop target q.stack })).settle c.p).closed c.p false

/-- What register `r` reads in lane `l` after a call has written its link `x` to the pair `d` (R127): in every lane of the
path, or once for a uniform pair. -/
def Warp.afterLink (w : Warp) (c : Cur) (d : Code) (x : DWord) (r : Code) (l : Nat) : Word :=
  if (d ≠ 0xFF ∧ (r = d ∨ r = nextCode d 1)) ∧ (classOf d = .uniform ∨ classOf d = .lane ∧ (w.path c.p).mask.getLsbD l = true) then
    (if r = d then x.lo else x.hi)
  else w.rd r l

/-- `w` with the lane, uniform and mask registers and the `fpflags` of `x`. -/
def Warp.withRegs (w x : Warp) : Warp :=
  { w with v := x.v, sreg := x.sreg, m := x.m, fpflags := x.fpflags, badReg := x.badReg }

/-- A lane executes the instruction (R24): it is on, and its guard bit is 1. -/
def Warp.runs (w : Warp) (pf : Option Prefix) (lanes : Mask) (l : Nat) : Bool := lanes.getLsbD l && (w.guardOf pf).getLsbD l

/-- A lane is on and guarded off under zero policy (R24). -/
def Warp.zeroed (w : Warp) (pf : Option Prefix) (lanes : Mask) (l : Nat) : Bool :=
  lanes.getLsbD l && !(w.guardOf pf).getLsbD l && w.zeroPolicy pf

/-- What register `r` reads in lane `l` after a word instruction with destination `d` and lane values `f` (R18, R20, R24,
R87): the lanes that run hold their value, zero policy writes 0, everything else is as before; a uniform or mask
destination is written once; m0 and z discard the write. -/
def Warp.afterWord (w : Warp) (pf : Option Prefix) (lanes : Mask) (d : Code) (f : Nat → Word) (r : Code) (l : Nat) : Word :=
  if r = d then
    match classOf d with
    | .lane => if w.runs pf lanes l then f l else if w.zeroed pf lanes l then 0 else w.rd d l
    | .uniform => f 0
    | .mask => if d = 0xC0 then w.rd d l else f 0
    | _ => w.rd d l
  else w.rd r l

/-- As `afterWord`, for a pair destination (R17): register `d` takes the low half and the next one the high half. -/
def Warp.afterPair (w : Warp) (pf : Option Prefix) (lanes : Mask) (d : Code) (f : Nat → DWord) (r : Code) (l : Nat) : Word :=
  if r = d ∧ d ≠ 0xFF then w.afterWord pf lanes d (fun i => (f i).lo) d l
  else if r = nextCode d 1 ∧ d ≠ 0xFF then w.afterWord pf lanes r (fun i => (f i).hi) r l
  else w.rd r l

/-- What mask register `r` holds after a compare into `d` (R24, R96): bit `l` is the lane's result where the lane runs, 0 under
zero policy, and unchanged for every other lane. -/
def Warp.afterBits (w : Warp) (pf : Option Prefix) (lanes : Mask) (d : Code) (f : Nat → Bool) (l : Nat) : Bool :=
  if w.runs pf lanes l then f l else if w.zeroed pf lanes l then false else (w.rd d 0).getLsbD l

/-- The `fpflags` of lane `l` after an instruction whose lanes raise `fl` (R26); executed once, it raises them in every lane
of the path. -/
def Warp.afterFlags (w : Warp) (pf : Option Prefix) (lanes : Mask) (once : Bool) (fl : Nat → FpFlags) (l : Nat) : FpFlags :=
  if once then (if lanes.getLsbD l then Assoc.get w.fpflags 0 l ||| fl 0 else Assoc.get w.fpflags 0 l)
  else if w.runs pf lanes l then Assoc.get w.fpflags 0 l ||| fl l else Assoc.get w.fpflags 0 l

/-- The instruction completes with these word results and exceptions: the whole machine but the issuing warp is unchanged, the
warp is as after a plain retirement but for its registers, and those read as `afterWord` says. -/
def WritesWord (i : Instr) (pf : Option Prefix) (d : Code) (once : Bool) (s : State) (c : Cur) (w : Warp)
    (f : Nat → Word) (fl : Nat → FpFlags) : Prop :=
  ∃ w' : Warp, exec i s = .next (s.setWarp c.w w') ∧ w' = (w.afterRetire c false).withRegs w' ∧
    (∀ r l, l < 32 → w'.rd r l = w.afterWord pf c.lanes d f r l) ∧
    (∀ l, l < 32 → Assoc.get w'.fpflags 0 l = w.afterFlags pf c.lanes once fl l)

/-- As `WritesWord`, for a pair destination. -/
def WritesPair (i : Instr) (pf : Option Prefix) (d : Code) (s : State) (c : Cur) (w : Warp) (f : Nat → DWord) : Prop :=
  ∃ w' : Warp, exec i s = .next (s.setWarp c.w w') ∧ w' = (w.afterRetire c false).withRegs w' ∧
    (∀ r l, l < 32 → w'.rd r l = w.afterPair pf c.lanes d f r l) ∧
    (∀ l, l < 32 → Assoc.get w'.fpflags 0 l = Assoc.get w.fpflags 0 l)

/-- As `WritesWord`, for a compare: `d` is a mask register, or z, which discards the bits. -/
def WritesBits (i : Instr) (pf : Option Prefix) (d : Code) (s : State) (c : Cur) (w : Warp)
    (f : Nat → Bool) (fl : Nat → FpFlags) : Prop :=
  ∃ w' : Warp, exec i s = .next (s.setWarp c.w w') ∧ w' = (w.afterRetire c false).withRegs w' ∧
    (∀ r l, l < 32 → (r ≠ d ∨ d = 0xC0 ∨ classOf d ≠ .mask) → w'.rd r l = w.rd r l) ∧
    (classOf d = .mask → d ≠ 0xC0 → ∀ l, l < 32 → (w'.rd d 0).getLsbD l = w.afterBits pf c.lanes d f l) ∧
    (∀ l, l < 32 → Assoc.get w'.fpflags 0 l = w.afterFlags pf c.lanes false fl l)

/-- As `WritesWord`, for an instruction after whose reads the machine is `q`. -/
def WritesWordIn (i : Instr) (pf : Option Prefix) (d : Code) (once : Bool) (s q : State) (c : Cur) (w : Warp)
    (f : Nat → Word) (fl : Nat → FpFlags) : Prop :=
  ∃ w' : Warp, exec i s = .next (q.setWarp c.w w') ∧ w' = (w.afterRetire c false).withRegs w' ∧
    (∀ r l, l < 32 → w'.rd r l = w.afterWord pf c.lanes d f r l) ∧
    (∀ l, l < 32 → Assoc.get w'.fpflags 0 l = w.afterFlags pf c.lanes once fl l)

/-- The context of the warp neither records nor checks its retired-instruction counts (R378). -/
def State.unrecorded (s : State) (w : Warp) : Prop :=
  (s.ctxOf w.asid).replay.toNat % 4 = 0 ∨ (s.ctxOf w.asid).replay.toNat % 4 = 3

/-- The warp after a synchronising instruction (R357, R378): as `afterRetire`, with the watchdog count at 0 and one more
synchronising operation. -/
def Warp.afterSync (w : Warp) (c : Cur) : Warp :=
  { w.afterRetire c true with syncs := if w.counting then w.syncs + 1 else w.syncs }

/-! ## Memory -/

/-- A place holds the bytes at these offsets: the line is in L2, the page is present, the allocation exists. -/
def State.backs (s : State) (p : Place) (off n : Nat) : Prop :=
  match p with
  | .line t k => ∃ l, s.findLine t k = some l ∧ off + n ≤ l.data.length
  | .phys => True
  | .pinned core k => (s.findPinned core k).isSome = true
  | .scratch t g => (s.group? t g).isSome = true

/-- The access touches nothing that software must leave alone: no claimed spill area (R273), no barrier word on which arrivals or waits
are in flight (R266), no save pool while a team is pending or saved (R369), and no index while a KSTORE or BGATHER is outstanding
(R323). -/
def State.Intact (s : State) (a : Access) : Prop :=
  (∀ p ∈ a.parts, (∀ t, s.tagOf a p = some t → s.inClaim t p.va = false) ∧ s.busyWords a.place p.off p.size = []) ∧
  (∀ x ∈ s.ctx, x.2.save = 0 ∨ s.poolBusy x.1 = false) ∧
  ∀ e ∈ s.engines, e.2.complete = true ∨ (∀ x t k v n b y, e.2.kind ≠ .kstore x t k v n b y) ∧
    ∀ x g q0 q1 q2 k d y, e.2.kind ≠ .bgather x g q0 q1 q2 k d y

/-- A warp without the model's record of what it has heard (log entry 6). -/
def Warp.deaf (w : Warp) : Warp := { w with heard := [] }

/-- The warp after it has issued a counted load or store with number `k`, before it retires (R144, R145). -/
def Warp.issued (w : Warp) (isLoad : Bool) (k : Nat) : Warp :=
  if isLoad then { w with loads := w.loads ++ [{ id := k, done := false }], seq := w.seq + 1 }
  else { w with stores := w.stores ++ [{ id := k, done := false }], seq := w.seq + 1 }

/-- The lanes that an access is made for, each at its hit, cover these bytes: every part lies in one lane's `size` bytes at that
lane's place, a store's part carries that lane's bytes, and every byte of every lane is in some part. -/
def Covers (as : List Access) (on : List Nat) (size : Nat) (va : Nat → Nat) (H : Nat → Hit) (data : Option (Nat → List Byte)) : Prop :=
  (∀ x ∈ as, ∀ p ∈ x.parts, p.lane ∈ on ∧ x.place = (H p.lane).place ∧ p.off = (H p.lane).off + p.voff ∧ p.va = va p.lane ∧
    0 < p.size ∧ p.voff + p.size ≤ size ∧ (∀ f, data = some f → p.data = sliceBytes (f p.lane) p.voff p.size)) ∧
  (∀ l ∈ on, ∀ j, j < size → ∃ x ∈ as, ∃ p ∈ x.parts, p.lane = l ∧ p.voff ≤ j ∧ j < p.voff + p.size)

/-! ## The Aster unit -/

/-- No other warp has a part in the collective steps of this one (R187, R196): it is live in its place and not halted, holds no slice
that an image was loaded into, and no other warp of its workgroup holds one or is held at a collective instruction. -/
structure DealsAlone (s : State) (c : Cur) (w : Warp) : Prop where
  full : (w.path c.p).mask = Mask.full
  live : w.live ≠ 0
  halt : w.halt = none ∧ w.halting = false
  place : (s.group? w.team w.wg).bind (fun g => g.keyAt w.warpId) = some c.w
  own : w.slice.loaded = false
  others : ∀ k x, k ≠ c.w → s.warp? k = some x → x.team = w.team → x.wg = w.wg → x.dealt k = none ∧ x.slice.loaded = false

/-! ## Engine operations -/

/-- The warp after it has posted operation `id` (R144, R286): its counter rises, its token is pending. -/
def Warp.posted (w : Warp) (isCopy : Bool) (id : Nat) (tok : Option Nat) : Warp :=
  let w1 : Warp := if isCopy then { w with copies := w.copies ++ [{ id := id, done := false }], copyNo := w.copyNo + 1 }
    else { w with tiles := w.tiles ++ [{ id := id, done := false }], tileNo := w.tileNo + 1 }
  { w1 with seq := w.seq + 1, tok := match tok with
      | none => w.tok
      | some t => Assoc.put w.tok t (.op id) }

/-- The state after an operation that takes these lines has been posted for a warp, whose counter and token are `w1` (R248, R286): the
stamps of the lines are lost. -/
def State.withOp (s : State) (key : Nat) (w1 : Warp) (e : EngOp) (os : List (Place × Nat)) : State :=
  let q := os.foldl (fun (s : State) o => match o.1 with
    | .line t n => s.loseStamps (.line t n)
    | _ => s) s
  ({ q with engines := Assoc.put q.engines s.fresh { e with owned := os }, fresh := s.fresh + 1 } : State).setWarp key w1

/-- The instruction posts this operation of the copy engine (R248, R286, R292), which takes the lines of `dst`. The accesses of its
path to them stand before it: while one cannot be performed the instruction does not issue; else, the state after them being `q`,
its warp retires, or yields to the continuation. With a continuation past the code limit it raises 0x4C. -/
def Posts (i : Instr) (s : State) (c : Cur) (w : Warp) (kind : EngKind) (dst : List Span) (total : Nat) (tok bar : Code)
    (yld : BitVec 1) (cont : BitVec 5) : Prop :=
  let e : EngOp := { EngOp.make c w kind w.copyNo total (tokenNo tok) (w.barOffset bar) with
                      yld := if yld = 1 then some (contPc c cont) else none }
  let os := e.ownLines dst
  (s.yieldBad c w yld cont = true → exec i s = .next (s.raiseWhole c 0x4C 0)) ∧
  (s.yieldBad c w yld cont = false →
    (s.drainBefore c w e os = none → exec i s = .next s) ∧
    (∀ q w0, s.drainBefore c w e os = some q → q.warp? c.w = some w0 → w0.held = none →
      let w1 := w0.posted true q.fresh (tokenNo tok)
      exec i s = .next (q.withOp c.w (
        if yld = 0 then w1.afterRetire c false
        else { (if cont = 0 then w1.advance c.p c.pc c.next else w1.goto c.p .jump (contPc c cont)).closed c.p false with
                held := some { why := .yielded q.fresh, cur := c, i := some i } }) e os)))

end Machine
end Sys2Proof
end

