-- ==== Sys2Proof/WellFormed.lean ====
section
/-!
DEFINITION. Which instructions are well formed: they have an encoding, every field holds a value that the rules assign,
and the prefix, where there is one, is accepted (R60, R61, R69).
-/
namespace Sys2Proof

/-- A prefix that an instruction of these groups accepts (R60, R61). -/
def prefixOk (g : Groups) (once : Bool) (pf : Option Prefix) : Bool :=
  match pf with
  | none => true
  | some p => (prefixBad g once p).isNone

/-- The context selectors that MTSR itself writes: those of R351 and R364 without a row of their own. -/
def mtsrPlain (s : BitVec 8) : Bool := mtsrOk s && s != 0x26 && s != 0x2E && s != 0x2F && s != 0x30

/-- Well-formed instructions. -/
def wellFormed (i : Instr) : Bool :=
  match i with
  | .add pf d a b => prefixOk ⟨false, false, false⟩ (onceR d [a, b]) pf
  | .sub pf d a b => prefixOk ⟨false, false, false⟩ (onceR d [a, b]) pf
  | .adds pf d a b => prefixOk ⟨false, false, false⟩ (onceR d [a, b]) pf
  | .subs pf d a b => prefixOk ⟨false, false, false⟩ (onceR d [a, b]) pf
  | .mullo pf d a b => prefixOk ⟨false, false, false⟩ (onceR d [a, b]) pf
  | .mulhiS pf d a b => prefixOk ⟨false, false, false⟩ (onceR d [a, b]) pf
  | .mulhiU pf d a b => prefixOk ⟨false, false, false⟩ (onceR d [a, b]) pf
  | .mad pf d a b => prefixOk ⟨false, false, true⟩ (onceR d (srcD pf d :: [a, b])) pf
  | .madwU pf d a b => prefixOk ⟨false, false, true⟩ (onceR d (srcD pf d :: [a, b])) pf
  | .madwS pf d a b => prefixOk ⟨false, false, true⟩ (onceR d (srcD pf d :: [a, b])) pf
  | .divS pf d a b => prefixOk ⟨false, false, false⟩ (onceR d [a, b]) pf
  | .divU pf d a b => prefixOk ⟨false, false, false⟩ (onceR d [a, b]) pf
  | .remS pf d a b => prefixOk ⟨false, false, false⟩ (onceR d [a, b]) pf
  | .remU pf d a b => prefixOk ⟨false, false, false⟩ (onceR d [a, b]) pf
  | .minS pf d a b => prefixOk ⟨false, false, false⟩ (onceR d [a, b]) pf
  | .minU pf d a b => prefixOk ⟨false, false, false⟩ (onceR d [a, b]) pf
  | .maxS pf d a b => prefixOk ⟨false, false, false⟩ (onceR d [a, b]) pf
  | .maxU pf d a b => prefixOk ⟨false, false, false⟩ (onceR d [a, b]) pf
  | .abs pf d a => prefixOk ⟨false, false, false⟩ (onceR d [a]) pf
  | .neg pf d a => prefixOk ⟨false, false, false⟩ (onceR d [a]) pf
  | .and pf d a b => prefixOk ⟨false, false, false⟩ (onceR d [a, b]) pf
  | .or pf d a b => prefixOk ⟨false, false, false⟩ (onceR d [a, b]) pf
  | .xor pf d a b => prefixOk ⟨false, false, false⟩ (onceR d [a, b]) pf
  | .andn pf d a b => prefixOk ⟨false, false, false⟩ (onceR d [a, b]) pf
  | .shl pf d a b => prefixOk ⟨false, false, false⟩ (onceR d [a, b]) pf
  | .shr pf d a b => prefixOk ⟨false, false, false⟩ (onceR d [a, b]) pf
  | .sar pf d a b => prefixOk ⟨false, false, false⟩ (onceR d [a, b]) pf
  | .rol pf d a b => prefixOk ⟨false, false, false⟩ (onceR d [a, b]) pf
  | .fshl pf d a b => prefixOk ⟨false, false, false⟩ (onceR d [a, b]) pf
  | .bfxU pf d a b => prefixOk ⟨false, false, false⟩ (onceR d [a, b]) pf
  | .bfxS pf d a b => prefixOk ⟨false, false, false⟩ (onceR d [a, b]) pf
  | .bfi pf d a b => prefixOk ⟨false, false, false⟩ (onceR d [a, b]) pf
  | .clz pf d a => prefixOk ⟨false, false, false⟩ (onceR d [a]) pf
  | .ctz pf d a => prefixOk ⟨false, false, false⟩ (onceR d [a]) pf
  | .popc pf d a => prefixOk ⟨false, false, false⟩ (onceR d [a]) pf
  | .brev pf d a => prefixOk ⟨false, false, false⟩ (onceR d [a]) pf
  | .permb pf d a b => prefixOk ⟨false, false, false⟩ (onceR d [a, b]) pf
  | .cmpEq pf d _ _ => prefixOk ⟨false, false, false⟩ (toUniform d) pf
  | .cmpNe pf d _ _ => prefixOk ⟨false, false, false⟩ (toUniform d) pf
  | .cmpLtS pf d _ _ => prefixOk ⟨false, false, false⟩ (toUniform d) pf
  | .cmpLeS pf d _ _ => prefixOk ⟨false, false, false⟩ (toUniform d) pf
  | .cmpLtU pf d _ _ => prefixOk ⟨false, false, false⟩ (toUniform d) pf
  | .cmpLeU pf d _ _ => prefixOk ⟨false, false, false⟩ (toUniform d) pf
  | .sel pf d _ _ => prefixOk ⟨false, false, false⟩ (onceDst d) pf
  | .mov pf d a => prefixOk ⟨false, false, false⟩ (onceR d [a]) pf
  | .movsr pf d _ => prefixOk ⟨false, false, false⟩ (onceR d []) pf
  | .setmode _ => true
  | .lea1 pf d a b => prefixOk ⟨false, false, false⟩ (onceR d [a, b]) pf
  | .lea4 pf d a b => prefixOk ⟨false, false, false⟩ (onceR d [a, b]) pf
  | .lea8 pf d a b => prefixOk ⟨false, false, false⟩ (onceR d [a, b]) pf
  | .lea16 pf d a b => prefixOk ⟨false, false, false⟩ (onceR d [a, b]) pf
  | .add64 pf d a b => prefixOk ⟨false, false, false⟩ (onceR d [a, b]) pf
  | .sub64 pf d a b => prefixOk ⟨false, false, false⟩ (onceR d [a, b]) pf
  | .cvti pf d a b => prefixOk ⟨false, false, false⟩ (onceR d [a, b]) pf
  | .addi16 pf d _ => prefixOk ⟨false, false, false⟩ (onceR d []) pf
  | .andi16 pf d _ => prefixOk ⟨false, false, false⟩ (onceR d []) pf
  | .ori16 pf d _ => prefixOk ⟨false, false, false⟩ (onceR d []) pf
  | .xori16 pf d _ => prefixOk ⟨false, false, false⟩ (onceR d []) pf
  | .shli pf d _ => prefixOk ⟨false, false, false⟩ (onceR d []) pf
  | .shri pf d _ => prefixOk ⟨false, false, false⟩ (onceR d []) pf
  | .sari pf d _ => prefixOk ⟨false, false, false⟩ (onceR d []) pf
  | .movhi16 pf d _ => prefixOk ⟨false, false, false⟩ (onceR d []) pf
  | .ldc pf d a _ => prefixOk ⟨false, false, false⟩ (onceR d [a]) pf
  | .fadd pf d a b => prefixOk ⟨true, true, false⟩ (onceR d [a, b]) pf
  | .fsub pf d a b => prefixOk ⟨true, true, false⟩ (onceR d [a, b]) pf
  | .fmul pf d a b => prefixOk ⟨true, true, false⟩ (onceR d [a, b]) pf
  | .ffma pf d a b => prefixOk ⟨true, true, true⟩ (onceR d (srcD pf d :: [a, b])) pf
  | .ffmc pf d a _ => prefixOk ⟨true, true, true⟩ (onceR d (srcD pf d :: [a])) pf
  | .fmin pf d a b => prefixOk ⟨false, true, false⟩ (onceR d [a, b]) pf
  | .fmax pf d a b => prefixOk ⟨false, true, false⟩ (onceR d [a, b]) pf
  | .fabs pf d a => prefixOk ⟨false, true, false⟩ (onceR d [a]) pf
  | .fneg pf d a => prefixOk ⟨false, true, false⟩ (onceR d [a]) pf
  | .fcmpEq pf d _ _ => prefixOk ⟨false, true, false⟩ (toUniform d) pf
  | .fcmpLt pf d _ _ => prefixOk ⟨false, true, false⟩ (toUniform d) pf
  | .fcmpLe pf d _ _ => prefixOk ⟨false, true, false⟩ (toUniform d) pf
  | .fcmpUn pf d _ _ => prefixOk ⟨false, true, false⟩ (toUniform d) pf
  | .fclass pf d a => prefixOk ⟨false, true, false⟩ (onceR d [a]) pf
  | .fdiv pf d a b => prefixOk ⟨true, true, false⟩ (onceR d [a, b]) pf
  | .fsqrt pf d a => prefixOk ⟨true, true, false⟩ (onceR d [a]) pf
  | .frcp pf d a => prefixOk ⟨true, true, false⟩ (onceR d [a]) pf
  | .frsq pf d a => prefixOk ⟨true, true, false⟩ (onceR d [a]) pf
  | .fexp2 pf d a => prefixOk ⟨true, true, false⟩ (onceR d [a]) pf
  | .flog2 pf d a => prefixOk ⟨true, true, false⟩ (onceR d [a]) pf
  | .fsin pf d a => prefixOk ⟨true, true, false⟩ (onceR d [a]) pf
  | .fcos pf d a => prefixOk ⟨true, true, false⟩ (onceR d [a]) pf
  | .fround pf d a => prefixOk ⟨true, true, false⟩ (onceR d [a]) pf
  | .fscale pf d a b => prefixOk ⟨true, true, false⟩ (onceR d [a, b]) pf
  | .fcvtF2i pf d a b => prefixOk ⟨true, false, false⟩ (onceR d [a, b]) pf
  | .fcvtI2f pf d a b => prefixOk ⟨true, false, false⟩ (onceR d [a, b]) pf
  | .fcvtF2f pf d a b => prefixOk ⟨true, false, false⟩ (onceR d [a, b]) pf
  | .hadd2 pf d a b => prefixOk ⟨true, false, false⟩ (onceR d [a, b]) pf
  | .hmul2 pf d a b => prefixOk ⟨true, false, false⟩ (onceR d [a, b]) pf
  | .hfma2 pf d a b => prefixOk ⟨true, false, true⟩ (onceR d (srcD pf d :: [a, b])) pf
  | .hdot2 pf d a b => prefixOk ⟨true, false, true⟩ (onceR d (srcD pf d :: [a, b])) pf
  | .brt _ _ => true
  | .brf _ _ => true
  | .bra _ => true
  | .brx n _ _ => n != 0
  | .call _ _ => true
  | .callx _ _ => true
  | .ret _ => true
  | .jpt _ => true
  | .join => true
  | .loop _ e => e != 0
  | .loopi _ e => e != 0
  | .exit => true
  | .wait _ _ _ _ => true
  | .yield => true
  | .safe _ => true
  | .nop => true
  | .ld8u pf d a _ _ => prefixOk ⟨false, false, false⟩ (onceLoad d a) pf
  | .ld8s pf d a _ _ => prefixOk ⟨false, false, false⟩ (onceLoad d a) pf
  | .ld16u pf d a _ _ => prefixOk ⟨false, false, false⟩ (onceLoad d a) pf
  | .ld16s pf d a _ _ => prefixOk ⟨false, false, false⟩ (onceLoad d a) pf
  | .ld32 pf d a _ _ => prefixOk ⟨false, false, false⟩ (onceLoad d a) pf
  | .ld64 pf d a _ _ => prefixOk ⟨false, false, false⟩ (onceLoad d a) pf
  | .ld128 pf d a _ _ => prefixOk ⟨false, false, false⟩ (onceLoad d a) pf
  | .st8 pf d a _ _ => prefixOk ⟨false, false, false⟩ (!(isLane a || isLane d)) pf
  | .st16 pf d a _ _ => prefixOk ⟨false, false, false⟩ (!(isLane a || isLane d)) pf
  | .st32 pf d a _ _ => prefixOk ⟨false, false, false⟩ (!(isLane a || isLane d)) pf
  | .st64 pf d a _ _ => prefixOk ⟨false, false, false⟩ (!(isLane a || isLane d)) pf
  | .st128 pf d a _ _ => prefixOk ⟨false, false, false⟩ (!(isLane a || isLane d)) pf
  | .lds32 pf d a _ _ => prefixOk ⟨false, false, false⟩ (onceLoad d a) pf
  | .sts32 pf d a _ _ => prefixOk ⟨false, false, false⟩ (!(isLane a || isLane d)) pf
  | .lds128 pf d a _ _ => prefixOk ⟨false, false, false⟩ (onceLoad d a) pf
  | .sts128 pf d a _ _ => prefixOk ⟨false, false, false⟩ (!(isLane a || isLane d)) pf
  | .ballot pf d _ => prefixOk ⟨false, false, false⟩ (toUniform d) pf
  | .shflIdx pf d _ _ => prefixOk ⟨false, false, false⟩ (toUniform d) pf
  | .shflUp pf d _ _ => prefixOk ⟨false, false, false⟩ (toUniform d) pf
  | .shflDown pf d _ _ => prefixOk ⟨false, false, false⟩ (toUniform d) pf
  | .shflXor pf d _ _ => prefixOk ⟨false, false, false⟩ (toUniform d) pf
  | .redux pf d _ _ => prefixOk ⟨false, false, false⟩ (toUniform d) pf
  | .scan pf d _ _ => prefixOk ⟨false, false, false⟩ (toUniform d) pf
  | .qappend pf d _ => prefixOk ⟨false, false, false⟩ (toUniform d) pf
  | .xchgp pf d _ => prefixOk ⟨false, false, false⟩ (toUniform d) pf
  | .expand _ _ _ _ => true
  | .exnext _ _ _ => true
  | .exred _ => true
  | .exfin _ => true
  | .exsave _ => true
  | .exload _ => true
  | .matchLanes pf d _ => prefixOk ⟨false, false, false⟩ (toUniform d) pf
  | .atom pf d a b aop width _ c => aop != 15 && decide (width.toNat ≤ 1) && (aop == 9 || c == 0) && prefixOk ⟨false, false, false⟩ (!(isLane d || isLane a || isLane b || (aop == 9 && isLane c))) pf
  | .atoms pf d a b aop width _ c => aop != 15 && decide (width.toNat ≤ 1) && (aop == 9 || c == 0) && prefixOk ⟨false, false, false⟩ (!(isLane d || isLane a || isLane b || (aop == 9 && isLane c))) pf
  | .fence k s => k != 3 && decide (s.toNat ≤ 4)
  | .arrive _ _ _ => true
  | .waitbPh _ _ => true
  | .waitbCnt _ _ => true
  | .barWg => true
  | .barTeam => true
  | .mwaitNe _ _ => true
  | .mwaitGeu _ _ => true
  | .pref _ => true
  | .prefL1 _ => true
  | .cflushWb _ => true
  | .cflushInv _ => true
  | .htclaim _ _ _ => true
  | .htrel _ => true
  | .hins pf _ a _ => prefixOk ⟨false, false, false⟩ (!isLane a) pf
  | .hprobe pf _ a _ => prefixOk ⟨false, false, false⟩ (!isLane a) pf
  | .hdel pf _ a _ => prefixOk ⟨false, false, false⟩ (!isLane a) pf
  | .hacc pf _ a _ op ty => decide (op.toNat ≤ 2) && ty != 3 && prefixOk ⟨false, false, false⟩ (!isLane a) pf
  | .hdrain _ _ _ => true
  | .thld _ _ _ => true
  | .thset _ _ sel => selOk sel
  | .thget _ _ sel => selOk sel
  | .copy _ _ _ _ _ _ yld cont => (yld != 0 || cont == 0)
  | .gather _ _ _ _ _ _ yld _ cont => (yld != 0 || cont == 0)
  | .scatter _ _ _ _ _ _ yld _ _ cont => (yld != 0 || cont == 0)
  | .tsplit _ _ _ _ _ _ yld cont => (yld != 0 || cont == 0)
  | .mma _ _ _ _ _ => true
  | .mmaloop _ _ _ _ _ _ _ => true
  | .mbatch _ _ => true
  | .waitt _ => true
  | .maccAlloc _ => true
  | .maccFree _ => true
  | .mdrain _ _ _ _ _ => true
  | .bput _ _ => true
  | .kstore _ _ b _ _ _ _ val _ => (val != 0 || b == 0xFF)
  | .bgather _ _ _ _ dist _ _ => dist != 3
  | .addL pf d a _ => prefixOk ⟨false, false, false⟩ (onceR d [a]) pf
  | .andL pf d a _ => prefixOk ⟨false, false, false⟩ (onceR d [a]) pf
  | .orL pf d a _ => prefixOk ⟨false, false, false⟩ (onceR d [a]) pf
  | .xorL pf d a _ => prefixOk ⟨false, false, false⟩ (onceR d [a]) pf
  | .movL pf d _ => prefixOk ⟨false, false, false⟩ (onceR d []) pf
  | .mulloL pf d a _ => prefixOk ⟨false, false, false⟩ (onceR d [a]) pf
  | .cmpEqL pf d _ _ => prefixOk ⟨false, false, false⟩ (toUniform d) pf
  | .cmpLtSL pf d _ _ => prefixOk ⟨false, false, false⟩ (toUniform d) pf
  | .faddL pf d a _ => prefixOk ⟨true, true, false⟩ (onceR d [a]) pf
  | .fmulL pf d a _ => prefixOk ⟨true, true, false⟩ (onceR d [a]) pf
  | .ffmaL pf d a b _ => prefixOk ⟨true, true, false⟩ (onceR d [a, b]) pf
  | .fminL pf d a _ => prefixOk ⟨false, true, false⟩ (onceR d [a]) pf
  | .fmaxL pf d a _ => prefixOk ⟨false, true, false⟩ (onceR d [a]) pf
  | .fcmpLtL pf d _ _ => prefixOk ⟨false, true, false⟩ (toUniform d) pf
  | .qsig _ _ _ => true
  | .kidx n _ => decide (n.toNat ≤ 3)
  | .mload _ _ _ => true
  | .trap _ => true
  | .trapFrame _ => true
  | .eretRetry => true
  | .eretSkip => true
  | .eretTo _ => true
  | .mtsrFpflags _ => true
  | .mtsrCtxPreempt _ _ => true
  | .mtsrCtxHalt _ _ => true
  | .mtsrCtxLcbins _ _ => true
  | .mtsrFaultlog _ _ => true
  | .mtsr s _ _ => mtsrPlain s
  | .resumeReplay _ _ => true
  | .resumeDeliver _ _ => true
  | .resumeTerm _ _ => true
  | .launch _ _ => true
  | .tlbinvPage _ _ => true
  | .tlbinvAsid _ => true
  | .tlbinvAll => true
  | .asinv _ => true
  | .bkpt _ => true
  | .clrset _ => true
  | .perfrd _ k _ => decide (k.toNat ≤ 5)
  | .movi20 pf d _ => prefixOk ⟨false, false, false⟩ (onceR d []) pf
  | .movf20 pf d _ => prefixOk ⟨false, false, false⟩ (onceR d []) pf
  | .nonInstruction _ _ _ _ => false
  | .faultLogHeldAppend _ => false
  | .heldTransferReexecution _ _ => false
  | .waitRelease _ => false
  | .barRelease _ => false
  | .waitbRelease _ => false
  | .mwaitRelease _ => false
  | .waittRelease _ => false
  | .xchgpMatch _ => false
  | .asterStepMatch _ => false
  | .launchEnqueue _ => false
  | .dependenceConditionRead _ _ => false
  | .teamAdmission _ => false
  | .l1Reclaim _ => false
  | .warpCompletion _ => false
  | .teamCompletion _ => false
  | .translationRequest _ => false
  | .corePinnedSlotWaitEnd _ => false
  | .sliceMiss _ => false
  | .accessPerform _ => false
  | .loadCompletion _ => false
  | .storeAcknowledge _ => false
  | .engineLineTransfer _ => false
  | .tsplitTileEncode _ => false
  | .copyOperationComplete _ => false
  | .matrixStep _ => false
  | .matrixOperationComplete _ => false
  | .mdrainExecute _ => false
  | .batchComplete _ => false
  | .kstoreToken _ => false
  | .bgatherBucketVisit _ => false
  | .bgatherToken _ => false
  | .remoteRequest _ => false
  | .remoteTimeout _ => false
  | .watchdogExpiry _ => false
  | .handlerLimitExpiry _ => false
  | .preemptionOverdue _ => false
  | .teamReadmission _ => false
  | .startCold _ => false
  | .startWarm _ => false
  | .mboxWrite _ => false
  | .bar0RegisterWrite _ _ => false
  | .bar2WindowAccess _ _ _ => false
  | .powerGood => false
  | .startStage1 => false
  | .startStage2 => false
  | .idleEntry _ => false
  | .clockGateEntry _ => false
  | .retentionEntry _ => false
  | .powerWake _ => false
  | .dieThrottle _ _ => false
  | .criticalTemperature => false
  | .storageSoftError _ _ => false
  | .fabricResponseLost _ _ => false
  | .memorySideStampLost _ => false
  | .routeLinksDown _ _ => false
  | .routeLinksUp _ => false
  | .peerDebugHoldChange _ _ => false

end Sys2Proof
end

