-- ==== Sys2Proof/Certificates/Slice0/Obligations.lean ====
section
/-!
DEFINITION. Statements for the provers.
-/
open Sys2Proof Sys2Proof.Machine

/-! ## Integer instructions -/

/-- R90, R93, R95, R100: the two-source integer instructions complete, write their result lane by lane under the guard, or
once for a uniform or mask destination, and change nothing else: no flag, no byte of memory, no other register, no other
warp. Saturation, high products, shifts, rotation and fields are stated on integers. R90, R102, R104, R65: the one-source,
immediate and literal integer instructions, MOV.L, MOVI20 and MOVF20. R97: SEL writes every lane of the path, the first
source where the guard bit is 1 and the second where it is 0. R98, R25: MOVSR writes the special register that its selector
names; `clock`, a pair, is read whole. R99, R22: SETMODE with a value that R22 accepts replaces MODE, bit 13 only in
supervisor mode; any other value raises 0x0C and MODE is kept. R90, R93, R95, R100: what CLZ, CTZ, POPC, BREV, BFX.S, BFI,
PERMB and CVTI compute. The opcodes of R90, R93, R95, R99 and R100. -/
def Obligations.IntegerResults : Prop :=
  (∀ e ∈ ([(Instr.add, fun x y => x + y), (Instr.sub, fun x y => x - y),
      (Instr.adds, fun x y => BitVec.ofInt 32 (max (-2147483648) (min 2147483647 (x.toInt + y.toInt)))),
      (Instr.subs, fun x y => BitVec.ofInt 32 (max (-2147483648) (min 2147483647 (x.toInt - y.toInt)))),
      (Instr.mullo, fun x y => x * y), (Instr.mulhiS, fun x y => BitVec.ofInt 32 (x.toInt * y.toInt / 4294967296)),
      (Instr.mulhiU, fun x y => BitVec.ofNat 32 (x.toNat * y.toNat / 4294967296)),
      (Instr.minS, fun x y => if x.toInt ≤ y.toInt then x else y), (Instr.minU, fun x y => if x.toNat ≤ y.toNat then x else y),
      (Instr.maxS, fun x y => if x.toInt ≤ y.toInt then y else x), (Instr.maxU, fun x y => if x.toNat ≤ y.toNat then y else x),
      (Instr.and, fun x y => x &&& y), (Instr.or, fun x y => x ||| y), (Instr.xor, fun x y => x ^^^ y),
      (Instr.andn, fun x y => x &&& ~~~y), (Instr.shl, fun x y => BitVec.ofNat 32 (x.toNat * 2 ^ (y.toNat % 256))),
      (Instr.shr, fun x y => BitVec.ofNat 32 (x.toNat / 2 ^ (y.toNat % 256))),
      (Instr.sar, fun x y => BitVec.ofInt 32 (x.toInt / 2 ^ (y.toNat % 256))),
      (Instr.rol, fun x y => BitVec.ofNat 32 (x.toNat * 2 ^ (y.toNat % 32) + x.toNat / 2 ^ (32 - y.toNat % 32))),
      (Instr.bfxU, fun x y => BitVec.ofNat 32 (x.toNat / 2 ^ (y.toNat % 32) % 2 ^ (min (y.toNat / 256 % 64) (32 - y.toNat % 32)))),
      (Instr.bfxS, bfxSW), (Instr.permb, permbW), (Instr.cvti, cvtiW)] :
      List ((Option Prefix → Code → Code → Code → Instr) × (Word → Word → Word))),
    ∀ (pf : Option Prefix) (d a b : Code) (s : State) (c : Cur) (w : Warp),
      Ready (e.1 pf d a b) .none s c w → Plain s w →
      WritesWord (e.1 pf d a b) pf d (onceR d [a, b]) s c w (fun l => e.2 (w.rd a l) (w.rd b l)) (fun _ => 0)) ∧
  ((∀ e ∈ ([(Instr.abs, fun x => if x.toInt < 0 then 0 - x else x), (Instr.neg, fun x => 0 - x), (Instr.mov, fun x => x),
      (Instr.clz, fun x => BitVec.ofNat 32 (leading x)), (Instr.ctz, fun x => BitVec.ofNat 32 (trailing x)),
      (Instr.popc, fun x => BitVec.ofNat 32 (popcount x)), (Instr.brev, reverseBits)] :
      List ((Option Prefix → Code → Code → Instr) × (Word → Word))),
    ∀ (pf : Option Prefix) (d a : Code) (s : State) (c : Cur) (w : Warp),
      Ready (e.1 pf d a) .none s c w → Plain s w →
      WritesWord (e.1 pf d a) pf d (onceR d [a]) s c w (fun l => e.2 (w.rd a l)) (fun _ => 0)) ∧
  (∀ e ∈ ([(Instr.addi16, fun i x => x + i.signExtend 32), (Instr.andi16, fun i x => x &&& i.setWidth 32),
      (Instr.ori16, fun i x => x ||| i.setWidth 32), (Instr.xori16, fun i x => x ^^^ i.setWidth 32),
      (Instr.movhi16, fun i x => BitVec.ofNat 32 (i.toNat * 65536 + x.toNat % 65536))] :
      List ((Option Prefix → Code → BitVec 16 → Instr) × (BitVec 16 → Word → Word))),
    ∀ (pf : Option Prefix) (d : Code) (i : BitVec 16) (s : State) (c : Cur) (w : Warp),
      Ready (e.1 pf d i) .none s c w → Plain s w →
      WritesWord (e.1 pf d i) pf d (onceR d []) s c w (fun l => e.2 i (w.rd d l)) (fun _ => 0)) ∧
  (∀ e ∈ ([(Instr.shli, fun n x => BitVec.ofNat 32 (x.toNat * 2 ^ n)), (Instr.shri, fun n x => BitVec.ofNat 32 (x.toNat / 2 ^ n)),
      (Instr.sari, fun n x => BitVec.ofInt 32 (x.toInt / 2 ^ n))] :
      List ((Option Prefix → Code → BitVec 5 → Instr) × (Nat → Word → Word))),
    ∀ (pf : Option Prefix) (d : Code) (n : BitVec 5) (s : State) (c : Cur) (w : Warp),
      Ready (e.1 pf d n) .none s c w → Plain s w →
      WritesWord (e.1 pf d n) pf d (onceR d []) s c w (fun l => e.2 n.toNat (w.rd d l)) (fun _ => 0)) ∧
  (∀ e ∈ ([(Instr.addL, fun x y => x + y), (Instr.andL, fun x y => x &&& y), (Instr.orL, fun x y => x ||| y),
      (Instr.xorL, fun x y => x ^^^ y), (Instr.mulloL, fun x y => x * y)] :
      List ((Option Prefix → Code → Code → Word → Instr) × (Word → Word → Word))),
    ∀ (pf : Option Prefix) (d a : Code) (lit : Word) (s : State) (c : Cur) (w : Warp),
      Ready (e.1 pf d a lit) .none s c w → Plain s w →
      WritesWord (e.1 pf d a lit) pf d (onceR d [a]) s c w (fun l => e.2 (w.rd a l) lit) (fun _ => 0)) ∧
  (∀ (pf : Option Prefix) (d : Code) (lit : Word) (s : State) (c : Cur) (w : Warp),
      Ready (.movL pf d lit) .none s c w → Plain s w →
      WritesWord (.movL pf d lit) pf d (onceR d []) s c w (fun _ => lit) (fun _ => 0)) ∧
  (∀ (pf : Option Prefix) (d : Code) (i : BitVec 20) (s : State) (c : Cur) (w : Warp),
      Ready (.movi20 pf d i) .none s c w → Plain s w →
      WritesWord (.movi20 pf d i) pf d (onceR d []) s c w (fun _ => i.signExtend 32) (fun _ => 0)) ∧
  (∀ (pf : Option Prefix) (d : Code) (i : BitVec 20) (s : State) (c : Cur) (w : Warp),
      Ready (.movf20 pf d i) .none s c w → Plain s w →
      WritesWord (.movf20 pf d i) pf d (onceR d []) s c w (fun _ => BitVec.ofNat 32 (i.toNat * 4096)) (fun _ => 0))) ∧
  (∀ (pf : Option Prefix) (d a b : Code) (s : State) (c : Cur) (w : Warp),
    Ready (.sel pf d a b) .none s c w → Plain s w →
    ∃ w' : Warp, exec (.sel pf d a b) s = .next (s.setWarp c.w w') ∧ w' = (w.afterRetire c false).withRegs w' ∧
      (∀ l, l < 32 → Assoc.get w'.fpflags 0 l = Assoc.get w.fpflags 0 l) ∧
      ∀ r l, l < 32 → w'.rd r l =
        if r = d ∧ classOf d = .lane ∧ c.lanes.getLsbD l = true then
          (if (w.guardOf pf).getLsbD l then w.rd a l else w.rd b l)
        else w.rd r l) ∧
  (∀ (pf : Option Prefix) (d sel : Code) (s : State) (c : Cur) (w : Warp),
    Ready (.movsr pf d sel) .none s c w → Plain s w →
    (sel ≠ 0x0C → WritesWord (.movsr pf d sel) pf d (onceR d []) s c w (fun l => s.special c w sel l) (fun _ => 0)) ∧
    (sel = 0x0C → (d.toNat % 2 = 0 ∨ d = 0xFF) → WritesPair (.movsr pf d sel) pf d s c w (fun _ => s.clock))) ∧
  (∀ (i : BitVec 16) (s : State) (c : Cur) (w : Warp), Ready (.setmode i) .none s c w → Plain s w →
    ((i.toNat % 16 ≤ 2 ∧ i.toNat / 16 % 8 ≤ 3 ∧ i.toNat / 16384 = 0) →
      ∃ m : BitVec 16, exec (.setmode i) s = .next (s.setWarp c.w ({ w with mode := m }.afterRetire c false)) ∧
        (∀ k, k < 16 → k ≠ 13 → m.getLsbD k = i.getLsbD k) ∧
        m.getLsbD 13 = if w.asid = 0 then i.getLsbD 13 else w.mode.getLsbD 13) ∧
    (¬(i.toNat % 16 ≤ 2 ∧ i.toNat / 16 % 8 ≤ 3 ∧ i.toNat / 16384 = 0) →
      exec (.setmode i) s = .next (s.raiseWhole c 0x0C 0))) ∧
  ((leading 0 = 32 ∧ trailing 0 = 32) ∧
  (∀ x : Word, (x ≠ 0 → leading x < 32 ∧ x.toNat / 2 ^ (31 - leading x) = 1) ∧
    (x ≠ 0 → trailing x < 32 ∧ x.toNat % 2 ^ (trailing x + 1) = 2 ^ trailing x) ∧
    popcount x = ((List.range 32).map (fun j => (x.getLsbD j).toNat)).sum ∧
    ∀ j, j < 32 → (reverseBits x).getLsbD j = x.getLsbD (31 - j)) ∧
  (∀ x ins y : Word,
    let pos := y.toNat % 32
    let n := min (y.toNat / 256 % 64) (32 - pos)
    (n = 0 → bfxSW x y = 0) ∧
    (n ≠ 0 → (bfxSW x y).toInt = ((x.toNat / 2 ^ pos % 2 ^ n : Nat) : Int) - (if x.getLsbD (pos + n - 1) then 2 ^ n else 0)) ∧
    (∀ j, j < 32 → (bfiW x ins y).getLsbD j = if pos ≤ j ∧ j < pos + n then ins.getLsbD (j - pos) else x.getLsbD j)) ∧
  (∀ (x y : Word) (j : Nat), j < 4 →
    let sel := y.toNat / 16 ^ j % 16
    let byte := x.toNat / 256 ^ (sel % 4) % 256
    (permbW x y).toNat / 256 ^ j % 256 = if 8 ≤ sel then 0 else if sel < 4 then byte else if 128 ≤ byte then 255 else 0) ∧
  (∀ x y : Word,
    let n := if y.toNat % 4 = 0 then 8 else if y.toNat % 4 = 1 then 16 else 32
    let v : Int := if y.getLsbD 3 then x.toInt else x.toNat
    cvtiW x y = BitVec.ofInt 32 (if y.getLsbD 2 then max (-(2 ^ (n - 1))) (min (2 ^ (n - 1) - 1) v) else max 0 (min (2 ^ n - 1) v)))) ∧
  (∀ (d a b : Code) (i : BitVec 16),
    (∀ e ∈ ([(Instr.add, 0x01), (Instr.sub, 0x02), (Instr.adds, 0x03), (Instr.subs, 0x04), (Instr.mullo, 0x05), (Instr.mulhiS, 0x06),
        (Instr.mulhiU, 0x07), (Instr.minS, 0x0F), (Instr.minU, 0x10), (Instr.maxS, 0x11), (Instr.maxU, 0x12), (Instr.and, 0x15),
        (Instr.or, 0x16), (Instr.xor, 0x17), (Instr.andn, 0x18), (Instr.shl, 0x19), (Instr.shr, 0x1A), (Instr.sar, 0x1B),
        (Instr.rol, 0x1C), (Instr.bfxU, 0x1E), (Instr.bfxS, 0x1F), (Instr.permb, 0x25), (Instr.cvti, 0x36)] :
        List ((Option Prefix → Code → Code → Code → Instr) × BitVec 8)),
      encode (e.1 none d a b) = [e.2 ++ d ++ a ++ b]) ∧
    (∀ e ∈ ([(Instr.abs, 0x13), (Instr.neg, 0x14), (Instr.clz, 0x21), (Instr.ctz, 0x22), (Instr.popc, 0x23), (Instr.brev, 0x24),
        (Instr.mov, 0x2D)] : List ((Option Prefix → Code → Code → Instr) × BitVec 8)),
      encode (e.1 none d a) = [e.2 ++ d ++ a ++ 0#8]) ∧
    encode (.setmode i) = [0x2F#8 ++ 0#8 ++ i])

/-- R92: a division or remainder whose divisor is zero in no lane that runs completes with the truncated quotient or the
remainder of the dividend's sign. R92, R88, R356: with a zero divisor in some lane that runs, a division of a lane
destination or z raises 0x10 whose faulting lanes are exactly those lanes, whose destination is unchanged; the other lanes
have written their results, the path has not moved on. A zero divisor of a uniform or mask destination raises 0x10 for the
whole path. R91, R94, R93: MAD adds the third operand, which is the old destination or the prefix's E register; FSHL and BFI
read the pair named by their first source. R91, R101: the pair results. Products widen to 64 bits before they are added; LEA
scales the second source. The opcodes of R92 and R94. -/
def Obligations.DivisionAndWideResults : Prop :=
  (∀ e ∈ ([(Instr.divS, fun x y => BitVec.ofInt 32 (x.toInt.tdiv y.toInt)), (Instr.divU, fun x y => BitVec.ofNat 32 (x.toNat / y.toNat)),
      (Instr.remS, fun x y => BitVec.ofInt 32 (x.toInt.tmod y.toInt)), (Instr.remU, fun x y => BitVec.ofNat 32 (x.toNat % y.toNat))] :
      List ((Option Prefix → Code → Code → Code → Instr) × (Word → Word → Word))),
    ∀ (pf : Option Prefix) (d a b : Code) (s : State) (c : Cur) (w : Warp),
      Ready (e.1 pf d a b) .none s c w → Plain s w →
      (onceR d [a, b] = true → w.rd b 0 ≠ 0) →
      (onceR d [a, b] = false → ∀ l, w.runs pf c.lanes l = true → w.rd b l ≠ 0) →
      WritesWord (e.1 pf d a b) pf d (onceR d [a, b]) s c w (fun l => e.2 (w.rd a l) (w.rd b l)) (fun _ => 0)) ∧
  (∀ e ∈ ([(Instr.divS, fun x y => BitVec.ofInt 32 (x.toInt.tdiv y.toInt)), (Instr.divU, fun x y => BitVec.ofNat 32 (x.toNat / y.toNat)),
      (Instr.remS, fun x y => BitVec.ofInt 32 (x.toInt.tmod y.toInt)), (Instr.remU, fun x y => BitVec.ofNat 32 (x.toNat % y.toNat))] :
      List ((Option Prefix → Code → Code → Code → Instr) × (Word → Word → Word))),
    ∀ (pf : Option Prefix) (d a b : Code) (s : State) (c : Cur) (w : Warp),
      Ready (e.1 pf d a b) .none s c w → Plain s w →
      (onceR d [a, b] = true → w.rd b 0 = 0 → exec (e.1 pf d a b) s = .next (s.raiseWhole c 0x10 0)) ∧
      (onceR d [a, b] = false → (∃ l, l < 32 ∧ w.runs pf c.lanes l = true ∧ w.rd b l = 0) →
      ∃ (w' : Warp) (x : Cause), exec (e.1 pf d a b) s = .next ((s.setWarp c.w w').raise c x none) ∧
        x.code = 0x10 ∧ x.sub = 0 ∧ x.other = false ∧
        (∀ l, l < 32 → x.lanes.getLsbD l = (w.runs pf c.lanes l && w.rd b l == 0)) ∧
        w' = w.withRegs w' ∧ w'.fpflags = w.fpflags ∧
        (∀ r l, l < 32 → w'.rd r l =
          if w.runs pf c.lanes l = true ∧ w.rd b l = 0 then w.rd r l
          else w.afterWord pf c.lanes d (fun l => e.2 (w.rd a l) (w.rd b l)) r l))) ∧
  (∀ (pf : Option Prefix) (d a b : Code) (s : State) (c : Cur) (w : Warp), Plain s w →
    (Ready (.mad pf d a b) .none s c w →
      WritesWord (.mad pf d a b) pf d (onceR d [srcD pf d, a, b]) s c w
        (fun l => w.rd a l * w.rd b l + w.rd (srcD pf d) l) (fun _ => 0)) ∧
    (Ready (.fshl pf d a b) .none s c w →
      WritesWord (.fshl pf d a b) pf d (onceR d [a, b]) s c w (fun l =>
        let n := (w.rd b l).toNat % 32
        if n = 0 then w.rd (nextCode a 1) l
        else BitVec.ofNat 32 ((w.rd (nextCode a 1) l).toNat * 2 ^ n + (w.rd a l).toNat / 2 ^ (32 - n))) (fun _ => 0)) ∧
    (Ready (.bfi pf d a b) .none s c w →
      WritesWord (.bfi pf d a b) pf d (onceR d [a, b]) s c w (fun l =>
        bfiW (w.rd a l) (w.rd (nextCode a 1) l) (w.rd b l)) (fun _ => 0))) ∧
  (∀ (pf : Option Prefix) (d a b : Code) (s : State) (c : Cur) (w : Warp), Plain s w → (d.toNat % 2 = 0 ∨ d = 0xFF) →
    (Ready (.madwU pf d a b) .none s c w →
      WritesPair (.madwU pf d a b) pf d s c w (fun l =>
        w.rdPair (srcD pf d) l + BitVec.ofNat 64 ((w.rd a l).toNat * (w.rd b l).toNat))) ∧
    (Ready (.madwS pf d a b) .none s c w →
      WritesPair (.madwS pf d a b) pf d s c w (fun l =>
        w.rdPair (srcD pf d) l + BitVec.ofInt 64 ((w.rd a l).toInt * (w.rd b l).toInt))) ∧
    (∀ e ∈ ([(Instr.lea1, 1), (Instr.lea4, 4), (Instr.lea8, 8), (Instr.lea16, 16)] :
        List ((Option Prefix → Code → Code → Code → Instr) × Nat)),
      Ready (e.1 pf d a b) .none s c w →
      WritesPair (e.1 pf d a b) pf d s c w (fun l => w.rdPair a l + BitVec.ofNat 64 (e.2 * (w.rd b l).toNat))) ∧
    (Ready (.add64 pf d a b) .none s c w →
      WritesPair (.add64 pf d a b) pf d s c w (fun l => w.rdPair a l + w.rdPair b l)) ∧
    (Ready (.sub64 pf d a b) .none s c w →
      WritesPair (.sub64 pf d a b) pf d s c w (fun l => w.rdPair a l - w.rdPair b l))) ∧
  (∀ d a b : Code, encode (.divS none d a b) = [0x0B#8 ++ d ++ a ++ b] ∧ encode (.divU none d a b) = [0x0C#8 ++ d ++ a ++ b] ∧
    encode (.remS none d a b) = [0x0D#8 ++ d ++ a ++ b] ∧ encode (.remU none d a b) = [0x0E#8 ++ d ++ a ++ b] ∧
    encode (.fshl none d a b) = [0x1D#8 ++ d ++ a ++ b])

/-- R96, R104: an integer compare writes one bit for each lane that runs and leaves every other bit of its mask register,
every register and every flag alone. R112: a floating-point compare sets one bit for each lane that runs. It is ordered on
numbers: a NaN compares unequal and unordered, finite values compare as the numbers they are (+0 equals -0), the infinities
lie below and above every finite value and equal themselves. FCMP.LT and FCMP.LE raise invalid for any NaN, FCMP.EQ and FCMP.UN for a signalling one. -/
def Obligations.CompareResults : Prop :=
  ((∀ e ∈ ([(Instr.cmpEq, fun x y => decide (x = y)), (Instr.cmpNe, fun x y => decide (x ≠ y)),
      (Instr.cmpLtS, fun x y => decide (x.toInt < y.toInt)), (Instr.cmpLeS, fun x y => decide (x.toInt ≤ y.toInt)),
      (Instr.cmpLtU, fun x y => decide (x.toNat < y.toNat)), (Instr.cmpLeU, fun x y => decide (x.toNat ≤ y.toNat))] :
      List ((Option Prefix → Code → Code → Code → Instr) × (Word → Word → Bool))),
    ∀ (pf : Option Prefix) (d a b : Code) (s : State) (c : Cur) (w : Warp),
      Ready (e.1 pf d a b) .none s c w → Plain s w →
      WritesBits (e.1 pf d a b) pf d s c w (fun l => e.2 (w.rd a l) (w.rd b l)) (fun _ => 0)) ∧
  (∀ e ∈ ([(Instr.cmpEqL, fun x y => decide (x = y)), (Instr.cmpLtSL, fun x y => decide (x.toInt < y.toInt))] :
      List ((Option Prefix → Code → Code → Word → Instr) × (Word → Word → Bool))),
    ∀ (pf : Option Prefix) (d a : Code) (lit : Word) (s : State) (c : Cur) (w : Warp),
      Ready (e.1 pf d a lit) .none s c w → Plain s w →
      WritesBits (e.1 pf d a lit) pf d s c w (fun l => e.2 (w.rd a l) lit) (fun _ => 0))) ∧
  ((∀ e ∈ ([(Instr.fcmpEq, FpRel.eq), (Instr.fcmpLt, FpRel.lt), (Instr.fcmpLe, FpRel.le), (Instr.fcmpUn, FpRel.un)] :
      List ((Option Prefix → Code → Code → Code → Instr) × FpRel)),
    ∀ (pf : Option Prefix) (d a b : Code) (s : State) (c : Cur) (w : Warp),
      Ready (e.1 pf d a b) .none s c w → Plain s w →
      WritesBits (e.1 pf d a b) pf d s c w
        (fun l => ((w.fpType pf).compare e.2 (fpBits (w.fpType pf) (w.rd a l)) (fpBits (w.fpType pf) (w.rd b l))).1)
        (fun l => ((w.fpType pf).compare e.2 (fpBits (w.fpType pf) (w.rd a l)) (fpBits (w.fpType pf) (w.rd b l))).2)) ∧
  (∀ (pf : Option Prefix) (d a : Code) (lit : Word) (s : State) (c : Cur) (w : Warp),
      Ready (.fcmpLtL pf d a lit) .none s c w → Plain s w →
      WritesBits (.fcmpLtL pf d a lit) pf d s c w
        (fun l => ((w.fpType pf).compare .lt (fpBits (w.fpType pf) (w.rd a l)) (fpBits (w.fpType pf) lit)).1)
        (fun l => ((w.fpType pf).compare .lt (fpBits (w.fpType pf) (w.rd a l)) (fpBits (w.fpType pf) lit)).2)) ∧
  (∀ (f : FpFmt) (x y : Nat), ((f.unpack x).isNan = true ∨ (f.unpack y).isNan = true) →
    (f.compare .eq x y).1 = false ∧ (f.compare .lt x y).1 = false ∧ (f.compare .le x y).1 = false ∧ (f.compare .un x y).1 = true ∧
    (f.compare .lt x y).2 = FpFlags.invalid ∧ (f.compare .le x y).2 = FpFlags.invalid ∧
    (f.compare .eq x y).2 = (if (f.unpack x).isSnan || (f.unpack y).isSnan then FpFlags.invalid else 0) ∧
    (f.compare .un x y).2 = (if (f.unpack x).isSnan || (f.unpack y).isSnan then FpFlags.invalid else 0)) ∧
  (∀ (f : FpFmt) (sx sy : Bool) (mx my : Nat) (ex ey : Int) (x y : Nat), x < 2 ^ f.width → y < 2 ^ f.width →
    f.unpack x = .fin sx mx ex → f.unpack y = .fin sy my ey →
    ((f.compare .lt x y).1 = true ↔ Fp.value (.fin sx mx ex) < Fp.value (.fin sy my ey)) ∧
    ((f.compare .eq x y).1 = true ↔ Fp.value (.fin sx mx ex) = Fp.value (.fin sy my ey)) ∧
    ((f.compare .le x y).1 = true ↔ Fp.value (.fin sx mx ex) ≤ Fp.value (.fin sy my ey)) ∧
    (f.compare .un x y) = (false, 0) ∧ (f.compare .lt x y).2 = 0 ∧ (f.compare .eq x y).2 = 0 ∧ (f.compare .le x y).2 = 0) ∧
  (∀ (f : FpFmt) (sx sy : Bool) (m : Nat) (e : Int) (x y : Nat), x < 2 ^ f.width → y < 2 ^ f.width → f.unpack x = .inf sx →
    (f.unpack y = .fin sy m e →
      f.compare .lt x y = (sx, 0) ∧ f.compare .lt y x = (!sx, 0) ∧ f.compare .le x y = (sx, 0) ∧ f.compare .le y x = (!sx, 0) ∧
      f.compare .eq x y = (false, 0) ∧ f.compare .eq y x = (false, 0) ∧ f.compare .un x y = (false, 0) ∧ f.compare .un y x = (false, 0)) ∧
    (f.unpack y = .inf sy →
      f.compare .lt x y = (sx && !sy, 0) ∧ f.compare .le x y = (sx || !sy, 0) ∧ f.compare .eq x y = (sx == sy, 0) ∧
      f.compare .un x y = (false, 0))))

/-! ## Floating-point instructions -/

/-- R108, R110, R111, R114, R120: the floating-point instructions of one and two sources and of a literal complete with the
result and the exceptions of their operation on the active type's bits, in the active rounding mode (R106), lane by lane
under the guard, and change nothing else. FABS and FNEG are stated on bits; that they clear the upper half of a 16-bit type's word
is log entry 55 (DEDUCED). What the arithmetic operations compute is RoundingIsTight; the six approximate functions deliver
values that log entry 7 leaves free within their bounds (DESIGN CHOICE). -/
def Obligations.FloatResults : Prop :=
  (∀ e ∈ ([(Instr.fadd, FpFmt.add), (Instr.fsub, FpFmt.sub), (Instr.fmul, FpFmt.mul), (Instr.fdiv, FpFmt.div),
      (Instr.fmin, fun f _ x y => f.minMax false x y), (Instr.fmax, fun f _ x y => f.minMax true x y)] :
      List ((Option Prefix → Code → Code → Code → Instr) × (FpFmt → Nat → Nat → Nat → Nat × FpFlags))),
    ∀ (pf : Option Prefix) (d a b : Code) (s : State) (c : Cur) (w : Warp),
      Ready (e.1 pf d a b) .none s c w → Plain s w →
      WritesWord (e.1 pf d a b) pf d (onceR d [a, b]) s c w
        (fun l => BitVec.ofNat 32 (e.2 (w.fpType pf) (w.rounding pf) (fpBits (w.fpType pf) (w.rd a l)) (fpBits (w.fpType pf) (w.rd b l))).1)
        (fun l => (e.2 (w.fpType pf) (w.rounding pf) (fpBits (w.fpType pf) (w.rd a l)) (fpBits (w.fpType pf) (w.rd b l))).2)) ∧
  (∀ e ∈ ([(Instr.faddL, FpFmt.add), (Instr.fmulL, FpFmt.mul),
      (Instr.fminL, fun f _ x y => f.minMax false x y), (Instr.fmaxL, fun f _ x y => f.minMax true x y)] :
      List ((Option Prefix → Code → Code → Word → Instr) × (FpFmt → Nat → Nat → Nat → Nat × FpFlags))),
    ∀ (pf : Option Prefix) (d a : Code) (lit : Word) (s : State) (c : Cur) (w : Warp),
      Ready (e.1 pf d a lit) .none s c w → Plain s w →
      WritesWord (e.1 pf d a lit) pf d (onceR d [a]) s c w
        (fun l => BitVec.ofNat 32 (e.2 (w.fpType pf) (w.rounding pf) (fpBits (w.fpType pf) (w.rd a l)) (fpBits (w.fpType pf) lit)).1)
        (fun l => (e.2 (w.fpType pf) (w.rounding pf) (fpBits (w.fpType pf) (w.rd a l)) (fpBits (w.fpType pf) lit)).2)) ∧
  (∀ e ∈ ([(Instr.fsqrt, FpFmt.sqrt), (Instr.fround, FpFmt.rint),
      (Instr.fabs, fun f _ x => (x % f.signBit, 0)), (Instr.fneg, fun f _ x => ((x + f.signBit) % (2 * f.signBit), 0)),
      (Instr.fclass, fun f _ x => (f.classify x, 0)),
      (Instr.frcp, ApFn.apply .rcp), (Instr.frsq, ApFn.apply .rsq), (Instr.fexp2, ApFn.apply .exp2),
      (Instr.flog2, ApFn.apply .log2), (Instr.fsin, ApFn.apply .sin), (Instr.fcos, ApFn.apply .cos)] :
      List ((Option Prefix → Code → Code → Instr) × (FpFmt → Nat → Nat → Nat × FpFlags))),
    ∀ (pf : Option Prefix) (d a : Code) (s : State) (c : Cur) (w : Warp),
      Ready (e.1 pf d a) .none s c w → Plain s w →
      WritesWord (e.1 pf d a) pf d (onceR d [a]) s c w
        (fun l => BitVec.ofNat 32 (e.2 (w.fpType pf) (w.rounding pf) (fpBits (w.fpType pf) (w.rd a l))).1)
        (fun l => (e.2 (w.fpType pf) (w.rounding pf) (fpBits (w.fpType pf) (w.rd a l))).2)) ∧
  (∀ (pf : Option Prefix) (d a b : Code) (s : State) (c : Cur) (w : Warp),
      Ready (.fscale pf d a b) .none s c w → Plain s w →
      WritesWord (.fscale pf d a b) pf d (onceR d [a, b]) s c w
        (fun l => BitVec.ofNat 32 ((w.fpType pf).scale (w.rounding pf) (fpBits (w.fpType pf) (w.rd a l)) (w.rd b l).toInt).1)
        (fun l => ((w.fpType pf).scale (w.rounding pf) (fpBits (w.fpType pf) (w.rd a l)) (w.rd b l).toInt).2))

/-- R109, R120: FFMA takes its third source from the destination or from the prefix's E register and rounds once; FFMA.L
takes the literal. R116 to R118: the packed instructions work on the two 16-bit elements of each register, element 0 in the
low half; HDOT2 gives one FP32 word. What the operations compute is RoundingIsTight; HFMA2 with a NaN follows log entry 80. -/
def Obligations.FusedAndPackedResults : Prop :=
  (∀ (pf : Option Prefix) (d a b : Code) (lit : Word) (s : State) (c : Cur) (w : Warp), Plain s w →
    (Ready (.ffma pf d a b) .none s c w →
      WritesWord (.ffma pf d a b) pf d (onceR d [srcD pf d, a, b]) s c w
        (fun l => BitVec.ofNat 32 ((w.fpType pf).fma (w.rounding pf) (fpBits (w.fpType pf) (w.rd a l)) (fpBits (w.fpType pf) (w.rd b l))
          (fpBits (w.fpType pf) (w.rd (srcD pf d) l))).1)
        (fun l => ((w.fpType pf).fma (w.rounding pf) (fpBits (w.fpType pf) (w.rd a l)) (fpBits (w.fpType pf) (w.rd b l))
          (fpBits (w.fpType pf) (w.rd (srcD pf d) l))).2)) ∧
    (Ready (.ffmaL pf d a b lit) .none s c w →
      WritesWord (.ffmaL pf d a b lit) pf d (onceR d [a, b]) s c w
        (fun l => BitVec.ofNat 32 ((w.fpType pf).fma (w.rounding pf) (fpBits (w.fpType pf) (w.rd a l)) (fpBits (w.fpType pf) (w.rd b l))
          (fpBits (w.fpType pf) lit)).1)
        (fun l => ((w.fpType pf).fma (w.rounding pf) (fpBits (w.fpType pf) (w.rd a l)) (fpBits (w.fpType pf) (w.rd b l))
          (fpBits (w.fpType pf) lit)).2))) ∧
  (∀ (pf : Option Prefix) (d a b : Code) (s : State) (c : Cur) (w : Warp), Plain s w →
    (∀ e ∈ ([(Instr.hadd2, FpFmt.add), (Instr.hmul2, FpFmt.mul)] :
        List ((Option Prefix → Code → Code → Code → Instr) × (FpFmt → Nat → Nat → Nat → Nat × FpFlags))),
      Ready (e.1 pf d a b) .none s c w →
      WritesWord (e.1 pf d a b) pf d (onceR d [a, b]) s c w
        (fun l => BitVec.ofNat 32
          ((e.2 w.packedType (w.rounding pf) ((w.rd a l).toNat % 65536) ((w.rd b l).toNat % 65536)).1 +
            65536 * (e.2 w.packedType (w.rounding pf) ((w.rd a l).toNat / 65536) ((w.rd b l).toNat / 65536)).1))
        (fun l =>
          (e.2 w.packedType (w.rounding pf) ((w.rd a l).toNat % 65536) ((w.rd b l).toNat % 65536)).2 |||
            (e.2 w.packedType (w.rounding pf) ((w.rd a l).toNat / 65536) ((w.rd b l).toNat / 65536)).2)) ∧
    (Ready (.hfma2 pf d a b) .none s c w →
      WritesWord (.hfma2 pf d a b) pf d (onceR d [srcD pf d, a, b]) s c w
        (fun l => BitVec.ofNat 32
          ((w.packedType.fmaElem (w.rounding pf) ((w.rd a l).toNat % 65536) ((w.rd b l).toNat % 65536) ((w.rd (srcD pf d) l).toNat % 65536)).1 +
            65536 * (w.packedType.fmaElem (w.rounding pf) ((w.rd a l).toNat / 65536) ((w.rd b l).toNat / 65536)
              ((w.rd (srcD pf d) l).toNat / 65536)).1))
        (fun l =>
          (w.packedType.fmaElem (w.rounding pf) ((w.rd a l).toNat % 65536) ((w.rd b l).toNat % 65536) ((w.rd (srcD pf d) l).toNat % 65536)).2 |||
            (w.packedType.fmaElem (w.rounding pf) ((w.rd a l).toNat / 65536) ((w.rd b l).toNat / 65536)
              ((w.rd (srcD pf d) l).toNat / 65536)).2)) ∧
    (Ready (.hdot2 pf d a b) .none s c w →
      WritesWord (.hdot2 pf d a b) pf d (onceR d [srcD pf d, a, b]) s c w
        (fun l => BitVec.ofNat 32 (hdot2 w.packedType (w.rounding pf) (w.rd a l) (w.rd b l) (w.rd (srcD pf d) l)).1)
        (fun l => (hdot2 w.packedType (w.rounding pf) (w.rd a l) (w.rd b l) (w.rd (srcD pf d) l)).2)))

/-- R119: a conversion whose control names listed types in every lane that runs completes with the converted value and its
exceptions. R119, R88, R356: a control that names no listed type, in a lane that runs, raises 0x16 whose faulting lanes are
those lanes, and the path stays at the instruction. -/
def Obligations.ConversionResults : Prop :=
  (∀ e ∈ ([(Instr.fcvtF2i, f2i, fun b => (intWidth (b.toNat / 4 % 4)).isSome && (scalarFmt (b.toNat % 4)).isSome),
      (Instr.fcvtI2f, i2f, fun b => (intWidth (b.toNat / 4 % 4)).isSome && (scalarFmt (b.toNat % 4)).isSome),
      (Instr.fcvtF2f, f2f, fun b => (anyFmt (b.toNat / 16 % 8)).isSome && (anyFmt (b.toNat % 8)).isSome)] :
      List ((Option Prefix → Code → Code → Code → Instr) × (Nat → Word → Word → Res Word) × (Word → Bool))),
    ∀ (pf : Option Prefix) (d a b : Code) (s : State) (c : Cur) (w : Warp),
      Ready (e.1 pf d a b) .none s c w → Plain s w →
      (onceR d [a, b] = true → e.2.2 (w.rd b 0) = true) →
      (onceR d [a, b] = false → ∀ l, w.runs pf c.lanes l = true → e.2.2 (w.rd b l) = true) →
      WritesWord (e.1 pf d a b) pf d (onceR d [a, b]) s c w
        (fun l => ((e.2.1 (w.rounding pf) (w.rd a l) (w.rd b l)).got 0).1) (fun l => ((e.2.1 (w.rounding pf) (w.rd a l) (w.rd b l)).got 0).2)) ∧
  (∀ e ∈ ([(Instr.fcvtF2i, fun b => (intWidth (b.toNat / 4 % 4)).isSome && (scalarFmt (b.toNat % 4)).isSome),
      (Instr.fcvtI2f, fun b => (intWidth (b.toNat / 4 % 4)).isSome && (scalarFmt (b.toNat % 4)).isSome),
      (Instr.fcvtF2f, fun b => (anyFmt (b.toNat / 16 % 8)).isSome && (anyFmt (b.toNat % 8)).isSome)] :
      List ((Option Prefix → Code → Code → Code → Instr) × (Word → Bool))),
    ∀ (pf : Option Prefix) (d a b : Code) (s : State) (c : Cur) (w : Warp),
      Ready (e.1 pf d a b) .none s c w → Plain s w →
      (onceR d [a, b] = true → e.2 (w.rd b 0) = false → exec (e.1 pf d a b) s = .next (s.raiseWhole c 0x16 0)) ∧
      (onceR d [a, b] = false → (∃ l, l < 32 ∧ w.runs pf c.lanes l = true ∧ e.2 (w.rd b l) = false) →
      ∃ (w' : Warp) (x : Cause), exec (e.1 pf d a b) s = .next ((s.setWarp c.w w').raise c x none) ∧
        x.code = 0x16 ∧ x.sub = 0 ∧ x.other = false ∧ w' = w.withRegs w' ∧
        (∀ l, l < 32 → x.lanes.getLsbD l = (w.runs pf c.lanes l && !e.2 (w.rd b l))) ∧
        (∀ r l, l < 32 → (r ≠ d ∨ e.2 (w.rd b l) = false ∧ w.runs pf c.lanes l = true) → w'.rd r l = w.rd r l)))

/-- R32, R36, R41: converting a finite value to a format that holds it exactly gives that value and raises nothing: every
finite pattern to its own format, and FP16, BF16, E4M3 and E5M2 to FP32, in every rounding mode. R36, R38: where no overflow
is raised, rounding toward zero never exceeds the exact magnitude, rounding down and up stay on their side, and rounding to
the nearest even is no farther from the exact value than any finite value of the format; an exact result raises no inexact
flag, another raises it. R36 to R38: every rounding is `FpFmt.Rounds`: a tie goes to the even pattern, in the directed modes no finite
value lies between the result and the exact value, overflow delivers what the table says and raises overflow and inexact, and
underflow is raised for what is tiny and inexact.
R36, R38, R108, R110: on finite operands FADD, FSUB, FMUL and FDIV give the exact sum, difference, product and quotient rounded
once, with the sign of an exact zero sum as R36 says; x / 0 and 0 / 0; FSQRT rounds a number that stands for the exact root: it is the
root, or an odd number of units that lies on the root's side of every value it is compared with. The infinities. R35, R108: the first
NaN of the operands is the result, with its sign and payload and its quiet bit set, and a signalling one raises invalid. R109: FFMA
rounds the exact a × b + c once; 0 × ∞ is invalid whatever c is. R117: an element of HFMA2 is FFMA's, but for a NaN operand, which is the
result there also beside 0 × ∞, as R35 says (DEDUCED, log entry 80). R118: HDOT2 widens the elements exactly, rounds each product, and
adds the first and then the second to c, each sum rounded; the first of the five NaNs is the result. R111: FMIN and FMAX order their
operands, −0 below +0; beside one NaN the other operand is the result. -/
def Obligations.RoundingIsTight : Prop :=
  ((∀ (f : FpFmt) (mode x : Nat), x < 2 ^ f.width → (f.unpack x).isNan = false → (f.unpack x).isInf = false →
    f.convert f mode x = (x, 0)) ∧
  (∀ (f : FpFmt) (mode x : Nat), x < 2 ^ f.width → (f.unpack x).isNan = false → (f.unpack x).isInf = false →
    (f.convert .fp32 mode x).2 = 0 ∧ (f.convert .fp32 mode x).1 < 2 ^ 32 ∧
    Fp.value (FpFmt.fp32.unpack (f.convert .fp32 mode x).1) = Fp.value (f.unpack x) ∧
    (FpFmt.fp32.unpack (f.convert .fp32 mode x).1).neg = (f.unpack x).neg)) ∧
  (∀ (f : FpFmt) (s : Bool) (m : Nat) (e : Int) (mode : Nat), mode ≤ 3 → 0 < m →
    (f.round mode s m e).2 &&& FpFlags.overflow = 0 →
    let r := f.round mode s m e
    ((r.2 &&& FpFlags.inexact = 0) ↔ Fp.value (f.unpack r.1) = Fp.value (.fin s m e)) ∧
    (mode = 0 → ∀ y, y < 2 ^ f.width → (f.unpack y).isNan = false → (f.unpack y).isInf = false →
      |Fp.value (f.unpack r.1) - Fp.value (.fin s m e)| ≤ |Fp.value (f.unpack y) - Fp.value (.fin s m e)|) ∧
    (mode = 1 → |Fp.value (f.unpack r.1)| ≤ |Fp.value (.fin s m e)|) ∧
    (mode = 2 → Fp.value (f.unpack r.1) ≤ Fp.value (.fin s m e)) ∧
    (mode = 3 → Fp.value (.fin s m e) ≤ Fp.value (f.unpack r.1))) ∧
  (∀ (f : FpFmt) (s : Bool) (m : Nat) (e : Int) (mode : Nat), mode ≤ 3 → f.Rounds mode s (m * (2 : ℚ) ^ e) (f.round mode s m e)) ∧
  (∀ (f : FpFmt) (mode x y : Nat), mode ≤ 3 → f.finite x → f.finite y →
    let a := Fp.value (f.unpack x)
    let b := Fp.value (f.unpack y)
    let sx := (f.unpack x).neg
    let sy := (f.unpack y).neg
    (a + b ≠ 0 → f.Rounds mode (decide (a + b < 0)) |a + b| (f.add mode x y)) ∧
    (a + b = 0 → f.add mode x y = (f.sign (if sx = sy then sx else decide (mode = 2)) 0, 0)) ∧
    (a - b ≠ 0 → f.Rounds mode (decide (a - b < 0)) |a - b| (f.sub mode x y)) ∧
    (a - b = 0 → f.sub mode x y = (f.sign (if sx = !sy then sx else decide (mode = 2)) 0, 0)) ∧
    f.Rounds mode (sx != sy) |a * b| (f.mul mode x y) ∧
    (b ≠ 0 → f.Rounds mode (sx != sy) (|a| / |b|) (f.div mode x y)) ∧
    (b = 0 → a ≠ 0 → f.div mode x y = (f.sign (sx != sy) f.infBits, FpFlags.divZero)) ∧
    (b = 0 → a = 0 → f.div mode x y = (f.nanBits, FpFlags.invalid)) ∧
    (0 < a → ∃ (m : Nat) (e : Int), f.sqrt mode x = f.round mode false m e ∧ 2 ^ (f.frac + 4) ≤ m ∧
      (m % 2 = 0 → (m * (2 : ℚ) ^ e) ^ 2 = a) ∧
      (m % 2 = 1 → ((m - 1) * (2 : ℚ) ^ e) ^ 2 < a ∧ a < ((m + 1) * (2 : ℚ) ^ e) ^ 2)) ∧
    (a = 0 → f.sqrt mode x = (f.sign sx 0, 0)) ∧
    (a < 0 → f.sqrt mode x = (f.nanBits, FpFlags.invalid))) ∧
  (∀ (f : FpFmt) (mode x y : Nat) (s t : Bool), f.unpack x = .inf s →
    (f.finite y → (f.unpack y).neg = t →
      f.add mode x y = (f.sign s f.infBits, 0) ∧ f.add mode y x = (f.sign s f.infBits, 0) ∧
      f.sub mode x y = (f.sign s f.infBits, 0) ∧ f.sub mode y x = (f.sign (!s) f.infBits, 0) ∧
      f.div mode x y = (f.sign (s != t) f.infBits, 0) ∧ f.div mode y x = (f.sign (t != s) 0, 0) ∧
      (Fp.value (f.unpack y) ≠ 0 → f.mul mode x y = (f.sign (s != t) f.infBits, 0) ∧ f.mul mode y x = (f.sign (t != s) f.infBits, 0)) ∧
      (Fp.value (f.unpack y) = 0 → f.mul mode x y = (f.nanBits, FpFlags.invalid) ∧ f.mul mode y x = (f.nanBits, FpFlags.invalid))) ∧
    (f.unpack y = .inf t →
      f.add mode x y = (if s = t then (f.sign s f.infBits, 0) else (f.nanBits, FpFlags.invalid)) ∧
      f.sub mode x y = (if s = t then (f.nanBits, FpFlags.invalid) else (f.sign s f.infBits, 0)) ∧
      f.mul mode x y = (f.sign (s != t) f.infBits, 0) ∧ f.div mode x y = (f.nanBits, FpFlags.invalid)) ∧
    f.sqrt mode x = (if s then (f.nanBits, FpFlags.invalid) else (f.infBits, 0))) ∧
  (∀ (f : FpFmt) (mode x y : Nat) (s q : Bool) (fr : Nat), f ≠ .e4m3 →
    let nan := f.sign s (f.infBits + (fr ||| 2 ^ (f.frac - 1)))
    (f.unpack x = .nan s fr q →
      (∀ g ∈ [f.add, f.sub, f.mul, f.div], g mode x y = (nan, if q || (f.unpack y).isSnan then FpFlags.invalid else 0)) ∧
      f.sqrt mode x = (nan, if q then FpFlags.invalid else 0)) ∧
    ((f.unpack x).isNan = false → f.unpack y = .nan s fr q →
      ∀ g ∈ [f.add, f.sub, f.mul, f.div], g mode x y = (nan, if q then FpFlags.invalid else 0))) ∧
  (∀ (f : FpFmt) (mode x y z : Nat), mode ≤ 3 →
    let a := Fp.value (f.unpack x)
    let b := Fp.value (f.unpack y)
    let c := Fp.value (f.unpack z)
    let sp := (f.unpack x).neg != (f.unpack y).neg
    let sz := (f.unpack z).neg
    (f.finite x → f.finite y → f.finite z →
      (a * b + c ≠ 0 → f.Rounds mode (decide (a * b + c < 0)) |a * b + c| (f.fma mode x y z)) ∧
      (a * b + c = 0 → f.fma mode x y z = (f.sign (if sp = sz then sp else decide (mode = 2)) 0, 0))) ∧
    (((f.unpack x).isInf = true ∧ (f.unpack y).isZero = true ∨ (f.unpack x).isZero = true ∧ (f.unpack y).isInf = true) →
      f.fma mode x y z = (f.nanBits, FpFlags.invalid)) ∧
    ((f.unpack x).isNan = false → (f.unpack y).isNan = false → (f.unpack z).isNan = false → f.fmaElem mode x y z = f.fma mode x y z)) ∧
  (∀ (f : FpFmt) (mode x y z : Nat) (s q : Bool) (fr : Nat), f ≠ .e4m3 →
    let signals := (f.unpack x).isSnan || (f.unpack y).isSnan || (f.unpack z).isSnan
    let invalid := ((f.unpack x).isInf && (f.unpack y).isZero) || ((f.unpack x).isZero && (f.unpack y).isInf)
    (f.unpack x = .nan s fr q ∨ ((f.unpack x).isNan = false ∧ f.unpack y = .nan s fr q) ∨
      ((f.unpack x).isNan = false ∧ (f.unpack y).isNan = false ∧ f.unpack z = .nan s fr q)) →
    (invalid = false → f.fma mode x y z =
      (f.sign s (f.infBits + (fr ||| 2 ^ (f.frac - 1))), if signals then FpFlags.invalid else 0)) ∧
    f.fmaElem mode x y z =
      (f.sign s (f.infBits + (fr ||| 2 ^ (f.frac - 1))), if signals || invalid then FpFlags.invalid else 0)) ∧
  (∀ (f : FpFmt) (mode : Nat) (a b c : Word), f = .fp16 ∨ f = .bf16 →
    let e0 := a.toNat % 65536
    let e1 := b.toNat % 65536
    let e2 := a.toNat / 65536
    let e3 := b.toNat / 65536
    let wide := fun (x : Nat) => (f.convert .fp32 mode x).1
    let p0 := FpFmt.fp32.mul mode (wide e0) (wide e1)
    let p1 := FpFmt.fp32.mul mode (wide e2) (wide e3)
    let t := FpFmt.fp32.add mode c.toNat p0.1
    let r := FpFmt.fp32.add mode t.1 p1.1
    ((∀ x ∈ [e0, e1, e2, e3], (f.unpack x).isNan = false) → (FpFmt.fp32.unpack c.toNat).isNan = false →
      hdot2 f mode a b c = (r.1, p0.2 ||| p1.2 ||| t.2 ||| r.2)) ∧
    (∀ (i : Nat) (s q : Bool) (fr : Nat), i < 4 →
      (∀ x ∈ [e0, e1, e2, e3].take i, (f.unpack x).isNan = false) → (([e0, e1, e2, e3][i]?).map f.unpack) = some (.nan s fr q) →
      (hdot2 f mode a b c).1 = FpFmt.fp32.sign s (0x7F800000 + (fr * 2 ^ (23 - f.frac) ||| 0x400000))) ∧
    (∀ (s q : Bool) (fr : Nat), (∀ x ∈ [e0, e1, e2, e3], (f.unpack x).isNan = false) → FpFmt.fp32.unpack c.toNat = .nan s fr q →
      (hdot2 f mode a b c).1 = FpFmt.fp32.sign s (0x7F800000 + (fr ||| 0x400000))) ∧
    (((∃ x ∈ [e0, e1, e2, e3], (f.unpack x).isSnan = true) ∨ (FpFmt.fp32.unpack c.toNat).isSnan = true) →
      (hdot2 f mode a b c).2.getLsbD 0 = true)) ∧
  (∀ (f : FpFmt) (x y : Nat),
    let lo := f.minMax false x y
    let hi := f.minMax true x y
    (f.finite x → f.finite y → lo.2 = 0 ∧ hi.2 = 0 ∧ ((lo.1 = x ∧ hi.1 = y) ∨ (lo.1 = y ∧ hi.1 = x)) ∧
      Fp.value (f.unpack lo.1) ≤ Fp.value (f.unpack hi.1) ∧
      (Fp.value (f.unpack lo.1) = Fp.value (f.unpack hi.1) → (f.unpack hi.1).neg = true → (f.unpack lo.1).neg = true)) ∧
    (x < 2 ^ f.width → y < 2 ^ f.width → (f.unpack y).isNan = false →
      (f.unpack x = .inf true → lo = (x, 0) ∧ f.minMax false y x = (x, 0) ∧ hi = (y, 0) ∧ f.minMax true y x = (y, 0)) ∧
      (f.unpack x = .inf false → lo = (y, 0) ∧ f.minMax false y x = (y, 0) ∧ hi = (x, 0) ∧ f.minMax true y x = (x, 0)) ∧
      ((f.unpack x).isNan = true → ∀ b : Bool, let fl := if (f.unpack x).isSnan then FpFlags.invalid else 0
        f.minMax b x y = (y, fl) ∧ f.minMax b y x = (y, fl))))

/-! ## Control flow -/

/-- R122 to R124, R13, R133: a branch whose lanes all reach one target moves the path there. BRT goes where its mask register
is 1 in every lane of the path, BRF where it is 0, BRA always; none taken is the next instruction. Nothing but the path table
of the warp, its instruction count and its scheduling state changes. R57, R122: a branch that some lane takes to a target
with a bit of [63:56] set raises 0x24 and moves no lane; one that no lane takes goes on whatever its target. R127 to R129, R13,
R133: CALL and CALLX write the address of the next instruction to their link pair and keep the loop stack; RET and CALLX take their target from a pair, bits [1:0] ignored; BRX adds the
word that it reads from its table to the PC. All for lanes with one target. R124: BRX whose lanes' indices are within the
table, whose entry addresses are aligned and in range, and whose entries are read without a cause makes the transfer to the
PC plus each lane's entry; an index at or beyond the length raises 0x0F, else an entry address with a bit of [63:56] set 0x24, else a
misaligned one 0x20, each in the lanes that meet it. R128, R129: a target pair of CALLX or RET with a bit of [63:56] set raises 0x24 in
the lanes that hold it, and no link is written. -/
def Obligations.UniformTransfers : Prop :=
  (∀ (m : BitVec 4) (f : BitVec 20) (s : State) (c : Cur) (w : Warp),
    Plain s w → (w.path c.p).status = .run → (w.path c.p).mask ≠ 0 → (c.pc + 4 * f.signExtend 64).toNat < 2 ^ 56 →
    (Ready (.bra f) .none s c w →
      exec (.bra f) s = .next (s.setWarp c.w (w.wentTo c .jump (c.pc + 4 * f.signExtend 64)))) ∧
    ∀ e ∈ [(Instr.brt m f, true), (Instr.brf m f, false)], Ready e.1 .none s c w →
      (∀ l, l < 32 → (w.path c.p).mask.getLsbD l = true → (w.maskReg m.toNat).getLsbD l = e.2) →
      exec e.1 s = .next (s.setWarp c.w (w.wentTo c .jump (c.pc + 4 * f.signExtend 64)))) ∧
  (∀ (m : BitVec 4) (f : BitVec 20) (s : State) (c : Cur) (w : Warp), (w.path c.p).status = .run → (w.path c.p).mask ≠ 0 →
    (∀ e ∈ [(Instr.brt m f, true), (Instr.brf m f, false)], Ready e.1 .none s c w → Plain s w →
      (∀ l, l < 32 → (w.path c.p).mask.getLsbD l = true → (w.maskReg m.toNat).getLsbD l = !e.2) →
      exec e.1 s = .next (s.setWarp c.w (w.afterRetire c false))) ∧
    (2 ^ 56 ≤ (c.pc + 4 * f.signExtend 64).toNat →
      (Ready (.bra f) .none s c w → exec (.bra f) s = .next (s.raiseWhole c 0x24 0)) ∧
      ∀ e ∈ [(Instr.brt m f, true), (Instr.brf m f, false)], Ready e.1 .none s c w →
        (∃ l, l < 32 ∧ (w.path c.p).mask.getLsbD l = true ∧ (w.maskReg m.toNat).getLsbD l = e.2) →
        exec e.1 s = .next (s.raiseWhole c 0x24 0))) ∧
  (∀ (d a : Code) (i : BitVec 16) (t : DWord) (s : State) (c : Cur) (w : Warp),
    Plain s w → (w.path c.p).status = .run → (w.path c.p).mask ≠ 0 → t.toNat < 2 ^ 56 → (d.toNat % 2 = 0 ∨ d = 0xFF) →
    (Ready (.call d i) .none s c w → t = c.pc + 4 * i.signExtend 64 →
      ∃ w' : Warp, exec (.call d i) s = .next (s.setWarp c.w (w'.wentTo c .call t)) ∧ w' = w.withRegs w' ∧
        w'.fpflags = w.fpflags ∧ ∀ r l, l < 32 → w'.rd r l = w.afterLink c d c.next r l) ∧
    (Ready (.callx d a) .none s c w →
      (∀ l, l < 32 → (w.path c.p).mask.getLsbD l = true → w.rdPair a l &&& ~~~3#64 = t) →
      ∃ w' : Warp, exec (.callx d a) s = .next (s.setWarp c.w (w'.wentTo c .call t)) ∧ w' = w.withRegs w' ∧
        w'.fpflags = w.fpflags ∧ ∀ r l, l < 32 → w'.rd r l = w.afterLink c d c.next r l) ∧
    (Ready (.ret a) .none s c w →
      (∀ l, l < 32 → (w.path c.p).mask.getLsbD l = true → w.rdPair a l &&& ~~~3#64 = t) →
      exec (.ret a) s = .next (s.setWarp c.w (w.wentTo c .jump t)))) ∧
  (∀ (n a b : Code) (s q : State) (c : Cur) (w : Warp) (vals : List (Nat × List Byte)),
    Ready (.brx n a b) .none s c w → Plain s w → (w.path c.p).status = .run →
    (∀ l, l < 32 → (w.path c.p).mask.getLsbD l = true →
      (w.rd a l).toNat < n.toNat ∧ (w.rdPair b 0 + 4 * (w.rd a l).setWidth 64).toNat < 2 ^ 56 ∧
      (w.rdPair b 0 + 4 * (w.rd a l).setWidth 64).toNat % 4 = 0 ∧
      (c.pc + 4 * (BitVec.ofNat 32 (readValue vals l)).signExtend 64).toNat < 2 ^ 56) →
    s.readLanes c w false 4 ((w.path c.p).mask.lanes.map (fun l =>
      { lane := l, va := (w.rdPair b 0 + 4 * (w.rd a l).setWidth 64).toNat })) = .done vals [] q →
    exec (.brx n a b) s = .next (q.retireTransfer c .jump
      (branches ((w.path c.p).mask.lanes.map (fun l => (l, c.pc + 4 * (BitVec.ofNat 32 (readValue vals l)).signExtend 64)))))) ∧
  (∀ (n a b d : Code) (s : State) (c : Cur) (w : Warp), Plain s w → (w.path c.p).status = .run →
    let on := fun (l : Nat) => (w.path c.p).mask.getLsbD l
    let entry := fun (l : Nat) => w.rdPair b 0 + 4 * (w.rd a l).setWidth 64
    let target := fun (l : Nat) => w.rdPair a l &&& ~~~3#64
    let fails := fun (i : Instr) (code : Nat) (bad : Nat → Bool) => (∃ l, l < 32 ∧ on l = true ∧ bad l = true) →
      ∃ x : Cause, exec i s = .next (s.raise c x none) ∧ x.code = code ∧ x.sub = 0 ∧ x.other = false ∧
        ∀ l, l < 32 → x.lanes.getLsbD l = (on l && bad l)
    (Ready (.brx n a b) .none s c w →
      fails (.brx n a b) 0x0F (fun l => decide (n.toNat ≤ (w.rd a l).toNat)) ∧
      ((∀ l, l < 32 → on l = true → (w.rd a l).toNat < n.toNat) →
        fails (.brx n a b) 0x24 (fun l => decide (2 ^ 56 ≤ (entry l).toNat)) ∧
        ((∀ l, l < 32 → on l = true → (entry l).toNat < 2 ^ 56) →
          fails (.brx n a b) 0x20 (fun l => decide ((entry l).toNat % 4 ≠ 0))))) ∧
    (Ready (.callx d a) .none s c w → fails (.callx d a) 0x24 (fun l => decide (2 ^ 56 ≤ (target l).toNat))) ∧
    (Ready (.ret a) .none s c w → fails (.ret a) 0x24 (fun l => decide (2 ^ 56 ≤ (target l).toNat))))

/-- R169, R170: a divergent BRT of a path whose split is not flat, with two free entries, no loop and no target at its join
point: the path waits with no lane, the two lowest free entries run the two groups, the lower target in the lower entry, as
its children, and every other entry and every register is unchanged. R125, R126: a warp starts without a join point. JPT sets
that of its path; JOIN clears it, and raises 0x0E where there is none. -/
def Obligations.DivergentBranchSplits : Prop :=
  (∀ (m : BitVec 4) (f : BitVec 20) (s : State) (c : Cur) (w : Warp) (e1 e2 : Nat) (r : List Nat),
    Ready (.brt m f) .none s c w → Plain s w → w.paths.length = 8 →
    let q := w.path c.p
    let t := c.pc + 4 * f.signExtend 64
    let yes := q.mask &&& w.maskReg m.toNat
    let no := q.mask &&& ~~~(w.maskReg m.toNat)
    q.status = .run → q.flat = false → q.stack = [] → q.held = 0 → t.toNat < 2 ^ 56 → t ≠ c.next → q.jp ≠ some t → q.jp ≠ some c.next →
    yes ≠ 0 → no ≠ 0 → w.freePaths = e1 :: e2 :: r →
    ∃ w' : Warp, exec (.brt m f) s = .next (s.setWarp c.w w') ∧
      (w'.path c.p).status = .wait ∧ (w'.path c.p).mask = 0 ∧ (w'.path c.p).kids = q.kids + 2 ∧
      (w'.path e1).status = .run ∧ (w'.path e1).parent = some c.p ∧ (w'.path e1).jp = q.jp ∧ (w'.path e1).arr = q.jp ∧
      (w'.path e2).status = .run ∧ (w'.path e2).parent = some c.p ∧ (w'.path e2).jp = q.jp ∧ (w'.path e2).arr = q.jp ∧
      (if t < c.next then
        (w'.path e1).pc = t ∧ (w'.path e1).mask = yes ∧ (w'.path e2).pc = c.next ∧ (w'.path e2).mask = no
      else (w'.path e1).pc = c.next ∧ (w'.path e1).mask = no ∧ (w'.path e2).pc = t ∧ (w'.path e2).mask = yes) ∧
      (∀ i, i ≠ c.p → i ≠ e1 → i ≠ e2 → w'.path i = w.path i) ∧
      w'.v = w.v ∧ w'.sreg = w.sreg ∧ w'.m = w.m ∧ w'.fpflags = w.fpflags ∧ w'.mode = w.mode ∧ w'.live = w.live) ∧
  ((∀ (launch team wg i asid principal : Nat) (priv : Bool) (clr : Option DWord) (pc : DWord) (known : List Known),
    ((Warp.start launch team wg i asid principal priv clr pc known).path 0).jp = none) ∧
  (∀ f : BitVec 20, encode (.jpt f) = [0x77#8 ++ 0#4 ++ f] ∧ encode .join = [0x78000000]) ∧
  ∀ (f : BitVec 20) (s : State) (c : Cur) (w : Warp), Plain s w →
    (Ready (.jpt f) .none s c w →
      exec (.jpt f) s = .next (s.setWarp c.w
        ((w.updPath c.p (fun q => { q with jp := some (c.pc + 4 * f.signExtend 64) })).afterRetire c false))) ∧
    (Ready .join .none s c w → (w.path c.p).jp ≠ none →
      exec .join s = .next (s.setWarp c.w ((w.updPath c.p (fun q => { q with jp := none })).afterRetire c false))) ∧
    (Ready .join .none s c w → (w.path c.p).jp = none → exec .join s = .next (s.raiseWhole c 0x0E 0)))

/-- R131, R132, R134: LOOP and LOOPI with a count other than 0 push an entry that starts after them and ends at the encoded
instruction; with a full stack they raise 0x0D; with a count of 0 the path goes on after the body. R133, R13: the end check.
An instruction at the end of the innermost body goes back to its start and counts one iteration down; the last iteration ends
the loop and the check goes on with the enclosing one; elsewhere the next PC follows. -/
def Obligations.LoopResults : Prop :=
  (∀ e ∈ ([(fun d x => Instr.loop d x, fun w d => w.rd d 0), (fun d x => Instr.loopi d x, fun _ d => d.setWidth 32)] :
      List ((BitVec 8 → BitVec 16 → Instr) × (Warp → Code → Word))),
    ∀ (d : Code) (x : BitVec 16) (s : State) (c : Cur) (w : Warp), Ready (e.1 d x) .none s c w → Plain s w →
      ((w.path c.p).stack.length < 4 → e.2 w d ≠ 0 →
        exec (e.1 d x) s = .next (s.setWarp c.w ((w.updPath c.p (fun q => { q with stack :=
          { start := c.next, stop := c.pc + 4 * x.setWidth 64, count := e.2 w d } :: q.stack })).afterRetire c false))) ∧
      (4 ≤ (w.path c.p).stack.length → exec (e.1 d x) s = .next (s.raiseWhole c 0x0D 0)) ∧
      (∀ (n : Nat) (q : State), (w.path c.p).stack.length < 4 → e.2 w d = 0 →
        s.lengthAt c w (c.pc + 4 * x.setWidth 64).toNat = (.words n, q) →
        (c.pc + 4 * x.setWidth 64 + BitVec.ofNat 64 (4 * n)).toNat < 2 ^ 56 →
        exec (e.1 d x) s = .next (q.retireTransfer c .jump
          (branches (c.lanes.lanes.map (fun l => (l, c.pc + 4 * x.setWidth 64 + BitVec.ofNat 64 (4 * n)))))))) ∧
  (∀ (x n : DWord) (e : LoopEntry) (r : List LoopEntry),
    endCheck x n [] = ([], n) ∧
    (e.stop ≠ x → endCheck x n (e :: r) = (e :: r, n)) ∧
    (e.stop = x → e.count ≠ 1 → endCheck x n (e :: r) = ({ e with count := e.count - 1 } :: r, e.start)) ∧
    (e.stop = x → e.count = 1 → endCheck x n (e :: r) = endCheck x n r) ∧
    (e.start ≤ n → n ≤ e.stop → popScan n (e :: r) = e :: r) ∧
    (¬(e.start ≤ n ∧ n ≤ e.stop) → popScan n (e :: r) = popScan n r))

/-- R130, R152: EXIT outside trap, save and restore mode, with no engine operation or batch that holds a cause, makes the
lanes of its path absent; with no lane left the warp has exited. R130, R146, R167: NOP retires. WAIT retires when each
counter has fallen to its field, with no engine operation or batch that holds a cause; before that it holds its warp. YIELD
retires and records the warps that go first. R146: a warp held at WAIT goes on once the counters have fallen: WAIT_RELEASE
ends the hold and retires the WAIT. -/
def Obligations.ExitAndWaiting : Prop :=
  (∀ (s : State) (c : Cur) (w : Warp), Ready .exit .none s c w → Plain s w → w.pre = .normal → w.trap = none →
    heldOps (s.opsOf c.w) = [] → heldBatches w.batches = [] →
    let t := s.setWarp c.w ((w.loseLanes c.p (w.path c.p).mask).closed c.p false)
    (w.live &&& ~~~(w.path c.p).mask ≠ 0 → exec .exit s = .next t) ∧
    (w.live &&& ~~~(w.path c.p).mask = 0 → exec .exit s = .next (t.exited c.w w))) ∧
  (∀ (l st cp tl : BitVec 6) (s : State) (c : Cur) (w : Warp), Plain s w →
    (Ready .nop .none s c w → exec .nop s = .next (s.setWarp c.w (w.afterRetire c false))) ∧
    (Ready .yield .none s c w →
      exec .yield s = .next (s.setWarp c.w ({ w with
        age := 0, yielded := w.yielded ++ (s.partners c.w).filter (fun k => !w.yielded.contains k) }.afterRetire c false))) ∧
    (Ready (.wait l st cp tl) .none s c w →
      ((∀ e ∈ [(l, w.loads), (st, w.stores), (cp, w.copies), (tl, w.tiles)], e.1.toNat = 63 ∨ e.2.length ≤ e.1.toNat) →
        heldOps (s.waitOps c.w w cp tl) = [] →
        exec (.wait l st cp tl) s = .next (s.setWarp c.w (w.afterRetire c false))) ∧
      ((∃ e ∈ [(l, w.loads), (st, w.stores), (cp, w.copies), (tl, w.tiles)], e.1.toNat ≠ 63 ∧ e.1.toNat < e.2.length) →
        exec (.wait l st cp tl) s =
          .next (s.setWarp c.w { w with held := some { why := .wait, cur := c, i := some (.wait l st cp tl) } })))) ∧
  (∀ (key : Nat) (h : Held) (l st cp tl : BitVec 6) (s : State) (w : Warp),
    s.warp? key = some w → w.held = some h → h.why = .wait → h.i = some (.wait l st cp tl) → h.cur.w = key → s.debugOn w = false →
    (∀ e ∈ [(l, w.loads), (st, w.stores), (cp, w.copies), (tl, w.tiles)], e.1.toNat = 63 ∨ e.2.length ≤ e.1.toNat) →
    heldOps (s.waitOps key { w with held := none } cp tl) = [] →
    exec (.waitRelease key) s = .next (s.setWarp key ({ w with held := none }.afterRetire h.cur false)))

/-- R171, R169: lanes held at a transfer re-execute it once an entry is free: the instruction fetched at the transfer's address is
executed for the held lanes. BRT, BRF, BRX, CALLX and RET (a fetched BRA or CALL too) complete as transfers of the held lanes to
their targets; a group of held lanes takes the lowest free entry, as a child, and is held no longer. R69, R70: words that are no
instruction raise the cause that decoding names, with its subcause; a cause of the fetch also carries the address of the word
that failed. -/
def Obligations.HeldTransfersAndNonInstructions : Prop :=
  (∀ (key p len : Nat) (i : Instr) (s q : State) (w : Warp),
    s.warp? key = some w → (w.path p).status = .wait → (w.path p).held ≠ 0 → s.pathFree w p = true →
    s.fetch key p w (w.path p).hpc = (.instr i len, q) →
    let c := w.curFor key p len
    let s1 : State := { (q.updPath key p (fun x => { x with hold := .none })) with cur := some c }
    ∀ w1 : Warp, Ready i .none s1 c w1 → (w1.path p).status = .wait → w1.badReg = [] → s1.debugOn w1 = false →
    let held := (w1.path p).held.lanes
    let goes := fun (t : State) (k : Xfer) (f : Nat → DWord) =>
      exec (.heldTransferReexecution key p) s = .next (t.retireTransfer c k (branches (held.map (fun l => (l, f l)))))
    (∀ f, i = .bra f → (c.pc + 4 * f.signExtend 64).toNat < 2 ^ 56 → goes s1 .jump (fun _ => c.pc + 4 * f.signExtend 64)) ∧
    (∀ m f sense, (i = .brt m f ∧ sense = true ∨ i = .brf m f ∧ sense = false) → (c.pc + 4 * f.signExtend 64).toNat < 2 ^ 56 →
      goes s1 (if ∀ l ∈ held, (w1.maskReg m.toNat).getLsbD l = sense then .jump else .cond)
        (fun l => if (w1.maskReg m.toNat).getLsbD l = sense then c.pc + 4 * f.signExtend 64 else c.next)) ∧
    (∀ n a b vals u, i = .brx n a b →
      (∀ l ∈ held, (w1.rd a l).toNat < n.toNat ∧ (w1.rdPair b 0 + 4 * (w1.rd a l).setWidth 64).toNat < 2 ^ 56 ∧
        (w1.rdPair b 0 + 4 * (w1.rd a l).setWidth 64).toNat % 4 = 0 ∧
        (c.pc + 4 * (BitVec.ofNat 32 (readValue vals l)).signExtend 64).toNat < 2 ^ 56) →
      s1.readLanes c w1 false 4 (held.map (fun l =>
        { lane := l, va := (w1.rdPair b 0 + 4 * (w1.rd a l).setWidth 64).toNat })) = .done vals [] u →
      goes u .jump (fun l => c.pc + 4 * (BitVec.ofNat 32 (readValue vals l)).signExtend 64)) ∧
    (∀ d f, i = .call d f → (c.pc + 4 * f.signExtend 64).toNat < 2 ^ 56 →
      goes (s1.updWarp key (fun w => w.link c d c.next)) .call (fun _ => c.pc + 4 * f.signExtend 64)) ∧
    (∀ d a, i = .callx d a → (∀ l ∈ held, (w1.rdPair a l).toNat < 2 ^ 56) →
      goes (s1.updWarp key (fun w => w.link c d c.next)) .call (fun l => w1.rdPair a l &&& ~~~3#64)) ∧
    (∀ a, i = .ret a → (∀ l ∈ held, (w1.rdPair a l).toNat < 2 ^ 56) → goes s1 .jump (fun l => w1.rdPair a l &&& ~~~3#64))) ∧
  (∀ (w : Warp) (p e : Nat) (r : List Nat) (k : Xfer) (x nxt t : DWord), w.paths.length = 8 → w.freePaths = e :: r →
    let q := w.path p
    q.status = .wait → q.held ≠ 0 → q.flat = false → q.hstack = [] → q.jp ≠ some t →
    let w' := w.transfer p k x nxt [{ target := t, lanes := q.held }]
    (w'.path p).status = .wait ∧ (w'.path p).held = 0 ∧ (w'.path p).kids = q.kids + 1 ∧
    (w'.path e).status = .run ∧ (w'.path e).pc = t ∧ (w'.path e).mask = q.held ∧ (w'.path e).parent = some p ∧
    (w'.path e).jp = q.jp ∧ (w'.path e).arr = q.jp ∧ (∀ j, j ≠ p → j ≠ e → w'.path j = w.path j)) ∧
  (∀ (priv : Priv) (k : BitVec 8) (sub : BitVec 32) (len : Nat) (s : State) (c : Cur) (w : Warp),
    Ready (.nonInstruction priv k sub len) priv s c w →
    exec (.nonInstruction priv k sub len) s = .next
      (if k = 0x06 ∨ 0x20 ≤ k.toNat then s.raiseAt c k.toNat sub.toNat (c.pc.toNat + 4 * (len - 1))
       else s.raiseWhole c k.toNat sub.toNat))

/-! ## Loads, stores and the memory system -/

/-- R135 to R138, R144, R234: a global load or store whose lanes' addresses are aligned, in range, mapped, cleared and local
issues one counted instruction and retires at once. The accesses it leaves pending cover each lane's bytes exactly, at the
place that its address names; a store carries the lanes' register bytes. Looking the addresses up changes at most caches. Under zero policy a load writes 0 for the lanes
guarded off. Nothing else changes: memory changes when the accesses are performed. -/
def Obligations.GlobalAccessesIssue : Prop :=
  ∀ e ∈ ([(Instr.ld8u, true, 1, false), (Instr.ld8s, true, 1, true), (Instr.ld16u, true, 2, false), (Instr.ld16s, true, 2, true),
      (Instr.ld32, true, 4, false), (Instr.ld64, true, 8, false), (Instr.ld128, true, 16, false), (Instr.st8, false, 1, false),
      (Instr.st16, false, 2, false), (Instr.st32, false, 4, false), (Instr.st64, false, 8, false), (Instr.st128, false, 16, false)] :
      List ((Option Prefix → Code → Code → BitVec 3 → BitVec 5 → Instr) × Bool × Nat × Bool)),
    ∀ (pf : Option Prefix) (d a : Code) (o : BitVec 3) (f : BitVec 5) (s : State) (c : Cur) (w : Warp) (H : Nat → Hit),
      let load := e.2.1
      let size := e.2.2.1
      let once := if load then onceLoad d a else !(isLane d || isLane a)
      let on := w.onLanes pf once c
      let va := fun (l : Nat) => (w.rdPair a l + BitVec.ofNat 64 (size * f.toNat)).toNat
      Ready (e.1 pf d a o f) .none s c w → Plain s w → (o = 0 ∨ w.mode.getLsbD 13 = false) → (w.path c.p).replayOp = none →
      (∀ l ∈ on, va l < 2 ^ 56 ∧ va l % size = 0 ∧ (H l).remote = none) →
      ∀ q : State, s.lookLanes (w.who c.w c.p) load (!load) size (on.map (fun l => { lane := l, va := va l })) =
        (on.map (fun l => ({ lane := l, va := va l }, .go (H l))), q) → q.warp? c.w = some w → q.debugOn w = false →
      (∀ l ∈ on, ∀ k ∈ on, va l / 128 = va k / 128 → (H l).place = (H k).place) →
      ∃ (as : List Access) (w0 : Warp), w0 = w.withRegs w0 ∧ w0.fpflags = w.fpflags ∧
        exec (e.1 pf d a o f) s = .next
          (({ q with
              outs := Assoc.put q.outs q.fresh
                { w := c.w, path := c.p, pc := c.pc, isLoad := load, dst := d, regs := (size + 3) / 4, size := size,
                  signed := e.2.2.2, lanes := maskOf on, uniform := once, got := [], more := false }
              fresh := q.fresh + 1 } : State).addAccesses as |>.setWarp c.w ((w0.issued load q.fresh).afterRetire c false)) ∧
        (∀ x ∈ as, x.w = c.w ∧ x.op = q.fresh ∧ x.seq = w.seq ∧ x.remote = none ∧ (x.strong = true ↔ o ≠ 0) ∧
          x.kind = if load then .load else .store) ∧
        Covers as on size va H (if load then none else some (fun l => w.rdBytes d l size)) ∧
        (∀ r l, l < 32 → w0.rd r l =
          if load = true ∧ once = false ∧ w.zeroed pf c.lanes l = true ∧ ∃ j, j < (size + 3) / 4 ∧ r = nextCode d j then 0
          else w.rd r l)

/-- R139, R144: a scratchpad load or store of offsets that are aligned, inside the allocation, and in the partner workgroup
only in a team of two, as `GlobalAccessesIssue`: bit 31 of the offset selects the partner, the other bits are the offset in
its scratchpad. -/
def Obligations.ScratchAccessesIssue : Prop :=
  ∀ e ∈ ([(Instr.lds32, true, 4), (Instr.lds128, true, 16), (Instr.sts32, false, 4), (Instr.sts128, false, 16)] :
      List ((Option Prefix → Code → Code → BitVec 3 → BitVec 5 → Instr) × Bool × Nat)),
    ∀ (pf : Option Prefix) (d a : Code) (o : BitVec 3) (f : BitVec 5) (s : State) (c : Cur) (w : Warp),
      let load := e.2.1
      let size := e.2.2
      let once := if load then onceLoad d a else !(isLane d || isLane a)
      let on := w.onLanes pf once c
      let at_ := fun (l : Nat) => (w.rd a l).toNat + size * f.toNat
      let H := fun (l : Nat) =>
        ({ place := .scratch w.team (if 2 ^ 31 ≤ at_ l then 1 - w.wg else w.wg), off := at_ l % 2 ^ 31, pa := 0, tag := 0, w := true,
           x := false, home := 0, remote := none } : Hit)
      Ready (e.1 pf d a o f) .none s c w → Plain s w → (o = 0 ∨ w.mode.getLsbD 13 = false) → (w.path c.p).replayOp = none →
      (∀ l ∈ on, at_ l < 2 ^ 32 ∧ at_ l % size = 0 ∧ (2 ^ 31 ≤ at_ l → s.twoGroups w = true) ∧
        at_ l % 2 ^ 31 + size ≤ s.headerField w Launch.scratch ∧
        (load = true → s.badAt (H l).place (H l).off size = false)) →
      ∃ (as : List Access) (w0 : Warp), w0 = w.withRegs w0 ∧ w0.fpflags = w.fpflags ∧
        exec (e.1 pf d a o f) s = .next
          (({ s with
              outs := Assoc.put s.outs s.fresh
                { w := c.w, path := c.p, pc := c.pc, isLoad := load, dst := d, regs := (size + 3) / 4, size := size,
                  signed := false, lanes := maskOf on, uniform := once, got := [], more := false }
              fresh := s.fresh + 1 } : State).addAccesses as |>.setWarp c.w ((w0.issued load s.fresh).afterRetire c false)) ∧
        (∀ x ∈ as, x.w = c.w ∧ x.op = s.fresh ∧ x.seq = w.seq ∧ x.remote = none ∧ (x.strong = true ↔ o ≠ 0) ∧
          x.kind = if load then .load else .store) ∧
        Covers as on size at_ H (if load then none else some (fun l => w.rdBytes d l size)) ∧
        (∀ r l, l < 32 → w0.rd r l =
          if load = true ∧ once = false ∧ w.zeroed pf c.lanes l = true ∧ ∃ j, j < (size + 3) / 4 ∧ r = nextCode d j then 0
          else w.rd r l)

/-- R138, R143, R356: a global access whose addresses are below 2^56 and misaligned in every lane that runs raises 0x20 in
those lanes, each with its address, and nothing is accessed. A load under zero policy has written 0 for the lanes guarded off;
no other register changes. -/
def Obligations.MisalignedAccessRaises : Prop :=
  ∀ e ∈ ([(Instr.ld16u, true, 2), (Instr.ld16s, true, 2), (Instr.ld32, true, 4), (Instr.ld64, true, 8), (Instr.ld128, true, 16),
      (Instr.st16, false, 2), (Instr.st32, false, 4), (Instr.st64, false, 8), (Instr.st128, false, 16)] :
      List ((Option Prefix → Code → Code → BitVec 3 → BitVec 5 → Instr) × Bool × Nat)),
    ∀ (pf : Option Prefix) (d a : Code) (o : BitVec 3) (f : BitVec 5) (s : State) (c : Cur) (w : Warp),
      let once := if e.2.1 then onceLoad d a else !(isLane d || isLane a)
      let on := w.onLanes pf once c
      let va := fun (l : Nat) => w.rdPair a l + BitVec.ofNat 64 (e.2.2 * f.toNat)
      Ready (e.1 pf d a o f) .none s c w → Plain s w → (w.path c.p).replayOp = none → on ≠ [] →
      (∀ l ∈ on, (va l).toNat < 2 ^ 56 ∧ (va l).toNat % e.2.2 ≠ 0) →
      ∃ w0 : Warp, w0 = w.withRegs w0 ∧ w0.fpflags = w.fpflags ∧
        exec (e.1 pf d a o f) s = .next ((s.setWarp c.w w0).raise c
          { code := 0x20, sub := 0, lanes := if once then c.lanes else maskOf on
            addrs := if once then c.lanes.lanes.map (fun l => (l, va 0)) else on.map (fun l => (l, va l)), other := false } none) ∧
        (∀ r l, l < 32 → w0.rd r l =
          if e.2.1 = true ∧ once = false ∧ w.zeroed pf c.lanes l = true ∧ ∃ j, j < (e.2.2 + 3) / 4 ∧ r = nextCode d j then 0
          else w.rd r l)

/-- R236, R243, R244: performing a pending store that races with nothing (R245) and touches nothing that software must leave alone
(R273, R323) writes its bytes at its place and no other byte anywhere, changes no register, and leaves the store no longer
pending. R236: performing a pending load of one unit gives its instruction the bytes at its place, overlaid with the path's own
earlier stores that are still pending, and changes no byte of memory and no register. R260, R261: performing a pending atomic
replaces the number at its place by its operator's new value and gives its instruction the old one; no other byte changes. Besides
registers a warp keeps the model's record of what it has heard (log entry 6). -/
def Obligations.AccessesPerform : Prop :=
  (∀ (k : Nat) (a : Access) (s : State), Assoc.at? s.accesses k = some a → a.kind = .store → a.remote = none →
    s.canPerform k a = true → s.wayAwake a = true → s.Intact a →
    (∀ p ∈ a.parts, s.races a p = [] ∧ p.data.length = p.size ∧ s.backs a.place p.off p.size) →
    a.parts.Pairwise (fun p q => p.off + p.size ≤ q.off ∨ q.off + q.size ≤ p.off) →
    ∃ t : State, exec (.accessPerform k) s = .next t ∧
      (∀ p ∈ a.parts, ∀ j, j < p.size → t.peek a.place (p.off + j) = (p.data[j]?).getD 0) ∧
      (∀ pl off, pl ≠ a.place ∨ (∀ p ∈ a.parts, off < p.off ∨ p.off + p.size ≤ off) → t.peek pl off = s.peek pl off) ∧
      t.warps = s.warps ∧ t.outs = s.outs ∧ Assoc.at? t.accesses k = none ∧
      (∀ j, j ≠ k → (Assoc.at? t.accesses j).map (fun x => { x with owes := none }) =
        (Assoc.at? s.accesses j).map (fun x => { x with owes := none }))) ∧
  (∀ (k : Nat) (a : Access) (p : Part) (s : State), Assoc.at? s.accesses k = some a → a.kind = .load → a.remote = none →
    a.parts = [p] → s.canPerform k a = true → s.wayAwake a = true → s.Intact a → s.races a p = [] →
    s.racesAhead 0 a p = [] →
    ∃ t : State, exec (.accessPerform k) s = .next t ∧
      t.outs = Assoc.upd s.outs a.op (fun o => o.receive p.lane p.voff (s.readUnit a p.off p.size)) ∧
      ((∀ e ∈ s.accesses, e.2.isStore = false ∨ e.2.pathBefore a = false) →
        s.readUnit a p.off p.size = s.peekBytes a.place p.off p.size) ∧
      (∀ pl off, t.peek pl off = s.peek pl off) ∧
      (∀ n, (t.warp? n).map Warp.deaf = (s.warp? n).map Warp.deaf) ∧ Assoc.at? t.accesses k = none) ∧
  (∀ (k : Nat) (a : Access) (p : Part) (aop : BitVec 4) (x : DWord) (s : State), Assoc.at? s.accesses k = some a →
    a.kind = .rmw aop x → a.remote = none → a.parts = [p] → (p.size = 4 ∨ p.size = 8) → s.canPerform k a = true →
    s.wayAwake a = true → s.Intact a → s.races a p = [] → s.racesAhead 0 a p = [] → s.backs a.place p.off p.size →
    let old := natOfBytes (s.peekBytes a.place p.off p.size)
    ∃ t : State, exec (.accessPerform k) s = .next t ∧
      t.peekBytes a.place p.off p.size = bytesOfNat p.size (atomicNew aop (8 * p.size) old (natOfBytes p.data) x.toNat) ∧
      t.outs = Assoc.upd s.outs a.op (fun o => o.receive p.lane p.voff (s.peekBytes a.place p.off p.size)) ∧
      (∀ pl off, pl ≠ a.place ∨ off < p.off ∨ p.off + p.size ≤ off → t.peek pl off = s.peek pl off) ∧
      (∀ n, (t.warp? n).map Warp.deaf = (s.warp? n).map Warp.deaf) ∧ Assoc.at? t.accesses k = none)

/-- R135, R144, R145: a load whose accesses are all performed completes: its lanes' registers take the words read, no other
register changes, and its number leaves the load counter in issue order. R218: while other lanes of it have still to be replayed,
the lanes that are performed take their words, and the load stays outstanding. R144, R145: a store whose accesses are all performed
is acknowledged: its number leaves the store counter in issue order. -/
def Obligations.LoadsAndStoresComplete : Prop :=
  (∀ (k : Nat) (o : OutOp) (s : State) (w : Warp), s.opDone k true = true ∨ s.loadPart k = true → Assoc.at? s.outs k = some o →
    s.warp? o.w = some w → o.regs = (o.size + 3) / 4 → 0 < o.size →
    (classOf o.dst = .lane ∧ o.dst.toNat + o.regs ≤ 0x80 ∨
      classOf o.dst = .uniform ∧ o.dst.toNat + o.regs ≤ 0xC0 ∧ o.lanes = 1 ∨ o.dst = 0xFF) →
    ∃ w' : Warp, exec (.loadCompletion k) s = .next
        ({ s with outs := if o.more then Assoc.put s.outs k { o with lanes := 0 } else Assoc.erase s.outs k }.setWarp o.w w') ∧
      w' = { w.withRegs w' with loads := if o.more then w.loads else complete w.loads k } ∧ w'.fpflags = w.fpflags ∧
      (∀ r l, l < 32 → (∀ j, j < o.regs → r ≠ nextCode o.dst j) → w'.rd r l = w.rd r l) ∧
      (classOf o.dst = .lane → ∀ j l, j < o.regs → l < 32 →
        w'.rd (nextCode o.dst j) l = if o.lanes.getLsbD l then ((o.words l)[j]?).getD 0 else w.rd (nextCode o.dst j) l) ∧
      (classOf o.dst = .uniform → ∀ j l, j < o.regs → w'.rd (nextCode o.dst j) l = ((o.words 0)[j]?).getD 0)) ∧
  (∀ (k : Nat) (o : OutOp) (s : State) (w : Warp), s.opDone k false = true → Assoc.at? s.outs k = some o → s.warp? o.w = some w →
    exec (.storeAcknowledge k) s = .next
      ({ s with outs := Assoc.erase s.outs k }.setWarp o.w { w with stores := complete w.stores k }))

/-- R29, R103, R109: LDC reads the word of the constant space that its register and offset name; FFMC adds such a word to the
product of its source and the destination's old value, or the prefix's E register. Both complete in every lane whose offset
is below the constant-bank size and whose word is read without a cause. -/
def Obligations.ConstantReads : Prop :=
  (∀ (pf : Option Prefix) (d a : Code) (f : BitVec 5) (s q : State) (c : Cur) (w : Warp) (vals : List (Nat × List Byte)),
    Ready (.ldc pf d a f) .none s c w → Plain s w →
    let on := w.onLanes pf (onceR d [a]) c
    let at_ := fun (l : Nat) => ((w.rd a l).toNat + 4 * f.toNat) / 4 * 4
    (∀ l ∈ on, at_ l < s.headerField w Launch.constSize) →
    s.readLanes c w (onceR d [a]) 4
      (on.map (fun l => { lane := l, va := ((s.launchOf w).map (fun x => x.args.toNat)).getD 0 + at_ l })) = .done vals [] q →
    q.warp? c.w = some w → q.debugOn w = false →
    WritesWordIn (.ldc pf d a f) pf d (onceR d [a]) s q c w (fun l => BitVec.ofNat 32 (readValue vals l)) (fun _ => 0)) ∧
  (∀ (pf : Option Prefix) (d a n : Code) (s q : State) (c : Cur) (w : Warp) (vals : List (Nat × List Byte)),
    Ready (.ffmc pf d a n) .none s c w → Plain s w →
    let once := onceR d [srcD pf d, a]
    let fm := w.fpType pf
    let res := fun (l : Nat) =>
      let x := fm.unpack (fpBits fm (w.rd a l))
      let y := fm.unpack (readValue vals l % 2 ^ fm.width)
      let z := fm.unpack (fpBits fm (w.rd (srcD pf d) l))
      fmaInto fm fm (w.rounding pf) [x, y, z] z x y
    4 * n.toNat < s.headerField w Launch.constSize →
    s.readLanes c w once 4 ((w.onLanes pf once c).map (fun l =>
      { lane := l, va := ((s.launchOf w).map (fun x => x.args.toNat)).getD 0 + 4 * n.toNat })) = .done vals [] q →
    q.warp? c.w = some w → q.debugOn w = false →
    WritesWordIn (.ffmc pf d a n) pf d once s q c w (fun l => BitVec.ofNat 32 (res l).1) (fun l => (res l).2))

/-- R228: PREF and PREF.L1 retire whatever their addresses are: no cause, no register, no byte of any place, no counter. A
uniform address that misses leaves a miss posted on its line. R229: CFLUSH.WB and CFLUSH.INV with addresses in range, on lines
that no access is pending on, retire. No line that they name is dirty afterwards, and none that CFLUSH.INV names is left in L2
unless it is pinned to its slice; the bytes of a line that was dirty stand at its physical address (unless the instruction writes back
another line to the same memory); no register changes. R225, R229: a write-back puts a dirty line's bytes at its physical address and
changes no other byte of memory. -/
def Obligations.CacheInstructions : Prop :=
  (∀ e ∈ ([(fun a => Instr.pref a), (fun a => Instr.prefL1 a)] : List (Code → Instr)), ∀ (a : Code) (s : State) (c : Cur) (w : Warp),
    Ready (e a) .none s c w → Plain s w →
    ∃ q : State, exec (e a) s = .next (q.setWarp c.w (w.afterRetire c false)) ∧ q.warps = s.warps ∧ q.accesses = s.accesses ∧
      (∀ pl off, q.peek pl off = s.peek pl off) ∧
      (isLane a = false → (w.rdPair a 0).toNat < 2 ^ 56 → ∀ t l, s.look w.asid (some w.team) (w.rdPair a 0).toNat = .miss t l →
        ∃ m ∈ q.misses, m.2.asid = t ∧ m.2.line = l)) ∧
  (∀ e ∈ ([(fun a => Instr.cflushWb a, false), (fun a => Instr.cflushInv a, true)] : List ((Code → Instr) × Bool)),
    ∀ (a : Code) (s : State) (c : Cur) (w : Warp), Ready (e.1 a) .none s c w → Plain s w →
      let on := w.onLanes none (!isLane a) c
      let asid := fun (l : Nat) => tagAsid w.asid (w.rdPair a l).toNat
      let line := fun (l : Nat) => (w.rdPair a l).toNat / 128
      (∀ l ∈ on, (w.rdPair a l).toNat < 2 ^ 56) → (∀ l ∈ on, ∀ x ∈ s.accesses, x.2.place ≠ .line (asid l) (line l)) →
      ∃ q : State, exec (e.1 a) s = .next (q.retire c) ∧ q.warps = s.warps ∧
        (∀ l ∈ on, ∀ x, q.findLine (asid l) (line l) = some x → x.dirty = false ∧ (e.2 = true → x.home ≠ 0)) ∧
        (∀ l ∈ on, ∀ x, s.findLine (asid l) (line l) = some x → x.dirty = true →
          (∀ k ∈ on, ∀ y, s.findLine (asid k) (line k) = some y →
            y = x ∨ y.dirty = false ∨ x.pa + x.data.length ≤ y.pa ∨ y.pa + y.data.length ≤ x.pa) →
          ∀ j, j < x.data.length → q.peek .phys (x.pa + j) = (x.data[j]?).getD 0)) ∧
  (∀ (s : State) (l : L2Line), l.dirty = true →
    (∀ j, j < l.data.length → (s.writeBack l).peek .phys (l.pa + j) = (l.data[j]?).getD 0) ∧
    (∀ off, off < l.pa ∨ l.pa + l.data.length ≤ off → (s.writeBack l).peek .phys off = s.peek .phys off) ∧
    (Sound s → Sound (s.writeBack l)))

/-- R217, R226: a due walk of an ordinary miss runs; an answered miss of a cached page puts its line in L2 with the bytes of
memory; a walk that waited for a core's slot runs once the slot is free. R207: a core's L1 gives back units that were asked
for: the lines in them are invalidated. -/
def Obligations.MissesAreServed : Prop :=
  (∀ (k : Nat) (m : Miss) (s : State), Assoc.at? s.misses k = some m →
    (s.walkReady k = true → m.quiet = false →
      (∀ code sub, s.walk m.asid (m.line * 128) = .fault code sub →
        exec (.translationRequest k) s =
          .next { s.wakeWalk m.asid (m.line * 128) with misses := Assoc.put s.misses k { m with result := .fault code sub } }) ∧
      (∀ base size pa attr, s.walk m.asid (m.line * 128) = .leaf base size pa attr → s.isLocal pa = true → attrHome attr = 0 →
        exec (.translationRequest k) s = .next { ((s.wakeWalk m.asid (m.line * 128)).enterTlb
            { unit := unitOf m.asid (m.line * 128), asid := m.asid, base := base, size := size, pa := pa, attr := attr, used := s.cycle })
          with misses := Assoc.put s.misses k { m with result := .pending } })) ∧
    (∀ e : TlbEntry, s.missReady k = true → s.findTlb m.asid (m.line * 128) = some e → s.isLocal e.pa = true → attrHome e.attr = 0 →
      s.findLine m.asid m.line = none →
      (s.l2.filter (fun l => homeSlice l.asid l.line == homeSlice m.asid m.line)).length < Config.linesPerSlice →
      ∃ t : State, exec (.sliceMiss k) s = .next t ∧ Assoc.at? t.misses k = none ∧ t.mem = s.mem ∧ t.warps = s.warps ∧
        ∃ l, t.findLine m.asid m.line = some l ∧ l.pa = e.pa + (m.line * 128 - e.base) ∧ l.dirty = false ∧
          l.data = Memory.readBytes s.mem (e.pa + (m.line * 128 - e.base)) 128 ∧ l.tag = attrTag e.attr ∧
          l.w = attrW e.attr ∧ l.x = attrX e.attr) ∧
    (∀ core slot pa attr, m.result = .waitSlot core slot pa attr → s.slotHolders core slot = [] →
      (∀ x, s.findPinned core slot = some x → x.pa = pa) →
      exec (.corePinnedSlotWaitEnd k) s = .next (s.translateMiss k { m with result := .pending }))) ∧
  (∀ (core : Nat) (s : State), s.reclaimReady core = true →
    ∃ t : State, exec (.l1Reclaim core) s = .next t ∧
      (t.core core).lent = (s.core core).lent - (s.core core).reclaim ∧ (t.core core).reclaim = 0 ∧
      (∀ l, l ∈ (t.core core).l1 ↔ l ∈ (s.core core).l1 ∧ l.unit < (s.core core).lent - (s.core core).reclaim) ∧
      (∀ n, n ≠ core → t.core n = s.core n) ∧ t.warps = s.warps ∧ (∀ pl off, t.peek pl off = s.peek pl off))

/-! ## Cross-lane instructions -/

/-- R178 to R181: BALLOT gives every lane that runs the mask of the lanes that run with a nonzero source; a shuffle reads the
source in the lane that it computes where that lane runs and is in range, its own otherwise; MATCH gives the mask of the
lanes that run with the same source. The lanes that run are those of the issuing path that are guarded on, also where a replay writes
fewer (log entry 70). Lanes guarded off write by R24; nothing else changes. The opcodes of R179 to R181. -/
def Obligations.VotesAndShuffles : Prop :=
  (∀ (pf : Option Prefix) (d a b : Code) (s : State) (c : Cur) (w : Warp), Plain s w →
    (∀ x : Mask, (∀ j, j < 32 → x.getLsbD j = (w.runs pf (w.path c.p).issueMask j && w.rd a j != 0)) →
      Ready (.ballot pf d a) .none s c w →
      WritesWord (.ballot pf d a) pf d false s c w (fun _ => x) (fun _ => 0)) ∧
    (∀ x : Nat → Mask, (∀ l j, j < 32 → (x l).getLsbD j = (w.runs pf (w.path c.p).issueMask j && w.rd a j == w.rd a l)) →
      Ready (.matchLanes pf d a) .none s c w →
      WritesWord (.matchLanes pf d a) pf d false s c w x (fun _ => 0)) ∧
    (Ready (.shflIdx pf d a b) .none s c w →
      WritesWord (.shflIdx pf d a b) pf d false s c w (fun l =>
        let j := (w.rd b l).toNat % 32
        if w.runs pf (w.path c.p).issueMask j then w.rd a j else w.rd a l) (fun _ => 0)) ∧
    (Ready (.shflUp pf d a b) .none s c w →
      WritesWord (.shflUp pf d a b) pf d false s c w (fun l =>
        let n := (w.rd b l).toNat % 32
        if n ≤ l ∧ w.runs pf (w.path c.p).issueMask (l - n) = true then w.rd a (l - n) else w.rd a l) (fun _ => 0)) ∧
    (Ready (.shflDown pf d a b) .none s c w →
      WritesWord (.shflDown pf d a b) pf d false s c w (fun l =>
        let n := (w.rd b l).toNat % 32
        if l + n ≤ 31 ∧ w.runs pf (w.path c.p).issueMask (l + n) = true then w.rd a (l + n) else w.rd a l) (fun _ => 0)) ∧
    (Ready (.shflXor pf d a b) .none s c w →
      WritesWord (.shflXor pf d a b) pf d false s c w (fun l =>
        let j := l ^^^ ((w.rd b l).toNat % 32)
        if w.runs pf (w.path c.p).issueMask j then w.rd a j else w.rd a l) (fun _ => 0))) ∧
  (∀ d a b : Code, encode (.ballot none d a) = [0x90#8 ++ d ++ a ++ 0#8] ∧ encode (.shflIdx none d a b) = [0x91#8 ++ d ++ a ++ b] ∧
    encode (.shflUp none d a b) = [0x92#8 ++ d ++ a ++ b] ∧ encode (.shflDown none d a b) = [0x93#8 ++ d ++ a ++ b] ∧
    encode (.shflXor none d a b) = [0x94#8 ++ d ++ a ++ b] ∧ encode (.matchLanes none d a) = [0x9F#8 ++ d ++ a ++ 0#8])

/-- R182: REDUX gives every lane that runs the combination, in ascending lane order, of the sources of all the lanes that
run; SCAN that of the lanes up to its own. Addition is addition modulo 2^32, the minima and maxima are bounds that some lane holds,
and of fadd, fmin and fmax every step's exceptions are kept. A code beyond the table raises 0x1F. R183:
QAPPEND with some lane that runs, a good cursor and a completed atomic: each such lane takes the old cursor plus its rank.
Where nothing is pending, stamped or recorded, the cursor read is the word in the scratchpad and becomes that word plus the number
of lanes; with no lane that runs the cursor is not touched. Besides registers a warp keeps the model's record of what it has heard
(log entry 6). -/
def Obligations.ReductionResults : Prop :=
  ((∀ (pf : Option Prefix) (d a o : Code) (s : State) (c : Cur) (w : Warp), Plain s w → o.toNat ≤ 0x0A →
    let on := (List.range 32).filter (fun j => w.runs pf (w.path c.p).issueMask j)
    (Ready (.redux pf d a o) .none s c w →
      WritesWord (.redux pf d a o) pf d false s c w (fun _ => (w.chain o.toNat a on).1) (fun _ => (w.chain o.toNat a on).2)) ∧
    (Ready (.scan pf d a o) .none s c w →
      WritesWord (.scan pf d a o) pf d false s c w (fun l => (w.chain o.toNat a (on.filter (fun j => decide (j ≤ l)))).1)
        (fun l => (w.chain o.toNat a (on.filter (fun j => decide (j ≤ l)))).2))) ∧
  (∀ (pf : Option Prefix) (d a o : Code) (s : State) (c : Cur) (w : Warp), 0x0A < o.toNat →
    (Ready (.redux pf d a o) .none s c w → exec (.redux pf d a o) s = .next (s.raiseWhole c 0x1F 0)) ∧
    (Ready (.scan pf d a o) .none s c w → exec (.scan pf d a o) s = .next (s.raiseWhole c 0x1F 0))) ∧
  (∀ (w : Warp) (a : Code) (ls : List Nat),
    w.chain 0 a ls = (ls.foldl (fun x j => x + w.rd a j) 0, 0) ∧
    (ls ≠ [] → w.chain 5 a ls = (ls.foldl (fun x j => x &&& w.rd a j) 0xFFFFFFFF, 0)) ∧
    w.chain 6 a ls = (ls.foldl (fun x j => x ||| w.rd a j) 0, 0) ∧
    w.chain 7 a ls = (ls.foldl (fun x j => x ^^^ w.rd a j) 0, 0)) ∧
  (∀ (w : Warp) (op j : Nat) (a : Code) (ls : List Nat), w.chain op a [j] = (w.rd a j, 0) ∧
    (ls ≠ [] → let r := combine op (w.rounding none) (w.chain op a ls).1 (w.rd a j)
      w.chain op a (ls ++ [j]) = (r.1, (w.chain op a ls).2 ||| r.2))) ∧
  (∀ (w : Warp) (a : Code) (ls : List Nat), ls ≠ [] → ∀ e ∈ ([(1, fun x y => decide (x.toInt ≤ y.toInt)),
      (2, fun x y => decide (x.toNat ≤ y.toNat)), (3, fun x y => decide (y.toInt ≤ x.toInt)),
      (4, fun x y => decide (y.toNat ≤ x.toNat))] : List (Nat × (Word → Word → Bool))),
    let r := w.chain e.1 a ls
    r.2 = 0 ∧ (∃ j ∈ ls, r.1 = w.rd a j) ∧ ∀ j ∈ ls, e.2 r.1 (w.rd a j) = true) ∧
  (∀ (mode : Nat) (x y : Word), ∀ e ∈ [(8, FpFmt.fp32.add mode x.toNat y.toNat), (9, FpFmt.fp32.minMax false x.toNat y.toNat),
      (10, FpFmt.fp32.minMax true x.toNat y.toNat)],
    combine e.1 mode x y = (BitVec.ofNat 32 e.2.1, e.2.2))) ∧
  (∀ (pf : Option Prefix) (d a : Code) (s q : State) (c : Cur) (w x : Warp) (h : Hit) (old : Nat),
    Ready (.qappend pf d a) .none s c w → Plain s w →
    let n := ((List.range 32).filter (fun j => w.runs pf c.lanes j)).length
    (n = 0 → WritesWord (.qappend pf d a) pf d false s c w (fun _ => 0) (fun _ => 0)) ∧
    (0 < n → s.scratchWord w (w.rd a 0) = .at h → s.badAt h.place h.off 4 = false →
      s.rmwNow c w h 4 0 n 0 false false (if 2 ^ 31 ≤ (w.rd a 0).toNat then .team else .wg) = .done old q →
      q.warp? c.w = some x → q.debugOn w = false →
      (∃ w' : Warp, exec (.qappend pf d a) s = .next (q.setWarp c.w (w'.afterRetire c false)) ∧
        w' = { w.withRegs w' with seq := w.seq + 1, heard := x.heard } ∧ w'.fpflags = w.fpflags ∧
        (∀ r l, l < 32 → w'.rd r l = w.afterWord pf c.lanes d
          (fun l => BitVec.ofNat 32 (old + ((List.range l).filter (fun j => w.runs pf c.lanes j)).length)) r l)) ∧
      (s.accesses = [] → s.engines = [] → s.stamps = [] → s.strong = [] → s.backs h.place h.off 4 →
        old = natOfBytes (s.peekBytes h.place h.off 4) ∧ natOfBytes (q.peekBytes h.place h.off 4) = (old + n) % 2 ^ 32)))

/-- R184: the second of two partner warps to issue matching XCHGPs exchanges with the one that waits: a lane that runs in
both takes the partner's source, a lane that runs in its own warp alone keeps its register. Both retire. The first waits;
without a partner 0x4D is raised. Two partners that both wait (one having been halted) exchange at XCHGP_MATCH. -/
def Obligations.PartnersExchange : Prop :=
  (∀ (pf p2 : Option Prefix) (d a d2 a2 : Code) (s : State) (c : Cur) (w w2 : Warp) (k2 : Nat) (h : Held),
    Ready (.xchgp pf d a) .none s c w → Plain s w → s.twoGroups w = true → s.xchgpAlone w = false →
    s.xchgpPartner w = some (k2, w2, h) → h.i = some (.xchgp p2 d2 a2) → h.cur.w = k2 → k2 ≠ c.w → s.warp? k2 = some w2 →
    s.debugOn w2 = false →
    let on := (w.path c.p).issueMask
    ∃ n1 n2 : Warp,
      exec (.xchgp pf d a) s = .next ((s.setWarp c.w (n1.afterRetire c false)).setWarp k2 (n2.afterRetire h.cur false)) ∧
      n1 = { w.withRegs n1 with xchgp := w.xchgp + 1, held := none } ∧ n1.fpflags = w.fpflags ∧
      n2 = { w2.withRegs n2 with xchgp := w2.xchgp + 1, held := none } ∧ n2.fpflags = w2.fpflags ∧
      (∀ r l, l < 32 → n1.rd r l = if w.runs pf on l ∧ ¬w2.runs p2 h.cur.lanes l then w.rd r l
        else w.afterWord pf on d (fun l => w2.rd a2 l) r l) ∧
      (classOf d2 = .lane → ∀ r l, l < 32 → n2.rd r l = if w2.runs p2 h.cur.lanes l ∧ ¬w.runs pf on l then w2.rd r l
        else w2.afterWord p2 h.cur.lanes d2 (fun l => w.rd a l) r l)) ∧
  (∀ (pf : Option Prefix) (d a : Code) (s : State) (c : Cur) (w : Warp), Ready (.xchgp pf d a) .none s c w → Plain s w →
    (s.twoGroups w = true → s.xchgpAlone w = false → s.xchgpPartner w = none →
      exec (.xchgp pf d a) s = .next (s.setWarp c.w
        { w with held := some { why := .xchgp w.xchgp, cur := w.wholeCur c, i := some (.xchgp pf d a) } })) ∧
    (s.twoGroups w = false ∨ s.xchgpAlone w = true → exec (.xchgp pf d a) s = .next (s.raiseWhole (w.wholeCur c) 0x4D 0))) ∧
  (∀ (p1 p2 : Option Prefix) (d1 a1 d2 a2 : Code) (s : State) (key k2 : Nat) (w w2 : Warp) (h h2 : Held),
    s.warp? key = some w → w.held = some h → h.why = .xchgp w.xchgp → w.halt = none → h.i = some (.xchgp p1 d1 a1) →
    s.xchgpPartner w = some (k2, w2, h2) → h2.i = some (.xchgp p2 d2 a2) →
    exec (.xchgpMatch key) s = .next (s.exchange h.cur p1 d1 a1 h2.cur p2 d2 a2))

/-! ## The Aster unit -/

/-- R186 to R190: EXPAND of a set of one warp opens an expansion: each lane's start and length come from its pair, 0 where it
is guarded off, every accumulator is the operator's identity by R190's table, the cursor is 0, and d takes the number of rounds. A total of
2^32 or more items raises 0x11. R191: EXNEXT in an expansion of one warp deals the next round: slot i takes item 32 × cursor
+ i where there is one: its index, its owner and a 1 in the mask; the other lanes take a 0. Past the last round every lane
takes a 0. R189: item f of the flat sequence belongs to the owner whose items it falls among, at its offset there. R192,
R193: EXRED in an expansion of one warp combines, for each owner, the sources of the lanes that hold its items, in ascending
order; EXFIN writes each lane's accumulator to d and ends the expansion. Without an expansion both raise 0x1B. -/
def Obligations.AsterExpansions : Prop :=
  [0, 1, 2, 3, 4, 8, 9, 10].map asterIdentity =
    [0x00000000, 0x7FFFFFFF, 0xFFFFFFFF, 0x80000000, 0x00000000, 0x80000000, 0x7F800000, 0xFF800000] ∧
  (∀ (d a : Code) (o : BitVec 4) (s : State) (c : Cur) (w : Warp), Ready (.expand d a 0 o) .none s c w → Plain s w →
    asterOpOk o.toNat = true → w.slice.active = false → w.warpId < s.wgDim w → DealsAlone s c w →
    let total := ((List.range 32).map (fun i => if (w.guardOf none).getLsbD i then (w.rd (nextCode a 1) i).toNat else 0)).sum
    (total < 2 ^ 32 →
      ∃ w' : Warp, exec (.expand d a 0 o) s = .next (s.setWarp c.w (w'.afterRetire c false)) ∧
        w' = { w.withRegs w' with slice := w'.slice, span := false, held := none } ∧ w'.fpflags = w.fpflags ∧
        (∀ r l, l < 32 → w'.rd r l = if r = d ∧ d ≠ 0xFF then BitVec.ofNat 32 ((total + 31) / 32) else w.rd r l) ∧
        w'.slice.active = true ∧ w'.slice.op = o ∧ w'.slice.n = 0 ∧ w'.slice.cursor = 0 ∧ w'.slice.item = [] ∧
        (∀ i, i < 32 →
          Assoc.get w'.slice.st 0 i = (if (w.guardOf none).getLsbD i then w.rd a i else 0) ∧
          Assoc.get w'.slice.ln 0 i = (if (w.guardOf none).getLsbD i then w.rd (nextCode a 1) i else 0) ∧
          Assoc.get w'.slice.acc 0 i = asterIdentity o.toNat)) ∧
    (2 ^ 32 ≤ total → ∃ t : State, exec (.expand d a 0 o) s = .next (t.raiseWhole c 0x11 0) ∧
      t = s.setWarp c.w { w with span := false, held := none })) ∧
  (∀ (d a b : Code) (s : State) (c : Cur) (w : Warp), Ready (.exnext d a b) .none s c w → Plain s w → w.slice.active = true →
    w.slice.n = 0 → DealsAlone s c w →
    let lens := (List.range 32).map (fun i => (Assoc.get w.slice.ln 0 i).toNat)
    let rounds := (lens.sum + 31) / 32
    let item := fun (i : Nat) => 32 * w.slice.cursor + i
    ∃ w' : Warp, exec (.exnext d a b) s = .next (s.setWarp c.w (w'.afterRetire c false)) ∧
      w' = { w.withRegs w' with slice := w'.slice, span := w'.span, held := none } ∧ w'.fpflags = w.fpflags ∧
      w'.slice.cursor = (if w.slice.cursor < rounds then w.slice.cursor + 1 else rounds + 1) ∧
      w'.span = decide (w.slice.cursor < rounds) ∧ w'.slice.st = w.slice.st ∧ w'.slice.ln = w.slice.ln ∧ w'.slice.acc = w.slice.acc ∧
      (∀ i, i < 32 → item i < lens.sum →
        Assoc.at? w'.slice.item i = some (item i) ∧
        (d ≠ 0xFF → d ≠ a → w'.rd d i = Assoc.get w.slice.st 0 (ownerOf lens (item i) 0).1 + BitVec.ofNat 32 (ownerOf lens (item i) 0).2) ∧
        (a ≠ 0xFF → w'.rd a i = BitVec.ofNat 32 (ownerOf lens (item i) 0).1) ∧
        (b ≠ 0xFF → b ≠ 0xC0 → (w'.rd b 0).getLsbD i = true)) ∧
      (∀ i, i < 32 → lens.sum ≤ item i →
        Assoc.at? w'.slice.item i = none ∧ w'.rd d i = w.rd d i ∧ w'.rd a i = w.rd a i ∧
        (b ≠ 0xFF → b ≠ 0xC0 → (w'.rd b 0).getLsbD i = false)) ∧
      (∀ r l, l < 32 → r ≠ d → r ≠ a → r ≠ b → w'.rd r l = w.rd r l)) ∧
  (∀ (lens : List Nat) (f : Nat), f < lens.sum →
    let o := ownerOf lens f 0
    o.1 < lens.length ∧ o.2 < (lens[o.1]?).getD 0 ∧ (lens.take o.1).sum + o.2 = f) ∧
  (∀ (d a : Code) (s : State) (c : Cur) (w : Warp), Plain s w → w.slice.n = 0 → DealsAlone s c w →
    let lens := (List.range 32).map (fun i => (Assoc.get w.slice.ln 0 i).toNat)
    (Ready (.exred a) .none s c w → w.slice.active = true →
      ∃ x : Slice, exec (.exred a) s = .next (s.setWarp c.w ({ w with slice := x, span := false, held := none }.afterRetire c false)) ∧
        x = { w.slice with acc := x.acc } ∧
        ∀ o, o < 32 → Assoc.get x.acc 0 o =
          ((List.range 32).filter (fun i => (w.guardOf none).getLsbD i &&
            (Assoc.at? w.slice.item i).any (fun f => (ownerOf lens f 0).1 == o))).foldl
            (fun y i => (combine w.slice.op.toNat 0 y (w.rd a i)).1) (Assoc.get w.slice.acc 0 o)) ∧
    (Ready (.exfin d) .none s c w → w.slice.active = true →
      ∃ w' : Warp, exec (.exfin d) s = .next (s.setWarp c.w (w'.afterRetire c false)) ∧
        w' = { w.withRegs w' with
                slice := { w.slice with active := false, cursor := 0, item := [] }, span := false, held := none } ∧
        w'.fpflags = w.fpflags ∧
        (∀ r l, l < 32 → w'.rd r l = if r = d ∧ d ≠ 0xFF then Assoc.get w.slice.acc 0 l else w.rd r l)) ∧
    (w.slice.active = false →
      (Ready (.exred a) .none s c w → exec (.exred a) s = .next ((s.setWarp c.w { w with span := false }).raiseWhole c 0x1B 0)) ∧
      (Ready (.exfin d) .none s c w → exec (.exfin d) s = .next ((s.setWarp c.w { w with span := false }).raiseWhole c 0x1B 0))))

/-- R187: a collective instruction whose set is not complete holds its warp; once every warp of a set is held at matching
steps, none of them with a slice loaded by EXLOAD, the step is made for all of them at once and each retires. -/
def Obligations.AsterSetsStepTogether : Prop :=
  (∀ (i : Instr) (d a b : Code) (s : State) (c : Cur) (w : Warp), i ∈ [Instr.exnext d a b, Instr.exred a, Instr.exfin d] → Ready i .none s c w → Plain s w →
    w.slice.active = true → (w.path c.p).mask = Mask.full →
    let w1 := { w with span := false, held := some { why := .aster, cur := c, i := some i } }
    (s.setWarp c.w { w with span := false }).setBroken w (w.setOf i) = false →
    (s.setWarp c.w w1).asterDue w = none → (s.setWarp c.w w1).asterReady c.w = false →
    exec i s = .next (s.setWarp c.w w1)) ∧
  (∀ (s : State) (key : Nat) (w : Warp) (d : Dealt) (ws : List Warp), s.warp? key = some w → w.dealt key = some d →
    s.asterReady key = true → s.differs d = false →
    let ds := s.dealtSet w (w.setOf d.i)
    (∀ x ∈ ds, stepCode x.i = stepCode d.i ∧ x.w.setOf x.i = w.setOf d.i ∧ x.w.slice.loaded = false ∧ x.cur.w = x.key ∧
      s.debugOn x.w = false) →
    (ds.map Dealt.key).Nodup → asterStep ds = .inr ws →
    exec (.asterStepMatch key) s = .next
      ((ds.zip ws).foldl (fun (t : State) x => t.setWarp x.1.key ({ x.2 with held := none }.afterRetire x.1.cur false)) s))

/-- R194 to R196: EXSAVE writes the slice's image to its block and retires; EXLOAD of an image that its checks accept
replaces the slice by what the image holds. An image read back holds the slice's starts, lengths, accumulators, cursor,
operator and set size. R194, R237: with nothing pending and no engine operation, writes made within an instruction to what software
may write (R266, R273, R369) put their bytes at the places of their addresses and change no other byte. -/
def Obligations.AsterImages : Prop :=
  ((∀ (a : Code) (s q : State) (c : Cur) (w : Warp), Ready (.exsave a) .none s c w → Plain s w →
    s.formBlock c w (w.rdPair a 0) 8 8 49 false true = [] →
    s.writeLanes c w 8 (unitAddrs (w.rdPair a 0).toNat 8 49) (fun j => sliceBytes w.image (8 * j) 8) = .done q →
    exec (.exsave a) s = .next (q.retire c)) ∧
  (∀ (a : Code) (s q : State) (c : Cur) (w : Warp) (vals : List (Nat × List Byte)), Ready (.exload a) .none s c w → Plain s w →
    s.formBlock c w (w.rdPair a 0) 8 8 49 true false = [] →
    s.readLanes c w true 8 (unitAddrs (w.rdPair a 0).toNat 8 49) = .done vals [] q → q.warp? c.w = some w →
    q.debugOn w = false → q.imageCause w (blockBytes vals 49) = none →
    let x := sliceOfImage (blockBytes vals 49)
    exec (.exload a) s = .next (q.setWarp c.w ({ w with slice := { x with item := q.loadedItems w x } }.afterRetire c false))) ∧
  (∀ w : Warp, w.slice.active = true → w.slice.cursor < 2 ^ 32 → w.slice.n.toNat ≤ 2 →
    w.image.length = 392 ∧
    let x := sliceOfImage w.image
    x.active = true ∧ x.op = w.slice.op ∧ x.n = w.slice.n ∧ x.cursor = w.slice.cursor ∧
    ∀ i, i < 32 → Assoc.get x.st 0 i = Assoc.get w.slice.st 0 i ∧ Assoc.get x.ln 0 i = Assoc.get w.slice.ln 0 i ∧
      Assoc.get x.acc 0 i = Assoc.get w.slice.acc 0 i)) ∧
  (∀ (s : State) (c : Cur) (w : Warp) (n : Nat) (as : List LaneAddr) (H : Nat → Hit) (data : Nat → List Byte),
    s.accesses = [] → s.engines = [] →
    (∀ a ∈ as, s.lookLane (w.who c.w c.p) false true a.va n = (.go (H a.lane), s) ∧ (data a.lane).length = n ∧
      s.backs (H a.lane).place (H a.lane).off n ∧ s.way (some (coreOfKey c.w)) (H a.lane) = .go ∧
      s.Intact (w.unit c.w c.p 0 .store (H a.lane)
        [{ lane := a.lane, va := a.va, voff := 0, off := (H a.lane).off, size := n, data := data a.lane }] n 0)) →
    as.Pairwise (fun a b => (H a.lane).place ≠ (H b.lane).place ∨ (H a.lane).off + n ≤ (H b.lane).off ∨
      (H b.lane).off + n ≤ (H a.lane).off) →
    ∃ q : State, s.writeLanes c w n as data = .done q ∧ q.warps = s.warps ∧
      (∀ a ∈ as, ∀ j, j < n → q.peek (H a.lane).place ((H a.lane).off + j) = ((data a.lane)[j]?).getD 0) ∧
      (∀ pl off, (∀ a ∈ as, pl ≠ (H a.lane).place ∨ off < (H a.lane).off ∨ (H a.lane).off + n ≤ off) → q.peek pl off = s.peek pl off))

/-! ## Atomics, fences and barriers -/

/-- R259 to R262, R144: ATOM and ATOMS other than an arrival, on good addresses, issue one counted instruction: a load, or a
store where d is z. Looking the addresses up changes at most caches. Each lane that runs has exactly one pending atomic, of one
part of the word's size, with its operator, its value, its comparand and the scope of its order; an order of acquire and release
carries both, and makes the instruction a synchronising one. Under zero policy the lanes guarded off write 0. An operator that has
no 64-bit form raises 0x26. R260, R266: an arrival by ATOMS of one word, with nothing pending, stamped or recorded, is performed
before it retires: the word takes the arrival's update and the old word is on its way to d. R237, R265: FENCE enters its fence in
path order and retires. While an access that a device or system fence follows is pending, no access that it precedes, and that its
kind orders, may be performed. R240: one that passes another in spite of a narrower scope leaves that other owing its place to the
agents of the scope: their accesses that would conflict with it wait (log entry 5). -/
def Obligations.AtomicsAndFences : Prop :=
  ((∀ (pf : Option Prefix) (d a b x : Code) (aop : BitVec 4) (width : BitVec 2) (order : BitVec 3) (s q : State) (c : Cur) (w : Warp)
      (H : Nat → Hit) (i : Instr),
    let size := if width = 0 then 4 else 8
    let once := atomOnce d a b aop x
    let on := w.onLanes pf once c
    let value := fun (r : Code) (l : Nat) => if width = 0 then (w.rd r l).toNat else (w.rdPair r l).toNat
    ∀ va : Nat → Nat,
    ((i = .atom pf d a b aop width order x ∧
        (∀ l, va l = (w.rdPair a l).toNat) ∧
        (∀ l ∈ on, va l < 2 ^ 56 ∧ va l % size = 0 ∧ (H l).remote = none) ∧
        s.lookLanes (w.who c.w c.p) true true size (on.map (fun l => { lane := l, va := va l })) =
          (on.map (fun l => ({ lane := l, va := va l }, .go (H l))), q)) ∨
      (i = .atoms pf d a b aop width order x ∧ q = s ∧
        (∀ l, va l = (w.rd a l).toNat) ∧
        (∀ l, H l = { place := .scratch w.team (if 2 ^ 31 ≤ va l then 1 - w.wg else w.wg), off := va l % 2 ^ 31, pa := 0, tag := 0,
                      w := true, x := false, home := 0, remote := none }) ∧
        (∀ l ∈ on, va l % size = 0 ∧ (2 ^ 31 ≤ va l → s.twoGroups w = true) ∧
          va l % 2 ^ 31 + size ≤ s.headerField w Launch.scratch ∧ s.badAt (H l).place (H l).off size = false))) →
    Ready i .none s c w → Plain s w → width.toNat ≤ 1 → aop ≠ 0xE → (width ≠ 0 → aop.toNat < 0xA) → w.mode.getLsbD 13 = false →
    (w.path c.p).replayOp = none → q.warp? c.w = some w → q.debugOn w = false → q.unrecorded w →
    ∃ (as : List Access) (w0 : Warp), w0 = w.withRegs w0 ∧ w0.fpflags = w.fpflags ∧
      exec i s = .next
        (({ q with
            outs := Assoc.put q.outs q.fresh
              { w := c.w, path := c.p, pc := c.pc, isLoad := d != 0xFF, dst := d, regs := size / 4, size := size, signed := false,
                lanes := maskOf on, uniform := once, got := [], more := false }
            fresh := q.fresh + 1 } : State).addAccesses as |>.setWarp c.w
              (if order.toNat < 4 then (w0.issued (d != 0xFF) q.fresh).afterRetire c false
               else (w0.issued (d != 0xFF) q.fresh).afterSync c)) ∧
      Covers as on size va H (some (fun l => bytesOfNat size (value b l))) ∧
      as.map (fun y => y.parts.map Part.lane) = on.map (fun l => [l]) ∧
      (∀ y ∈ as, y.w = c.w ∧ y.op = q.fresh ∧ y.seq = w.seq ∧ y.remote = none ∧ y.strong = true ∧ y.size = size ∧
        (y.acq = true ↔ 4 ≤ order.toNat) ∧ (y.rel = true ↔ 4 ≤ order.toNat) ∧
        y.scope = (if order.toNat % 4 = 0 then Scope.wg
          else if order.toNat % 4 = 1 ∨ i = .atoms pf d a b aop width order x then .team
          else if order.toNat % 4 = 2 then .device else .system) ∧
        ∃ l ∈ on, ∃ p, y.parts = [p] ∧ p.lane = l ∧ p.voff = 0 ∧ p.size = size ∧ y.kind = .rmw aop (BitVec.ofNat 64 (value x l))) ∧
      (∀ r l, l < 32 → w0.rd r l =
        if d ≠ 0xFF ∧ once = false ∧ w.zeroed pf c.lanes l = true ∧ ∃ j, j < size / 4 ∧ r = nextCode d j then 0 else w.rd r l)) ∧
  (∀ (pf : Option Prefix) (d a b x : Code) (aop : BitVec 4) (width : BitVec 2) (order : BitVec 3) (s : State) (c : Cur) (w : Warp),
    width ≠ 0 → 0xA ≤ aop.toNat →
    (Ready (.atom pf d a b aop width order x) .none s c w →
      exec (.atom pf d a b aop width order x) s = .next (s.raiseWhole c 0x26 0)) ∧
    (Ready (.atoms pf d a b aop width order x) .none s c w →
      exec (.atoms pf d a b aop width order x) s = .next (s.raiseWhole c 0x26 0)))) ∧
  (∀ (d a b x : Code) (order : BitVec 3) (s : State) (c : Cur) (w : Warp) (new : Word),
    let i := Instr.atoms none d a b 0xE 0 order x
    let at_ := (w.rd a 0).toNat
    let place := Place.scratch w.team (if 2 ^ 31 ≤ at_ then 1 - w.wg else w.wg)
    Ready i .none s c w → Plain s w → isLane d = false → isLane a = false → isLane b = false → (w.path c.p).replayOp = none →
    s.unrecorded w → s.accesses = [] → s.engines = [] → s.stamps = [] → s.strong = [] → at_ % 4 = 0 → (2 ^ 31 ≤ at_ → s.twoGroups w = true) →
    at_ % 2 ^ 31 + 4 ≤ s.headerField w Launch.scratch → s.badAt place (at_ % 2 ^ 31) 4 = false → s.backs place (at_ % 2 ^ 31) 4 →
    arriveWord (BitVec.ofNat 32 (natOfBytes (s.peekBytes place (at_ % 2 ^ 31) 4))) (w.rd b 0).toNat = some new →
    ∃ t : State, exec i s = .next t ∧ t.peekBytes place (at_ % 2 ^ 31) 4 = bytesOfNat 4 new.toNat ∧
      (∀ pl off, pl ≠ place ∨ off < at_ % 2 ^ 31 ∨ at_ % 2 ^ 31 + 4 ≤ off → t.peek pl off = s.peek pl off) ∧
      (∃ hs, t.warp? c.w = some (if order.toNat < 4 then ({ w.issued (d != 0xFF) s.fresh with heard := hs } : Warp).afterRetire c false
        else ({ w.issued (d != 0xFF) s.fresh with heard := hs } : Warp).afterSync c)) ∧
      (Assoc.at? t.outs s.fresh).map (fun o => (o.dst, (List.range 4).map (fun j => Assoc.get o.got 0 j))) =
        some (d, s.peekBytes place (at_ % 2 ^ 31) 4)) ∧
  ((∀ (k : BitVec 2) (sc : BitVec 3) (s : State) (c : Cur) (w : Warp), Ready (.fence k sc) .none s c w → Plain s w →
    exec (.fence k sc) s = .next (({ s with fences := s.fences ++
        [{ w := c.w, seg := ((w.path c.p).segs[0]?).getD 0, seq := w.seq, kind := k.toNat, scope := Scope.ofFence sc.toNat }] } :
          State).sweepFences |>.setWarp c.w
      (({ w with
          seq := w.seq + 1
          marks := w.marks ++ [{ seg := ((w.path c.p).segs[0]?).getD 0, seq := w.seq, kind := k.toNat
                                 scope := Scope.ofFence sc.toNat }] } : Warp).afterRetire c false))) ∧
  (∀ (s : State) (kx ky : Nat) (x y : Access) (f : Fence), (kx, x) ∈ s.accesses → kx ≠ ky → x.w = y.w → f ∈ s.fences →
    f.w = x.w → y.segs.contains f.seg = true → y.segs.contains x.seg = true → x.seq < f.seq → f.seq < y.seq →
    (f.kind = 0 ∨ f.kind = 2 ∧ y.writes = true ∨ f.kind = 1 ∧ x.reads = true) → (f.scope = .device ∨ f.scope = .system) →
    s.canPerform ky y = false) ∧
  (∀ (s : State) (kx ky : Nat) (x y : Access) (sc : Scope), (kx, x) ∈ s.accesses → kx ≠ ky → s.orderOf x y = some sc →
    ∃ z t, (kx, z) ∈ (s.pass ky y).accesses ∧ z = { x with owes := some t } ∧ sc.rank ≤ t.rank) ∧
  (∀ (s : State) (kx kz : Nat) (x z : Access) (sc : Scope), (kx, x) ∈ s.accesses → kx ≠ kz → x.owes = some sc →
    sc.holds (s.agent x.w) (s.agent z.w) = true → x.w ≠ z.w → z.segs.contains x.seg = false → x.meets z = true →
    (x.writes = true ∨ z.writes = true) → s.canPerform kz z = false))

/-- R266: an arrival of n at a barrier word adds n to the count; with a target each full target adds one to the 8-bit phase
and leaves the remainder as count; without one the sum must fit. A malformed word or an n above 4095 is rejected. R264, R267:
ARRIVE whose atomic completes on a well-formed word gives the old word to d and is a synchronising instruction; a word that
it finds malformed raises 0x2C and d is unchanged. With nothing pending, stamped or recorded the old word is the one in the
scratchpad, which takes the update of R266, and nothing else of the warp changes but the model's record of what it has heard (log
entry 6). -/
def Obligations.BarrierArrivals : Prop :=
  (∀ (word : Word) (n : Nat),
    let phase := word.toNat / 2 ^ 24
    let target := word.toNat / 2 ^ 12 % 2 ^ 12
    let count := word.toNat % 2 ^ 12
    (4095 < n → arriveWord word n = none) ∧
    (n ≤ 4095 → target ≠ 0 → target ≤ count → arriveWord word n = none) ∧
    (n ≤ 4095 → target = 0 → count + n ≤ 4095 → arriveWord word n = some (BitVec.ofNat 32 (phase * 2 ^ 24 + (count + n)))) ∧
    (n ≤ 4095 → target = 0 → 4095 < count + n → arriveWord word n = none) ∧
    (n ≤ 4095 → count < target → arriveWord word n = some
      (BitVec.ofNat 32 ((phase + (count + n) / target) % 256 * 2 ^ 24 + target * 2 ^ 12 + (count + n) % target)))) ∧
  (∀ (d a b : Code) (s q : State) (c : Cur) (w x : Warp) (h : Hit) (old : Nat), Ready (.arrive d a b) .none s c w → Plain s w →
    s.scratchWord w (w.rd a 0) = .at h → s.rmwNow c w h 4 0xE (w.rd b 0).toNat 0 false true .team = .done old q →
    (∀ new, arriveWord (BitVec.ofNat 32 old) (w.rd b 0).toNat = some new → s.badAt h.place h.off 4 = false →
      q.warp? c.w = some x → q.debugOn x = false → q.unrecorded x →
      exec (.arrive d a b) s = .next (q.setWarp c.w ({ (x.wr d 0 (BitVec.ofNat 32 old)) with seq := x.seq + 1 }.afterSync c)) ∧
      (s.accesses = [] → s.engines = [] → s.stamps = [] → s.strong = [] → s.backs h.place h.off 4 →
        x = { w with heard := x.heard } ∧
        old = natOfBytes (s.peekBytes h.place h.off 4) ∧ q.peekBytes h.place h.off 4 = bytesOfNat 4 new.toNat)) ∧
    (arriveWord (BitVec.ofNat 32 old) (w.rd b 0).toNat = none → exec (.arrive d a b) s = .next (s.raiseAt c 0x2C 0 (w.rd a 0).toNat)))

/-- R268, R269, R271: WAITB and MWAIT that read a word which satisfies them retire at once as synchronising instructions;
else their warp parks. WAITB.PH waits for a phase other than its operand, WAITB.CNT for a count of at least its operand or a
change of phase, MWAIT.NE for another word, MWAIT.GEU for a word at least its operand. R268, R269, R271: a warp parked at
WAITB or MWAIT whose next read satisfies it retires it: the hold ends. R268: with nothing pending, stamped or recorded, WAITB reads
the word that stands in the scratchpad; the read changes no byte, and of a warp at most the model's record of what it has heard (log
entry 6). What satisfies a parked warp: a change of phase is one from the phase that the WAITB read at issue, which parked it. -/
def Obligations.WordWaits : Prop :=
  ((∀ e ∈ ([(fun a b => Instr.waitbPh a b, false, fun word y => y.toNat % 256 != word.toNat / 2 ^ 24),
      (fun a b => Instr.waitbCnt a b, true, fun word y => decide (y.toNat % 4096 ≤ word.toNat % 4096))] :
      List ((Code → Code → Instr) × Bool × (Word → Word → Bool))),
    ∀ (a b : Code) (s q : State) (c : Cur) (w y : Warp) (word : Word) (x : Bool), Ready (e.1 a b) .none s c w → Plain s w →
      s.readBarrier c w e.2.1 a b = .got word x q → q.warp? c.w = some y → q.debugOn y = false → q.unrecorded y →
      (e.2.2 word (w.rd b 0) = true →
        exec (e.1 a b) s = .next (q.setWarp c.w ({ y with seq := y.seq + 1 }.afterSync c))) ∧
      (e.2.2 word (w.rd b 0) = false →
        exec (e.1 a b) s = .next (q.setWarp c.w { y with
          seq := y.seq + 1, held := some { why := .waitb (word.toNat / 2 ^ 24), cur := c, i := some (e.1 a b) } }))) ∧
  (∀ e ∈ ([(fun a b => Instr.mwaitNe a b, fun word y => word != y), (fun a b => Instr.mwaitGeu a b, fun word y => decide (y.toNat ≤ word.toNat))] :
      List ((Code → Code → Instr) × (Word → Word → Bool))),
    ∀ (a b : Code) (s q0 : State) (c : Cur) (w y : Warp) (word : Word) (denied : Bool), Ready (e.1 a b) .none s c w → Plain s w →
      s.readMwait c w a = .got word denied q0 →
      let q := q0.mwaitLog c w a denied
      (denied = false → q = q0) ∧ (q.warp? c.w = some y → q.debugOn y = false → q.unrecorded y →
      (e.2 word (w.rd b 0) = true →
        exec (e.1 a b) s = .next (q.setWarp c.w ({ y with seq := y.seq + 1 }.afterSync c))) ∧
      (e.2 word (w.rd b 0) = false →
        exec (e.1 a b) s = .next (q.setWarp c.w { y with
          seq := y.seq + 1, held := some { why := .mwait, cur := c, i := some (e.1 a b) } }))))) ∧
  ((∀ e ∈ ([(fun a b => Instr.waitbPh a b, false), (fun a b => Instr.waitbCnt a b, true)] : List ((Code → Code → Instr) × Bool)),
    ∀ (a b : Code) (key p : Nat) (s q : State) (w y : Warp) (h : Held) (word : Word) (x : Bool), s.warp? key = some w →
      w.held = some h → h.why = .waitb p → h.i = some (e.1 a b) → h.cur.w = key → w.halt = none →
      s.readBarrier h.cur w e.2 a b = .got word x q → waitbMet e.2 (w.rd b 0) word p = true → q.warp? key = some y →
      q.debugOn y = false → q.unrecorded y →
      exec (.waitbRelease key) s = .next (q.setWarp key ({ y with held := none, seq := y.seq + 1 }.afterSync h.cur))) ∧
  (∀ e ∈ ([(fun a b => Instr.mwaitNe a b, false), (fun a b => Instr.mwaitGeu a b, true)] : List ((Code → Code → Instr) × Bool)),
    ∀ (a b : Code) (key : Nat) (s q : State) (w y : Warp) (h : Held) (word : Word) (x : Bool), s.warp? key = some w →
      w.held = some h → h.why = .mwait → h.i = some (e.1 a b) → h.cur.w = key → w.halt = none →
      s.readMwait h.cur w a = .got word x q → mwaitMet e.2 (w.rd b 0) word = true → q.warp? key = some y →
      q.debugOn y = false → q.unrecorded y →
      exec (.mwaitRelease key) s = .next (q.setWarp key ({ y with held := none, seq := y.seq + 1 }.afterSync h.cur)))) ∧
  (∀ (s : State) (c : Cur) (w : Warp) (cnt : Bool) (a b : Code) (h : Hit), s.scratchWord w (w.rd a 0) = .at h →
    s.accesses = [] → s.engines = [] → s.stamps = [] → s.strong = [] → s.badAt h.place h.off 4 = false →
    let word : Word := BitVec.ofNat 32 (natOfBytes (s.peekBytes h.place h.off 4))
    wordMalformed word = false → (cnt = true → (w.rd b 0).toNat < 4096) →
    ∃ q : State, s.readBarrier c w cnt a b = .got word false q ∧ (∀ pl off, q.peek pl off = s.peek pl off) ∧
      (∀ n, (q.warp? n).map Warp.deaf = (s.warp? n).map Warp.deaf)) ∧
  (∀ (b word : Word) (p : Nat),
    (waitbMet false b word p = true ↔ word.toNat / 2 ^ 24 ≠ b.toNat % 256) ∧
    (waitbMet true b word p = true ↔ b.toNat % 4096 ≤ word.toNat % 4096 ∨ word.toNat / 2 ^ 24 ≠ p) ∧
    (mwaitMet false b word = true ↔ word ≠ b) ∧ (mwaitMet true b word = true ↔ b.toNat ≤ word.toNat))

/-- R270, R271: the last warp of an instance to issue its k-th BAR, with no access issued before pending, goes on at once and
counts it; the others park, and each is released once the instance is complete; in a team of one workgroup BAR.TEAM acts as
BAR.WG. R270: an instance is complete exactly when every other warp of it has exited or issued as many BARs and, as the model has it
(log entry 47), no access that a warp of it issued before its k-th BAR is pending. A warp that goes on keeps the model's record of what
it then has heard (log entry 6). -/
def Obligations.BarResults : Prop :=
  (∀ e ∈ ([(Instr.barWg, false), (Instr.barTeam, true)] : List (Instr × Bool)), ∀ (s : State) (c : Cur) (w : Warp),
    Ready e.1 .none s c w → Plain s w →
    let team := e.2 && s.twoGroups w
    let k := w.bars team + 1
    let m := w.markBar team k
    let s1 := s.setWarp c.w m
    let heard := w.heard ++ s1.barHeard m team k
    (s.barMet c.w w team k = true → exec e.1 s = .next (s1.retireBar c team k)) ∧
    (s.barMet c.w w team k = true → w.pre = .normal → s.unrecorded w →
      exec e.1 s = .next (s.setWarp c.w ((if team then { m with heard := heard, barTeam := w.barTeam + 1 }
        else { m with heard := heard, barWg := w.barWg + 1 }).afterSync c))) ∧
    (s.barMet c.w w team k = false →
      exec e.1 s = .next (s.setWarp c.w { m with held := some { why := .bar team k, cur := c, i := some e.1 } }))) ∧
  (∀ (team : Bool) (key k : Nat) (s : State) (w : Warp) (h : Held), s.warp? key = some w → w.held = some h → h.why = .bar team k →
    h.cur.w = key → w.halt = none → s.barMet key w team k = true → w.pre = .normal → s.debugOn w = false → s.unrecorded w →
    let m : Warp := { w with held := none }
    let heard := w.heard ++ (s.setWarp key m).barHeard m team k
    exec (.barRelease key) s = .next (s.setWarp key
      ((if team then { m with heard := heard, barTeam := w.barTeam + 1 } else { m with heard := heard, barWg := w.barWg + 1 }).afterSync
        h.cur))) ∧
  (∀ (s : State) (key k : Nat) (w : Warp) (team : Bool), s.barMet key w team k = true ↔
    (∀ n x, (n, x) ∈ s.warps → x.team = w.team → (team = true ∨ x.wg = w.wg) → n = key ∨ x.live = 0 ∨ k ≤ x.barsIssued w.barMode team) ∧
    (∀ j a, (j, a) ∈ s.accesses → ∀ x, (a.w, x) ∈ s.warps → x.team = w.team → (team = true ∨ x.wg = w.wg) →
      x.barSeq w.barMode team k ≤ a.seq))

/-! ## The scratch hash table -/

/-- R273: HTCLAIM of a power of two of 4 to 2048 buckets that fits beside the workgroup's claims opens the lowest free table,
empty, and gives its id to d; with a spill address it also zeroes the cursor there and takes the capacity from the header.
Its first three causes are 0x2D with subcauses 1, 3 and 0. HTREL closes a claim; of a table that is not claimed it raises
0x2D/2. R275, R276, R278: HINS, HPROBE, HDEL and HACC on a claimed table group the running lanes by key, lowest lane first,
and run their operation on the groups in order, after what R237 puts before it; HACC first combines the contributions of a group in
ascending lane order. With no reserved key and no cause, each lane's status goes to d, for HPROBE
behind the value and before a zero word; under zero policy the lanes guarded off write 0; nothing else of the warp changes.
R277: HDRAIN of a table without a spill area whose entries fit a good block writes its entries, key and value, in ascending
order, after what R237 puts before its event, empties the table and gives their number to d. That a once-per-warp result goes to every
lane of a lane destination is the model's choice (log entry 45). -/
def Obligations.HashInstructions : Prop :=
  (∀ (d a b : Code) (s : State) (c : Cur) (w : Warp) (g : Group), Plain s w → s.group? w.team w.wg = some g →
    let n := (w.rd b 0).toNat
    let opened := fun (q : State) (y : Warp) (id : Nat) (spill : Option DWord) (capacity : Nat) =>
      ((q.updGroup w.team w.wg (fun g =>
          { g with claims := Assoc.put g.claims id { b := n, entries := [], spill := spill, capacity := capacity } })).setWarp c.w
        ((y.wr d 0 (BitVec.ofNat 32 id)).afterRetire c false))
    (Ready (.htclaim d a b) .none s c w →
      ((∃ k, 2 ≤ k ∧ k ≤ 11 ∧ n = 2 ^ k) → n * 128 + g.claimed ≤ s.headerField w Launch.hashmax →
        ∀ id, id < 8 → Assoc.at? g.claims id = none → (∀ j, j < id → Assoc.at? g.claims j ≠ none) →
        (a = 0xFF → exec (.htclaim d a b) s = .next (opened s w id none 0)) ∧
        (∀ (q q2 : State) (y : Warp) (vals : List (Nat × List Byte)), a ≠ 0xFF → (w.rdPair a 0).toNat < 2 ^ 56 → (w.rdPair a 0).toNat % 16 = 0 →
          s.readLanes c w true 8 [{ lane := 0, va := (w.rdPair a 0).toNat }] = .done vals [] q →
          q.writeLanes c w 4 [{ lane := 0, va := (w.rdPair a 0).toNat }] (fun _ => zeros 4) = .done q2 →
          q2.warp? c.w = some y → q2.debugOn y = false →
          exec (.htclaim d a b) s = .next (opened q2 y id (some (w.rdPair a 0)) (readValue vals 0 / 2 ^ 32)))) ∧
      ((¬∃ k, 2 ≤ k ∧ k ≤ 11 ∧ n = 2 ^ k) → exec (.htclaim d a b) s = .next (s.raiseWhole c 0x2D 1)) ∧
      ((∃ k, 2 ≤ k ∧ k ≤ 11 ∧ n = 2 ^ k) → (∀ j, j < 8 → Assoc.at? g.claims j ≠ none) →
        exec (.htclaim d a b) s = .next (s.raiseWhole c 0x2D 3)) ∧
      ((∃ k, 2 ≤ k ∧ k ≤ 11 ∧ n = 2 ^ k) → (∃ j, j < 8 ∧ Assoc.at? g.claims j = none) →
        s.headerField w Launch.hashmax < n * 128 + g.claimed → exec (.htclaim d a b) s = .next (s.raiseWhole c 0x2D 0))) ∧
    (Ready (.htrel a) .none s c w →
      (Assoc.at? g.claims (w.rd a 0).toNat ≠ none →
        exec (.htrel a) s = .next ((s.updGroup w.team w.wg (fun g =>
          { g with claims := Assoc.erase g.claims (w.rd a 0).toNat })).setWarp c.w (w.afterRetire c false))) ∧
      (Assoc.at? g.claims (w.rd a 0).toNat = none → exec (.htrel a) s = .next (s.raiseWhole c 0x2D 2)))) ∧
  (∀ (pf : Option Prefix) (d a b : Code) (op : BitVec 4) (ty : BitVec 2) (s s0 : State) (c : Cur) (w y : Warp) (r : KeyRun)
      (value : Nat → DWord) (status : Nat → Word),
    ∀ e ∈ ([(Instr.hins pf d a b, 1, fun c w id (s : State) cl (g : KeyGroup) =>
          s.hashInsert c w id cl g.key (w.rdPair (nextCode a 2) ((g.lanes.head?).getD 0))),
        (Instr.hprobe pf d a b, 4, fun c w _ s cl g => s.hashProbe c w cl g.key),
        (Instr.hdel pf d a b, 1, fun c w id s cl g => s.hashDelete c w id cl g.key),
        (Instr.hacc pf d a b op ty, 1, fun c w id s cl g =>
          match g.lanes with
          | [] => .ok { value := 0, status := 0, others := 0 } s
          | l :: t => s.hashAccumulate c w id cl op ty g.key
              (t.foldl (fun (x : DWord) j => haccOp op ty x (w.rdPair (nextCode a 2) j)) (w.rdPair (nextCode a 2) l)))] :
        List (Instr × Nat × (Cur → Warp → Nat → State → Claim → KeyGroup → SpillGot KeyResult))),
    let once := !isLane a
    let on := w.onLanes pf once c
    let id := (w.rd b 0).toNat
    Ready e.1 .none s c w → Plain s w → s.claim? w id ≠ none → (∀ l ∈ on, w.rdPair a l ≠ emptyKey) →
    s.settleFor (w.keyedAccess c) = some s0 →
    runKeys w id (fun s cl g => e.2.2 { c with lanes := if once then c.lanes else maskOf g.lanes } w id s cl g) (on.foldl (fun gs l => addKey gs (w.rdPair a l) l) []) 2
      { results := [], causes := [], s := s0 } = .ok r →
    r.causes = [] → (∀ x ∈ r.results, x.2 = (value x.1, status x.1)) → (∀ l ∈ on, ∃ x ∈ r.results, x.1 = l) →
    r.s.warp? c.w = some y → r.s.debugOn y = false →
    ∃ w' : Warp, exec e.1 s = .next (r.s.setWarp c.w (w'.afterRetire c false)) ∧
      w' = { y.withRegs w' with seq := w.seq + 1 } ∧ w'.fpflags = y.fpflags ∧
      let word := fun (l k : Nat) => if e.2.1 = 1 then status l else
        (if k = 0 then (value l).lo else if k = 1 then (value l).hi else if k = 2 then status l else 0)
      let written := fun (l : Nat) => if once then c.lanes.getLsbD l else w.runs pf c.lanes l
      (∀ q l, l < 32 → (∀ k, k < e.2.1 → q ≠ nextCode d k) → w'.rd q l = y.rd q l) ∧
      (classOf d = .uniform → ∀ k l, k < e.2.1 → l < 32 → w'.rd (nextCode d k) l = word 0 k) ∧
      (classOf d = .lane → ∀ k l, k < e.2.1 → l < 32 → w'.rd (nextCode d k) l =
        if written l then word (if once then 0 else l) k
        else if once = false ∧ w.zeroed pf c.lanes l = true then 0 else y.rd (nextCode d k) l)) ∧
  (∀ (d a b : Code) (s s0 q : State) (c : Cur) (w y : Warp) (cl : Claim), Ready (.hdrain d a b) .none s c w → Plain s w →
    s.claim? w (w.rd b 0).toNat = some cl → cl.spill = none → s.settleFor (w.keyedAccess c) = some s0 →
    let n := cl.entries.length
    let bytes := (Assoc.vals cl.entries).flatMap (fun e => bytesOfNat 8 e.1.toNat ++ bytesOfNat 8 e.2.toNat)
    s0.formBlock c w (w.rdPair a 0) 16 8 (2 * n) false true = [] →
    s0.writeLanes c w 8 (unitAddrs (w.rdPair a 0).toNat 8 (2 * n)) (fun j => sliceBytes bytes (8 * j) 8) = .done q →
    q.warp? c.w = some y → q.debugOn y = false →
    exec (.hdrain d a b) s = .next ((q.updClaim w (w.rd b 0).toNat (fun x => { x with entries := [] })).setWarp c.w
      ({ (y.wr d 0 (BitVec.ofNat 32 n)) with seq := y.seq + 1 }.afterRetire c false)))

/-- R274, R275: on a table without a spill area, a key of one of its two buckets is found at its first entry in search order.
HINS keeps a present entry (status 1) and puts an absent one in the first empty entry (status 0, 1 for the group's other
lanes); HPROBE gives the value (status 0) or nothing (status 2); HDEL empties the entry (status 0, 2 for the others) or finds
nothing (status 2); HACC combines into a present entry (status 0) or inserts (status 1). Without an empty entry an insert
meets 0x2E. R274: the home bucket of a key is a bucket of its claim, taken from the high bits of the product; its places are
slots 0 to 7 of that bucket and then slots 0 to 7 of the next, cyclically. R275: the operators of HACC: addition modulo 2^64, the
smaller and the larger number, unsigned or signed, and FADD, FMIN and FMAX on the low halves as FP32; the high half of an f32 value
that is stored is 0. -/
def Obligations.HashTableSemantics : Prop :=
  (∀ (s : State) (c : Cur) (w : Warp) (id : Nat) (cl : Claim) (key x : DWord) (op : BitVec 4) (ty : BitVec 2), cl.spill = none →
    let holds := fun (e : Nat) => (Assoc.at? cl.entries e).any (fun y => y.1 == key)
    let put := fun (e : Nat) (v : DWord) => s.updClaim w id (fun c => { c with entries := Assoc.put c.entries e (key, v) })
    (∀ e v, (bucketEntries key cl.b).find? holds = some e → Assoc.at? cl.entries e = some (key, v) →
      s.hashInsert c w id cl key x = .ok { value := 0, status := 1, others := 1 } s ∧
      s.hashProbe c w cl key = .ok { value := v, status := 0, others := 0 } s ∧
      s.hashDelete c w id cl key = .ok { value := 0, status := 0, others := 2 }
        (s.updClaim w id (fun c => { c with entries := Assoc.erase c.entries e })) ∧
      s.hashAccumulate c w id cl op ty key x =
        .ok { value := 0, status := 0, others := 0 } (put e (haccStored ty (haccOp op ty v x)))) ∧
    ((bucketEntries key cl.b).find? holds = none →
      s.hashProbe c w cl key = .ok { value := 0, status := 2, others := 2 } s ∧
      s.hashDelete c w id cl key = .ok { value := 0, status := 2, others := 2 } s ∧
      (∀ e, (bucketEntries key cl.b).find? (fun e => (Assoc.at? cl.entries e).isNone) = some e →
        s.hashInsert c w id cl key x = .ok { value := 0, status := 0, others := 1 } (put e x) ∧
        s.hashAccumulate c w id cl op ty key x =
          .ok { value := 0, status := 1, others := 1 } (put e (haccStored ty x))) ∧
      ((bucketEntries key cl.b).find? (fun e => (Assoc.at? cl.entries e).isNone) = none →
        s.hashInsert c w id cl key x = .cause 0x2E 0 0 s ∧ s.hashAccumulate c w id cl op ty key x = .cause 0x2E 0 0 s))) ∧
  (∀ (key : DWord) (k : Nat), k ≤ 11 →
    homeBucket key (2 ^ k) = (key.toNat * 0x9E3779B97F4A7C15 % 2 ^ 64) / 2 ^ (64 - k) ∧ homeBucket key (2 ^ k) < 2 ^ k ∧
    let h := homeBucket key (2 ^ k)
    bucketEntries key (2 ^ k) =
      (List.range 8).map (fun j => 8 * h + j) ++ (List.range 8).map (fun j => 8 * ((h + 1) % 2 ^ k) + j)) ∧
  (∀ x y : DWord,
    haccOp 0 0 x y = x + y ∧ haccOp 0 1 x y = x + y ∧
    (haccOp 1 0 x y).toNat = min x.toNat y.toNat ∧ (haccOp 2 0 x y).toNat = max x.toNat y.toNat ∧
    (haccOp 1 1 x y).toInt = min x.toInt y.toInt ∧ (haccOp 2 1 x y).toInt = max x.toInt y.toInt ∧
    (haccOp 0 2 x y).toNat = (FpFmt.fp32.add 0 (x.toNat % 2 ^ 32) (y.toNat % 2 ^ 32)).1 % 2 ^ 64 ∧
    (haccOp 1 2 x y).toNat = (FpFmt.fp32.minMax false (x.toNat % 2 ^ 32) (y.toNat % 2 ^ 32)).1 % 2 ^ 64 ∧
    (haccOp 2 2 x y).toNat = (FpFmt.fp32.minMax true (x.toNat % 2 ^ 32) (y.toNat % 2 ^ 32)).1 % 2 ^ 64 ∧
    haccStored 0 x = x ∧ haccStored 1 x = x ∧ (haccStored 2 x).toNat = x.toNat % 2 ^ 32)

/-! ## Tensor handles -/

/-- R282 to R284: THLD loads a handle register from 32 good bytes, THSET replaces one field (of zeros where nothing is
loaded), each after the checks of R282, whose cause it raises otherwise; THGET reads a field. A value that its field cannot
hold raises 0x16. A field replaced reads as the value written, and every bit outside it is as before. R281: a coordinate in
bounds at every level of a dense handle with four levels leads to base plus the sum of coordinate times stride; the first
level whose bound it exceeds decides: clip, trap, or wrap, which reduces the coordinate modulo the bound. -/
def Obligations.HandleInstructions : Prop :=
  ((∀ (d a : Code) (off : BitVec 16) (s q : State) (c : Cur) (w : Warp) (vals : List (Nat × List Byte)),
    Ready (.thld d a off) .none s c w → Plain s w →
    s.formBlock c w (w.rdPair a 0 + BitVec.ofNat 64 (32 * off.toNat)) 8 8 4 true false = [] →
    s.readLanes c w true 8 (unitAddrs (w.rdPair a 0 + BitVec.ofNat 64 (32 * off.toNat)).toNat 8 4) = .done vals [] q →
    q.warp? c.w = some w → q.debugOn w = false →
    let h : Handle := BitVec.ofNat 256 (natOfBytes (blockBytes vals 4))
    (handleBad h = none → exec (.thld d a off) s = .next (q.setWarp c.w ((w.setHandle d h).afterRetire c false))) ∧
    (∀ k b, handleBad h = some (k, b) → exec (.thld d a off) s = .next (q.raiseWhole c k b))) ∧
  (∀ (d a sel : Code) (s : State) (c : Cur) (w : Warp) (lo n low : Nat), Ready (.thset d a sel) .none s c w → Plain s w →
    handleField ((w.handle? d).getD 0) sel.toNat = some (lo, n, low) →
    let x := if selWide sel then (w.rdPair a 0).toNat else (w.rd a 0).toNat
    let h := setBits ((w.handle? d).getD 0) lo n (x / 2 ^ low)
    (x % 2 ^ low = 0 → x < 2 ^ (n + low) → handleBad h = none →
      exec (.thset d a sel) s = .next (s.setWarp c.w ((w.setHandle d h).afterRetire c false))) ∧
    (∀ k b, x % 2 ^ low = 0 → x < 2 ^ (n + low) → handleBad h = some (k, b) →
      exec (.thset d a sel) s = .next (s.raiseWhole c k b)) ∧
    (x % 2 ^ low ≠ 0 ∨ 2 ^ (n + low) ≤ x → exec (.thset d a sel) s = .next (s.raiseWhole c 0x16 0))) ∧
  (∀ (d a sel : Code) (s : State) (c : Cur) (w : Warp) (h : Handle) (lo n low : Nat), Ready (.thget d a sel) .none s c w →
    Plain s w → w.handle? a = some h → handleField h sel.toNat = some (lo, n, low) →
    let x := (h.extractLsb' lo n).toNat * 2 ^ low
    exec (.thget d a sel) s = .next (s.setWarp c.w
      ((if selWide sel then w.wrPair d 0 (BitVec.ofNat 64 x) else w.wr d 0 (BitVec.ofNat 32 x)).afterRetire c false))) ∧
  (∀ (h g : Handle) (sel lo n low x : Nat), handleField g sel = some (lo, n, low) →
    (setBits h lo n x).extractLsb' lo n = BitVec.ofNat n x ∧
    ∀ j, (j < lo ∨ lo + n ≤ j) → (setBits h lo n x).getLsbD j = h.getLsbD j)) ∧
  (∀ (h : Handle) (a b c d : Nat) (la lb lc ld : Level), hType h = 0 →
    levelOf h 0 = some la → levelOf h 1 = some lb → levelOf h 2 = some lc → levelOf h 3 = some ld →
    (b < lb.bound → c < lc.bound → d < ld.bound →
      (a < la.bound → spotOf h [a, b, c, d] =
        .at (inSpace h (hBase h + (a * la.stride + b * lb.stride + c * lc.stride + d * ld.stride)))) ∧
      (la.bound ≤ a → la.beyond = .wrap → spotOf h [a, b, c, d] =
        .at (inSpace h (hBase h + (a % la.bound * la.stride + b * lb.stride + c * lc.stride + d * ld.stride))))) ∧
    (la.bound ≤ a → (la.beyond = .clip → spotOf h [a, b, c, d] = .clip) ∧ (la.beyond = .trap → spotOf h [a, b, c, d] = .trap)) ∧
    (a < la.bound → lb.bound ≤ b →
      (lb.beyond = .clip → spotOf h [a, b, c, d] = .clip) ∧ (lb.beyond = .trap → spotOf h [a, b, c, d] = .trap)))

/-! ## The copy engine -/

/-- R248, R286 to R289, R291, R292: COPY, GATHER, SCATTER and TSPLIT with two loaded handles raise the first failing check; else
they post one operation of the right kind and number of tasks, which takes its destination lines, whose token becomes pending, and
retire, or with `yield` park their warp and go on at the continuation; a continuation past the code limit raises 0x4C. While an
access of the path to those lines is pending that cannot be performed, the instruction does not issue. A missing handle raises
0x0A. The order of the checks is log entry 49; the lines taken at posting are log entry 34. -/
def Obligations.CopiesPost : Prop :=
  ∀ (d a b q tok bar : Code) (yld list ordered : BitVec 1) (cont : BitVec 5) (s : State) (c : Cur) (w : Warp), Plain s w →
    (w.handle? d = none ∨ w.handle? a = none → ∀ i ∈ [Instr.copy d a b q tok bar yld cont, .tsplit d a b q tok bar yld cont,
        .gather d a b q tok bar yld list cont, .scatter d a b q tok bar yld list ordered cont],
      Ready i .none s c w → exec i s = .next (s.raiseWhole c 0x0A 0)) ∧
    (∀ hd hs, w.handle? d = some hd → w.handle? a = some hs →
      (Ready (.copy d a b q tok bar yld cont) .none s c w →
        (∀ k x, copyBad hd hs (w.quad q) (w.quad b) = some (k, x) →
          exec (.copy d a b q tok bar yld cont) s = .next (s.raiseWhole c k x)) ∧
        (copyBad hd hs (w.quad q) (w.quad b) = none → Posts (.copy d a b q tok bar yld cont) s c w
          (.copy hd hs (w.quad q) (w.quad b)) ((copyTasks hd hs (w.quad q) (w.quad b)).flatMap (moveSpans hd))
          (copyTasks hd hs (w.quad q) (w.quad b)).length tok bar yld cont)) ∧
      (Ready (.tsplit d a b q tok bar yld cont) .none s c w →
        (∀ k x, tsplitBad hd hs (w.quad q) (w.quad b) = some (k, x) →
          exec (.tsplit d a b q tok bar yld cont) s = .next (s.raiseWhole c k x)) ∧
        (tsplitBad hd hs (w.quad q) (w.quad b) = none → Posts (.tsplit d a b q tok bar yld cont) s c w
          (.tsplit hd hs (w.quad q) (w.quad b)) (tsplitSpans hd hs (w.quad q)) (regionOffsets (extentsOf hs)).length tok bar yld cont)) ∧
      (let off := (w.rd b 0).toNat
      let rows := w.rowIndices c b
      let n := if list = 1 then (w.rd (nextCode b 1) 0).toNat else rows.length
      let range := if list = 1 then s.listBad w off n else none
      let ixs := if list = 1 then [] else rows
      (Ready (.gather d a b q tok bar yld list cont) .none s c w →
        (∀ k x, (rowsBad hd hs true).or (range.or (rowsShape hd hs (w.quad q) n ixs true)) = some (k, x) →
          exec (.gather d a b q tok bar yld list cont) s = .next (s.raiseWhole c k x)) ∧
        ((rowsBad hd hs true).or (range.or (rowsShape hd hs (w.quad q) n ixs true)) = none →
          Posts (.gather d a b q tok bar yld list cont) s c w
            (if list = 1 then .gatherList hd hs (w.quad q) off n else .gather hd hs (w.quad q) rows)
            [] (gatherTasks hd hs (w.quad q) n).length tok bar yld cont)) ∧
      (Ready (.scatter d a b q tok bar yld list ordered cont) .none s c w →
        (∀ k x, (rowsBad hd hs false).or (range.or (rowsShape hd hs (w.quad q) n ixs false)) = some (k, x) →
          exec (.scatter d a b q tok bar yld list ordered cont) s = .next (s.raiseWhole c k x)) ∧
        ((rowsBad hd hs false).or (range.or (rowsShape hd hs (w.quad q) n ixs false)) = none →
          Posts (.scatter d a b q tok bar yld list ordered cont) s c w
            (if list = 1 then .scatterList hd hs (w.quad q) off n (ordered == 1) else .scatter hd hs (w.quad q) rows (ordered == 1))
            ((withPos (if list = 1 then s.listNow c.w off n else rows) 0).flatMap (fun r =>
              moveSpans hd ((rowMoves false hd hs (w.quad q) r.1 r.2).getD []))) n tok bar yld cont))))

/-- R248, R249, R286, R288 to R291, R293: an operation that may go on does one task. A COPY reads what the task moves and writes
the lines that meet no cause. A GATHER, its indices given or from a list, writes a line of a row, and the row's last line makes the
row's arrival; a row that meets a cause writes nothing more. A SCATTER first reads and checks its rows, the last of them again with
all before it, then writes line by line; of the rows that target a unit, one supplies it, the highest where the order is asked for.
A TSPLIT encodes a tile and writes it, with a spill area where its outliers do not fit; a full spill area or a tile that cannot be
encoded stops the operation. Its task count rises, and the lines of the task are free again. When all tasks are done the operation
completes: its arrival is made on its counting word, its copy is done, a warp that yielded for it goes on, and it leaves the engine
unless it holds a cause. What an engine writes stands at the places that were checked, and nothing else changes. That an operation
does its tasks one at a time, in ascending order, is log entry 15; what a task is of TSPLIT is log entry 46, of GATHER and SCATTER
log entry 49. -/
def Obligations.CopyEngineSteps : Prop :=
  (∀ (s : State) (id : Nat) (e : EngOp), s.engOp? id = some e →
    (s.engReady id = true →
      (∀ hd hs q x ms, e.kind = .copy hd hs q x → (copyTasks hd hs q x)[e.done]? = some ms →
        (∀ ps t bad u, s.readMoves id hd hs ms = .ok ps t → t.engStoreLines id ps = .ok bad u →
          exec (.engineLineTransfer id) s = .next ((u.engDone id bad).engDisown id (e.ownLines (moveSpans hd ms)))) ∧
        (∀ k b t, s.readMoves id hd hs ms = .cause k b t → exec (.engineLineTransfer id) s =
            .next ((t.engDone id [(k, b)]).engDisown id (e.ownLines (moveSpans hd ms))))) ∧
      (∀ hd hs q n k line, (∃ rows, e.kind = .gather hd hs q rows ∧ rows.length = n) ∨ (∃ off, e.kind = .gatherList hd hs q off n) →
        (gatherTasks hd hs q n)[e.done]? = some (k, line) →
        (k ∈ e.gath.ids → exec (.engineLineTransfer id) s = .next (s.engDone id [])) ∧
        (k ∉ e.gath.ids →
          (∀ ps t u, s.rowPuts id e true hd hs q k = .ok ps t →
            t.engStore id (ps.filter (fun p => some (p.addr / 128) == line)) = .ok () u →
            ((∃ m l, (gatherTasks hd hs q n)[e.done + 1]? = some (m, l) ∧ m = k) →
              exec (.engineLineTransfer id) s = .next (u.engDone id [])) ∧
            ((∀ m l, (gatherTasks hd hs q n)[e.done + 1]? = some (m, l) → m ≠ k) →
              exec (.engineLineTransfer id) s = .next ((u.engCount id).engDone id []))) ∧
          (∀ x b t, s.rowPuts id e true hd hs q k = .cause x b t →
            exec (.engineLineTransfer id) s = .next ((t.engDone id [(x, b)]).failRow id k)))) ∧
      (∀ hd hs q n ordered, (∃ rows, e.kind = .scatter hd hs q rows ordered ∧ rows.length = n) ∨
          (∃ off, e.kind = .scatterList hd hs q off n ordered) →
        (∀ r t, e.done + 1 < n → s.scatterRows id e hd hs q [e.done] = .ok r t →
          exec (.engineLineTransfer id) s = .next ((t.failRows id r.2).engDone id [])) ∧
        (∀ r t, e.done + 1 = n → s.scatterRows id e hd hs q (e.goodRows n) = .ok r t →
          exec (.engineLineTransfer id) s = .next (((t.failRows id r.2).engDone id []).updEng id (fun e =>
            { e with total := n + (rowLines r.1).length, gath := { e.gath with todo := rowLines r.1 } }))) ∧
        (∀ r t line u, n ≤ e.done → s.scatterRows id e hd hs q (e.goodRows n) = .ok r t → e.gath.todo[e.done - n]? = some line →
          let here := r.1.map (fun r => (r.1, r.2.filter (fun p => p.addr / 128 == line)))
          let ch := t.chooseUnits here ordered ((here.flatMap (fun r => r.2.map (fun p => p.addr / 4))).eraseDups)
          let ps := here.flatMap (fun r => r.2.filter (fun p => ch.1.contains (p.addr / 4, r.1)))
          ch.2.engStore id ps = .ok () u →
          exec (.engineLineTransfer id) s =
            .next (((u.failRows id r.2).engDone id []).engDisown id (e.ownLines (ps.map Put.span))))) ∧
      (∀ hd hs q x o bits t, e.kind = .tsplit hd hs q x → (regionOffsets (extentsOf hs))[e.done]? = some o →
        s.readRegion id hs (addCoord x o) = .ok bits t →
        let os := e.ownLines (tsplitSpan hd q o)
        (∀ img, encodeRegion (fmtOf (hElem hs)) (hType hd + 2) (hTau hd) 256 0x12 bits = .inl img →
          (∀ a bad u, spotOf hd (addCoord q o) = .at a → img.outs.length ≤ 64 →
            t.engStoreLines id [{ scr := hScratch hd, addr := a, align := 128, data := img.image (hTau hd) 0 }] = .ok bad u →
            exec (.tsplitTileEncode id) s = .next ((u.engDone id bad).engDisown id os)) ∧
          (∀ a sp cursor v bad u, spotOf hd (addCoord q o) = .at a → 64 < img.outs.length →
            t.takeSpill id (hAux hd) img.outs.length = .ok (some (sp, cursor)) v →
            v.engStoreLines id [cursor, { scr := false, addr := sp, align := 4, data := img.spillBytes },
              { scr := hScratch hd, addr := a, align := 128, data := img.image (hTau hd) sp }] = .ok bad u →
            exec (.tsplitTileEncode id) s = .next ((u.engDone id bad).engDisown id os)) ∧
          (∀ a v, spotOf hd (addCoord q o) = .at a → 64 < img.outs.length →
            t.takeSpill id (hAux hd) img.outs.length = .ok none v →
            exec (.tsplitTileEncode id) s = .next (((v.engDone id [(0x4B, 0)]).engDisown id os).engStop id)) ∧
          ((∀ a, spotOf hd (addCoord q o) ≠ .at a) →
            exec (.tsplitTileEncode id) s = .next ((t.engDone id []).engDisown id os))) ∧
        (∀ code, encodeRegion (fmtOf (hElem hs)) (hType hd + 2) (hTau hd) 256 0x12 bits = .inr code → code = 0x12 ∨ code = 0x14 →
          exec (.tsplitTileEncode id) s = .next (((t.engDone id [(code, 0)]).engDisown id os).engStop id)))) ∧
    (∀ (t : State) (bad : List (Nat × Nat)), t.engOp? id = some e →
      ((t.engDone id bad).engOp? id).map EngOp.done = some (e.done + 1) ∧
      (∀ n, n ≠ id → (t.engDone id bad).engOp? n = t.engOp? n) ∧ (t.engDone id bad).mem = t.mem) ∧
    (s.copyFinished id = true → (∀ x sig q0 q1 q2 n k tr, e.kind ≠ .bgather x sig q0 q1 q2 n k tr) →
      let ended := fun (q : State) => q.updWarp e.w (fun w =>
        { w with copies := complete w.copies id, held := if w.yieldedOn id then none else w.held })
      (e.cause = none →
        (e.bar = none ∨ e.kind.arrivesOnce = false →
          exec (.copyOperationComplete id) s = .next (ended { s with engines := Assoc.erase s.engines id })) ∧
        (∀ off h, e.bar = some off → e.kind.arrivesOnce = true →
          s.engScratch e.w { scr := true, addr := off, size := 4, align := 4 } = .inl h → s.badAt h.place h.off 4 = false →
          let word := natOfBytes (s.peekBytes h.place h.off 4)
          word / 2 ^ 12 % 2 ^ 12 = 0 → word % 2 ^ 12 < 4095 →
          exec (.copyOperationComplete id) s = .next (ended
            { s.poke h.place h.off (bytesOfNat 4 (word + 1)) with engines := Assoc.erase s.engines id }))) ∧
      (∀ x w, e.cause = some x → e.bar = none → s.warp? e.w = some w → w.yieldedOn id = false →
        exec (.copyOperationComplete id) s = .next (ended { s with
          engines := Assoc.upd s.engines id (fun e => { e with complete := true, owned := [], bound := [], snap := [] }) })))) ∧
  (∀ (s : State) (rows : List (Nat × List Put)) (ordered : Bool) (units : List Nat) (u : Nat),
    (rows.map (fun x => x.1)).Pairwise (· < ·) → u ∈ units → (∃ x ∈ rows, ∃ p ∈ x.2, p.addr / 4 = u) →
    ∃ k, (u, k) ∈ (s.chooseUnits rows ordered units).1 ∧ (∃ ps, (k, ps) ∈ rows ∧ ∃ p ∈ ps, p.addr / 4 = u) ∧
      (ordered = true → ∀ x ∈ rows, (∃ p ∈ x.2, p.addr / 4 = u) → x.1 ≤ k)) ∧
  (∀ (s : State) (ls : List Landed), (∀ l ∈ ls, s.backs l.1.place l.1.off l.2.length) →
    ls.Pairwise (fun a b => a.1.place ≠ b.1.place ∨ a.1.off + a.2.length ≤ b.1.off ∨ b.1.off + b.2.length ≤ a.1.off) →
    (∀ l ∈ ls, ∀ j, j < l.2.length → (s.engLand ls).peek l.1.place (l.1.off + j) = (l.2[j]?).getD 0) ∧
    (∀ pl off, (∀ l ∈ ls, pl ≠ l.1.place ∨ off < l.1.off ∨ l.1.off + l.2.length ≤ off) → (s.engLand ls).peek pl off = s.peek pl off) ∧
    (s.engLand ls).warps = s.warps ∧ (s.engLand ls).engines = s.engines)

/-! ## The matrix engine -/

/-- R299, R301, R303, R305, R309: on a tile of its own a warp's MMA and MMALOOP whose operands and steps pass the checks of
R296 and R313 post one operation of that many steps and retire; so do MLOAD and, outside trap mode, MDRAIN. A tile that is
free or not reserved raises 0x18, another warp's 0x46. R248, R315: a drain to scratchpad takes the lines that it writes, after the
path's earlier accesses to them. BPUT publishes a quarter. MACC.alloc takes the lowest free tile,
cleared; MACC.free gives one back. -/
def Obligations.MatrixOperationsPost : Prop :=
  ∀ (d a b qa qb inc n st : Code) (clr : BitVec 1) (s : State) (c : Cur) (w : Warp), Plain s w →
    let owns := fun (f : Code) => (w.rd f 0).toNat ≤ 3 ∧ (w.rd f 0).toNat < s.headerField w Launch.acctiles ∧
      (s.tileOf? c.w (w.rd f 0).toNat).bind Tile.owner = some w.warpId
    let posted := { w.posted false s.fresh none with openBatch := w.openBatch ++ [s.fresh] }
    let put := fun (q : State) (e : EngOp) => ({ q with engines := Assoc.put q.engines s.fresh e, fresh := s.fresh + 1 } : State)
    let done := fun (q : State) (e : EngOp) => (put q e).setWarp c.w (posted.afterRetire c false)
    let make := fun (k : EngKind) (m : Nat) => EngOp.make c w k w.tileNo m none none
    let qa' := fun (h : Handle) => ({ handle := h, coord := w.quad qa, clearance := w.clearance } : Quarter)
    let qb' := fun (h : Handle) => ({ handle := h, coord := w.quad qb, clearance := w.clearance } : Quarter)
    let incs := [0, 1, 2, 3].map (fun j => (w.rd (nextCode inc j) 0).toInt)
    let k := (w.rd n 0).toNat
    (∀ e ∈ ([(Instr.mma d a b qa qb, [0, 0, 0, 0], 1), (Instr.mmaloop d a b qa qb inc n, incs, k)] : List (Instr × List Int × Nat)),
      Ready e.1 .none s c w → owns d → e.2.2 ≤ 4096 → e.2.2 ≠ 0 → ∀ ha, w.handle? a = some ha → operandBad ha = none →
      (∀ hb, b ≠ 0xFF → w.handle? b = some hb → operandBad hb = none →
        coordsBad (stepBoxes (qa' ha) [qb' hb] e.2.1 e.2.2) = none →
        exec e.1 s = .next (done s (make (.mma (w.rd d 0).toNat (qa' ha) [qb' hb] e.2.1 e.2.2 (w.mode.getLsbD 12)) e.2.2))) ∧
      (∀ qs, b = 0xFF → s.quadFits w = true → s.quarters? w = some qs →
        coordsBad (stepBoxes (qa' ha) qs e.2.1 e.2.2) = none →
        exec e.1 s = .next (done (s.consumeQuad w)
          (make (.mma (w.rd d 0).toNat (qa' ha) qs e.2.1 e.2.2 (w.mode.getLsbD 12)) e.2.2)))) ∧
    (Ready (.mload d a b) .none s c w → owns d →
      (∀ h q, s.dataForm w a b 8 = .scratch h q →
        exec (.mload d a b) s = .next (done s (make (.load (w.rd d 0).toNat h q) 1))) ∧
      (∀ m col q, s.dataForm w a b 8 = .regs m col q → ∃ vals, exec (.mload d a b) s =
          .next (done s (make (.loadReg (w.rd d 0).toNat vals) 1)) ∧
        ∀ i k, i < 32 → k < m → (w.path c.p).issueMask.getLsbD i = true →
          Assoc.at? vals (128 * (32 * q + i) + col + k) = some (w.rd (BitVec.ofNat 8 (a.toNat + k)) i))) ∧
    (Ready (.mdrain d a b st clr) .none s c w → owns a → w.trap = none →
      (∀ h q, s.dataForm w d b 16 = .scratch h q →
        let e := make (.drain (w.rd a 0).toNat h q (clr == 1) st) 1
        (s.drainBefore c w e (s.drainLines c.w h q) = none → exec (.mdrain d a b st clr) s = .next s) ∧
        (∀ u w0, s.drainBefore c w e (s.drainLines c.w h q) = some u → u.warp? c.w = some w0 →
          exec (.mdrain d a b st clr) s = .next (u.withOp c.w
            ({ w0.posted false u.fresh none with openBatch := w0.openBatch ++ [u.fresh] }.afterRetire c false)
            e (s.drainLines c.w h q)))) ∧
      (∀ m col q, s.dataForm w d b 16 = .regs m col q →
        exec (.mdrain d a b st clr) s = .next (done s (make (.drainReg (w.rd a 0).toNat d.toNat m col q (clr == 1) st
          (w.path c.p).issueMask) 1)))) ∧
    (Ready (.mdrain d a b st clr) .none s c w → owns a → w.trap ≠ none → ∀ m col q, s.dataForm w d b 16 = .regs m col q →
      let e := make (.drainReg (w.rd a 0).toNat d.toNat m col q (clr == 1) st (w.path c.p).issueMask) 1
      exec (.mdrain d a b st clr) s =
        .next (((((put s e).setWarp c.w posted).drainTile s.fresh e true).engComplete s.fresh).retire c)) ∧
    (∀ e ∈ [(Instr.mma d a b qa qb, d), (.mmaloop d a b qa qb inc n, d), (.mload d a b, d), (.mdrain d a b st clr, a), (.maccFree a, a)],
      Ready e.1 .none s c w → let t := (w.rd e.2 0).toNat
      (3 < t ∨ s.headerField w Launch.acctiles ≤ t ∨ (s.tileOf? c.w t).bind Tile.owner = none → exec e.1 s = .next (s.raiseWhole c 0x18 0)) ∧
      (t ≤ 3 → t < s.headerField w Launch.acctiles → (∃ x o, s.tileOf? c.w t = some x ∧ x.owner = some o ∧ o ≠ w.warpId) →
        exec e.1 s = .next (s.raiseWhole c 0x46 0))) ∧
    (Ready (.bput a b) .none s c w →
      (∀ h, s.quadFits w = true → w.handle? a = some h → operandBad h = none →
        coordsBad [(h, 32, (w.quad b).map (fun x => (x : Int)))] = none →
        let x : Quarter := { handle := h, coord := w.quad b, clearance := w.clearance }
        exec (.bput a b) s = .next ((s.updGroup w.team w.wg (fun g =>
          { g with quarters := Assoc.put g.quarters w.warpId x })).setWarp c.w (w.afterRetire c false))) ∧
      (s.quadFits w = false → exec (.bput a b) s = .next (s.raiseWhole c 0x45 1))) ∧
    (Ready (.maccAlloc d) .none s c w →
      (∀ t, t < 4 → t < s.headerField w Launch.acctiles → (s.tileOf? c.w t).bind Tile.owner = none →
        (∀ j, j < t → (s.tileOf? c.w j).bind Tile.owner ≠ none) →
        exec (.maccAlloc d) s = .next ((s.setTile c.w t { Tile.reset with owner := some w.warpId }).setWarp c.w
          ((w.wr d 0 (BitVec.ofNat 32 t)).afterRetire c false))) ∧
      ((∀ j, j < 4 → j < s.headerField w Launch.acctiles → (s.tileOf? c.w j).bind Tile.owner ≠ none) →
        exec (.maccAlloc d) s = .next (s.raiseWhole c 0x19 0))) ∧
    (Ready (.maccFree a) .none s c w → owns a → s.tileOps c.w (w.rd a 0).toNat = [] →
      exec (.maccFree a) s = .next ((s.updGroup w.team w.wg (fun g =>
        { g with tiles := Assoc.erase g.tiles (w.rd a 0).toNat })).setWarp c.w (w.afterRetire c false)))

/-- R50, R51, R303, R304, R309, R311: a step of an MMA whose inputs are read and whole adds the merge of its K-block to every
element of its tile, from the element's row of A and column of B. The merge adds the body term, then the products at A's outliers
in ascending k, then those at B's outliers where A has none; the body term is the exact dot product of the levels times both scales,
and a product of outliers whose magnitude is in range is exact. Redundant mode keeps the same elements and marks the tile where the
array's halves differ, which only an array that can err does (log entry 50, the model's choice). An MLOAD writes its tile: from a
scratchpad tensor, its elements widened and both flags cleared, or from registers. An MDRAIN outside trap mode writes what it drains,
to scratchpad or to the registers of its lanes, and the status 0, and clears the tile where it says so. A finished tile operation
completes. -/
def Obligations.MatrixSteps : Prop :=
  (∀ (s : State) (id t : Nat) (e : EngOp), s.engOp? id = some e → s.tileReady id = true →
    (∀ a bs inc n red u v ra rb x, e.kind = .mma t a bs inc n red → s.tileOf? e.w t = some x →
      s.readOperand id e.w a 128 (stepCoord a (intAt inc 0) (intAt inc 1) e.done) = .ok ra u →
      engMap bs u (fun b s => s.readOperand id e.w b (quarterRows bs) (stepCoord b (intAt inc 2) (intAt inc 3) e.done)) = .ok rb v →
      v.tileOf? e.w t = some x → (∀ r ∈ ra, r.lost = false) → (∀ r ∈ rb.flatten, r.lost = false) →
      exec (.matrixStep id) s = .next ((((v.setTile e.w t { x with acc := sparseOf (mergeBlock ra rb.flatten x.elements) }).compareHalves
        e.w t red).updEng id (fun e => { e with snap := [] })).engDone id [])) ∧
    (∀ h q x els, e.kind = .load t h q → s.tileOf? e.w t = some x → eachLeft (tileBox q) (fun c => s.loadElement e.w h c) = .inl els →
      (∀ y ∈ els, y.2 = false) →
      exec (.matrixStep id) s = .next (({ s.setTile e.w t
        { x with acc := sparseOf (els.map (fun y => y.1)), poisoned := false, mismatch := false, bad := [] } with
          free := s.free + 16384 } : State).engDone id [])) ∧
    (∀ vals x, e.kind = .loadReg t vals → s.tileOf? e.w t = some x → ∃ acc bad,
      exec (.matrixStep id) s = .next ((s.setTile e.w t { x with acc := acc, bad := bad }).engDone id []) ∧
      ((Assoc.keys vals).Nodup → ∀ k v, (k, v) ∈ vals → Assoc.get acc 0 k = v) ∧
      (∀ k, (∀ v, (k, v) ∉ vals) → Assoc.get acc 0 k = Assoc.get x.acc 0 k)) ∧
    (∀ clr st x, s.tileOf? e.w t = some x → (∀ y ∈ s.tileOps e.w t, y.1 < id → y.2.total ≤ y.2.done) → x.poisoned = false →
      x.mismatch = false →
      let cleared := fun (q : State) =>
        if clr = true then q.setTile e.w t { x with acc := [], poisoned := false, mismatch := false, bad := [] } else q
      (∀ h q u, e.kind = .drain t h q clr st → x.bad = [] → s.engStore id (x.drainPuts h q) = .ok () u →
        exec (.mdrainExecute id) s =
          .next ((cleared (if st = 0xFF then u else u.updWarp e.w (fun w => w.wr st 0 0))).engDone id [])) ∧
      (∀ d m col q lanes w, e.kind = .drainReg t d m col q clr st lanes → s.warp? e.w = some w → d + m ≤ 0x80 →
        (st = 0xFF ∨ classOf st = .uniform) →
        (∀ i k, i < 32 → k < m → lanes.getLsbD i = true → 128 * (32 * q + i) + col + k ∉ x.bad) →
        ∃ w' : Warp, exec (.mdrainExecute id) s = .next ((cleared (s.setWarp e.w w')).engDone id []) ∧ w' = w.withRegs w' ∧
          w'.fpflags = w.fpflags ∧ (st ≠ 0xFF → w'.rd st 0 = 0) ∧
          (∀ i k, i < 32 → k < m → w'.rd (BitVec.ofNat 8 (d + k)) i =
            if lanes.getLsbD i then Assoc.get x.acc 0 (128 * (32 * q + i) + col + k) else w.rd (BitVec.ofNat 8 (d + k)) i) ∧
          (∀ r l, l < 32 → r ≠ st → (∀ k, k < m → r ≠ BitVec.ofNat 8 (d + k)) → w'.rd r l = w.rd r l)))) ∧
  (∀ (s : State) (key : Nat) (h : Handle) (c : List Nat), hElem h = 0 ∨ hElem h = 2 →
    (stepAddress h c = none → s.loadElement key h c = .inl (0, false)) ∧
    (∀ a x, stepAddress h c = some a →
      s.engScratch key { scr := true, addr := a, size := elemSize (hElem h), align := elemSize (hElem h) } = .inl x →
      s.badAt x.place x.off (elemSize (hElem h)) = false → s.loadElement key h c =
        .inl (natOfBytes (s.peekBytes x.place x.off (elemSize (hElem h))) * (if hElem h = 2 then 65536 else 1), false))) ∧
  (∀ (s : State) (key t : Nat), s.compareHalves key t false = s ∧
    (coreOfKey key ∉ s.hw.arrays → s.compareHalves key t true = s) ∧
    (∀ x, coreOfKey key ∈ s.hw.arrays → s.tileOf? key t = some x → s.compareHalves key t true =
      { s.setTile key t { x with mismatch := x.mismatch || s.freeVal % 2 == 1 } with free := s.free + 1 })) ∧
  (∀ (s : State) (id : Nat) (e : EngOp), s.engOp? id = some e → s.tileFinished id = true → e.cause = none →
    exec (.matrixOperationComplete id) s = .next ({ s with engines := Assoc.erase s.engines id } |>.updWarp e.w (fun w =>
      { w with tiles := complete w.tiles id, held := if w.yieldedOn id then none else w.held }))) ∧
  (∀ (rows cols : List KRow) (acc : List Nat), cols.length = 128 → acc.length = 128 * rows.length →
    ∀ r j a b x, rows[r]? = some a → cols[j]? = some b → acc[128 * r + j]? = some x →
      (mergeBlock rows cols acc)[128 * r + j]? = some (mergeAt x a b)) ∧
  (∀ (els : List Nat) (i : Nat), Assoc.get (sparseOf els) 0 i = BitVec.ofNat 32 ((els[i]?).getD 0)) ∧
  (∀ (acc : Nat) (a b : KRow),
    let add := fun (acc : Nat) (p : (Int × Option Nat) × (Int × Option Nat)) =>
      accAdd acc (outProduct (elemValue a.scale p.1) (elemValue b.scale p.2))
    let ps := a.els.zip b.els
    mergeAt acc a b = (ps.filter (fun p => p.1.2 == none && p.2.2 != none)).foldl add
      ((ps.filter (fun p => p.1.2 != none)).foldl add (accAdd acc (bodyTerm a b)))) ∧
  (∀ a b : KRow, a.els.length = 32 → b.els.length = 32 → (∀ p ∈ a.els, p.1.natAbs ≤ 7) → (∀ p ∈ b.els, p.1.natAbs ≤ 7) →
    a.scale < 0x3F0 → b.scale < 0x3F0 →
    let scale := fun (c : Nat) => if c < 16 then (0 : ℚ) else (16 + c % 16 : ℕ) * (2 : ℚ) ^ ((c / 16 : ℕ) - 36 : ℤ)
    (∃ sg m e, FpFmt.fp32.unpack (bodyTerm a b) = .fin sg m e) ∧
    (FpFmt.fp32.unpack (bodyTerm a b)).value =
      ((((a.els.zip b.els).map (fun p => p.1.1 * p.2.1)).sum : ℤ) : ℚ) * scale a.scale * scale b.scale) ∧
  (∀ (sa sb : Bool) (ma mb : Nat) (ea eb : Int), ma < 256 → mb < 256 → -126 ≤ ea + eb → ea + eb ≤ 100 →
    (FpFmt.fp32.unpack (outProduct (.fin sa ma ea) (.fin sb mb eb))).value = (Fp.fin sa ma ea).value * (Fp.fin sb mb eb).value)

/-- R307, R308, R266: MBATCH closes the open batch under the next sequence number and sets its token. A warp's oldest incomplete
batch, once its operations are complete, stands complete, and every other batch stays as it is; with a barrier word it arrives there
with n = 1, and of a word that is malformed, full, uncorrectable or outside the allocation nothing is written and the batch holds
0x2C. WAITT on a token that is done and holds no cause retires as a
synchronising instruction, on a pending one it parks its warp, and goes on when the token is done; an invalid token raises
0x0B. -/
def Obligations.BatchesAndTokens : Prop :=
  (∀ (d bar : Code) (s : State) (c : Cur) (w : Warp), Ready (.mbatch d bar) .none s c w → Plain s w →
    ((w.batches.filter (fun b => !b.complete)).length < 256 →
      let kept := w.batches.filter (fun b => !b.complete || b.cause.isSome || b.ops.any (fun id => (s.engOp? id).isSome))
      let b : Batch := { seq := w.batchSeq, posted := s.fresh, pc := c.pc, ops := w.openBatch, bar := w.barOffset bar
                         cause := none, complete := false }
      exec (.mbatch d bar) s = .next (({ s with fresh := s.fresh + 1 } : State).setWarp c.w
        ({ w with
            batches := kept ++ [b], batchNo := w.batchNo + 1, batchSeq := w.batchSeq + 1, openBatch := []
            tok := match tokenNo d with
              | none => w.tok
              | some t => Assoc.put w.tok t (.batch w.batchSeq) }.afterRetire c false))) ∧
    (256 ≤ (w.batches.filter (fun b => !b.complete)).length → exec (.mbatch d bar) s = .next (s.raiseWhole c 0x1E 0))) ∧
  (∀ (s : State) (key : Nat) (w : Warp) (b : Batch), s.warp? key = some w → w.batches.find? (fun b => !b.complete) = some b →
    (∀ id ∈ b.ops, ∀ e, s.engOp? id = some e → e.complete = true) →
    let ends := fun (q : State) (cause : Option HeldCause) => exec (.batchComplete key) s = .next (q.setWarp key
      { w with batches := w.batches.map (fun x => if x.seq = b.seq then { b with complete := true, cause := cause } else x) })
    let fails := ends s (some { code := 0x2C, sub := 0, time := s.clock })
    (b.bar = none → ends s none) ∧
    (∀ off k, b.bar = some off → s.engScratch key { scr := true, addr := off, size := 4, align := 4 } = .inr k → fails) ∧
    (∀ off h, b.bar = some off → s.engScratch key { scr := true, addr := off, size := 4, align := 4 } = .inl h →
      let word := BitVec.ofNat 32 (natOfBytes (s.peekBytes h.place h.off 4))
      (s.badAt h.place h.off 4 = true → fails) ∧
      (s.badAt h.place h.off 4 = false → arriveWord word 1 = none → fails) ∧
      (∀ x, s.badAt h.place h.off 4 = false → arriveWord word 1 = some x →
        ends (s.poke h.place h.off (bytesOfNat 4 x.toNat)) none))) ∧
  (∀ (a : Code) (s : State) (c : Cur) (w : Warp), Ready (.waitt a) .none s c w → Plain s w →
    (w.token a = .invalid → exec (.waitt a) s = .next (s.raiseWhole c 0x0B 0)) ∧
    (s.tokenBusy w (w.token a) = true → exec (.waitt a) s =
      .next (s.setWarp c.w { w with held := some { why := .waitt, cur := c, i := some (.waitt a) } })) ∧
    (w.token a ≠ .invalid → s.tokenBusy w (w.token a) = false →
      (∀ e ∈ (s.awaited c.w w (w.token a)).1, e.2.cause = none) → (∀ b ∈ (s.awaited c.w w (w.token a)).2, b.cause = none) →
      s.unrecorded w → exec (.waitt a) s = .next (s.setWarp c.w (w.afterSync c)))) ∧
  (∀ (a : Code) (s : State) (key : Nat) (w : Warp) (h : Held), s.warp? key = some w → w.held = some h → h.why = .waitt →
    h.i = some (.waitt a) → h.cur.w = key → w.halt = none → s.tokenBusy w (w.token a) = false →
    (∀ e ∈ (s.awaited key w (w.token a)).1, e.2.cause = none) → (∀ b ∈ (s.awaited key w (w.token a)).2, b.cause = none) →
    s.unrecorded w → s.debugOn w = false →
    exec (.waittRelease key) s = .next (s.setWarp key ({ w with held := none }.afterSync h.cur)))

/-! ## The Larkspur index -/

/-- R319, R322, R325, R328: KIDX with z disables its slot, with a good descriptor loads it, and raises the first failing
check of another. QSIG gives each lane that runs the signature of its vector in scratchpad as the path's earlier accesses leave it,
and does not issue while another agent's access or an engine holds one of the vectors. KSTORE and BGATHER whose checks
pass post one operation and retire; KSTORE of 0 tokens only retires. An empty slot raises 0x1D subcause 0x40. -/
def Obligations.IndexInstructions : Prop :=
  ∀ (n d a b tok bar : Code) (strict val trunc : BitVec 1) (slot dist : BitVec 2) (s : State) (c : Cur) (w : Warp), Plain s w →
    (Ready (.kidx n 0xFF) .none s c w →
      exec (.kidx n 0xFF) s = .next (s.setWarp c.w ({ w with index := Assoc.erase w.index n.toNat }.afterRetire c false))) ∧
    (∀ q vals, a ≠ 0xFF → Ready (.kidx n a) .none s c w → s.formBlock c w (w.rdPair a 0) 64 8 8 true false = [] →
      s.readLanes c w true 8 (unitAddrs (w.rdPair a 0).toNat 8 8) = .done vals [] q → q.warp? c.w = some w → q.debugOn w = false →
      (indexBad (blockBytes vals 8) = none → exec (.kidx n a) s = .next (q.setWarp c.w
        ({ w with index := Assoc.put w.index n.toNat (indexOf (blockBytes vals 8)) }.afterRetire c false))) ∧
      (∀ k x, indexBad (blockBytes vals 8) = some (k, x) → exec (.kidx n a) s = .next (q.raiseWhole c k x))) ∧
    (∀ x s1 w1, Ready (.qsig d a b) .none s c w → w.slotOf (w.rd b 0).toNat = some x →
      s.settle (fun _ y => (w.path c.p).follows c.w y) = some s1 → s1.warp? c.w = some w1 → w1 = { w with heard := w1.heard } →
      s1.debugOn w1 = false → (∀ e ∈ s1.accesses, e.2.isStore = true → e.2.w ≠ c.w) →
      let place := fun (l : Nat) => Place.scratch w.team (if 2 ^ 31 ≤ (w.rd a l).toNat then 1 - w.wg else w.wg)
      let off := fun (l : Nat) => (w.rd a l).toNat % 2 ^ 31
      let held := (w1.onLanes none (onceR d [a]) c).any (fun l => s1.vectorHeld c w1 x (w1.rd a l).toNat)
      (held = true → exec (.qsig d a b) s = .next s) ∧
      (held = false → (∀ l, l < 32 → s1.rangeBad w1 (w.rd a l).toNat x.row x.size = none) →
        (∀ l, l < 32 → s1.badAt (place l) (off l) x.row = false) →
        WritesWordIn (.qsig d a b) none d (onceR d [a]) s s1 c w1
          (fun l => BitVec.ofNat 32 (signature x (s1.peekBytes (place l) (off l) x.row))) (fun _ => 0)) ∧
      (∀ k, held = false → onceR d [a] = true → s1.rangeBad w1 (w.rd a 0).toNat x.row x.size = some k →
        exec (.qsig d a b) s = .next (s1.raiseAt c k 0 (w.rd a 0).toNat)) ∧
      (held = false → onceR d [a] = true → s1.rangeBad w1 (w.rd a 0).toNat x.row x.size = none → s1.badAt (place 0) (off 0) x.row = true →
        exec (.qsig d a b) s = .next (s1.raiseAt c 0x39 0 (w.rd a 0).toNat))) ∧
    (Ready (.qsig d a b) .none s c w → w.slotOf (w.rd b 0).toNat = none → exec (.qsig d a b) s = .next (s.raiseWhole c 0x1D 0x40)) ∧
    (∀ x, Ready (.kstore d a b n tok bar strict val slot) .none s c w → w.slotOf slot.toNat = some x →
      let k := (w.rd n 0).toNat
      let t0 := (w.rd d 0).toNat
      let ka := (w.rd a 0).toNat
      let va := if val = 1 then (w.rd b 0).toNat else 0
      (k = 0 → exec (.kstore d a b n tok bar strict val slot) s = .next (s.setWarp c.w (w.afterRetire c false))) ∧
      (0 < k → k ≤ 256 → t0 + k - 1 < x.limit → s.rangeBad w ka (k * x.row) x.size = none →
        (val = 1 → s.rangeBad w va (k * x.row) x.size = none) →
        Posts (.kstore d a b n tok bar strict val slot) s c w (.kstore x t0 ka va k (strict == 1) (val == 1))
          (storeSpans x t0 k (val == 1)) k tok bar 0 0) ∧
      (256 < k → exec (.kstore d a b n tok bar strict val slot) s = .next (s.raiseWhole c 0x40 6)) ∧
      (0 < k → k ≤ 256 → x.limit ≤ t0 + k - 1 →
        exec (.kstore d a b n tok bar strict val slot) s = .next (s.raiseWhole c 0x42 1))) ∧
    (∀ x, Ready (.bgather d a tok bar dist slot trunc) .none s c w → w.slotOf slot.toNat = some x →
      let sig := (w.rd a 0).toNat
      let q := w.quad d
      let k := nth q 3
      (sig < 2 ^ x.bits → 0 < k → k ≤ 4096 →
        s.rangeBad w (nth q 0) (k * x.row) 16 = none → s.rangeBad w (nth q 1) (k * x.row) 16 = none →
        s.rangeBad w (nth q 2) (16 + 4 * k) 16 = none →
        ∃ e : EngOp, e = { EngOp.make c w (.bgather x sig (nth q 0) (nth q 1) (nth q 2) k dist.toNat (trunc == 1)) w.copyNo 1
              (tokenNo tok) (w.barOffset bar) with gath := e.gath } ∧ e.gath.todo = bucketOrder sig x.bits dist.toNat ∧
          exec (.bgather d a tok bar dist slot trunc) s = .next (({ s with
            engines := Assoc.put s.engines s.fresh e, fresh := s.fresh + 1 } : State).setWarp c.w
              ((w.posted true s.fresh (tokenNo tok)).afterRetire c false))) ∧
      (2 ^ x.bits ≤ sig → exec (.bgather d a tok bar dist slot trunc) s = .next (s.raiseWhole c 0x4A 1)) ∧
      (sig < 2 ^ x.bits → k = 0 ∨ 4096 < k → exec (.bgather d a tok bar dist slot trunc) s = .next (s.raiseWhole c 0x40 9))) ∧
    (w.slotOf slot.toNat = none → ∀ i ∈ [Instr.kstore d a b n tok bar strict val slot, .bgather d a tok bar dist slot trunc],
      Ready i .none s c w → exec i s = .next (s.raiseWhole c 0x1D 0x40))

/-- R320, R321, R326, R329 to R331: a KSTORE token whose rows are read, written and linked ends one task and gives back the lines of
its rows that no later token's row shares; of a token that meets causes they are held. A BGATHER visits the head line of each bucket within its radius once, by
distance and then by index, and after it the extension lines of its chain; a lossy head line ends the visit with 0x48, a malformed
line is 0x16 and the rest of its chain is skipped. It treats every id in a line, gathers a token below the limit whose rows may be
read, with one arrival, omits one whose rows may not, holds 0x41 for one at the limit or above, and stops at its budget. A signature
has as many bits as its index says. One step per token, lossy before malformed, the place where the pool header is read, the bounds of
the capacity and the time of giving back are the model's (log entry 51). -/
def Obligations.IndexSteps : Prop :=
  (∀ (s : State) (id : Nat) (e : EngOp), s.engReady id = true → s.engOp? id = some e →
    (∀ x t0 ka va n strict val, e.kind = .kstore x t0 ka va n strict val →
      let later := e.ownLines (storeSpans x (t0 + e.done + 1) (e.total - e.done - 1) val)
      let os := (e.ownLines (storeSpans x (t0 + e.done) 1 val)).filter (fun o => !later.contains o)
      let got := s.storeToken id x (t0 + e.done) (ka + e.done * x.row) (va + e.done * x.row) strict val
      (∀ bad u, got = .ok bad u → exec (.kstoreToken id) s = .next ((u.engDone id bad).engDisown id os)) ∧
      (∀ k b u, got = .cause k b u → exec (.kstoreToken id) s = .next ((u.engDone id [(k, b)]).engDisown id os)) ∧
      (∀ at_ u, got = .pause at_ u → exec (.kstoreToken id) s = .next (u.engPause id at_ 1 e.tokenSub))) ∧
    (∀ x sig q0 q1 q2 k dist trunc, e.kind = .bgather x sig q0 q1 q2 k dist trunc →
      let took := fun (u v : State) (g : Gathering) (bs : List Byte) (n : Nat) =>
        (lineBad bs (lineNext bs) = false → lineNext bs = 0 →
          exec (.bgatherBucketVisit id) s = .next (u.setGath id { g with ids := lineIds bs, next := none })) ∧
        (∀ p, lineBad bs (lineNext bs) = false → lineNext bs ≠ 0 → u.poolHead id x = .ok p v → lineNext bs ≤ p.2 →
          exec (.bgatherBucketVisit id) s = .next (v.setGath id { g with ids := lineIds bs, next := some (lineNext bs, n) })) ∧
        (∀ p, lineBad bs (lineNext bs) = false → lineNext bs ≠ 0 → u.poolHead id x = .ok p v → p.2 < lineNext bs →
          exec (.bgatherBucketVisit id) s = .next (v.holdGath id 0x16 0 { g with next := none })) ∧
        (lineBad bs (lineNext bs) = true → exec (.bgatherBucketVisit id) s = .next (u.holdGath id 0x16 0 { g with next := none }))
      (∀ b todo bs u v, e.gath.ids = [] → e.gath.next = none → e.gath.todo = b :: todo →
        (s.freshReads id).indexLine id (x.head b) = .ok bs u →
        let g : Gathering := { e.gath with todo := todo, visited := e.gath.visited + 1 }
        (lineLossy bs = true → exec (.bgatherBucketVisit id) s =
          .next (u.holdGath id 0x48 0 { g with flags := e.gath.flags ||| 2, stop := true })) ∧
        (lineLossy bs = false → took u v g bs 0)) ∧
      (∀ i n p bs t u v, e.gath.ids = [] → e.gath.next = some (i, n) → (s.freshReads id).poolHead id x = .ok p t →
        (p.2 ≤ n → exec (.bgatherBucketVisit id) s = .next (t.holdGath id 0x16 0 { e.gath with next := none })) ∧
        (n < p.2 → t.indexLine id (x.poolLine i) = .ok bs u → took u v { e.gath with next := none } bs (n + 1))) ∧
      (∀ t ids, e.gath.ids = t :: ids →
        (x.limit ≤ t → exec (.bgatherToken id) s = .next (s.holdGath id 0x41 0 { e.gath with ids := ids })) ∧
        (∀ u, t < x.limit → s.tokenRows id x t = .ok none u →
          exec (.bgatherToken id) s = .next (u.setGath id { e.gath with ids := ids })) ∧
        (∀ kb vb u, t < x.limit → s.tokenRows id x t = .ok (some (kb, vb)) u → e.gath.count = k →
          let full : Gathering := { e.gath with ids := ids, flags := e.gath.flags ||| 1, stop := true }
          exec (.bgatherToken id) s = .next (if trunc then u.setGath id full else u.holdGath id 0x47 0 full)) ∧
        (∀ kb vb u v, t < x.limit → s.tokenRows id x t = .ok (some (kb, vb)) u → e.gath.count ≠ k →
          u.engStore id [{ scr := true, addr := q0 + e.gath.count * x.row, align := 4, data := kb },
            { scr := true, addr := q1 + e.gath.count * x.row, align := 4, data := vb },
            { scr := true, addr := q2 + 16 + 4 * e.gath.count, align := 4, data := bytesOfNat 4 t }] = .ok () v →
          exec (.bgatherToken id) s =
            .next ((v.setGath id { e.gath with ids := ids, count := e.gath.count + 1 }).engCount id))))) ∧
  (∀ (s : State) (id : Nat) (g : Gathering) (e : EngOp), s.engOp? id = some e →
    ((s.setGath id g).engOp? id).map EngOp.gath = some g ∧ ((s.setGath id g).engOp? id).map EngOp.done = some (e.done + 1) ∧
    (∀ code sub, e.cause = none → ((s.holdGath id code sub g).engOp? id).map EngOp.cause =
      some (some { code := code, sub := sub, time := s.clock }))) ∧
  (∀ (sig b dist x : Nat), x ∈ bucketOrder sig b dist ↔ x < 2 ^ b ∧ hamming x sig b ≤ dist) ∧
  (∀ (sig b dist : Nat), (bucketOrder sig b dist).Pairwise (fun x y =>
    hamming x sig b < hamming y sig b ∨ hamming x sig b = hamming y sig b ∧ x < y)) ∧
  (∀ (x : Index) (bs : List Byte), signature x bs < 2 ^ x.bits)

/-! ## Traps -/

/-- R344, R345, R348, R353, R354, R367: a cause that is neither a park nor a watchpoint enters the warp's handler: the record is
written to the frame, MODE keeps only mixed_size_trap, and the path goes on at the handler with its lanes; pc, length, MODE,
path and the lanes to issue again are kept, those of the whole path for a cause of the instruction as a whole (log entry 66). The
record goes to the frame at once, after the path's earlier accesses (log entry 27). A frame write that meets a cause stops the warp with 0x5D. In trap mode the warp stops with 0x5D instead, in save
and restore mode with 0x5C, without a handler with the cause itself. A stop in trap mode whose entry the log does not take enters
the handler with 0x3F where there is one, and the entry is held or dropped as log entry 21 says. TRAP raises 0x57 with a 16-bit subcause. -/
def Obligations.TrapsEnterTheHandler : Prop :=
  ∀ (s : State) (c : Cur) (w : Warp), s.warp? c.w = some w → (w.path c.p).replayOp = none →
    (∀ (code sub : Nat), code ≠ 0x30 → code ≠ 0x31 → code ≠ 0x52 →
      let lanes := (w.path c.p).issueMask
      let f := s.infoOf c { code := code, sub := sub, lanes := lanes, addrs := [], other := false }
      (w.pre = .normal → w.trap = none → s.headerField w Launch.trap ≠ 0 →
        (∀ q x, s.writeRecord c w f = .ok () q → q.warp? c.w = some x →
          ∃ w' : Warp, s.raiseWhole c code sub = q.setWarp c.w w' ∧
            w' = { x with mode := x.mode &&& 0x2000, paths := w'.paths, trap := w'.trap, held := none, handler := 0, lastSafe := none } ∧
            (∀ i, i ≠ c.p → w'.path i = x.path i) ∧
            (c.p < x.paths.length → (w'.path c.p).pc = q.entryPc x (s.headerField w Launch.trap) ∧
              (w'.path c.p).mask = (x.path c.p).issueMask ∧ (w'.path c.p).status = .run) ∧
            w'.trap.map (fun t => (t.path, t.pc, t.len, t.mode, t.old, t.replay, t.code)) =
              some (c.p, c.pc, c.len, x.mode, x.path c.p, if c.len = 0 then Mask.full else lanes, code)) ∧
        (∀ k b q, s.writeRecord c w f = .cause k b q →
          s.raiseWhole c code sub = q.stopWarp c.w c { f with code := 0x5D, sub := code, flags := 4 } lanes) ∧
        (∀ q x, s.writeRecord c w f = .wait q → q.warp? c.w = some x →
          s.raiseWhole c code sub = q.setWarp c.w { x with held := some { why := .entering f, cur := c, i := none } })) ∧
      (w.pre = .normal → w.trap.isSome = true →
        s.raiseWhole c code sub = s.stopOrHandle c { f with code := 0x5D, sub := code, flags := 4 } lanes) ∧
      (w.pre = .normal → w.trap = none → s.headerField w Launch.trap = 0 →
        s.raiseWhole c code sub = s.stopWarp c.w c { f with flags := 1 } lanes) ∧
      (w.pre ≠ .normal → s.raiseWhole c code sub = s.stopWarp c.w c { f with code := 0x5C, sub := code } lanes)) ∧
    (∀ (f : FaultInfo), s.settleFor ((w.path c.p).nextStore c.w w.seq) = some s →
      s.writeRecord c w f = s.storeNow (w.who c.w c.p) (s.frameAddr c.w w).toNat (s.record c.w w f (w.path c.p))) ∧
    (∀ (f : FaultInfo) (m : Mask),
      let t := s.issueTicket (coreOfKey c.w) (slotOfKey c.w) 0 (.warp c.w)
      let g := { f with ticket := t.1 }
      let entry := faultEntry (t.2.recordHeader c.w w g) g.lowestVa
      (s.headerField w Launch.trap = 0 → s.stopOrHandle c f m = s.stopWarp c.w c f m) ∧
      (s.heldLog = [] → ∀ q, t.2.appendFault entry = (.done, q) → s.stopOrHandle c f m = q.stopAs c.w c g m) ∧
      (s.headerField w Launch.trap ≠ 0 → s.heldLog = [] → ∀ q, t.2.appendFault entry = (.full, q) →
        s.stopOrHandle c f m = (q.dropTicket t.1).trapEntry c { f with code := 0x3F, sub := f.code, flags := f.flags &&& 16 }
          (s.headerField w Launch.trap)) ∧
      (s.headerField w Launch.trap ≠ 0 → s.heldLog = [] → ∀ q, t.2.appendFault entry = (.failing, q) →
        s.stopOrHandle c f m = ((q.holdEntry entry true).dropTicket t.1).trapEntry c
          { f with code := 0x3F, sub := f.code, flags := f.flags &&& 16 } (s.headerField w Launch.trap))) ∧
    (∀ (f : FaultInfo) (q : Path), let r := s.record c.w w f q
      r.length = 512 ∧ fieldOf r 0x00 1 = f.code % 256 ∧ fieldOf r 0x04 4 = f.sub % 2 ^ 32 ∧ fieldOf r 0x08 8 = f.pc.toNat ∧
      fieldOf r 0x18 4 = f.lanes.toNat ∧ fieldOf r 0x1C 4 = f.pathMask.toNat ∧ fieldOf r 0x1C0 2 = w.mode.toNat) ∧
    (∀ a : Code, Ready (.trap a) .none s c w →
      exec (.trap a) s = .next (s.raiseWhole c 0x57 ((w.rd a 0).toNat % 65536))) ∧
    (∀ d : Code, Ready (.trapFrame d) .none s c w → Plain s w → exec (.trapFrame d) s =
      .next (s.setWarp c.w ((w.wrPair d 0 (if w.trap.isSome then s.frameAddr c.w w else 0)).afterRetire c false)))

/-- R349, R357, R378: ERET issued by the handler's remaining lanes leaves trap mode: MODE, mask, loop stack and join point come
back, the paths suspended at entry resume. retry goes on at the interrupted instruction for the lanes that faulted, skip after it,
to at its operand; a path that comes to its own join point arrives there. A skipped instruction counts as retired. With other lanes,
or a target at 2^56 or above, the warp stops with 0x5D, with subcause 0 and flag bit 2 (log entry 23). The accesses of every handler
path precede what the trap's path makes next (R241). -/
def Obligations.TrapsReturn : Prop :=
  (∀ (a : Code) (s : State) (c : Cur) (w : Warp) (t : TrapSave), w.trap = some t → Plain s w →
    let stop := s.stopOrHandle c { s.infoOf c { code := 0x5D, sub := 0, lanes := c.lanes, addrs := [], other := false } with
      flags := 4 } c.lanes
    ((w.path c.p).mask = t.begun &&& w.live →
      (Ready .eretRetry .trapMode s c w → exec .eretRetry s = .next (s.setWarp c.w (w.leaveTrap t c.p .retry))) ∧
      (Ready .eretSkip .trapMode s c w →
        let counts := decide (w.pre = .normal) && t.len != 0
        let r := w.leaveTrap t c.p .skip
        let r1 : Warp := { r with retired := if counts then r.retired + 1 else r.retired, watch := if t.sync = 0 then r.watch else 0
                                  lastSafe := none }
        (t.sync ≠ 2 → exec .eretSkip s = .next (s.setWarp c.w r1)) ∧
        (t.sync = 2 → s.unrecorded w → exec .eretSkip s = .next (s.setWarp c.w
          { r1 with syncs := if w.pre = .normal then r1.syncs + 1 else r1.syncs }))) ∧
      (Ready (.eretTo a) .trapMode s c w → (pairTarget (w.rdPair a 0)).toNat < 2 ^ 56 →
        exec (.eretTo a) s = .next (s.setWarp c.w (w.leaveTrap t c.p (.to (pairTarget (w.rdPair a 0)))))) ∧
      (Ready (.eretTo a) .trapMode s c w → 2 ^ 56 ≤ (pairTarget (w.rdPair a 0)).toNat → exec (.eretTo a) s = .next stop)) ∧
    ((w.path c.p).mask ≠ t.begun &&& w.live → ∀ i ∈ [Instr.eretRetry, .eretSkip, .eretTo a],
      Ready i .trapMode s c w → exec i s = .next stop)) ∧
  (∀ (w : Warp) (t : TrapSave) (p : Nat) (x : DWord), w.paths.length = 8 → t.path < 8 →
    let r := w.dropHandler t p
    r = { w with mode := t.mode, trap := none, paths := r.paths } ∧
    r.path t.path = { t.old with
      mask := t.old.mask &&& w.live, held := t.old.held &&& w.live, arrived := t.old.arrived &&& w.live, hold := .none
      segs := (w.handlerOrder t p).segs, after := (w.handlerOrder t p).after, replay := none, replayOp := none, passBreak := false, passWatch := false } ∧
    (∀ i, i < 8 → i ≠ t.path → r.path i = if i ∈ t.suspended then w.path i else Path.empty) ∧
    (t.old.status = .run →
      w.leaveTrap t p .retry = r.updPath t.path (fun q => { q with pc := t.pc, replay := some (t.replay &&& w.live) }) ∧
      w.leaveTrap t p .skip = r.advance t.path t.pc (t.pc + BitVec.ofNat 64 (4 * t.len)) ∧
      (t.old.arr ≠ some x → w.leaveTrap t p (.to x) = r.updPath t.path (fun q => { q with pc := x })) ∧
      (t.old.arr = some x → x.toNat < 2 ^ 56 → t.old.mask &&& w.live ≠ 0 →
        w.leaveTrap t p (.to x) = (r.updPath t.path (fun q => { q with pc := x })).arrive t.path)) ∧
    (t.old.status = .wait → w.leaveTrap t p .retry = r) ∧
    (w.handlerOrder t p).segs = (w.path p).segs ∧
    ∀ i k, i < 8 → i = p ∨ i ∉ t.suspended → k ∈ (w.path i).segs ++ (w.path i).after →
      k ∈ (w.handlerOrder t p).segs ++ (w.handlerOrder t p).after)

/-- R68, R70: a supervisor instruction outside the supervisor context, LAUNCH without launch privilege and ERET outside trap
mode raise 0x08 at the opcode field, whatever their operands, and do nothing else. -/
def Obligations.PrivilegeIsChecked : Prop :=
  ∀ (d a b : Code) (s : State) (c : Cur) (w : Warp), s.cur = some c → s.warp? c.w = some w →
    (w.asid ≠ 0 → ∀ i ∈ [Instr.tlbinvPage a b, .tlbinvAsid b, .tlbinvAll, .asinv b, .clrset a, .mtsr d a b, .mtsrCtxPreempt a b,
        .mtsrCtxHalt a b, .mtsrCtxLcbins a b, .mtsrFaultlog a b, .resumeReplay d a, .resumeDeliver d a, .resumeTerm d a],
      exec i s = .next (s.raiseWhole c 0x08 24)) ∧
    (w.launchPriv = false → exec (.launch d a) s = .next (s.raiseWhole c 0x08 24)) ∧
    (w.trap = none → ∀ i ∈ [Instr.eretRetry, .eretSkip, .eretTo a], exec i s = .next (s.raiseWhole c 0x08 24))

/-! ## Special registers -/

/-- R350, R351, R364, R365, R374, R379, R380: MTSR of fpflags sets the flags of the path's lanes; of a context selector it
writes the register of the named ASID after its checks, and raises the cause of the first that fails, in the order of log entry 30; ctx_preempt makes pre-
emption pending for the ASID's warps; ctx_lcbins 0 unbinds the counters, another
address binds the table that is read there (log entry 43); faultlog sets the log and tries held entries again.
BKPT without debug and PERFRD complete. -/
def Obligations.SpecialRegisterWrites : Prop :=
  ∀ (sel d a b : Code) (k : BitVec 3) (n : BitVec 4) (code : BitVec 16) (s : State) (c : Cur) (w : Warp), Plain s w →
    let asid := (w.rd b 0).toNat
    let word := (w.rd a 0).setWidth 64
    (Ready (.mtsrFpflags a) .none s c w → ∃ w' : Warp, exec (.mtsrFpflags a) s = .next (s.setWarp c.w w') ∧
      w' = { w.afterRetire c false with fpflags := w'.fpflags } ∧
      ∀ l, l < 32 → Assoc.get w'.fpflags 0 l = if c.lanes.getLsbD l then (w.rd a l).setWidth 5 else Assoc.get w.fpflags 0 l) ∧
    (Ready (.mtsr sel a b) .supervisor s c w →
      let x := if mtsrWide sel then w.rdPair a 0 else word
      (∀ q, q = s.updCtx asid (fun k => k.write sel.toNat x) → s.mtsrCause sel.toNat (w.rd b 0) x = none → q.debugOn w = false →
        exec (.mtsr sel a b) s = .next (q.setWarp c.w (w.afterRetire c false))) ∧
      (∀ y z, s.mtsrCause sel.toNat (w.rd b 0) x = some (y, z) → exec (.mtsr sel a b) s = .next (s.raiseWhole c y z))) ∧
    (Ready (.mtsrCtxPreempt a b) .supervisor s c w →
      (∀ q, q = (s.updCtx asid (fun k => k.write 0x26 word)).setHold asid (word.getLsbD 0) →
        s.mtsrCause 0x26 (w.rd b 0) word = none → (Assoc.keys s.warps).Nodup →
        exec (.mtsrCtxPreempt a b) s = .next (q.setWarp c.w (w.afterRetire c false)) ∧
        ∀ key x, s.warp? key = some x → x.asid = asid → word.getLsbD 0 = true → (q.warp? key).map Warp.pending = some true) ∧
      (∀ y z, s.mtsrCause 0x26 (w.rd b 0) word = some (y, z) → exec (.mtsrCtxPreempt a b) s = .next (s.raiseWhole c y z))) ∧
    (Ready (.mtsrCtxHalt a b) .supervisor s c w →
      (s.mtsrCause 0x2F (w.rd b 0) word = none → s.warpsOf asid = [] → exec (.mtsrCtxHalt a b) s =
        .next ((s.updCtx asid (fun k => k.write 0x2F word)).setWarp c.w (w.afterRetire c false))) ∧
      (∀ key x, s.mtsrCause 0x2F (w.rd b 0) word = none → s.warpsOf asid = [(key, x)] → s.warp? key = some x → key ≠ c.w →
        (word.getLsbD 0 = true → x.live ≠ 0 → x.halt = none → x.atBoundary = true → ∃ t, exec (.mtsrCtxHalt a b) s = .next t ∧
          ((t.warp? key).bind Warp.halt).isSome = true ∧ (t.warp? c.w).map Warp.deaf = some (w.afterRetire c false).deaf ∧
          t.powerOf (.core (coreOfKey key)) = PowerState.run) ∧
        (word.getLsbD 0 = true → x.live ≠ 0 → x.halt = none → x.atBoundary = false → ∃ t, exec (.mtsrCtxHalt a b) s = .next t ∧
          t.warp? key = some { x with halting := true } ∧ t.warp? c.w = some (w.afterRetire c false)) ∧
        (word.getLsbD 0 = false → ∃ t, exec (.mtsrCtxHalt a b) s = .next t ∧
          t.warp? key = some { x with halting := false, halt := none } ∧ t.warp? c.w = some (w.afterRetire c false)))) ∧
    (Ready (.mtsrCtxLcbins a b) .supervisor s c w → s.mtsrCause 0x2E (w.rd b 0) (w.rdPair a 0) = none →
      (w.rdPair a 0 = 0 → exec (.mtsrCtxLcbins a b) s = .next ((s.bindBins none).setWarp c.w (w.afterRetire c false))) ∧
      (∀ vals q x, w.rdPair a 0 ≠ 0 →
        s.readLanes c w true 16 (unitAddrs ((w.rdPair a 0).toNat % 2 ^ 56) 16 16) = .done vals [] q → q.warp? c.w = some x → q.debugOn x = false →
        exec (.mtsrCtxLcbins a b) s = .next ((q.bindBins (some { asid := asid, ranges := binRanges (blockBytes vals 16) })).setWarp c.w
          (x.afterRetire c false)))) ∧
    (Ready (.mtsrFaultlog a b) .supervisor s c w → s.mtsrCause 0x30 (w.rd b 0) (w.rdPair a 0) = none →
      (w.rdPair a 0 = 0 → 1 < s.live.toNat → exec (.mtsrFaultlog a b) s = .next (s.raiseWhole c 0x01 0)) ∧
      (w.rdPair a 0 ≠ 0 ∨ s.live.toNat ≤ 1 →
        let q := ({ s with faultlog := w.rdPair a 0 } : State).retryLog
        exec (.mtsrFaultlog a b) s = .next ((if s.boot = .stage2 ∧ w.rdPair a 0 ≠ 0 then q.beginStage3 else q).setWarp c.w
          (w.afterRetire c false)))) ∧
    (Ready (.bkpt code) .none s c w → exec (.bkpt code) s = .next (s.setWarp c.w (w.afterRetire c false))) ∧
    (Ready (.perfrd d k n) .none s c w →
      let core := s.core (coreOfKey c.w)
      let v := if k = 5 then core.soft
        else if s.bins.any (fun b => b.asid == w.asid) then Assoc.get core.bins 0 (n.toNat * 8 + k.toNat) else 0
      exec (.perfrd d k n) s = .next (s.setWarp c.w ((w.wrPair d 0 (BitVec.ofNat 64 v)).afterRetire c false)))

/-! ## Address spaces and clearances -/

/-- R230 to R232: TLBINV and ASINV recall engines' ownership of what they select and wait while a pending access to it cannot be
performed, but not for one that stands only after a paused operation's writes (log entry 84); then they invalidate it: afterwards no translation of the selection is cached, no line of it is in L2, and no present
page that it found. TLBINV of an ASID loads its live bit from its table entry, ASINV clears the entry's valid bit and the live
bit. CLRSET installs the clearance of tag 0 alone for z, else the bitmap, once it is read; on a cause the old clearance stays. -/
def Obligations.TranslationInstructions : Prop :=
  (∀ (a b : Code) (s : State) (c : Cur) (w : Warp), Plain s w →
    let asid := (w.rd b 0).toNat
    let va := (w.rdPair a 0).toNat
    let done := fun (q : State) => (q.afterInvalidate c).retire c
    let recalled := fun (x y : Nat → Bool) => s.recallOwners (fun o => s.selectedPlace x y o.1)
    let settled := fun (x y : Nat → Bool) => (recalled x y).settlePast (fun _ a => (recalled x y).selectedAccess x y a)
    let invalidates := fun (i : Instr) (x y : Nat → Bool) =>
      (settled x y = none → exec i s = .next (recalled x y)) ∧
      (∀ q, settled x y = some q → exec i s = .next (done (q.dropSelected x y)))
    (Ready (.tlbinvPage a b) .supervisor s c w →
      (asid < 512 → va < 2 ^ 56 →
        invalidates (.tlbinvPage a b) (fun x => x == tagAsid asid va) (samePage s (tagAsid asid va) va)) ∧
      (512 ≤ asid → exec (.tlbinvPage a b) s = .next (s.raiseWhole c 0x33 2)) ∧
      (asid < 512 → 2 ^ 56 ≤ va → exec (.tlbinvPage a b) s = .next (s.raiseAt c 0x24 0 va))) ∧
    (Ready (.tlbinvAsid b) .supervisor s c w →
      (asid < 512 → settled (fun x => x == asid) (fun _ => true) = none →
        exec (.tlbinvAsid b) s = .next (recalled (fun x => x == asid) (fun _ => true))) ∧
      (∀ s2, asid < 512 → settled (fun x => x == asid) (fun _ => true) = some s2 → ∃ q, exec (.tlbinvAsid b) s = .next (done q) ∧
        let s1 := s2.dropSelected (fun x => x == asid) (fun _ => true)
        q = { s1 with live := q.live } ∧ q.live.getLsbD asid = (asid == 0 || s1.asidValid asid) ∧
        ∀ j, j ≠ asid → q.live.getLsbD j = s1.live.getLsbD j) ∧
      (512 ≤ asid → exec (.tlbinvAsid b) s = .next (s.raiseWhole c 0x33 2))) ∧
    (Ready .tlbinvAll .supervisor s c w → invalidates .tlbinvAll (fun _ => true) (fun _ => true)) ∧
    (Ready (.asinv b) .supervisor s c w →
      (asid = 0 → exec (.asinv b) s = .next (s.raiseWhole c 0x33 1)) ∧
      (512 ≤ asid → exec (.asinv b) s = .next (s.raiseWhole c 0x33 2)) ∧
      (0 < asid → asid < 512 → settled (fun x => x == asid) (fun _ => true) = none →
        exec (.asinv b) s = .next (recalled (fun x => x == asid) (fun _ => true))) ∧
      (∀ s2, 0 < asid → asid < 512 → settled (fun x => x == asid) (fun _ => true) = some s2 →
        ∃ q, exec (.asinv b) s = .next (done q) ∧ q.live.getLsbD asid = false ∧ q.asidValid asid = false ∧
        (∀ e ∈ q.tlb, e.asid ≠ asid) ∧ (∀ l ∈ q.l2, l.asid ≠ asid) ∧ (∀ j, j ≠ asid → q.live.getLsbD j = s2.live.getLsbD j))) ∧
    (Ready (.clrset 0xFF) .supervisor s c w →
      exec (.clrset 0xFF) s = .next (s.setWarp c.w ({ w with clearance := none }.afterRetire c false))) ∧
    (Ready (.clrset a) .supervisor s c w → a ≠ 0xFF →
      (2 ^ 56 ≤ va → exec (.clrset a) s = .next (s.raiseAt c 0x24 0 va)) ∧
      (va < 2 ^ 56 → va % 256 ≠ 0 → exec (.clrset a) s = .next (s.raiseAt c 0x20 0 va)) ∧
      (va < 2 ^ 56 → va % 256 = 0 → s.formBlock c w (w.rdPair a 0) 256 128 64 true false = [] →
        (∀ bits q x, s.bitmapLoads c w va 64 = .ok bits q → q.warp? c.w = some x → q.debugOn x = false → exec (.clrset a) s =
          .next ((q.enterClearance (coreOfKey c.w) (tagAsid w.asid va) (w.rdPair a 0) bits).setWarp c.w
            ({ x with clearance := if s.lock = Lock.nonSecure then none else some (w.rdPair a 0) }.afterRetire c false))) ∧
        (∀ k n q, s.bitmapLoads c w va 64 = .cause k n q →
          exec (.clrset a) s = .next (q.raiseAt c k n (q.firstBadLine w.asid (some w.team) va 64)))))) ∧
  (∀ (s : State) (asid page : Nat → Bool),
    (∀ e ∈ (s.dropSelected asid page).tlb, ¬(asid e.asid = true ∧ page e.base = true)) ∧
    (∀ l ∈ (s.dropSelected asid page).l2, ¬(asid l.asid = true ∧ page (l.line * 128) = true)) ∧
    (∀ p ∈ (s.dropSelected asid page).pinned, p.selected asid page = false)) ∧
  (∀ (s : State) (sel : Place × Nat → Bool) (e : Nat × EngOp), e ∈ (s.recallOwners sel).engines → ∀ o ∈ e.2.owned, sel o = false)

/-! ## RESUME, limits and held entries -/

/-- R355: RESUME of a ticket that names a paused piece of work drops the ticket, acts and gives 0, else 1. replay lets a
parked path issue its instruction again for the unfinished lanes, a stopped or halted warp and a paused engine operation go on; deliver
sends the cause down route H, of an engine operation it is held, as 0x30 where no earlier one is (log entry 18). RESUME of an ASID
ends all its warps; ASID 0 raises 0x33. R353, R357, R358, R367, R372: the watchdog ends what its warp is parked at, which eret.skip
then passes, and delivers 0x55; the handler limit, whose count begins again with the stop (log entry 33), stops its warp with 0x55 in trap mode and with 0x5C in save and restore mode, an overdue
pre-emption with 0x56. A held log entry that the log takes leaves the queue. -/
def Obligations.ResumeAndLimits : Prop :=
  ((∀ (d a : Code) (s : State) (c : Cur) (w : Warp),
    (∀ e ∈ [(Instr.resumeReplay d a, false), (Instr.resumeDeliver d a, true)], Ready e.1 .supervisor s c w → Plain s w →
      (s.resumeTicket (w.rd a 0).toNat e.2 = none → exec e.1 s = .next (s.setWarp c.w ((w.wr d 0 1).afterRetire c false))) ∧
      (∀ q w', s.resumeTicket (w.rd a 0).toNat e.2 = some q → q.warp? c.w = some w' → q.debugOn w' = false →
        exec e.1 s = .next (q.setWarp c.w ((w'.wr d 0 0).afterRetire c false)))) ∧
    (Ready (.resumeTerm d a) .supervisor s c w → Plain s w →
      let asid := (w.rd a 0).toNat
      (asid = 0 → exec (.resumeTerm d a) s = .next (s.raiseWhole c 0x33 1)) ∧
      (asid ≠ 0 → s.warpsOf asid = [] → (∀ l ∈ s.launches, l.2.asid ≠ asid) →
        exec (.resumeTerm d a) s = .next (s.setWarp c.w ((w.wr d 0 1).afterRetire c false))) ∧
      (∀ x, asid ≠ 0 → s.warpsOf asid ≠ [] ∨ (∃ l ∈ s.launches, l.2.asid = asid) → (s.terminate asid).warp? c.w = some x →
        (s.terminate asid).debugOn x = false →
        exec (.resumeTerm d a) s = .next ((s.terminate asid).setWarp c.w ((x.wr d 0 0).afterRetire c false))))) ∧
  (∀ (s : State) (t key p len : Nat) (w : Warp) (x : Cause) (pc : DWord), Assoc.at? s.tickets t = some (.path key p) →
    s.warp? key = some w →
    let s1 := (s.dropTicket t).updPath key p (fun q => { q with hold := .none })
    let c : Cur := { w := key, p := p, lanes := x.lanes, pc := pc, len := len, held := (w.path p).status == .wait }
    ((w.path p).hold = .parked t x pc len →
      s.resumeTicket t false = some (s1.updPath key p (fun q =>
        { q with replay := if q.status = .wait then none else some (x.lanes &&& w.live) })) ∧
      s.resumeTicket t true = some (s1.routeH c (s1.infoAt c x))) ∧
    ((w.path p).hold = .debug t x pc len →
      s.resumeTicket t true = some (s1.routeH c (s1.infoAt c x)) ∧
      (x.code = 0x51 → s.resumeTicket t false = some (s1.updPath key p (fun q => { q with passBreak := true }))) ∧
      (x.code = 0x52 → s.resumeTicket t false =
        some (s1.updPath key p (fun q => { q with passWatch := true, replay := some x.lanes }))) ∧
      (x.code = 0x53 → s.resumeTicket t false = some s1))) ∧
  (∀ (s : State) (t key : Nat) (w : Warp), Assoc.at? s.tickets t = some (.warp key) → s.warp? key = some w →
    let s0 := s.dropTicket t
    (∀ h x m, w.halt ≠ some t → w.held = some h → h.why = .stopped t x m →
      s.resumeTicket t false = some ((s0.replayWarp key h.cur x m).wake (.core (coreOfKey key))) ∧
      s.resumeTicket t true = some ((s0.setWarp key { w with held := none }).routeH h.cur
        ((s0.setWarp key { w with held := none }).infoAt h.cur x))) ∧
    (w.halt = some t → s.resumeTicket t false = some ((s0.setWarp key { w with halt := none }).wake (.core (coreOfKey key))))) ∧
  (∀ (s : State) (t id va : Nat) (e : EngOp), Assoc.at? s.tickets t = some (.engine id) → s.engOp? id = some e → e.paused = some (va, t) →
    s.resumeTicket t false = some { s.dropTicket t with engines := Assoc.put s.engines id { e with paused := none } } ∧
    ∃ e' : EngOp, s.resumeTicket t true = some { s.dropTicket t with engines := Assoc.put s.engines id e' } ∧
      e'.paused = none ∧ e'.done = e.total ∧ e'.owned = [] ∧ e'.cause.isSome = true ∧ (∀ x, e.cause = some x → e'.cause = some x) ∧
      (e.cause = none → e'.cause.map HeldCause.code = some 0x30)) ∧
  (∀ (s : State) (t : Nat) (deliver : Bool), Assoc.at? s.tickets t = none → s.resumeTicket t deliver = none) ∧
  (∀ (s : State) (asid key : Nat) (w : Warp), (s.terminate asid).warp? key = some w → w.asid = asid → w.live = 0)) ∧
  (∀ (s : State) (key : Nat) (w : Warp), s.warp? key = some w →
    (s.watchDue w = true → w.atBoundary = true →
      let c := w.abandoned key
      let s1 := s.setWarp key { w with held := none, watch := 0 }
      exec (.watchdogExpiry key) s = .next (s1.routeH c (s1.boundaryInfo c 0x55 0))) ∧
    (∀ h, w.held = some h → h.cur.p = w.nextPath → (h.why = .wait ∨ (∃ t, h.why = .waitb t) ∨ h.why = .mwait ∨ h.why = .waitt ∨
        (∃ t n, h.why = .bar t n) ∨ ∃ n, h.why = .xchgp n) →
      w.abandoned key = { w.boundary key with len := h.cur.len, sync := h.cur.sync }) ∧
    let c := w.boundary key
    (s.handlerDue w = true → w.atBoundary = true →
      let s1 := s.setWarp key { w with handler := 0 }
      (w.trap.isSome = true → exec (.handlerLimitExpiry key) s = .next (s1.stopOrHandle c (s.boundaryInfo c 0x55 1) c.lanes)) ∧
      (w.trap = none → exec (.handlerLimitExpiry key) s = .next (s1.stopWarp key c (s.boundaryInfo c 0x5C 0x55) c.lanes))) ∧
    (s.overdueDue w = true → w.atBoundary = true → exec (.preemptionOverdue key) s =
      .next (s.stopWarp key c (s.boundaryInfo c 0x56 0) c.lanes)) ∧
    (∀ e r q, s.heldLog = e :: r → e.failing = false → s.appendFault e.bytes = (.done, q) →
      exec (.faultLogHeldAppend 0) s = .next { q with heldLog := r }))

/-! ## Safe points -/

/-- R363, R366, R367, R371: SAFE with a good table entry retires as a NOP that returns the watchdog count to 0 and is the
last safe point, or, with pre-emption pending, enters save mode at the save routine once its record part is written. The SAFE
of its entry ends the save routine, and with that of the team's last warp the team is saved; the SAFE of its entry ends the restore
routine, which reinstates MODE, loop stack and pc; another stops the warp with 0x5C. A point beyond the table raises 0x5B, as does one whose save offset reads 0. The entry is read as
an access of the issuing warp, so that one its clearance denies reads zero (log entry 75). -/
def Obligations.SafePoints : Prop :=
  (∀ (k : BitVec 16) (s q : State) (c : Cur) (w : Warp) (l : Launch) (save restore : Nat), Ready (.safe k) .none s c w → Plain s w →
    s.launchOf w = some l →
    (l.safeCount ≤ k.toNat → exec (.safe k) s = .next (s.raiseWhole c 0x5B 0)) ∧
    (k.toNat < l.safeCount → s.safeEntry (w.who c.w c.p) l k.toNat c.lanes = .entry save restore q → q.warp? c.w = some w →
      q.debugOn w = false →
      (save = 0 → exec (.safe k) s = .next (q.raiseWhole c 0x5B 0)) ∧
      (save ≠ 0 → w.trap = none → w.pre = .normal → w.pending = false → exec (.safe k) s = .next (q.setWarp c.w
        { w.afterRetire c true with lastSafe := some (k.toNat, (endCheck c.pc c.next (w.path c.p).stack).2) })) ∧
      (save ≠ 0 → w.trap.isSome = true → exec (.safe k) s = .next (q.setWarp c.w (w.afterRetire c true))) ∧
      (∀ r, save ≠ 0 → w.trap = none → w.pre = .normal → w.pending = true → w.sole c.p = true → w.debugHeld = false →
        q.enterSave c.w w c.p k.toNat save (endCheck c.pc c.next (w.path c.p).stack).2 (endCheck c.pc c.next (w.path c.p).stack).1
          (w.retired + 1) = .done r → (∀ y, r.warp? c.w = some y → r.debugOn y = false) →
        exec (.safe k) s = .next (r.updWarp c.w (fun w => { w with watch := 0 }))) ∧
      ((∀ e ∈ q.opsOf c.w, e.2.cause = none) → (∀ b ∈ w.batches, b.cause = none) → save ≠ 0 → w.trap = none →
        (w.pre = .saving k.toNat → q.lastSaved c.w w = false →
          exec (.safe k) s = .next (q.setWarp c.w { w.advance c.p c.pc c.next with pre := .saved, age := 0 })) ∧
        (w.pre = .saving k.toNat → q.lastSaved c.w w = true →
          (∀ e ∈ q.warps, e.2.team = w.team → e.2.live = 0 → q.warpDone e.1 = true) →
          (∀ x, q.saveObstacle w = some x → exec (.safe k) s = .next (q.saveStop c x)) ∧
          (∀ t, q.saveObstacle w = none → q.saveTeam c.w c.p w = .done t → exec (.safe k) s = .next t)) ∧
        (∀ pc mode stack jp, w.pre = .restoring k.toNat pc mode stack jp → exec (.safe k) s = .next (q.setWarp c.w
          { (w.updPath c.p (fun q => { q with pc := pc, stack := stack, jp := jp, replay := none, replayOp := none
                                              passBreak := false, passWatch := false })) with
            pre := .normal, mode := mode, watch := 0, lastSafe := some (k.toNat, pc), age := 0 }))) ∧
      (∀ e, save ≠ 0 → w.trap = none → w.pre = .saving e ∨ (∃ pc mode stack jp, w.pre = .restoring e pc mode stack jp) → e ≠ k.toNat →
        exec (.safe k) s = .next (q.saveStop c 0x5B)))) ∧
  (∀ (s q : State) (key p k save : Nat) (w : Warp) (pc retired : DWord) (stack : List LoopEntry), s.warp? key = some w →
    s.enterSave key w p k save pc stack retired = .done q →
    (q.warp? key).map (fun x => (x.pre, x.mode, x.retired, x.held)) = some (.saving k, w.mode &&& 0x2000, retired, none))

/-! ## Launches -/

/-- R153 to R156, R158: LAUNCH reads and checks its record; the first field that breaks its limit raises 0x59 with its
offset. A launch that passes joins the tail of its queue under the next number of its die, which d receives; before a full
queue the warp waits with all its paths, and goes on once there is room (log entry 29). The header is read as the launched context
(log entry 58), and a granted launch privilege becomes that context's (log entry 72). A condition whose word has reached its value holds. -/
def Obligations.LaunchesQueue : Prop :=
  (∀ (d a : Code) (s q : State) (c : Cur) (w : Warp) (vals : List (Nat × List Byte)), Ready (.launch d a) .launch s c w → Plain s w →
    let x := (w.rdPair a 0).toNat
    (2 ^ 56 ≤ x → exec (.launch d a) s = .next (s.raiseAt c 0x24 0 x)) ∧
    (x < 2 ^ 56 → x % 128 ≠ 0 → exec (.launch d a) s = .next (s.raiseWhole c 0x59 0)) ∧
    (x < 2 ^ 56 → x % 128 = 0 → s.formBlock c w (w.rdPair a 0) 128 16 8 true false = [] →
      s.readLanes c w true 16 (unitAddrs x 16 8) = .done vals [] q →
      let r := blockBytes vals 8
      (∀ off, firstBroken (recordChecks r w.supervisor) = some off → exec (.launch d a) s = .next (q.raiseWhole c 0x59 off)) ∧
      (firstBroken (recordChecks r w.supervisor) = none → q.launchRecord c w d r = .full →
        exec (.launch d a) s = .next (s.setWarp c.w
          { w with held := some { why := .launch, cur := c, i := some (.launch d a) } })) ∧
      (∀ t, firstBroken (recordChecks r w.supervisor) = none → q.launchRecord c w d r = .done t →
        exec (.launch d a) s = .next t) ∧
      (∀ t, firstBroken (recordChecks r w.supervisor) = none → q.launchRecord c w d r = .wait t →
        exec (.launch d a) s = .next t))) ∧
  (∀ (s u : State) (c : Cur) (w : Warp) (d : Code) (r h : List Byte), 2 ^ 15 ≤ fieldOf r 0x20 2 → fieldOf r 0x18 8 = 0 →
    w.clearance = none → s.isLive w.asid = true →
    s.loadNow { w.who c.w c.p with asid := w.asid, principal := w.principal, clr := none } (fieldOf r 0x00 8) 256 = .ok (h, []) u →
    firstBroken (headerChecks h) = none →
    let die := dieOfCore (coreOfKey c.w)
    let mask := (if BitVec.ofNat 4 (fieldOf r 0x24 1) = 0 then 1#4 <<< die else BitVec.ofNat 4 (fieldOf r 0x24 1)) &&& ~~~u.failed
    let l := Launch.ofRecord r h die w.asid w.principal none mask
    mask ≠ 0 → u.teamCapacity l ≠ 0 → (l.cls = 0 → l.total ≤ u.teamCapacity l) →
    (u.launches.filter (fun x => x.2.die == die && x.2.prio == l.prio && x.2.queued)).length < Config.queueDepth →
    s.launchRecord c w d r = .done (u.enqueue c w d l false)) ∧
  (∀ (s : State) (c : Cur) (w : Warp) (d : Code) (l : Launch) (tagged : Bool), s.warp? c.w = some w → Plain s w → l.asid ≠ 0 ∨ s.lock ≠ Lock.nonSecure →
    ∃ q : State, s.enqueue c w d l tagged = q.setWarp c.w ((w.wr d 0 ((s.launchNo[l.die]?).getD 0)).afterRetire c false) ∧
      q = { s with launches := q.launches, fresh := s.fresh + 1, launchNo := q.launchNo, ctx := q.ctx } ∧
      q.launches = Assoc.put s.launches s.fresh { l with
        number := (s.launchNo[l.die]?).getD 0, order := s.fresh, known := w.launchKnown c.w c.p } ∧
      (q.ctxOf l.asid).launchPriv = ((s.ctxOf l.asid).launchPriv || l.grant) ∧
      (l.die < s.launchNo.length → q.launchNo[l.die]? = some ((s.launchNo[l.die]?).getD 0 + 1))) ∧
  (∀ (s t : State) (key : Nat) (w : Warp) (h : Held) (d a : Code), s.warp? key = some w → w.halt = none → w.held = some h →
    h.why = .launch → h.i = some (.launch d a) →
    (s.setWarp key { w with held := none }).launchTry h.cur { w with held := none } d a = .done t →
    exec (.launchEnqueue key) s = .next t) ∧
  (∀ (s q : State) (id k tag : Nat) (l : Launch) (d : Dep) (h : Hit), s.launch? id = some l → l.deps[k]? = some d → d.holds = false →
    d.failed = false → l.queued = true → s.resolveRead l.who d.addr.toNat 4 = .ok (some h, tag) q →
    d.value.toNat ≤ natOfBytes (q.peekBytes h.place h.off 4) →
    exec (.dependenceConditionRead id k) s = .next ((q.updDep id k (fun d => { d with holds := true })).updLaunch id (fun l =>
      { l with known := l.known ++ q.toldAt h.place h.off 4 })))

/-- R150, R160 to R163, R371: the next team of the current launch that has room is admitted and its warps start with all
lanes live at the kernel's entry; a saved team is readmitted first. An exited warp with nothing outstanding completes, and a
team without warps: its reservations go, and its launch completes with its last one once the completion action is made. All the
teams of a concurrent launch are admitted together or none (R161). A launch leaves its queue with the admission of its last team (log
entry 74), and a saved team's synchronising operations count on (log entry 37). -/
def Obligations.TeamsComeAndGo : Prop :=
  (∀ (s q : State) (die id : Nat) (l : Launch), s.current die = some (id, l) → s.reclaiming l = false → l.cls ≠ 0 →
    (l.saved = [] → s.placeTeam id l l.next = some q →
      (q.updLaunch id (fun l => { l with next := l.next + 1, queued := decide (l.next + 1 < l.total) })).lentOver l = [] →
      exec (.teamAdmission die) s =
        .next (q.updLaunch id (fun l => { l with next := l.next + 1, queued := decide (l.next + 1 < l.total) }))) ∧
    (l.saved = [] → s.placeTeam id l l.next = none → exec (.teamAdmission die) s = .refused .notEnabled) ∧
    (∀ index r rest u, l.saved = (index, r) :: rest → l.doneFailed = false → s.placeTeam id l index = some q → q.lentOver l = [] →
      q.restoreTeams id l [(index, r)] = .done u → exec (.teamReadmission die) s = .next (u.updLaunch id (fun x =>
        { x with saved := x.saved.drop 1, savedSyncs := x.savedSyncs.drop 1 })))) ∧
  (∀ (s q : State) (die id : Nat) (l : Launch), s.current die = some (id, l) → s.reclaiming l = false → l.cls = 0 → l.saved = [] →
    let all := numsFrom l.next (l.total - l.next)
    let placed := q.updLaunch id (fun l => { l with next := l.total, queued := false })
    (s.placeTeams id l all = none → exec (.teamAdmission die) s = .refused .notEnabled) ∧
    (s.placeTeams id l all = some q → placed.lentOver l = [] → s.launch? id = some l →
      exec (.teamAdmission die) s = .next placed)) ∧
  (∀ (s q : State) (id : Nat) (l : Launch) (is : List Nat), s.placeTeams id l is = some q → ∀ i ∈ is,
    ∃ k t, q.team? k = some t ∧ t.launch = id ∧ t.index = i) ∧
  (∀ (s q : State) (id index : Nat) (l : Launch), s.placeTeam id l index = some q →
    ∃ t : Team, q.team? s.fresh = some t ∧ t.launch = id ∧ t.index = index ∧ t.x = index % l.gridX ∧
      t.y = index / l.gridX % l.gridY ∧ t.z = index / (l.gridX * l.gridY) ∧
      ∀ g x k key, t.groups[g]? = some x → k < l.wgWarps → x.keyAt k = some key → q.warp? key = some
        (Warp.start id s.fresh g k l.asid l.principal l.privileged l.clearance (pairTarget (l.header + BitVec.ofNat 64 l.entry)) l.known)) ∧
  (∀ (s : State) (key : Nat), s.warpDone key = true → ∃ t, exec (.warpCompletion key) s = .next t ∧ t.warp? key = none ∧
    (∀ j, j ≠ key → t.warp? j = s.warp? j) ∧ t.mem = s.mem ∧ (∀ e ∈ t.engines, e.2.w ≠ key) ∧
    ∀ w g, s.warp? key = some w → t.group? w.team w.wg = some g → ∀ x ∈ g.tiles, x.2.owner ≠ some w.warpId) ∧
  (∀ (s : State) (team : Nat) (t : Team) (l : Launch), s.team? team = some t → (∀ e ∈ s.warps, e.2.team ≠ team) →
    s.launch? t.launch = some l →
    let q := (s.releaseTeam team t).updLaunch t.launch (fun l => { l with completed := l.completed + 1 })
    (l.next < l.total → exec (.teamCompletion team) s = .next q) ∧
    (l.total ≤ l.next → l.saved = [] → l.doneFailed = false → (∀ e ∈ q.teams, e.2.launch ≠ t.launch) →
      let ended := fun (u : State) => ({ u with
        launches := Assoc.erase u.launches t.launch
        tickets := u.tickets.filter (fun x => x.2 != .distributor t.launch) } : State)
      (l.doneKind = 0 → exec (.teamCompletion team) s = .next (ended q)) ∧
      (∀ h u, l.doneKind = 1 → q.resolveWrite l.who l.doneAddr.toNat 4 = .ok (h, none) u → u.badAt h.place h.off 4 = false →
        let old := BitVec.ofNat 32 (natOfBytes (u.peekBytes h.place h.off 4))
        ∃ v : State, exec (.teamCompletion team) s = .next (ended v) ∧
          v = { u.poke h.place h.off (bytesOfNat 4 (old + l.doneValue).toNat) with told := v.told }) ∧
      (∀ h u x, l.doneKind = 2 → q.resolveWrite l.who l.doneAddr.toNat 4 = .ok (h, none) u → u.badAt h.place h.off 4 = false →
        arriveWord (BitVec.ofNat 32 (natOfBytes (u.peekBytes h.place h.off 4))) l.doneValue.toNat = some x →
        ∃ v : State, exec (.teamCompletion team) s = .next (ended v) ∧
          v = { u.poke h.place h.off (bytesOfNat 4 x.toNat) with told := v.told }) ∧
      (∀ u, l.doneKind = 1 ∨ l.doneKind = 2 → q.resolveWrite l.who l.doneAddr.toNat 4 = .wait u →
        exec (.teamCompletion team) s = .next u) ∧
      (∀ k b u, l.doneKind = 1 ∨ l.doneKind = 2 → q.resolveWrite l.who l.doneAddr.toNat 4 = .cause k b u →
        exec (.teamCompletion team) s = .next ((u.distLog { l with completed := l.completed + 1 } k l.doneAddr.toNat).updLaunch t.launch
          (fun l => { l with doneFailed := true })))))

/-! ## Other devices and errors -/

/-- R390 to R392: a remote access whose route answers is performed, and with the last of its instruction's accesses the path
retires, a synchronising instruction as one (R357, R378); without a response within the limit, its instruction raises 0x2B, and a
store may have been performed or not. Where one unit of a lane meets a cause none of the lane's is performed (R246). A request to a
route that is known to be down before it is sent, or that answers, is answered; one on a silent route is not. What several lanes meet
is one trap (R356): the causes of local and remote lanes are joined, the path is held until its accesses are acknowledged (log entry
36), and a cause met once the path has gone on is taken between two of its instructions (log entry 48). Links, debug hold and lost memory-side stamps
change what they name and nothing else. -/
def Obligations.RemoteAccesses : Prop :=
  (∀ (s : State) (k dev : Nat) (a : Access), Assoc.at? s.accesses k = some a → a.remote = some dev →
    (s.remoteReady k = true → a.sent < Config.remoteLimit → s.remoteCause (((a.parts.head?).map Part.off).getD 0) = none →
      s.laneUnits k a = [(k, a)] → s.eventCause ((s.warp? a.w).any Warp.mixedTrap) a = none →
      let q := s.perform k a
      let more := q.accesses.any (fun e => e.2.op == a.op && e.2.w == a.w && e.2.remote.isSome)
      (q.remoteCur a = none → (∀ o, Assoc.at? q.outs a.op = some o → o.late = []) →
        exec (.remoteRequest k) s = .next (q.touchWay a)) ∧
      (∀ c resets, q.remoteCur a = some (c, resets, []) → more = false →
        let u := q.updPath c.w c.p (fun q => { q with hold := .none })
        exec (.remoteRequest k) s = .next ((if resets then u.retireSync c else u.retire c).touchWay a)) ∧
      (∀ c resets met x, q.remoteCur a = some (c, resets, met) → more = false →
        c.causeOf ((Assoc.at? q.outs a.op).any OutOp.uniform) met = some x →
        exec (.remoteRequest k) s = .next
          (((q.updPath c.w c.p (fun q => { q with hold := .none })).raise c x (some a.op)).touchWay a)) ∧
      (∀ c resets met, q.remoteCur a = some (c, resets, met) → more = true →
        exec (.remoteRequest k) s = .next
          ((q.updPath c.w c.p (fun q => { q with hold := .remote a.op c resets met })).touchWay a))) ∧
    (∀ row code, s.remoteReady k = true →
      (∀ u ∈ s.laneUnits k a, u.2.sent < Config.remoteLimit ∧ s.remoteCause (((u.2.parts.head?).map Part.off).getD 0) = none) →
      firstSome (s.laneUnits k a) (fun u => s.eventCause ((s.warp? u.2.w).any Warp.mixedTrap) u.2) = some (row, code) →
      exec (.remoteRequest k) s = .next ((((s.laneUnits k a).foldl (fun (q : State) u => q.dropAccess u.1 u.2) s).remoteDone a
        ((s.laneUnits k a).flatMap (fun u => u.2.laneCauses row code 0))).touchWay a)) ∧
    (∀ code sub, s.remoteReady k = true → s.laneUnits k a = [(k, a)] → a.sent < Config.remoteLimit →
      s.remoteCause (((a.parts.head?).map Part.off).getD 0) = some (code, sub) →
      exec (.remoteRequest k) s =
        .next (((s.dropAccess k a).remoteDone a (a.laneCauses rowHome code sub)).touchWay a)) ∧
    (Config.remoteLimit ≤ a.sent → s.canTell a = true → s.laneUnits k a = [(k, a)] → ∀ c resets met x, (s.maybePerform k a).remoteCur a = some (c, resets, met) →
      (s.maybePerform k a).accesses.any (fun e => e.2.op == a.op && e.2.w == a.w && e.2.remote.isSome) = false →
      c.causeOf ((Assoc.at? (s.maybePerform k a).outs a.op).any OutOp.uniform) (met ++ a.laneCauses rowHome 0x2B 0) = some x →
      exec (.remoteTimeout k) s = .next
        (((s.maybePerform k a).updPath c.w c.p (fun q => { q with hold := .none })).raise c x (some a.op)))) ∧
  (∀ (s : State) (d : Nat) (a : Access),
    (s.answers d a = true ↔ Assoc.get s.routes Route.up d = .up ∨ (Assoc.get s.routes Route.up d = .down ∧ a.sent = 0))) ∧
  (∀ (s : State) (k : Nat) (a : Access), (s.maybePerform k a = s.dropAccess k a ∨ s.maybePerform k a = s.takeFree.dropAccess k a ∨
    s.maybePerform k a = (s.takeFree.perform k a).dropAccess k a)) ∧
  (∀ (s : State) (dev line : Nat) (known hold : Bool),
    (∃ t, exec (.routeLinksDown dev known) s = .next t ∧ t = { s with routes := t.routes } ∧
      Assoc.get t.routes Route.up dev = (if known then Route.down else Route.silent) ∧
      ∀ j, j ≠ dev → Assoc.get t.routes Route.up j = Assoc.get s.routes Route.up j) ∧
    (∃ t, exec (.routeLinksUp dev) s = .next t ∧ t = { s with routes := t.routes } ∧ Assoc.get t.routes Route.up dev = Route.up ∧
      ∀ j, j ≠ dev → Assoc.get t.routes Route.up j = Assoc.get s.routes Route.up j) ∧
    (∃ t, exec (.peerDebugHoldChange dev hold) s = .next t ∧ t = { s with peerHold := t.peerHold } ∧
      Assoc.get t.peerHold false dev = hold ∧ ∀ j, j ≠ dev → Assoc.get t.peerHold false j = Assoc.get s.peerHold false j) ∧
    (∃ t, exec (.memorySideStampLost line) s = .next t ∧ t = { s with stamps := t.stamps } ∧
      (∀ x ∈ t.stamps, ¬(x.place = Place.phys ∧ x.base = line)) ∧
      ∀ x ∈ s.stamps, ¬(x.place = Place.phys ∧ x.base = line) → x ∈ t.stamps))

/-- R359, R360, R380: a corrected error adds one to the counter of its core and changes nothing else; an uncorrectable one
makes a lane register, a scratchpad word, a word of a core-pinned page or a granule of memory unreadable until it is written, without
changing other storage. The core whose counter it is stands in log entry 26. A response lost for a path that has gone on raises 0x3C, or 0x3D where a CXL link fails an access to second-tier
memory, between two of its instructions, or at the instruction that waits for it (log entries 36 and 48). Key 0 names the next read that completes within
its step (log entry 41). -/
def Obligations.StorageErrors : Prop :=
  (∀ (s : State) (x : Site), s.siteExists x = true →
    exec (.storageSoftError x .corrected) s =
      .next (s.updCore (s.coreOfSite x) (fun c => { c with soft := c.soft + 1 })) ∧
    (∀ w r l, x = .register w r l → ∃ t, exec (.storageSoftError x .uncorrectable) s = .next t ∧
      (∃ y y', s.warp? w = some y ∧ t = s.setWarp w y' ∧ y' = { y with badReg := y'.badReg } ∧
        Assoc.get y'.badReg false (r * 32 + l) = true ∧
        ∀ j, j ≠ r * 32 + l → Assoc.get y'.badReg false j = Assoc.get y.badReg false j)) ∧
    (∀ g, x = .memory g → ∃ t, exec (.storageSoftError x .uncorrectable) s = .next t ∧ t = { s with poison := t.poison } ∧
      Assoc.get t.poison false g = true ∧ ∀ j, j ≠ g → Assoc.get t.poison false j = Assoc.get s.poison false j) ∧
    (∀ team g off, x = .scratch team g off → ∃ t, exec (.storageSoftError x .uncorrectable) s = .next t ∧
      t = { s with teams := t.teams } ∧ (t.group? team g).any (fun y => Assoc.get y.badScratch false (off / 4)) = true) ∧
    (∀ k n off, x = .pinned k n off → ∃ t, exec (.storageSoftError x .uncorrectable) s = .next t ∧
      t = { s with pinned := t.pinned } ∧ (t.findPinned k n).any (fun y => Assoc.get y.bad false (off / 4)) = true)) ∧
  (∀ (s : State) (tier : Bool), exec (.fabricResponseLost 0 tier) s = .next { s with lost := some tier }) ∧
  (∀ (s : State) (k : Nat) (tier : Bool) (a : Access), k ≠ 0 → Assoc.at? s.accesses k = some a → s.canPerform k a = true →
    (tier = true → s.inTier a = true) → s.canTell a = true →
    let q := s.maybePerform k a
    let once := (Assoc.at? q.outs a.op).any OutOp.uniform
    let met := a.laneCauses rowHome (if tier then 0x3D else 0x3C) 0
    q.accesses.any (fun e => e.2.op == a.op && e.2.w == a.w && e.2.remote.isSome) = false →
    (∀ c resets x, q.remoteCur a = some (c, resets, []) → c.causeOf once met = some x →
      exec (.fabricResponseLost k tier) s =
        .next ((q.updPath c.w c.p (fun q => { q with hold := .none })).raise c x (some a.op))) ∧
    (∀ w, q.remoteCur a = none → q.warp? a.w = some w → (∀ o, Assoc.at? q.outs a.op = some o → o.late = []) → met ≠ [] →
      let u : State := { q with outs := Assoc.upd q.outs a.op (fun o => { o with late := [] }) }
      (w.live = 0 → exec (.fabricResponseLost k tier) s = .next u) ∧
      (∀ x, w.live ≠ 0 → (w.boundary a.w).causeOf once met = some x → exec (.fabricResponseLost k tier) s =
        .next (((u.setWarp a.w { w with held := none }).routeH (w.boundary a.w) (u.infoOf (w.boundary a.w) x)).updWarp a.w (fun w =>
          { w with trap := w.trap.map (fun t => { t with replay := Mask.full }) })))))

/-! ## Start and the host -/

/-- R397 to R399, R401: power-good starts a package without power; a START write stops a running device and begins stage 1
with nothing resident. Stage 1 marks the dies that fail and stops at a failed shared unit, stage 2 sets the image's
addresses, the supervisor live, and goes on. Removing power leaves what State.reset holds, but for what stands outside the
package. The model's choices: mailbox and winbase are set at the beginning of stage 2 from an image held as data (log entry 12), and
what the tests find is fixed in advance (log entry 13). -/
def Obligations.StartStages : Prop :=
  ∀ (s : State),
    (s.boot = .off → exec .powerGood s = .next s.unpowered.secureBoot) ∧
    (∀ f, s.boot = .off → s.flash = some f → f.verifies = true → ∃ t, exec .powerGood s = .next t ∧ t.boot = .stage0 ∧ t.stage = 1 ∧
      t.lock = f.lock ∧ t.warps = [] ∧ t.startFailed = false) ∧
    (s.boot = .off → s.flash = none → ∃ t, exec .powerGood s = .next t ∧ t.startFailed = true) ∧
    (∀ e ∈ ([(Instr.startCold, false), (Instr.startWarm, true)] : List ((Bool → Instr) × Bool)), ∀ selftest : Bool,
      (s.boot = .stage3 → ∃ t, exec (e.1 selftest) s = .next t ∧ t.boot = .stage0 ∧ t.stage = 1 ∧ t.warm = e.2 ∧ t.selftest = selftest ∧
        t.warps = [] ∧ t.teams = [] ∧ t.launches = [] ∧ t.l2 = [] ∧ t.tlb = [] ∧ t.engines = [] ∧ t.accesses = [] ∧ t.ctx = [] ∧
        t.faultlog = 0 ∧ t.lock = s.lock ∧ t.mbox = s.mbox ∧ t.winbase = s.winbase) ∧
      (s.boot ≠ .stage3 → s.startFailed = false → exec (e.1 selftest) s = .next s)) ∧
    (s.boot = .stage0 → s.stage = 1 → s.startFailed = false →
      (s.tests = true → s.hw.pkgFail = true → ∃ t, exec .startStage1 s = .next t ∧ t.startFailed = true ∧ t.boot = .stage0) ∧
      (s.tests = false ∨ s.hw.pkgFail = false → ∃ t, exec .startStage1 s = .next t ∧ t.boot = .stage1 ∧ t.stage = 2 ∧
        (∀ d, d < 4 → t.failed.getLsbD d = if s.trained d = true ∧ s.tests = false then s.failed.getLsbD d else s.hw.dieFail.getLsbD d) ∧
        (s.warm = true → t.mem = s.mem))) ∧
    (∀ f, s.boot = .stage1 → s.verified = some f → ∃ t, exec .startStage2 s = .next t ∧ t.boot = .stage2 ∧ t.live = 1 ∧
      t.asidTable = f.asidTable ∧ t.mailbox = f.mailbox ∧ t.winbase = f.winbase &&& 0xFFFFFFFFF0000000) ∧
    (∃ t, exec .criticalTemperature s = .next t ∧ t.boot = .off ∧ t.warps = [] ∧ t.l2 = [] ∧ t.stamps = [] ∧ t.ctx = [] ∧ t.flash = s.flash ∧
      t.hw = s.hw ∧ (∀ c ∈ t.mem, c ∈ s.mem ∧ s.isLocal c.1 = false))

/-- R395, R396: a write of mbox in stage 3 is kept and stored to the mailbox word, before stage 3 it is discarded. BAR0
writes winbase (in the fully authorised state, its low 28 bits zero), START and mbox, and ignores others. A good write
through BAR2 stores its bytes at winbase plus the offset; a read, or an access to an absent address, changes no memory. -/
def Obligations.HostAccesses : Prop :=
  ∀ (s : State),
    (∀ v, (s.boot = .stage3 → s.inHbm s.mailbox = true → ∃ t, exec (.mboxWrite v) s = .next t ∧ t.mbox = v ∧
        t.peekBytes .phys (s.sysPa s.mailbox) 4 = bytesOfNat 4 v.toNat ∧ t.warps = s.warps) ∧
      (s.boot ≠ .stage3 → exec (.mboxWrite v) s = .next s)) ∧
    (∀ off v, s.boot ≠ .off →
      (off = 0x010 → exec (.bar0RegisterWrite off v) s =
        .next (if s.lock = Lock.full then { s with winbase := v &&& 0xFFFFFFFFF0000000 } else s)) ∧
      (off = 0x00C → exec (.bar0RegisterWrite off v) s = exec (.mboxWrite (v.extractLsb' 0 32)) s) ∧
      (off = 0x008 → v.extractLsb' 0 2 = 1 → exec (.bar0RegisterWrite off v) s = exec (.startCold (v.getLsbD 2)) s) ∧
      (off = 0x008 → v.extractLsb' 0 2 = 2 → exec (.bar0RegisterWrite off v) s = exec (.startWarm (v.getLsbD 2)) s) ∧
      (off ≠ 0x008 → off ≠ 0x00C → off ≠ 0x010 → exec (.bar0RegisterWrite off v) s = .next s)) ∧
    (∀ off data, s.boot ≠ .off → off + data.length ≤ 2 ^ 28 →
      (∀ j, j < data.length → s.paPresent (s.winbase.toNat + off + j) = true) →
      (∃ t, exec (.bar2WindowAccess off data true) s = .next t ∧ t.warps = s.warps ∧
        t.peekBytes .phys (s.sysPa (s.winbase.toNat + off)) data.length = data ∧
        ∀ x, x < s.sysPa (s.winbase.toNat + off) ∨ s.sysPa (s.winbase.toNat + off) + data.length ≤ x →
          Memory.read t.mem x = Memory.read s.mem x) ∧
      (∃ t, exec (.bar2WindowAccess off data false) s = .next t ∧ t = { s with power := t.power, active := t.active })) ∧
    (∀ off data write j, j < data.length → s.paPresent (s.winbase.toNat + off + j) = false →
      exec (.bar2WindowAccess off data write) s = .next s)

/-! ## Power and the system's own steps -/

/-- R400, R401: an unused block that nothing waits for becomes idle, then clock-gated, and a core without warps enters
retention, once it has had none for 2^20 cycles, and loses its L1; a block that something waits for wakes. A die is throttled and restored. Nothing else changes. -/
def Obligations.PowerStates : Prop :=
  ∀ (s : State) (b : Block), blockPresent b = true →
    (s.wanted b = false →
      (s.powerOf b = .run → 64 ≤ s.idleFor b → ∃ t, exec (.idleEntry b) s = .next t ∧ t = { s with power := t.power } ∧
        t.powerOf b = .idle ∧ ∀ x, blockCode x ≠ blockCode b → t.powerOf x = s.powerOf x) ∧
      (s.powerOf b = .idle → 64 + 4096 ≤ s.idleFor b → ∃ t, exec (.clockGateEntry b) s = .next t ∧ t = { s with power := t.power } ∧
        t.powerOf b = .gated ∧ ∀ x, blockCode x ≠ blockCode b → t.powerOf x = s.powerOf x) ∧
      (∀ n, b = .core n → s.powerOf b = .gated → 2 ^ 20 ≤ s.vacantFor n → (∀ e ∈ s.warps, coreOfKey e.1 ≠ n) →
        (∀ e ∈ s.engines, e.2.core ≠ n) → ∃ t, exec (.retentionEntry n) s = .next t ∧
          t = { s with power := t.power, cores := t.cores } ∧ t.powerOf b = .retention ∧ (t.core n).l1 = [])) ∧
    (s.asleep b = true → s.wanted b = true → ∃ t, exec (.powerWake b) s = .next t ∧
      t = { s with power := t.power, active := t.active } ∧ t.powerOf b = .run) ∧
    (∀ die up, die < 4 → ∃ t, exec (.dieThrottle die up) s = .next t ∧ t = { s with throttled := t.throttled, slow := t.slow } ∧
      t.throttled.getLsbD die = up ∧ (∀ j, j ≠ die → t.throttled.getLsbD j = s.throttled.getLsbD j) ∧
      Assoc.get t.slow 0 die = (if up then Assoc.get s.slow 0 die + 1 else 0) ∧
      ∀ j, j ≠ die → Assoc.get t.slow 0 j = Assoc.get s.slow 0 j)

/-! ## The whole machine -/

/-- R162, R399, R400 and the model's choices of log entries 1, 3 and 10: what State.reset holds. Nothing is resident, memory
lists nothing, and every register of a warp that starts is zero (R162). -/
def Obligations.ResetState : Prop :=
  State.reset.mem = [] ∧ State.reset.warps = [] ∧ State.reset.l2 = [] ∧ State.reset.boot = .off ∧ State.reset.clock = 0 ∧
  Memory.wf State.reset.mem = true ∧
  ∀ (launch team wg i asid principal : Nat) (priv : Bool) (clr : Option DWord) (pc : DWord) (known : List Known),
    let w := Warp.start launch team wg i asid principal priv clr pc known
    (∀ r l, classOf r = .lane ∨ classOf r = .uniform ∨ (classOf r = .mask ∧ r ≠ 0xC0) → w.rd r l = 0) ∧
    w.rd 0xC0 0 = 0xFFFFFFFF ∧ w.mode = 0 ∧ w.live = 0xFFFFFFFF ∧ (w.path 0).pc = pc ∧ (w.path 0).mask = 0xFFFFFFFF ∧ w.h = [] ∧
    w.trap = none

/-- R13, R52, R164: an input of the outside world is the step of its cycle, taken first (log entries 11 and 2). Else, where one path alone can go on, the step
executes the instruction that its words decode to, at its PC, for its lanes, in the state after the cycle's counts and the
pick. -/
def Obligations.StepRunsDecoded : Prop :=
  (∀ (s : State) (i : Instr) (r : List Instr), s.inputs = i :: r → s.tick.bins = none →
    step s = exec i { s.tick.ageAll s.tick.offers with inputs := r }) ∧
  (∀ (s q u : State) (o : Offer) (w : Warp) (i : Instr) (n : Nat), s.inputs = [] → s.tick.bins = none →
    s.tick.actions s.tick.offers = [.issue o] →
    q = s.tick.ageAll (s.tick.offers.filter (fun x => x != o)) → q.warp? o.key = some w →
    q.breaks w o.path (w.path o.path).nextPc = false → q.fetch o.key o.path w (w.path o.path).nextPc = (.instr i n, u) →
    u.bins = none →
    let c : Cur := { w.curFor o.key o.path n with sync := syncOf i }
    ((w.path o.path).status ≠ .wait →
      step s = exec i { ((u.pick o).updPath o.key o.path (fun x => { x with hold := .none })) with cur := some c }) ∧
    ((w.path o.path).status = .wait → step s = exec (.heldTransferReexecution o.key o.path) (u.pick o))) ∧
  (∀ (s : State) (key p : Nat) (w : Warp) (pc : DWord) (x : Word) (q : State) (i : Instr),
    s.fetchWord key p w pc.toNat = (.word x, q) → decode [x] = .done i 1 → s.fetch key p w pc = (.instr i 1, q))

/-- An instruction placed by withFetchWord runs in the very next step (log entry 3): the step executes what its words decode
to. -/
def Obligations.PlacedInstructionRuns : Prop :=
  ∀ (nbits x n : Nat) (i : Instr), decode [BitVec.ofNat 32 x, BitVec.ofNat 32 (x / 2 ^ 32), BitVec.ofNat 32 (x / 2 ^ 64)] = .done i n →
    ∃ q : State, step (State.reset.withFetchWord nbits x) = exec i q ∧
      q.cur = some { w := 0, p := 0, lanes := Mask.full, pc := 0x100, len := n, held := false, sync := syncOf i } ∧ q.mem = [] ∧
      (q.warp? 0).map (fun w => (w.v, w.sreg, w.m, w.asid, w.mode, w.live)) = some ([], [], [], 0, 0, Mask.full)

/-- R52 to R66, R69, R70: words written out from the spec's encodings decode to their instructions: its own examples, and one
word of every other family. -/
def Obligations.DecodeWords : Prop :=
  decode [0x840602C3#32] = .done (.ld32 none 0x06 0x02 6 3) 1 ∧
  decode [0xDF000B18#32, 0x4308090A#32] =
    .done (.ffma (some { maskEn := false, mask := 0, rnd := 0, e := 0x0B, zero := false, ty := 3 }) 0x08 0x09 0x0A) 2 ∧
  decode [0xDF9A0080#32, 0x40050607#32] =
    .done (.fadd (some { maskEn := true, mask := 3, rnd := 2, e := 0, zero := true, ty := 0 }) 0x05 0x06 0x07) 2 ∧
  decode [0xF013FC00#32] = .done (.movf20 none 0x01 0x3FC00) 1 ∧ decode [0xE05FFFFE#32] = .done (.movi20 none 0x05 0xFFFFE) 1 ∧
  decode [0xFFFFFFFF#32] = .done (.movf20 none 0xFF 0xFFFFF) 1 ∧ decode [0x7F000000#32] = .done .nop 1 ∧
  decode [0xCA040203#32, 0x3E2AAAAB#32] = .done (.ffmaL none 0x04 0x02 0x03 0x3E2AAAAB) 2 ∧
  decode [0x3E2AAAAB#32] = .done (.movhi16 none 0x2A 0xAAAB) 1 ∧
  decode [0x01050607#32] = .done (.add none 0x05 0x06 0x07) 1 ∧ decode [0x720FFFFE#32] = .done (.bra 0xFFFFE) 1 ∧
  decode [0x900500C1#32] = .done (.nonInstruction .none 0x01 0 1) 1 ∧ decode [0x9005C100#32] = .done (.ballot none 0x05 0xC1) 1 ∧
  decode [0xD4000000#32] = .done .eretRetry 1 ∧ decode [0xD8000000#32] = .done (.tlbinvPage 0 0) 1 ∧
  decode [0x00000000#32] = .done (.nonInstruction .none 0x00 24 1) 1 ∧
  decode [0xDF000000#32, 0x7F000000#32] = .done (.nonInstruction .none 0x04 0x118 2) 2 ∧
  decode [0xDF000001#32, 0x40050607#32] = .done (.nonInstruction .none 0x01 0x000 2) 2 ∧
  decode [0xDF060000#32, 0x40050607#32] = .done (.nonInstruction .none 0x05 0x010 2) 2

/-- Decoding what the encoder makes of a well-formed instruction gives it back, with the length of its encoding, whatever
words follow. -/
def Obligations.DecodeEncode : Prop :=
  ∀ (i : Instr) (r : List Word), wellFormed i = true → decode (encode i ++ r) = .done i (encode i).length

/-- Memory keeps its canonical form in every step. -/
def Obligations.MemoryStaysCanonical : Prop :=
  ∀ s t : State, Sound s → step s = .next t → Sound t
end

