-- ==== Sys2Proof/Laws/Store.lean ====
section
/-!
SUPPORT. Sparse data and memory: reading after a write, and the canonical form that every memory operation keeps.
-/
namespace Sys2Proof.Machine

/-! ## Sparse data -/

@[simp] theorem Assoc.at?_nil {α : Type} (k : Nat) : Assoc.at? ([] : Assoc α) k = none := rfl

theorem Assoc.at?_cons {α : Type} (i : Nat) (x : α) (r : Assoc α) (j : Nat) :
    Assoc.at? ((i, x) :: r) j = if i = j then some x else Assoc.at? r j := by simp [Assoc.at?]

theorem Assoc.erase_cons {α : Type} (i : Nat) (x : α) (r : Assoc α) (k : Nat) :
    Assoc.erase ((i, x) :: r) k = if i = k then Assoc.erase r k else (i, x) :: Assoc.erase r k := by simp [Assoc.erase]

theorem Assoc.put_cons {α : Type} (i : Nat) (x : α) (r : Assoc α) (k : Nat) (v : α) :
    Assoc.put ((i, x) :: r) k v =
      if k < i then (k, v) :: (i, x) :: r else if i = k then (k, v) :: r else (i, x) :: Assoc.put r k v := by
  simp [Assoc.put]

theorem Assoc.upd_cons {α : Type} (i : Nat) (x : α) (r : Assoc α) (k : Nat) (f : α → α) :
    Assoc.upd ((i, x) :: r) k f = if i = k then (i, f x) :: r else (i, x) :: Assoc.upd r k f := by simp [Assoc.upd]

theorem Assoc.at?_erase {α : Type} (m : Assoc α) (k j : Nat) :
    Assoc.at? (Assoc.erase m k) j = if j = k then none else Assoc.at? m j := by
  induction m with
  | nil => simp [Assoc.erase]
  | cons e r ih =>
    obtain ⟨i, x⟩ := e
    rw [Assoc.erase_cons, Assoc.at?_cons]
    split <;> rename_i h
    · rw [ih]; split
      · rfl
      · rw [if_neg (by omega)]
    · rw [Assoc.at?_cons, ih]; split
      · rw [if_neg (by omega)]
      · rfl

theorem Assoc.at?_put {α : Type} (m : Assoc α) (k j : Nat) (v : α) :
    Assoc.at? (Assoc.put m k v) j = if j = k then some v else Assoc.at? m j := by
  induction m with
  | nil =>
    rw [Assoc.put, Assoc.at?_cons]
    by_cases h : k = j
    · rw [if_pos h, if_pos h.symm]
    · rw [if_neg h, if_neg (Ne.symm h)]
  | cons e r ih =>
    obtain ⟨i, x⟩ := e
    rw [Assoc.put_cons]
    by_cases hj : j = k
    · subst hj
      rw [if_pos rfl]
      split
      · simp [Assoc.at?_cons]
      · split
        · simp [Assoc.at?_cons]
        · rw [Assoc.at?_cons, ih, if_pos rfl, if_neg (by assumption)]
    · rw [if_neg hj]
      split
      · rw [Assoc.at?_cons, if_neg (Ne.symm hj)]
      · split <;> rename_i h
        · rw [Assoc.at?_cons, Assoc.at?_cons, if_neg (Ne.symm hj), if_neg (by omega)]
        · rw [Assoc.at?_cons, Assoc.at?_cons, ih, if_neg hj]

theorem Assoc.at?_upd {α : Type} (m : Assoc α) (k j : Nat) (f : α → α) :
    Assoc.at? (Assoc.upd m k f) j = if j = k then (Assoc.at? m k).map f else Assoc.at? m j := by
  induction m with
  | nil => simp [Assoc.upd]
  | cons e r ih =>
    obtain ⟨i, x⟩ := e
    rw [Assoc.upd_cons]
    split <;> rename_i h
    · subst h
      rw [Assoc.at?_cons]
      by_cases hj : j = i
      · subst hj; simp [Assoc.at?_cons]
      · simp [Assoc.at?_cons, hj, Ne.symm hj]
    · rw [Assoc.at?_cons, ih]
      by_cases hj : j = k
      · subst hj; simp [Assoc.at?_cons, h]
      · simp [Assoc.at?_cons, hj]

/-- Reading after a write. -/
theorem Assoc.get_set {α : Type} [DecidableEq α] (m : Assoc α) (d : α) (k j : Nat) (v : α) :
    Assoc.get (Assoc.set m d k v) d j = if j = k then v else Assoc.get m d j := by
  unfold Assoc.get Assoc.set
  by_cases hv : v = d
  · rw [if_pos hv, Assoc.at?_erase]
    by_cases hj : j = k <;> simp [hj, hv]
  · rw [if_neg hv, Assoc.at?_put]
    by_cases hj : j = k <;> simp [hj]

@[simp] theorem Assoc.get_set_self {α : Type} [DecidableEq α] (m : Assoc α) (d : α) (k : Nat) (v : α) :
    Assoc.get (Assoc.set m d k v) d k = v := by simp [Assoc.get_set]

/-- Two changes of one key are one change. -/
theorem Assoc.upd_upd {α : Type} (m : Assoc α) (k : Nat) (f g : α → α) :
    Assoc.upd (Assoc.upd m k f) k g = Assoc.upd m k (fun x => g (f x)) := by
  induction m with
  | nil => rfl
  | cons e r ih =>
    obtain ⟨i, x⟩ := e
    by_cases h : i = k
    · simp [Assoc.upd, h]
    · simp [Assoc.upd, beq_eq_false_iff_ne.mpr h, ih]

/-- Changes that agree on the listed value are the same change. -/
theorem Assoc.upd_congr {α : Type} (m : Assoc α) (k : Nat) (f g : α → α) (x : α) (h : Assoc.at? m k = some x)
    (hfg : f x = g x) : Assoc.upd m k f = Assoc.upd m k g := by
  induction m with
  | nil => rfl
  | cons e r ih =>
    obtain ⟨i, y⟩ := e
    by_cases hi : i = k
    · subst hi
      simp only [Assoc.at?, beq_self_eq_true, if_true, Option.some.injEq] at h
      subst h
      simp [Assoc.upd, hfg]
    · simp only [Assoc.at?, beq_eq_false_iff_ne.mpr hi] at h
      simp [Assoc.upd, beq_eq_false_iff_ne.mpr hi, ih h]

/-! ## Memory -/

/-- A byte written is read back, and every other byte is as before. -/
theorem Memory.read_write (m : Memory) (a j : Nat) (b : Byte) :
    Memory.read (Memory.write m a b) j = if j = a then b else Memory.read m j := Assoc.get_set m _ a j b

/-- Bytes outside a written range are as before. -/
theorem Memory.read_writeBytes_outside (m : Memory) (a j : Nat) (bs : List Byte) (h : j < a ∨ a + bs.length ≤ j) :
    Memory.read (Memory.writeBytes m a bs) j = Memory.read m j := by
  induction bs generalizing m a with
  | nil => rfl
  | cons b r ih =>
    simp only [List.length_cons] at h
    rw [Memory.writeBytes, ih _ _ (by omega), Memory.read_write, if_neg (by omega)]

/-- Bytes inside a written range are those written. -/
theorem Memory.read_writeBytes_inside (m : Memory) (a k : Nat) (bs : List Byte) (h : k < bs.length) :
    Memory.read (Memory.writeBytes m a bs) (a + k) = bs[k] := by
  induction bs generalizing m a k with
  | nil => simp at h
  | cons b r ih =>
    rw [Memory.writeBytes]
    cases k with
    | zero =>
      rw [Memory.read_writeBytes_outside _ _ _ _ (by omega), Memory.read_write]
      simp
    | succ k =>
      have := ih (Memory.write m a b) (a + 1) k (by simpa using h)
      rw [show a + (k + 1) = a + 1 + k by omega, this]
      simp

/-- Every listed address is at least `a`. -/
def Memory.above (a : Nat) (m : Memory) : Prop := ∀ c ∈ m, a < c.1

theorem Memory.rising_cons (a : Nat) (b : Byte) (m : Memory) :
    Memory.rising ((a, b) :: m) = true ↔ Memory.above a m ∧ Memory.rising m = true := by
  induction m generalizing a b with
  | nil => simp [Memory.rising, Memory.above]
  | cons e r ih =>
    obtain ⟨i, x⟩ := e
    simp only [Memory.rising, Bool.and_eq_true, decide_eq_true_eq]
    constructor
    · rintro ⟨h, hr⟩
      refine ⟨?_, hr⟩
      intro c hc
      rcases List.mem_cons.mp hc with rfl | hc
      · exact h
      · exact lt_trans h (((ih i x).mp hr).1 c hc)
    · rintro ⟨h, hr⟩
      exact ⟨h (i, x) (by simp), hr⟩

theorem Memory.above_erase (a k : Nat) (m : Memory) (h : Memory.above a m) : Memory.above a (Assoc.erase m k) := by
  induction m with
  | nil => simpa [Assoc.erase] using h
  | cons e r ih =>
    obtain ⟨i, x⟩ := e
    have hr : Memory.above a r := fun c hc => h c (List.mem_cons_of_mem _ hc)
    by_cases hi : i = k
    · simpa [Assoc.erase, hi] using ih hr
    · simp only [Assoc.erase, beq_eq_false_iff_ne.mpr hi]
      intro c hc
      rcases List.mem_cons.mp (by simpa using hc) with rfl | hc
      · exact h _ (by simp)
      · exact ih hr c hc

theorem Memory.above_put (a k : Nat) (v : Byte) (m : Memory) (h : Memory.above a m) (hk : a < k) :
    Memory.above a (Assoc.put m k v) := by
  induction m with
  | nil => intro c hc; simp [Assoc.put] at hc; subst hc; exact hk
  | cons e r ih =>
    obtain ⟨i, x⟩ := e
    have hr : Memory.above a r := fun c hc => h c (List.mem_cons_of_mem _ hc)
    have hi : a < i := h (i, x) (by simp)
    intro c hc
    simp only [Assoc.put] at hc
    split at hc
    · rcases List.mem_cons.mp hc with rfl | hc
      · exact hk
      · exact h c hc
    · split at hc
      · rcases List.mem_cons.mp hc with rfl | hc
        · exact hk
        · exact hr c hc
      · rcases List.mem_cons.mp hc with rfl | hc
        · exact hi
        · exact ih hr c hc

theorem Memory.rising_erase (k : Nat) (m : Memory) (h : Memory.rising m = true) :
    Memory.rising (Assoc.erase m k) = true := by
  induction m with
  | nil => rfl
  | cons e r ih =>
    obtain ⟨i, x⟩ := e
    obtain ⟨ha, hr⟩ := (Memory.rising_cons i x r).mp h
    by_cases hi : i = k
    · simpa [Assoc.erase, hi] using ih hr
    · simp only [Assoc.erase, beq_eq_false_iff_ne.mpr hi]
      exact (Memory.rising_cons _ _ _).mpr ⟨Memory.above_erase _ _ _ ha, ih hr⟩

theorem Memory.rising_put (k : Nat) (v : Byte) (m : Memory) (h : Memory.rising m = true) :
    Memory.rising (Assoc.put m k v) = true := by
  induction m with
  | nil => rfl
  | cons e r ih =>
    obtain ⟨i, x⟩ := e
    obtain ⟨ha, hr⟩ := (Memory.rising_cons i x r).mp h
    simp only [Assoc.put]
    split
    · rename_i hlt
      refine (Memory.rising_cons _ _ _).mpr ⟨?_, h⟩
      intro c hc
      rcases List.mem_cons.mp hc with rfl | hc
      · exact hlt
      · exact lt_trans hlt (ha c hc)
    · split
      · rename_i hk
        have : i = k := by simpa using hk
        subst this
        exact (Memory.rising_cons _ _ _).mpr ⟨ha, hr⟩
      · rename_i h1 h2
        have : i ≠ k := by simpa using h2
        exact (Memory.rising_cons _ _ _).mpr ⟨Memory.above_put _ _ _ _ ha (by omega), ih hr⟩

/-- Writing a byte keeps the canonical form. -/
theorem Memory.wf_write (m : Memory) (a : Nat) (b : Byte) (h : Memory.wf m = true) :
    Memory.wf (Memory.write m a b) = true := by
  simp only [Memory.wf, Bool.and_eq_true, List.all_eq_true] at h ⊢
  obtain ⟨hr, hn⟩ := h
  unfold Memory.write Assoc.set
  split
  · refine ⟨Memory.rising_erase _ _ hr, ?_⟩
    intro c hc
    apply hn
    clear hr hn
    induction m with
    | nil => exact hc
    | cons e r ih =>
      obtain ⟨i, x⟩ := e
      by_cases hi : i = a
      · exact List.mem_cons_of_mem _ (ih (by simpa [Assoc.erase, hi] using hc))
      · simp only [Assoc.erase, beq_eq_false_iff_ne.mpr hi] at hc
        rcases List.mem_cons.mp (by simpa using hc) with rfl | hc
        · simp
        · exact List.mem_cons_of_mem _ (ih hc)
  · rename_i hb
    refine ⟨Memory.rising_put _ _ _ hr, ?_⟩
    clear hr
    induction m with
    | nil => intro c hc; simp [Assoc.put] at hc; subst hc; simpa using hb
    | cons e r ih =>
      obtain ⟨i, x⟩ := e
      intro c hc
      simp only [Assoc.put] at hc
      split at hc
      · rcases List.mem_cons.mp hc with rfl | hc
        · simpa using hb
        · exact hn c hc
      · split at hc
        · rcases List.mem_cons.mp hc with rfl | hc
          · simpa using hb
          · exact hn c (List.mem_cons_of_mem _ hc)
        · rcases List.mem_cons.mp hc with rfl | hc
          · exact hn _ (by simp)
          · exact ih (fun c hc => hn c (List.mem_cons_of_mem _ hc)) c hc

/-- Writing bytes keeps the canonical form. -/
theorem Memory.wf_writeBytes (m : Memory) (a : Nat) (bs : List Byte) (h : Memory.wf m = true) :
    Memory.wf (Memory.writeBytes m a bs) = true := by
  induction bs generalizing m a with
  | nil => exact h
  | cons b r ih => exact ih _ _ (Memory.wf_write _ _ _ h)

/-- Two memories in canonical form that read the same everywhere are the same data. -/
theorem Memory.read_of_above (a : Nat) (m : Memory) (h : Memory.above a m) : Memory.read m a = Memory.unlisted := by
  induction m with
  | nil => rfl
  | cons e r ih =>
    obtain ⟨i, x⟩ := e
    have hi : a < i := h (i, x) (by simp)
    have := ih (fun c hc => h c (List.mem_cons_of_mem _ hc))
    simp only [Memory.read, Assoc.get, Assoc.at?] at this ⊢
    rw [beq_eq_false_iff_ne.mpr (by omega)]
    simpa using this

/-! ## Lists -/

@[simp] theorem listUpd_length {α : Type} (l : List α) (n : Nat) (f : α → α) : (listUpd l n f).length = l.length := by
  induction l generalizing n with
  | nil => rfl
  | cons x r ih => cases n <;> simp [listUpd, ih]

theorem listUpd_get {α : Type} (l : List α) (n j : Nat) (f : α → α) :
    (listUpd l n f)[j]? = if j = n then (l[n]?).map f else l[j]? := by
  induction l generalizing n j with
  | nil => simp [listUpd]
  | cons x r ih =>
    cases n with
    | zero => cases j <;> simp [listUpd]
    | succ n => cases j <;> simp [listUpd, ih]

theorem listUpd_listUpd {α : Type} (l : List α) (n : Nat) (f g : α → α) :
    listUpd (listUpd l n f) n g = listUpd l n (fun x => g (f x)) := by
  induction l generalizing n with
  | nil => rfl
  | cons x r ih => cases n <;> simp [listUpd, ih]

/-! ## Paths of a warp -/

theorem Warp.path_updPath (w : Warp) (p j : Nat) (f : Path → Path) (h : p < w.paths.length) :
    (w.updPath p f).path j = if j = p then f (w.path p) else w.path j := by
  simp only [Warp.path, Warp.updPath, listUpd_get]
  by_cases hj : j = p
  · subst hj; simp [List.getElem?_eq_getElem h]
  · simp [hj]

@[simp] theorem Warp.paths_updPath_length (w : Warp) (p : Nat) (f : Path → Path) :
    (w.updPath p f).paths.length = w.paths.length := by simp [Warp.updPath]

/-! ## Warps of a state -/

theorem State.warp?_updWarp (s : State) (k j : Nat) (f : Warp → Warp) :
    (s.updWarp k f).warp? j = if j = k then (s.warp? k).map f else s.warp? j := by
  simp [State.warp?, State.updWarp, Assoc.at?_upd]

theorem State.warp?_updWarp_self (s : State) (k : Nat) (f : Warp → Warp) (w : Warp) (h : s.warp? k = some w) :
    (s.updWarp k f).warp? k = some (f w) := by simp [State.warp?_updWarp, h]

theorem State.updWarp_updWarp (s : State) (k : Nat) (f g : Warp → Warp) :
    (s.updWarp k f).updWarp k g = s.updWarp k (fun x => g (f x)) := by
  simp [State.updWarp, Assoc.upd_upd]

/-- Changing a warp is replacing it. -/
theorem State.updWarp_eq_setWarp (s : State) (k : Nat) (f : Warp → Warp) (w : Warp) (h : s.warp? k = some w) :
    s.updWarp k f = s.setWarp k (f w) := by
  simp only [State.setWarp, State.updWarp]
  rw [Assoc.upd_congr s.warps k f (fun _ => f w) w h rfl]

@[simp] theorem State.setWarp_setWarp (s : State) (k : Nat) (w w' : Warp) : (s.setWarp k w).setWarp k w' = s.setWarp k w' := by
  simp [State.setWarp, State.updWarp_updWarp]

end Sys2Proof.Machine
end

