-- ==== Sys2Proof/Laws/Registers.lean ====
section
/-!
SUPPORT. Registers: reading after a write, and which operations leave the registers alone.
-/
namespace Sys2Proof.Machine

theorem code_eq_of_toNat {a b : Code} (h : a.toNat = b.toNat) : a = b := BitVec.eq_of_toNat_eq h

theorem classOf_lane {c : Code} : classOf c = .lane ↔ c.toNat < 0x80 := by
  unfold classOf; dsimp only
  constructor
  · intro h; by_contra h1; rw [if_neg h1] at h; split_ifs at h
  · intro h; rw [if_pos h]

theorem classOf_uniform {c : Code} : classOf c = .uniform ↔ 0x80 ≤ c.toNat ∧ c.toNat < 0xC0 := by
  unfold classOf; dsimp only
  constructor
  · intro h; split_ifs at h; omega
  · rintro ⟨h1, h2⟩; rw [if_neg (by omega), if_pos h2]

theorem classOf_mask {c : Code} : classOf c = .mask ↔ 0xC0 ≤ c.toNat ∧ c.toNat < 0xD0 := by
  unfold classOf; dsimp only
  constructor
  · intro h; split_ifs at h; omega
  · rintro ⟨h1, h2⟩; rw [if_neg (by omega), if_neg (by omega), if_pos h2]

/-- A register read after a write: only the written register changes, a lane register in the written lane alone. -/
theorem Warp.rd_wr (w : Warp) (d r : Code) (i l : Nat) (x : Word) (hi : i < 32) (hl : l < 32) :
    (w.wr d i x).rd r l =
      if r = d then
        match classOf d with
        | .lane => if l = i then x else w.rd d l
        | .uniform => x
        | .mask => if d = 0xC0 then w.rd d l else x
        | _ => w.rd d l
      else w.rd r l := by
  unfold Warp.wr
  split <;> rename_i hd
  · simp only [Warp.rd]
    have hd' := classOf_lane.mp hd
    by_cases hr : r = d
    · subst hr
      rw [if_pos rfl]; simp only [hd]; rw [Assoc.get_set]
      by_cases h : l = i
      · simp [h]
      · rw [if_neg (by omega), if_neg h]
    · rw [if_neg hr]
      split <;> rename_i hc <;> try rfl
      rw [Assoc.get_set, if_neg]
      have : r.toNat ≠ d.toNat := fun h => hr (code_eq_of_toNat h)
      omega
  · simp only [Warp.rd]
    have hd' := classOf_uniform.mp hd
    by_cases hr : r = d
    · subst hr; rw [if_pos rfl]; simp only [hd]; simp
    · rw [if_neg hr]
      split <;> rename_i hc <;> try rfl
      have hc' := classOf_uniform.mp hc
      rw [Assoc.get_set, if_neg]
      have : r.toNat ≠ d.toNat := fun h => hr (code_eq_of_toNat h)
      omega
  · by_cases h0 : d = 0xC0
    · simp only [if_pos h0]; split
      · rename_i h; rw [h]; simp only [hd]
      · rfl
    · simp only [if_neg h0]
      simp only [Warp.rd]
      have hd' := classOf_mask.mp hd
      by_cases hr : r = d
      · subst hr; rw [if_pos rfl]; simp only [hd]; rw [if_neg h0]; simp
      · rw [if_neg hr]
        split <;> rename_i hc <;> try rfl
        have hc' := classOf_mask.mp hc
        split
        · rfl
        · rw [Assoc.get_set, if_neg]
          have : r.toNat ≠ d.toNat := fun h => hr (code_eq_of_toNat h)
          omega
  all_goals (split <;> [(rename_i h; rw [h]; simp only [hd]); rfl])

/-! ## What the register operations leave alone -/

theorem Warp.wr_withRegs (w : Warp) (d : Code) (i : Nat) (x : Word) : w.wr d i x = w.withRegs (w.wr d i x) := by
  unfold Warp.wr Warp.withRegs; split <;> (try split) <;> rfl

theorem Warp.withRegs_trans {w a b : Warp} (h1 : a = w.withRegs a) (h2 : b = a.withRegs b) : b = w.withRegs b := by
  rw [h1] at h2; exact h2

@[simp] theorem Warp.withRegs_withRegs (w a b : Warp) : (w.withRegs a).withRegs b = w.withRegs b := rfl
@[simp] theorem Warp.withRegs_self (w : Warp) : w.withRegs w = w := rfl
@[simp] theorem Warp.rd_withRegs (w x : Warp) (r : Code) (l : Nat) : (w.withRegs x).rd r l = x.rd r l := rfl
@[simp] theorem Warp.path_withRegs (w x : Warp) (p : Nat) : (w.withRegs x).path p = w.path p := rfl

theorem Warp.wrPair_withRegs (w : Warp) (d : Code) (i : Nat) (x : DWord) : w.wrPair d i x = w.withRegs (w.wrPair d i x) :=
  Warp.withRegs_trans (w.wr_withRegs d i x.lo) ((w.wr d i x.lo).wr_withRegs (nextCode d 1) i x.hi)

theorem Warp.wrBit_withRegs (w : Warp) (d : Code) (i : Nat) (b : Bool) : w.wrBit d i b = w.withRegs (w.wrBit d i b) := by
  unfold Warp.wrBit; dsimp only; split <;> first | exact w.wr_withRegs _ _ _ | rfl

theorem Warp.orFlags_withRegs (w : Warp) (i : Nat) (f : BitVec 5) : w.orFlags i f = w.withRegs (w.orFlags i f) := rfl

@[simp] theorem Warp.rd_orFlags (w : Warp) (i : Nat) (f : BitVec 5) (r : Code) (l : Nat) :
    (w.orFlags i f).rd r l = w.rd r l := rfl

theorem Warp.wr_fpflags (w : Warp) (d : Code) (i : Nat) (x : Word) : (w.wr d i x).fpflags = w.fpflags := by
  unfold Warp.wr; split <;> (try split) <;> rfl

theorem Warp.wr_badReg (w : Warp) (d : Code) (i : Nat) (x : Word) (h : w.badReg = []) : (w.wr d i x).badReg = [] := by
  unfold Warp.wr; split <;> (try split) <;> simp [h, Assoc.set, Assoc.erase]

/-! ## Retirement does not depend on the registers -/

theorem Warp.updPath_withRegs (w x : Warp) (p : Nat) (f : Path → Path) :
    (w.withRegs x).updPath p f = (w.updPath p f).withRegs x := rfl

theorem Warp.newSeg_withRegs (w x : Warp) (p : Nat) : (w.withRegs x).newSeg p = (w.newSeg p).withRegs x := rfl

theorem Warp.merge_withRegs (w x : Warp) (i fuel : Nat) : (w.withRegs x).merge i fuel = (w.merge i fuel).withRegs x := by
  induction fuel generalizing w i with
  | zero => rfl
  | succ n ih =>
    rw [Warp.merge, Warp.merge]
    dsimp only
    by_cases h1 : (w.path i).status = PathStatus.wait ∧ (w.path i).kids = 0 ∧ (w.path i).held = 0
    · have h1' : ((w.withRegs x).path i).status = PathStatus.wait ∧ ((w.withRegs x).path i).kids = 0 ∧
          ((w.withRegs x).path i).held = 0 := h1
      rw [if_pos h1, if_pos h1']
      by_cases h2 : (w.path i).arrived = 0
      · have h2' : ((w.withRegs x).path i).arrived = 0 := h2
        rw [if_pos h2, if_pos h2', Warp.path_withRegs]
        cases (w.path i).parent with
        | none => rfl
        | some q => exact ih ((w.updPath i (fun _ => Path.empty)).updPath q (fun q =>
            { (q.joinAfter ((w.path i).segs ++ (w.path i).after)) with kids := q.kids - 1 })) q
      · have h2' : ¬((w.withRegs x).path i).arrived = 0 := h2
        rw [if_neg h2, if_neg h2']; rfl
    · have h1' : ¬(((w.withRegs x).path i).status = PathStatus.wait ∧ ((w.withRegs x).path i).kids = 0 ∧
          ((w.withRegs x).path i).held = 0) := h1
      rw [if_neg h1, if_neg h1']

theorem Warp.leave_withRegs (w x : Warp) (i : Nat) : (w.withRegs x).leave i = (w.leave i).withRegs x := by
  unfold Warp.leave
  dsimp only
  by_cases h : (w.path i).held = 0
  · have h' : ((w.withRegs x).path i).held = 0 := h
    rw [if_pos h, if_pos h', Warp.path_withRegs]
    cases (w.path i).parent with
    | none => rfl
    | some q =>
      exact Warp.merge_withRegs ((w.updPath i (fun _ => Path.empty)).updPath q (fun q =>
        { (q.joinAfter ((w.path i).segs ++ (w.path i).after)) with kids := q.kids - 1 })) x q 9
  · have h' : ¬((w.withRegs x).path i).held = 0 := h
    rw [if_neg h, if_neg h']; rfl

theorem Warp.arrive_withRegs (w x : Warp) (i : Nat) : (w.withRegs x).arrive i = (w.arrive i).withRegs x := by
  unfold Warp.arrive
  dsimp only
  rw [Warp.path_withRegs]
  cases (w.path i).parent with
  | none => rfl
  | some q =>
    exact Warp.leave_withRegs (w.updPath q (fun q =>
      { (q.joinAfter ((w.path i).segs ++ (w.path i).after)) with arrived := q.arrived ||| (w.path i).mask })) x i

theorem Warp.settle_withRegs (w x : Warp) (i : Nat) : (w.withRegs x).settle i = (w.settle i).withRegs x := by
  unfold Warp.settle
  dsimp only
  by_cases h : (w.path i).status = .run ∧ joinsAt (w.path i).arr (w.path i).pc = true ∧ (w.path i).mask ≠ 0
  · have h' : ((w.withRegs x).path i).status = .run ∧ joinsAt ((w.withRegs x).path i).arr ((w.withRegs x).path i).pc = true ∧
        ((w.withRegs x).path i).mask ≠ 0 := h
    rw [if_pos h, if_pos h', Warp.arrive_withRegs]
  · have h' : ¬(((w.withRegs x).path i).status = .run ∧ joinsAt ((w.withRegs x).path i).arr ((w.withRegs x).path i).pc = true ∧
        ((w.withRegs x).path i).mask ≠ 0) := h
    rw [if_neg h, if_neg h']

theorem Warp.advance_withRegs (w x : Warp) (p : Nat) (a b : DWord) :
    (w.withRegs x).advance p a b = (w.advance p a b).withRegs x := by
  simp only [Warp.advance, Warp.updPath_withRegs, Warp.settle_withRegs]

theorem Warp.afterRetire_withRegs (w x : Warp) (c : Cur) (b : Bool) :
    (w.withRegs x).afterRetire c b = (w.afterRetire c b).withRegs x := by
  simp only [Warp.afterRetire, Warp.advance_withRegs]
  rfl

/-- The fields of a warp that moving its paths leaves alone. -/
structure Warp.SamePaths (w w' : Warp) : Prop where
  eq : w' = { w with paths := w'.paths, seg := w'.seg }

theorem Warp.SamePaths.refl (w : Warp) : w.SamePaths w := ⟨rfl⟩
theorem Warp.SamePaths.trans {a b c : Warp} (h : a.SamePaths b) (g : b.SamePaths c) : a.SamePaths c := by
  obtain ⟨h⟩ := h; obtain ⟨g⟩ := g; constructor; rw [h] at g; exact g
theorem Warp.samePaths_updPath (w : Warp) (p : Nat) (f : Path → Path) : w.SamePaths (w.updPath p f) := ⟨rfl⟩
theorem Warp.samePaths_newSeg (w : Warp) (p : Nat) : w.SamePaths (w.newSeg p) := ⟨rfl⟩

theorem Warp.samePaths_merge (w : Warp) (i fuel : Nat) : w.SamePaths (w.merge i fuel) := by
  induction fuel generalizing w i with
  | zero => exact .refl w
  | succ n ih =>
    simp only [Warp.merge]
    split
    · split
      · split
        · exact w.samePaths_updPath _ _
        · exact ((w.samePaths_updPath _ _).trans (Warp.samePaths_updPath _ _ _)).trans (ih _ _)
      · exact (w.samePaths_updPath _ _).trans (Warp.samePaths_newSeg _ _)
    · exact .refl w

theorem Warp.samePaths_leave (w : Warp) (i : Nat) : w.SamePaths (w.leave i) := by
  simp only [Warp.leave]
  split
  · split
    · exact w.samePaths_updPath _ _
    · exact ((w.samePaths_updPath _ _).trans (Warp.samePaths_updPath _ _ _)).trans (Warp.samePaths_merge _ _ _)
  · exact w.samePaths_updPath _ _

theorem Warp.samePaths_arrive (w : Warp) (i : Nat) : w.SamePaths (w.arrive i) := by
  simp only [Warp.arrive]
  split
  · exact .refl w
  · exact (w.samePaths_updPath _ _).trans (Warp.samePaths_leave _ _)

theorem Warp.samePaths_settle (w : Warp) (i : Nat) : w.SamePaths (w.settle i) := by
  simp only [Warp.settle]; split
  · exact w.samePaths_arrive _
  · exact .refl w

/-- A retirement moves the path and the counts, nothing else. -/
theorem Warp.samePaths_advance (w : Warp) (p : Nat) (a b : DWord) : w.SamePaths (w.advance p a b) :=
  (w.samePaths_updPath _ _).trans (Warp.samePaths_settle _ _)

/-- Moving on and closing the instruction is `afterRetire` of the issuing warp, before any single-step stop. -/
theorem State.advance_endInstr (s : State) (c : Cur) (w : Warp) (b : Bool) (hw : s.warp? c.w = some w) :
    (s.updWarp c.w (fun w => w.advance c.p c.pc c.next)).endInstr c b = s.setWarp c.w (w.afterRetire c b) := by
  obtain ⟨ha⟩ := w.samePaths_advance c.p c.pc c.next
  rw [State.endInstr, State.updWarp_updWarp, State.updWarp_eq_setWarp _ _ _ w hw]
  congr 1
  simp only [Warp.afterRetire]
  rw [ha]; rfl

/-- With no debugger, `finish` is the retirement's bookkeeping alone. -/
theorem State.finish_plain (s : State) (c : Cur) (w : Warp) (b : Bool) (hw : s.warp? c.w = some w) (hd : s.debugOn w = false) :
    s.finish c b = s.updWarp c.w (fun w =>
      { (w.updPath c.p (fun q => { q with replay := none, replayOp := none, passBreak := false, passWatch := false })) with
        retired := if w.counting then w.retired + 1 else w.retired, watch := if b then 0 else w.watch
        lastSafe := none, age := 0 }) := by
  unfold State.finish State.endInstr
  simp only [State.stepStop]
  rw [State.warp?_updWarp_self _ _ _ w hw]
  have : ((s.ctxOf w.asid).debug).getLsbD 0 = false := hd
  simp only [Warp.updPath, State.updWarp, State.ctxOf, this] at *
  simp

/-- With no debugger, moving on and closing the instruction is `afterRetire` of the issuing warp. -/
theorem State.advance_finish_plain (s : State) (c : Cur) (w : Warp) (b : Bool) (hw : s.warp? c.w = some w)
    (hd : s.debugOn w = false) :
    (s.updWarp c.w (fun w => w.advance c.p c.pc c.next)).finish c b = s.setWarp c.w (w.afterRetire c b) := by
  obtain ⟨ha⟩ := w.samePaths_advance c.p c.pc c.next
  rw [State.finish_plain _ c (w.advance c.p c.pc c.next) b (State.warp?_updWarp_self _ _ _ w hw) ?_]
  · rw [State.updWarp_updWarp, State.updWarp_eq_setWarp _ _ _ w hw]
    congr 1
    simp only [Warp.afterRetire]
    rw [ha]; rfl
  · have : (w.advance c.p c.pc c.next).asid = w.asid := by rw [ha]
    simpa [State.debugOn, State.ctxOf, State.updWarp, this] using hd

/-- With no debugger, `retire` is `afterRetire` of the issuing warp. -/
theorem State.retire_plain (s : State) (c : Cur) (w : Warp) (hw : s.warp? c.w = some w) (hd : s.debugOn w = false) :
    s.retire c = s.setWarp c.w (w.afterRetire c false) := s.advance_finish_plain c w false hw hd

/-- Retiring does not count a synchronising operation. -/
theorem Warp.afterRetire_syncs (w : Warp) (c : Cur) (b : Bool) : (w.afterRetire c b).syncs = w.syncs := by
  obtain ⟨ha⟩ := w.samePaths_advance c.p c.pc c.next
  simp only [Warp.afterRetire]; rw [ha]; rfl

/-- Retiring leaves a warp's context. -/
theorem Warp.afterRetire_asid (w : Warp) (c : Cur) (b : Bool) : (w.afterRetire c b).asid = w.asid := by
  obtain ⟨ha⟩ := w.samePaths_advance c.p c.pc c.next
  simp only [Warp.afterRetire]; rw [ha]; rfl

end Sys2Proof.Machine
end

