-- ==== Sys2Proof/Laws/Lanes.lean ====
section
/-!
SUPPORT. What an instruction does over its lanes, said once: `runWord`, `runPair` and `runBit` under `Ready` and `Plain`.
-/
namespace Sys2Proof.Machine

/-! ## The wrapper -/

theorem issue_ready {i : Instr} {priv : Priv} {s : State} {c : Cur} {w : Warp} (h : Ready i priv s c w)
    (body : State → Cur → Warp → State) : issue i priv s body = .next (body s c w) := by
  unfold issue
  rw [h.cur]; dsimp only
  rw [h.warp]; dsimp only
  rw [if_pos h.held, h.checked]; dsimp only
  rw [h.operands, h.free]; rfl

theorem badLanes_nil {w : Warp} (h : w.badReg = []) (ops : List Opnd) (ls : List Nat) : w.badLanes ops ls = [] := by
  simp [Warp.badLanes, h]

theorem issueClean_ready {i : Instr} {priv : Priv} {s : State} {c : Cur} {w : Warp} (h : Ready i priv s c w)
    (hb : w.badReg = []) (body : State → Cur → Warp → State) : issueClean i priv s body = .next (body s c w) := by
  unfold issueClean
  rw [issue_ready h, badLanes_nil hb]

/-! ## Lanes -/

theorem mem_lanes {m : Mask} {l : Nat} : l ∈ m.lanes ↔ l < 32 ∧ m.getLsbD l = true := by
  simp only [Mask.lanes, List.mem_filter]
  constructor
  · rintro ⟨h, hm⟩
    refine ⟨?_, hm⟩
    simp only [allLanes, List.mem_cons, List.not_mem_nil, or_false] at h
    omega
  · rintro ⟨h, hm⟩
    refine ⟨?_, hm⟩
    simp only [allLanes, List.mem_cons, List.not_mem_nil, or_false]
    omega

theorem allLanes_nodup : allLanes.Nodup := by decide

theorem lanes_nodup (m : Mask) : m.lanes.Nodup := allLanes_nodup.filter _

/-- One lane's effect when no lane meets a cause. -/
def laneEffect {α : Type} (guard : Mask) (zeroing : Bool) (put : Warp → Nat → α → Warp) (zero : α) (x : Nat → α)
    (fl : Nat → FpFlags) (a : Warp) (i : Nat) : Warp :=
  if guard.getLsbD i then (put a i (x i)).orFlags i (fl i) else if zeroing then put a i zero else a

theorem Warp.laneRun_ok {α : Type} (w : Warp) (ops : List Opnd) (guard : Mask) (zeroing : Bool) (lanes : List Nat)
    (f : Nat → Res α) (put : Warp → Nat → α → Warp) (zero : α) (x : Nat → α) (fl : Nat → FpFlags)
    (hb : w.badReg = []) (hok : ∀ i ∈ lanes, guard.getLsbD i = true → f i = .ok (x i) (fl i)) :
    w.laneRun ops guard zeroing lanes f put zero = (lanes.foldl (laneEffect guard zeroing put zero x fl) w, []) := by
  unfold Warp.laneRun
  have gen : ∀ (a : Warp), lanes.foldl (w.laneStep ops guard zeroing f put zero) (a, []) =
      (lanes.foldl (laneEffect guard zeroing put zero x fl) a, []) := by
    induction lanes with
    | nil => intro a; rfl
    | cons i r ih =>
      intro a
      have hr := ih (fun j hj => hok j (List.mem_cons_of_mem _ hj))
      simp only [List.foldl_cons]
      rw [← hr]
      congr 1
      unfold Warp.laneStep laneEffect
      by_cases hg : guard.getLsbD i = true
      · rw [if_pos hg, if_pos hg, badLanes_nil hb, hok i (by simp) hg]
      · rw [if_neg hg, if_neg hg]
  exact gen w

/-- A property that every lane's effect keeps. -/
theorem laneEffect_keeps {α : Type} (P : Warp → Prop) (guard : Mask) (zeroing : Bool) (lanes : List Nat)
    (put : Warp → Nat → α → Warp) (zero : α) (x : Nat → α) (fl : Nat → FpFlags) (w : Warp) (h0 : P w)
    (hp : ∀ a i v, i ∈ lanes → P a → P (put a i v)) (ho : ∀ a i f, P a → P (a.orFlags i f)) :
    P (lanes.foldl (laneEffect guard zeroing put zero x fl) w) := by
  induction lanes generalizing w with
  | nil => exact h0
  | cons i r ih =>
    refine ih _ ?_ (fun a j v hj => hp a j v (List.mem_cons_of_mem _ hj))
    unfold laneEffect
    split
    · exact ho _ _ _ (hp _ _ _ (by simp) h0)
    · split
      · exact hp _ _ _ (by simp) h0
      · exact h0

/-- What one place reads after the lanes' effects, where lane `i`'s write changes the place of lane `i` alone. -/
theorem laneEffect_view {α β : Type} (V : Warp → Nat → β) (g : α → β) (guard : Mask) (zeroing : Bool) (lanes : List Nat)
    (put : Warp → Nat → α → Warp) (zero : α) (x : Nat → α) (fl : Nat → FpFlags) (w : Warp) (l : Nat)
    (hn : lanes.Nodup) (hlt : ∀ i ∈ lanes, i < 32)
    (hp : ∀ a i v, i < 32 → V (put a i v) l = if l = i then g v else V a l)
    (ho : ∀ a i f, V (a.orFlags i f) l = V a l) :
    V (lanes.foldl (laneEffect guard zeroing put zero x fl) w) l =
      if l ∈ lanes then (if guard.getLsbD l then g (x l) else if zeroing then g zero else V w l) else V w l := by
  induction lanes generalizing w with
  | nil => simp
  | cons i r ih =>
    simp only [List.nodup_cons] at hn
    rw [List.foldl_cons, ih _ hn.2 (fun j hj => hlt j (List.mem_cons_of_mem _ hj))]
    have hi := hlt i (by simp)
    have one : V (laneEffect guard zeroing put zero x fl w i) l =
        if l = i then (if guard.getLsbD l then g (x l) else if zeroing then g zero else V w l) else V w l := by
      unfold laneEffect
      by_cases hg : guard.getLsbD i = true
      · rw [if_pos hg, ho, hp _ _ _ hi]
        by_cases hl : l = i
        · subst hl; simp [hg]
        · simp [hl]
      · rw [if_neg hg]
        by_cases hz : zeroing = true
        · rw [if_pos hz, hp _ _ _ hi]
          by_cases hl : l = i
          · subst hl; simp [hg, hz]
          · simp [hl]
        · rw [if_neg hz]
          by_cases hl : l = i
          · subst hl; simp [hg, hz]
          · simp [hl]
    by_cases hl : l = i
    · subst hl
      rw [if_neg hn.1, one]; simp
    · rw [one, if_neg hl]
      by_cases hr : l ∈ r
      · rw [if_pos hr, if_pos (List.mem_cons_of_mem _ hr)]
      · rw [if_neg hr, if_neg (by simp [hl, hr])]

/-- The exceptions of the lanes. -/
theorem laneEffect_flags {α : Type} (guard : Mask) (zeroing : Bool) (lanes : List Nat)
    (put : Warp → Nat → α → Warp) (zero : α) (x : Nat → α) (fl : Nat → FpFlags) (w : Warp) (l : Nat) (hn : lanes.Nodup)
    (hp : ∀ a i v, (put a i v).fpflags = a.fpflags) :
    Assoc.get (lanes.foldl (laneEffect guard zeroing put zero x fl) w).fpflags 0 l =
      if l ∈ lanes ∧ guard.getLsbD l = true then Assoc.get w.fpflags 0 l ||| fl l else Assoc.get w.fpflags 0 l := by
  induction lanes generalizing w with
  | nil => simp
  | cons i r ih =>
    simp only [List.nodup_cons] at hn
    rw [List.foldl_cons, ih _ hn.2]
    have one : Assoc.get (laneEffect guard zeroing put zero x fl w i).fpflags 0 l =
        if l = i ∧ guard.getLsbD l = true then Assoc.get w.fpflags 0 l ||| fl l else Assoc.get w.fpflags 0 l := by
      unfold laneEffect
      by_cases hg : guard.getLsbD i = true
      · rw [if_pos hg]
        simp only [Warp.orFlags, hp]
        rw [Assoc.get_set]
        by_cases hl : l = i
        · subst hl; simp [hg]
        · simp [hl]
      · rw [if_neg hg]
        have : Assoc.get (if zeroing then put w i zero else w).fpflags 0 l = Assoc.get w.fpflags 0 l := by
          split <;> simp [hp]
        rw [this]
        by_cases hl : l = i
        · subst hl; simp [hg]
        · simp [hl]
    rw [one]
    by_cases hl : l = i
    · subst hl
      simp [hn.1]
    · simp [hl]

/-! ## Once per warp -/

theorem orFlagsOf_withRegs (w : Warp) (ls : List Nat) (f : FpFlags) : w.orFlagsOf ls f = w.withRegs (w.orFlagsOf ls f) := by
  unfold Warp.orFlagsOf
  induction ls generalizing w with
  | nil => rfl
  | cons i r ih => exact Warp.withRegs_trans (w.orFlags_withRegs i f) (ih _)

theorem rd_orFlagsOf (w : Warp) (ls : List Nat) (f : FpFlags) (r : Code) (l : Nat) : (w.orFlagsOf ls f).rd r l = w.rd r l := by
  unfold Warp.orFlagsOf
  induction ls generalizing w with
  | nil => rfl
  | cons i t ih => rw [List.foldl_cons, ih]; rfl

theorem flags_orFlagsOf (w : Warp) (ls : List Nat) (f : FpFlags) (l : Nat) :
    Assoc.get (w.orFlagsOf ls f).fpflags 0 l = if l ∈ ls then Assoc.get w.fpflags 0 l ||| f else Assoc.get w.fpflags 0 l := by
  unfold Warp.orFlagsOf
  induction ls generalizing w with
  | nil => simp
  | cons i r ih =>
    rw [List.foldl_cons, ih]
    simp only [Warp.orFlags]
    rw [Assoc.get_set]
    by_cases hl : l = i
    · subst hl
      by_cases hr : l ∈ r
      · simp [hr, BitVec.or_assoc]
      · simp [hr]
    · by_cases hr : l ∈ r <;> simp [hl, hr]

/-! ## A run of the lanes ends in a retirement -/

theorem retireWith_plain {s : State} {c : Cur} {w : Warp} (hw : s.warp? c.w = some w) (hd : s.debugOn w = false)
    (f : Warp → Warp) (hf : f w = w.withRegs (f w)) :
    s.retireWith c f = s.setWarp c.w ((w.afterRetire c false).withRegs (f w)) := by
  unfold State.retireWith
  rw [State.updWarp_eq_setWarp _ _ _ w hw]
  have h1 : (s.setWarp c.w (f w)).warp? c.w = some (f w) := by
    simpa [State.setWarp] using State.warp?_updWarp_self s c.w (fun _ => f w) w hw
  have h2 : (s.setWarp c.w (f w)).debugOn (f w) = false := by
    rw [hf]; exact hd
  rw [State.retire_plain _ _ _ h1 h2, State.setWarp_setWarp]
  congr 1
  conv_lhs => rw [hf]
  exact Warp.afterRetire_withRegs _ _ _ _

theorem finishLanes_plain {s : State} {c : Cur} {w x : Warp} (hw : s.warp? c.w = some w) (hd : s.debugOn w = false)
    (hx : x = w.withRegs x) :
    s.finishLanes c (x, []) = s.setWarp c.w ((w.afterRetire c false).withRegs x) := by
  have := retireWith_plain hw hd (fun _ => x) hx
  simp only [State.retireWith] at this
  simpa [State.finishLanes, joinCauses, firstCause, State.setWarp] using this

/-! ## The three shapes -/

/-- Where a word destination is written: a uniform or mask destination once, a lane destination lane by lane. -/
def OnceFits (d : Code) (once : Bool) : Prop :=
  match classOf d with
  | .lane => once = false
  | .uniform => once = true
  | .mask => once = true
  | _ => True

theorem onceFits_onceR (d : Code) (srcs : List Code) : OnceFits d (onceR d srcs) := by
  unfold OnceFits onceR; split <;> simp_all

theorem runWord_ready {i : Instr} {pf : Option Prefix} {d : Code} {once : Bool} {s : State} {c : Cur} {w : Warp}
    {F : Warp → Nat → Res Word} {f : Nat → Word} {fl : Nat → FpFlags} (h : Ready i .none s c w) (hp : Plain s w)
    (ho : OnceFits d once) (h1 : once = true → F w 0 = .ok (f 0) (fl 0))
    (h2 : once = false → ∀ l, w.runs pf c.lanes l = true → F w l = .ok (f l) (fl l)) :
    ∃ w' : Warp, runWord i pf once d s F = .next (s.setWarp c.w w') ∧ w' = (w.afterRetire c false).withRegs w' ∧
      (∀ r l, l < 32 → w'.rd r l = w.afterWord pf c.lanes d f r l) ∧
      (∀ l, l < 32 → Assoc.get w'.fpflags 0 l = w.afterFlags pf c.lanes once fl l) := by
  unfold runWord runOp
  rw [issue_ready h]
  cases once with
  | true =>
    simp only [if_true]
    rw [h1 rfl]
    dsimp only
    have hr : (fun w => (putWord d w 0 (f 0)).orFlagsOf c.lanes.lanes (fl 0)) w =
        w.withRegs ((fun w => (putWord d w 0 (f 0)).orFlagsOf c.lanes.lanes (fl 0)) w) :=
      Warp.withRegs_trans (w.wr_withRegs d 0 (f 0)) (orFlagsOf_withRegs _ _ _)
    rw [retireWith_plain h.warp hp.debug _ hr]
    refine ⟨_, rfl, rfl, ?_, ?_⟩
    · intro r l hl
      rw [Warp.rd_withRegs, rd_orFlagsOf]
      unfold putWord
      rw [Warp.rd_wr _ _ _ _ _ _ (by omega) hl]
      unfold Warp.afterWord
      by_cases hrd : r = d
      · rw [if_pos hrd, if_pos hrd]
        unfold OnceFits at ho
        split <;> simp_all
      · rw [if_neg hrd, if_neg hrd]
    · intro l hl
      show Assoc.get ((w.wr d 0 (f 0)).orFlagsOf c.lanes.lanes (fl 0)).fpflags 0 l = _
      rw [flags_orFlagsOf, Warp.wr_fpflags]
      unfold Warp.afterFlags
      simp only [if_true, mem_lanes, hl, true_and]
  | false =>
    simp only [Bool.false_eq_true, if_false]
    rw [Warp.laneRun_ok w _ _ _ _ _ _ _ f fl hp.sound ?_]
    · have hx := laneEffect_keeps (fun a => a = w.withRegs a) (w.guardOf pf) (w.zeroPolicy pf) c.lanes.lanes (putWord d) 0 f fl w
        rfl (fun a i v _ ha => Warp.withRegs_trans ha (a.wr_withRegs d i v)) (fun a i v ha => Warp.withRegs_trans ha (a.orFlags_withRegs i v))
      rw [finishLanes_plain h.warp hp.debug hx]
      refine ⟨_, rfl, rfl, ?_, ?_⟩
      · intro r l hl
        rw [Warp.rd_withRegs]
        by_cases hrd : r = d
        · subst hrd
          unfold OnceFits at ho
          unfold Warp.afterWord
          rw [if_pos rfl]
          split <;> rename_i hc
          · rw [laneEffect_view (fun a l => a.rd r l) id (w.guardOf pf) (w.zeroPolicy pf) c.lanes.lanes (putWord r) 0 f fl w l
              (lanes_nodup _) (fun i hi => (mem_lanes.mp hi).1) ?_ (fun _ _ _ => rfl)]
            · unfold Warp.runs Warp.zeroed
              simp only [mem_lanes, hl, true_and]
              cases c.lanes.getLsbD l <;> cases (w.guardOf pf).getLsbD l <;> cases w.zeroPolicy pf <;> simp
            · intro a i v hi
              show (a.wr r i v).rd r l = _
              rw [Warp.rd_wr _ _ _ _ _ _ hi hl, if_pos rfl, hc]; simp
          · simp [hc] at ho
          · simp [hc] at ho
          · refine laneEffect_keeps (fun a => a.rd r l = w.rd r l) (w.guardOf pf) (w.zeroPolicy pf) c.lanes.lanes (putWord r) 0 f fl w
              rfl ?_ (fun _ _ _ ha => ha)
            intro a i v _ ha
            show (a.wr r i v).rd r l = _
            rw [← ha]
            unfold Warp.wr
            split <;> simp_all
        · unfold Warp.afterWord
          rw [if_neg hrd]
          refine laneEffect_keeps (fun a => a.rd r l = w.rd r l) (w.guardOf pf) (w.zeroPolicy pf) c.lanes.lanes (putWord d) 0 f fl w
              rfl ?_ (fun _ _ _ ha => ha)
          intro a i v hi ha
          rw [← ha]
          show (a.wr d i v).rd r l = _
          rw [Warp.rd_wr _ _ _ _ _ _ (mem_lanes.mp hi).1 hl, if_neg hrd]
      · intro l hl
        show Assoc.get (List.foldl _ w _).fpflags 0 l = _
        rw [laneEffect_flags _ _ _ (putWord d) _ _ _ _ _ (lanes_nodup _) (fun a i v => a.wr_fpflags d i v)]
        unfold Warp.afterFlags Warp.runs
        simp only [mem_lanes, hl, true_and]
        cases c.lanes.getLsbD l <;> cases (w.guardOf pf).getLsbD l <;> simp
    · intro l hl hg
      refine h2 rfl l ?_
      unfold Warp.runs
      rw [(mem_lanes.mp hl).2, hg]; rfl

theorem Warp.wrPair_fpflags (w : Warp) (d : Code) (i : Nat) (x : DWord) : (w.wrPair d i x).fpflags = w.fpflags := by
  unfold Warp.wrPair; rw [Warp.wr_fpflags, Warp.wr_fpflags]

theorem nextCode_ne {d : Code} (h : d ≠ 0xFF) : nextCode d 1 ≠ d := by
  unfold nextCode; rw [if_neg h]
  intro e
  have := congrArg BitVec.toNat e
  simp at this
  have h2 : d.toNat < 256 := d.isLt
  have h3 : d.toNat ≠ 255 := fun h3 => h (by apply BitVec.eq_of_toNat_eq; simpa using h3)
  omega

/-- The second register of an even pair is of the pair's class. -/
theorem classOf_nextCode {d : Code} (h : d.toNat % 2 = 0) (h' : classOf d = .lane ∨ classOf d = .uniform) :
    classOf (nextCode d 1) = classOf d := by
  have hlt : d.toNat < 0xC0 := by
    rcases h' with h' | h'
    · have := classOf_lane.mp h'; omega
    · exact (classOf_uniform.mp h').2
  have hne : d ≠ 0xFF := by intro e; subst e; simp at hlt
  have hn : (nextCode d 1).toNat = d.toNat + 1 := by
    unfold nextCode; rw [if_neg hne]; simp; omega
  rcases h' with h' | h'
  · rw [h']; have := classOf_lane.mp h'; exact classOf_lane.mpr (by omega)
  · rw [h']; have := classOf_uniform.mp h'; exact classOf_uniform.mpr (by omega)

theorem runPair_ready {i : Instr} {pf : Option Prefix} {d : Code} {once : Bool} {s : State} {c : Cur} {w : Warp}
    {F : Warp → Nat → Res DWord} {f : Nat → DWord} (h : Ready i .none s c w) (hp : Plain s w)
    (ho : OnceFits d once) (hd : classOf d = .lane ∨ classOf d = .uniform ∨ d = 0xFF) (he : d.toNat % 2 = 0 ∨ d = 0xFF)
    (h1 : once = true → F w 0 = .ok (f 0) 0)
    (h2 : once = false → ∀ l, w.runs pf c.lanes l = true → F w l = .ok (f l) 0) :
    ∃ w' : Warp, runPair i pf once d s F = .next (s.setWarp c.w w') ∧ w' = (w.afterRetire c false).withRegs w' ∧
      (∀ r l, l < 32 → w'.rd r l = w.afterPair pf c.lanes d f r l) ∧
      (∀ l, l < 32 → Assoc.get w'.fpflags 0 l = Assoc.get w.fpflags 0 l) := by
  unfold runPair runOp
  rw [issue_ready h]
  have hclass : d ≠ 0xFF → (classOf d = .lane ∨ classOf d = .uniform) ∧ classOf (nextCode d 1) = classOf d := by
    intro hz
    have hc : classOf d = .lane ∨ classOf d = .uniform := by
      rcases hd with hd | hd | hd
      · exact .inl hd
      · exact .inr hd
      · exact absurd hd hz
    exact ⟨hc, classOf_nextCode (by rcases he with he | he; exact he; exact absurd he hz) hc⟩
  have hzero : ∀ (a : Warp) (i : Nat) (v : DWord), a.wrPair 0xFF i v = a := fun a i v => rfl
  cases once with
  | true =>
    simp only [if_true]
    rw [h1 rfl]
    dsimp only
    have hr : (fun w => (putPair d w 0 (f 0)).orFlagsOf c.lanes.lanes 0) w =
        w.withRegs ((fun w => (putPair d w 0 (f 0)).orFlagsOf c.lanes.lanes 0) w) :=
      Warp.withRegs_trans (w.wrPair_withRegs d 0 (f 0)) (orFlagsOf_withRegs _ _ _)
    rw [retireWith_plain h.warp hp.debug _ hr]
    refine ⟨_, rfl, rfl, ?_, ?_⟩
    · intro r l hl
      rw [Warp.rd_withRegs, rd_orFlagsOf]
      by_cases hz : d = 0xFF
      · subst hz
        show w.rd r l = _
        simp [Warp.afterPair]
      · obtain ⟨hc, hn⟩ := hclass hz
        have hu : classOf d = .uniform := by
          rcases hc with hc | hc
          · unfold OnceFits at ho; simp [hc] at ho
          · exact hc
        unfold putPair Warp.wrPair Warp.afterPair
        rw [Warp.rd_wr _ _ _ _ _ _ (by omega) hl, hn, hu]
        by_cases hrd : r = d
        · subst hrd
          rw [if_neg (nextCode_ne hz).symm, if_pos ⟨rfl, hz⟩, Warp.rd_wr _ _ _ _ _ _ (by omega) hl, hu]
          simp [Warp.afterWord, hu]
        · by_cases hrn : r = nextCode d 1
          · subst hrn
            have hz' : ¬d = 255#8 := hz
            simp [hz', nextCode_ne hz, Warp.afterWord, hn, hu]
          · rw [if_neg hrn, if_neg (by tauto), if_neg (by tauto), Warp.rd_wr _ _ _ _ _ _ (by omega) hl, if_neg hrd]
    · intro l hl
      show Assoc.get ((w.wrPair d 0 (f 0)).orFlagsOf c.lanes.lanes 0).fpflags 0 l = _
      rw [flags_orFlagsOf, Warp.wrPair_fpflags]
      split <;> simp
  | false =>
    simp only [Bool.false_eq_true, if_false]
    rw [Warp.laneRun_ok w _ _ _ _ _ _ _ f (fun _ => 0) hp.sound ?_]
    · have hx := laneEffect_keeps (fun a => a = w.withRegs a) (w.guardOf pf) (w.zeroPolicy pf) c.lanes.lanes (putPair d) 0 f
        (fun _ => 0) w rfl (fun a i v _ ha => Warp.withRegs_trans ha (a.wrPair_withRegs d i v))
        (fun a i v ha => Warp.withRegs_trans ha (a.orFlags_withRegs i v))
      rw [finishLanes_plain h.warp hp.debug hx]
      refine ⟨_, rfl, rfl, ?_, ?_⟩
      · intro r l hl
        rw [Warp.rd_withRegs]
        by_cases hz : d = 0xFF
        · subst hz
          rw [show w.afterPair pf c.lanes 0xFF f r l = w.rd r l by simp [Warp.afterPair]]
          exact laneEffect_keeps (fun a => a.rd r l = w.rd r l) (w.guardOf pf) (w.zeroPolicy pf) c.lanes.lanes (putPair 0xFF) 0 f
            (fun _ => 0) w rfl (fun a i v _ ha => ha) (fun _ _ _ ha => ha)
        · obtain ⟨hc, hn⟩ := hclass hz
          have hu : classOf d = .lane := by
            rcases hc with hc | hc
            · exact hc
            · unfold OnceFits at ho; simp [hc] at ho
          unfold Warp.afterPair
          by_cases hrd : r = d
          · subst hrd
            rw [if_pos ⟨rfl, hz⟩]
            rw [laneEffect_view (fun a l => a.rd r l) DWord.lo (w.guardOf pf) (w.zeroPolicy pf) c.lanes.lanes (putPair r) 0 f
              (fun _ => 0) w l (lanes_nodup _) (fun i hi => (mem_lanes.mp hi).1) ?_ (fun _ _ _ => rfl)]
            · unfold Warp.afterWord Warp.runs Warp.zeroed
              rw [if_pos rfl, hu]
              simp only [mem_lanes, hl, true_and]
              cases c.lanes.getLsbD l <;> cases (w.guardOf pf).getLsbD l <;> cases w.zeroPolicy pf <;> simp [DWord.lo]
            · intro a i v hi
              show ((a.wr r i v.lo).wr (nextCode r 1) i v.hi).rd r l = _
              rw [Warp.rd_wr _ _ _ _ _ _ hi hl, if_neg (nextCode_ne hz).symm, Warp.rd_wr _ _ _ _ _ _ hi hl, if_pos rfl, hu]
          · rw [if_neg (by tauto)]
            by_cases hrn : r = nextCode d 1
            · rw [if_pos ⟨hrn, hz⟩]
              have hcr : classOf r = .lane := by rw [hrn, hn, hu]
              rw [laneEffect_view (fun a l => a.rd r l) DWord.hi (w.guardOf pf) (w.zeroPolicy pf) c.lanes.lanes (putPair d) 0 f
                (fun _ => 0) w l (lanes_nodup _) (fun i hi => (mem_lanes.mp hi).1) ?_ (fun _ _ _ => rfl)]
              · unfold Warp.afterWord Warp.runs Warp.zeroed
                rw [if_pos rfl, hcr]
                simp only [mem_lanes, hl, true_and]
                cases c.lanes.getLsbD l <;> cases (w.guardOf pf).getLsbD l <;> cases w.zeroPolicy pf <;> simp [DWord.hi]
              · intro a i v hi
                show ((a.wr d i v.lo).wr (nextCode d 1) i v.hi).rd r l = _
                rw [← hrn, Warp.rd_wr _ _ _ _ _ _ hi hl, if_pos rfl, hcr]
                dsimp only
                rw [Warp.rd_wr _ _ _ _ _ _ hi hl, if_neg hrd]
            · rw [if_neg (by tauto)]
              refine laneEffect_keeps (fun a => a.rd r l = w.rd r l) (w.guardOf pf) (w.zeroPolicy pf) c.lanes.lanes (putPair d) 0 f
                (fun _ => 0) w rfl ?_ (fun _ _ _ ha => ha)
              intro a i v hi ha
              rw [← ha]
              show ((a.wr d i v.lo).wr (nextCode d 1) i v.hi).rd r l = _
              rw [Warp.rd_wr _ _ _ _ _ _ (mem_lanes.mp hi).1 hl, if_neg hrn, Warp.rd_wr _ _ _ _ _ _ (mem_lanes.mp hi).1 hl,
                if_neg hrd]
      · intro l hl
        show Assoc.get (List.foldl _ w _).fpflags 0 l = _
        rw [laneEffect_flags _ _ _ (putPair d) _ _ _ _ _ (lanes_nodup _) (fun a i v => a.wrPair_fpflags d i v)]
        split <;> simp
    · intro l hl hg
      refine h2 rfl l ?_
      unfold Warp.runs
      rw [(mem_lanes.mp hl).2, hg]; rfl

/-! ## Compares -/

theorem Warp.rd_mask (w : Warp) (d : Code) (l : Nat) (h : classOf d = .mask) :
    w.rd d l = if d = 0xC0 then Mask.full else Assoc.get w.m 0 (d.toNat - 0xC0) := by
  unfold Warp.rd; rw [h]

theorem bit_getLsbD (i l : Nat) (hl : l < 32) : (Mask.bit i).getLsbD l = decide (l = i) := by
  unfold Mask.bit
  rw [BitVec.getLsbD_ofNat]
  simp [hl, Nat.testBit_two_pow, eq_comm]

/-- One bit of a mask register after a lane's bit is written. -/
theorem Warp.wrBit_bit (w : Warp) (d : Code) (i l : Nat) (b : Bool) (hi : i < 32) (hl : l < 32)
    (hd : classOf d = .mask) (h0 : d ≠ 0xC0) :
    ((w.wrBit d i b).rd d 0).getLsbD l = if l = i then b else (w.rd d 0).getLsbD l := by
  have hm := classOf_mask.mp hd
  have hne : d.toNat - 0xC0 ≠ 0 := by
    intro e; exact h0 (by apply BitVec.eq_of_toNat_eq; simp; omega)
  have hold : w.maskReg (d.toNat - 0xC0) = w.rd d 0 := by
    rw [Warp.rd_mask _ _ _ hd, if_neg h0]; unfold Warp.maskReg; rw [if_neg hne]
  unfold Warp.wrBit
  dsimp only
  rw [hd]; dsimp only
  rw [Warp.rd_wr _ _ _ _ _ _ hi (by omega), if_pos rfl, hd]
  dsimp only
  rw [if_neg h0, hold]
  cases b with
  | true =>
    simp only [if_true, BitVec.getLsbD_or, bit_getLsbD i l hl]
    by_cases h : l = i <;> simp [h]
  | false =>
    simp only [Bool.false_eq_true, if_false, BitVec.getLsbD_and, BitVec.getLsbD_not, bit_getLsbD i l hl]
    by_cases h : l = i
    · simp [h]
    · simp [h, hl]

theorem Warp.rd_wrBit_other (w : Warp) (d r : Code) (i l : Nat) (b : Bool) (hi : i < 32) (hl : l < 32)
    (h : r ≠ d ∨ d = 0xC0 ∨ classOf d ≠ .mask) : (w.wrBit d i b).rd r l = w.rd r l := by
  unfold Warp.wrBit
  dsimp only
  split <;> rename_i hd
  · rw [Warp.rd_wr _ _ _ _ _ _ hi hl]
    split <;> rename_i hr
    · rw [hd]; dsimp only
      subst hr
      rcases h with h | h | h
      · exact absurd rfl h
      · rw [if_pos h]
      · exact absurd hd h
    · rfl
  · rfl

theorem Warp.wrBit_fpflags (w : Warp) (d : Code) (i : Nat) (b : Bool) : (w.wrBit d i b).fpflags = w.fpflags := by
  unfold Warp.wrBit; dsimp only; split
  · exact w.wr_fpflags _ _ _
  · rfl

theorem runBit_ready {i : Instr} {pf : Option Prefix} {d : Code} {s : State} {c : Cur} {w : Warp}
    {F : Warp → Nat → Res Bool} {f : Nat → Bool} {fl : Nat → FpFlags} (h : Ready i .none s c w) (hp : Plain s w)
    (h2 : ∀ l, w.runs pf c.lanes l = true → F w l = .ok (f l) (fl l)) :
    ∃ w' : Warp, runBit i pf d s F = .next (s.setWarp c.w w') ∧ w' = (w.afterRetire c false).withRegs w' ∧
      (∀ r l, l < 32 → (r ≠ d ∨ d = 0xC0 ∨ classOf d ≠ .mask) → w'.rd r l = w.rd r l) ∧
      (classOf d = .mask → d ≠ 0xC0 → ∀ l, l < 32 → (w'.rd d 0).getLsbD l = w.afterBits pf c.lanes d f l) ∧
      (∀ l, l < 32 → Assoc.get w'.fpflags 0 l = w.afterFlags pf c.lanes false fl l) := by
  unfold runBit runOp
  rw [issue_ready h]
  simp only [Bool.false_eq_true, if_false]
  rw [Warp.laneRun_ok w _ _ _ _ _ _ _ f fl hp.sound ?_]
  · have hx := laneEffect_keeps (fun a => a = w.withRegs a) (w.guardOf pf) (w.zeroPolicy pf) c.lanes.lanes (putBit d) false f fl w
      rfl (fun a i v _ ha => Warp.withRegs_trans ha (a.wrBit_withRegs d i v)) (fun a i v ha => Warp.withRegs_trans ha (a.orFlags_withRegs i v))
    rw [finishLanes_plain h.warp hp.debug hx]
    refine ⟨_, rfl, rfl, ?_, ?_, ?_⟩
    · intro r l hl hr
      rw [Warp.rd_withRegs]
      refine laneEffect_keeps (fun a => a.rd r l = w.rd r l) (w.guardOf pf) (w.zeroPolicy pf) c.lanes.lanes (putBit d) false f fl w
        rfl ?_ (fun _ _ _ ha => ha)
      intro a i v hi ha
      rw [← ha]
      exact Warp.rd_wrBit_other _ _ _ _ _ _ (mem_lanes.mp hi).1 hl hr
    · intro hd h0 l hl
      rw [Warp.rd_withRegs]
      rw [laneEffect_view (fun a l => (a.rd d 0).getLsbD l) id (w.guardOf pf) (w.zeroPolicy pf) c.lanes.lanes (putBit d) false f fl w l
        (lanes_nodup _) (fun i hi => (mem_lanes.mp hi).1) ?_ (fun _ _ _ => rfl)]
      · unfold Warp.afterBits Warp.runs Warp.zeroed
        simp only [mem_lanes, hl, true_and]
        cases c.lanes.getLsbD l <;> cases (w.guardOf pf).getLsbD l <;> cases w.zeroPolicy pf <;> simp
      · intro a i v hi
        exact Warp.wrBit_bit _ _ _ _ _ hi hl hd h0
    · intro l hl
      show Assoc.get (List.foldl _ w _).fpflags 0 l = _
      rw [laneEffect_flags _ _ _ (putBit d) _ _ _ _ _ (lanes_nodup _) (fun a i v => a.wrBit_fpflags d i v)]
      unfold Warp.afterFlags Warp.runs
      simp only [mem_lanes, hl, true_and]
      cases c.lanes.getLsbD l <;> cases (w.guardOf pf).getLsbD l <;> simp
  · intro l hl hg
    refine h2 l ?_
    unfold Warp.runs
    rw [(mem_lanes.mp hl).2, hg]; rfl

end Sys2Proof.Machine
end

