-- ==== Sys2Proof/Laws/Memory.lean ====
section
/-!
SUPPORT. The shared storage operations keep memory in its canonical form. Each lemma says it once for every caller.
-/
namespace Sys2Proof.Machine

/-! ## Lists of cells -/

/-- Cells chosen from a memory in canonical form are in canonical form. -/
theorem Memory.wf_filter (m : Memory) (f : Nat × Byte → Bool) (h : Memory.wf m = true) : Memory.wf (m.filter f) = true := by
  simp only [Memory.wf, Bool.and_eq_true, List.all_eq_true] at h ⊢
  refine ⟨?_, fun c hc => h.2 c (List.mem_filter.mp hc).1⟩
  have hr := h.1
  clear h
  induction m with
  | nil => rfl
  | cons e r ih =>
    obtain ⟨i, x⟩ := e
    obtain ⟨ha, hr⟩ := (Memory.rising_cons i x r).mp hr
    rw [List.filter_cons]
    split
    · exact (Memory.rising_cons _ _ _).mpr ⟨fun c hc => ha c (List.mem_filter.mp hc).1, ih hr⟩
    · exact ih hr

/-- A fold of operations that each keep a property keeps it. -/
theorem foldl_keeps {α β : Type} (P : β → Prop) (f : β → α → β) (hf : ∀ b a, P b → P (f b a)) (l : List α) (b : β)
    (h : P b) : P (l.foldl f b) := by
  induction l generalizing b with
  | nil => exact h
  | cons a r ih => exact ih _ (hf _ _ h)

/-! ## Operations that leave memory alone -/

@[simp] theorem State.mem_updWarp (s : State) (k : Nat) (f : Warp → Warp) : (s.updWarp k f).mem = s.mem := rfl
@[simp] theorem State.mem_setWarp (s : State) (k : Nat) (w : Warp) : (s.setWarp k w).mem = s.mem := rfl
@[simp] theorem State.mem_updPath (s : State) (k p : Nat) (f : Path → Path) : (s.updPath k p f).mem = s.mem := rfl
@[simp] theorem State.mem_updCore (s : State) (c : Nat) (f : CoreState → CoreState) : (s.updCore c f).mem = s.mem := rfl
@[simp] theorem State.mem_updCtx (s : State) (a : Nat) (f : Ctx → Ctx) : (s.updCtx a f).mem = s.mem := rfl
@[simp] theorem State.mem_updTeam (s : State) (t : Nat) (f : Team → Team) : (s.updTeam t f).mem = s.mem := rfl
@[simp] theorem State.mem_updGroup (s : State) (t g : Nat) (f : Group → Group) : (s.updGroup t g f).mem = s.mem := rfl
@[simp] theorem State.mem_updLaunch (s : State) (l : Nat) (f : Launch → Launch) : (s.updLaunch l f).mem = s.mem := rfl
@[simp] theorem State.mem_takeFree (s : State) : s.takeFree.mem = s.mem := rfl
@[simp] theorem State.mem_setPoison (s : State) (g : Nat) (b : Bool) : (s.setPoison g b).mem = s.mem := rfl
@[simp] theorem State.mem_loseStamps (s : State) (p : Place) : (s.loseStamps p).mem = s.mem := rfl

@[simp] theorem State.mem_postMiss (s : State) (t line : Nat) (team l1 : Option Nat) (quiet : Bool) :
    (s.postMiss t line team l1 quiet).mem = s.mem := by
  unfold State.postMiss; split <;> rfl

@[simp] theorem State.mem_enterTlb (s : State) (e : TlbEntry) : (s.enterTlb e).mem = s.mem := by
  unfold State.enterTlb; dsimp only; split
  · rfl
  · split <;> rfl

@[simp] theorem State.mem_fillL1 (s : State) (c : Nat) (l : L2Line) : (s.fillL1 c l).mem = s.mem := by
  unfold State.fillL1; dsimp only; split
  · rfl
  · split <;> rfl

@[simp] theorem State.mem_fillL1s (s : State) (cs : List Nat) (t line : Nat) : (s.fillL1s cs t line).mem = s.mem := by
  unfold State.fillL1s
  split
  · rfl
  · exact foldl_keeps (fun q : State => q.mem = s.mem) _ (fun q c h => (q.mem_fillL1 c _).trans h) cs s rfl

@[simp] theorem State.mem_trimL1 (s : State) (c : Nat) : (s.trimL1 c).mem = s.mem := rfl
@[simp] theorem State.mem_updPinned (s : State) (c k : Nat) (f : Pinned → Pinned) : (s.updPinned c k f).mem = s.mem := rfl
@[simp] theorem State.mem_makePresent (s : State) (c k pa : Nat) (maps : List (Nat × Nat)) :
    (s.makePresent c k pa maps).mem = s.mem := rfl
@[simp] theorem State.mem_useTlb (s : State) (t va : Nat) : (s.useTlb t va).mem = s.mem := rfl
@[simp] theorem State.mem_wake (s : State) (b : Block) : (s.wake b).mem = s.mem := rfl
@[simp] theorem State.mem_wakeAll (s : State) (bs : List Block) : (s.wakeAll bs).mem = s.mem :=
  foldl_keeps (fun q : State => q.mem = s.mem) (fun (q : State) b => q.wake b) (fun _ _ h => h) bs s rfl
@[simp] theorem State.mem_answered (s : State) (core : Option Nat) (h : Hit) : (s.answered core h).mem = s.mem := rfl
@[simp] theorem State.mem_wakeFor (s : State) (core : Option Nat) (h : Hit) : (s.wakeFor core h).mem = s.mem := by
  simp [State.wakeFor]
@[simp] theorem State.mem_wakeWalk (s : State) (t va : Nat) : (s.wakeWalk t va).mem = s.mem := by
  unfold State.wakeWalk; split <;> simp
@[simp] theorem State.mem_ask (s : State) (core : Option Nat) (h : Hit) : (s.ask core h).mem = s.mem := by
  unfold State.ask; split <;> rfl
@[simp] theorem State.mem_waitSlot (s : State) (t line : Nat) (team : Option Nat) (r : WalkResult) :
    (s.waitSlot t line team r).mem = s.mem := rfl

@[simp] theorem State.mem_usedAt (s : State) (asid va : Nat) (h : Hit) : (s.usedAt asid va h).mem = s.mem := by
  unfold State.usedAt; split <;> rfl

@[simp] theorem State.mem_wayUsed (s : State) (core : Option Nat) (h : Hit) : (s.wayUsed core h).mem = s.mem := by
  unfold State.wayUsed; split <;> rfl

@[simp] theorem State.mem_acceptLeaf (s : State) (t va base size pa : Nat) (attr : DWord) :
    (s.acceptLeaf t va base size pa attr).2.mem = s.mem := by
  unfold State.acceptLeaf; dsimp only
  repeat' (first | split | simp)

@[simp] theorem State.mem_translateMiss (s : State) (k : Nat) (m : Miss) : (s.translateMiss k m).mem = s.mem := by
  unfold State.translateMiss; dsimp only; split <;> simp

@[simp] theorem State.mem_enterClearance (s : State) (c t : Nat) (a : DWord) (bits : Nat) :
    (s.enterClearance c t a bits).mem = s.mem := rfl

theorem State.mem_setPoisons {α : Type} (l : List α) (g : α → Nat) (b : α → Bool) (s : State) :
    (l.foldl (fun (q : State) i => q.setPoison (g i) (b i)) s).mem = s.mem :=
  foldl_keeps (fun q : State => q.mem = s.mem) (fun (q : State) i => q.setPoison (g i) (b i)) (fun _ _ h => h) l s rfl

end Sys2Proof.Machine

namespace Sys2Proof
open Machine

/-! ## Operations that write memory -/

/-- Two states with the same memory are sound together. -/
theorem Sound.of_mem {s t : State} (h : Sound s) (e : t.mem = s.mem) : Sound t := by
  unfold Sound at *; rw [e]; exact h

/-- Writing a line back keeps memory canonical (R219). -/
theorem Sound.writeBack {s : State} (h : Sound s) (l : L2Line) : Sound (s.writeBack l) := by
  unfold State.writeBack
  split
  · refine Sound.of_mem (s := { s with mem := Memory.writeBytes s.mem l.pa l.data }) ?_
      (State.mem_setPoisons _ (fun i => l.pa / 32 + i) (fun i => l.poison.getLsbD i) _)
    exact Memory.wf_writeBytes _ _ _ h
  · exact h

/-- Dropping a line keeps memory canonical. -/
theorem Sound.dropLine {s : State} (h : Sound s) (l : L2Line) : Sound (s.dropLine l) := by
  exact (h.writeBack l).of_mem rfl

theorem Sound.makeRoom {s : State} (h : Sound s) (slice : Nat) : Sound (s.makeRoom slice) := by
  unfold State.makeRoom; dsimp only
  split
  · exact h
  · split
    · exact Sound.dropLine (Sound.of_mem h (State.mem_takeFree s)) _
    · exact h

/-- Filling a line keeps memory canonical (R215). -/
theorem Sound.fillLine {s : State} (h : Sound s) (t line : Nat) (e : TlbEntry) (l1 : List Nat) :
    Sound (s.fillLine t line e l1) :=
  (h.makeRoom (homeSlice t line)).of_mem (by simp [State.fillLine])

/-- A present page written back keeps memory canonical (R216). -/
theorem Sound.dropPinned {s : State} (h : Sound s) (p : Pinned) : Sound (s.dropPinned p) := by
  unfold State.dropPinned Sound
  rw [State.mem_loseStamps, State.mem_setPoisons (numsFrom 0 2048) (fun g => p.pa / 32 + g) p.badGranule]
  exact foldl_keeps (fun m : Memory => Memory.wf m = true) (fun (m : Memory) (e : Nat × Byte) => Memory.write m (p.pa + e.1) e.2)
    (fun m e hm => Memory.wf_write m _ _ hm) _ _ (Memory.wf_filter _ _ h)

theorem Sound.answerMiss {s : State} (h : Sound s) (k : Nat) (m : Miss) (e : TlbEntry) : Sound (s.answerMiss k m e) := by
  have h1 : Sound { s with misses := Assoc.erase s.misses k } := h.of_mem rfl
  unfold State.answerMiss; dsimp only
  repeat' (first | exact h1 | (refine h1.of_mem ?_; simp; done) | exact h1.fillLine _ _ _ _ | split)

theorem Sound.resolveTlb {s : State} (h : Sound s) (asid : Nat) (team : Option Nat) (va t line : Nat) (e : TlbEntry) :
    Sound (s.resolveTlb asid team va t line e).2 := by
  unfold State.resolveTlb
  repeat' (first | exact h | exact h.of_mem rfl | exact h.fillLine _ _ _ _ | split)

/-- An access within a step keeps memory canonical. -/
theorem Sound.resolveAs {s : State} (h : Sound s) (owned : Bool) (asid : Nat) (team : Option Nat) (va : Nat) :
    Sound (s.resolveAs owned asid team va).2 := by
  unfold State.resolveAs
  split
  · exact h.of_mem (by simp)
  · exact h
  · exact h
  · rename_i t line _
    extract_lets busy
    clear_value busy
    split
    · exact h
    · split
      · exact Sound.resolveTlb (s := s.useTlb t va) (h.of_mem rfl) _ _ _ _ _ _
      · have hw : Sound (s.wakeWalk t va) := h.of_mem (by simp)
        rename_i _ u _ _ _
        have hw : Sound u := hw
        clear_value u
        split
        · exact hw
        · have ha : ∀ base size pa attr, Sound (u.acceptLeaf t va base size pa attr).2 :=
            fun _ _ _ _ => hw.of_mem (by simp)
          dsimp only
          split
          · exact ha _ _ _ _
          · exact ha _ _ _ _
          · split
            · exact ha _ _ _ _
            · exact (ha _ _ _ _).of_mem rfl
          · split
            · exact (ha _ _ _ _).resolveTlb _ _ _ _ _ _
            · exact ha _ _ _ _

theorem Sound.resolve {s : State} (h : Sound s) (asid : Nat) (team : Option Nat) (va : Nat) :
    Sound (s.resolve asid team va).2 := h.resolveAs false asid team va

/-- Writing bytes at a place keeps memory canonical. -/
theorem Sound.poke {s : State} (h : Sound s) (p : Place) (off : Nat) (bs : List Byte) : Sound (s.poke p off bs) := by
  cases p with
  | line t n => exact h.of_mem rfl
  | phys =>
    refine Sound.of_mem (s := { s with mem := Memory.writeBytes s.mem off bs }) (Memory.wf_writeBytes _ _ _ h) ?_
    exact State.mem_setPoisons (wholeGranules off bs.length) (fun g => g) (fun _ => false) _
  | pinned c k => exact h.of_mem rfl
  | scratch t g => exact h.of_mem rfl

/-- The state an access within a step ends in. -/
def Machine.Got.state {α : Type} : Got α → State
  | .ok _ q => q
  | .cause _ _ q => q
  | .wait q => q

theorem Sound.readPart {s : State} (h : Sound s) (asid : Nat) (team : Option Nat) (va n : Nat) :
    Sound (s.readPart asid team va n).state := by
  have hq := h.resolve asid team va
  unfold State.readPart
  revert hq
  rcases s.resolve asid team va with ⟨c | x | ⟨t, n⟩ | ⟨b, y⟩, q⟩ <;> intro hq <;> dsimp only <;>
    repeat' (first | exact hq | (refine Sound.of_mem (s := q) hq ?_; simp [Got.state]; done) | split)

theorem Sound.readBitmap {s : State} (h : Sound s) (asid : Nat) (team : Option Nat) (va k : Nat) :
    Sound (s.readBitmap asid team va k).state := by
  induction k generalizing s va with
  | zero => exact h
  | succ k ih =>
    have hq := h.readPart asid team va 128
    unfold State.readBitmap
    revert hq
    rcases s.readPart asid team va 128 with ⟨x, q⟩ | ⟨c, b, q⟩ | q <;> intro hq <;> dsimp only
    · have h2 := ih (s := q) hq (va + 128)
      revert h2
      rcases q.readBitmap asid team (va + 128) k with ⟨y, r⟩ | ⟨c, b, r⟩ | r <;> intro h2 <;> dsimp only [Got.state] <;> exact h2
    · split <;> exact hq
    · exact hq

/-- Checking a clearance keeps memory canonical (R223). -/
theorem Sound.cleared {s : State} (h : Sound s) (core asid : Nat) (team : Option Nat) (clr : Option DWord) (tag : Nat) :
    Sound (s.cleared core asid team clr tag).state := by
  unfold State.cleared
  split
  · exact h
  · cases clr with
    | none => exact h
    | some a =>
      dsimp only
      split
      · exact h.of_mem rfl
      · have hq := h.readBitmap asid team a.toNat 64
        revert hq
        rcases s.readBitmap asid team a.toNat 64 with ⟨y, r⟩ | ⟨c, b, r⟩ | r <;> intro hq
        · exact Sound.of_mem (s := r) hq rfl
        · exact hq
        · exact hq

/-! ## Performing accesses (R236) -/

@[simp] theorem Machine.State.mem_pass (s : State) (k : Nat) (a : Access) : (s.pass k a).mem = s.mem := by
  unfold State.pass; split <;> rfl

@[simp] theorem Machine.State.mem_recordStamp (s : State) (a : Access) (p : Part) : (s.recordStamp a p).mem = s.mem := by
  unfold State.recordStamp; split <;> rfl

@[simp] theorem Machine.State.mem_recordStrong (s : State) (a : Access) (p : Part) : (s.recordStrong a p).mem = s.mem := by
  unfold State.recordStrong; split <;> rfl

@[simp] theorem Machine.State.mem_tellHear (s : State) (a : Access) (p : Part) : (s.tellHear a p).mem = s.mem := by
  unfold State.tellHear; dsimp only
  repeat' (first | rfl | split)

@[simp] theorem Machine.State.mem_blurReads (s : State) (a : Access) (p : Part) : (s.blurReads a p).mem = s.mem := by
  unfold State.blurReads
  split
  · refine foldl_keeps (fun q : State => q.mem = s.mem) _ ?_ _ s rfl
    exact fun q x h => h
  · rfl

@[simp] theorem Machine.State.mem_recordPart (s : State) (a : Access) (p : Part) : (s.recordPart a p).mem = s.mem := by
  simp [State.recordPart]

@[simp] theorem Machine.State.mem_blur (s : State) (off : Nat) (bs : List Byte) (rs : List (Nat × Nat)) :
    (s.blur off bs rs).2.mem = s.mem := by
  refine foldl_keeps (fun r : List Byte × State => r.2.mem = s.mem) _ ?_ rs (bs, s) rfl
  exact fun r x h => h

@[simp] theorem Machine.State.mem_scramble (s : State) (a : Access) (p : Part) (bs : List Byte) :
    (s.scramble a p bs).2.mem = s.mem := s.mem_blur _ _ _

@[simp] theorem Machine.State.mem_scrambleWrite (s : State) (a : Access) (p : Part) (bs : List Byte) :
    (s.scrambleWrite a p bs).2.mem = s.mem := s.mem_blur _ _ _

@[simp] theorem Machine.State.mem_spoilRead (s : State) (a : Access) (p : Part) (bs : List Byte) :
    (s.spoilRead a p bs).2.mem = s.mem := by
  unfold State.spoilRead; split <;> rfl

theorem Sound.spoilWrite {s : State} (h : Sound s) (a : Access) (p : Part) : Sound (s.spoilWrite a p) := by
  unfold State.spoilWrite
  split
  · exact Sound.poke (s := (s.freeBytes 128).2) (h.of_mem rfl) _ _ _
  · split
    · refine foldl_keeps Sound _ ?_ _ s h
      exact fun q o hq => Sound.poke (s := (q.freeBytes 4).2) (hq.of_mem rfl) _ _ _
    · exact h

theorem Sound.rmwPart {s : State} (h : Sound s) (a : Access) (p : Part) (aop : BitVec 4) (c : DWord) :
    Sound (s.rmwPart a p aop c).2 :=
  Sound.poke (h.of_mem (by simp)) _ _ _

/-- Performing a part of an access keeps memory canonical. -/
theorem Sound.performPart {s : State} (h : Sound s) (a : Access) (p : Part) : Sound (s.performPart a p) := by
  unfold State.performPart
  split
  · exact h.of_mem (by simp)
  · exact (Sound.poke (h.of_mem (by simp)) _ _ _).spoilWrite _ _
  · rename_i aop c _
    refine Sound.of_mem (s := (((s.rmwPart a p aop c).2.spoilRead a p (s.rmwPart a p aop c).1).2.spoilWrite a p)) ?_ rfl
    exact ((h.rmwPart a p aop c).of_mem (by simp)).spoilWrite _ _

theorem Sound.wholeLine {s : State} (h : Sound s) (a : Access) : Sound (s.wholeLine a) := by
  unfold State.wholeLine
  repeat' (first | exact h | exact h.poke _ _ _ | split)

@[simp] theorem Machine.State.mem_performed (s : State) (k : Nat) (a : Access) : (s.performed k a).mem = s.mem := by
  unfold State.performed State.sweepFences
  dsimp only
  repeat' (first | rfl | split)

/-- Performing an access keeps memory canonical. -/
theorem Sound.perform {s : State} (h : Sound s) (k : Nat) (a : Access) : Sound (s.perform k a) :=
  ((foldl_keeps Sound _ (fun _ p h => h.performPart a p) a.parts (s.pass k a) (h.of_mem (by simp))).wholeLine a).of_mem
    (by simp [State.perform])

/-- Performing pending accesses keeps memory canonical. -/
theorem Sound.settle {s q : State} (h : Sound s) (seed : Nat → Access → Bool) (e : s.settle seed = some q) : Sound q := by
  unfold State.settle at e
  dsimp only at e
  split at e
  · cases e
  · cases e
    exact foldl_keeps Sound (fun (s : State) (e : Nat × Access) => s.perform e.1 e.2) (fun _ _ h => h.perform _ _) _ _ h

theorem Sound.settleFor {s q : State} (h : Sound s) (y : Access) (e : s.settleFor y = some q) : Sound q := by
  unfold State.settleFor at e
  split at e
  · cases e
  · exact h.settle _ e

theorem Sound.settleAt {s q : State} (h : Sound s) (place : Place) (off n : Nat) (e : s.settleAt place off n = some q) :
    Sound q := by
  unfold State.settleAt at e
  split at e
  · cases e
  · exact h.settle _ e

/-! ## Loads and stores within a step -/

theorem Sound.resolveWrite {s : State} (h : Sound s) (who : Who) (va n : Nat) : Sound (s.resolveWrite who va n).state := by
  unfold State.resolveWrite
  split
  · exact h
  · have hq := h.resolve who.asid who.team va
    revert hq
    extract_lets go
    have hgo : ∀ x absent q, Sound q → Sound (go x absent q).state := by
      intro x absent q hq
      simp only [go]
      split
      · exact hq
      · have hr := Sound.cleared hq who.core who.asid who.team who.clr x.tag
        revert hr
        rcases q.cleared who.core who.asid who.team who.clr x.tag with ⟨y, r⟩ | ⟨c, b, r⟩ | r <;> intro hr <;> dsimp only
        · repeat' (first | exact hr | (refine Sound.of_mem (s := r) hr ?_; simp [Got.state]; done) | (refine (Sound.settleAt (s := r) hr _ _ _ ‹_›).of_mem ?_; simp [Got.state]) | split)
        · exact hr
        · exact hr
    clear_value go
    rcases s.resolve who.asid who.team va with ⟨x | ⟨c, b⟩ | ⟨t, l⟩ | ⟨b, x⟩, q⟩ <;> intro hq <;> dsimp only
    · exact hgo _ _ q hq
    · exact hq
    · exact hq
    · exact hgo _ _ q hq

theorem Sound.resolveRead {s : State} (h : Sound s) (who : Who) (va n : Nat) : Sound (s.resolveRead who va n).state := by
  unfold State.resolveRead
  split
  · exact h
  · have hq := h.resolve who.asid who.team va
    revert hq
    extract_lets go
    have hgo : ∀ x absent q, Sound q → Sound (go x absent q).state := by
      intro x absent q hq
      simp only [go]
      have hr := Sound.cleared hq who.core who.asid who.team who.clr x.tag
      revert hr
      rcases q.cleared who.core who.asid who.team who.clr x.tag with ⟨y, r⟩ | ⟨c, b, r⟩ | r <;> intro hr <;> dsimp only
      · repeat' (first | exact hr | (refine Sound.of_mem (s := r) hr ?_; simp [Got.state]; done) | (refine (Sound.settleAt (s := r) hr _ _ _ ‹_›).of_mem ?_; simp [Got.state]; done) | split)
      · exact hr
      · exact hr
    clear_value go
    rcases s.resolve who.asid who.team va with ⟨x | ⟨c, b⟩ | ⟨t, l⟩ | ⟨b, x⟩, q⟩ <;> intro hq <;> dsimp only
    · exact hgo _ _ q hq
    · exact hq
    · exact hq
    · exact hgo _ _ q hq

theorem Sound.maybePoke {s : State} (h : Sound s) (x : Hit) (bs : List Byte) : Sound (s.maybePoke x bs) := by
  unfold State.maybePoke
  split
  · exact h.of_mem rfl
  · exact Sound.poke (s := s.takeFree) (h.of_mem rfl) _ _ _

/-- Storing bytes within a step keeps memory canonical. -/
theorem Sound.storeNow {s : State} (h : Sound s) (who : Who) (va : Nat) (bs : List Byte) : Sound (s.storeNow who va bs).state := by
  unfold State.storeNow
  refine foldl_keeps (fun g : Got Unit => Sound g.state) _ ?_ _ _ h
  intro g x hg
  cases g with
  | cause c b q => exact hg
  | wait q => exact hg
  | ok u q =>
    have hr := Sound.resolveWrite (s := q) hg who x.1 x.2.2
    dsimp only
    revert hr
    rcases q.resolveWrite who x.1 x.2.2 with ⟨⟨y, _ | k⟩, r⟩ | ⟨c, b, r⟩ | r <;> intro hr
    · exact Sound.poke hr _ _ _
    · exact Sound.maybePoke (s := r) hr _ _
    · exact hr
    · exact hr

/-- Loading bytes within a step keeps memory canonical. -/
theorem Sound.loadNow {s : State} (h : Sound s) (who : Who) (va n : Nat) : Sound (s.loadNow who va n).state := by
  unfold State.loadNow
  refine foldl_keeps (fun g : Got (List Byte × List (Nat × Nat)) => Sound g.state) _ ?_ _ _ h
  intro g x hg
  cases g with
  | cause c b q => exact hg
  | wait q => exact hg
  | ok u q =>
    have hr := Sound.resolveRead (s := q) hg who x.1 x.2.2
    dsimp only
    revert hr
    rcases q.resolveRead who x.1 x.2.2 with ⟨⟨y | y, t⟩, r⟩ | ⟨c, b, r⟩ | r <;> intro hr <;> exact hr

end Sys2Proof
end

