-- ==== Sys2Proof/Laws/Ops.lean ====
section
/-!
SUPPORT. What retiring as a synchronising instruction, and raising a cause, can do.
-/
namespace Sys2Proof.Machine

/-! ## Retiring -/

theorem State.stepStop_off (s : State) (c : Cur) (w : Warp) (hw : s.warp? c.w = some w) (hd : s.debugOn w = false) :
    s.stepStop c = s := by
  have : ((s.ctxOf w.asid).debug).getLsbD 0 = false := hd
  simp only [State.stepStop, hw, this]
  simp

theorem State.replayCheck_unrecorded (s : State) (key p : Nat) (w : Warp) (n : DWord) (k : Nat) (h : s.unrecorded w) :
    s.replayCheck key w p n k = .ok none s := by
  unfold State.replayCheck
  have : ((s.ctxOf w.asid).replay.extractLsb' 0 2).toNat = (s.ctxOf w.asid).replay.toNat % 4 := by
    simp [BitVec.extractLsb'_toNat]
  simp only [this]
  rcases h with h | h <;> simp [h]

theorem State.stepAfter_off (s : State) (c : Cur) (w : Warp) (hw : s.warp? c.w = some w) (hd : s.debugOn w = false) :
    s.stepAfter c = s := by
  unfold State.stepAfter
  split
  · rfl
  · exact s.stepStop_off c w hw hd

/-- A synchronising instruction retires: only its warp changes. -/
theorem State.retireSync_plain (s : State) (c : Cur) (w : Warp) (hw : s.warp? c.w = some w) (hd : s.debugOn w = false)
    (hu : s.unrecorded w) : s.retireSync c = s.setWarp c.w (w.afterSync c) := by
  have hs : ∀ x : Warp, x.asid = w.asid → (s.setWarp c.w x).stepAfter c = s.setWarp c.w x := fun x hx =>
    State.stepAfter_off _ c x (s.warp?_updWarp_self _ _ w hw) (by simpa [State.debugOn, State.ctxOf, State.setWarp, State.updWarp, hx] using hd)
  simp only [State.retireSync, hw, State.advance_endInstr s c w true hw, State.countSync]
  split
  · rename_i hc
    have h1 : (s.setWarp c.w (w.afterRetire c true)).warp? c.w = some (w.afterRetire c true) := s.warp?_updWarp_self _ _ w hw
    rw [State.updWarp_eq_setWarp _ _ _ _ h1, State.setWarp_setWarp]
    have h2 : ∀ x : Warp, x.asid = w.asid → (s.setWarp c.w x).useEntry c w.retired w.syncs = s.setWarp c.w x := by
      intro x hx
      simp only [State.useEntry]
      rw [State.setWarp, State.warp?_updWarp_self _ _ _ w hw]
      simp only
      rw [State.replayCheck_unrecorded]
      simpa [State.unrecorded, State.ctxOf, State.updWarp, hx] using hu
    rw [h2 _ (by simp [Warp.afterRetire_asid]), hs _ (by simp [Warp.afterRetire_asid])]
    simp only [Warp.afterSync, Warp.afterRetire_syncs, if_pos hc]
  · rename_i hc
    have h : ({ w.afterRetire c true with syncs := w.syncs } : Warp) = w.afterRetire c true := by
      rw [← w.afterRetire_syncs c true]
    rw [hs _ (by simp [Warp.afterRetire_asid])]
    simp only [Warp.afterSync, if_neg hc, h]

/-! ## Raising a cause -/

theorem State.closeReplay_none (s : State) (c : Cur) (w : Warp) (hw : s.warp? c.w = some w) (h : (w.path c.p).replayOp = none) :
    s.closeReplay c = s := by
  simp [State.closeReplay, hw, h]

/-- A whole-instruction cause that neither parks nor is a watchpoint takes route H. -/
theorem State.raiseWhole_routeH (s : State) (c : Cur) (code sub : Nat) (h1 : code ≠ 0x30) (h2 : code ≠ 0x31) (h3 : code ≠ 0x52) :
    s.raiseWhole c code sub =
      s.routeH c (s.infoOf c { code := code, sub := sub, lanes := s.wholeLanes c code, addrs := [], other := false }) := by
  simp [State.raiseWhole, State.raise, h1, h2, h3]

/-- Route H by the warp's mode (R344, R353, R354, R367). -/
theorem State.routeH_cases (s : State) (c : Cur) (f : FaultInfo) (w : Warp) (hw : s.warp? c.w = some w)
    (hr : (w.path c.p).replayOp = none) :
    (w.pre ≠ .normal → s.routeH c f = s.stopWarp c.w c { f with code := 0x5C, sub := f.code } f.lanes) ∧
    (w.pre = .normal → w.trap.isSome = true →
      s.routeH c f = s.stopOrHandle c { f with code := 0x5D, sub := f.code, flags := f.flags ||| 4 } f.lanes) ∧
    (w.pre = .normal → w.trap = none → s.headerField w Launch.trap = 0 →
      s.routeH c f = s.stopWarp c.w c { f with flags := f.flags ||| 1 } f.lanes) ∧
    (w.pre = .normal → w.trap = none → s.headerField w Launch.trap ≠ 0 →
      s.routeH c f = s.trapEntry c f (s.headerField w Launch.trap)) := by
  simp only [State.routeH, hw, State.closeReplay_none s c w hw hr]
  refine ⟨fun h => by simp [h], fun h t => by simp [h, t], fun h t z => by simp [h, t, z], fun h t z => by simp [h, t, z]⟩

/-- Trap entry by how the record's write ends (R344): written, the path enters the handler and nothing else changes; with a cause,
the warp stops with 0x5D; not yet, the warp waits with its trap taken. -/
theorem State.trapEntry_cases (s : State) (c : Cur) (f : FaultInfo) (handler : Nat) (w : Warp) (hw : s.warp? c.w = some w) :
    (∀ q, s.writeRecord c w f = .ok () q → q.warp? c.w = some w →
      s.trapEntry c f handler = q.setWarp c.w (w.enterTrap c f (q.entryPc w handler))) ∧
    (∀ code sub q, s.writeRecord c w f = .cause code sub q →
      s.trapEntry c f handler = q.stopWarp c.w c { f with code := 0x5D, sub := f.code, flags := f.flags ||| 4 } f.lanes) ∧
    (∀ q, s.writeRecord c w f = .wait q → s.trapEntry c f handler =
      q.updWarp c.w (fun w => { w with held := some { why := .entering f, cur := c, i := none } })) := by
  refine ⟨fun q h hq => ?_, fun code sub q h => by simp [State.trapEntry, hw, h], fun q h => by simp [State.trapEntry, hw, h]⟩
  simp only [State.trapEntry, hw, h]
  exact State.updWarp_eq_setWarp _ _ _ w hq

end Sys2Proof.Machine
end

