-- ==== Sys2Proof/Laws/PerInstr.lean ====
section
/-!
SUPPORT. Laws proved one instruction at a time: family Coded, the length of an encoding.
-/
namespace Sys2Proof.Laws.Coded

/-- R52: a well-formed instruction is encoded in one to three words. -/
def Statement (i : Instr) : Prop := wellFormed i = true → 1 ≤ (encode i).length ∧ (encode i).length ≤ 3

/-- An instruction that takes a prefix has one word more with it. -/
theorem of_prefix (pf : Option Prefix) (l : List Word) (h : 1 ≤ l.length ∧ l.length ≤ 2) :
    1 ≤ (prefixWords pf ++ l).length ∧ (prefixWords pf ++ l).length ≤ 3 := by
  cases pf <;> simp only [prefixWords, List.nil_append, List.length_append, List.length_singleton] <;> omega

theorem one (x : Word) : 1 ≤ [x].length ∧ [x].length ≤ 2 := by simp

theorem two (x y : Word) : 1 ≤ [x, y].length ∧ [x, y].length ≤ 2 := by simp

theorem le_three {n : Nat} (h : 1 ≤ n ∧ n ≤ 2) : 1 ≤ n ∧ n ≤ 3 := by omega

theorem add : ∀ x0 x1 x2 x3, Statement (.add x0 x1 x2 x3) := fun pf _ _ _ _ => of_prefix pf _ (one _)
theorem sub : ∀ x0 x1 x2 x3, Statement (.sub x0 x1 x2 x3) := fun pf _ _ _ _ => of_prefix pf _ (one _)
theorem adds : ∀ x0 x1 x2 x3, Statement (.adds x0 x1 x2 x3) := fun pf _ _ _ _ => of_prefix pf _ (one _)
theorem subs : ∀ x0 x1 x2 x3, Statement (.subs x0 x1 x2 x3) := fun pf _ _ _ _ => of_prefix pf _ (one _)
theorem mullo : ∀ x0 x1 x2 x3, Statement (.mullo x0 x1 x2 x3) := fun pf _ _ _ _ => of_prefix pf _ (one _)
theorem mulhiS : ∀ x0 x1 x2 x3, Statement (.mulhiS x0 x1 x2 x3) := fun pf _ _ _ _ => of_prefix pf _ (one _)
theorem mulhiU : ∀ x0 x1 x2 x3, Statement (.mulhiU x0 x1 x2 x3) := fun pf _ _ _ _ => of_prefix pf _ (one _)
theorem mad : ∀ x0 x1 x2 x3, Statement (.mad x0 x1 x2 x3) := fun pf _ _ _ _ => of_prefix pf _ (one _)
theorem madwU : ∀ x0 x1 x2 x3, Statement (.madwU x0 x1 x2 x3) := fun pf _ _ _ _ => of_prefix pf _ (one _)
theorem madwS : ∀ x0 x1 x2 x3, Statement (.madwS x0 x1 x2 x3) := fun pf _ _ _ _ => of_prefix pf _ (one _)
theorem divS : ∀ x0 x1 x2 x3, Statement (.divS x0 x1 x2 x3) := fun pf _ _ _ _ => of_prefix pf _ (one _)
theorem divU : ∀ x0 x1 x2 x3, Statement (.divU x0 x1 x2 x3) := fun pf _ _ _ _ => of_prefix pf _ (one _)
theorem remS : ∀ x0 x1 x2 x3, Statement (.remS x0 x1 x2 x3) := fun pf _ _ _ _ => of_prefix pf _ (one _)
theorem remU : ∀ x0 x1 x2 x3, Statement (.remU x0 x1 x2 x3) := fun pf _ _ _ _ => of_prefix pf _ (one _)
theorem minS : ∀ x0 x1 x2 x3, Statement (.minS x0 x1 x2 x3) := fun pf _ _ _ _ => of_prefix pf _ (one _)
theorem minU : ∀ x0 x1 x2 x3, Statement (.minU x0 x1 x2 x3) := fun pf _ _ _ _ => of_prefix pf _ (one _)
theorem maxS : ∀ x0 x1 x2 x3, Statement (.maxS x0 x1 x2 x3) := fun pf _ _ _ _ => of_prefix pf _ (one _)
theorem maxU : ∀ x0 x1 x2 x3, Statement (.maxU x0 x1 x2 x3) := fun pf _ _ _ _ => of_prefix pf _ (one _)
theorem abs : ∀ x0 x1 x2, Statement (.abs x0 x1 x2) := fun pf _ _ _ => of_prefix pf _ (one _)
theorem neg : ∀ x0 x1 x2, Statement (.neg x0 x1 x2) := fun pf _ _ _ => of_prefix pf _ (one _)
theorem and : ∀ x0 x1 x2 x3, Statement (.and x0 x1 x2 x3) := fun pf _ _ _ _ => of_prefix pf _ (one _)
theorem or : ∀ x0 x1 x2 x3, Statement (.or x0 x1 x2 x3) := fun pf _ _ _ _ => of_prefix pf _ (one _)
theorem xor : ∀ x0 x1 x2 x3, Statement (.xor x0 x1 x2 x3) := fun pf _ _ _ _ => of_prefix pf _ (one _)
theorem andn : ∀ x0 x1 x2 x3, Statement (.andn x0 x1 x2 x3) := fun pf _ _ _ _ => of_prefix pf _ (one _)
theorem shl : ∀ x0 x1 x2 x3, Statement (.shl x0 x1 x2 x3) := fun pf _ _ _ _ => of_prefix pf _ (one _)
theorem shr : ∀ x0 x1 x2 x3, Statement (.shr x0 x1 x2 x3) := fun pf _ _ _ _ => of_prefix pf _ (one _)
theorem sar : ∀ x0 x1 x2 x3, Statement (.sar x0 x1 x2 x3) := fun pf _ _ _ _ => of_prefix pf _ (one _)
theorem rol : ∀ x0 x1 x2 x3, Statement (.rol x0 x1 x2 x3) := fun pf _ _ _ _ => of_prefix pf _ (one _)
theorem fshl : ∀ x0 x1 x2 x3, Statement (.fshl x0 x1 x2 x3) := fun pf _ _ _ _ => of_prefix pf _ (one _)
theorem bfxU : ∀ x0 x1 x2 x3, Statement (.bfxU x0 x1 x2 x3) := fun pf _ _ _ _ => of_prefix pf _ (one _)
theorem bfxS : ∀ x0 x1 x2 x3, Statement (.bfxS x0 x1 x2 x3) := fun pf _ _ _ _ => of_prefix pf _ (one _)
theorem bfi : ∀ x0 x1 x2 x3, Statement (.bfi x0 x1 x2 x3) := fun pf _ _ _ _ => of_prefix pf _ (one _)
theorem clz : ∀ x0 x1 x2, Statement (.clz x0 x1 x2) := fun pf _ _ _ => of_prefix pf _ (one _)
theorem ctz : ∀ x0 x1 x2, Statement (.ctz x0 x1 x2) := fun pf _ _ _ => of_prefix pf _ (one _)
theorem popc : ∀ x0 x1 x2, Statement (.popc x0 x1 x2) := fun pf _ _ _ => of_prefix pf _ (one _)
theorem brev : ∀ x0 x1 x2, Statement (.brev x0 x1 x2) := fun pf _ _ _ => of_prefix pf _ (one _)
theorem permb : ∀ x0 x1 x2 x3, Statement (.permb x0 x1 x2 x3) := fun pf _ _ _ _ => of_prefix pf _ (one _)
theorem cmpEq : ∀ x0 x1 x2 x3, Statement (.cmpEq x0 x1 x2 x3) := fun pf _ _ _ _ => of_prefix pf _ (one _)
theorem cmpNe : ∀ x0 x1 x2 x3, Statement (.cmpNe x0 x1 x2 x3) := fun pf _ _ _ _ => of_prefix pf _ (one _)
theorem cmpLtS : ∀ x0 x1 x2 x3, Statement (.cmpLtS x0 x1 x2 x3) := fun pf _ _ _ _ => of_prefix pf _ (one _)
theorem cmpLeS : ∀ x0 x1 x2 x3, Statement (.cmpLeS x0 x1 x2 x3) := fun pf _ _ _ _ => of_prefix pf _ (one _)
theorem cmpLtU : ∀ x0 x1 x2 x3, Statement (.cmpLtU x0 x1 x2 x3) := fun pf _ _ _ _ => of_prefix pf _ (one _)
theorem cmpLeU : ∀ x0 x1 x2 x3, Statement (.cmpLeU x0 x1 x2 x3) := fun pf _ _ _ _ => of_prefix pf _ (one _)
theorem sel : ∀ x0 x1 x2 x3, Statement (.sel x0 x1 x2 x3) := fun pf _ _ _ _ => of_prefix pf _ (one _)
theorem mov : ∀ x0 x1 x2, Statement (.mov x0 x1 x2) := fun pf _ _ _ => of_prefix pf _ (one _)
theorem movsr : ∀ x0 x1 x2, Statement (.movsr x0 x1 x2) := fun pf _ _ _ => of_prefix pf _ (one _)
theorem setmode : ∀ x0, Statement (.setmode x0) := fun _ _ => le_three (one _)
theorem lea1 : ∀ x0 x1 x2 x3, Statement (.lea1 x0 x1 x2 x3) := fun pf _ _ _ _ => of_prefix pf _ (one _)
theorem lea4 : ∀ x0 x1 x2 x3, Statement (.lea4 x0 x1 x2 x3) := fun pf _ _ _ _ => of_prefix pf _ (one _)
theorem lea8 : ∀ x0 x1 x2 x3, Statement (.lea8 x0 x1 x2 x3) := fun pf _ _ _ _ => of_prefix pf _ (one _)
theorem lea16 : ∀ x0 x1 x2 x3, Statement (.lea16 x0 x1 x2 x3) := fun pf _ _ _ _ => of_prefix pf _ (one _)
theorem add64 : ∀ x0 x1 x2 x3, Statement (.add64 x0 x1 x2 x3) := fun pf _ _ _ _ => of_prefix pf _ (one _)
theorem sub64 : ∀ x0 x1 x2 x3, Statement (.sub64 x0 x1 x2 x3) := fun pf _ _ _ _ => of_prefix pf _ (one _)
theorem cvti : ∀ x0 x1 x2 x3, Statement (.cvti x0 x1 x2 x3) := fun pf _ _ _ _ => of_prefix pf _ (one _)
theorem addi16 : ∀ x0 x1 x2, Statement (.addi16 x0 x1 x2) := fun pf _ _ _ => of_prefix pf _ (one _)
theorem andi16 : ∀ x0 x1 x2, Statement (.andi16 x0 x1 x2) := fun pf _ _ _ => of_prefix pf _ (one _)
theorem ori16 : ∀ x0 x1 x2, Statement (.ori16 x0 x1 x2) := fun pf _ _ _ => of_prefix pf _ (one _)
theorem xori16 : ∀ x0 x1 x2, Statement (.xori16 x0 x1 x2) := fun pf _ _ _ => of_prefix pf _ (one _)
theorem shli : ∀ x0 x1 x2, Statement (.shli x0 x1 x2) := fun pf _ _ _ => of_prefix pf _ (one _)
theorem shri : ∀ x0 x1 x2, Statement (.shri x0 x1 x2) := fun pf _ _ _ => of_prefix pf _ (one _)
theorem sari : ∀ x0 x1 x2, Statement (.sari x0 x1 x2) := fun pf _ _ _ => of_prefix pf _ (one _)
theorem movhi16 : ∀ x0 x1 x2, Statement (.movhi16 x0 x1 x2) := fun pf _ _ _ => of_prefix pf _ (one _)
theorem ldc : ∀ x0 x1 x2 x3, Statement (.ldc x0 x1 x2 x3) := fun pf _ _ _ _ => of_prefix pf _ (one _)
theorem fadd : ∀ x0 x1 x2 x3, Statement (.fadd x0 x1 x2 x3) := fun pf _ _ _ _ => of_prefix pf _ (one _)
theorem fsub : ∀ x0 x1 x2 x3, Statement (.fsub x0 x1 x2 x3) := fun pf _ _ _ _ => of_prefix pf _ (one _)
theorem fmul : ∀ x0 x1 x2 x3, Statement (.fmul x0 x1 x2 x3) := fun pf _ _ _ _ => of_prefix pf _ (one _)
theorem ffma : ∀ x0 x1 x2 x3, Statement (.ffma x0 x1 x2 x3) := fun pf _ _ _ _ => of_prefix pf _ (one _)
theorem ffmc : ∀ x0 x1 x2 x3, Statement (.ffmc x0 x1 x2 x3) := fun pf _ _ _ _ => of_prefix pf _ (one _)
theorem fmin : ∀ x0 x1 x2 x3, Statement (.fmin x0 x1 x2 x3) := fun pf _ _ _ _ => of_prefix pf _ (one _)
theorem fmax : ∀ x0 x1 x2 x3, Statement (.fmax x0 x1 x2 x3) := fun pf _ _ _ _ => of_prefix pf _ (one _)
theorem fabs : ∀ x0 x1 x2, Statement (.fabs x0 x1 x2) := fun pf _ _ _ => of_prefix pf _ (one _)
theorem fneg : ∀ x0 x1 x2, Statement (.fneg x0 x1 x2) := fun pf _ _ _ => of_prefix pf _ (one _)
theorem fcmpEq : ∀ x0 x1 x2 x3, Statement (.fcmpEq x0 x1 x2 x3) := fun pf _ _ _ _ => of_prefix pf _ (one _)
theorem fcmpLt : ∀ x0 x1 x2 x3, Statement (.fcmpLt x0 x1 x2 x3) := fun pf _ _ _ _ => of_prefix pf _ (one _)
theorem fcmpLe : ∀ x0 x1 x2 x3, Statement (.fcmpLe x0 x1 x2 x3) := fun pf _ _ _ _ => of_prefix pf _ (one _)
theorem fcmpUn : ∀ x0 x1 x2 x3, Statement (.fcmpUn x0 x1 x2 x3) := fun pf _ _ _ _ => of_prefix pf _ (one _)
theorem fclass : ∀ x0 x1 x2, Statement (.fclass x0 x1 x2) := fun pf _ _ _ => of_prefix pf _ (one _)
theorem fdiv : ∀ x0 x1 x2 x3, Statement (.fdiv x0 x1 x2 x3) := fun pf _ _ _ _ => of_prefix pf _ (one _)
theorem fsqrt : ∀ x0 x1 x2, Statement (.fsqrt x0 x1 x2) := fun pf _ _ _ => of_prefix pf _ (one _)
theorem frcp : ∀ x0 x1 x2, Statement (.frcp x0 x1 x2) := fun pf _ _ _ => of_prefix pf _ (one _)
theorem frsq : ∀ x0 x1 x2, Statement (.frsq x0 x1 x2) := fun pf _ _ _ => of_prefix pf _ (one _)
theorem fexp2 : ∀ x0 x1 x2, Statement (.fexp2 x0 x1 x2) := fun pf _ _ _ => of_prefix pf _ (one _)
theorem flog2 : ∀ x0 x1 x2, Statement (.flog2 x0 x1 x2) := fun pf _ _ _ => of_prefix pf _ (one _)
theorem fsin : ∀ x0 x1 x2, Statement (.fsin x0 x1 x2) := fun pf _ _ _ => of_prefix pf _ (one _)
theorem fcos : ∀ x0 x1 x2, Statement (.fcos x0 x1 x2) := fun pf _ _ _ => of_prefix pf _ (one _)
theorem fround : ∀ x0 x1 x2, Statement (.fround x0 x1 x2) := fun pf _ _ _ => of_prefix pf _ (one _)
theorem fscale : ∀ x0 x1 x2 x3, Statement (.fscale x0 x1 x2 x3) := fun pf _ _ _ _ => of_prefix pf _ (one _)
theorem fcvtF2i : ∀ x0 x1 x2 x3, Statement (.fcvtF2i x0 x1 x2 x3) := fun pf _ _ _ _ => of_prefix pf _ (one _)
theorem fcvtI2f : ∀ x0 x1 x2 x3, Statement (.fcvtI2f x0 x1 x2 x3) := fun pf _ _ _ _ => of_prefix pf _ (one _)
theorem fcvtF2f : ∀ x0 x1 x2 x3, Statement (.fcvtF2f x0 x1 x2 x3) := fun pf _ _ _ _ => of_prefix pf _ (one _)
theorem hadd2 : ∀ x0 x1 x2 x3, Statement (.hadd2 x0 x1 x2 x3) := fun pf _ _ _ _ => of_prefix pf _ (one _)
theorem hmul2 : ∀ x0 x1 x2 x3, Statement (.hmul2 x0 x1 x2 x3) := fun pf _ _ _ _ => of_prefix pf _ (one _)
theorem hfma2 : ∀ x0 x1 x2 x3, Statement (.hfma2 x0 x1 x2 x3) := fun pf _ _ _ _ => of_prefix pf _ (one _)
theorem hdot2 : ∀ x0 x1 x2 x3, Statement (.hdot2 x0 x1 x2 x3) := fun pf _ _ _ _ => of_prefix pf _ (one _)
theorem brt : ∀ x0 x1, Statement (.brt x0 x1) := fun _ _ _ => le_three (one _)
theorem brf : ∀ x0 x1, Statement (.brf x0 x1) := fun _ _ _ => le_three (one _)
theorem bra : ∀ x0, Statement (.bra x0) := fun _ _ => le_three (one _)
theorem brx : ∀ x0 x1 x2, Statement (.brx x0 x1 x2) := fun _ _ _ _ => le_three (one _)
theorem call : ∀ x0 x1, Statement (.call x0 x1) := fun _ _ _ => le_three (one _)
theorem callx : ∀ x0 x1, Statement (.callx x0 x1) := fun _ _ _ => le_three (one _)
theorem ret : ∀ x0, Statement (.ret x0) := fun _ _ => le_three (one _)
theorem jpt : ∀ x0, Statement (.jpt x0) := fun _ _ => le_three (one _)
theorem join : Statement (.join) := fun _ => le_three (one _)
theorem loop : ∀ x0 x1, Statement (.loop x0 x1) := fun _ _ _ => le_three (one _)
theorem loopi : ∀ x0 x1, Statement (.loopi x0 x1) := fun _ _ _ => le_three (one _)
theorem exit : Statement (.exit) := fun _ => le_three (one _)
theorem wait : ∀ x0 x1 x2 x3, Statement (.wait x0 x1 x2 x3) := fun _ _ _ _ _ => le_three (one _)
theorem yield : Statement (.yield) := fun _ => le_three (one _)
theorem safe : ∀ x0, Statement (.safe x0) := fun _ _ => le_three (one _)
theorem nop : Statement (.nop) := fun _ => le_three (one _)
theorem ld8u : ∀ x0 x1 x2 x3 x4, Statement (.ld8u x0 x1 x2 x3 x4) := fun pf _ _ _ _ _ => of_prefix pf _ (one _)
theorem ld8s : ∀ x0 x1 x2 x3 x4, Statement (.ld8s x0 x1 x2 x3 x4) := fun pf _ _ _ _ _ => of_prefix pf _ (one _)
theorem ld16u : ∀ x0 x1 x2 x3 x4, Statement (.ld16u x0 x1 x2 x3 x4) := fun pf _ _ _ _ _ => of_prefix pf _ (one _)
theorem ld16s : ∀ x0 x1 x2 x3 x4, Statement (.ld16s x0 x1 x2 x3 x4) := fun pf _ _ _ _ _ => of_prefix pf _ (one _)
theorem ld32 : ∀ x0 x1 x2 x3 x4, Statement (.ld32 x0 x1 x2 x3 x4) := fun pf _ _ _ _ _ => of_prefix pf _ (one _)
theorem ld64 : ∀ x0 x1 x2 x3 x4, Statement (.ld64 x0 x1 x2 x3 x4) := fun pf _ _ _ _ _ => of_prefix pf _ (one _)
theorem ld128 : ∀ x0 x1 x2 x3 x4, Statement (.ld128 x0 x1 x2 x3 x4) := fun pf _ _ _ _ _ => of_prefix pf _ (one _)
theorem st8 : ∀ x0 x1 x2 x3 x4, Statement (.st8 x0 x1 x2 x3 x4) := fun pf _ _ _ _ _ => of_prefix pf _ (one _)
theorem st16 : ∀ x0 x1 x2 x3 x4, Statement (.st16 x0 x1 x2 x3 x4) := fun pf _ _ _ _ _ => of_prefix pf _ (one _)
theorem st32 : ∀ x0 x1 x2 x3 x4, Statement (.st32 x0 x1 x2 x3 x4) := fun pf _ _ _ _ _ => of_prefix pf _ (one _)
theorem st64 : ∀ x0 x1 x2 x3 x4, Statement (.st64 x0 x1 x2 x3 x4) := fun pf _ _ _ _ _ => of_prefix pf _ (one _)
theorem st128 : ∀ x0 x1 x2 x3 x4, Statement (.st128 x0 x1 x2 x3 x4) := fun pf _ _ _ _ _ => of_prefix pf _ (one _)
theorem lds32 : ∀ x0 x1 x2 x3 x4, Statement (.lds32 x0 x1 x2 x3 x4) := fun pf _ _ _ _ _ => of_prefix pf _ (one _)
theorem sts32 : ∀ x0 x1 x2 x3 x4, Statement (.sts32 x0 x1 x2 x3 x4) := fun pf _ _ _ _ _ => of_prefix pf _ (one _)
theorem lds128 : ∀ x0 x1 x2 x3 x4, Statement (.lds128 x0 x1 x2 x3 x4) := fun pf _ _ _ _ _ => of_prefix pf _ (one _)
theorem sts128 : ∀ x0 x1 x2 x3 x4, Statement (.sts128 x0 x1 x2 x3 x4) := fun pf _ _ _ _ _ => of_prefix pf _ (one _)
theorem ballot : ∀ x0 x1 x2, Statement (.ballot x0 x1 x2) := fun pf _ _ _ => of_prefix pf _ (one _)
theorem shflIdx : ∀ x0 x1 x2 x3, Statement (.shflIdx x0 x1 x2 x3) := fun pf _ _ _ _ => of_prefix pf _ (one _)
theorem shflUp : ∀ x0 x1 x2 x3, Statement (.shflUp x0 x1 x2 x3) := fun pf _ _ _ _ => of_prefix pf _ (one _)
theorem shflDown : ∀ x0 x1 x2 x3, Statement (.shflDown x0 x1 x2 x3) := fun pf _ _ _ _ => of_prefix pf _ (one _)
theorem shflXor : ∀ x0 x1 x2 x3, Statement (.shflXor x0 x1 x2 x3) := fun pf _ _ _ _ => of_prefix pf _ (one _)
theorem redux : ∀ x0 x1 x2 x3, Statement (.redux x0 x1 x2 x3) := fun pf _ _ _ _ => of_prefix pf _ (one _)
theorem scan : ∀ x0 x1 x2 x3, Statement (.scan x0 x1 x2 x3) := fun pf _ _ _ _ => of_prefix pf _ (one _)
theorem qappend : ∀ x0 x1 x2, Statement (.qappend x0 x1 x2) := fun pf _ _ _ => of_prefix pf _ (one _)
theorem xchgp : ∀ x0 x1 x2, Statement (.xchgp x0 x1 x2) := fun pf _ _ _ => of_prefix pf _ (one _)
theorem expand : ∀ x0 x1 x2 x3, Statement (.expand x0 x1 x2 x3) := fun _ _ _ _ _ => le_three (one _)
theorem exnext : ∀ x0 x1 x2, Statement (.exnext x0 x1 x2) := fun _ _ _ _ => le_three (one _)
theorem exred : ∀ x0, Statement (.exred x0) := fun _ _ => le_three (one _)
theorem exfin : ∀ x0, Statement (.exfin x0) := fun _ _ => le_three (one _)
theorem exsave : ∀ x0, Statement (.exsave x0) := fun _ _ => le_three (one _)
theorem exload : ∀ x0, Statement (.exload x0) := fun _ _ => le_three (one _)
theorem matchLanes : ∀ x0 x1 x2, Statement (.matchLanes x0 x1 x2) := fun pf _ _ _ => of_prefix pf _ (one _)
theorem atom : ∀ x0 x1 x2 x3 x4 x5 x6 x7, Statement (.atom x0 x1 x2 x3 x4 x5 x6 x7) := fun pf _ _ _ _ _ _ _ _ => of_prefix pf _ (two _ _)
theorem atoms : ∀ x0 x1 x2 x3 x4 x5 x6 x7, Statement (.atoms x0 x1 x2 x3 x4 x5 x6 x7) := fun pf _ _ _ _ _ _ _ _ => of_prefix pf _ (two _ _)
theorem fence : ∀ x0 x1, Statement (.fence x0 x1) := fun _ _ _ => le_three (one _)
theorem arrive : ∀ x0 x1 x2, Statement (.arrive x0 x1 x2) := fun _ _ _ _ => le_three (one _)
theorem waitbPh : ∀ x0 x1, Statement (.waitbPh x0 x1) := fun _ _ _ => le_three (one _)
theorem waitbCnt : ∀ x0 x1, Statement (.waitbCnt x0 x1) := fun _ _ _ => le_three (one _)
theorem barWg : Statement (.barWg) := fun _ => le_three (one _)
theorem barTeam : Statement (.barTeam) := fun _ => le_three (one _)
theorem mwaitNe : ∀ x0 x1, Statement (.mwaitNe x0 x1) := fun _ _ _ => le_three (one _)
theorem mwaitGeu : ∀ x0 x1, Statement (.mwaitGeu x0 x1) := fun _ _ _ => le_three (one _)
theorem pref : ∀ x0, Statement (.pref x0) := fun _ _ => le_three (one _)
theorem prefL1 : ∀ x0, Statement (.prefL1 x0) := fun _ _ => le_three (one _)
theorem cflushWb : ∀ x0, Statement (.cflushWb x0) := fun _ _ => le_three (one _)
theorem cflushInv : ∀ x0, Statement (.cflushInv x0) := fun _ _ => le_three (one _)
theorem htclaim : ∀ x0 x1 x2, Statement (.htclaim x0 x1 x2) := fun _ _ _ _ => le_three (one _)
theorem htrel : ∀ x0, Statement (.htrel x0) := fun _ _ => le_three (one _)
theorem hins : ∀ x0 x1 x2 x3, Statement (.hins x0 x1 x2 x3) := fun pf _ _ _ _ => of_prefix pf _ (one _)
theorem hprobe : ∀ x0 x1 x2 x3, Statement (.hprobe x0 x1 x2 x3) := fun pf _ _ _ _ => of_prefix pf _ (one _)
theorem hdel : ∀ x0 x1 x2 x3, Statement (.hdel x0 x1 x2 x3) := fun pf _ _ _ _ => of_prefix pf _ (one _)
theorem hacc : ∀ x0 x1 x2 x3 x4 x5, Statement (.hacc x0 x1 x2 x3 x4 x5) := fun pf _ _ _ _ _ _ => of_prefix pf _ (two _ _)
theorem hdrain : ∀ x0 x1 x2, Statement (.hdrain x0 x1 x2) := fun _ _ _ _ => le_three (one _)
theorem thld : ∀ x0 x1 x2, Statement (.thld x0 x1 x2) := fun _ _ _ _ => le_three (two _ _)
theorem thset : ∀ x0 x1 x2, Statement (.thset x0 x1 x2) := fun _ _ _ _ => le_three (two _ _)
theorem thget : ∀ x0 x1 x2, Statement (.thget x0 x1 x2) := fun _ _ _ _ => le_three (two _ _)
theorem copy : ∀ x0 x1 x2 x3 x4 x5 x6 x7, Statement (.copy x0 x1 x2 x3 x4 x5 x6 x7) := fun _ _ _ _ _ _ _ _ _ => le_three (two _ _)
theorem gather : ∀ x0 x1 x2 x3 x4 x5 x6 x7 x8, Statement (.gather x0 x1 x2 x3 x4 x5 x6 x7 x8) := fun _ _ _ _ _ _ _ _ _ _ => le_three (two _ _)
theorem scatter : ∀ x0 x1 x2 x3 x4 x5 x6 x7 x8 x9, Statement (.scatter x0 x1 x2 x3 x4 x5 x6 x7 x8 x9) := fun _ _ _ _ _ _ _ _ _ _ _ => le_three (two _ _)
theorem tsplit : ∀ x0 x1 x2 x3 x4 x5 x6 x7, Statement (.tsplit x0 x1 x2 x3 x4 x5 x6 x7) := fun _ _ _ _ _ _ _ _ _ => le_three (two _ _)
theorem mma : ∀ x0 x1 x2 x3 x4, Statement (.mma x0 x1 x2 x3 x4) := fun _ _ _ _ _ _ => le_three (two _ _)
theorem mmaloop : ∀ x0 x1 x2 x3 x4 x5 x6, Statement (.mmaloop x0 x1 x2 x3 x4 x5 x6) := fun _ _ _ _ _ _ _ _ => le_three (two _ _)
theorem mbatch : ∀ x0 x1, Statement (.mbatch x0 x1) := fun _ _ _ => le_three (two _ _)
theorem waitt : ∀ x0, Statement (.waitt x0) := fun _ _ => le_three (two _ _)
theorem maccAlloc : ∀ x0, Statement (.maccAlloc x0) := fun _ _ => le_three (two _ _)
theorem maccFree : ∀ x0, Statement (.maccFree x0) := fun _ _ => le_three (two _ _)
theorem mdrain : ∀ x0 x1 x2 x3 x4, Statement (.mdrain x0 x1 x2 x3 x4) := fun _ _ _ _ _ _ => le_three (two _ _)
theorem bput : ∀ x0 x1, Statement (.bput x0 x1) := fun _ _ _ => le_three (two _ _)
theorem kstore : ∀ x0 x1 x2 x3 x4 x5 x6 x7 x8, Statement (.kstore x0 x1 x2 x3 x4 x5 x6 x7 x8) := fun _ _ _ _ _ _ _ _ _ _ => le_three (two _ _)
theorem bgather : ∀ x0 x1 x2 x3 x4 x5 x6, Statement (.bgather x0 x1 x2 x3 x4 x5 x6) := fun _ _ _ _ _ _ _ _ => le_three (two _ _)
theorem addL : ∀ x0 x1 x2 x3, Statement (.addL x0 x1 x2 x3) := fun pf _ _ _ _ => of_prefix pf _ (two _ _)
theorem andL : ∀ x0 x1 x2 x3, Statement (.andL x0 x1 x2 x3) := fun pf _ _ _ _ => of_prefix pf _ (two _ _)
theorem orL : ∀ x0 x1 x2 x3, Statement (.orL x0 x1 x2 x3) := fun pf _ _ _ _ => of_prefix pf _ (two _ _)
theorem xorL : ∀ x0 x1 x2 x3, Statement (.xorL x0 x1 x2 x3) := fun pf _ _ _ _ => of_prefix pf _ (two _ _)
theorem movL : ∀ x0 x1 x2, Statement (.movL x0 x1 x2) := fun pf _ _ _ => of_prefix pf _ (two _ _)
theorem mulloL : ∀ x0 x1 x2 x3, Statement (.mulloL x0 x1 x2 x3) := fun pf _ _ _ _ => of_prefix pf _ (two _ _)
theorem cmpEqL : ∀ x0 x1 x2 x3, Statement (.cmpEqL x0 x1 x2 x3) := fun pf _ _ _ _ => of_prefix pf _ (two _ _)
theorem cmpLtSL : ∀ x0 x1 x2 x3, Statement (.cmpLtSL x0 x1 x2 x3) := fun pf _ _ _ _ => of_prefix pf _ (two _ _)
theorem faddL : ∀ x0 x1 x2 x3, Statement (.faddL x0 x1 x2 x3) := fun pf _ _ _ _ => of_prefix pf _ (two _ _)
theorem fmulL : ∀ x0 x1 x2 x3, Statement (.fmulL x0 x1 x2 x3) := fun pf _ _ _ _ => of_prefix pf _ (two _ _)
theorem ffmaL : ∀ x0 x1 x2 x3 x4, Statement (.ffmaL x0 x1 x2 x3 x4) := fun pf _ _ _ _ _ => of_prefix pf _ (two _ _)
theorem fminL : ∀ x0 x1 x2 x3, Statement (.fminL x0 x1 x2 x3) := fun pf _ _ _ _ => of_prefix pf _ (two _ _)
theorem fmaxL : ∀ x0 x1 x2 x3, Statement (.fmaxL x0 x1 x2 x3) := fun pf _ _ _ _ => of_prefix pf _ (two _ _)
theorem fcmpLtL : ∀ x0 x1 x2 x3, Statement (.fcmpLtL x0 x1 x2 x3) := fun pf _ _ _ _ => of_prefix pf _ (two _ _)
theorem qsig : ∀ x0 x1 x2, Statement (.qsig x0 x1 x2) := fun _ _ _ _ => le_three (one _)
theorem kidx : ∀ x0 x1, Statement (.kidx x0 x1) := fun _ _ _ => le_three (one _)
theorem mload : ∀ x0 x1 x2, Statement (.mload x0 x1 x2) := fun _ _ _ _ => le_three (one _)
theorem trap : ∀ x0, Statement (.trap x0) := fun _ _ => le_three (one _)
theorem trapFrame : ∀ x0, Statement (.trapFrame x0) := fun _ _ => le_three (one _)
theorem eretRetry : Statement (.eretRetry) := fun _ => le_three (one _)
theorem eretSkip : Statement (.eretSkip) := fun _ => le_three (one _)
theorem eretTo : ∀ x0, Statement (.eretTo x0) := fun _ _ => le_three (one _)
theorem mtsrFpflags : ∀ x0, Statement (.mtsrFpflags x0) := fun _ _ => le_three (one _)
theorem mtsrCtxPreempt : ∀ x0 x1, Statement (.mtsrCtxPreempt x0 x1) := fun _ _ _ => le_three (one _)
theorem mtsrCtxHalt : ∀ x0 x1, Statement (.mtsrCtxHalt x0 x1) := fun _ _ _ => le_three (one _)
theorem mtsrCtxLcbins : ∀ x0 x1, Statement (.mtsrCtxLcbins x0 x1) := fun _ _ _ => le_three (one _)
theorem mtsrFaultlog : ∀ x0 x1, Statement (.mtsrFaultlog x0 x1) := fun _ _ _ => le_three (one _)
theorem mtsr : ∀ x0 x1 x2, Statement (.mtsr x0 x1 x2) := fun _ _ _ _ => le_three (one _)
theorem resumeReplay : ∀ x0 x1, Statement (.resumeReplay x0 x1) := fun _ _ _ => le_three (one _)
theorem resumeDeliver : ∀ x0 x1, Statement (.resumeDeliver x0 x1) := fun _ _ _ => le_three (one _)
theorem resumeTerm : ∀ x0 x1, Statement (.resumeTerm x0 x1) := fun _ _ _ => le_three (one _)
theorem launch : ∀ x0 x1, Statement (.launch x0 x1) := fun _ _ _ => le_three (one _)
theorem tlbinvPage : ∀ x0 x1, Statement (.tlbinvPage x0 x1) := fun _ _ _ => le_three (one _)
theorem tlbinvAsid : ∀ x0, Statement (.tlbinvAsid x0) := fun _ _ => le_three (one _)
theorem tlbinvAll : Statement (.tlbinvAll) := fun _ => le_three (one _)
theorem asinv : ∀ x0, Statement (.asinv x0) := fun _ _ => le_three (one _)
theorem bkpt : ∀ x0, Statement (.bkpt x0) := fun _ _ => le_three (one _)
theorem clrset : ∀ x0, Statement (.clrset x0) := fun _ _ => le_three (one _)
theorem perfrd : ∀ x0 x1 x2, Statement (.perfrd x0 x1 x2) := fun _ _ _ _ => le_three (one _)
theorem movi20 : ∀ x0 x1 x2, Statement (.movi20 x0 x1 x2) := fun pf _ _ _ => of_prefix pf _ (one _)
theorem movf20 : ∀ x0 x1 x2, Statement (.movf20 x0 x1 x2) := fun pf _ _ _ => of_prefix pf _ (one _)
theorem nonInstruction : ∀ x0 x1 x2 x3, Statement (.nonInstruction x0 x1 x2 x3) := fun _ _ _ _ h => absurd h Bool.false_ne_true
theorem faultLogHeldAppend : ∀ x0, Statement (.faultLogHeldAppend x0) := fun _ h => absurd h Bool.false_ne_true
theorem heldTransferReexecution : ∀ x0 x1, Statement (.heldTransferReexecution x0 x1) := fun _ _ h => absurd h Bool.false_ne_true
theorem waitRelease : ∀ x0, Statement (.waitRelease x0) := fun _ h => absurd h Bool.false_ne_true
theorem barRelease : ∀ x0, Statement (.barRelease x0) := fun _ h => absurd h Bool.false_ne_true
theorem waitbRelease : ∀ x0, Statement (.waitbRelease x0) := fun _ h => absurd h Bool.false_ne_true
theorem mwaitRelease : ∀ x0, Statement (.mwaitRelease x0) := fun _ h => absurd h Bool.false_ne_true
theorem waittRelease : ∀ x0, Statement (.waittRelease x0) := fun _ h => absurd h Bool.false_ne_true
theorem xchgpMatch : ∀ x0, Statement (.xchgpMatch x0) := fun _ h => absurd h Bool.false_ne_true
theorem asterStepMatch : ∀ x0, Statement (.asterStepMatch x0) := fun _ h => absurd h Bool.false_ne_true
theorem launchEnqueue : ∀ x0, Statement (.launchEnqueue x0) := fun _ h => absurd h Bool.false_ne_true
theorem dependenceConditionRead : ∀ x0 x1, Statement (.dependenceConditionRead x0 x1) := fun _ _ h => absurd h Bool.false_ne_true
theorem teamAdmission : ∀ x0, Statement (.teamAdmission x0) := fun _ h => absurd h Bool.false_ne_true
theorem l1Reclaim : ∀ x0, Statement (.l1Reclaim x0) := fun _ h => absurd h Bool.false_ne_true
theorem warpCompletion : ∀ x0, Statement (.warpCompletion x0) := fun _ h => absurd h Bool.false_ne_true
theorem teamCompletion : ∀ x0, Statement (.teamCompletion x0) := fun _ h => absurd h Bool.false_ne_true
theorem translationRequest : ∀ x0, Statement (.translationRequest x0) := fun _ h => absurd h Bool.false_ne_true
theorem corePinnedSlotWaitEnd : ∀ x0, Statement (.corePinnedSlotWaitEnd x0) := fun _ h => absurd h Bool.false_ne_true
theorem sliceMiss : ∀ x0, Statement (.sliceMiss x0) := fun _ h => absurd h Bool.false_ne_true
theorem accessPerform : ∀ x0, Statement (.accessPerform x0) := fun _ h => absurd h Bool.false_ne_true
theorem loadCompletion : ∀ x0, Statement (.loadCompletion x0) := fun _ h => absurd h Bool.false_ne_true
theorem storeAcknowledge : ∀ x0, Statement (.storeAcknowledge x0) := fun _ h => absurd h Bool.false_ne_true
theorem engineLineTransfer : ∀ x0, Statement (.engineLineTransfer x0) := fun _ h => absurd h Bool.false_ne_true
theorem tsplitTileEncode : ∀ x0, Statement (.tsplitTileEncode x0) := fun _ h => absurd h Bool.false_ne_true
theorem copyOperationComplete : ∀ x0, Statement (.copyOperationComplete x0) := fun _ h => absurd h Bool.false_ne_true
theorem matrixStep : ∀ x0, Statement (.matrixStep x0) := fun _ h => absurd h Bool.false_ne_true
theorem matrixOperationComplete : ∀ x0, Statement (.matrixOperationComplete x0) := fun _ h => absurd h Bool.false_ne_true
theorem mdrainExecute : ∀ x0, Statement (.mdrainExecute x0) := fun _ h => absurd h Bool.false_ne_true
theorem batchComplete : ∀ x0, Statement (.batchComplete x0) := fun _ h => absurd h Bool.false_ne_true
theorem kstoreToken : ∀ x0, Statement (.kstoreToken x0) := fun _ h => absurd h Bool.false_ne_true
theorem bgatherBucketVisit : ∀ x0, Statement (.bgatherBucketVisit x0) := fun _ h => absurd h Bool.false_ne_true
theorem bgatherToken : ∀ x0, Statement (.bgatherToken x0) := fun _ h => absurd h Bool.false_ne_true
theorem remoteRequest : ∀ x0, Statement (.remoteRequest x0) := fun _ h => absurd h Bool.false_ne_true
theorem remoteTimeout : ∀ x0, Statement (.remoteTimeout x0) := fun _ h => absurd h Bool.false_ne_true
theorem watchdogExpiry : ∀ x0, Statement (.watchdogExpiry x0) := fun _ h => absurd h Bool.false_ne_true
theorem handlerLimitExpiry : ∀ x0, Statement (.handlerLimitExpiry x0) := fun _ h => absurd h Bool.false_ne_true
theorem preemptionOverdue : ∀ x0, Statement (.preemptionOverdue x0) := fun _ h => absurd h Bool.false_ne_true
theorem teamReadmission : ∀ x0, Statement (.teamReadmission x0) := fun _ h => absurd h Bool.false_ne_true
theorem startCold : ∀ x0, Statement (.startCold x0) := fun _ h => absurd h Bool.false_ne_true
theorem startWarm : ∀ x0, Statement (.startWarm x0) := fun _ h => absurd h Bool.false_ne_true
theorem mboxWrite : ∀ x0, Statement (.mboxWrite x0) := fun _ h => absurd h Bool.false_ne_true
theorem bar0RegisterWrite : ∀ x0 x1, Statement (.bar0RegisterWrite x0 x1) := fun _ _ h => absurd h Bool.false_ne_true
theorem bar2WindowAccess : ∀ x0 x1 x2, Statement (.bar2WindowAccess x0 x1 x2) := fun _ _ _ h => absurd h Bool.false_ne_true
theorem powerGood : Statement (.powerGood) := fun h => absurd h Bool.false_ne_true
theorem startStage1 : Statement (.startStage1) := fun h => absurd h Bool.false_ne_true
theorem startStage2 : Statement (.startStage2) := fun h => absurd h Bool.false_ne_true
theorem idleEntry : ∀ x0, Statement (.idleEntry x0) := fun _ h => absurd h Bool.false_ne_true
theorem clockGateEntry : ∀ x0, Statement (.clockGateEntry x0) := fun _ h => absurd h Bool.false_ne_true
theorem retentionEntry : ∀ x0, Statement (.retentionEntry x0) := fun _ h => absurd h Bool.false_ne_true
theorem powerWake : ∀ x0, Statement (.powerWake x0) := fun _ h => absurd h Bool.false_ne_true
theorem dieThrottle : ∀ x0 x1, Statement (.dieThrottle x0 x1) := fun _ _ h => absurd h Bool.false_ne_true
theorem criticalTemperature : Statement (.criticalTemperature) := fun h => absurd h Bool.false_ne_true
theorem storageSoftError : ∀ x0 x1, Statement (.storageSoftError x0 x1) := fun _ _ h => absurd h Bool.false_ne_true
theorem fabricResponseLost : ∀ x0 x1, Statement (.fabricResponseLost x0 x1) := fun _ _ h => absurd h Bool.false_ne_true
theorem memorySideStampLost : ∀ x0, Statement (.memorySideStampLost x0) := fun _ h => absurd h Bool.false_ne_true
theorem routeLinksDown : ∀ x0 x1, Statement (.routeLinksDown x0 x1) := fun _ _ h => absurd h Bool.false_ne_true
theorem routeLinksUp : ∀ x0, Statement (.routeLinksUp x0) := fun _ h => absurd h Bool.false_ne_true
theorem peerDebugHoldChange : ∀ x0 x1, Statement (.peerDebugHoldChange x0 x1) := fun _ _ h => absurd h Bool.false_ne_true

end Sys2Proof.Laws.Coded
end

