-- ==== Sys2Proof/Laws/State.lean ====
section
/-!
SUPPORT. What each update of the state leaves: one lemma per field that it does not change, and per accessor over such a
field, all true by definition.
-/
namespace Sys2Proof.Machine

/-! ## updWarp -/

@[simp] theorem State.updWarp_mem (s : State) (k : Nat) (f : Warp → Warp) : (s.updWarp k f).mem = s.mem := rfl
@[simp] theorem State.updWarp_poison (s : State) (k : Nat) (f : Warp → Warp) : (s.updWarp k f).poison = s.poison := rfl
@[simp] theorem State.updWarp_cur (s : State) (k : Nat) (f : Warp → Warp) : (s.updWarp k f).cur = s.cur := rfl
@[simp] theorem State.updWarp_inputs (s : State) (k : Nat) (f : Warp → Warp) : (s.updWarp k f).inputs = s.inputs := rfl
@[simp] theorem State.updWarp_free (s : State) (k : Nat) (f : Warp → Warp) : (s.updWarp k f).free = s.free := rfl
@[simp] theorem State.updWarp_cycle (s : State) (k : Nat) (f : Warp → Warp) : (s.updWarp k f).cycle = s.cycle := rfl
@[simp] theorem State.updWarp_clock (s : State) (k : Nat) (f : Warp → Warp) : (s.updWarp k f).clock = s.clock := rfl
@[simp] theorem State.updWarp_teams (s : State) (k : Nat) (f : Warp → Warp) : (s.updWarp k f).teams = s.teams := rfl
@[simp] theorem State.updWarp_launches (s : State) (k : Nat) (f : Warp → Warp) : (s.updWarp k f).launches = s.launches := rfl
@[simp] theorem State.updWarp_launchNo (s : State) (k : Nat) (f : Warp → Warp) : (s.updWarp k f).launchNo = s.launchNo := rfl
@[simp] theorem State.updWarp_fresh (s : State) (k : Nat) (f : Warp → Warp) : (s.updWarp k f).fresh = s.fresh := rfl
@[simp] theorem State.updWarp_l2 (s : State) (k : Nat) (f : Warp → Warp) : (s.updWarp k f).l2 = s.l2 := rfl
@[simp] theorem State.updWarp_tlb (s : State) (k : Nat) (f : Warp → Warp) : (s.updWarp k f).tlb = s.tlb := rfl
@[simp] theorem State.updWarp_misses (s : State) (k : Nat) (f : Warp → Warp) : (s.updWarp k f).misses = s.misses := rfl
@[simp] theorem State.updWarp_pinned (s : State) (k : Nat) (f : Warp → Warp) : (s.updWarp k f).pinned = s.pinned := rfl
@[simp] theorem State.updWarp_stamps (s : State) (k : Nat) (f : Warp → Warp) : (s.updWarp k f).stamps = s.stamps := rfl
@[simp] theorem State.updWarp_strong (s : State) (k : Nat) (f : Warp → Warp) : (s.updWarp k f).strong = s.strong := rfl
@[simp] theorem State.updWarp_told (s : State) (k : Nat) (f : Warp → Warp) : (s.updWarp k f).told = s.told := rfl
@[simp] theorem State.updWarp_lost (s : State) (k : Nat) (f : Warp → Warp) : (s.updWarp k f).lost = s.lost := rfl
@[simp] theorem State.updWarp_asked (s : State) (k : Nat) (f : Warp → Warp) : (s.updWarp k f).asked = s.asked := rfl
@[simp] theorem State.updWarp_accesses (s : State) (k : Nat) (f : Warp → Warp) : (s.updWarp k f).accesses = s.accesses := rfl
@[simp] theorem State.updWarp_fences (s : State) (k : Nat) (f : Warp → Warp) : (s.updWarp k f).fences = s.fences := rfl
@[simp] theorem State.updWarp_outs (s : State) (k : Nat) (f : Warp → Warp) : (s.updWarp k f).outs = s.outs := rfl
@[simp] theorem State.updWarp_engines (s : State) (k : Nat) (f : Warp → Warp) : (s.updWarp k f).engines = s.engines := rfl
@[simp] theorem State.updWarp_cores (s : State) (k : Nat) (f : Warp → Warp) : (s.updWarp k f).cores = s.cores := rfl
@[simp] theorem State.updWarp_ctx (s : State) (k : Nat) (f : Warp → Warp) : (s.updWarp k f).ctx = s.ctx := rfl
@[simp] theorem State.updWarp_faultlog (s : State) (k : Nat) (f : Warp → Warp) : (s.updWarp k f).faultlog = s.faultlog := rfl
@[simp] theorem State.updWarp_heldLog (s : State) (k : Nat) (f : Warp → Warp) : (s.updWarp k f).heldLog = s.heldLog := rfl
@[simp] theorem State.updWarp_heldEvents (s : State) (k : Nat) (f : Warp → Warp) : (s.updWarp k f).heldEvents = s.heldEvents := rfl
@[simp] theorem State.updWarp_tickets (s : State) (k : Nat) (f : Warp → Warp) : (s.updWarp k f).tickets = s.tickets := rfl
@[simp] theorem State.updWarp_bins (s : State) (k : Nat) (f : Warp → Warp) : (s.updWarp k f).bins = s.bins := rfl
@[simp] theorem State.updWarp_live (s : State) (k : Nat) (f : Warp → Warp) : (s.updWarp k f).live = s.live := rfl
@[simp] theorem State.updWarp_asidTable (s : State) (k : Nat) (f : Warp → Warp) : (s.updWarp k f).asidTable = s.asidTable := rfl
@[simp] theorem State.updWarp_boot (s : State) (k : Nat) (f : Warp → Warp) : (s.updWarp k f).boot = s.boot := rfl
@[simp] theorem State.updWarp_stage (s : State) (k : Nat) (f : Warp → Warp) : (s.updWarp k f).stage = s.stage := rfl
@[simp] theorem State.updWarp_startFailed (s : State) (k : Nat) (f : Warp → Warp) : (s.updWarp k f).startFailed = s.startFailed := rfl
@[simp] theorem State.updWarp_warm (s : State) (k : Nat) (f : Warp → Warp) : (s.updWarp k f).warm = s.warm := rfl
@[simp] theorem State.updWarp_selftest (s : State) (k : Nat) (f : Warp → Warp) : (s.updWarp k f).selftest = s.selftest := rfl
@[simp] theorem State.updWarp_verified (s : State) (k : Nat) (f : Warp → Warp) : (s.updWarp k f).verified = s.verified := rfl
@[simp] theorem State.updWarp_flash (s : State) (k : Nat) (f : Warp → Warp) : (s.updWarp k f).flash = s.flash := rfl
@[simp] theorem State.updWarp_hw (s : State) (k : Nat) (f : Warp → Warp) : (s.updWarp k f).hw = s.hw := rfl
@[simp] theorem State.updWarp_failed (s : State) (k : Nat) (f : Warp → Warp) : (s.updWarp k f).failed = s.failed := rfl
@[simp] theorem State.updWarp_throttled (s : State) (k : Nat) (f : Warp → Warp) : (s.updWarp k f).throttled = s.throttled := rfl
@[simp] theorem State.updWarp_slow (s : State) (k : Nat) (f : Warp → Warp) : (s.updWarp k f).slow = s.slow := rfl
@[simp] theorem State.updWarp_skipped (s : State) (k : Nat) (f : Warp → Warp) : (s.updWarp k f).skipped = s.skipped := rfl
@[simp] theorem State.updWarp_lock (s : State) (k : Nat) (f : Warp → Warp) : (s.updWarp k f).lock = s.lock := rfl
@[simp] theorem State.updWarp_mbox (s : State) (k : Nat) (f : Warp → Warp) : (s.updWarp k f).mbox = s.mbox := rfl
@[simp] theorem State.updWarp_winbase (s : State) (k : Nat) (f : Warp → Warp) : (s.updWarp k f).winbase = s.winbase := rfl
@[simp] theorem State.updWarp_mailbox (s : State) (k : Nat) (f : Warp → Warp) : (s.updWarp k f).mailbox = s.mailbox := rfl
@[simp] theorem State.updWarp_power (s : State) (k : Nat) (f : Warp → Warp) : (s.updWarp k f).power = s.power := rfl
@[simp] theorem State.updWarp_active (s : State) (k : Nat) (f : Warp → Warp) : (s.updWarp k f).active = s.active := rfl
@[simp] theorem State.updWarp_device (s : State) (k : Nat) (f : Warp → Warp) : (s.updWarp k f).device = s.device := rfl
@[simp] theorem State.updWarp_cxl (s : State) (k : Nat) (f : Warp → Warp) : (s.updWarp k f).cxl = s.cxl := rfl
@[simp] theorem State.updWarp_routes (s : State) (k : Nat) (f : Warp → Warp) : (s.updWarp k f).routes = s.routes := rfl
@[simp] theorem State.updWarp_peerHold (s : State) (k : Nat) (f : Warp → Warp) : (s.updWarp k f).peerHold = s.peerHold := rfl
@[simp] theorem State.updWarp_teamAt (s : State) (k : Nat) (f : Warp → Warp) (j : Nat) : (s.updWarp k f).team? j = s.team? j := rfl
@[simp] theorem State.updWarp_launchAt (s : State) (k : Nat) (f : Warp → Warp) (j : Nat) : (s.updWarp k f).launch? j = s.launch? j := rfl
@[simp] theorem State.updWarp_ctxOfAt (s : State) (k : Nat) (f : Warp → Warp) (j : Nat) : (s.updWarp k f).ctxOf j = s.ctxOf j := rfl
@[simp] theorem State.updWarp_coreAt (s : State) (k : Nat) (f : Warp → Warp) (j : Nat) : (s.updWarp k f).core j = s.core j := rfl

/-! ## setWarp -/

@[simp] theorem State.setWarp_mem (s : State) (k : Nat) (w : Warp) : (s.setWarp k w).mem = s.mem := rfl
@[simp] theorem State.setWarp_poison (s : State) (k : Nat) (w : Warp) : (s.setWarp k w).poison = s.poison := rfl
@[simp] theorem State.setWarp_cur (s : State) (k : Nat) (w : Warp) : (s.setWarp k w).cur = s.cur := rfl
@[simp] theorem State.setWarp_inputs (s : State) (k : Nat) (w : Warp) : (s.setWarp k w).inputs = s.inputs := rfl
@[simp] theorem State.setWarp_free (s : State) (k : Nat) (w : Warp) : (s.setWarp k w).free = s.free := rfl
@[simp] theorem State.setWarp_cycle (s : State) (k : Nat) (w : Warp) : (s.setWarp k w).cycle = s.cycle := rfl
@[simp] theorem State.setWarp_clock (s : State) (k : Nat) (w : Warp) : (s.setWarp k w).clock = s.clock := rfl
@[simp] theorem State.setWarp_teams (s : State) (k : Nat) (w : Warp) : (s.setWarp k w).teams = s.teams := rfl
@[simp] theorem State.setWarp_launches (s : State) (k : Nat) (w : Warp) : (s.setWarp k w).launches = s.launches := rfl
@[simp] theorem State.setWarp_launchNo (s : State) (k : Nat) (w : Warp) : (s.setWarp k w).launchNo = s.launchNo := rfl
@[simp] theorem State.setWarp_fresh (s : State) (k : Nat) (w : Warp) : (s.setWarp k w).fresh = s.fresh := rfl
@[simp] theorem State.setWarp_l2 (s : State) (k : Nat) (w : Warp) : (s.setWarp k w).l2 = s.l2 := rfl
@[simp] theorem State.setWarp_tlb (s : State) (k : Nat) (w : Warp) : (s.setWarp k w).tlb = s.tlb := rfl
@[simp] theorem State.setWarp_misses (s : State) (k : Nat) (w : Warp) : (s.setWarp k w).misses = s.misses := rfl
@[simp] theorem State.setWarp_pinned (s : State) (k : Nat) (w : Warp) : (s.setWarp k w).pinned = s.pinned := rfl
@[simp] theorem State.setWarp_stamps (s : State) (k : Nat) (w : Warp) : (s.setWarp k w).stamps = s.stamps := rfl
@[simp] theorem State.setWarp_strong (s : State) (k : Nat) (w : Warp) : (s.setWarp k w).strong = s.strong := rfl
@[simp] theorem State.setWarp_told (s : State) (k : Nat) (w : Warp) : (s.setWarp k w).told = s.told := rfl
@[simp] theorem State.setWarp_lost (s : State) (k : Nat) (w : Warp) : (s.setWarp k w).lost = s.lost := rfl
@[simp] theorem State.setWarp_asked (s : State) (k : Nat) (w : Warp) : (s.setWarp k w).asked = s.asked := rfl
@[simp] theorem State.setWarp_accesses (s : State) (k : Nat) (w : Warp) : (s.setWarp k w).accesses = s.accesses := rfl
@[simp] theorem State.setWarp_fences (s : State) (k : Nat) (w : Warp) : (s.setWarp k w).fences = s.fences := rfl
@[simp] theorem State.setWarp_outs (s : State) (k : Nat) (w : Warp) : (s.setWarp k w).outs = s.outs := rfl
@[simp] theorem State.setWarp_engines (s : State) (k : Nat) (w : Warp) : (s.setWarp k w).engines = s.engines := rfl
@[simp] theorem State.setWarp_cores (s : State) (k : Nat) (w : Warp) : (s.setWarp k w).cores = s.cores := rfl
@[simp] theorem State.setWarp_ctx (s : State) (k : Nat) (w : Warp) : (s.setWarp k w).ctx = s.ctx := rfl
@[simp] theorem State.setWarp_faultlog (s : State) (k : Nat) (w : Warp) : (s.setWarp k w).faultlog = s.faultlog := rfl
@[simp] theorem State.setWarp_heldLog (s : State) (k : Nat) (w : Warp) : (s.setWarp k w).heldLog = s.heldLog := rfl
@[simp] theorem State.setWarp_heldEvents (s : State) (k : Nat) (w : Warp) : (s.setWarp k w).heldEvents = s.heldEvents := rfl
@[simp] theorem State.setWarp_tickets (s : State) (k : Nat) (w : Warp) : (s.setWarp k w).tickets = s.tickets := rfl
@[simp] theorem State.setWarp_bins (s : State) (k : Nat) (w : Warp) : (s.setWarp k w).bins = s.bins := rfl
@[simp] theorem State.setWarp_live (s : State) (k : Nat) (w : Warp) : (s.setWarp k w).live = s.live := rfl
@[simp] theorem State.setWarp_asidTable (s : State) (k : Nat) (w : Warp) : (s.setWarp k w).asidTable = s.asidTable := rfl
@[simp] theorem State.setWarp_boot (s : State) (k : Nat) (w : Warp) : (s.setWarp k w).boot = s.boot := rfl
@[simp] theorem State.setWarp_stage (s : State) (k : Nat) (w : Warp) : (s.setWarp k w).stage = s.stage := rfl
@[simp] theorem State.setWarp_startFailed (s : State) (k : Nat) (w : Warp) : (s.setWarp k w).startFailed = s.startFailed := rfl
@[simp] theorem State.setWarp_warm (s : State) (k : Nat) (w : Warp) : (s.setWarp k w).warm = s.warm := rfl
@[simp] theorem State.setWarp_selftest (s : State) (k : Nat) (w : Warp) : (s.setWarp k w).selftest = s.selftest := rfl
@[simp] theorem State.setWarp_verified (s : State) (k : Nat) (w : Warp) : (s.setWarp k w).verified = s.verified := rfl
@[simp] theorem State.setWarp_flash (s : State) (k : Nat) (w : Warp) : (s.setWarp k w).flash = s.flash := rfl
@[simp] theorem State.setWarp_hw (s : State) (k : Nat) (w : Warp) : (s.setWarp k w).hw = s.hw := rfl
@[simp] theorem State.setWarp_failed (s : State) (k : Nat) (w : Warp) : (s.setWarp k w).failed = s.failed := rfl
@[simp] theorem State.setWarp_throttled (s : State) (k : Nat) (w : Warp) : (s.setWarp k w).throttled = s.throttled := rfl
@[simp] theorem State.setWarp_slow (s : State) (k : Nat) (w : Warp) : (s.setWarp k w).slow = s.slow := rfl
@[simp] theorem State.setWarp_skipped (s : State) (k : Nat) (w : Warp) : (s.setWarp k w).skipped = s.skipped := rfl
@[simp] theorem State.setWarp_lock (s : State) (k : Nat) (w : Warp) : (s.setWarp k w).lock = s.lock := rfl
@[simp] theorem State.setWarp_mbox (s : State) (k : Nat) (w : Warp) : (s.setWarp k w).mbox = s.mbox := rfl
@[simp] theorem State.setWarp_winbase (s : State) (k : Nat) (w : Warp) : (s.setWarp k w).winbase = s.winbase := rfl
@[simp] theorem State.setWarp_mailbox (s : State) (k : Nat) (w : Warp) : (s.setWarp k w).mailbox = s.mailbox := rfl
@[simp] theorem State.setWarp_power (s : State) (k : Nat) (w : Warp) : (s.setWarp k w).power = s.power := rfl
@[simp] theorem State.setWarp_active (s : State) (k : Nat) (w : Warp) : (s.setWarp k w).active = s.active := rfl
@[simp] theorem State.setWarp_device (s : State) (k : Nat) (w : Warp) : (s.setWarp k w).device = s.device := rfl
@[simp] theorem State.setWarp_cxl (s : State) (k : Nat) (w : Warp) : (s.setWarp k w).cxl = s.cxl := rfl
@[simp] theorem State.setWarp_routes (s : State) (k : Nat) (w : Warp) : (s.setWarp k w).routes = s.routes := rfl
@[simp] theorem State.setWarp_peerHold (s : State) (k : Nat) (w : Warp) : (s.setWarp k w).peerHold = s.peerHold := rfl
@[simp] theorem State.setWarp_teamAt (s : State) (k : Nat) (w : Warp) (j : Nat) : (s.setWarp k w).team? j = s.team? j := rfl
@[simp] theorem State.setWarp_launchAt (s : State) (k : Nat) (w : Warp) (j : Nat) : (s.setWarp k w).launch? j = s.launch? j := rfl
@[simp] theorem State.setWarp_ctxOfAt (s : State) (k : Nat) (w : Warp) (j : Nat) : (s.setWarp k w).ctxOf j = s.ctxOf j := rfl
@[simp] theorem State.setWarp_coreAt (s : State) (k : Nat) (w : Warp) (j : Nat) : (s.setWarp k w).core j = s.core j := rfl

/-! ## updPath -/

@[simp] theorem State.updPath_mem (s : State) (k p : Nat) (f : Path → Path) : (s.updPath k p f).mem = s.mem := rfl
@[simp] theorem State.updPath_poison (s : State) (k p : Nat) (f : Path → Path) : (s.updPath k p f).poison = s.poison := rfl
@[simp] theorem State.updPath_cur (s : State) (k p : Nat) (f : Path → Path) : (s.updPath k p f).cur = s.cur := rfl
@[simp] theorem State.updPath_inputs (s : State) (k p : Nat) (f : Path → Path) : (s.updPath k p f).inputs = s.inputs := rfl
@[simp] theorem State.updPath_free (s : State) (k p : Nat) (f : Path → Path) : (s.updPath k p f).free = s.free := rfl
@[simp] theorem State.updPath_cycle (s : State) (k p : Nat) (f : Path → Path) : (s.updPath k p f).cycle = s.cycle := rfl
@[simp] theorem State.updPath_clock (s : State) (k p : Nat) (f : Path → Path) : (s.updPath k p f).clock = s.clock := rfl
@[simp] theorem State.updPath_teams (s : State) (k p : Nat) (f : Path → Path) : (s.updPath k p f).teams = s.teams := rfl
@[simp] theorem State.updPath_launches (s : State) (k p : Nat) (f : Path → Path) : (s.updPath k p f).launches = s.launches := rfl
@[simp] theorem State.updPath_launchNo (s : State) (k p : Nat) (f : Path → Path) : (s.updPath k p f).launchNo = s.launchNo := rfl
@[simp] theorem State.updPath_fresh (s : State) (k p : Nat) (f : Path → Path) : (s.updPath k p f).fresh = s.fresh := rfl
@[simp] theorem State.updPath_l2 (s : State) (k p : Nat) (f : Path → Path) : (s.updPath k p f).l2 = s.l2 := rfl
@[simp] theorem State.updPath_tlb (s : State) (k p : Nat) (f : Path → Path) : (s.updPath k p f).tlb = s.tlb := rfl
@[simp] theorem State.updPath_misses (s : State) (k p : Nat) (f : Path → Path) : (s.updPath k p f).misses = s.misses := rfl
@[simp] theorem State.updPath_pinned (s : State) (k p : Nat) (f : Path → Path) : (s.updPath k p f).pinned = s.pinned := rfl
@[simp] theorem State.updPath_stamps (s : State) (k p : Nat) (f : Path → Path) : (s.updPath k p f).stamps = s.stamps := rfl
@[simp] theorem State.updPath_strong (s : State) (k p : Nat) (f : Path → Path) : (s.updPath k p f).strong = s.strong := rfl
@[simp] theorem State.updPath_told (s : State) (k p : Nat) (f : Path → Path) : (s.updPath k p f).told = s.told := rfl
@[simp] theorem State.updPath_lost (s : State) (k p : Nat) (f : Path → Path) : (s.updPath k p f).lost = s.lost := rfl
@[simp] theorem State.updPath_asked (s : State) (k p : Nat) (f : Path → Path) : (s.updPath k p f).asked = s.asked := rfl
@[simp] theorem State.updPath_accesses (s : State) (k p : Nat) (f : Path → Path) : (s.updPath k p f).accesses = s.accesses := rfl
@[simp] theorem State.updPath_fences (s : State) (k p : Nat) (f : Path → Path) : (s.updPath k p f).fences = s.fences := rfl
@[simp] theorem State.updPath_outs (s : State) (k p : Nat) (f : Path → Path) : (s.updPath k p f).outs = s.outs := rfl
@[simp] theorem State.updPath_engines (s : State) (k p : Nat) (f : Path → Path) : (s.updPath k p f).engines = s.engines := rfl
@[simp] theorem State.updPath_cores (s : State) (k p : Nat) (f : Path → Path) : (s.updPath k p f).cores = s.cores := rfl
@[simp] theorem State.updPath_ctx (s : State) (k p : Nat) (f : Path → Path) : (s.updPath k p f).ctx = s.ctx := rfl
@[simp] theorem State.updPath_faultlog (s : State) (k p : Nat) (f : Path → Path) : (s.updPath k p f).faultlog = s.faultlog := rfl
@[simp] theorem State.updPath_heldLog (s : State) (k p : Nat) (f : Path → Path) : (s.updPath k p f).heldLog = s.heldLog := rfl
@[simp] theorem State.updPath_heldEvents (s : State) (k p : Nat) (f : Path → Path) : (s.updPath k p f).heldEvents = s.heldEvents := rfl
@[simp] theorem State.updPath_tickets (s : State) (k p : Nat) (f : Path → Path) : (s.updPath k p f).tickets = s.tickets := rfl
@[simp] theorem State.updPath_bins (s : State) (k p : Nat) (f : Path → Path) : (s.updPath k p f).bins = s.bins := rfl
@[simp] theorem State.updPath_live (s : State) (k p : Nat) (f : Path → Path) : (s.updPath k p f).live = s.live := rfl
@[simp] theorem State.updPath_asidTable (s : State) (k p : Nat) (f : Path → Path) : (s.updPath k p f).asidTable = s.asidTable := rfl
@[simp] theorem State.updPath_boot (s : State) (k p : Nat) (f : Path → Path) : (s.updPath k p f).boot = s.boot := rfl
@[simp] theorem State.updPath_stage (s : State) (k p : Nat) (f : Path → Path) : (s.updPath k p f).stage = s.stage := rfl
@[simp] theorem State.updPath_startFailed (s : State) (k p : Nat) (f : Path → Path) : (s.updPath k p f).startFailed = s.startFailed := rfl
@[simp] theorem State.updPath_warm (s : State) (k p : Nat) (f : Path → Path) : (s.updPath k p f).warm = s.warm := rfl
@[simp] theorem State.updPath_selftest (s : State) (k p : Nat) (f : Path → Path) : (s.updPath k p f).selftest = s.selftest := rfl
@[simp] theorem State.updPath_verified (s : State) (k p : Nat) (f : Path → Path) : (s.updPath k p f).verified = s.verified := rfl
@[simp] theorem State.updPath_flash (s : State) (k p : Nat) (f : Path → Path) : (s.updPath k p f).flash = s.flash := rfl
@[simp] theorem State.updPath_hw (s : State) (k p : Nat) (f : Path → Path) : (s.updPath k p f).hw = s.hw := rfl
@[simp] theorem State.updPath_failed (s : State) (k p : Nat) (f : Path → Path) : (s.updPath k p f).failed = s.failed := rfl
@[simp] theorem State.updPath_throttled (s : State) (k p : Nat) (f : Path → Path) : (s.updPath k p f).throttled = s.throttled := rfl
@[simp] theorem State.updPath_slow (s : State) (k p : Nat) (f : Path → Path) : (s.updPath k p f).slow = s.slow := rfl
@[simp] theorem State.updPath_skipped (s : State) (k p : Nat) (f : Path → Path) : (s.updPath k p f).skipped = s.skipped := rfl
@[simp] theorem State.updPath_lock (s : State) (k p : Nat) (f : Path → Path) : (s.updPath k p f).lock = s.lock := rfl
@[simp] theorem State.updPath_mbox (s : State) (k p : Nat) (f : Path → Path) : (s.updPath k p f).mbox = s.mbox := rfl
@[simp] theorem State.updPath_winbase (s : State) (k p : Nat) (f : Path → Path) : (s.updPath k p f).winbase = s.winbase := rfl
@[simp] theorem State.updPath_mailbox (s : State) (k p : Nat) (f : Path → Path) : (s.updPath k p f).mailbox = s.mailbox := rfl
@[simp] theorem State.updPath_power (s : State) (k p : Nat) (f : Path → Path) : (s.updPath k p f).power = s.power := rfl
@[simp] theorem State.updPath_active (s : State) (k p : Nat) (f : Path → Path) : (s.updPath k p f).active = s.active := rfl
@[simp] theorem State.updPath_device (s : State) (k p : Nat) (f : Path → Path) : (s.updPath k p f).device = s.device := rfl
@[simp] theorem State.updPath_cxl (s : State) (k p : Nat) (f : Path → Path) : (s.updPath k p f).cxl = s.cxl := rfl
@[simp] theorem State.updPath_routes (s : State) (k p : Nat) (f : Path → Path) : (s.updPath k p f).routes = s.routes := rfl
@[simp] theorem State.updPath_peerHold (s : State) (k p : Nat) (f : Path → Path) : (s.updPath k p f).peerHold = s.peerHold := rfl
@[simp] theorem State.updPath_teamAt (s : State) (k p : Nat) (f : Path → Path) (j : Nat) : (s.updPath k p f).team? j = s.team? j := rfl
@[simp] theorem State.updPath_launchAt (s : State) (k p : Nat) (f : Path → Path) (j : Nat) : (s.updPath k p f).launch? j = s.launch? j := rfl
@[simp] theorem State.updPath_ctxOfAt (s : State) (k p : Nat) (f : Path → Path) (j : Nat) : (s.updPath k p f).ctxOf j = s.ctxOf j := rfl
@[simp] theorem State.updPath_coreAt (s : State) (k p : Nat) (f : Path → Path) (j : Nat) : (s.updPath k p f).core j = s.core j := rfl

/-! ## updCore -/

@[simp] theorem State.updCore_mem (s : State) (c : Nat) (f : CoreState → CoreState) : (s.updCore c f).mem = s.mem := rfl
@[simp] theorem State.updCore_poison (s : State) (c : Nat) (f : CoreState → CoreState) : (s.updCore c f).poison = s.poison := rfl
@[simp] theorem State.updCore_cur (s : State) (c : Nat) (f : CoreState → CoreState) : (s.updCore c f).cur = s.cur := rfl
@[simp] theorem State.updCore_inputs (s : State) (c : Nat) (f : CoreState → CoreState) : (s.updCore c f).inputs = s.inputs := rfl
@[simp] theorem State.updCore_free (s : State) (c : Nat) (f : CoreState → CoreState) : (s.updCore c f).free = s.free := rfl
@[simp] theorem State.updCore_cycle (s : State) (c : Nat) (f : CoreState → CoreState) : (s.updCore c f).cycle = s.cycle := rfl
@[simp] theorem State.updCore_clock (s : State) (c : Nat) (f : CoreState → CoreState) : (s.updCore c f).clock = s.clock := rfl
@[simp] theorem State.updCore_warps (s : State) (c : Nat) (f : CoreState → CoreState) : (s.updCore c f).warps = s.warps := rfl
@[simp] theorem State.updCore_teams (s : State) (c : Nat) (f : CoreState → CoreState) : (s.updCore c f).teams = s.teams := rfl
@[simp] theorem State.updCore_launches (s : State) (c : Nat) (f : CoreState → CoreState) : (s.updCore c f).launches = s.launches := rfl
@[simp] theorem State.updCore_launchNo (s : State) (c : Nat) (f : CoreState → CoreState) : (s.updCore c f).launchNo = s.launchNo := rfl
@[simp] theorem State.updCore_fresh (s : State) (c : Nat) (f : CoreState → CoreState) : (s.updCore c f).fresh = s.fresh := rfl
@[simp] theorem State.updCore_l2 (s : State) (c : Nat) (f : CoreState → CoreState) : (s.updCore c f).l2 = s.l2 := rfl
@[simp] theorem State.updCore_tlb (s : State) (c : Nat) (f : CoreState → CoreState) : (s.updCore c f).tlb = s.tlb := rfl
@[simp] theorem State.updCore_misses (s : State) (c : Nat) (f : CoreState → CoreState) : (s.updCore c f).misses = s.misses := rfl
@[simp] theorem State.updCore_pinned (s : State) (c : Nat) (f : CoreState → CoreState) : (s.updCore c f).pinned = s.pinned := rfl
@[simp] theorem State.updCore_stamps (s : State) (c : Nat) (f : CoreState → CoreState) : (s.updCore c f).stamps = s.stamps := rfl
@[simp] theorem State.updCore_strong (s : State) (c : Nat) (f : CoreState → CoreState) : (s.updCore c f).strong = s.strong := rfl
@[simp] theorem State.updCore_told (s : State) (c : Nat) (f : CoreState → CoreState) : (s.updCore c f).told = s.told := rfl
@[simp] theorem State.updCore_lost (s : State) (c : Nat) (f : CoreState → CoreState) : (s.updCore c f).lost = s.lost := rfl
@[simp] theorem State.updCore_asked (s : State) (c : Nat) (f : CoreState → CoreState) : (s.updCore c f).asked = s.asked := rfl
@[simp] theorem State.updCore_accesses (s : State) (c : Nat) (f : CoreState → CoreState) : (s.updCore c f).accesses = s.accesses := rfl
@[simp] theorem State.updCore_fences (s : State) (c : Nat) (f : CoreState → CoreState) : (s.updCore c f).fences = s.fences := rfl
@[simp] theorem State.updCore_outs (s : State) (c : Nat) (f : CoreState → CoreState) : (s.updCore c f).outs = s.outs := rfl
@[simp] theorem State.updCore_engines (s : State) (c : Nat) (f : CoreState → CoreState) : (s.updCore c f).engines = s.engines := rfl
@[simp] theorem State.updCore_ctx (s : State) (c : Nat) (f : CoreState → CoreState) : (s.updCore c f).ctx = s.ctx := rfl
@[simp] theorem State.updCore_faultlog (s : State) (c : Nat) (f : CoreState → CoreState) : (s.updCore c f).faultlog = s.faultlog := rfl
@[simp] theorem State.updCore_heldLog (s : State) (c : Nat) (f : CoreState → CoreState) : (s.updCore c f).heldLog = s.heldLog := rfl
@[simp] theorem State.updCore_heldEvents (s : State) (c : Nat) (f : CoreState → CoreState) : (s.updCore c f).heldEvents = s.heldEvents := rfl
@[simp] theorem State.updCore_tickets (s : State) (c : Nat) (f : CoreState → CoreState) : (s.updCore c f).tickets = s.tickets := rfl
@[simp] theorem State.updCore_bins (s : State) (c : Nat) (f : CoreState → CoreState) : (s.updCore c f).bins = s.bins := rfl
@[simp] theorem State.updCore_live (s : State) (c : Nat) (f : CoreState → CoreState) : (s.updCore c f).live = s.live := rfl
@[simp] theorem State.updCore_asidTable (s : State) (c : Nat) (f : CoreState → CoreState) : (s.updCore c f).asidTable = s.asidTable := rfl
@[simp] theorem State.updCore_boot (s : State) (c : Nat) (f : CoreState → CoreState) : (s.updCore c f).boot = s.boot := rfl
@[simp] theorem State.updCore_stage (s : State) (c : Nat) (f : CoreState → CoreState) : (s.updCore c f).stage = s.stage := rfl
@[simp] theorem State.updCore_startFailed (s : State) (c : Nat) (f : CoreState → CoreState) : (s.updCore c f).startFailed = s.startFailed := rfl
@[simp] theorem State.updCore_warm (s : State) (c : Nat) (f : CoreState → CoreState) : (s.updCore c f).warm = s.warm := rfl
@[simp] theorem State.updCore_selftest (s : State) (c : Nat) (f : CoreState → CoreState) : (s.updCore c f).selftest = s.selftest := rfl
@[simp] theorem State.updCore_verified (s : State) (c : Nat) (f : CoreState → CoreState) : (s.updCore c f).verified = s.verified := rfl
@[simp] theorem State.updCore_flash (s : State) (c : Nat) (f : CoreState → CoreState) : (s.updCore c f).flash = s.flash := rfl
@[simp] theorem State.updCore_hw (s : State) (c : Nat) (f : CoreState → CoreState) : (s.updCore c f).hw = s.hw := rfl
@[simp] theorem State.updCore_failed (s : State) (c : Nat) (f : CoreState → CoreState) : (s.updCore c f).failed = s.failed := rfl
@[simp] theorem State.updCore_throttled (s : State) (c : Nat) (f : CoreState → CoreState) : (s.updCore c f).throttled = s.throttled := rfl
@[simp] theorem State.updCore_slow (s : State) (c : Nat) (f : CoreState → CoreState) : (s.updCore c f).slow = s.slow := rfl
@[simp] theorem State.updCore_skipped (s : State) (c : Nat) (f : CoreState → CoreState) : (s.updCore c f).skipped = s.skipped := rfl
@[simp] theorem State.updCore_lock (s : State) (c : Nat) (f : CoreState → CoreState) : (s.updCore c f).lock = s.lock := rfl
@[simp] theorem State.updCore_mbox (s : State) (c : Nat) (f : CoreState → CoreState) : (s.updCore c f).mbox = s.mbox := rfl
@[simp] theorem State.updCore_winbase (s : State) (c : Nat) (f : CoreState → CoreState) : (s.updCore c f).winbase = s.winbase := rfl
@[simp] theorem State.updCore_mailbox (s : State) (c : Nat) (f : CoreState → CoreState) : (s.updCore c f).mailbox = s.mailbox := rfl
@[simp] theorem State.updCore_power (s : State) (c : Nat) (f : CoreState → CoreState) : (s.updCore c f).power = s.power := rfl
@[simp] theorem State.updCore_active (s : State) (c : Nat) (f : CoreState → CoreState) : (s.updCore c f).active = s.active := rfl
@[simp] theorem State.updCore_device (s : State) (c : Nat) (f : CoreState → CoreState) : (s.updCore c f).device = s.device := rfl
@[simp] theorem State.updCore_cxl (s : State) (c : Nat) (f : CoreState → CoreState) : (s.updCore c f).cxl = s.cxl := rfl
@[simp] theorem State.updCore_routes (s : State) (c : Nat) (f : CoreState → CoreState) : (s.updCore c f).routes = s.routes := rfl
@[simp] theorem State.updCore_peerHold (s : State) (c : Nat) (f : CoreState → CoreState) : (s.updCore c f).peerHold = s.peerHold := rfl
@[simp] theorem State.updCore_warpAt (s : State) (c : Nat) (f : CoreState → CoreState) (j : Nat) : (s.updCore c f).warp? j = s.warp? j := rfl
@[simp] theorem State.updCore_teamAt (s : State) (c : Nat) (f : CoreState → CoreState) (j : Nat) : (s.updCore c f).team? j = s.team? j := rfl
@[simp] theorem State.updCore_launchAt (s : State) (c : Nat) (f : CoreState → CoreState) (j : Nat) : (s.updCore c f).launch? j = s.launch? j := rfl
@[simp] theorem State.updCore_ctxOfAt (s : State) (c : Nat) (f : CoreState → CoreState) (j : Nat) : (s.updCore c f).ctxOf j = s.ctxOf j := rfl

/-! ## updCtx -/

@[simp] theorem State.updCtx_mem (s : State) (a : Nat) (f : Ctx → Ctx) : (s.updCtx a f).mem = s.mem := rfl
@[simp] theorem State.updCtx_poison (s : State) (a : Nat) (f : Ctx → Ctx) : (s.updCtx a f).poison = s.poison := rfl
@[simp] theorem State.updCtx_cur (s : State) (a : Nat) (f : Ctx → Ctx) : (s.updCtx a f).cur = s.cur := rfl
@[simp] theorem State.updCtx_inputs (s : State) (a : Nat) (f : Ctx → Ctx) : (s.updCtx a f).inputs = s.inputs := rfl
@[simp] theorem State.updCtx_free (s : State) (a : Nat) (f : Ctx → Ctx) : (s.updCtx a f).free = s.free := rfl
@[simp] theorem State.updCtx_cycle (s : State) (a : Nat) (f : Ctx → Ctx) : (s.updCtx a f).cycle = s.cycle := rfl
@[simp] theorem State.updCtx_clock (s : State) (a : Nat) (f : Ctx → Ctx) : (s.updCtx a f).clock = s.clock := rfl
@[simp] theorem State.updCtx_warps (s : State) (a : Nat) (f : Ctx → Ctx) : (s.updCtx a f).warps = s.warps := rfl
@[simp] theorem State.updCtx_teams (s : State) (a : Nat) (f : Ctx → Ctx) : (s.updCtx a f).teams = s.teams := rfl
@[simp] theorem State.updCtx_launches (s : State) (a : Nat) (f : Ctx → Ctx) : (s.updCtx a f).launches = s.launches := rfl
@[simp] theorem State.updCtx_launchNo (s : State) (a : Nat) (f : Ctx → Ctx) : (s.updCtx a f).launchNo = s.launchNo := rfl
@[simp] theorem State.updCtx_fresh (s : State) (a : Nat) (f : Ctx → Ctx) : (s.updCtx a f).fresh = s.fresh := rfl
@[simp] theorem State.updCtx_l2 (s : State) (a : Nat) (f : Ctx → Ctx) : (s.updCtx a f).l2 = s.l2 := rfl
@[simp] theorem State.updCtx_tlb (s : State) (a : Nat) (f : Ctx → Ctx) : (s.updCtx a f).tlb = s.tlb := rfl
@[simp] theorem State.updCtx_misses (s : State) (a : Nat) (f : Ctx → Ctx) : (s.updCtx a f).misses = s.misses := rfl
@[simp] theorem State.updCtx_pinned (s : State) (a : Nat) (f : Ctx → Ctx) : (s.updCtx a f).pinned = s.pinned := rfl
@[simp] theorem State.updCtx_stamps (s : State) (a : Nat) (f : Ctx → Ctx) : (s.updCtx a f).stamps = s.stamps := rfl
@[simp] theorem State.updCtx_strong (s : State) (a : Nat) (f : Ctx → Ctx) : (s.updCtx a f).strong = s.strong := rfl
@[simp] theorem State.updCtx_told (s : State) (a : Nat) (f : Ctx → Ctx) : (s.updCtx a f).told = s.told := rfl
@[simp] theorem State.updCtx_lost (s : State) (a : Nat) (f : Ctx → Ctx) : (s.updCtx a f).lost = s.lost := rfl
@[simp] theorem State.updCtx_asked (s : State) (a : Nat) (f : Ctx → Ctx) : (s.updCtx a f).asked = s.asked := rfl
@[simp] theorem State.updCtx_accesses (s : State) (a : Nat) (f : Ctx → Ctx) : (s.updCtx a f).accesses = s.accesses := rfl
@[simp] theorem State.updCtx_fences (s : State) (a : Nat) (f : Ctx → Ctx) : (s.updCtx a f).fences = s.fences := rfl
@[simp] theorem State.updCtx_outs (s : State) (a : Nat) (f : Ctx → Ctx) : (s.updCtx a f).outs = s.outs := rfl
@[simp] theorem State.updCtx_engines (s : State) (a : Nat) (f : Ctx → Ctx) : (s.updCtx a f).engines = s.engines := rfl
@[simp] theorem State.updCtx_cores (s : State) (a : Nat) (f : Ctx → Ctx) : (s.updCtx a f).cores = s.cores := rfl
@[simp] theorem State.updCtx_faultlog (s : State) (a : Nat) (f : Ctx → Ctx) : (s.updCtx a f).faultlog = s.faultlog := rfl
@[simp] theorem State.updCtx_heldLog (s : State) (a : Nat) (f : Ctx → Ctx) : (s.updCtx a f).heldLog = s.heldLog := rfl
@[simp] theorem State.updCtx_heldEvents (s : State) (a : Nat) (f : Ctx → Ctx) : (s.updCtx a f).heldEvents = s.heldEvents := rfl
@[simp] theorem State.updCtx_tickets (s : State) (a : Nat) (f : Ctx → Ctx) : (s.updCtx a f).tickets = s.tickets := rfl
@[simp] theorem State.updCtx_bins (s : State) (a : Nat) (f : Ctx → Ctx) : (s.updCtx a f).bins = s.bins := rfl
@[simp] theorem State.updCtx_live (s : State) (a : Nat) (f : Ctx → Ctx) : (s.updCtx a f).live = s.live := rfl
@[simp] theorem State.updCtx_asidTable (s : State) (a : Nat) (f : Ctx → Ctx) : (s.updCtx a f).asidTable = s.asidTable := rfl
@[simp] theorem State.updCtx_boot (s : State) (a : Nat) (f : Ctx → Ctx) : (s.updCtx a f).boot = s.boot := rfl
@[simp] theorem State.updCtx_stage (s : State) (a : Nat) (f : Ctx → Ctx) : (s.updCtx a f).stage = s.stage := rfl
@[simp] theorem State.updCtx_startFailed (s : State) (a : Nat) (f : Ctx → Ctx) : (s.updCtx a f).startFailed = s.startFailed := rfl
@[simp] theorem State.updCtx_warm (s : State) (a : Nat) (f : Ctx → Ctx) : (s.updCtx a f).warm = s.warm := rfl
@[simp] theorem State.updCtx_selftest (s : State) (a : Nat) (f : Ctx → Ctx) : (s.updCtx a f).selftest = s.selftest := rfl
@[simp] theorem State.updCtx_verified (s : State) (a : Nat) (f : Ctx → Ctx) : (s.updCtx a f).verified = s.verified := rfl
@[simp] theorem State.updCtx_flash (s : State) (a : Nat) (f : Ctx → Ctx) : (s.updCtx a f).flash = s.flash := rfl
@[simp] theorem State.updCtx_hw (s : State) (a : Nat) (f : Ctx → Ctx) : (s.updCtx a f).hw = s.hw := rfl
@[simp] theorem State.updCtx_failed (s : State) (a : Nat) (f : Ctx → Ctx) : (s.updCtx a f).failed = s.failed := rfl
@[simp] theorem State.updCtx_throttled (s : State) (a : Nat) (f : Ctx → Ctx) : (s.updCtx a f).throttled = s.throttled := rfl
@[simp] theorem State.updCtx_slow (s : State) (a : Nat) (f : Ctx → Ctx) : (s.updCtx a f).slow = s.slow := rfl
@[simp] theorem State.updCtx_skipped (s : State) (a : Nat) (f : Ctx → Ctx) : (s.updCtx a f).skipped = s.skipped := rfl
@[simp] theorem State.updCtx_lock (s : State) (a : Nat) (f : Ctx → Ctx) : (s.updCtx a f).lock = s.lock := rfl
@[simp] theorem State.updCtx_mbox (s : State) (a : Nat) (f : Ctx → Ctx) : (s.updCtx a f).mbox = s.mbox := rfl
@[simp] theorem State.updCtx_winbase (s : State) (a : Nat) (f : Ctx → Ctx) : (s.updCtx a f).winbase = s.winbase := rfl
@[simp] theorem State.updCtx_mailbox (s : State) (a : Nat) (f : Ctx → Ctx) : (s.updCtx a f).mailbox = s.mailbox := rfl
@[simp] theorem State.updCtx_power (s : State) (a : Nat) (f : Ctx → Ctx) : (s.updCtx a f).power = s.power := rfl
@[simp] theorem State.updCtx_active (s : State) (a : Nat) (f : Ctx → Ctx) : (s.updCtx a f).active = s.active := rfl
@[simp] theorem State.updCtx_device (s : State) (a : Nat) (f : Ctx → Ctx) : (s.updCtx a f).device = s.device := rfl
@[simp] theorem State.updCtx_cxl (s : State) (a : Nat) (f : Ctx → Ctx) : (s.updCtx a f).cxl = s.cxl := rfl
@[simp] theorem State.updCtx_routes (s : State) (a : Nat) (f : Ctx → Ctx) : (s.updCtx a f).routes = s.routes := rfl
@[simp] theorem State.updCtx_peerHold (s : State) (a : Nat) (f : Ctx → Ctx) : (s.updCtx a f).peerHold = s.peerHold := rfl
@[simp] theorem State.updCtx_warpAt (s : State) (a : Nat) (f : Ctx → Ctx) (j : Nat) : (s.updCtx a f).warp? j = s.warp? j := rfl
@[simp] theorem State.updCtx_teamAt (s : State) (a : Nat) (f : Ctx → Ctx) (j : Nat) : (s.updCtx a f).team? j = s.team? j := rfl
@[simp] theorem State.updCtx_launchAt (s : State) (a : Nat) (f : Ctx → Ctx) (j : Nat) : (s.updCtx a f).launch? j = s.launch? j := rfl
@[simp] theorem State.updCtx_coreAt (s : State) (a : Nat) (f : Ctx → Ctx) (j : Nat) : (s.updCtx a f).core j = s.core j := rfl

/-! ## updTeam -/

@[simp] theorem State.updTeam_mem (s : State) (k : Nat) (f : Team → Team) : (s.updTeam k f).mem = s.mem := rfl
@[simp] theorem State.updTeam_poison (s : State) (k : Nat) (f : Team → Team) : (s.updTeam k f).poison = s.poison := rfl
@[simp] theorem State.updTeam_cur (s : State) (k : Nat) (f : Team → Team) : (s.updTeam k f).cur = s.cur := rfl
@[simp] theorem State.updTeam_inputs (s : State) (k : Nat) (f : Team → Team) : (s.updTeam k f).inputs = s.inputs := rfl
@[simp] theorem State.updTeam_free (s : State) (k : Nat) (f : Team → Team) : (s.updTeam k f).free = s.free := rfl
@[simp] theorem State.updTeam_cycle (s : State) (k : Nat) (f : Team → Team) : (s.updTeam k f).cycle = s.cycle := rfl
@[simp] theorem State.updTeam_clock (s : State) (k : Nat) (f : Team → Team) : (s.updTeam k f).clock = s.clock := rfl
@[simp] theorem State.updTeam_warps (s : State) (k : Nat) (f : Team → Team) : (s.updTeam k f).warps = s.warps := rfl
@[simp] theorem State.updTeam_launches (s : State) (k : Nat) (f : Team → Team) : (s.updTeam k f).launches = s.launches := rfl
@[simp] theorem State.updTeam_launchNo (s : State) (k : Nat) (f : Team → Team) : (s.updTeam k f).launchNo = s.launchNo := rfl
@[simp] theorem State.updTeam_fresh (s : State) (k : Nat) (f : Team → Team) : (s.updTeam k f).fresh = s.fresh := rfl
@[simp] theorem State.updTeam_l2 (s : State) (k : Nat) (f : Team → Team) : (s.updTeam k f).l2 = s.l2 := rfl
@[simp] theorem State.updTeam_tlb (s : State) (k : Nat) (f : Team → Team) : (s.updTeam k f).tlb = s.tlb := rfl
@[simp] theorem State.updTeam_misses (s : State) (k : Nat) (f : Team → Team) : (s.updTeam k f).misses = s.misses := rfl
@[simp] theorem State.updTeam_pinned (s : State) (k : Nat) (f : Team → Team) : (s.updTeam k f).pinned = s.pinned := rfl
@[simp] theorem State.updTeam_stamps (s : State) (k : Nat) (f : Team → Team) : (s.updTeam k f).stamps = s.stamps := rfl
@[simp] theorem State.updTeam_strong (s : State) (k : Nat) (f : Team → Team) : (s.updTeam k f).strong = s.strong := rfl
@[simp] theorem State.updTeam_told (s : State) (k : Nat) (f : Team → Team) : (s.updTeam k f).told = s.told := rfl
@[simp] theorem State.updTeam_lost (s : State) (k : Nat) (f : Team → Team) : (s.updTeam k f).lost = s.lost := rfl
@[simp] theorem State.updTeam_asked (s : State) (k : Nat) (f : Team → Team) : (s.updTeam k f).asked = s.asked := rfl
@[simp] theorem State.updTeam_accesses (s : State) (k : Nat) (f : Team → Team) : (s.updTeam k f).accesses = s.accesses := rfl
@[simp] theorem State.updTeam_fences (s : State) (k : Nat) (f : Team → Team) : (s.updTeam k f).fences = s.fences := rfl
@[simp] theorem State.updTeam_outs (s : State) (k : Nat) (f : Team → Team) : (s.updTeam k f).outs = s.outs := rfl
@[simp] theorem State.updTeam_engines (s : State) (k : Nat) (f : Team → Team) : (s.updTeam k f).engines = s.engines := rfl
@[simp] theorem State.updTeam_cores (s : State) (k : Nat) (f : Team → Team) : (s.updTeam k f).cores = s.cores := rfl
@[simp] theorem State.updTeam_ctx (s : State) (k : Nat) (f : Team → Team) : (s.updTeam k f).ctx = s.ctx := rfl
@[simp] theorem State.updTeam_faultlog (s : State) (k : Nat) (f : Team → Team) : (s.updTeam k f).faultlog = s.faultlog := rfl
@[simp] theorem State.updTeam_heldLog (s : State) (k : Nat) (f : Team → Team) : (s.updTeam k f).heldLog = s.heldLog := rfl
@[simp] theorem State.updTeam_heldEvents (s : State) (k : Nat) (f : Team → Team) : (s.updTeam k f).heldEvents = s.heldEvents := rfl
@[simp] theorem State.updTeam_tickets (s : State) (k : Nat) (f : Team → Team) : (s.updTeam k f).tickets = s.tickets := rfl
@[simp] theorem State.updTeam_bins (s : State) (k : Nat) (f : Team → Team) : (s.updTeam k f).bins = s.bins := rfl
@[simp] theorem State.updTeam_live (s : State) (k : Nat) (f : Team → Team) : (s.updTeam k f).live = s.live := rfl
@[simp] theorem State.updTeam_asidTable (s : State) (k : Nat) (f : Team → Team) : (s.updTeam k f).asidTable = s.asidTable := rfl
@[simp] theorem State.updTeam_boot (s : State) (k : Nat) (f : Team → Team) : (s.updTeam k f).boot = s.boot := rfl
@[simp] theorem State.updTeam_stage (s : State) (k : Nat) (f : Team → Team) : (s.updTeam k f).stage = s.stage := rfl
@[simp] theorem State.updTeam_startFailed (s : State) (k : Nat) (f : Team → Team) : (s.updTeam k f).startFailed = s.startFailed := rfl
@[simp] theorem State.updTeam_warm (s : State) (k : Nat) (f : Team → Team) : (s.updTeam k f).warm = s.warm := rfl
@[simp] theorem State.updTeam_selftest (s : State) (k : Nat) (f : Team → Team) : (s.updTeam k f).selftest = s.selftest := rfl
@[simp] theorem State.updTeam_verified (s : State) (k : Nat) (f : Team → Team) : (s.updTeam k f).verified = s.verified := rfl
@[simp] theorem State.updTeam_flash (s : State) (k : Nat) (f : Team → Team) : (s.updTeam k f).flash = s.flash := rfl
@[simp] theorem State.updTeam_hw (s : State) (k : Nat) (f : Team → Team) : (s.updTeam k f).hw = s.hw := rfl
@[simp] theorem State.updTeam_failed (s : State) (k : Nat) (f : Team → Team) : (s.updTeam k f).failed = s.failed := rfl
@[simp] theorem State.updTeam_throttled (s : State) (k : Nat) (f : Team → Team) : (s.updTeam k f).throttled = s.throttled := rfl
@[simp] theorem State.updTeam_slow (s : State) (k : Nat) (f : Team → Team) : (s.updTeam k f).slow = s.slow := rfl
@[simp] theorem State.updTeam_skipped (s : State) (k : Nat) (f : Team → Team) : (s.updTeam k f).skipped = s.skipped := rfl
@[simp] theorem State.updTeam_lock (s : State) (k : Nat) (f : Team → Team) : (s.updTeam k f).lock = s.lock := rfl
@[simp] theorem State.updTeam_mbox (s : State) (k : Nat) (f : Team → Team) : (s.updTeam k f).mbox = s.mbox := rfl
@[simp] theorem State.updTeam_winbase (s : State) (k : Nat) (f : Team → Team) : (s.updTeam k f).winbase = s.winbase := rfl
@[simp] theorem State.updTeam_mailbox (s : State) (k : Nat) (f : Team → Team) : (s.updTeam k f).mailbox = s.mailbox := rfl
@[simp] theorem State.updTeam_power (s : State) (k : Nat) (f : Team → Team) : (s.updTeam k f).power = s.power := rfl
@[simp] theorem State.updTeam_active (s : State) (k : Nat) (f : Team → Team) : (s.updTeam k f).active = s.active := rfl
@[simp] theorem State.updTeam_device (s : State) (k : Nat) (f : Team → Team) : (s.updTeam k f).device = s.device := rfl
@[simp] theorem State.updTeam_cxl (s : State) (k : Nat) (f : Team → Team) : (s.updTeam k f).cxl = s.cxl := rfl
@[simp] theorem State.updTeam_routes (s : State) (k : Nat) (f : Team → Team) : (s.updTeam k f).routes = s.routes := rfl
@[simp] theorem State.updTeam_peerHold (s : State) (k : Nat) (f : Team → Team) : (s.updTeam k f).peerHold = s.peerHold := rfl
@[simp] theorem State.updTeam_warpAt (s : State) (k : Nat) (f : Team → Team) (j : Nat) : (s.updTeam k f).warp? j = s.warp? j := rfl
@[simp] theorem State.updTeam_launchAt (s : State) (k : Nat) (f : Team → Team) (j : Nat) : (s.updTeam k f).launch? j = s.launch? j := rfl
@[simp] theorem State.updTeam_ctxOfAt (s : State) (k : Nat) (f : Team → Team) (j : Nat) : (s.updTeam k f).ctxOf j = s.ctxOf j := rfl
@[simp] theorem State.updTeam_coreAt (s : State) (k : Nat) (f : Team → Team) (j : Nat) : (s.updTeam k f).core j = s.core j := rfl

/-! ## updGroup -/

@[simp] theorem State.updGroup_mem (s : State) (k g : Nat) (f : Group → Group) : (s.updGroup k g f).mem = s.mem := rfl
@[simp] theorem State.updGroup_poison (s : State) (k g : Nat) (f : Group → Group) : (s.updGroup k g f).poison = s.poison := rfl
@[simp] theorem State.updGroup_cur (s : State) (k g : Nat) (f : Group → Group) : (s.updGroup k g f).cur = s.cur := rfl
@[simp] theorem State.updGroup_inputs (s : State) (k g : Nat) (f : Group → Group) : (s.updGroup k g f).inputs = s.inputs := rfl
@[simp] theorem State.updGroup_free (s : State) (k g : Nat) (f : Group → Group) : (s.updGroup k g f).free = s.free := rfl
@[simp] theorem State.updGroup_cycle (s : State) (k g : Nat) (f : Group → Group) : (s.updGroup k g f).cycle = s.cycle := rfl
@[simp] theorem State.updGroup_clock (s : State) (k g : Nat) (f : Group → Group) : (s.updGroup k g f).clock = s.clock := rfl
@[simp] theorem State.updGroup_warps (s : State) (k g : Nat) (f : Group → Group) : (s.updGroup k g f).warps = s.warps := rfl
@[simp] theorem State.updGroup_launches (s : State) (k g : Nat) (f : Group → Group) : (s.updGroup k g f).launches = s.launches := rfl
@[simp] theorem State.updGroup_launchNo (s : State) (k g : Nat) (f : Group → Group) : (s.updGroup k g f).launchNo = s.launchNo := rfl
@[simp] theorem State.updGroup_fresh (s : State) (k g : Nat) (f : Group → Group) : (s.updGroup k g f).fresh = s.fresh := rfl
@[simp] theorem State.updGroup_l2 (s : State) (k g : Nat) (f : Group → Group) : (s.updGroup k g f).l2 = s.l2 := rfl
@[simp] theorem State.updGroup_tlb (s : State) (k g : Nat) (f : Group → Group) : (s.updGroup k g f).tlb = s.tlb := rfl
@[simp] theorem State.updGroup_misses (s : State) (k g : Nat) (f : Group → Group) : (s.updGroup k g f).misses = s.misses := rfl
@[simp] theorem State.updGroup_pinned (s : State) (k g : Nat) (f : Group → Group) : (s.updGroup k g f).pinned = s.pinned := rfl
@[simp] theorem State.updGroup_stamps (s : State) (k g : Nat) (f : Group → Group) : (s.updGroup k g f).stamps = s.stamps := rfl
@[simp] theorem State.updGroup_strong (s : State) (k g : Nat) (f : Group → Group) : (s.updGroup k g f).strong = s.strong := rfl
@[simp] theorem State.updGroup_told (s : State) (k g : Nat) (f : Group → Group) : (s.updGroup k g f).told = s.told := rfl
@[simp] theorem State.updGroup_lost (s : State) (k g : Nat) (f : Group → Group) : (s.updGroup k g f).lost = s.lost := rfl
@[simp] theorem State.updGroup_asked (s : State) (k g : Nat) (f : Group → Group) : (s.updGroup k g f).asked = s.asked := rfl
@[simp] theorem State.updGroup_accesses (s : State) (k g : Nat) (f : Group → Group) : (s.updGroup k g f).accesses = s.accesses := rfl
@[simp] theorem State.updGroup_fences (s : State) (k g : Nat) (f : Group → Group) : (s.updGroup k g f).fences = s.fences := rfl
@[simp] theorem State.updGroup_outs (s : State) (k g : Nat) (f : Group → Group) : (s.updGroup k g f).outs = s.outs := rfl
@[simp] theorem State.updGroup_engines (s : State) (k g : Nat) (f : Group → Group) : (s.updGroup k g f).engines = s.engines := rfl
@[simp] theorem State.updGroup_cores (s : State) (k g : Nat) (f : Group → Group) : (s.updGroup k g f).cores = s.cores := rfl
@[simp] theorem State.updGroup_ctx (s : State) (k g : Nat) (f : Group → Group) : (s.updGroup k g f).ctx = s.ctx := rfl
@[simp] theorem State.updGroup_faultlog (s : State) (k g : Nat) (f : Group → Group) : (s.updGroup k g f).faultlog = s.faultlog := rfl
@[simp] theorem State.updGroup_heldLog (s : State) (k g : Nat) (f : Group → Group) : (s.updGroup k g f).heldLog = s.heldLog := rfl
@[simp] theorem State.updGroup_heldEvents (s : State) (k g : Nat) (f : Group → Group) : (s.updGroup k g f).heldEvents = s.heldEvents := rfl
@[simp] theorem State.updGroup_tickets (s : State) (k g : Nat) (f : Group → Group) : (s.updGroup k g f).tickets = s.tickets := rfl
@[simp] theorem State.updGroup_bins (s : State) (k g : Nat) (f : Group → Group) : (s.updGroup k g f).bins = s.bins := rfl
@[simp] theorem State.updGroup_live (s : State) (k g : Nat) (f : Group → Group) : (s.updGroup k g f).live = s.live := rfl
@[simp] theorem State.updGroup_asidTable (s : State) (k g : Nat) (f : Group → Group) : (s.updGroup k g f).asidTable = s.asidTable := rfl
@[simp] theorem State.updGroup_boot (s : State) (k g : Nat) (f : Group → Group) : (s.updGroup k g f).boot = s.boot := rfl
@[simp] theorem State.updGroup_stage (s : State) (k g : Nat) (f : Group → Group) : (s.updGroup k g f).stage = s.stage := rfl
@[simp] theorem State.updGroup_startFailed (s : State) (k g : Nat) (f : Group → Group) : (s.updGroup k g f).startFailed = s.startFailed := rfl
@[simp] theorem State.updGroup_warm (s : State) (k g : Nat) (f : Group → Group) : (s.updGroup k g f).warm = s.warm := rfl
@[simp] theorem State.updGroup_selftest (s : State) (k g : Nat) (f : Group → Group) : (s.updGroup k g f).selftest = s.selftest := rfl
@[simp] theorem State.updGroup_verified (s : State) (k g : Nat) (f : Group → Group) : (s.updGroup k g f).verified = s.verified := rfl
@[simp] theorem State.updGroup_flash (s : State) (k g : Nat) (f : Group → Group) : (s.updGroup k g f).flash = s.flash := rfl
@[simp] theorem State.updGroup_hw (s : State) (k g : Nat) (f : Group → Group) : (s.updGroup k g f).hw = s.hw := rfl
@[simp] theorem State.updGroup_failed (s : State) (k g : Nat) (f : Group → Group) : (s.updGroup k g f).failed = s.failed := rfl
@[simp] theorem State.updGroup_throttled (s : State) (k g : Nat) (f : Group → Group) : (s.updGroup k g f).throttled = s.throttled := rfl
@[simp] theorem State.updGroup_slow (s : State) (k g : Nat) (f : Group → Group) : (s.updGroup k g f).slow = s.slow := rfl
@[simp] theorem State.updGroup_skipped (s : State) (k g : Nat) (f : Group → Group) : (s.updGroup k g f).skipped = s.skipped := rfl
@[simp] theorem State.updGroup_lock (s : State) (k g : Nat) (f : Group → Group) : (s.updGroup k g f).lock = s.lock := rfl
@[simp] theorem State.updGroup_mbox (s : State) (k g : Nat) (f : Group → Group) : (s.updGroup k g f).mbox = s.mbox := rfl
@[simp] theorem State.updGroup_winbase (s : State) (k g : Nat) (f : Group → Group) : (s.updGroup k g f).winbase = s.winbase := rfl
@[simp] theorem State.updGroup_mailbox (s : State) (k g : Nat) (f : Group → Group) : (s.updGroup k g f).mailbox = s.mailbox := rfl
@[simp] theorem State.updGroup_power (s : State) (k g : Nat) (f : Group → Group) : (s.updGroup k g f).power = s.power := rfl
@[simp] theorem State.updGroup_active (s : State) (k g : Nat) (f : Group → Group) : (s.updGroup k g f).active = s.active := rfl
@[simp] theorem State.updGroup_device (s : State) (k g : Nat) (f : Group → Group) : (s.updGroup k g f).device = s.device := rfl
@[simp] theorem State.updGroup_cxl (s : State) (k g : Nat) (f : Group → Group) : (s.updGroup k g f).cxl = s.cxl := rfl
@[simp] theorem State.updGroup_routes (s : State) (k g : Nat) (f : Group → Group) : (s.updGroup k g f).routes = s.routes := rfl
@[simp] theorem State.updGroup_peerHold (s : State) (k g : Nat) (f : Group → Group) : (s.updGroup k g f).peerHold = s.peerHold := rfl
@[simp] theorem State.updGroup_warpAt (s : State) (k g : Nat) (f : Group → Group) (j : Nat) : (s.updGroup k g f).warp? j = s.warp? j := rfl
@[simp] theorem State.updGroup_launchAt (s : State) (k g : Nat) (f : Group → Group) (j : Nat) : (s.updGroup k g f).launch? j = s.launch? j := rfl
@[simp] theorem State.updGroup_ctxOfAt (s : State) (k g : Nat) (f : Group → Group) (j : Nat) : (s.updGroup k g f).ctxOf j = s.ctxOf j := rfl
@[simp] theorem State.updGroup_coreAt (s : State) (k g : Nat) (f : Group → Group) (j : Nat) : (s.updGroup k g f).core j = s.core j := rfl

/-! ## updLaunch -/

@[simp] theorem State.updLaunch_mem (s : State) (l : Nat) (f : Launch → Launch) : (s.updLaunch l f).mem = s.mem := rfl
@[simp] theorem State.updLaunch_poison (s : State) (l : Nat) (f : Launch → Launch) : (s.updLaunch l f).poison = s.poison := rfl
@[simp] theorem State.updLaunch_cur (s : State) (l : Nat) (f : Launch → Launch) : (s.updLaunch l f).cur = s.cur := rfl
@[simp] theorem State.updLaunch_inputs (s : State) (l : Nat) (f : Launch → Launch) : (s.updLaunch l f).inputs = s.inputs := rfl
@[simp] theorem State.updLaunch_free (s : State) (l : Nat) (f : Launch → Launch) : (s.updLaunch l f).free = s.free := rfl
@[simp] theorem State.updLaunch_cycle (s : State) (l : Nat) (f : Launch → Launch) : (s.updLaunch l f).cycle = s.cycle := rfl
@[simp] theorem State.updLaunch_clock (s : State) (l : Nat) (f : Launch → Launch) : (s.updLaunch l f).clock = s.clock := rfl
@[simp] theorem State.updLaunch_warps (s : State) (l : Nat) (f : Launch → Launch) : (s.updLaunch l f).warps = s.warps := rfl
@[simp] theorem State.updLaunch_teams (s : State) (l : Nat) (f : Launch → Launch) : (s.updLaunch l f).teams = s.teams := rfl
@[simp] theorem State.updLaunch_launchNo (s : State) (l : Nat) (f : Launch → Launch) : (s.updLaunch l f).launchNo = s.launchNo := rfl
@[simp] theorem State.updLaunch_fresh (s : State) (l : Nat) (f : Launch → Launch) : (s.updLaunch l f).fresh = s.fresh := rfl
@[simp] theorem State.updLaunch_l2 (s : State) (l : Nat) (f : Launch → Launch) : (s.updLaunch l f).l2 = s.l2 := rfl
@[simp] theorem State.updLaunch_tlb (s : State) (l : Nat) (f : Launch → Launch) : (s.updLaunch l f).tlb = s.tlb := rfl
@[simp] theorem State.updLaunch_misses (s : State) (l : Nat) (f : Launch → Launch) : (s.updLaunch l f).misses = s.misses := rfl
@[simp] theorem State.updLaunch_pinned (s : State) (l : Nat) (f : Launch → Launch) : (s.updLaunch l f).pinned = s.pinned := rfl
@[simp] theorem State.updLaunch_stamps (s : State) (l : Nat) (f : Launch → Launch) : (s.updLaunch l f).stamps = s.stamps := rfl
@[simp] theorem State.updLaunch_strong (s : State) (l : Nat) (f : Launch → Launch) : (s.updLaunch l f).strong = s.strong := rfl
@[simp] theorem State.updLaunch_told (s : State) (l : Nat) (f : Launch → Launch) : (s.updLaunch l f).told = s.told := rfl
@[simp] theorem State.updLaunch_lost (s : State) (l : Nat) (f : Launch → Launch) : (s.updLaunch l f).lost = s.lost := rfl
@[simp] theorem State.updLaunch_asked (s : State) (l : Nat) (f : Launch → Launch) : (s.updLaunch l f).asked = s.asked := rfl
@[simp] theorem State.updLaunch_accesses (s : State) (l : Nat) (f : Launch → Launch) : (s.updLaunch l f).accesses = s.accesses := rfl
@[simp] theorem State.updLaunch_fences (s : State) (l : Nat) (f : Launch → Launch) : (s.updLaunch l f).fences = s.fences := rfl
@[simp] theorem State.updLaunch_outs (s : State) (l : Nat) (f : Launch → Launch) : (s.updLaunch l f).outs = s.outs := rfl
@[simp] theorem State.updLaunch_engines (s : State) (l : Nat) (f : Launch → Launch) : (s.updLaunch l f).engines = s.engines := rfl
@[simp] theorem State.updLaunch_cores (s : State) (l : Nat) (f : Launch → Launch) : (s.updLaunch l f).cores = s.cores := rfl
@[simp] theorem State.updLaunch_ctx (s : State) (l : Nat) (f : Launch → Launch) : (s.updLaunch l f).ctx = s.ctx := rfl
@[simp] theorem State.updLaunch_faultlog (s : State) (l : Nat) (f : Launch → Launch) : (s.updLaunch l f).faultlog = s.faultlog := rfl
@[simp] theorem State.updLaunch_heldLog (s : State) (l : Nat) (f : Launch → Launch) : (s.updLaunch l f).heldLog = s.heldLog := rfl
@[simp] theorem State.updLaunch_heldEvents (s : State) (l : Nat) (f : Launch → Launch) : (s.updLaunch l f).heldEvents = s.heldEvents := rfl
@[simp] theorem State.updLaunch_tickets (s : State) (l : Nat) (f : Launch → Launch) : (s.updLaunch l f).tickets = s.tickets := rfl
@[simp] theorem State.updLaunch_bins (s : State) (l : Nat) (f : Launch → Launch) : (s.updLaunch l f).bins = s.bins := rfl
@[simp] theorem State.updLaunch_live (s : State) (l : Nat) (f : Launch → Launch) : (s.updLaunch l f).live = s.live := rfl
@[simp] theorem State.updLaunch_asidTable (s : State) (l : Nat) (f : Launch → Launch) : (s.updLaunch l f).asidTable = s.asidTable := rfl
@[simp] theorem State.updLaunch_boot (s : State) (l : Nat) (f : Launch → Launch) : (s.updLaunch l f).boot = s.boot := rfl
@[simp] theorem State.updLaunch_stage (s : State) (l : Nat) (f : Launch → Launch) : (s.updLaunch l f).stage = s.stage := rfl
@[simp] theorem State.updLaunch_startFailed (s : State) (l : Nat) (f : Launch → Launch) : (s.updLaunch l f).startFailed = s.startFailed := rfl
@[simp] theorem State.updLaunch_warm (s : State) (l : Nat) (f : Launch → Launch) : (s.updLaunch l f).warm = s.warm := rfl
@[simp] theorem State.updLaunch_selftest (s : State) (l : Nat) (f : Launch → Launch) : (s.updLaunch l f).selftest = s.selftest := rfl
@[simp] theorem State.updLaunch_verified (s : State) (l : Nat) (f : Launch → Launch) : (s.updLaunch l f).verified = s.verified := rfl
@[simp] theorem State.updLaunch_flash (s : State) (l : Nat) (f : Launch → Launch) : (s.updLaunch l f).flash = s.flash := rfl
@[simp] theorem State.updLaunch_hw (s : State) (l : Nat) (f : Launch → Launch) : (s.updLaunch l f).hw = s.hw := rfl
@[simp] theorem State.updLaunch_failed (s : State) (l : Nat) (f : Launch → Launch) : (s.updLaunch l f).failed = s.failed := rfl
@[simp] theorem State.updLaunch_throttled (s : State) (l : Nat) (f : Launch → Launch) : (s.updLaunch l f).throttled = s.throttled := rfl
@[simp] theorem State.updLaunch_slow (s : State) (l : Nat) (f : Launch → Launch) : (s.updLaunch l f).slow = s.slow := rfl
@[simp] theorem State.updLaunch_skipped (s : State) (l : Nat) (f : Launch → Launch) : (s.updLaunch l f).skipped = s.skipped := rfl
@[simp] theorem State.updLaunch_lock (s : State) (l : Nat) (f : Launch → Launch) : (s.updLaunch l f).lock = s.lock := rfl
@[simp] theorem State.updLaunch_mbox (s : State) (l : Nat) (f : Launch → Launch) : (s.updLaunch l f).mbox = s.mbox := rfl
@[simp] theorem State.updLaunch_winbase (s : State) (l : Nat) (f : Launch → Launch) : (s.updLaunch l f).winbase = s.winbase := rfl
@[simp] theorem State.updLaunch_mailbox (s : State) (l : Nat) (f : Launch → Launch) : (s.updLaunch l f).mailbox = s.mailbox := rfl
@[simp] theorem State.updLaunch_power (s : State) (l : Nat) (f : Launch → Launch) : (s.updLaunch l f).power = s.power := rfl
@[simp] theorem State.updLaunch_active (s : State) (l : Nat) (f : Launch → Launch) : (s.updLaunch l f).active = s.active := rfl
@[simp] theorem State.updLaunch_device (s : State) (l : Nat) (f : Launch → Launch) : (s.updLaunch l f).device = s.device := rfl
@[simp] theorem State.updLaunch_cxl (s : State) (l : Nat) (f : Launch → Launch) : (s.updLaunch l f).cxl = s.cxl := rfl
@[simp] theorem State.updLaunch_routes (s : State) (l : Nat) (f : Launch → Launch) : (s.updLaunch l f).routes = s.routes := rfl
@[simp] theorem State.updLaunch_peerHold (s : State) (l : Nat) (f : Launch → Launch) : (s.updLaunch l f).peerHold = s.peerHold := rfl
@[simp] theorem State.updLaunch_warpAt (s : State) (l : Nat) (f : Launch → Launch) (j : Nat) : (s.updLaunch l f).warp? j = s.warp? j := rfl
@[simp] theorem State.updLaunch_teamAt (s : State) (l : Nat) (f : Launch → Launch) (j : Nat) : (s.updLaunch l f).team? j = s.team? j := rfl
@[simp] theorem State.updLaunch_ctxOfAt (s : State) (l : Nat) (f : Launch → Launch) (j : Nat) : (s.updLaunch l f).ctxOf j = s.ctxOf j := rfl
@[simp] theorem State.updLaunch_coreAt (s : State) (l : Nat) (f : Launch → Launch) (j : Nat) : (s.updLaunch l f).core j = s.core j := rfl

/-! ## updEng -/

@[simp] theorem State.updEng_mem (s : State) (id : Nat) (f : EngOp → EngOp) : (s.updEng id f).mem = s.mem := rfl
@[simp] theorem State.updEng_poison (s : State) (id : Nat) (f : EngOp → EngOp) : (s.updEng id f).poison = s.poison := rfl
@[simp] theorem State.updEng_cur (s : State) (id : Nat) (f : EngOp → EngOp) : (s.updEng id f).cur = s.cur := rfl
@[simp] theorem State.updEng_inputs (s : State) (id : Nat) (f : EngOp → EngOp) : (s.updEng id f).inputs = s.inputs := rfl
@[simp] theorem State.updEng_free (s : State) (id : Nat) (f : EngOp → EngOp) : (s.updEng id f).free = s.free := rfl
@[simp] theorem State.updEng_cycle (s : State) (id : Nat) (f : EngOp → EngOp) : (s.updEng id f).cycle = s.cycle := rfl
@[simp] theorem State.updEng_clock (s : State) (id : Nat) (f : EngOp → EngOp) : (s.updEng id f).clock = s.clock := rfl
@[simp] theorem State.updEng_warps (s : State) (id : Nat) (f : EngOp → EngOp) : (s.updEng id f).warps = s.warps := rfl
@[simp] theorem State.updEng_teams (s : State) (id : Nat) (f : EngOp → EngOp) : (s.updEng id f).teams = s.teams := rfl
@[simp] theorem State.updEng_launches (s : State) (id : Nat) (f : EngOp → EngOp) : (s.updEng id f).launches = s.launches := rfl
@[simp] theorem State.updEng_launchNo (s : State) (id : Nat) (f : EngOp → EngOp) : (s.updEng id f).launchNo = s.launchNo := rfl
@[simp] theorem State.updEng_fresh (s : State) (id : Nat) (f : EngOp → EngOp) : (s.updEng id f).fresh = s.fresh := rfl
@[simp] theorem State.updEng_l2 (s : State) (id : Nat) (f : EngOp → EngOp) : (s.updEng id f).l2 = s.l2 := rfl
@[simp] theorem State.updEng_tlb (s : State) (id : Nat) (f : EngOp → EngOp) : (s.updEng id f).tlb = s.tlb := rfl
@[simp] theorem State.updEng_misses (s : State) (id : Nat) (f : EngOp → EngOp) : (s.updEng id f).misses = s.misses := rfl
@[simp] theorem State.updEng_pinned (s : State) (id : Nat) (f : EngOp → EngOp) : (s.updEng id f).pinned = s.pinned := rfl
@[simp] theorem State.updEng_stamps (s : State) (id : Nat) (f : EngOp → EngOp) : (s.updEng id f).stamps = s.stamps := rfl
@[simp] theorem State.updEng_strong (s : State) (id : Nat) (f : EngOp → EngOp) : (s.updEng id f).strong = s.strong := rfl
@[simp] theorem State.updEng_told (s : State) (id : Nat) (f : EngOp → EngOp) : (s.updEng id f).told = s.told := rfl
@[simp] theorem State.updEng_lost (s : State) (id : Nat) (f : EngOp → EngOp) : (s.updEng id f).lost = s.lost := rfl
@[simp] theorem State.updEng_asked (s : State) (id : Nat) (f : EngOp → EngOp) : (s.updEng id f).asked = s.asked := rfl
@[simp] theorem State.updEng_accesses (s : State) (id : Nat) (f : EngOp → EngOp) : (s.updEng id f).accesses = s.accesses := rfl
@[simp] theorem State.updEng_fences (s : State) (id : Nat) (f : EngOp → EngOp) : (s.updEng id f).fences = s.fences := rfl
@[simp] theorem State.updEng_outs (s : State) (id : Nat) (f : EngOp → EngOp) : (s.updEng id f).outs = s.outs := rfl
@[simp] theorem State.updEng_cores (s : State) (id : Nat) (f : EngOp → EngOp) : (s.updEng id f).cores = s.cores := rfl
@[simp] theorem State.updEng_ctx (s : State) (id : Nat) (f : EngOp → EngOp) : (s.updEng id f).ctx = s.ctx := rfl
@[simp] theorem State.updEng_faultlog (s : State) (id : Nat) (f : EngOp → EngOp) : (s.updEng id f).faultlog = s.faultlog := rfl
@[simp] theorem State.updEng_heldLog (s : State) (id : Nat) (f : EngOp → EngOp) : (s.updEng id f).heldLog = s.heldLog := rfl
@[simp] theorem State.updEng_heldEvents (s : State) (id : Nat) (f : EngOp → EngOp) : (s.updEng id f).heldEvents = s.heldEvents := rfl
@[simp] theorem State.updEng_tickets (s : State) (id : Nat) (f : EngOp → EngOp) : (s.updEng id f).tickets = s.tickets := rfl
@[simp] theorem State.updEng_bins (s : State) (id : Nat) (f : EngOp → EngOp) : (s.updEng id f).bins = s.bins := rfl
@[simp] theorem State.updEng_live (s : State) (id : Nat) (f : EngOp → EngOp) : (s.updEng id f).live = s.live := rfl
@[simp] theorem State.updEng_asidTable (s : State) (id : Nat) (f : EngOp → EngOp) : (s.updEng id f).asidTable = s.asidTable := rfl
@[simp] theorem State.updEng_boot (s : State) (id : Nat) (f : EngOp → EngOp) : (s.updEng id f).boot = s.boot := rfl
@[simp] theorem State.updEng_stage (s : State) (id : Nat) (f : EngOp → EngOp) : (s.updEng id f).stage = s.stage := rfl
@[simp] theorem State.updEng_startFailed (s : State) (id : Nat) (f : EngOp → EngOp) : (s.updEng id f).startFailed = s.startFailed := rfl
@[simp] theorem State.updEng_warm (s : State) (id : Nat) (f : EngOp → EngOp) : (s.updEng id f).warm = s.warm := rfl
@[simp] theorem State.updEng_selftest (s : State) (id : Nat) (f : EngOp → EngOp) : (s.updEng id f).selftest = s.selftest := rfl
@[simp] theorem State.updEng_verified (s : State) (id : Nat) (f : EngOp → EngOp) : (s.updEng id f).verified = s.verified := rfl
@[simp] theorem State.updEng_flash (s : State) (id : Nat) (f : EngOp → EngOp) : (s.updEng id f).flash = s.flash := rfl
@[simp] theorem State.updEng_hw (s : State) (id : Nat) (f : EngOp → EngOp) : (s.updEng id f).hw = s.hw := rfl
@[simp] theorem State.updEng_failed (s : State) (id : Nat) (f : EngOp → EngOp) : (s.updEng id f).failed = s.failed := rfl
@[simp] theorem State.updEng_throttled (s : State) (id : Nat) (f : EngOp → EngOp) : (s.updEng id f).throttled = s.throttled := rfl
@[simp] theorem State.updEng_slow (s : State) (id : Nat) (f : EngOp → EngOp) : (s.updEng id f).slow = s.slow := rfl
@[simp] theorem State.updEng_skipped (s : State) (id : Nat) (f : EngOp → EngOp) : (s.updEng id f).skipped = s.skipped := rfl
@[simp] theorem State.updEng_lock (s : State) (id : Nat) (f : EngOp → EngOp) : (s.updEng id f).lock = s.lock := rfl
@[simp] theorem State.updEng_mbox (s : State) (id : Nat) (f : EngOp → EngOp) : (s.updEng id f).mbox = s.mbox := rfl
@[simp] theorem State.updEng_winbase (s : State) (id : Nat) (f : EngOp → EngOp) : (s.updEng id f).winbase = s.winbase := rfl
@[simp] theorem State.updEng_mailbox (s : State) (id : Nat) (f : EngOp → EngOp) : (s.updEng id f).mailbox = s.mailbox := rfl
@[simp] theorem State.updEng_power (s : State) (id : Nat) (f : EngOp → EngOp) : (s.updEng id f).power = s.power := rfl
@[simp] theorem State.updEng_active (s : State) (id : Nat) (f : EngOp → EngOp) : (s.updEng id f).active = s.active := rfl
@[simp] theorem State.updEng_device (s : State) (id : Nat) (f : EngOp → EngOp) : (s.updEng id f).device = s.device := rfl
@[simp] theorem State.updEng_cxl (s : State) (id : Nat) (f : EngOp → EngOp) : (s.updEng id f).cxl = s.cxl := rfl
@[simp] theorem State.updEng_routes (s : State) (id : Nat) (f : EngOp → EngOp) : (s.updEng id f).routes = s.routes := rfl
@[simp] theorem State.updEng_peerHold (s : State) (id : Nat) (f : EngOp → EngOp) : (s.updEng id f).peerHold = s.peerHold := rfl
@[simp] theorem State.updEng_warpAt (s : State) (id : Nat) (f : EngOp → EngOp) (j : Nat) : (s.updEng id f).warp? j = s.warp? j := rfl
@[simp] theorem State.updEng_teamAt (s : State) (id : Nat) (f : EngOp → EngOp) (j : Nat) : (s.updEng id f).team? j = s.team? j := rfl
@[simp] theorem State.updEng_launchAt (s : State) (id : Nat) (f : EngOp → EngOp) (j : Nat) : (s.updEng id f).launch? j = s.launch? j := rfl
@[simp] theorem State.updEng_ctxOfAt (s : State) (id : Nat) (f : EngOp → EngOp) (j : Nat) : (s.updEng id f).ctxOf j = s.ctxOf j := rfl
@[simp] theorem State.updEng_coreAt (s : State) (id : Nat) (f : EngOp → EngOp) (j : Nat) : (s.updEng id f).core j = s.core j := rfl

/-! ## updLine -/

@[simp] theorem State.updLine_mem (s : State) (t n : Nat) (f : L2Line → L2Line) : (s.updLine t n f).mem = s.mem := rfl
@[simp] theorem State.updLine_poison (s : State) (t n : Nat) (f : L2Line → L2Line) : (s.updLine t n f).poison = s.poison := rfl
@[simp] theorem State.updLine_cur (s : State) (t n : Nat) (f : L2Line → L2Line) : (s.updLine t n f).cur = s.cur := rfl
@[simp] theorem State.updLine_inputs (s : State) (t n : Nat) (f : L2Line → L2Line) : (s.updLine t n f).inputs = s.inputs := rfl
@[simp] theorem State.updLine_free (s : State) (t n : Nat) (f : L2Line → L2Line) : (s.updLine t n f).free = s.free := rfl
@[simp] theorem State.updLine_cycle (s : State) (t n : Nat) (f : L2Line → L2Line) : (s.updLine t n f).cycle = s.cycle := rfl
@[simp] theorem State.updLine_clock (s : State) (t n : Nat) (f : L2Line → L2Line) : (s.updLine t n f).clock = s.clock := rfl
@[simp] theorem State.updLine_warps (s : State) (t n : Nat) (f : L2Line → L2Line) : (s.updLine t n f).warps = s.warps := rfl
@[simp] theorem State.updLine_teams (s : State) (t n : Nat) (f : L2Line → L2Line) : (s.updLine t n f).teams = s.teams := rfl
@[simp] theorem State.updLine_launches (s : State) (t n : Nat) (f : L2Line → L2Line) : (s.updLine t n f).launches = s.launches := rfl
@[simp] theorem State.updLine_launchNo (s : State) (t n : Nat) (f : L2Line → L2Line) : (s.updLine t n f).launchNo = s.launchNo := rfl
@[simp] theorem State.updLine_fresh (s : State) (t n : Nat) (f : L2Line → L2Line) : (s.updLine t n f).fresh = s.fresh := rfl
@[simp] theorem State.updLine_tlb (s : State) (t n : Nat) (f : L2Line → L2Line) : (s.updLine t n f).tlb = s.tlb := rfl
@[simp] theorem State.updLine_misses (s : State) (t n : Nat) (f : L2Line → L2Line) : (s.updLine t n f).misses = s.misses := rfl
@[simp] theorem State.updLine_pinned (s : State) (t n : Nat) (f : L2Line → L2Line) : (s.updLine t n f).pinned = s.pinned := rfl
@[simp] theorem State.updLine_stamps (s : State) (t n : Nat) (f : L2Line → L2Line) : (s.updLine t n f).stamps = s.stamps := rfl
@[simp] theorem State.updLine_strong (s : State) (t n : Nat) (f : L2Line → L2Line) : (s.updLine t n f).strong = s.strong := rfl
@[simp] theorem State.updLine_told (s : State) (t n : Nat) (f : L2Line → L2Line) : (s.updLine t n f).told = s.told := rfl
@[simp] theorem State.updLine_lost (s : State) (t n : Nat) (f : L2Line → L2Line) : (s.updLine t n f).lost = s.lost := rfl
@[simp] theorem State.updLine_asked (s : State) (t n : Nat) (f : L2Line → L2Line) : (s.updLine t n f).asked = s.asked := rfl
@[simp] theorem State.updLine_accesses (s : State) (t n : Nat) (f : L2Line → L2Line) : (s.updLine t n f).accesses = s.accesses := rfl
@[simp] theorem State.updLine_fences (s : State) (t n : Nat) (f : L2Line → L2Line) : (s.updLine t n f).fences = s.fences := rfl
@[simp] theorem State.updLine_outs (s : State) (t n : Nat) (f : L2Line → L2Line) : (s.updLine t n f).outs = s.outs := rfl
@[simp] theorem State.updLine_engines (s : State) (t n : Nat) (f : L2Line → L2Line) : (s.updLine t n f).engines = s.engines := rfl
@[simp] theorem State.updLine_cores (s : State) (t n : Nat) (f : L2Line → L2Line) : (s.updLine t n f).cores = s.cores := rfl
@[simp] theorem State.updLine_ctx (s : State) (t n : Nat) (f : L2Line → L2Line) : (s.updLine t n f).ctx = s.ctx := rfl
@[simp] theorem State.updLine_faultlog (s : State) (t n : Nat) (f : L2Line → L2Line) : (s.updLine t n f).faultlog = s.faultlog := rfl
@[simp] theorem State.updLine_heldLog (s : State) (t n : Nat) (f : L2Line → L2Line) : (s.updLine t n f).heldLog = s.heldLog := rfl
@[simp] theorem State.updLine_heldEvents (s : State) (t n : Nat) (f : L2Line → L2Line) : (s.updLine t n f).heldEvents = s.heldEvents := rfl
@[simp] theorem State.updLine_tickets (s : State) (t n : Nat) (f : L2Line → L2Line) : (s.updLine t n f).tickets = s.tickets := rfl
@[simp] theorem State.updLine_bins (s : State) (t n : Nat) (f : L2Line → L2Line) : (s.updLine t n f).bins = s.bins := rfl
@[simp] theorem State.updLine_live (s : State) (t n : Nat) (f : L2Line → L2Line) : (s.updLine t n f).live = s.live := rfl
@[simp] theorem State.updLine_asidTable (s : State) (t n : Nat) (f : L2Line → L2Line) : (s.updLine t n f).asidTable = s.asidTable := rfl
@[simp] theorem State.updLine_boot (s : State) (t n : Nat) (f : L2Line → L2Line) : (s.updLine t n f).boot = s.boot := rfl
@[simp] theorem State.updLine_stage (s : State) (t n : Nat) (f : L2Line → L2Line) : (s.updLine t n f).stage = s.stage := rfl
@[simp] theorem State.updLine_startFailed (s : State) (t n : Nat) (f : L2Line → L2Line) : (s.updLine t n f).startFailed = s.startFailed := rfl
@[simp] theorem State.updLine_warm (s : State) (t n : Nat) (f : L2Line → L2Line) : (s.updLine t n f).warm = s.warm := rfl
@[simp] theorem State.updLine_selftest (s : State) (t n : Nat) (f : L2Line → L2Line) : (s.updLine t n f).selftest = s.selftest := rfl
@[simp] theorem State.updLine_verified (s : State) (t n : Nat) (f : L2Line → L2Line) : (s.updLine t n f).verified = s.verified := rfl
@[simp] theorem State.updLine_flash (s : State) (t n : Nat) (f : L2Line → L2Line) : (s.updLine t n f).flash = s.flash := rfl
@[simp] theorem State.updLine_hw (s : State) (t n : Nat) (f : L2Line → L2Line) : (s.updLine t n f).hw = s.hw := rfl
@[simp] theorem State.updLine_failed (s : State) (t n : Nat) (f : L2Line → L2Line) : (s.updLine t n f).failed = s.failed := rfl
@[simp] theorem State.updLine_throttled (s : State) (t n : Nat) (f : L2Line → L2Line) : (s.updLine t n f).throttled = s.throttled := rfl
@[simp] theorem State.updLine_slow (s : State) (t n : Nat) (f : L2Line → L2Line) : (s.updLine t n f).slow = s.slow := rfl
@[simp] theorem State.updLine_skipped (s : State) (t n : Nat) (f : L2Line → L2Line) : (s.updLine t n f).skipped = s.skipped := rfl
@[simp] theorem State.updLine_lock (s : State) (t n : Nat) (f : L2Line → L2Line) : (s.updLine t n f).lock = s.lock := rfl
@[simp] theorem State.updLine_mbox (s : State) (t n : Nat) (f : L2Line → L2Line) : (s.updLine t n f).mbox = s.mbox := rfl
@[simp] theorem State.updLine_winbase (s : State) (t n : Nat) (f : L2Line → L2Line) : (s.updLine t n f).winbase = s.winbase := rfl
@[simp] theorem State.updLine_mailbox (s : State) (t n : Nat) (f : L2Line → L2Line) : (s.updLine t n f).mailbox = s.mailbox := rfl
@[simp] theorem State.updLine_power (s : State) (t n : Nat) (f : L2Line → L2Line) : (s.updLine t n f).power = s.power := rfl
@[simp] theorem State.updLine_active (s : State) (t n : Nat) (f : L2Line → L2Line) : (s.updLine t n f).active = s.active := rfl
@[simp] theorem State.updLine_device (s : State) (t n : Nat) (f : L2Line → L2Line) : (s.updLine t n f).device = s.device := rfl
@[simp] theorem State.updLine_cxl (s : State) (t n : Nat) (f : L2Line → L2Line) : (s.updLine t n f).cxl = s.cxl := rfl
@[simp] theorem State.updLine_routes (s : State) (t n : Nat) (f : L2Line → L2Line) : (s.updLine t n f).routes = s.routes := rfl
@[simp] theorem State.updLine_peerHold (s : State) (t n : Nat) (f : L2Line → L2Line) : (s.updLine t n f).peerHold = s.peerHold := rfl
@[simp] theorem State.updLine_warpAt (s : State) (t n : Nat) (f : L2Line → L2Line) (j : Nat) : (s.updLine t n f).warp? j = s.warp? j := rfl
@[simp] theorem State.updLine_teamAt (s : State) (t n : Nat) (f : L2Line → L2Line) (j : Nat) : (s.updLine t n f).team? j = s.team? j := rfl
@[simp] theorem State.updLine_launchAt (s : State) (t n : Nat) (f : L2Line → L2Line) (j : Nat) : (s.updLine t n f).launch? j = s.launch? j := rfl
@[simp] theorem State.updLine_ctxOfAt (s : State) (t n : Nat) (f : L2Line → L2Line) (j : Nat) : (s.updLine t n f).ctxOf j = s.ctxOf j := rfl
@[simp] theorem State.updLine_coreAt (s : State) (t n : Nat) (f : L2Line → L2Line) (j : Nat) : (s.updLine t n f).core j = s.core j := rfl

/-! ## updPinned -/

@[simp] theorem State.updPinned_mem (s : State) (c k : Nat) (f : Pinned → Pinned) : (s.updPinned c k f).mem = s.mem := rfl
@[simp] theorem State.updPinned_poison (s : State) (c k : Nat) (f : Pinned → Pinned) : (s.updPinned c k f).poison = s.poison := rfl
@[simp] theorem State.updPinned_cur (s : State) (c k : Nat) (f : Pinned → Pinned) : (s.updPinned c k f).cur = s.cur := rfl
@[simp] theorem State.updPinned_inputs (s : State) (c k : Nat) (f : Pinned → Pinned) : (s.updPinned c k f).inputs = s.inputs := rfl
@[simp] theorem State.updPinned_free (s : State) (c k : Nat) (f : Pinned → Pinned) : (s.updPinned c k f).free = s.free := rfl
@[simp] theorem State.updPinned_cycle (s : State) (c k : Nat) (f : Pinned → Pinned) : (s.updPinned c k f).cycle = s.cycle := rfl
@[simp] theorem State.updPinned_clock (s : State) (c k : Nat) (f : Pinned → Pinned) : (s.updPinned c k f).clock = s.clock := rfl
@[simp] theorem State.updPinned_warps (s : State) (c k : Nat) (f : Pinned → Pinned) : (s.updPinned c k f).warps = s.warps := rfl
@[simp] theorem State.updPinned_teams (s : State) (c k : Nat) (f : Pinned → Pinned) : (s.updPinned c k f).teams = s.teams := rfl
@[simp] theorem State.updPinned_launches (s : State) (c k : Nat) (f : Pinned → Pinned) : (s.updPinned c k f).launches = s.launches := rfl
@[simp] theorem State.updPinned_launchNo (s : State) (c k : Nat) (f : Pinned → Pinned) : (s.updPinned c k f).launchNo = s.launchNo := rfl
@[simp] theorem State.updPinned_fresh (s : State) (c k : Nat) (f : Pinned → Pinned) : (s.updPinned c k f).fresh = s.fresh := rfl
@[simp] theorem State.updPinned_l2 (s : State) (c k : Nat) (f : Pinned → Pinned) : (s.updPinned c k f).l2 = s.l2 := rfl
@[simp] theorem State.updPinned_tlb (s : State) (c k : Nat) (f : Pinned → Pinned) : (s.updPinned c k f).tlb = s.tlb := rfl
@[simp] theorem State.updPinned_misses (s : State) (c k : Nat) (f : Pinned → Pinned) : (s.updPinned c k f).misses = s.misses := rfl
@[simp] theorem State.updPinned_stamps (s : State) (c k : Nat) (f : Pinned → Pinned) : (s.updPinned c k f).stamps = s.stamps := rfl
@[simp] theorem State.updPinned_strong (s : State) (c k : Nat) (f : Pinned → Pinned) : (s.updPinned c k f).strong = s.strong := rfl
@[simp] theorem State.updPinned_told (s : State) (c k : Nat) (f : Pinned → Pinned) : (s.updPinned c k f).told = s.told := rfl
@[simp] theorem State.updPinned_lost (s : State) (c k : Nat) (f : Pinned → Pinned) : (s.updPinned c k f).lost = s.lost := rfl
@[simp] theorem State.updPinned_asked (s : State) (c k : Nat) (f : Pinned → Pinned) : (s.updPinned c k f).asked = s.asked := rfl
@[simp] theorem State.updPinned_accesses (s : State) (c k : Nat) (f : Pinned → Pinned) : (s.updPinned c k f).accesses = s.accesses := rfl
@[simp] theorem State.updPinned_fences (s : State) (c k : Nat) (f : Pinned → Pinned) : (s.updPinned c k f).fences = s.fences := rfl
@[simp] theorem State.updPinned_outs (s : State) (c k : Nat) (f : Pinned → Pinned) : (s.updPinned c k f).outs = s.outs := rfl
@[simp] theorem State.updPinned_engines (s : State) (c k : Nat) (f : Pinned → Pinned) : (s.updPinned c k f).engines = s.engines := rfl
@[simp] theorem State.updPinned_cores (s : State) (c k : Nat) (f : Pinned → Pinned) : (s.updPinned c k f).cores = s.cores := rfl
@[simp] theorem State.updPinned_ctx (s : State) (c k : Nat) (f : Pinned → Pinned) : (s.updPinned c k f).ctx = s.ctx := rfl
@[simp] theorem State.updPinned_faultlog (s : State) (c k : Nat) (f : Pinned → Pinned) : (s.updPinned c k f).faultlog = s.faultlog := rfl
@[simp] theorem State.updPinned_heldLog (s : State) (c k : Nat) (f : Pinned → Pinned) : (s.updPinned c k f).heldLog = s.heldLog := rfl
@[simp] theorem State.updPinned_heldEvents (s : State) (c k : Nat) (f : Pinned → Pinned) : (s.updPinned c k f).heldEvents = s.heldEvents := rfl
@[simp] theorem State.updPinned_tickets (s : State) (c k : Nat) (f : Pinned → Pinned) : (s.updPinned c k f).tickets = s.tickets := rfl
@[simp] theorem State.updPinned_bins (s : State) (c k : Nat) (f : Pinned → Pinned) : (s.updPinned c k f).bins = s.bins := rfl
@[simp] theorem State.updPinned_live (s : State) (c k : Nat) (f : Pinned → Pinned) : (s.updPinned c k f).live = s.live := rfl
@[simp] theorem State.updPinned_asidTable (s : State) (c k : Nat) (f : Pinned → Pinned) : (s.updPinned c k f).asidTable = s.asidTable := rfl
@[simp] theorem State.updPinned_boot (s : State) (c k : Nat) (f : Pinned → Pinned) : (s.updPinned c k f).boot = s.boot := rfl
@[simp] theorem State.updPinned_stage (s : State) (c k : Nat) (f : Pinned → Pinned) : (s.updPinned c k f).stage = s.stage := rfl
@[simp] theorem State.updPinned_startFailed (s : State) (c k : Nat) (f : Pinned → Pinned) : (s.updPinned c k f).startFailed = s.startFailed := rfl
@[simp] theorem State.updPinned_warm (s : State) (c k : Nat) (f : Pinned → Pinned) : (s.updPinned c k f).warm = s.warm := rfl
@[simp] theorem State.updPinned_selftest (s : State) (c k : Nat) (f : Pinned → Pinned) : (s.updPinned c k f).selftest = s.selftest := rfl
@[simp] theorem State.updPinned_verified (s : State) (c k : Nat) (f : Pinned → Pinned) : (s.updPinned c k f).verified = s.verified := rfl
@[simp] theorem State.updPinned_flash (s : State) (c k : Nat) (f : Pinned → Pinned) : (s.updPinned c k f).flash = s.flash := rfl
@[simp] theorem State.updPinned_hw (s : State) (c k : Nat) (f : Pinned → Pinned) : (s.updPinned c k f).hw = s.hw := rfl
@[simp] theorem State.updPinned_failed (s : State) (c k : Nat) (f : Pinned → Pinned) : (s.updPinned c k f).failed = s.failed := rfl
@[simp] theorem State.updPinned_throttled (s : State) (c k : Nat) (f : Pinned → Pinned) : (s.updPinned c k f).throttled = s.throttled := rfl
@[simp] theorem State.updPinned_slow (s : State) (c k : Nat) (f : Pinned → Pinned) : (s.updPinned c k f).slow = s.slow := rfl
@[simp] theorem State.updPinned_skipped (s : State) (c k : Nat) (f : Pinned → Pinned) : (s.updPinned c k f).skipped = s.skipped := rfl
@[simp] theorem State.updPinned_lock (s : State) (c k : Nat) (f : Pinned → Pinned) : (s.updPinned c k f).lock = s.lock := rfl
@[simp] theorem State.updPinned_mbox (s : State) (c k : Nat) (f : Pinned → Pinned) : (s.updPinned c k f).mbox = s.mbox := rfl
@[simp] theorem State.updPinned_winbase (s : State) (c k : Nat) (f : Pinned → Pinned) : (s.updPinned c k f).winbase = s.winbase := rfl
@[simp] theorem State.updPinned_mailbox (s : State) (c k : Nat) (f : Pinned → Pinned) : (s.updPinned c k f).mailbox = s.mailbox := rfl
@[simp] theorem State.updPinned_power (s : State) (c k : Nat) (f : Pinned → Pinned) : (s.updPinned c k f).power = s.power := rfl
@[simp] theorem State.updPinned_active (s : State) (c k : Nat) (f : Pinned → Pinned) : (s.updPinned c k f).active = s.active := rfl
@[simp] theorem State.updPinned_device (s : State) (c k : Nat) (f : Pinned → Pinned) : (s.updPinned c k f).device = s.device := rfl
@[simp] theorem State.updPinned_cxl (s : State) (c k : Nat) (f : Pinned → Pinned) : (s.updPinned c k f).cxl = s.cxl := rfl
@[simp] theorem State.updPinned_routes (s : State) (c k : Nat) (f : Pinned → Pinned) : (s.updPinned c k f).routes = s.routes := rfl
@[simp] theorem State.updPinned_peerHold (s : State) (c k : Nat) (f : Pinned → Pinned) : (s.updPinned c k f).peerHold = s.peerHold := rfl
@[simp] theorem State.updPinned_warpAt (s : State) (c k : Nat) (f : Pinned → Pinned) (j : Nat) : (s.updPinned c k f).warp? j = s.warp? j := rfl
@[simp] theorem State.updPinned_teamAt (s : State) (c k : Nat) (f : Pinned → Pinned) (j : Nat) : (s.updPinned c k f).team? j = s.team? j := rfl
@[simp] theorem State.updPinned_launchAt (s : State) (c k : Nat) (f : Pinned → Pinned) (j : Nat) : (s.updPinned c k f).launch? j = s.launch? j := rfl
@[simp] theorem State.updPinned_ctxOfAt (s : State) (c k : Nat) (f : Pinned → Pinned) (j : Nat) : (s.updPinned c k f).ctxOf j = s.ctxOf j := rfl
@[simp] theorem State.updPinned_coreAt (s : State) (c k : Nat) (f : Pinned → Pinned) (j : Nat) : (s.updPinned c k f).core j = s.core j := rfl

/-! ## setPoison -/

@[simp] theorem State.setPoison_mem (s : State) (g : Nat) (b : Bool) : (s.setPoison g b).mem = s.mem := rfl
@[simp] theorem State.setPoison_cur (s : State) (g : Nat) (b : Bool) : (s.setPoison g b).cur = s.cur := rfl
@[simp] theorem State.setPoison_inputs (s : State) (g : Nat) (b : Bool) : (s.setPoison g b).inputs = s.inputs := rfl
@[simp] theorem State.setPoison_free (s : State) (g : Nat) (b : Bool) : (s.setPoison g b).free = s.free := rfl
@[simp] theorem State.setPoison_cycle (s : State) (g : Nat) (b : Bool) : (s.setPoison g b).cycle = s.cycle := rfl
@[simp] theorem State.setPoison_clock (s : State) (g : Nat) (b : Bool) : (s.setPoison g b).clock = s.clock := rfl
@[simp] theorem State.setPoison_warps (s : State) (g : Nat) (b : Bool) : (s.setPoison g b).warps = s.warps := rfl
@[simp] theorem State.setPoison_teams (s : State) (g : Nat) (b : Bool) : (s.setPoison g b).teams = s.teams := rfl
@[simp] theorem State.setPoison_launches (s : State) (g : Nat) (b : Bool) : (s.setPoison g b).launches = s.launches := rfl
@[simp] theorem State.setPoison_launchNo (s : State) (g : Nat) (b : Bool) : (s.setPoison g b).launchNo = s.launchNo := rfl
@[simp] theorem State.setPoison_fresh (s : State) (g : Nat) (b : Bool) : (s.setPoison g b).fresh = s.fresh := rfl
@[simp] theorem State.setPoison_l2 (s : State) (g : Nat) (b : Bool) : (s.setPoison g b).l2 = s.l2 := rfl
@[simp] theorem State.setPoison_tlb (s : State) (g : Nat) (b : Bool) : (s.setPoison g b).tlb = s.tlb := rfl
@[simp] theorem State.setPoison_misses (s : State) (g : Nat) (b : Bool) : (s.setPoison g b).misses = s.misses := rfl
@[simp] theorem State.setPoison_pinned (s : State) (g : Nat) (b : Bool) : (s.setPoison g b).pinned = s.pinned := rfl
@[simp] theorem State.setPoison_stamps (s : State) (g : Nat) (b : Bool) : (s.setPoison g b).stamps = s.stamps := rfl
@[simp] theorem State.setPoison_strong (s : State) (g : Nat) (b : Bool) : (s.setPoison g b).strong = s.strong := rfl
@[simp] theorem State.setPoison_told (s : State) (g : Nat) (b : Bool) : (s.setPoison g b).told = s.told := rfl
@[simp] theorem State.setPoison_lost (s : State) (g : Nat) (b : Bool) : (s.setPoison g b).lost = s.lost := rfl
@[simp] theorem State.setPoison_asked (s : State) (g : Nat) (b : Bool) : (s.setPoison g b).asked = s.asked := rfl
@[simp] theorem State.setPoison_accesses (s : State) (g : Nat) (b : Bool) : (s.setPoison g b).accesses = s.accesses := rfl
@[simp] theorem State.setPoison_fences (s : State) (g : Nat) (b : Bool) : (s.setPoison g b).fences = s.fences := rfl
@[simp] theorem State.setPoison_outs (s : State) (g : Nat) (b : Bool) : (s.setPoison g b).outs = s.outs := rfl
@[simp] theorem State.setPoison_engines (s : State) (g : Nat) (b : Bool) : (s.setPoison g b).engines = s.engines := rfl
@[simp] theorem State.setPoison_cores (s : State) (g : Nat) (b : Bool) : (s.setPoison g b).cores = s.cores := rfl
@[simp] theorem State.setPoison_ctx (s : State) (g : Nat) (b : Bool) : (s.setPoison g b).ctx = s.ctx := rfl
@[simp] theorem State.setPoison_faultlog (s : State) (g : Nat) (b : Bool) : (s.setPoison g b).faultlog = s.faultlog := rfl
@[simp] theorem State.setPoison_heldLog (s : State) (g : Nat) (b : Bool) : (s.setPoison g b).heldLog = s.heldLog := rfl
@[simp] theorem State.setPoison_heldEvents (s : State) (g : Nat) (b : Bool) : (s.setPoison g b).heldEvents = s.heldEvents := rfl
@[simp] theorem State.setPoison_tickets (s : State) (g : Nat) (b : Bool) : (s.setPoison g b).tickets = s.tickets := rfl
@[simp] theorem State.setPoison_bins (s : State) (g : Nat) (b : Bool) : (s.setPoison g b).bins = s.bins := rfl
@[simp] theorem State.setPoison_live (s : State) (g : Nat) (b : Bool) : (s.setPoison g b).live = s.live := rfl
@[simp] theorem State.setPoison_asidTable (s : State) (g : Nat) (b : Bool) : (s.setPoison g b).asidTable = s.asidTable := rfl
@[simp] theorem State.setPoison_boot (s : State) (g : Nat) (b : Bool) : (s.setPoison g b).boot = s.boot := rfl
@[simp] theorem State.setPoison_stage (s : State) (g : Nat) (b : Bool) : (s.setPoison g b).stage = s.stage := rfl
@[simp] theorem State.setPoison_startFailed (s : State) (g : Nat) (b : Bool) : (s.setPoison g b).startFailed = s.startFailed := rfl
@[simp] theorem State.setPoison_warm (s : State) (g : Nat) (b : Bool) : (s.setPoison g b).warm = s.warm := rfl
@[simp] theorem State.setPoison_selftest (s : State) (g : Nat) (b : Bool) : (s.setPoison g b).selftest = s.selftest := rfl
@[simp] theorem State.setPoison_verified (s : State) (g : Nat) (b : Bool) : (s.setPoison g b).verified = s.verified := rfl
@[simp] theorem State.setPoison_flash (s : State) (g : Nat) (b : Bool) : (s.setPoison g b).flash = s.flash := rfl
@[simp] theorem State.setPoison_hw (s : State) (g : Nat) (b : Bool) : (s.setPoison g b).hw = s.hw := rfl
@[simp] theorem State.setPoison_failed (s : State) (g : Nat) (b : Bool) : (s.setPoison g b).failed = s.failed := rfl
@[simp] theorem State.setPoison_throttled (s : State) (g : Nat) (b : Bool) : (s.setPoison g b).throttled = s.throttled := rfl
@[simp] theorem State.setPoison_slow (s : State) (g : Nat) (b : Bool) : (s.setPoison g b).slow = s.slow := rfl
@[simp] theorem State.setPoison_skipped (s : State) (g : Nat) (b : Bool) : (s.setPoison g b).skipped = s.skipped := rfl
@[simp] theorem State.setPoison_lock (s : State) (g : Nat) (b : Bool) : (s.setPoison g b).lock = s.lock := rfl
@[simp] theorem State.setPoison_mbox (s : State) (g : Nat) (b : Bool) : (s.setPoison g b).mbox = s.mbox := rfl
@[simp] theorem State.setPoison_winbase (s : State) (g : Nat) (b : Bool) : (s.setPoison g b).winbase = s.winbase := rfl
@[simp] theorem State.setPoison_mailbox (s : State) (g : Nat) (b : Bool) : (s.setPoison g b).mailbox = s.mailbox := rfl
@[simp] theorem State.setPoison_power (s : State) (g : Nat) (b : Bool) : (s.setPoison g b).power = s.power := rfl
@[simp] theorem State.setPoison_active (s : State) (g : Nat) (b : Bool) : (s.setPoison g b).active = s.active := rfl
@[simp] theorem State.setPoison_device (s : State) (g : Nat) (b : Bool) : (s.setPoison g b).device = s.device := rfl
@[simp] theorem State.setPoison_cxl (s : State) (g : Nat) (b : Bool) : (s.setPoison g b).cxl = s.cxl := rfl
@[simp] theorem State.setPoison_routes (s : State) (g : Nat) (b : Bool) : (s.setPoison g b).routes = s.routes := rfl
@[simp] theorem State.setPoison_peerHold (s : State) (g : Nat) (b : Bool) : (s.setPoison g b).peerHold = s.peerHold := rfl
@[simp] theorem State.setPoison_warpAt (s : State) (g : Nat) (b : Bool) (j : Nat) : (s.setPoison g b).warp? j = s.warp? j := rfl
@[simp] theorem State.setPoison_teamAt (s : State) (g : Nat) (b : Bool) (j : Nat) : (s.setPoison g b).team? j = s.team? j := rfl
@[simp] theorem State.setPoison_launchAt (s : State) (g : Nat) (b : Bool) (j : Nat) : (s.setPoison g b).launch? j = s.launch? j := rfl
@[simp] theorem State.setPoison_ctxOfAt (s : State) (g : Nat) (b : Bool) (j : Nat) : (s.setPoison g b).ctxOf j = s.ctxOf j := rfl
@[simp] theorem State.setPoison_coreAt (s : State) (g : Nat) (b : Bool) (j : Nat) : (s.setPoison g b).core j = s.core j := rfl

/-! ## loseStamps -/

@[simp] theorem State.loseStamps_mem (s : State) (p : Place) : (s.loseStamps p).mem = s.mem := rfl
@[simp] theorem State.loseStamps_poison (s : State) (p : Place) : (s.loseStamps p).poison = s.poison := rfl
@[simp] theorem State.loseStamps_cur (s : State) (p : Place) : (s.loseStamps p).cur = s.cur := rfl
@[simp] theorem State.loseStamps_inputs (s : State) (p : Place) : (s.loseStamps p).inputs = s.inputs := rfl
@[simp] theorem State.loseStamps_free (s : State) (p : Place) : (s.loseStamps p).free = s.free := rfl
@[simp] theorem State.loseStamps_cycle (s : State) (p : Place) : (s.loseStamps p).cycle = s.cycle := rfl
@[simp] theorem State.loseStamps_clock (s : State) (p : Place) : (s.loseStamps p).clock = s.clock := rfl
@[simp] theorem State.loseStamps_warps (s : State) (p : Place) : (s.loseStamps p).warps = s.warps := rfl
@[simp] theorem State.loseStamps_teams (s : State) (p : Place) : (s.loseStamps p).teams = s.teams := rfl
@[simp] theorem State.loseStamps_launches (s : State) (p : Place) : (s.loseStamps p).launches = s.launches := rfl
@[simp] theorem State.loseStamps_launchNo (s : State) (p : Place) : (s.loseStamps p).launchNo = s.launchNo := rfl
@[simp] theorem State.loseStamps_fresh (s : State) (p : Place) : (s.loseStamps p).fresh = s.fresh := rfl
@[simp] theorem State.loseStamps_l2 (s : State) (p : Place) : (s.loseStamps p).l2 = s.l2 := rfl
@[simp] theorem State.loseStamps_tlb (s : State) (p : Place) : (s.loseStamps p).tlb = s.tlb := rfl
@[simp] theorem State.loseStamps_misses (s : State) (p : Place) : (s.loseStamps p).misses = s.misses := rfl
@[simp] theorem State.loseStamps_pinned (s : State) (p : Place) : (s.loseStamps p).pinned = s.pinned := rfl
@[simp] theorem State.loseStamps_strong (s : State) (p : Place) : (s.loseStamps p).strong = s.strong := rfl
@[simp] theorem State.loseStamps_told (s : State) (p : Place) : (s.loseStamps p).told = s.told := rfl
@[simp] theorem State.loseStamps_lost (s : State) (p : Place) : (s.loseStamps p).lost = s.lost := rfl
@[simp] theorem State.loseStamps_asked (s : State) (p : Place) : (s.loseStamps p).asked = s.asked := rfl
@[simp] theorem State.loseStamps_accesses (s : State) (p : Place) : (s.loseStamps p).accesses = s.accesses := rfl
@[simp] theorem State.loseStamps_fences (s : State) (p : Place) : (s.loseStamps p).fences = s.fences := rfl
@[simp] theorem State.loseStamps_outs (s : State) (p : Place) : (s.loseStamps p).outs = s.outs := rfl
@[simp] theorem State.loseStamps_engines (s : State) (p : Place) : (s.loseStamps p).engines = s.engines := rfl
@[simp] theorem State.loseStamps_cores (s : State) (p : Place) : (s.loseStamps p).cores = s.cores := rfl
@[simp] theorem State.loseStamps_ctx (s : State) (p : Place) : (s.loseStamps p).ctx = s.ctx := rfl
@[simp] theorem State.loseStamps_faultlog (s : State) (p : Place) : (s.loseStamps p).faultlog = s.faultlog := rfl
@[simp] theorem State.loseStamps_heldLog (s : State) (p : Place) : (s.loseStamps p).heldLog = s.heldLog := rfl
@[simp] theorem State.loseStamps_heldEvents (s : State) (p : Place) : (s.loseStamps p).heldEvents = s.heldEvents := rfl
@[simp] theorem State.loseStamps_tickets (s : State) (p : Place) : (s.loseStamps p).tickets = s.tickets := rfl
@[simp] theorem State.loseStamps_bins (s : State) (p : Place) : (s.loseStamps p).bins = s.bins := rfl
@[simp] theorem State.loseStamps_live (s : State) (p : Place) : (s.loseStamps p).live = s.live := rfl
@[simp] theorem State.loseStamps_asidTable (s : State) (p : Place) : (s.loseStamps p).asidTable = s.asidTable := rfl
@[simp] theorem State.loseStamps_boot (s : State) (p : Place) : (s.loseStamps p).boot = s.boot := rfl
@[simp] theorem State.loseStamps_stage (s : State) (p : Place) : (s.loseStamps p).stage = s.stage := rfl
@[simp] theorem State.loseStamps_startFailed (s : State) (p : Place) : (s.loseStamps p).startFailed = s.startFailed := rfl
@[simp] theorem State.loseStamps_warm (s : State) (p : Place) : (s.loseStamps p).warm = s.warm := rfl
@[simp] theorem State.loseStamps_selftest (s : State) (p : Place) : (s.loseStamps p).selftest = s.selftest := rfl
@[simp] theorem State.loseStamps_verified (s : State) (p : Place) : (s.loseStamps p).verified = s.verified := rfl
@[simp] theorem State.loseStamps_flash (s : State) (p : Place) : (s.loseStamps p).flash = s.flash := rfl
@[simp] theorem State.loseStamps_hw (s : State) (p : Place) : (s.loseStamps p).hw = s.hw := rfl
@[simp] theorem State.loseStamps_failed (s : State) (p : Place) : (s.loseStamps p).failed = s.failed := rfl
@[simp] theorem State.loseStamps_throttled (s : State) (p : Place) : (s.loseStamps p).throttled = s.throttled := rfl
@[simp] theorem State.loseStamps_slow (s : State) (p : Place) : (s.loseStamps p).slow = s.slow := rfl
@[simp] theorem State.loseStamps_skipped (s : State) (p : Place) : (s.loseStamps p).skipped = s.skipped := rfl
@[simp] theorem State.loseStamps_lock (s : State) (p : Place) : (s.loseStamps p).lock = s.lock := rfl
@[simp] theorem State.loseStamps_mbox (s : State) (p : Place) : (s.loseStamps p).mbox = s.mbox := rfl
@[simp] theorem State.loseStamps_winbase (s : State) (p : Place) : (s.loseStamps p).winbase = s.winbase := rfl
@[simp] theorem State.loseStamps_mailbox (s : State) (p : Place) : (s.loseStamps p).mailbox = s.mailbox := rfl
@[simp] theorem State.loseStamps_power (s : State) (p : Place) : (s.loseStamps p).power = s.power := rfl
@[simp] theorem State.loseStamps_active (s : State) (p : Place) : (s.loseStamps p).active = s.active := rfl
@[simp] theorem State.loseStamps_device (s : State) (p : Place) : (s.loseStamps p).device = s.device := rfl
@[simp] theorem State.loseStamps_cxl (s : State) (p : Place) : (s.loseStamps p).cxl = s.cxl := rfl
@[simp] theorem State.loseStamps_routes (s : State) (p : Place) : (s.loseStamps p).routes = s.routes := rfl
@[simp] theorem State.loseStamps_peerHold (s : State) (p : Place) : (s.loseStamps p).peerHold = s.peerHold := rfl
@[simp] theorem State.loseStamps_warpAt (s : State) (p : Place) (j : Nat) : (s.loseStamps p).warp? j = s.warp? j := rfl
@[simp] theorem State.loseStamps_teamAt (s : State) (p : Place) (j : Nat) : (s.loseStamps p).team? j = s.team? j := rfl
@[simp] theorem State.loseStamps_launchAt (s : State) (p : Place) (j : Nat) : (s.loseStamps p).launch? j = s.launch? j := rfl
@[simp] theorem State.loseStamps_ctxOfAt (s : State) (p : Place) (j : Nat) : (s.loseStamps p).ctxOf j = s.ctxOf j := rfl
@[simp] theorem State.loseStamps_coreAt (s : State) (p : Place) (j : Nat) : (s.loseStamps p).core j = s.core j := rfl

/-! ## dropTicket -/

@[simp] theorem State.dropTicket_mem (s : State) (t : Nat) : (s.dropTicket t).mem = s.mem := rfl
@[simp] theorem State.dropTicket_poison (s : State) (t : Nat) : (s.dropTicket t).poison = s.poison := rfl
@[simp] theorem State.dropTicket_cur (s : State) (t : Nat) : (s.dropTicket t).cur = s.cur := rfl
@[simp] theorem State.dropTicket_inputs (s : State) (t : Nat) : (s.dropTicket t).inputs = s.inputs := rfl
@[simp] theorem State.dropTicket_free (s : State) (t : Nat) : (s.dropTicket t).free = s.free := rfl
@[simp] theorem State.dropTicket_cycle (s : State) (t : Nat) : (s.dropTicket t).cycle = s.cycle := rfl
@[simp] theorem State.dropTicket_clock (s : State) (t : Nat) : (s.dropTicket t).clock = s.clock := rfl
@[simp] theorem State.dropTicket_warps (s : State) (t : Nat) : (s.dropTicket t).warps = s.warps := rfl
@[simp] theorem State.dropTicket_teams (s : State) (t : Nat) : (s.dropTicket t).teams = s.teams := rfl
@[simp] theorem State.dropTicket_launches (s : State) (t : Nat) : (s.dropTicket t).launches = s.launches := rfl
@[simp] theorem State.dropTicket_launchNo (s : State) (t : Nat) : (s.dropTicket t).launchNo = s.launchNo := rfl
@[simp] theorem State.dropTicket_fresh (s : State) (t : Nat) : (s.dropTicket t).fresh = s.fresh := rfl
@[simp] theorem State.dropTicket_l2 (s : State) (t : Nat) : (s.dropTicket t).l2 = s.l2 := rfl
@[simp] theorem State.dropTicket_tlb (s : State) (t : Nat) : (s.dropTicket t).tlb = s.tlb := rfl
@[simp] theorem State.dropTicket_misses (s : State) (t : Nat) : (s.dropTicket t).misses = s.misses := rfl
@[simp] theorem State.dropTicket_pinned (s : State) (t : Nat) : (s.dropTicket t).pinned = s.pinned := rfl
@[simp] theorem State.dropTicket_stamps (s : State) (t : Nat) : (s.dropTicket t).stamps = s.stamps := rfl
@[simp] theorem State.dropTicket_strong (s : State) (t : Nat) : (s.dropTicket t).strong = s.strong := rfl
@[simp] theorem State.dropTicket_told (s : State) (t : Nat) : (s.dropTicket t).told = s.told := rfl
@[simp] theorem State.dropTicket_lost (s : State) (t : Nat) : (s.dropTicket t).lost = s.lost := rfl
@[simp] theorem State.dropTicket_asked (s : State) (t : Nat) : (s.dropTicket t).asked = s.asked := rfl
@[simp] theorem State.dropTicket_accesses (s : State) (t : Nat) : (s.dropTicket t).accesses = s.accesses := rfl
@[simp] theorem State.dropTicket_fences (s : State) (t : Nat) : (s.dropTicket t).fences = s.fences := rfl
@[simp] theorem State.dropTicket_outs (s : State) (t : Nat) : (s.dropTicket t).outs = s.outs := rfl
@[simp] theorem State.dropTicket_engines (s : State) (t : Nat) : (s.dropTicket t).engines = s.engines := rfl
@[simp] theorem State.dropTicket_cores (s : State) (t : Nat) : (s.dropTicket t).cores = s.cores := rfl
@[simp] theorem State.dropTicket_ctx (s : State) (t : Nat) : (s.dropTicket t).ctx = s.ctx := rfl
@[simp] theorem State.dropTicket_faultlog (s : State) (t : Nat) : (s.dropTicket t).faultlog = s.faultlog := rfl
@[simp] theorem State.dropTicket_heldLog (s : State) (t : Nat) : (s.dropTicket t).heldLog = s.heldLog := rfl
@[simp] theorem State.dropTicket_heldEvents (s : State) (t : Nat) : (s.dropTicket t).heldEvents = s.heldEvents := rfl
@[simp] theorem State.dropTicket_bins (s : State) (t : Nat) : (s.dropTicket t).bins = s.bins := rfl
@[simp] theorem State.dropTicket_live (s : State) (t : Nat) : (s.dropTicket t).live = s.live := rfl
@[simp] theorem State.dropTicket_asidTable (s : State) (t : Nat) : (s.dropTicket t).asidTable = s.asidTable := rfl
@[simp] theorem State.dropTicket_boot (s : State) (t : Nat) : (s.dropTicket t).boot = s.boot := rfl
@[simp] theorem State.dropTicket_stage (s : State) (t : Nat) : (s.dropTicket t).stage = s.stage := rfl
@[simp] theorem State.dropTicket_startFailed (s : State) (t : Nat) : (s.dropTicket t).startFailed = s.startFailed := rfl
@[simp] theorem State.dropTicket_warm (s : State) (t : Nat) : (s.dropTicket t).warm = s.warm := rfl
@[simp] theorem State.dropTicket_selftest (s : State) (t : Nat) : (s.dropTicket t).selftest = s.selftest := rfl
@[simp] theorem State.dropTicket_verified (s : State) (t : Nat) : (s.dropTicket t).verified = s.verified := rfl
@[simp] theorem State.dropTicket_flash (s : State) (t : Nat) : (s.dropTicket t).flash = s.flash := rfl
@[simp] theorem State.dropTicket_hw (s : State) (t : Nat) : (s.dropTicket t).hw = s.hw := rfl
@[simp] theorem State.dropTicket_failed (s : State) (t : Nat) : (s.dropTicket t).failed = s.failed := rfl
@[simp] theorem State.dropTicket_throttled (s : State) (t : Nat) : (s.dropTicket t).throttled = s.throttled := rfl
@[simp] theorem State.dropTicket_slow (s : State) (t : Nat) : (s.dropTicket t).slow = s.slow := rfl
@[simp] theorem State.dropTicket_skipped (s : State) (t : Nat) : (s.dropTicket t).skipped = s.skipped := rfl
@[simp] theorem State.dropTicket_lock (s : State) (t : Nat) : (s.dropTicket t).lock = s.lock := rfl
@[simp] theorem State.dropTicket_mbox (s : State) (t : Nat) : (s.dropTicket t).mbox = s.mbox := rfl
@[simp] theorem State.dropTicket_winbase (s : State) (t : Nat) : (s.dropTicket t).winbase = s.winbase := rfl
@[simp] theorem State.dropTicket_mailbox (s : State) (t : Nat) : (s.dropTicket t).mailbox = s.mailbox := rfl
@[simp] theorem State.dropTicket_power (s : State) (t : Nat) : (s.dropTicket t).power = s.power := rfl
@[simp] theorem State.dropTicket_active (s : State) (t : Nat) : (s.dropTicket t).active = s.active := rfl
@[simp] theorem State.dropTicket_device (s : State) (t : Nat) : (s.dropTicket t).device = s.device := rfl
@[simp] theorem State.dropTicket_cxl (s : State) (t : Nat) : (s.dropTicket t).cxl = s.cxl := rfl
@[simp] theorem State.dropTicket_routes (s : State) (t : Nat) : (s.dropTicket t).routes = s.routes := rfl
@[simp] theorem State.dropTicket_peerHold (s : State) (t : Nat) : (s.dropTicket t).peerHold = s.peerHold := rfl
@[simp] theorem State.dropTicket_warpAt (s : State) (t : Nat) (j : Nat) : (s.dropTicket t).warp? j = s.warp? j := rfl
@[simp] theorem State.dropTicket_teamAt (s : State) (t : Nat) (j : Nat) : (s.dropTicket t).team? j = s.team? j := rfl
@[simp] theorem State.dropTicket_launchAt (s : State) (t : Nat) (j : Nat) : (s.dropTicket t).launch? j = s.launch? j := rfl
@[simp] theorem State.dropTicket_ctxOfAt (s : State) (t : Nat) (j : Nat) : (s.dropTicket t).ctxOf j = s.ctxOf j := rfl
@[simp] theorem State.dropTicket_coreAt (s : State) (t : Nat) (j : Nat) : (s.dropTicket t).core j = s.core j := rfl

/-! ## holdEntry -/

@[simp] theorem State.holdEntry_mem (s : State) (e : List Byte) (b : Bool) : (s.holdEntry e b).mem = s.mem := rfl
@[simp] theorem State.holdEntry_poison (s : State) (e : List Byte) (b : Bool) : (s.holdEntry e b).poison = s.poison := rfl
@[simp] theorem State.holdEntry_cur (s : State) (e : List Byte) (b : Bool) : (s.holdEntry e b).cur = s.cur := rfl
@[simp] theorem State.holdEntry_inputs (s : State) (e : List Byte) (b : Bool) : (s.holdEntry e b).inputs = s.inputs := rfl
@[simp] theorem State.holdEntry_free (s : State) (e : List Byte) (b : Bool) : (s.holdEntry e b).free = s.free := rfl
@[simp] theorem State.holdEntry_cycle (s : State) (e : List Byte) (b : Bool) : (s.holdEntry e b).cycle = s.cycle := rfl
@[simp] theorem State.holdEntry_clock (s : State) (e : List Byte) (b : Bool) : (s.holdEntry e b).clock = s.clock := rfl
@[simp] theorem State.holdEntry_warps (s : State) (e : List Byte) (b : Bool) : (s.holdEntry e b).warps = s.warps := rfl
@[simp] theorem State.holdEntry_teams (s : State) (e : List Byte) (b : Bool) : (s.holdEntry e b).teams = s.teams := rfl
@[simp] theorem State.holdEntry_launches (s : State) (e : List Byte) (b : Bool) : (s.holdEntry e b).launches = s.launches := rfl
@[simp] theorem State.holdEntry_launchNo (s : State) (e : List Byte) (b : Bool) : (s.holdEntry e b).launchNo = s.launchNo := rfl
@[simp] theorem State.holdEntry_fresh (s : State) (e : List Byte) (b : Bool) : (s.holdEntry e b).fresh = s.fresh := rfl
@[simp] theorem State.holdEntry_l2 (s : State) (e : List Byte) (b : Bool) : (s.holdEntry e b).l2 = s.l2 := rfl
@[simp] theorem State.holdEntry_tlb (s : State) (e : List Byte) (b : Bool) : (s.holdEntry e b).tlb = s.tlb := rfl
@[simp] theorem State.holdEntry_misses (s : State) (e : List Byte) (b : Bool) : (s.holdEntry e b).misses = s.misses := rfl
@[simp] theorem State.holdEntry_pinned (s : State) (e : List Byte) (b : Bool) : (s.holdEntry e b).pinned = s.pinned := rfl
@[simp] theorem State.holdEntry_stamps (s : State) (e : List Byte) (b : Bool) : (s.holdEntry e b).stamps = s.stamps := rfl
@[simp] theorem State.holdEntry_strong (s : State) (e : List Byte) (b : Bool) : (s.holdEntry e b).strong = s.strong := rfl
@[simp] theorem State.holdEntry_told (s : State) (e : List Byte) (b : Bool) : (s.holdEntry e b).told = s.told := rfl
@[simp] theorem State.holdEntry_lost (s : State) (e : List Byte) (b : Bool) : (s.holdEntry e b).lost = s.lost := rfl
@[simp] theorem State.holdEntry_asked (s : State) (e : List Byte) (b : Bool) : (s.holdEntry e b).asked = s.asked := rfl
@[simp] theorem State.holdEntry_accesses (s : State) (e : List Byte) (b : Bool) : (s.holdEntry e b).accesses = s.accesses := rfl
@[simp] theorem State.holdEntry_fences (s : State) (e : List Byte) (b : Bool) : (s.holdEntry e b).fences = s.fences := rfl
@[simp] theorem State.holdEntry_outs (s : State) (e : List Byte) (b : Bool) : (s.holdEntry e b).outs = s.outs := rfl
@[simp] theorem State.holdEntry_engines (s : State) (e : List Byte) (b : Bool) : (s.holdEntry e b).engines = s.engines := rfl
@[simp] theorem State.holdEntry_cores (s : State) (e : List Byte) (b : Bool) : (s.holdEntry e b).cores = s.cores := rfl
@[simp] theorem State.holdEntry_ctx (s : State) (e : List Byte) (b : Bool) : (s.holdEntry e b).ctx = s.ctx := rfl
@[simp] theorem State.holdEntry_faultlog (s : State) (e : List Byte) (b : Bool) : (s.holdEntry e b).faultlog = s.faultlog := rfl
@[simp] theorem State.holdEntry_heldEvents (s : State) (e : List Byte) (b : Bool) : (s.holdEntry e b).heldEvents = s.heldEvents := rfl
@[simp] theorem State.holdEntry_tickets (s : State) (e : List Byte) (b : Bool) : (s.holdEntry e b).tickets = s.tickets := rfl
@[simp] theorem State.holdEntry_bins (s : State) (e : List Byte) (b : Bool) : (s.holdEntry e b).bins = s.bins := rfl
@[simp] theorem State.holdEntry_live (s : State) (e : List Byte) (b : Bool) : (s.holdEntry e b).live = s.live := rfl
@[simp] theorem State.holdEntry_asidTable (s : State) (e : List Byte) (b : Bool) : (s.holdEntry e b).asidTable = s.asidTable := rfl
@[simp] theorem State.holdEntry_boot (s : State) (e : List Byte) (b : Bool) : (s.holdEntry e b).boot = s.boot := rfl
@[simp] theorem State.holdEntry_stage (s : State) (e : List Byte) (b : Bool) : (s.holdEntry e b).stage = s.stage := rfl
@[simp] theorem State.holdEntry_startFailed (s : State) (e : List Byte) (b : Bool) : (s.holdEntry e b).startFailed = s.startFailed := rfl
@[simp] theorem State.holdEntry_warm (s : State) (e : List Byte) (b : Bool) : (s.holdEntry e b).warm = s.warm := rfl
@[simp] theorem State.holdEntry_selftest (s : State) (e : List Byte) (b : Bool) : (s.holdEntry e b).selftest = s.selftest := rfl
@[simp] theorem State.holdEntry_verified (s : State) (e : List Byte) (b : Bool) : (s.holdEntry e b).verified = s.verified := rfl
@[simp] theorem State.holdEntry_flash (s : State) (e : List Byte) (b : Bool) : (s.holdEntry e b).flash = s.flash := rfl
@[simp] theorem State.holdEntry_hw (s : State) (e : List Byte) (b : Bool) : (s.holdEntry e b).hw = s.hw := rfl
@[simp] theorem State.holdEntry_failed (s : State) (e : List Byte) (b : Bool) : (s.holdEntry e b).failed = s.failed := rfl
@[simp] theorem State.holdEntry_throttled (s : State) (e : List Byte) (b : Bool) : (s.holdEntry e b).throttled = s.throttled := rfl
@[simp] theorem State.holdEntry_slow (s : State) (e : List Byte) (b : Bool) : (s.holdEntry e b).slow = s.slow := rfl
@[simp] theorem State.holdEntry_skipped (s : State) (e : List Byte) (b : Bool) : (s.holdEntry e b).skipped = s.skipped := rfl
@[simp] theorem State.holdEntry_lock (s : State) (e : List Byte) (b : Bool) : (s.holdEntry e b).lock = s.lock := rfl
@[simp] theorem State.holdEntry_mbox (s : State) (e : List Byte) (b : Bool) : (s.holdEntry e b).mbox = s.mbox := rfl
@[simp] theorem State.holdEntry_winbase (s : State) (e : List Byte) (b : Bool) : (s.holdEntry e b).winbase = s.winbase := rfl
@[simp] theorem State.holdEntry_mailbox (s : State) (e : List Byte) (b : Bool) : (s.holdEntry e b).mailbox = s.mailbox := rfl
@[simp] theorem State.holdEntry_power (s : State) (e : List Byte) (b : Bool) : (s.holdEntry e b).power = s.power := rfl
@[simp] theorem State.holdEntry_active (s : State) (e : List Byte) (b : Bool) : (s.holdEntry e b).active = s.active := rfl
@[simp] theorem State.holdEntry_device (s : State) (e : List Byte) (b : Bool) : (s.holdEntry e b).device = s.device := rfl
@[simp] theorem State.holdEntry_cxl (s : State) (e : List Byte) (b : Bool) : (s.holdEntry e b).cxl = s.cxl := rfl
@[simp] theorem State.holdEntry_routes (s : State) (e : List Byte) (b : Bool) : (s.holdEntry e b).routes = s.routes := rfl
@[simp] theorem State.holdEntry_peerHold (s : State) (e : List Byte) (b : Bool) : (s.holdEntry e b).peerHold = s.peerHold := rfl
@[simp] theorem State.holdEntry_warpAt (s : State) (e : List Byte) (b : Bool) (j : Nat) : (s.holdEntry e b).warp? j = s.warp? j := rfl
@[simp] theorem State.holdEntry_teamAt (s : State) (e : List Byte) (b : Bool) (j : Nat) : (s.holdEntry e b).team? j = s.team? j := rfl
@[simp] theorem State.holdEntry_launchAt (s : State) (e : List Byte) (b : Bool) (j : Nat) : (s.holdEntry e b).launch? j = s.launch? j := rfl
@[simp] theorem State.holdEntry_ctxOfAt (s : State) (e : List Byte) (b : Bool) (j : Nat) : (s.holdEntry e b).ctxOf j = s.ctxOf j := rfl
@[simp] theorem State.holdEntry_coreAt (s : State) (e : List Byte) (b : Bool) (j : Nat) : (s.holdEntry e b).core j = s.core j := rfl

/-! ## touch -/

@[simp] theorem State.touch_mem (s : State) (b : Block) : (s.touch b).mem = s.mem := rfl
@[simp] theorem State.touch_poison (s : State) (b : Block) : (s.touch b).poison = s.poison := rfl
@[simp] theorem State.touch_cur (s : State) (b : Block) : (s.touch b).cur = s.cur := rfl
@[simp] theorem State.touch_inputs (s : State) (b : Block) : (s.touch b).inputs = s.inputs := rfl
@[simp] theorem State.touch_free (s : State) (b : Block) : (s.touch b).free = s.free := rfl
@[simp] theorem State.touch_cycle (s : State) (b : Block) : (s.touch b).cycle = s.cycle := rfl
@[simp] theorem State.touch_clock (s : State) (b : Block) : (s.touch b).clock = s.clock := rfl
@[simp] theorem State.touch_warps (s : State) (b : Block) : (s.touch b).warps = s.warps := rfl
@[simp] theorem State.touch_teams (s : State) (b : Block) : (s.touch b).teams = s.teams := rfl
@[simp] theorem State.touch_launches (s : State) (b : Block) : (s.touch b).launches = s.launches := rfl
@[simp] theorem State.touch_launchNo (s : State) (b : Block) : (s.touch b).launchNo = s.launchNo := rfl
@[simp] theorem State.touch_fresh (s : State) (b : Block) : (s.touch b).fresh = s.fresh := rfl
@[simp] theorem State.touch_l2 (s : State) (b : Block) : (s.touch b).l2 = s.l2 := rfl
@[simp] theorem State.touch_tlb (s : State) (b : Block) : (s.touch b).tlb = s.tlb := rfl
@[simp] theorem State.touch_misses (s : State) (b : Block) : (s.touch b).misses = s.misses := rfl
@[simp] theorem State.touch_pinned (s : State) (b : Block) : (s.touch b).pinned = s.pinned := rfl
@[simp] theorem State.touch_stamps (s : State) (b : Block) : (s.touch b).stamps = s.stamps := rfl
@[simp] theorem State.touch_strong (s : State) (b : Block) : (s.touch b).strong = s.strong := rfl
@[simp] theorem State.touch_told (s : State) (b : Block) : (s.touch b).told = s.told := rfl
@[simp] theorem State.touch_lost (s : State) (b : Block) : (s.touch b).lost = s.lost := rfl
@[simp] theorem State.touch_asked (s : State) (b : Block) : (s.touch b).asked = s.asked := rfl
@[simp] theorem State.touch_accesses (s : State) (b : Block) : (s.touch b).accesses = s.accesses := rfl
@[simp] theorem State.touch_fences (s : State) (b : Block) : (s.touch b).fences = s.fences := rfl
@[simp] theorem State.touch_outs (s : State) (b : Block) : (s.touch b).outs = s.outs := rfl
@[simp] theorem State.touch_engines (s : State) (b : Block) : (s.touch b).engines = s.engines := rfl
@[simp] theorem State.touch_cores (s : State) (b : Block) : (s.touch b).cores = s.cores := rfl
@[simp] theorem State.touch_ctx (s : State) (b : Block) : (s.touch b).ctx = s.ctx := rfl
@[simp] theorem State.touch_faultlog (s : State) (b : Block) : (s.touch b).faultlog = s.faultlog := rfl
@[simp] theorem State.touch_heldLog (s : State) (b : Block) : (s.touch b).heldLog = s.heldLog := rfl
@[simp] theorem State.touch_heldEvents (s : State) (b : Block) : (s.touch b).heldEvents = s.heldEvents := rfl
@[simp] theorem State.touch_tickets (s : State) (b : Block) : (s.touch b).tickets = s.tickets := rfl
@[simp] theorem State.touch_bins (s : State) (b : Block) : (s.touch b).bins = s.bins := rfl
@[simp] theorem State.touch_live (s : State) (b : Block) : (s.touch b).live = s.live := rfl
@[simp] theorem State.touch_asidTable (s : State) (b : Block) : (s.touch b).asidTable = s.asidTable := rfl
@[simp] theorem State.touch_boot (s : State) (b : Block) : (s.touch b).boot = s.boot := rfl
@[simp] theorem State.touch_stage (s : State) (b : Block) : (s.touch b).stage = s.stage := rfl
@[simp] theorem State.touch_startFailed (s : State) (b : Block) : (s.touch b).startFailed = s.startFailed := rfl
@[simp] theorem State.touch_warm (s : State) (b : Block) : (s.touch b).warm = s.warm := rfl
@[simp] theorem State.touch_selftest (s : State) (b : Block) : (s.touch b).selftest = s.selftest := rfl
@[simp] theorem State.touch_verified (s : State) (b : Block) : (s.touch b).verified = s.verified := rfl
@[simp] theorem State.touch_flash (s : State) (b : Block) : (s.touch b).flash = s.flash := rfl
@[simp] theorem State.touch_hw (s : State) (b : Block) : (s.touch b).hw = s.hw := rfl
@[simp] theorem State.touch_failed (s : State) (b : Block) : (s.touch b).failed = s.failed := rfl
@[simp] theorem State.touch_throttled (s : State) (b : Block) : (s.touch b).throttled = s.throttled := rfl
@[simp] theorem State.touch_slow (s : State) (b : Block) : (s.touch b).slow = s.slow := rfl
@[simp] theorem State.touch_skipped (s : State) (b : Block) : (s.touch b).skipped = s.skipped := rfl
@[simp] theorem State.touch_lock (s : State) (b : Block) : (s.touch b).lock = s.lock := rfl
@[simp] theorem State.touch_mbox (s : State) (b : Block) : (s.touch b).mbox = s.mbox := rfl
@[simp] theorem State.touch_winbase (s : State) (b : Block) : (s.touch b).winbase = s.winbase := rfl
@[simp] theorem State.touch_mailbox (s : State) (b : Block) : (s.touch b).mailbox = s.mailbox := rfl
@[simp] theorem State.touch_power (s : State) (b : Block) : (s.touch b).power = s.power := rfl
@[simp] theorem State.touch_device (s : State) (b : Block) : (s.touch b).device = s.device := rfl
@[simp] theorem State.touch_cxl (s : State) (b : Block) : (s.touch b).cxl = s.cxl := rfl
@[simp] theorem State.touch_routes (s : State) (b : Block) : (s.touch b).routes = s.routes := rfl
@[simp] theorem State.touch_peerHold (s : State) (b : Block) : (s.touch b).peerHold = s.peerHold := rfl
@[simp] theorem State.touch_warpAt (s : State) (b : Block) (j : Nat) : (s.touch b).warp? j = s.warp? j := rfl
@[simp] theorem State.touch_teamAt (s : State) (b : Block) (j : Nat) : (s.touch b).team? j = s.team? j := rfl
@[simp] theorem State.touch_launchAt (s : State) (b : Block) (j : Nat) : (s.touch b).launch? j = s.launch? j := rfl
@[simp] theorem State.touch_ctxOfAt (s : State) (b : Block) (j : Nat) : (s.touch b).ctxOf j = s.ctxOf j := rfl
@[simp] theorem State.touch_coreAt (s : State) (b : Block) (j : Nat) : (s.touch b).core j = s.core j := rfl

/-! ## wake -/

@[simp] theorem State.wake_mem (s : State) (b : Block) : (s.wake b).mem = s.mem := rfl
@[simp] theorem State.wake_poison (s : State) (b : Block) : (s.wake b).poison = s.poison := rfl
@[simp] theorem State.wake_cur (s : State) (b : Block) : (s.wake b).cur = s.cur := rfl
@[simp] theorem State.wake_inputs (s : State) (b : Block) : (s.wake b).inputs = s.inputs := rfl
@[simp] theorem State.wake_free (s : State) (b : Block) : (s.wake b).free = s.free := rfl
@[simp] theorem State.wake_cycle (s : State) (b : Block) : (s.wake b).cycle = s.cycle := rfl
@[simp] theorem State.wake_clock (s : State) (b : Block) : (s.wake b).clock = s.clock := rfl
@[simp] theorem State.wake_warps (s : State) (b : Block) : (s.wake b).warps = s.warps := rfl
@[simp] theorem State.wake_teams (s : State) (b : Block) : (s.wake b).teams = s.teams := rfl
@[simp] theorem State.wake_launches (s : State) (b : Block) : (s.wake b).launches = s.launches := rfl
@[simp] theorem State.wake_launchNo (s : State) (b : Block) : (s.wake b).launchNo = s.launchNo := rfl
@[simp] theorem State.wake_fresh (s : State) (b : Block) : (s.wake b).fresh = s.fresh := rfl
@[simp] theorem State.wake_l2 (s : State) (b : Block) : (s.wake b).l2 = s.l2 := rfl
@[simp] theorem State.wake_tlb (s : State) (b : Block) : (s.wake b).tlb = s.tlb := rfl
@[simp] theorem State.wake_misses (s : State) (b : Block) : (s.wake b).misses = s.misses := rfl
@[simp] theorem State.wake_pinned (s : State) (b : Block) : (s.wake b).pinned = s.pinned := rfl
@[simp] theorem State.wake_stamps (s : State) (b : Block) : (s.wake b).stamps = s.stamps := rfl
@[simp] theorem State.wake_strong (s : State) (b : Block) : (s.wake b).strong = s.strong := rfl
@[simp] theorem State.wake_told (s : State) (b : Block) : (s.wake b).told = s.told := rfl
@[simp] theorem State.wake_lost (s : State) (b : Block) : (s.wake b).lost = s.lost := rfl
@[simp] theorem State.wake_asked (s : State) (b : Block) : (s.wake b).asked = s.asked := rfl
@[simp] theorem State.wake_accesses (s : State) (b : Block) : (s.wake b).accesses = s.accesses := rfl
@[simp] theorem State.wake_fences (s : State) (b : Block) : (s.wake b).fences = s.fences := rfl
@[simp] theorem State.wake_outs (s : State) (b : Block) : (s.wake b).outs = s.outs := rfl
@[simp] theorem State.wake_engines (s : State) (b : Block) : (s.wake b).engines = s.engines := rfl
@[simp] theorem State.wake_cores (s : State) (b : Block) : (s.wake b).cores = s.cores := rfl
@[simp] theorem State.wake_ctx (s : State) (b : Block) : (s.wake b).ctx = s.ctx := rfl
@[simp] theorem State.wake_faultlog (s : State) (b : Block) : (s.wake b).faultlog = s.faultlog := rfl
@[simp] theorem State.wake_heldLog (s : State) (b : Block) : (s.wake b).heldLog = s.heldLog := rfl
@[simp] theorem State.wake_heldEvents (s : State) (b : Block) : (s.wake b).heldEvents = s.heldEvents := rfl
@[simp] theorem State.wake_tickets (s : State) (b : Block) : (s.wake b).tickets = s.tickets := rfl
@[simp] theorem State.wake_bins (s : State) (b : Block) : (s.wake b).bins = s.bins := rfl
@[simp] theorem State.wake_live (s : State) (b : Block) : (s.wake b).live = s.live := rfl
@[simp] theorem State.wake_asidTable (s : State) (b : Block) : (s.wake b).asidTable = s.asidTable := rfl
@[simp] theorem State.wake_boot (s : State) (b : Block) : (s.wake b).boot = s.boot := rfl
@[simp] theorem State.wake_stage (s : State) (b : Block) : (s.wake b).stage = s.stage := rfl
@[simp] theorem State.wake_startFailed (s : State) (b : Block) : (s.wake b).startFailed = s.startFailed := rfl
@[simp] theorem State.wake_warm (s : State) (b : Block) : (s.wake b).warm = s.warm := rfl
@[simp] theorem State.wake_selftest (s : State) (b : Block) : (s.wake b).selftest = s.selftest := rfl
@[simp] theorem State.wake_verified (s : State) (b : Block) : (s.wake b).verified = s.verified := rfl
@[simp] theorem State.wake_flash (s : State) (b : Block) : (s.wake b).flash = s.flash := rfl
@[simp] theorem State.wake_hw (s : State) (b : Block) : (s.wake b).hw = s.hw := rfl
@[simp] theorem State.wake_failed (s : State) (b : Block) : (s.wake b).failed = s.failed := rfl
@[simp] theorem State.wake_throttled (s : State) (b : Block) : (s.wake b).throttled = s.throttled := rfl
@[simp] theorem State.wake_slow (s : State) (b : Block) : (s.wake b).slow = s.slow := rfl
@[simp] theorem State.wake_skipped (s : State) (b : Block) : (s.wake b).skipped = s.skipped := rfl
@[simp] theorem State.wake_lock (s : State) (b : Block) : (s.wake b).lock = s.lock := rfl
@[simp] theorem State.wake_mbox (s : State) (b : Block) : (s.wake b).mbox = s.mbox := rfl
@[simp] theorem State.wake_winbase (s : State) (b : Block) : (s.wake b).winbase = s.winbase := rfl
@[simp] theorem State.wake_mailbox (s : State) (b : Block) : (s.wake b).mailbox = s.mailbox := rfl
@[simp] theorem State.wake_device (s : State) (b : Block) : (s.wake b).device = s.device := rfl
@[simp] theorem State.wake_cxl (s : State) (b : Block) : (s.wake b).cxl = s.cxl := rfl
@[simp] theorem State.wake_routes (s : State) (b : Block) : (s.wake b).routes = s.routes := rfl
@[simp] theorem State.wake_peerHold (s : State) (b : Block) : (s.wake b).peerHold = s.peerHold := rfl
@[simp] theorem State.wake_warpAt (s : State) (b : Block) (j : Nat) : (s.wake b).warp? j = s.warp? j := rfl
@[simp] theorem State.wake_teamAt (s : State) (b : Block) (j : Nat) : (s.wake b).team? j = s.team? j := rfl
@[simp] theorem State.wake_launchAt (s : State) (b : Block) (j : Nat) : (s.wake b).launch? j = s.launch? j := rfl
@[simp] theorem State.wake_ctxOfAt (s : State) (b : Block) (j : Nat) : (s.wake b).ctxOf j = s.ctxOf j := rfl
@[simp] theorem State.wake_coreAt (s : State) (b : Block) (j : Nat) : (s.wake b).core j = s.core j := rfl

/-! ## keepSnap -/

@[simp] theorem State.keepSnap_mem (s : State) (id : Nat) (x : Snap) : (s.keepSnap id x).mem = s.mem := rfl
@[simp] theorem State.keepSnap_poison (s : State) (id : Nat) (x : Snap) : (s.keepSnap id x).poison = s.poison := rfl
@[simp] theorem State.keepSnap_cur (s : State) (id : Nat) (x : Snap) : (s.keepSnap id x).cur = s.cur := rfl
@[simp] theorem State.keepSnap_inputs (s : State) (id : Nat) (x : Snap) : (s.keepSnap id x).inputs = s.inputs := rfl
@[simp] theorem State.keepSnap_free (s : State) (id : Nat) (x : Snap) : (s.keepSnap id x).free = s.free := rfl
@[simp] theorem State.keepSnap_cycle (s : State) (id : Nat) (x : Snap) : (s.keepSnap id x).cycle = s.cycle := rfl
@[simp] theorem State.keepSnap_clock (s : State) (id : Nat) (x : Snap) : (s.keepSnap id x).clock = s.clock := rfl
@[simp] theorem State.keepSnap_warps (s : State) (id : Nat) (x : Snap) : (s.keepSnap id x).warps = s.warps := rfl
@[simp] theorem State.keepSnap_teams (s : State) (id : Nat) (x : Snap) : (s.keepSnap id x).teams = s.teams := rfl
@[simp] theorem State.keepSnap_launches (s : State) (id : Nat) (x : Snap) : (s.keepSnap id x).launches = s.launches := rfl
@[simp] theorem State.keepSnap_launchNo (s : State) (id : Nat) (x : Snap) : (s.keepSnap id x).launchNo = s.launchNo := rfl
@[simp] theorem State.keepSnap_fresh (s : State) (id : Nat) (x : Snap) : (s.keepSnap id x).fresh = s.fresh := rfl
@[simp] theorem State.keepSnap_l2 (s : State) (id : Nat) (x : Snap) : (s.keepSnap id x).l2 = s.l2 := rfl
@[simp] theorem State.keepSnap_tlb (s : State) (id : Nat) (x : Snap) : (s.keepSnap id x).tlb = s.tlb := rfl
@[simp] theorem State.keepSnap_misses (s : State) (id : Nat) (x : Snap) : (s.keepSnap id x).misses = s.misses := rfl
@[simp] theorem State.keepSnap_pinned (s : State) (id : Nat) (x : Snap) : (s.keepSnap id x).pinned = s.pinned := rfl
@[simp] theorem State.keepSnap_stamps (s : State) (id : Nat) (x : Snap) : (s.keepSnap id x).stamps = s.stamps := rfl
@[simp] theorem State.keepSnap_strong (s : State) (id : Nat) (x : Snap) : (s.keepSnap id x).strong = s.strong := rfl
@[simp] theorem State.keepSnap_told (s : State) (id : Nat) (x : Snap) : (s.keepSnap id x).told = s.told := rfl
@[simp] theorem State.keepSnap_lost (s : State) (id : Nat) (x : Snap) : (s.keepSnap id x).lost = s.lost := rfl
@[simp] theorem State.keepSnap_asked (s : State) (id : Nat) (x : Snap) : (s.keepSnap id x).asked = s.asked := rfl
@[simp] theorem State.keepSnap_accesses (s : State) (id : Nat) (x : Snap) : (s.keepSnap id x).accesses = s.accesses := rfl
@[simp] theorem State.keepSnap_fences (s : State) (id : Nat) (x : Snap) : (s.keepSnap id x).fences = s.fences := rfl
@[simp] theorem State.keepSnap_outs (s : State) (id : Nat) (x : Snap) : (s.keepSnap id x).outs = s.outs := rfl
@[simp] theorem State.keepSnap_cores (s : State) (id : Nat) (x : Snap) : (s.keepSnap id x).cores = s.cores := rfl
@[simp] theorem State.keepSnap_ctx (s : State) (id : Nat) (x : Snap) : (s.keepSnap id x).ctx = s.ctx := rfl
@[simp] theorem State.keepSnap_faultlog (s : State) (id : Nat) (x : Snap) : (s.keepSnap id x).faultlog = s.faultlog := rfl
@[simp] theorem State.keepSnap_heldLog (s : State) (id : Nat) (x : Snap) : (s.keepSnap id x).heldLog = s.heldLog := rfl
@[simp] theorem State.keepSnap_heldEvents (s : State) (id : Nat) (x : Snap) : (s.keepSnap id x).heldEvents = s.heldEvents := rfl
@[simp] theorem State.keepSnap_tickets (s : State) (id : Nat) (x : Snap) : (s.keepSnap id x).tickets = s.tickets := rfl
@[simp] theorem State.keepSnap_bins (s : State) (id : Nat) (x : Snap) : (s.keepSnap id x).bins = s.bins := rfl
@[simp] theorem State.keepSnap_live (s : State) (id : Nat) (x : Snap) : (s.keepSnap id x).live = s.live := rfl
@[simp] theorem State.keepSnap_asidTable (s : State) (id : Nat) (x : Snap) : (s.keepSnap id x).asidTable = s.asidTable := rfl
@[simp] theorem State.keepSnap_boot (s : State) (id : Nat) (x : Snap) : (s.keepSnap id x).boot = s.boot := rfl
@[simp] theorem State.keepSnap_stage (s : State) (id : Nat) (x : Snap) : (s.keepSnap id x).stage = s.stage := rfl
@[simp] theorem State.keepSnap_startFailed (s : State) (id : Nat) (x : Snap) : (s.keepSnap id x).startFailed = s.startFailed := rfl
@[simp] theorem State.keepSnap_warm (s : State) (id : Nat) (x : Snap) : (s.keepSnap id x).warm = s.warm := rfl
@[simp] theorem State.keepSnap_selftest (s : State) (id : Nat) (x : Snap) : (s.keepSnap id x).selftest = s.selftest := rfl
@[simp] theorem State.keepSnap_verified (s : State) (id : Nat) (x : Snap) : (s.keepSnap id x).verified = s.verified := rfl
@[simp] theorem State.keepSnap_flash (s : State) (id : Nat) (x : Snap) : (s.keepSnap id x).flash = s.flash := rfl
@[simp] theorem State.keepSnap_hw (s : State) (id : Nat) (x : Snap) : (s.keepSnap id x).hw = s.hw := rfl
@[simp] theorem State.keepSnap_failed (s : State) (id : Nat) (x : Snap) : (s.keepSnap id x).failed = s.failed := rfl
@[simp] theorem State.keepSnap_throttled (s : State) (id : Nat) (x : Snap) : (s.keepSnap id x).throttled = s.throttled := rfl
@[simp] theorem State.keepSnap_slow (s : State) (id : Nat) (x : Snap) : (s.keepSnap id x).slow = s.slow := rfl
@[simp] theorem State.keepSnap_skipped (s : State) (id : Nat) (x : Snap) : (s.keepSnap id x).skipped = s.skipped := rfl
@[simp] theorem State.keepSnap_lock (s : State) (id : Nat) (x : Snap) : (s.keepSnap id x).lock = s.lock := rfl
@[simp] theorem State.keepSnap_mbox (s : State) (id : Nat) (x : Snap) : (s.keepSnap id x).mbox = s.mbox := rfl
@[simp] theorem State.keepSnap_winbase (s : State) (id : Nat) (x : Snap) : (s.keepSnap id x).winbase = s.winbase := rfl
@[simp] theorem State.keepSnap_mailbox (s : State) (id : Nat) (x : Snap) : (s.keepSnap id x).mailbox = s.mailbox := rfl
@[simp] theorem State.keepSnap_power (s : State) (id : Nat) (x : Snap) : (s.keepSnap id x).power = s.power := rfl
@[simp] theorem State.keepSnap_active (s : State) (id : Nat) (x : Snap) : (s.keepSnap id x).active = s.active := rfl
@[simp] theorem State.keepSnap_device (s : State) (id : Nat) (x : Snap) : (s.keepSnap id x).device = s.device := rfl
@[simp] theorem State.keepSnap_cxl (s : State) (id : Nat) (x : Snap) : (s.keepSnap id x).cxl = s.cxl := rfl
@[simp] theorem State.keepSnap_routes (s : State) (id : Nat) (x : Snap) : (s.keepSnap id x).routes = s.routes := rfl
@[simp] theorem State.keepSnap_peerHold (s : State) (id : Nat) (x : Snap) : (s.keepSnap id x).peerHold = s.peerHold := rfl
@[simp] theorem State.keepSnap_warpAt (s : State) (id : Nat) (x : Snap) (j : Nat) : (s.keepSnap id x).warp? j = s.warp? j := rfl
@[simp] theorem State.keepSnap_teamAt (s : State) (id : Nat) (x : Snap) (j : Nat) : (s.keepSnap id x).team? j = s.team? j := rfl
@[simp] theorem State.keepSnap_launchAt (s : State) (id : Nat) (x : Snap) (j : Nat) : (s.keepSnap id x).launch? j = s.launch? j := rfl
@[simp] theorem State.keepSnap_ctxOfAt (s : State) (id : Nat) (x : Snap) (j : Nat) : (s.keepSnap id x).ctxOf j = s.ctxOf j := rfl
@[simp] theorem State.keepSnap_coreAt (s : State) (id : Nat) (x : Snap) (j : Nat) : (s.keepSnap id x).core j = s.core j := rfl

/-! ## takeFree -/

@[simp] theorem State.takeFree_mem (s : State) : (s.takeFree).mem = s.mem := rfl
@[simp] theorem State.takeFree_poison (s : State) : (s.takeFree).poison = s.poison := rfl
@[simp] theorem State.takeFree_cur (s : State) : (s.takeFree).cur = s.cur := rfl
@[simp] theorem State.takeFree_inputs (s : State) : (s.takeFree).inputs = s.inputs := rfl
@[simp] theorem State.takeFree_cycle (s : State) : (s.takeFree).cycle = s.cycle := rfl
@[simp] theorem State.takeFree_clock (s : State) : (s.takeFree).clock = s.clock := rfl
@[simp] theorem State.takeFree_warps (s : State) : (s.takeFree).warps = s.warps := rfl
@[simp] theorem State.takeFree_teams (s : State) : (s.takeFree).teams = s.teams := rfl
@[simp] theorem State.takeFree_launches (s : State) : (s.takeFree).launches = s.launches := rfl
@[simp] theorem State.takeFree_launchNo (s : State) : (s.takeFree).launchNo = s.launchNo := rfl
@[simp] theorem State.takeFree_fresh (s : State) : (s.takeFree).fresh = s.fresh := rfl
@[simp] theorem State.takeFree_l2 (s : State) : (s.takeFree).l2 = s.l2 := rfl
@[simp] theorem State.takeFree_tlb (s : State) : (s.takeFree).tlb = s.tlb := rfl
@[simp] theorem State.takeFree_misses (s : State) : (s.takeFree).misses = s.misses := rfl
@[simp] theorem State.takeFree_pinned (s : State) : (s.takeFree).pinned = s.pinned := rfl
@[simp] theorem State.takeFree_stamps (s : State) : (s.takeFree).stamps = s.stamps := rfl
@[simp] theorem State.takeFree_strong (s : State) : (s.takeFree).strong = s.strong := rfl
@[simp] theorem State.takeFree_told (s : State) : (s.takeFree).told = s.told := rfl
@[simp] theorem State.takeFree_lost (s : State) : (s.takeFree).lost = s.lost := rfl
@[simp] theorem State.takeFree_asked (s : State) : (s.takeFree).asked = s.asked := rfl
@[simp] theorem State.takeFree_accesses (s : State) : (s.takeFree).accesses = s.accesses := rfl
@[simp] theorem State.takeFree_fences (s : State) : (s.takeFree).fences = s.fences := rfl
@[simp] theorem State.takeFree_outs (s : State) : (s.takeFree).outs = s.outs := rfl
@[simp] theorem State.takeFree_engines (s : State) : (s.takeFree).engines = s.engines := rfl
@[simp] theorem State.takeFree_cores (s : State) : (s.takeFree).cores = s.cores := rfl
@[simp] theorem State.takeFree_ctx (s : State) : (s.takeFree).ctx = s.ctx := rfl
@[simp] theorem State.takeFree_faultlog (s : State) : (s.takeFree).faultlog = s.faultlog := rfl
@[simp] theorem State.takeFree_heldLog (s : State) : (s.takeFree).heldLog = s.heldLog := rfl
@[simp] theorem State.takeFree_heldEvents (s : State) : (s.takeFree).heldEvents = s.heldEvents := rfl
@[simp] theorem State.takeFree_tickets (s : State) : (s.takeFree).tickets = s.tickets := rfl
@[simp] theorem State.takeFree_bins (s : State) : (s.takeFree).bins = s.bins := rfl
@[simp] theorem State.takeFree_live (s : State) : (s.takeFree).live = s.live := rfl
@[simp] theorem State.takeFree_asidTable (s : State) : (s.takeFree).asidTable = s.asidTable := rfl
@[simp] theorem State.takeFree_boot (s : State) : (s.takeFree).boot = s.boot := rfl
@[simp] theorem State.takeFree_stage (s : State) : (s.takeFree).stage = s.stage := rfl
@[simp] theorem State.takeFree_startFailed (s : State) : (s.takeFree).startFailed = s.startFailed := rfl
@[simp] theorem State.takeFree_warm (s : State) : (s.takeFree).warm = s.warm := rfl
@[simp] theorem State.takeFree_selftest (s : State) : (s.takeFree).selftest = s.selftest := rfl
@[simp] theorem State.takeFree_verified (s : State) : (s.takeFree).verified = s.verified := rfl
@[simp] theorem State.takeFree_flash (s : State) : (s.takeFree).flash = s.flash := rfl
@[simp] theorem State.takeFree_hw (s : State) : (s.takeFree).hw = s.hw := rfl
@[simp] theorem State.takeFree_failed (s : State) : (s.takeFree).failed = s.failed := rfl
@[simp] theorem State.takeFree_throttled (s : State) : (s.takeFree).throttled = s.throttled := rfl
@[simp] theorem State.takeFree_slow (s : State) : (s.takeFree).slow = s.slow := rfl
@[simp] theorem State.takeFree_skipped (s : State) : (s.takeFree).skipped = s.skipped := rfl
@[simp] theorem State.takeFree_lock (s : State) : (s.takeFree).lock = s.lock := rfl
@[simp] theorem State.takeFree_mbox (s : State) : (s.takeFree).mbox = s.mbox := rfl
@[simp] theorem State.takeFree_winbase (s : State) : (s.takeFree).winbase = s.winbase := rfl
@[simp] theorem State.takeFree_mailbox (s : State) : (s.takeFree).mailbox = s.mailbox := rfl
@[simp] theorem State.takeFree_power (s : State) : (s.takeFree).power = s.power := rfl
@[simp] theorem State.takeFree_active (s : State) : (s.takeFree).active = s.active := rfl
@[simp] theorem State.takeFree_device (s : State) : (s.takeFree).device = s.device := rfl
@[simp] theorem State.takeFree_cxl (s : State) : (s.takeFree).cxl = s.cxl := rfl
@[simp] theorem State.takeFree_routes (s : State) : (s.takeFree).routes = s.routes := rfl
@[simp] theorem State.takeFree_peerHold (s : State) : (s.takeFree).peerHold = s.peerHold := rfl
@[simp] theorem State.takeFree_warpAt (s : State) (j : Nat) : (s.takeFree).warp? j = s.warp? j := rfl
@[simp] theorem State.takeFree_teamAt (s : State) (j : Nat) : (s.takeFree).team? j = s.team? j := rfl
@[simp] theorem State.takeFree_launchAt (s : State) (j : Nat) : (s.takeFree).launch? j = s.launch? j := rfl
@[simp] theorem State.takeFree_ctxOfAt (s : State) (j : Nat) : (s.takeFree).ctxOf j = s.ctxOf j := rfl
@[simp] theorem State.takeFree_coreAt (s : State) (j : Nat) : (s.takeFree).core j = s.core j := rfl

end Sys2Proof.Machine
end

