-- ==== Sys2Proof/Laws/Words.lean ====
section
/-!
SUPPORT. The integer operations on words as operations on integers.
-/
namespace Sys2Proof.Machine

theorem clampS_eq (x : Int) : clampS x = BitVec.ofInt 32 (max (-2147483648) (min 2147483647 x)) := by
  unfold clampS
  split
  · rw [show max (-2147483648) (min 2147483647 x) = -2147483648 by omega]; rfl
  · split
    · rw [show max (-2147483648) (min 2147483647 x) = 2147483647 by omega]; rfl
    · rw [show max (-2147483648) (min 2147483647 x) = x by omega]

theorem mulhiS_eq (a b : Word) : mulhiS a b = BitVec.ofInt 32 (a.toInt * b.toInt / 4294967296) := by
  unfold mulhiS
  apply BitVec.eq_of_toNat_eq
  have ha := a.toInt_lt; have ha' := a.le_toInt
  have hb := b.toInt_lt; have hb' := b.le_toInt
  norm_num at ha ha' hb hb'
  have h1 : (a.signExtend 64 * b.signExtend 64).toInt = a.toInt * b.toInt := by
    rw [BitVec.toInt_mul, BitVec.toInt_signExtend_of_le (by omega), BitVec.toInt_signExtend_of_le (by omega)]
    apply Int.bmod_eq_of_le
    · norm_num; nlinarith
    · norm_num; nlinarith
  simp only [BitVec.toNat_setWidth, BitVec.toNat_ushiftRight, Nat.shiftRight_eq_div_pow, BitVec.toNat_ofInt]
  have h2 : ((a.signExtend 64 * b.signExtend 64).toNat : Int) = (a.toInt * b.toInt) % 2 ^ 64 := by
    rw [← h1, BitVec.toInt_eq_toNat_bmod]
    have := (a.signExtend 64 * b.signExtend 64).isLt
    unfold Int.bmod
    norm_num
    split <;> omega
  omega

theorem mulhiU_eq (a b : Word) : mulhiU a b = BitVec.ofNat 32 (a.toNat * b.toNat / 4294967296) := by
  unfold mulhiU
  apply BitVec.eq_of_toNat_eq
  have ha := a.isLt; have hb := b.isLt
  have : a.toNat * b.toNat < 2 ^ 64 := by nlinarith
  simp only [BitVec.toNat_setWidth, BitVec.toNat_ushiftRight, Nat.shiftRight_eq_div_pow, BitVec.toNat_mul, BitVec.toNat_ofNat]
  rw [Nat.mod_eq_of_lt (a := a.toNat) (by omega), Nat.mod_eq_of_lt (a := b.toNat) (by omega), Nat.mod_eq_of_lt this]

theorem minS_eq (a b : Word) : minS a b = if a.toInt ≤ b.toInt then a else b := by
  unfold minS
  simp only [BitVec.slt, decide_eq_true_eq]
  split <;> split <;> first | rfl | omega | (apply BitVec.eq_of_toInt_eq; omega)

theorem maxS_eq (a b : Word) : maxS a b = if a.toInt ≤ b.toInt then b else a := by
  unfold maxS
  simp only [BitVec.slt, decide_eq_true_eq]
  split <;> split <;> first | rfl | omega | (apply BitVec.eq_of_toInt_eq; omega)

theorem minU_eq (a b : Word) : minU a b = if a.toNat ≤ b.toNat then a else b := by
  unfold minU
  simp only [BitVec.ult, decide_eq_true_eq]
  split <;> split <;> first | rfl | omega | (apply BitVec.eq_of_toNat_eq; omega)

theorem maxU_eq (a b : Word) : maxU a b = if a.toNat ≤ b.toNat then b else a := by
  unfold maxU
  simp only [BitVec.ult, decide_eq_true_eq]
  split <;> split <;> first | rfl | omega | (apply BitVec.eq_of_toNat_eq; omega)

theorem absW_eq (a : Word) : absW a = if a.toInt < 0 then 0 - a else a := by
  unfold absW
  rw [BitVec.msb_eq_toInt]
  simp

theorem shiftCount_eq (b : Word) : shiftCount b = b.toNat % 256 := by
  simp [shiftCount, BitVec.extractLsb'_toNat]

theorem shlW_eq (a b : Word) : shlW a b = BitVec.ofNat 32 (a.toNat * 2 ^ (b.toNat % 256)) := by
  unfold shlW
  rw [shiftCount_eq]
  split
  · rename_i h
    apply BitVec.eq_of_toNat_eq
    rw [BitVec.toNat_ofNat]
    obtain ⟨k, hk⟩ := Nat.exists_eq_add_of_le h
    rw [hk, Nat.pow_add]
    simp [Nat.mul_left_comm a.toNat]
  · apply BitVec.eq_of_toNat_eq
    simp [BitVec.toNat_shiftLeft, Nat.shiftLeft_eq]

theorem shrW_eq (a b : Word) : shrW a b = BitVec.ofNat 32 (a.toNat / 2 ^ (b.toNat % 256)) := by
  unfold shrW
  rw [shiftCount_eq]
  have ha := a.isLt
  split
  · rename_i h
    have : a.toNat < 2 ^ (b.toNat % 256) := lt_of_lt_of_le ha (Nat.pow_le_pow_right (by omega) h)
    rw [Nat.div_eq_of_lt this]; rfl
  · apply BitVec.eq_of_toNat_eq
    simp only [BitVec.toNat_ushiftRight, Nat.shiftRight_eq_div_pow, BitVec.toNat_ofNat]
    rw [Nat.mod_eq_of_lt (lt_of_le_of_lt (Nat.div_le_self _ _) ha)]

theorem ofInt_sshiftRight (a : Word) (n : Nat) : a.sshiftRight n = BitVec.ofInt 32 (a.toInt / 2 ^ n) := by
  apply BitVec.eq_of_toInt_eq
  rw [BitVec.toInt_sshiftRight, Int.shiftRight_eq_div_pow, BitVec.toInt_ofInt]
  have ha := a.toInt_lt; have ha' := a.le_toInt
  norm_num at ha ha'
  have hp : (0 : Int) < 2 ^ n := by positivity
  rw [Int.bmod_eq_of_le]
  · push_cast; rfl
  · have h2 : (-2147483648 : Int) ≤ a.toInt / 2 ^ n := by
      rw [Int.le_ediv_iff_mul_le hp]
      have : (1 : Int) ≤ 2 ^ n := hp
      nlinarith
    simpa using h2
  · have h2 : a.toInt / 2 ^ n < 2147483648 := by
      rw [Int.ediv_lt_iff_lt_mul hp]
      have : (1 : Int) ≤ 2 ^ n := hp
      nlinarith
    norm_num; omega

theorem sarW_eq (a b : Word) : sarW a b = BitVec.ofInt 32 (a.toInt / 2 ^ (b.toNat % 256)) := by
  unfold sarW
  rw [shiftCount_eq, ofInt_sshiftRight, show Nat.min (b.toNat % 256) 31 = min (b.toNat % 256) 31 from rfl]
  by_cases h : b.toNat % 256 ≤ 31
  · rw [Nat.min_eq_left h]
  · rw [Nat.min_eq_right (by omega)]
    congr 1
    have ha := a.toInt_lt; have ha' := a.le_toInt
    have hp : (2147483648 : Int) ≤ 2 ^ (b.toNat % 256) := by
      calc (2147483648 : Int) = 2 ^ 31 := by norm_num
        _ ≤ 2 ^ (b.toNat % 256) := by exact_mod_cast Nat.pow_le_pow_right (by omega) (by omega)
    by_cases hs : 0 ≤ a.toInt
    · rw [Int.ediv_eq_zero_of_lt hs (by norm_num; omega), Int.ediv_eq_zero_of_lt hs (by norm_num at ha ⊢; omega)]
    · have neg1 : ∀ m : Int, 2147483648 ≤ m → a.toInt / m = -1 := by
        intro m hm
        rw [Int.ediv_eq_iff_of_pos (by omega)]
        constructor <;> norm_num at ha' ⊢ <;> omega
      rw [neg1 _ hp, neg1 (2 ^ 31) (by norm_num)]

theorem rolW_eq (a b : Word) :
    rolW a b = BitVec.ofNat 32 (a.toNat * 2 ^ (b.toNat % 32) + a.toNat / 2 ^ (32 - b.toNat % 32)) := by
  have hn : (b.extractLsb' 0 5).toNat = b.toNat % 32 := by simp [BitVec.extractLsb'_toNat]
  unfold rolW
  rw [hn]
  apply BitVec.eq_of_toNat_eq
  have hk : b.toNat % 32 < 32 := Nat.mod_lt _ (by omega)
  generalize b.toNat % 32 = k at hk ⊢
  have ha := a.isLt
  rw [BitVec.toNat_rotateLeft, Nat.mod_eq_of_lt hk, BitVec.toNat_ofNat, Nat.shiftLeft_eq, Nat.shiftRight_eq_div_pow]
  have hq : a.toNat / 2 ^ (32 - k) < 2 ^ k := by
    rw [Nat.div_lt_iff_lt_mul (by positivity), ← Nat.pow_add, show k + (32 - k) = 32 by omega]; exact ha
  rw [Nat.add_mod, Nat.mod_eq_of_lt (a := a.toNat / 2 ^ (32 - k)) (lt_of_lt_of_le hq (Nat.pow_le_pow_right (by omega) (by omega)))]
  have e1 : a.toNat * 2 ^ k % 2 ^ 32 = 2 ^ k * (a.toNat % 2 ^ (32 - k)) := by
    have h32 : (2 : Nat) ^ 32 = 2 ^ k * 2 ^ (32 - k) := by rw [← Nat.pow_add, show k + (32 - k) = 32 by omega]
    rw [h32, Nat.mul_comm, Nat.mul_mod_mul_left]
  rw [e1]
  have hr : a.toNat % 2 ^ (32 - k) < 2 ^ (32 - k) := Nat.mod_lt _ (by positivity)
  have hs : 2 ^ k * (a.toNat % 2 ^ (32 - k)) + a.toNat / 2 ^ (32 - k) < 2 ^ 32 := by
    have h32 : 2 ^ 32 = 2 ^ k * 2 ^ (32 - k) := by rw [← Nat.pow_add, show k + (32 - k) = 32 by omega]
    rw [h32]
    calc 2 ^ k * (a.toNat % 2 ^ (32 - k)) + a.toNat / 2 ^ (32 - k)
        < 2 ^ k * (a.toNat % 2 ^ (32 - k)) + 2 ^ k := by omega
      _ = 2 ^ k * (a.toNat % 2 ^ (32 - k) + 1) := by ring
      _ ≤ 2 ^ k * 2 ^ (32 - k) := Nat.mul_le_mul_left _ hr
  rw [Nat.mod_eq_of_lt hs, ← Nat.two_pow_add_eq_or_of_lt hq]

theorem fieldPos_eq (b : Word) : fieldPos b = b.toNat % 32 := by simp [fieldPos, BitVec.extractLsb'_toNat]

theorem fieldWidth_eq (b : Word) : fieldWidth b = min (b.toNat / 256 % 64) (32 - b.toNat % 32) := by
  simp [fieldWidth, fieldPos_eq, BitVec.extractLsb'_toNat, Nat.shiftRight_eq_div_pow]

theorem bfxUW_eq (a b : Word) : bfxUW a b = BitVec.ofNat 32
    (a.toNat / 2 ^ (b.toNat % 32) % 2 ^ (min (b.toNat / 256 % 64) (32 - b.toNat % 32))) := by
  unfold bfxUW lowOnes
  rw [fieldPos_eq, fieldWidth_eq]
  apply BitVec.eq_of_toNat_eq
  have hw : min (b.toNat / 256 % 64) (32 - b.toNat % 32) ≤ 32 := by omega
  generalize min (b.toNat / 256 % 64) (32 - b.toNat % 32) = n at hw ⊢
  have hp : 2 ^ n ≤ 2 ^ 32 := Nat.pow_le_pow_right (by omega) hw
  have h0 : 0 < 2 ^ n := by positivity
  simp only [BitVec.toNat_and, BitVec.toNat_ushiftRight, Nat.shiftRight_eq_div_pow, BitVec.toNat_ofNat]
  rw [Nat.mod_eq_of_lt (a := 2 ^ n - 1) (by omega), Nat.and_two_pow_sub_one_eq_mod]
  have := Nat.mod_lt (a.toNat / 2 ^ (b.toNat % 32)) h0
  exact (Nat.mod_eq_of_lt (lt_of_lt_of_le this hp)).symm

end Sys2Proof.Machine
end

