-- ==== Sys2Proof/Tests/Slice0.lean ====
section
/-!
SUPPORT. Decoding of words written out from the spec, ill-formed terms, and for each obligation with hypotheses concrete states
and operands that meet them.
-/
namespace Sys2Proof.Tests
open Sys2Proof Sys2Proof.Machine

set_option Elab.async false

/-! ## Decoding: a word of each family, from the spec's own examples and encodings -/

/-- R90, R93: `adds v1, v2, v3` and `bfx.u v3, v4, v5`. -/
theorem test_decode_integer : decode [0x03010203#32] = .done (.adds none 0x01 0x02 0x03) 1 ∧
    decode [0x1E030405#32] = .done (.bfxU none 0x03 0x04 0x05) 1 := by decide +kernel

/-- R96, R102, R104: `cmp.lt.s m2, v1, 0`, `addi16 v1, 1`, ADD.L. -/
theorem test_decode_compare_immediate : decode [0x28C201D0#32] = .done (.cmpLtS none 0xC2 0x01 0xD0) 1 ∧
    decode [0x37010001#32] = .done (.addi16 none 0x01 1) 1 ∧
    decode [0xC0050600#32, 0xDEADBEEF#32] = .done (.addL none 0x05 0x06 0xDEADBEEF) 2 := by decide +kernel

/-- R109: `ffma v1, v2, v3, v4` and `ffmc.f16 v1, v2, 7`. -/
theorem test_decode_float :
    decode [0xDF000400#32, 0x43010203#32] =
      .done (.ffma (some { maskEn := false, mask := 0, rnd := 0, e := 4, zero := false, ty := 0 }) 0x01 0x02 0x03) 2 ∧
    decode [0xDF000110#32, 0x44010207#32] =
      .done (.ffmc (some { maskEn := false, mask := 0, rnd := 0, e := 1, zero := false, ty := 2 }) 0x01 0x02 7) 2 := by decide +kernel

/-- R123, R132, R146: `brt m1, out`, `loop s4, tail`, `wait 1, any, any, any`. -/
theorem test_decode_control : decode [0x70100003#32] = .done (.brt 1 3) 1 ∧ decode [0x79840002#32] = .done (.loop 0x84 2) 1 ∧
    decode [0x7C07FFFF#32] = .done (.wait 1 63 63 63) 1 := by decide +kernel

/-- R103, R228, R229: `ldc v1, [s0 + 8]`, `pref.l1 [v2]`, `cflush.inv [s4]`. -/
theorem test_decode_memory : decode [0x3F018002#32] = .done (.ldc none 0x01 0x80 2) 1 ∧
    decode [0xA7000201#32] = .done (.prefL1 0x02) 1 ∧ decode [0xA8008401#32] = .done (.cflushInv 0x84) 1 := by decide +kernel

/-- R180, R182, R184: `shfl.xor v2, v1, 1`, `redux.fadd.g2 v5, v4`, `xchgp v7, v7`. -/
theorem test_decode_cross_lane : decode [0x940201D1#32] = .done (.shflXor none 0x02 0x01 0xD1) 1 ∧
    decode [0xDF900000#32, 0x95050408#32] =
      .done (.redux (some { maskEn := true, mask := 2, rnd := 0, e := 0, zero := false, ty := 0 }) 0x05 0x04 8) 2 ∧
    decode [0x98070700#32] = .done (.xchgp none 0x07 0x07) 1 := by decide +kernel

/-- R186 to R192: EXPAND of a set of two workgroups with `max.s`, EXNEXT, EXRED. -/
theorem test_decode_aster : decode [0x998A0423#32] = .done (.expand 0x8A 0x04 2 3) 1 ∧
    decode [0x9A0102C3#32] = .done (.exnext 0x01 0x02 0xC3) 1 ∧ decode [0x9B000500#32] = .done (.exred 0x05) 1 := by decide +kernel

/-- R260, R264, R265: `atom.cas.w64.ar.dev v4, [v2], v8, v10`, `arrive s9, s4, 2`, `fence.rel.sys`. -/
theorem test_decode_atomic : decode [0xA0040208#32, 0x97050000#32] = .done (.atom none 0x04 0x02 0x08 9 1 6 0x0A) 2 ∧
    decode [0xA38984D2#32] = .done (.arrive 0x89 0x84 0xD2) 1 ∧ decode [0xA2000014#32] = .done (.fence 2 4) 1 := by decide +kernel

/-- R273 to R277: `htclaim s8, z, 16`, `hins v1, v4, s8`, `hdrain s10, s12, s8`. -/
theorem test_decode_hash : decode [0xA988FFD5#32] = .done (.htclaim 0x88 0xFF 0xD5) 1 ∧
    decode [0xAB010488#32] = .done (.hins none 0x01 0x04 0x88) 1 ∧ decode [0xAF8A8C88#32] = .done (.hdrain 0x8A 0x8C 0x88) 1 := by
  decide +kernel

/-- R283, R288: `thld h1, [s4]`, `gather h2, z, h1, v5, t1, s9`. -/
theorem test_decode_tensor : decode [0xB0E18400#32, 0#32] = .done (.thld 0xE1 0x84 0) 2 ∧
    decode [0xB4E2E105#32, 0xFFF18900#32] = .done (.gather 0xE2 0xE1 0x05 0xFF 0xF1 0x89 0 0 0) 2 := by decide +kernel

/-- R299, R303, R307: MACC.free, MMA, WAITT. -/
theorem test_decode_matrix : decode [0xBB008400#32, 0x10000000#32] = .done (.maccFree 0x84) 2 ∧
    decode [0xB784E1E2#32, 0x888C0000#32] = .done (.mma 0x84 0xE1 0xE2 0x88 0x8C) 2 ∧
    decode [0xBA00F100#32, 0#32] = .done (.waitt 0xF1) 2 := by decide +kernel

/-- R319, R322, R328: `kidx 1, s4`, `qsig v3, v2, 1`, `bgather.dist2.trunc 1, s8, s4, t2, s12`. -/
theorem test_decode_index : decode [0xD1018400#32] = .done (.kidx 1 0x84) 1 ∧ decode [0xD00302D1#32] = .done (.qsig 0x03 0x02 0xD1) 1 ∧
    decode [0xBF888400#32, 0x00F28C98#32] = .done (.bgather 0x88 0x84 0xF2 0x8C 2 1 1) 2 := by decide +kernel

/-- R348 to R355, R363, R374, R380: the system instructions. -/
theorem test_decode_system : decode [0xD300D300#32] = .done (.trap 0xD3) 1 ∧ decode [0xD50DFF00#32] = .done (.mtsrFpflags 0xFF) 1 ∧
    decode [0xD5228486#32] = .done (.mtsr 0x22 0x84 0x86) 1 ∧ decode [0xD6838200#32] = .done (.resumeReplay 0x83 0x82) 1 ∧
    decode [0xD7898400#32] = .done (.launch 0x89 0x84) 1 ∧ decode [0x7E000002#32] = .done (.safe 2) 1 ∧
    decode [0xDA000012#32] = .done (.bkpt 0x12) 1 ∧ decode [0xDC842300#32] = .done (.perfrd 0x84 2 3) 1 := by decide +kernel

/-! ## Ill-formed terms: one for each check of `wellFormed` -/

/-- A prefix on a step that no word starts, and the step itself. -/
theorem test_illformed_event : wellFormed (.nonInstruction .none 0x01 0 1) = false ∧ wellFormed (.accessPerform 3) = false := by
  decide +kernel

/-- A prefix with these fields. -/
def pfx (on : Bool) (mask rnd : BitVec 4) (e : Code) (zero : Bool) (ty : Nat) : Option Prefix :=
  some { maskEn := on, mask := mask.setWidth _, rnd := rnd.setWidth _, e := e, zero := zero, ty := BitVec.ofNat _ ty }

/-- R60, R61: a guard on an instruction executed once per warp, a rounding or type override or an E register that the opcode does
not take, zero policy without a guard, a rounding or type override beyond the assigned ones. -/
theorem test_illformed_prefix :
    wellFormed (.add (pfx true 1 0 0 false 0) 0x80 0x81 0x82) = false ∧ wellFormed (.add (pfx true 1 0 0 false 0) 5 6 7) = true ∧
    wellFormed (.add (pfx false 0 1 0 false 0) 5 6 7) = false ∧ wellFormed (.fadd (pfx false 0 4 0 false 3) 5 6 7) = true ∧
    wellFormed (.fadd (pfx false 0 5 0 false 0) 5 6 7) = false ∧ wellFormed (.add (pfx false 0 0 3 false 0) 5 6 7) = false ∧
    wellFormed (.mad (pfx false 0 0 3 false 0) 5 6 7) = true ∧ wellFormed (.fadd (pfx false 0 0 0 true 0) 5 6 7) = false ∧
    wellFormed (.add (pfx false 0 0 0 false 1) 5 6 7) = false ∧ wellFormed (.fadd (pfx false 0 0 0 false 4) 5 6 7) = false := by
  decide +kernel

/-- R124, R132: BRX with an empty table, loops that end at themselves. -/
theorem test_illformed_control : wellFormed (.brx 0 1 2) = false ∧ wellFormed (.brx 1 1 2) = true ∧ wellFormed (.loop 0x80 0) = false ∧
    wellFormed (.loopi 3 0) = false ∧ wellFormed (.loopi 3 65535) = true := by decide +kernel

/-- R259, R260, R265: an operator, a width, a comparand, a fence kind and a scope beyond the assigned ones. -/
theorem test_illformed_atomic : wellFormed (.atom none 1 2 3 15 0 0 0) = false ∧ wellFormed (.atom none 1 2 3 14 2 0 0) = false ∧
    wellFormed (.atoms none 1 2 3 8 1 0 4) = false ∧ wellFormed (.atoms none 1 2 3 9 1 0 4) = true ∧ wellFormed (.fence 3 0) = false ∧
    wellFormed (.fence 2 5) = false ∧ wellFormed (.fence 2 4) = true := by decide +kernel

/-- R278, R284, R292: an accumulation and a type beyond the assigned ones, a field selector, a continuation without yield. -/
theorem test_illformed_tensor : wellFormed (.hacc none 1 2 3 3 0) = false ∧ wellFormed (.hacc none 1 2 3 2 3) = false ∧
    wellFormed (.hacc none 1 2 3 2 2) = true ∧ wellFormed (.thset 0xE0 1 0xFF) = false ∧ wellFormed (.thget 1 0xE0 0xFF) = false ∧
    wellFormed (.copy 0xE0 0xE1 0x84 0x88 0xFF 0xFF 0 1) = false ∧ wellFormed (.copy 0xE0 0xE1 0x84 0x88 0xFF 0xFF 1 1) = true := by
  decide +kernel

/-- R319, R325, R328, R351, R380: a slot, a value operand without value rows, a distance, a selector with a row of its own, a class
beyond the assigned ones. -/
theorem test_illformed_system : wellFormed (.kidx 4 0x84) = false ∧ wellFormed (.kidx 3 0x84) = true ∧
    wellFormed (.kstore 0x80 0x81 0x82 0x83 0xFF 0xFF 0 0 0) = false ∧ wellFormed (.kstore 0x80 0x81 0x82 0x83 0xFF 0xFF 0 1 0) = true ∧
    wellFormed (.bgather 0x84 0x80 0xFF 0xFF 3 0 0) = false ∧ wellFormed (.mtsr 0x26 1 2) = false ∧ wellFormed (.mtsr 0x22 1 2) = true ∧
    wellFormed (.perfrd 0x84 6 0) = false ∧ wellFormed (.perfrd 0x84 5 15) = true := by decide +kernel

/-! ## Witnesses: states and operands that meet the hypotheses of the obligations -/

/-- The issue record of path 0 of warp 0 at 0x100. -/
def cur0 : Cur := { w := 0, p := 0, lanes := Mask.full, pc := 0x100, len := 1, held := false }

/-- A writable line of address space 0, at its own address. -/
def dataLine (n : Nat) (bytes : List Byte) : L2Line :=
  { asid := 0, line := n, pa := 128 * n, base := 0, size := 65536, tag := 0, w := true, x := false, home := 0, dirty := false, poison := 0
    data := bytes ++ zeros (128 - bytes.length) }

/-- The loaded machine with these lines and this warp, which is about to execute. -/
def stateOf (w : Warp) (ls : List L2Line) : State :=
  { State.reset.loadWord 0x7F000000 with warps := [(0, w)], cur := some cur0, l2 := loaderLine 0x7F000000 :: ls }

/-- A supervisor warp: lane registers v2 hold 0x1000 + 8 × lane and v4 the lane's number, s2 = 5, s4 = 0x1000, m1 the low 16 lanes. -/
def warp0 : Warp :=
  { loaderWarp with
    v := (numsFrom 0 32).map (fun l => (2 * 32 + l, BitVec.ofNat 32 (0x1000 + 8 * l))) ++
      (numsFrom 1 31).map (fun l => (4 * 32 + l, BitVec.ofNat 32 l))
    sreg := [(2, 5), (4, 0x1000)], m := [(1, 0xFFFF)] }

/-- The hypotheses `Ready` and `Plain`, as a computation. -/
def meets (i : Instr) (pr : Priv) (s : State) (c : Cur) (w : Warp) : Bool :=
  decide (s.cur = some c) && decide (s.warp? c.w = some w) && s.permits w pr &&
    decide (checkOf i (s.headerField w Launch.vregs) (s.headerField w Launch.sregs) = none) &&
    !s.scoreboard c.w (w.path c.p).replayOp (operandsOf i) && !s.mustWait i c w && !s.debugOn w && decide (w.badReg = [])

theorem meets_iff (i : Instr) (pr : Priv) (s : State) (c : Cur) (w : Warp) (h : meets i pr s c w = true) :
    Ready i pr s c w ∧ Plain s w := by
  simp only [meets, Bool.and_eq_true, decide_eq_true_eq, Bool.not_eq_true'] at h
  obtain ⟨⟨⟨⟨⟨⟨⟨h1, h2⟩, h3⟩, h4⟩, h5⟩, h6⟩, h7⟩, h8⟩ := h
  exact ⟨⟨h1, h2, h3, h4, h5, h6⟩, ⟨h7, h8⟩⟩

/-- The machine with `warp0` and one line at 0x1000. -/
def state0 : State := stateOf warp0 [dataLine 32 [1, 2, 3, 4]]

/-- A prefix with guard m1. -/
def guard1 : Option Prefix := pfx true 1 0 0 false 0

/-- All of these instructions are ready in `state0`. -/
def readyAll (is : List Instr) : Bool := is.all (fun i => meets i .none state0 cur0 warp0)

/-- IntegerResults: lane, uniform, mask, z destinations and a guard; MODE at the edge of R22 on both sides. -/
theorem test_witness_integer :
    readyAll [.add none 5 4 2, .add none 0x80 0x82 0x84, .add none 0xC1 0x82 0xD1, .add none 0xFF 2 4, .add guard1 5 4 2, .sub none 5 4 2,
      .adds none 5 4 2, .subs none 5 4 2, .mullo none 5 4 2, .mulhiS none 5 4 2, .mulhiU none 5 4 2, .minS none 5 4 2, .minU none 5 4 2,
      .maxS none 5 4 2, .maxU none 5 4 2, .and none 5 4 2, .or none 5 4 2, .xor none 5 4 2, .andn none 5 4 2, .shl none 5 4 2,
      .shr none 5 4 2, .sar none 5 4 2, .rol none 5 4 2, .bfxU none 5 4 2, .bfxS none 5 4 2, .permb none 5 4 2, .cvti none 5 4 0xD4,
      .abs none 5 4, .neg none 5 4, .mov none 5 4, .clz none 5 4, .ctz none 5 4, .popc none 5 4, .brev none 5 4, .addi16 none 5 1,
      .andi16 none 5 1, .ori16 none 5 1, .xori16 none 5 1, .movhi16 none 5 1, .shli none 5 31, .shri none 5 31, .sari none 5 31,
      .addL none 5 4 1, .andL none 5 4 1, .orL none 5 4 1, .xorL none 5 4 1, .mulloL none 5 4 1, .movL none 5 1, .movi20 none 5 1,
      .movf20 none 5 1, .sel guard1 5 4 2, .movsr none 5 0, .movsr none 6 0x0C, .movsr none 0xFF 0x0C, .setmode 0x0032, .setmode 0x0003,
      .setmode 0x4000, .setmode 0x3F32] = true ∧
    (0x0032 % 16 ≤ 2 ∧ 0x0032 / 16 % 8 ≤ 3 ∧ 0x0032 / 16384 = 0) ∧ ¬(0x0003 % 16 ≤ 2) ∧ ¬(0x4000 / 16384 = 0) := by decide +kernel

/-- DivisionAndWideResults: divisors that are nonzero in every lane, zero in lane 0, zero for a uniform destination. -/
theorem test_witness_division :
    readyAll [.divS none 5 4 2, .divU none 5 4 2, .remS none 5 4 2, .remU none 5 4 2, .divS none 5 2 4, .divU none 0x80 0x82 0xFF,
      .divU none 0x80 0x84 0x82, .mad none 5 4 2, .fshl none 5 2 4, .bfi none 5 2 4, .madwU none 6 4 2, .madwS none 6 4 2, .lea1 none 6 2 4,
      .lea4 none 6 2 4, .lea8 none 6 2 4, .lea16 none 6 2 4, .add64 none 6 2 2, .sub64 none 0xFF 2 2] = true ∧
    (onceR 5 [4, 2] = false ∧ ∀ l, l < 32 → warp0.rd 2 l ≠ 0) ∧ (warp0.runs none cur0.lanes 0 = true ∧ warp0.rd 4 0 = 0) ∧
    (onceR 0x80 [0x82, 0xFF] = true ∧ warp0.rd 0xFF 0 = 0) ∧ (onceR 0x80 [0x84, 0x82] = true ∧ warp0.rd 0x82 0 ≠ 0) := by decide +kernel

/-- CompareResults, FloatResults, FusedAndPackedResults. -/
theorem test_witness_float :
    readyAll [.cmpEq none 0xC2 4 2, .cmpNe none 0xC2 4 2, .cmpLtS none 0xC2 4 2, .cmpLeS none 0xC2 4 2, .cmpLtU none 0xC2 4 2,
      .cmpLeU none 0xFF 4 2, .cmpEqL none 0xC2 4 1, .cmpLtSL none 0xC2 4 1, .fcmpEq none 0xC2 4 2, .fcmpLt none 0xC2 4 2,
      .fcmpLe none 0xC2 4 2, .fcmpUn none 0xC0 4 2, .fcmpLtL none 0xC2 4 1, .fadd none 5 4 2, .fsub none 5 4 2, .fmul none 5 4 2,
      .fdiv none 5 4 2, .fmin none 5 4 2, .fmax none 5 4 2, .faddL none 5 4 1, .fmulL none 5 4 1, .fminL none 5 4 1, .fmaxL none 5 4 1,
      .fsqrt none 5 4, .fround none 5 4, .fabs none 5 4, .fneg none 5 4, .fclass none 5 4, .frcp none 5 4, .frsq none 5 4,
      .fexp2 none 5 4, .flog2 none 5 4, .fsin none 5 4, .fcos none 5 4, .fscale none 5 4 2, .ffma none 5 4 2,
      .ffma (pfx false 0 0 6 false 0) 5 4 2, .ffmaL none 5 4 2 1, .hadd2 none 5 4 2, .hmul2 none 5 4 2, .hfma2 none 5 4 2,
      .hdot2 none 5 4 2] = true ∧
    ((FpFmt.fp32.unpack 0x7FC00000).isNan = true ∧ FpFmt.fp32.unpack 0x3F800000 = .fin false 0x800000 (-23)) := by decide +kernel

/-- RoundingIsTight: finite patterns, zeros, an infinity and NaNs of a format. -/
theorem test_witness_exact :
    ([0x00000000, 0x80000000, 0x00000001, 0x3F800000, 0x7F7FFFFF].all (fun x =>
      decide (x < 2 ^ FpFmt.fp32.width) && !(FpFmt.fp32.unpack x).isNan && !(FpFmt.fp32.unpack x).isInf) = true) ∧
    FpFmt.fp32.unpack 0x7F800000 = .inf false ∧ (FpFmt.fp32.unpack 0x80000000).isZero = true ∧
    (FpFmt.fp32.unpack 0xFFC00001 matches .nan true _ _) = true ∧ (FpFmt.fp16.unpack 0x7D01).isSnan = true ∧
    (FpFmt.bf16.unpack 0x7FC0 matches .nan false _ _) = true := by decide +kernel

/-- ConversionResults: listed controls in every lane, and one that is not listed; ExactConversions and RoundingIsTight: a finite
value, and a value that is rounded without overflow. -/
theorem test_witness_conversion :
    readyAll [.fcvtF2i none 5 2 0xD4, .fcvtI2f none 5 2 0xD4, .fcvtF2f none 5 2 0xD1, .fcvtF2i none 5 2 4, .fcvtI2f none 0x80 0x82 0xD3] = true ∧
    ((intWidth ((warp0.rd 0xD4 0).toNat / 4 % 4)).isSome && (scalarFmt ((warp0.rd 0xD4 0).toNat % 4)).isSome) = true ∧
    ((anyFmt ((warp0.rd 0xD1 0).toNat / 16 % 8)).isSome && (anyFmt ((warp0.rd 0xD1 0).toNat % 8)).isSome) = true ∧
    ((intWidth ((warp0.rd 4 3).toNat / 4 % 4)).isSome && (scalarFmt ((warp0.rd 4 3).toNat % 4)).isSome) = false ∧
    ((FpFmt.e4m3.unpack 0x38).isNan = false ∧ (FpFmt.e4m3.unpack 0x38).isInf = false ∧ 0x38 < 2 ^ FpFmt.e4m3.width) ∧
    ((FpFmt.fp16.round 0 false 0x1234567 (-10)).2 &&& FpFlags.overflow = 0) := by decide +kernel

/-- The warp keeps its place and no debugger has come. -/
def kept (q : State) (w : Warp) : Bool := decide (q.warp? 0 = some w) && !q.debugOn w

/-- A read within an instruction is done without a cause and leaves the warp. -/
def readsDone (r : ReadNow) (w : Warp) : Bool :=
  match r with
  | .done _ [] q => kept q w
  | _ => false

/-- A write within an instruction is done and leaves the warp. -/
def writesDone (r : WriteNow) (w : Warp) : Bool :=
  match r with
  | .done q => kept q w
  | _ => false

/-- A warp with path 0 changed. -/
def onPath (f : Path → Path) : Warp := warp0.updPath 0 f

/-- A warp alone, with the line at 0x1000, ready to execute these. -/
def readyIn (w : Warp) (pr : Priv) (is : List Instr) : Bool := is.all (fun i => meets i pr (stateOf w [dataLine 32 [1, 2, 3, 4]]) cur0 w)

/-- `warp0` with these uniform registers beside its own. -/
def withS (l : List (Nat × Word)) : Warp := { warp0 with sreg := l ++ warp0.sreg }

/-- UniformTransfers: m0 is 1 and m2 is 0 in every lane; a far target; calls through s4:s5; a table at 0x1000. -/
theorem test_witness_transfers :
    readyAll [.bra 3, .brt 0 3, .brt 2 3, .brf 0 3, .brf 2 3, .bra 0xFFFBF, .call 6 1, .call 0xFF 1, .callx 6 0x84, .callx 0x86 0x84, .ret 0x84,
      .brx 4 0xD0 0x84] = true ∧
    ((warp0.path 0).status = .run ∧ (warp0.path 0).mask ≠ 0 ∧ (0x100#64 + 4 * (3#20).signExtend 64).toNat < 2 ^ 56) ∧
    2 ^ 56 ≤ (0x100#64 + 4 * (0xFFFBF#20).signExtend 64).toNat ∧ warp0.rdPair 0x84 0 &&& ~~~3#64 = 0x1000 ∧
    readsDone (state0.readLanes cur0 warp0 false 4 ((warp0.path 0).mask.lanes.map (fun l => { lane := l, va := 0x1000 }))) warp0 = true ∧
    (0x100#64 + 4 * (0x04030201#32).signExtend 64).toNat < 2 ^ 56 := by decide +kernel

/-- UniformTransfers: an index at the table's end, entry addresses at 2^56 and misaligned, targets at 2^56. -/
theorem test_witness_transfer_faults :
    let w := withS [(6, 2), (8, 0), (9, 0x1000000)]
    readyIn w .none [.brx 4 4 0x84, .brx 4 0xD0 0x88, .brx 4 0xD0 0x86, .callx 6 0x88, .ret 0x88] = true ∧
    ((w.path 0).status = .run ∧ (w.path 0).mask.getLsbD 4 = true ∧ (4 : Code).toNat ≤ (w.rd 4 4).toNat ∧ (w.rd 0xD0 4).toNat < 4) ∧
    2 ^ 56 ≤ (w.rdPair 0x88 0 + 4 * (w.rd 0xD0 4).setWidth 64).toNat ∧ 2 ^ 56 ≤ (w.rdPair 0x88 4 &&& ~~~3#64).toNat ∧
    (w.rdPair 0x86 0 + 4 * (w.rd 0xD0 4).setWidth 64).toNat < 2 ^ 56 ∧
    (w.rdPair 0x86 0 + 4 * (w.rd 0xD0 4).setWidth 64).toNat % 4 ≠ 0 := by decide +kernel

/-- DivergentBranchSplits: m1 holds the low half of the lanes; the entries 1 to 7 are free; a join point set and unset. -/
theorem test_witness_divergence :
    readyAll [.brt 1 3, .jpt 3, .join] = true ∧ warp0.paths.length = 8 ∧ warp0.freePaths = 1 :: 2 :: [3, 4, 5, 6, 7] ∧
    ((warp0.path 0).flat = false ∧ (warp0.path 0).stack = [] ∧ (warp0.path 0).held = 0 ∧ (warp0.path 0).jp = none) ∧
    ((warp0.path 0).mask &&& warp0.maskReg 1 ≠ 0 ∧ (warp0.path 0).mask &&& ~~~(warp0.maskReg 1) ≠ 0) ∧
    (0x100#64 + 4 * (3#20).signExtend 64 ≠ cur0.next) ∧
    (readyIn (onPath (fun q => { q with jp := some 0x200 })) .none [.join] = true) := by decide +kernel

/-- LoopResults: a count, a full stack, a count of 0 whose last instruction can be read. -/
theorem test_witness_loops :
    readyAll [.loop 0x82 2, .loop 0x80 2, .loopi 3 2, .loopi 0 2] = true ∧ warp0.rd 0x82 0 ≠ 0 ∧ warp0.rd 0x80 0 = 0 ∧
    ((state0.lengthAt cur0 warp0 0x108).1 matches .words 1) = true ∧
    readyIn (onPath (fun q => { q with stack := List.replicate 4 { start := 0x100, stop := 0x108, count := 2 } })) .none
      [.loop 0x82 2, .loopi 3 2] = true := by decide +kernel

/-- A load counted and not complete. -/
def loading : Warp := { warp0 with loads := [{ id := 9, done := false }] }

/-- ExitAndWaiting: EXIT of the last lanes and of half the lanes; WAIT met and not met; a held WAIT whose counters have fallen. -/
theorem test_witness_waiting :
    readyAll [.exit, .nop, .yield, .wait 0 0 0 0] = true ∧
    (warp0.pre = .normal ∧ warp0.trap = none ∧ heldOps (state0.opsOf 0) = [] ∧ heldBatches warp0.batches = []) ∧
    (warp0.live &&& ~~~(warp0.path 0).mask = 0) ∧
    (readyIn (onPath (fun q => { q with mask := 0xFFFF })) .none [.exit] = true ∧ warp0.live &&& ~~~(0xFFFF#32) ≠ 0) ∧
    readyIn loading .none [.wait 0 0 0 0] = true ∧
    (let w := { warp0 with held := some { why := .wait, cur := cur0, i := some (.wait 0 0 0 0) } }
     let s := stateOf w []
     s.warp? 0 = some w ∧ s.debugOn w = false ∧ heldOps (s.waitOps 0 { w with held := none } 0 0) = []) := by decide +kernel

/-- HeldTransfersAndNonInstructions: half the lanes are held at a transfer at 0x100; words that are no instruction, with privilege. -/
theorem test_witness_held_transfer :
    ([Instr.bra 3, .brt 1 3, .brf 1 3, .brt 0 3, .brx 4 0xD0 0x84, .call 6 1, .callx 6 0x84, .ret 0x84].all (fun i =>
      let w := onPath (fun q => { q with status := .wait, mask := 0, held := 0xFFFF, hpc := 0x100, kids := 1 })
      let s := { stateOf w [] with
        l2 := [loaderLine ((encode i).foldr (fun (x : Word) (n : Nat) => x.toNat + 2 ^ 32 * n) 0), dataLine 32 []] }
      let r := s.fetch 0 0 w 0x100
      decide (s.warp? 0 = some w) && s.pathFree w 0 && (match r.1 with
        | .instr j n => decide (j = i) && n == (encode i).length
        | _ => false) && decide (w.freePaths ≠ []) &&
      (let c := w.curFor 0 0 (encode i).length
       let s1 : State := { (r.2.updPath 0 0 (fun x => { x with hold := .none })) with cur := some c }
       (s1.warp? 0).any (fun w1 => meets i .none s1 c w1 && decide ((w1.path 0).status = .wait) &&
         readsDone (s1.readLanes c w1 false 4 ((w1.path 0).held.lanes.map (fun l => { lane := l, va := 0x1000 }))) w1))) = true) ∧
    ((onPath (fun q => { q with status := .wait, held := 0xFFFF })).paths.length = 8 ∧ (warp0.path 0).flat = false ∧
      (warp0.path 0).hstack = [] ∧ (warp0.path 0).jp ≠ some 0x200) ∧
    readyAll [.nonInstruction .none 0x01 24 1, .nonInstruction .none 0x30 0 1] = true ∧
    readyIn warp0 .supervisor [.nonInstruction .supervisor 0x01 0 1] = true := by decide +kernel

/-! ### The memory system -/

/-- The lanes of these addresses are looked up with local places, those of one line with one place, and the warp is kept. -/
def looksUp (s : State) (w : Warp) (load store : Bool) (n : Nat) (vas : List Nat) : Bool :=
  let as : List LaneAddr := ((numsFrom 0 vas.length).zip vas).map (fun x => { lane := x.1, va := x.2 })
  let r := s.lookLanes (w.who 0 0) load store n as
  kept r.2 w && decide (r.1.map Prod.fst = as) && r.1.all (fun x => match x.2 with
    | .go h => h.remote.isNone && r.1.all (fun y => x.1.va / 128 != y.1.va / 128 || (match y.2 with
      | .go k => h.place == k.place
      | _ => false))
    | _ => false)

/-- Looking these addresses up for a store gives places and changes nothing. -/
def looksStill (s : State) (w : Warp) (n : Nat) (vas : List Nat) : Bool :=
  vas.all (fun va => match s.lookLane (w.who 0 0) false true va n with
    | (.go h, q) => h.remote.isNone && decide (q = s)
    | _ => false)

/-- `state0` with the next line too, which v2 reaches in its upper lanes. -/
def state1 : State := stateOf warp0 [dataLine 32 [1, 2, 3, 4], dataLine 33 []]

/-- GlobalAccessesIssue: lane addresses over two lines, a uniform address, an offset, a strong access, z. -/
theorem test_witness_global :
    [Instr.ld8u none 5 2 0 0, .ld8s none 5 2 0 0, .ld16u none 5 2 0 0, .ld16s none 5 2 0 0, .ld32 none 5 2 4 0, .ld64 none 6 2 0 0,
      .ld128 none 0x88 0x84 0 1, .st8 none 4 2 0 0, .st16 none 4 2 0 0, .st32 guard1 4 2 2 0, .st64 none 6 2 0 0, .st128 none 0x88 0x84 0 7,
      .ld32 none 0xFF 0x84 0 0].all (fun i => meets i .none state1 cur0 warp0) = true ∧
    warp0.mode.getLsbD 13 = false ∧ (warp0.path 0).replayOp = none ∧
    looksUp state1 warp0 true false 8 ((numsFrom 0 32).map (fun l => (warp0.rdPair 2 l).toNat)) = true ∧
    looksUp state1 warp0 false true 8 ((numsFrom 0 32).map (fun l => (warp0.rdPair 2 l).toNat)) = true ∧
    (∀ l, l < 32 → (warp0.rdPair 2 l).toNat % 8 = 0) ∧ looksUp state1 warp0 true false 16 [0x1010] = true ∧
    looksUp state1 warp0 false true 16 [0x1070] = true := by decide +kernel

/-- A second workgroup in the team. -/
def twoGroupsState (w : Warp) : State :=
  let s := stateOf w [dataLine 32 []]
  { s with
    teams := [(2, { launch := 1, index := 0, x := 0, y := 0, z := 0, groups := [Group.fresh 0 0 65536 [0], Group.fresh 1 0 65536 [0]],
                    record := none, saving := false })]
    launches := [(1, { loaderLaunch with teamWgs := 2 })] }

/-- ScratchAccessesIssue: the first and the last bytes of the allocation, and the partner's; MisalignedAccessRaises. -/
theorem test_witness_scratch :
    (let w := withS [(0, 0xFFF0), (1, 0x8000FFF0)]
     let s := twoGroupsState w
     [Instr.lds32 none 5 4 0 0, .lds32 none 5 0xFF 0 0, .lds128 none 0x88 0x80 0 0, .lds128 none 0x88 0x81 0 0, .sts32 none 4 0x80 0 3,
       .sts128 none 0x84 0x81 0 0].all (fun i => meets i .none s cur0 w) = true ∧ s.twoGroups w = true ∧
     0xFFF0 + 16 ≤ s.headerField w Launch.scratch ∧ (0x8000FFF0 % 2 ^ 31 + 16 ≤ s.headerField w Launch.scratch) ∧
     s.badAt (.scratch 2 0) 0xFFF0 16 = false ∧ s.badAt (.scratch 2 1) 0xFFF0 16 = false) ∧
    (let w := withS [(0, 0x1001)]
     let s := stateOf w []
     [Instr.ld16u none 5 0x80 0 0, .ld16s none 5 0x80 0 0, .ld32 none 5 0x80 0 0, .ld64 none 6 0x80 0 0, .ld128 none 0x88 0x80 0 0,
       .st16 none 4 0x80 0 0, .st32 none 4 0x80 0 0, .st64 none 4 0x80 0 0, .st128 none 4 0x80 0 0].all
       (fun i => meets i .none s cur0 w) = true ∧ (w.rdPair 0x80 0).toNat = 0x1001) := by decide +kernel

/-- An access of warp 0 to the line at 0x1000. -/
def access0 (kind : AccKind) (ps : List Part) : Access :=
  { w := 0, op := 9, seg := 0, seq := 0, segs := [0], after := [], kind := kind, place := .line 0 32, parts := ps, strong := true
    acq := false, rel := false, scope := .device, size := 4, opened := [], owes := none, remote := none, sent := 0 }

/-- The access touches no claimed spill area, and no engine works on an index. -/
def intact (s : State) (a : Access) : Bool :=
  a.parts.all (fun p => (s.tagOf a p).all (fun t => !s.inClaim t p.va) && decide (s.busyWords a.place p.off p.size = [])) &&
    s.ctx.all (fun x => x.2.save == 0) && s.engines.isEmpty

theorem intact_of (s : State) (a : Access) (h : intact s a = true) : s.Intact a := by
  simp only [intact, Bool.and_eq_true, List.all_eq_true, List.isEmpty_iff] at h
  refine ⟨fun p hp => ?_, fun x hx => .inl (by simpa using h.1.2 x hx), fun e he => by simp [h.2] at he⟩
  obtain ⟨h1, h2⟩ := h.1.1 p hp
  exact ⟨fun t ht => by simpa [ht] using h1, of_decide_eq_true h2⟩

/-- The line at 0x1000 holds the bytes. -/
theorem backs_line0 (s : State) (off n : Nat) (h : (s.findLine 0 32).any (fun l => decide (off + n ≤ l.data.length)) = true) :
    s.backs (.line 0 32) off n := by
  cases hl : s.findLine 0 32 with
  | none => simp [hl] at h
  | some l => exact ⟨l, hl, by simpa [hl] using h⟩

/-- A state in which that access is pending, of a counted instruction. -/
def pendingState (a : Access) : State :=
  { state0 with
    accesses := [(5, a)], fresh := 10
    outs := [(9, { w := 0, path := 0, pc := 0x100, isLoad := true, dst := 5, regs := 1, size := 4, signed := false, lanes := 1
                   uniform := false, got := [], more := false })] }

/-- AccessesPerform: a store of two lanes at the two ends of the line, a load, an addition. -/
theorem test_witness_perform :
    (let a := access0 .store [{ lane := 0, va := 0x1000, voff := 0, off := 0, size := 4, data := [5, 6, 7, 8] },
       { lane := 1, va := 0x107C, voff := 0, off := 124, size := 4, data := [5, 6, 7, 8] }]
     let s := pendingState a
     s.canPerform 5 a = true ∧ s.wayAwake a = true ∧ intact s a = true ∧
     (∀ p ∈ a.parts, s.races a p = [] ∧ p.data.length = p.size ∧
       (s.findLine 0 32).any (fun l => decide (p.off + p.size ≤ l.data.length)) = true) ∧
     (a.parts.map (fun p => (p.off, p.off + p.size))).Pairwise (fun p q => p.2 ≤ q.1 ∨ q.2 ≤ p.1)) ∧
    (let a := access0 .load [{ lane := 0, va := 0x1000, voff := 0, off := 0, size := 4, data := [] }]
     let s := pendingState a
     s.canPerform 5 a = true ∧ s.wayAwake a = true ∧ intact s a = true ∧
     (∀ p ∈ a.parts, s.races a p = [] ∧ s.racesAhead 0 a p = []) ∧
     (∀ e ∈ s.accesses, e.2.isStore = false ∨ e.2.pathBefore a = false)) ∧
    (let a := access0 (.rmw 0 0) [{ lane := 0, va := 0x1000, voff := 0, off := 0, size := 4, data := [1, 0, 0, 0] }]
     let s := pendingState a
     s.canPerform 5 a = true ∧ s.wayAwake a = true ∧ intact s a = true ∧
     (∀ p ∈ a.parts, s.races a p = [] ∧ s.racesAhead 0 a p = [] ∧
       (s.findLine 0 32).any (fun l => decide (p.off + p.size ≤ l.data.length)) = true)) := by decide +kernel

/-- LoadsAndStoresComplete: a load to the last lane register, to a uniform register, to z; a store; a load with lanes still to be
replayed. -/
theorem test_witness_completion :
    let o : OutOp := { w := 0, path := 0, pc := 0x100, isLoad := true, dst := 0x7F, regs := 1, size := 4, signed := false, lanes := 1
                       uniform := false, got := [], more := false }
    let s : State := { state0 with
      outs := [(5, { o with more := true }), (6, o), (7, { o with dst := 0xBF, uniform := true }), (8, { o with dst := 0xFF })
               , (9, { o with isLoad := false })] }
    s.loadPart 5 = true ∧ s.opDone 6 true = true ∧ s.opDone 7 true = true ∧ s.opDone 8 true = true ∧ s.opDone 9 false = true ∧
    (s.warp? o.w).isSome = true ∧ o.regs = (o.size + 3) / 4 ∧ 0 < o.size ∧ o.dst.toNat + o.regs ≤ 0x80 ∧ 0xBF + o.regs ≤ 0xC0 ∧
    o.lanes = 1 ∧ classOf 0x7F = .lane ∧ classOf 0xBF = .uniform := by decide +kernel

/-- ConstantReads: a constant space of 128 bytes at 0x1000, read at its last word by lanes and once. -/
theorem test_witness_constant :
    let w := { withS [(3, 124)] with sreg := [(2, 5), (3, 124), (4, 0x1000)] }
    let s : State := { stateOf w [dataLine 32 [1]] with launches := [(1, { loaderLaunch with constSize := 128, args := 0x1000 })] }
    [Instr.ldc none 5 0xFF 31, .ldc none 0x85 0x83 0, .ffmc none 5 4 31].all (fun i => meets i .none s cur0 w) = true ∧
    s.headerField w Launch.constSize = 128 ∧ ((s.launchOf w).map (fun x => x.args.toNat)).getD 0 = 0x1000 ∧
    readsDone (s.readLanes cur0 w false 4 [{ lane := 0, va := 0x107C }, { lane := 31, va := 0x107C }]) w = true ∧
    readsDone (s.readLanes cur0 w true 4 [{ lane := 0, va := 0x107C }]) w = true := by decide +kernel

/-- CacheInstructions: prefetches of a line that is there and one that misses; flushes. -/
theorem test_witness_cache :
    let w := withS [(0, 0x2000)]
    let s := stateOf w [{ dataLine 32 [1] with dirty := true }]
    [Instr.pref 2, .prefL1 0x84, .pref 0x80, .cflushWb 2, .cflushInv 0x84].all (fun i => meets i .none s cur0 w) = true ∧
    (s.look w.asid (some w.team) 0x2000 matches .miss 0 64) = true ∧ s.accesses = [] ∧
    (w.rdPair 0x84 0).toNat / 128 = 32 ∧ (s.findLine 0 32).any (fun x => x.dirty) = true := by decide +kernel

/-- Page tables that map the first gigabyte at 1 GiB. -/
def tables : Memory :=
  [(2, 1), (0x10001, 0x20), (0x10002, 1), (0x10008, 1), (0x12001, 0x40), (0x12002, 1), (0x12008, 1), (0x14003, 0x40), (0x14008, 0x0B)]

/-- MissesAreServed: a walk that finds a leaf and one that faults, a fill, the end of a slot wait, units asked for. -/
theorem test_witness_misses :
    let m : Miss := { asid := 0, line := 64, l1 := [], quiet := false, team := some 2, result := .pending }
    let s : State := { state0 with misses := [(7, m)] }
    let e : TlbEntry := { unit := unitOf 0 0x2000, asid := 0, base := 0, size := 2 ^ 30, pa := 2 ^ 30, attr := 0x0B, used := 0 }
    (s.walkReady 7 = true ∧ s.walk 0 0x2000 = .fault 0x30 0) ∧
    ({ s with mem := tables } : State).walk 0 0x2000 = .leaf 0 (2 ^ 30) (2 ^ 30) 0x0B ∧ s.isLocal (2 ^ 30) = true ∧
    (({ s with tlb := [e] } : State).missReady 7 = true ∧ ({ s with tlb := [e] } : State).findTlb 0 0x2000 = some e ∧
      s.findLine 0 64 = none) ∧
    (s.slotHolders 3 2 = [] ∧ s.findPinned 3 2 = none) ∧
    (s.updCore 0 (fun c => { c with reclaim := 4 })).reclaimReady 0 = true := by decide +kernel

/-! ### Cross-lane instructions and the Aster unit -/

/-- VotesAndShuffles, ReductionResults: every operator and the first code beyond; a cursor at the end of the allocation. -/
theorem test_witness_cross_lane :
    readyAll [.ballot none 5 4, .matchLanes none 5 4, .shflIdx none 5 4 2, .shflUp none 5 4 2, .shflDown none 5 4 2, .shflXor none 5 4 0xD1,
      .ballot guard1 0xFF 4, .redux none 5 4 0, .redux none 5 4 0x0A, .scan guard1 5 4 8, .redux none 5 4 0x0B, .scan none 5 4 0xFF] = true ∧
    (let w := withS [(0, 0xFFFC)]
     let s := stateOf w []
     meets (.qappend guard1 5 0x80) .none s cur0 w = true ∧
     (List.range 32).filter (fun j => w.runs guard1 cur0.lanes j) ≠ [] ∧
     (match s.scratchWord w (w.rd 0x80 0) with
      | .at h => (match s.rmwNow cur0 w h 4 0 16 0 false false .wg with
        | .done old q => (q.warp? 0).isSome && !q.debugOn w && old == 0
        | _ => false) && (s.group? 2 0).isSome && !s.badAt h.place h.off 4
      | _ => false) = true ∧ s.accesses = [] ∧ s.engines = [] ∧ s.stamps = [] ∧ s.strong = []) ∧
    (meets (.qappend (pfx true 2 0 0 true 0) 5 0x80) .none state0 cur0 warp0 = true ∧
      (List.range 32).filter (fun j => warp0.runs (pfx true 2 0 0 true 0) cur0.lanes j) = []) := by decide +kernel

/-- The partner of warp 0 in the other workgroup, on core 1. -/
def partner (held : Option Held) : Warp := { warp0 with wg := 1, held := held }

/-- Warp 0 and its partner. -/
def partners (w p : Warp) : State := { twoGroupsState w with warps := [(0, w), (64, p)] }

/-- PartnersExchange: the partner waits at the matching XCHGP, has not come, has gone; both wait. -/
theorem test_witness_partners :
    let h : Held := { why := .xchgp 0, cur := { cur0 with w := 64 }, i := some (.xchgp guard1 6 2) }
    let p := partner (some h)
    let w := { warp0 with held := some { why := .xchgp 0, cur := cur0, i := some (.xchgp none 5 4) } }
    (let s := partners warp0 p
     meets (.xchgp none 5 4) .none s cur0 warp0 = true ∧ s.twoGroups warp0 = true ∧ s.xchgpAlone warp0 = false ∧
     s.xchgpPartner warp0 = some (64, p, h) ∧ s.warp? 64 = some p ∧ s.debugOn p = false) ∧
    (let s := partners warp0 (partner none)
     meets (.xchgp none 5 4) .none s cur0 warp0 = true ∧ s.xchgpAlone warp0 = false ∧ s.xchgpPartner warp0 = none) ∧
    (readyAll [.xchgp none 5 4] = true ∧ state0.twoGroups warp0 = false) ∧
    (let s := twoGroupsState warp0
     meets (.xchgp none 5 4) .none s cur0 warp0 = true ∧ s.xchgpAlone warp0 = true) ∧
    (let s := partners w p
     s.warp? 0 = some w ∧ w.halt = none ∧ s.xchgpPartner w = some (64, p, h)) := by decide +kernel

/-- A warp in an expansion in which lane 0 owns 40 items and lane 1 none. -/
def expanding (n : BitVec 2) (cursor : Nat) : Warp :=
  { warp0 with slice := { Slice.reset with ln := [(0, 40)], active := true, n := n, cursor := cursor } }

/-- `DealsAlone`, as a computation for a warp that is alone in the machine. -/
def alone (s : State) (c : Cur) (w : Warp) : Bool :=
  decide ((w.path c.p).mask = Mask.full) && decide (w.live ≠ 0) && decide (w.halt = none ∧ w.halting = false) &&
    decide ((s.group? w.team w.wg).bind (fun g => g.keyAt w.warpId) = some c.w) && decide (w.slice.loaded = false) &&
    decide (s.warps = [(c.w, w)])

theorem alone_iff (s : State) (c : Cur) (w : Warp) (h : alone s c w = true) : DealsAlone s c w := by
  simp only [alone, Bool.and_eq_true, decide_eq_true_eq] at h
  obtain ⟨⟨⟨⟨⟨h1, h2⟩, h3⟩, h4⟩, h5⟩, h6⟩ := h
  refine ⟨h1, h2, h3, h4, h5, fun k x hk hx => ?_⟩
  rw [State.warp?, h6] at hx
  by_cases e : c.w = k
  · exact absurd e.symm hk
  · simp [Assoc.at?, e] at hx

/-- AsterExpansions: totals below and at 2^32; rounds with all items, with some, and past the last; no expansion. -/
theorem test_witness_aster :
    let full := { warp0 with v := warp0.v.filter (fun e => e.1 < 160) ++ [(5 * 32, 0xFFFFFFFF), (5 * 32 + 1, 1)] }
    (readyAll [.expand 0x88 2 0 0, .expand 0xFF 2 0 10, .exred 4, .exfin 5] = true ∧ asterOpOk 0 = true ∧ asterOpOk 10 = true ∧
      warp0.slice.active = false ∧ warp0.warpId < state0.wgDim warp0 ∧ alone state0 cur0 warp0 = true) ∧
    (readyIn full .none [.expand 0x88 4 0 0] = true ∧ alone (stateOf full []) cur0 full = true ∧ 2 ^ 32 ≤ ((List.range 32).map (fun i => (full.rd 5 i).toNat)).sum) ∧
    ([0, 1, 2].all (fun k => readyIn (expanding 0 k) .none [.exnext 5 6 0xC3, .exnext 0xFF 0xFF 0xFF, .exred 4, .exfin 0xFF] &&
      alone (stateOf (expanding 0 k) []) cur0 (expanding 0 k)) = true) := by
  decide +kernel

/-- Two warps of one workgroup, both in an expansion of their set. -/
def pair (held : Instr → Option Held) (i : Instr) : State :=
  let w := { expanding 1 0 with held := held i }
  { stateOf w [] with
    warps := [(0, w), (1, { w with warpId := 1, held := (held i).map (fun h => { h with cur := { cur0 with w := 1 } }) })]
    teams := [(2, { launch := 1, index := 0, x := 0, y := 0, z := 0, groups := [Group.fresh 0 0 65536 [0, 1]], record := none
                    saving := false })]
    launches := [(1, { loaderLaunch with wgWarps := 2 })] }

/-- AsterSetsStepTogether: the other warp of the set has not come; both are held. -/
theorem test_witness_sets :
    ([Instr.exnext 5 6 0xC3, .exred 4, .exfin 5].all (fun i =>
      let s := pair (fun _ => none) i
      let w := expanding 1 0
      let w1 := { w with span := false, held := some { why := .aster, cur := cur0, i := some i } }
      meets i .none s cur0 w && !(s.setWarp 0 { w with span := false }).setBroken w (w.setOf i) && ((s.setWarp 0 w1).asterDue w).isNone &&
        !(s.setWarp 0 w1).asterReady 0) = true) ∧
    ([Instr.expand 5 2 1 0, .exnext 5 6 0xC3, .exred 4, .exfin 5].all (fun i =>
      let s := pair (fun i => some { why := .aster, cur := cur0, i := some i }) i
      s.asterReady 0 && (match s.warp? 0 with
        | some w => (match w.dealt 0 with
          | some d =>
            let ds := s.dealtSet w (w.setOf d.i)
            !s.differs d && ds.all (fun x => stepCode x.i == stepCode d.i && x.w.setOf x.i == w.setOf d.i && !x.w.slice.loaded && x.cur.w == x.key &&
              !s.debugOn x.w) && decide (ds.map Dealt.key).Nodup && (match asterStep ds with
                | .inr _ => true
                | _ => false)
          | none => false)
        | none => false)) = true) := by decide +kernel

/-- AsterImages: a block of 392 bytes over four lines, an image that EXLOAD accepts, two writes in one line. -/
theorem test_witness_images :
    let w := expanding 0 1
    let im := w.image
    let s := stateOf w [dataLine 32 (im.take 128), dataLine 33 ((im.drop 128).take 128), dataLine 34 ((im.drop 256).take 128),
      dataLine 35 (im.drop 384)]
    [Instr.exsave 0x84, .exload 0x84].all (fun i => meets i .none s cur0 w) = true ∧
    s.formBlock cur0 w 0x1000 8 8 49 false true = [] ∧ s.formBlock cur0 w 0x1000 8 8 49 true false = [] ∧
    writesDone (s.writeLanes cur0 w 8 (unitAddrs 0x1000 8 49) (fun j => sliceBytes im (8 * j) 8)) w = true ∧
    (match s.readLanes cur0 w true 8 (unitAddrs 0x1000 8 49) with
     | .done vals [] q => kept q w && decide (q.imageCause w (blockBytes vals 49) = none) && decide (blockBytes vals 49 = im)
     | _ => false) = true ∧
    (w.slice.active = true ∧ w.slice.cursor < 2 ^ 32 ∧ w.slice.n.toNat ≤ 2) ∧
    looksStill s w 4 [0x1000, 0x1004] = true ∧ [0x1000, 0x1004].all (fun va => match s.lookLane (w.who 0 0) false true va 4 with
      | (.go h, _) => decide (s.way (some 0) h = .go) &&
        intact s (w.unit 0 0 0 .store h [{ lane := 0, va := va, voff := 0, off := h.off, size := 4, data := zeros 4 }] 4 0)
      | _ => false) = true := by decide +kernel

/-! ### Atomics, barriers, hash tables, handles -/

/-- The first group of the team changed, and its launch. -/
def inGroup (w : Warp) (f : Group → Group) (l : Launch → Launch) : State :=
  (stateOf w [dataLine 32 [1, 2, 3, 4], dataLine 33 []]).updGroup 2 0 f |>.updLaunch 1 l

/-- AtomicsAndFences: both widths, every order, the last word of either allocation; an operator without a 64-bit form. -/
theorem test_witness_atomics :
    (let s := state1
     [Instr.atom none 5 2 4 0 0 0 0xFF, .atom guard1 0xFF 2 4 0x0D 0 3 0xFF, .atom none 6 2 4 9 1 4 6, .atom none 0x88 0x84 0x82 8 0 7 0x82].all
       (fun i => meets i .none s cur0 warp0) = true ∧ looksUp s warp0 true true 8 ((numsFrom 0 32).map (fun l => (warp0.rdPair 2 l).toNat)) = true ∧
     looksUp s warp0 true true 4 [0x1000] = true ∧ warp0.mode.getLsbD 13 = false ∧ (warp0.path 0).replayOp = none ∧
     [Instr.atom none 6 2 4 0xA 1 0 0xFF, .atoms none 6 4 4 0xD 1 0 0xFF].all (fun i => meets i .none s cur0 warp0) = true) ∧
    (let w := withS [(0, 0xFFFC), (1, 0x8000FFFC)]
     let s := twoGroupsState w
     [Instr.atoms none 5 0x80 4 0 0 0 0xFF, .atoms guard1 0xFF 0x81 4 5 0 4 0xFF, .atoms none 0x88 0x80 0x82 0xE 0 0 0xFF,
       .atoms none 0xFF 0x81 0x82 0xE 0 4 0xFF].all (fun i => meets i .none s cur0 w) = true ∧ s.twoGroups w = true ∧
     0xFFFC + 4 ≤ s.headerField w Launch.scratch ∧ 0x8000FFFC % 2 ^ 31 + 4 ≤ s.headerField w Launch.scratch ∧
     s.badAt (.scratch 2 0) 0xFFFC 4 = false ∧ s.badAt (.scratch 2 1) 0xFFFC 4 = false ∧ (s.group? 2 0).isSome = true ∧
     (s.accesses = [] ∧ s.engines = [] ∧ s.stamps = [] ∧ s.strong = []) ∧ arriveWord 0 5 = some 5 ∧
     (s.ctxOf w.asid).replay.toNat % 4 = 0) ∧
    ([0, 1, 2].all (fun k => meets (.fence k 0) .none state0 cur0 warp0) = true) ∧
    ([0, 1, 2].all (fun k =>
      let x := access0 .load []
      let y := { access0 .store [] with seq := 2 }
      let s : State := { state0 with
        accesses := [(5, x), (6, y)], fences := [{ w := 0, seg := 0, seq := 1, kind := k, scope := .device }] }
      y.segs.contains 0 && y.segs.contains x.seg && s.accesses.contains (5, x) && x.reads && y.writes) = true) ∧
    (let p : Part := { lane := 0, va := 0x1000, voff := 0, off := 0, size := 4, data := [1, 0, 0, 0] }
     let x := access0 .store [p]
     let y := { access0 .store [] with seq := 2 }
     let z := { access0 .store [p] with w := 1, segs := [7], seg := 7 }
     let s : State := { state0 with
       warps := [(0, warp0), (1, { warp0 with warpId := 1 })], accesses := [(5, x), (6, y), (7, z)]
       fences := [{ w := 0, seg := 0, seq := 1, kind := 2, scope := .wg }] }
     s.orderOf x y = some .wg ∧ Scope.wg.holds (s.agent 0) (s.agent 1) = true ∧ z.segs.contains x.seg = false ∧ x.meets z = true) := by
  decide +kernel

/-- A warp that reads the barrier word 0x01004003 (phase 1, target 4, count 3) at 16 of its scratchpad. -/
def waiting (held : Option Held) : Warp := { withS [(0, 16), (1, 1), (3, 0)] with held := held }

def waitState (held : Option Held) : State :=
  { inGroup (waiting held) (fun g => { g with scratch := [(16, 3), (17, 0x40), (19, 1)] }) id with cur := some cur0 }

/-- BarrierArrivals: counts and targets at their limits; an arrival on a good word and on a word that cannot take it. -/
theorem test_witness_arrivals :
    (0x02FFFFFE % 2 ^ 12 < 0x02FFFFFE / 2 ^ 12 % 2 ^ 12 ∧ (4094 : Nat) + 1 ≤ 4095 ∧ (4095 : Nat) < 4095 + 1 ∧
      0x02001001 / 2 ^ 12 % 2 ^ 12 ≤ 0x02001001 % 2 ^ 12) ∧
    (let w := waiting none
     let s := waitState none
     [Instr.arrive 0x85 0x80 0x81, .arrive 0xFF 0x80 0x84].all (fun i => meets i .none s cur0 w) = true ∧
     (s.accesses = [] ∧ s.engines = [] ∧ s.stamps = [] ∧ s.strong = []) ∧ arriveWord 0x01004003 1 = some 0x02004000 ∧ arriveWord 0x01004003 4096 = none ∧
     (match s.scratchWord w (w.rd 0x80 0) with
      | .at h => (s.group? 2 0).isSome && [1, 0x1000].all (fun n => match s.rmwNow cur0 w h 4 0xE n 0 false true .team with
        | .done old q => (q.warp? 0).any (fun x => !q.debugOn x && (q.ctxOf x.asid).replay.toNat % 4 == 0) && old == 0x01004003
        | _ => false)
      | _ => false) = true) := by decide +kernel

/-- WordWaits: at 16 of the scratchpad phase 1 and count 3, at 0x1000 the word 0x04030201; met and not met; parked and met. -/
theorem test_witness_waits :
    (let w := waiting none
     let s := waitState none
     [Instr.waitbPh 0x80 0x81, .waitbPh 0x80 0x83, .waitbCnt 0x80 0x81, .waitbCnt 0x80 0x82, .mwaitNe 0x84 0x81, .mwaitGeu 0x84 0x81,
       .mwaitGeu 0x84 0xD0].all (fun i => meets i .none s cur0 w) = true ∧ ((s.warp? 0).isSome = true) ∧
     [false, true].all (fun cnt => match s.readBarrier cur0 w cnt 0x80 0x81 with
      | .got word _ q => kept q w && word == 0x01004003
      | _ => false) = true ∧
     (match s.readMwait cur0 w 0x84 with
      | .got word false q => kept q w && word == 0x04030201
      | _ => false) = true) ∧
    ([Instr.waitbPh 0x80 0x83, .waitbCnt 0x80 0x83].all (fun i =>
      let h : Held := { why := .waitb 0, cur := cur0, i := some i }
      let w := waiting (some h)
      let s := waitState (some h)
      decide (s.warp? 0 = some w) && w.halt.isNone && (match s.readBarrier h.cur w (i == .waitbCnt 0x80 0x83) 0x80 0x83 with
        | .got word _ q => kept q w && waitbMet (i == .waitbCnt 0x80 0x83) (w.rd 0x83 0) word 0
        | _ => false)) = true) ∧
    ([Instr.mwaitNe 0x84 0x81, .mwaitGeu 0x84 0x81].all (fun i =>
      let h : Held := { why := .mwait, cur := cur0, i := some i }
      let w := waiting (some h)
      let s := waitState (some h)
      decide (s.warp? 0 = some w) && (match s.readMwait h.cur w 0x84 with
        | .got word false q => kept q w && mwaitMet (i == .mwaitGeu 0x84 0x81) (w.rd 0x81 0) word
        | _ => false)) = true) := by decide +kernel

/-- WordWaits: a good word in scratchpad with nothing pending or recorded. -/
theorem test_witness_word_read :
    let w := waiting none
    let s := waitState none
    s.accesses = [] ∧ s.engines = [] ∧ s.stamps = [] ∧ s.strong = [] ∧ wordMalformed 0x01004003 = false ∧ (w.rd 0x81 0).toNat < 4096 ∧
    (match s.scratchWord w (w.rd 0x80 0) with
     | .at h => !s.badAt h.place h.off 4 && natOfBytes (s.peekBytes h.place h.off 4) == 0x01004003
     | _ => false) = true := by decide +kernel

/-- BarResults: alone, the other warp not yet there, parked and complete. -/
theorem test_witness_bars :
    ([Instr.barWg, .barTeam].all (fun i => meets i .none state0 cur0 warp0) = true ∧ warp0.pre = .normal ∧
      state0.barMet 0 warp0 false 1 = true ∧ state0.barMet 0 warp0 true 1 = true) ∧
    ([Instr.barWg, .barTeam].all (fun i =>
      let s := { pair (fun _ => none) i with warps := [(0, warp0), (1, { warp0 with warpId := 1 })] }
      meets i .none s cur0 warp0 && !s.barMet 0 warp0 (i == .barTeam) 1) = true) ∧
    ([Instr.barWg, .barTeam].all (fun i =>
      let w := { warp0 with held := some { why := .bar (i == .barTeam) 1, cur := cur0, i := some i } }
      let s := stateOf w []
      s.barMet 0 w (i == .barTeam) 1 && decide (s.warp? 0 = some w)) = true) := by decide +kernel

/-- A claim of 4 buckets that holds the keys 0x1000 and 0x1008. -/
def claim0 : Claim := { b := 4, entries := [], spill := none, capacity := 0 }

/-- A launch with room for one table of 4 buckets in a group of 64 KiB, and these claims. -/
def hashState (w : Warp) (cs : List (Nat × Claim)) : State :=
  inGroup w (fun g => { g with claims := cs }) (fun l => { l with hashmax := 1024 })

/-- HashInstructions: claims with and without a spill area, of 3 and of 2048 buckets, with all tables open; keys of lanes and one key. -/
theorem test_witness_hash :
    let w := withS [(0, 0), (1, 3), (8, 4), (10, 0x1000), (12, 2048)]
    (let s := hashState w []
     [Instr.htclaim 0x82 0xFF 0x88, .htclaim 0x82 0x8A 0x88, .htclaim 0x82 0xFF 0x81, .htclaim 0x82 0xFF 0x8C, .htrel 0x80].all
       (fun i => meets i .none s cur0 w) = true ∧ (s.group? 2 0).any (fun g => decide (4 * 128 + g.claimed ≤ 1024 ∧ 1024 < 2048 * 128 + g.claimed)) = true ∧
     s.headerField w Launch.hashmax = 1024 ∧
     (match s.readLanes cur0 w true 8 [{ lane := 0, va := 0x1000 }] with
      | .done _ [] q => writesDone (q.writeLanes cur0 w 4 [{ lane := 0, va := 0x1000 }] (fun _ => zeros 4)) w
      | _ => false) = true) ∧
    (let s := hashState w ((numsFrom 0 8).map (fun j => (j, claim0)))
     meets (.htclaim 0x82 0xFF 0x88) .none s cur0 w = true ∧ (numsFrom 0 8).all (fun j => (s.claim? w j).isSome) = true) ∧
    (let s := hashState w [(0, claim0)]
     let x : DWord := 0x10
     meets (.htrel 0x80) .none s cur0 w = true ∧
     [Instr.hins guard1 5 4 0x80, .hprobe guard1 8 4 0x80, .hdel guard1 5 4 0x80, .hacc guard1 5 4 0x80 0 0, .hins none 0x85 0x84 0x80].all
       (fun i => meets i .none s cur0 w) = true ∧
     (∀ l, l < 32 → w.rdPair 4 l ≠ emptyKey) ∧
     (match s.settleFor (w.keyedAccess cur0) with
      | none => false
      | some s0 => [(fun s cl (g : KeyGroup) => s.hashInsert cur0 w 0 cl g.key x), (fun (s : State) cl g => s.hashProbe cur0 w cl g.key),
          (fun s cl g => s.hashDelete cur0 w 0 cl g.key), (fun s cl g => s.hashAccumulate cur0 w 0 cl 0 0 g.key x)].all (fun f =>
        match runKeys w 0 f ((List.range 16).foldl (fun gs l => addKey gs (w.rdPair 4 l) l) []) 2 { results := [], causes := [], s := s0 } with
        | .ok r => r.causes.isEmpty && kept r.s w && decide (r.results.map Prod.fst = List.range 16)
        | .wait _ => false)) = true) ∧
    (let cl := { claim0 with entries := [(1, (0x1000, 7)), (9, (0x1008, 8))] }
     let w := { w with sreg := w.sreg }
     let s := hashState w [(0, cl)]
     let bytes := (Assoc.vals cl.entries).flatMap (fun e => bytesOfNat 8 e.1.toNat ++ bytesOfNat 8 e.2.toNat)
     meets (.hdrain 0x82 0x8A 0x80) .none s cur0 w = true ∧ s.formBlock cur0 w (w.rdPair 0x8A 0) 16 8 4 false true = [] ∧
     writesDone (s.writeLanes cur0 w 8 (unitAddrs 0x1000 8 4) (fun j => sliceBytes bytes (8 * j) 8)) w = true) := by decide +kernel

/-- HashTableSemantics: a key that is there, one that is not, a table whose two buckets of a key are full. -/
theorem test_witness_table :
    let key : DWord := 0x1000
    let holds := fun (c : Claim) (e : Nat) => (Assoc.at? c.entries e).any (fun y => y.1 == key)
    let es := bucketEntries key 4
    let e0 := (es.head?).getD 0
    let cl := { claim0 with entries := [(e0, (key, 7))] }
    let full := { claim0 with entries := (numsFrom 0 32).map (fun e => (e, (5, 5))) }
    es.find? (holds cl) = some e0 ∧ Assoc.at? cl.entries e0 = some (key, 7) ∧ es.find? (holds claim0) = none ∧
    es.find? (fun e => (Assoc.at? claim0.entries e).isNone) = some e0 ∧ es.find? (holds full) = none ∧
    es.find? (fun e => (Assoc.at? full.entries e).isNone) = none := by decide +kernel

/-- A level word: bound, tile exponent, stride mantissa and exponent. -/
def levelWord (bound ext mant exp : Nat) : Nat := (bound - 1) * 65536 + ext * 8192 + mant * 32 + exp

/-- A handle: type, element code, index code, scratch bit, presence of four levels (outermost highest), base and level words. -/
def handleOf (ty el ix scr pres base : Nat) (aux : Nat) (levels : List Nat) : Handle :=
  BitVec.ofNat 256 (ty * 2 ^ 252 + el * 2 ^ 248 + ix * 2 ^ 244 + scr * 2 ^ 243 + pres * 2 ^ 232 + base / 256 * 2 ^ 184 + aux * 2 ^ 128 +
    ((levels.zip [0, 1, 2, 3]).map (fun x => x.1 * 2 ^ (32 * x.2))).sum)

/-- A dense handle of 4-byte elements with level 0 alone: 64 in bound, tiles of 4, clip. -/
def dense (scr base : Nat) : Handle := handleOf 0 0 0 scr 1 base 0 [levelWord 64 2 4 0]

/-- A dense handle of rows of 4 elements, 32 to a tile: 64 by 64 in bound, clip. -/
def rowed (scr base : Nat) : Handle := handleOf 0 0 0 scr 5 base 0 [levelWord 64 2 4 0, levelWord 64 5 16 0]

/-- A dense handle with four levels; level 0 clips, level 1 traps, level 2 wraps, level 3 clips. -/
def boxy (over0 : Nat) : Handle :=
  handleOf 0 0 0 1 (over0 + 4 * 2 + 16 * 3 + 64) 0 0 [levelWord 4 0 4 0, levelWord 65536 7 255 31, levelWord 2 0 8 0, levelWord 1 0 4 0]

/-- A warp with handles h0, h1, quads of zeros at s8 and s12 and of 32s in s20, and these handles besides. -/
def handled (hs : List (Nat × Handle)) : Warp :=
  { withS [(20, 32), (21, 0), (22, 0), (23, 0), (30, 64)] with h := hs ++ [(0, dense 1 0), (1, dense 0 0x1000)] }

/-- HandleInstructions: a good and a bad handle in memory, every kind of field, levels of every form. -/
theorem test_witness_handles :
    (let bytes := fun (h : Handle) => bytesOfNat 32 h.toNat
     let w := handled []
     [dense 1 0, handleOf 5 0 0 0 1 0 0 []].all (fun h =>
       let s := stateOf w [dataLine 32 (zeros 96 ++ bytes h)]
       meets (.thld 0xE2 0x84 3) .none s cur0 w && decide (s.formBlock cur0 w (w.rdPair 0x84 0 + BitVec.ofNat 64 96) 8 8 4 true false = []) &&
         (match s.readLanes cur0 w true 8 (unitAddrs 0x1060 8 4) with
          | .done vals [] q => kept q w && decide (BitVec.ofNat 256 (natOfBytes (blockBytes vals 4)) = h)
          | _ => false)) = true ∧
     handleBad (dense 1 0) = none ∧ handleBad (handleOf 5 0 0 0 1 0 0 []) = some (0x43, 0)) ∧
    (let w := handled []
     [Instr.thset 0xE0 0x84 6, .thset 0xE3 0x82 8, .thset 0xE0 0x82 0, .thset 0xE0 0x82 6, .thset 0xE0 0x84 5, .thget 0x82 0xE0 6,
       .thget 0x82 0xE0 0x17].all (fun i => meets i .none (stateOf w []) cur0 w) = true ∧
     handleField ((w.handle? 0xE0).getD 0) 6 = some (184, 24, 8) ∧ handleField 0 8 = some (0, 32, 0) ∧ handleField 0 0x17 = some (224, 32, 0) ∧
     (w.rdPair 0x84 0).toNat % 2 ^ 8 = 0 ∧ w.rd 0x82 0 = 5 ∧ handleBad (setBits (dense 1 0) 184 24 0x10) = none ∧
     handleBad (setBits (dense 1 0) 252 4 5) = some (0x43, 0)) ∧
    ([1, 2, 3].all (fun k => [0, 1, 2, 3].all (fun j => (levelOf (boxy k) j).isSome) &&
      decide ((levelOf (boxy k) 0).map Level.beyond = some (if k = 1 then .clip else if k = 2 then .trap else .wrap))) = true ∧
     hType (boxy 1) = 0 ∧ (levelOf (boxy 1) 1).map (fun l => (l.bound, l.beyond)) = some (65536, .trap)) := by decide +kernel

/-- CopiesPost: copies from global memory to scratchpad, with a continuation in range and beyond, clipped; a tile split; rows from lanes
and from a list; operands that a check refuses; a handle that is not loaded. -/
theorem test_witness_copies :
    let tile := handleOf 1 0 0 1 5 0 0 [levelWord 64 6 64 5, levelWord 64 6 128 5]
    let full := handleOf 0 2 0 1 5 0 0 [levelWord 64 6 2 0, levelWord 64 6 128 0]
    let (w, z) := (handled [(2, tile), (3, full), (4, rowed 1 0), (6, rowed 0 0x1000)], [0, 0, 0, 0])
    let (s, hd, hs, rd, rs, ixs) := (stateOf w [], dense 1 0, dense 0 0x1000, rowed 1 0, rowed 0 0x1000, w.rowIndices cur0 4)
    [Instr.copy 0xE0 0xE1 0x88 0x8C 0xFF 0xFF 0 0, .copy 0xE5 0xE1 0x88 0x8C 0xFF 0xFF 0 0, .copy 0xE0 0xE1 0x94 0x8C 0xF0 0xFF 1 0,
      .copy 0xE0 0xE1 0x88 0x8C 0xF7 0x84 1 31, .copy 0xE0 0xE2 0x88 0x8C 0xFF 0xFF 0 0, .tsplit 0xE2 0xE3 0x88 0x8C 0xFF 0xFF 0 0,
      .tsplit 0xE0 0xE3 0x88 0x8C 0xFF 0xFF 0 0, .gather 0xE4 0xE6 4 0x88 0xFF 0xFF 0 0 0, .gather 0xE4 0xE6 0x9E 0x88 0xFF 0xFF 0 1 0,
      .gather 0xE6 0xE4 4 0x88 0xFF 0xFF 0 0 0, .scatter 0xE6 0xE4 4 0x88 0xFF 0xFF 0 0 1 0, .scatter 0xE6 0xE4 0x9E 0x88 0xFF 0xFF 1 1 0 1,
      .scatter 0xE4 0xE6 4 0x88 0xFF 0xFF 0 0 1 0].all (fun i => meets i .none s cur0 w) = true ∧
    (w.handle? 0xE5 = none ∧ w.handle? 0xE0 = some hd ∧ w.handle? 0xE1 = some hs ∧ w.handle? 0xE2 = some tile ∧ w.handle? 0xE3 = some full ∧
      w.handle? 0xE4 = some rd ∧ w.handle? 0xE6 = some rs) ∧
    (copyBad hd hs z z = none ∧ copyBad hd hs z [32, 0, 0, 0] = none ∧ copyBad hd tile z z = some (0x43, 1)) ∧
    (tsplitBad tile full z z = none ∧ tsplitBad hd full z z = some (0x43, 0)) ∧
    ((rowsBad rd rs true).or (rowsShape rd rs z 32 ixs true) = none ∧ ixs.length = 32 ∧ rowsBad rs rd true = some (0x43, 2) ∧
      (rowsBad rs rd false).or (rowsShape rs rd z 32 ixs false) = none ∧ rowsBad rd rs false = some (0x43, 2) ∧ s.listBad w 64 0 = none ∧
      rowsShape rd rs z 0 [] true = none ∧ rowsShape rs rd z 0 [] false = none ∧ rowsShape hd hs z 32 ixs true = some (0x40, 2)) ∧
    (let e := EngOp.make cur0 w (.copy hd hs z z) 0 1 none none
     (s.drainBefore cur0 w e (e.ownLines ((copyTasks hd hs z z).flatMap (moveSpans hd)))).any (fun q => kept q w) = true ∧ w.held = none) ∧
    (s.yieldBad cur0 w 1 31 = true ∧ s.yieldBad cur0 w 1 0 = false ∧ s.yieldBad cur0 w 0 0 = false) := by decide +kernel

/-- An operation of warp 0 alone in the engines. -/
def working (w : Warp) (f : EngOp → EngOp) (kind : EngKind) (total : Nat) : State :=
  { stateOf w [dataLine 32 [1, 2, 3, 4], dataLine 33 []] with engines := [(5, f (EngOp.make cur0 w kind 0 total none none))], fresh := 10 }

/-- The result of an engine's read or write is good. -/
def goes (r : EngGot α) : Bool :=
  match r with
  | .ok _ _ => true
  | _ => false

/-- CopyEngineSteps: the task of a copy, good and failing; a row of a gather; a tile of zeros; an operation at its end. -/
theorem test_witness_copy_steps :
    let (w, z, hd, hs) := (handled [], [0, 0, 0, 0], dense 1 0, dense 0 0x1000)
    (let s := working w id (.copy hd hs z z) 1
     s.engReady 5 = true ∧ (copyTasks hd hs z z)[0]?.any (fun ms => match s.readMoves 5 hd hs ms with
      | .ok ps t => goes (t.engStore 5 ps)
      | _ => false) = true) ∧
    (let (far, q) := (handleOf 0 0 0 0 1 (2 ^ 56 - 256) 0 [levelWord 128 2 4 0], [64, 0, 0, 0])
     let s := working w id (.copy hd far z q) 1
     s.engReady 5 = true ∧ (copyTasks hd far z q)[0]?.any (fun ms => match s.readMoves 5 hd far ms with
      | .cause _ _ _ => true
      | _ => false) = true) ∧
    (let s := working w id (.gather hd hs z [0]) 1
     let e := EngOp.make cur0 w (.gather hd hs z [0]) 0 1 none none
     s.engReady 5 = true ∧ gatherTasks hd hs z 1 = [(0, some 0)] ∧ s.engOp? 5 = some e ∧ (match s.rowPuts 5 e true hd hs z 0 with
      | .ok ps t => goes (t.engStore 5 (ps.filter (fun p => some (p.addr / 128) == some 0)))
      | _ => false) = true) ∧
    (let s := working w (fun e => { e with done := 1 }) (.copy hd hs z z) 1
     s.copyFinished 5 = true ∧ w.yieldedOn 5 = false) := by decide +kernel

set_option maxRecDepth 100000 in
/-- CopyEngineSteps: TSPLIT of a region that is clipped everywhere. -/
theorem test_witness_tsplit_step :
    let tile := handleOf 1 0 0 1 5 0 0 [levelWord 64 6 64 5, levelWord 64 6 128 5] ||| BitVec.ofNat 256 (0x3F80 * 2 ^ 168)
    let full := handleOf 0 2 0 1 5 0 0 [levelWord 64 6 2 0, levelWord 64 6 128 0]
    let s := working (handled []) id (.tsplit tile full [0, 0, 0, 0] [64, 0, 0, 0]) 1
    s.engReady 5 = true ∧ (regionOffsets (extentsOf full))[0]? = some [0, 0, 0, 0] ∧ (match s.readRegion 5 full [64, 0, 0, 0] with
     | .ok bits t => (match encodeRegion (fmtOf 2) 3 (hTau tile) 256 0x12 bits with
       | .inl img => decide (img.outs.length ≤ 64) && (match spotOf tile [0, 0, 0, 0] with
         | .at a => goes (t.engStore 5 [{ scr := true, addr := a, align := 128, data := img.image (hTau tile) 0 }])
         | _ => false)
       | _ => false)
     | _ => false) = true := by decide +kernel

/-- CopyEngineSteps: the lines of a GATHER's rows, given and from a list, the last of a row and another, and a row that fails; the
phases of a SCATTER of two rows to one place. -/
theorem test_witness_row_steps :
    let (w, rd, rs, q) := (handled [], rowed 1 0, rowed 0 0x1000, [30, 0, 0, 0])
    ([(.gather rd rs q [0, 1] : EngKind), .gatherList rd rs q 0 2].all (fun kind => [0, 1].all (fun n =>
      let s := working w (fun e => { e with done := n }) kind 4
      match s.engOp? 5 with
      | some e => s.engReady 5 && decide ((gatherTasks rd rs q 2)[n]? = some (0, some n)) &&
        (((gatherTasks rd rs q 2)[n + 1]?).any (fun t => t.1 == 0) == decide (n = 0)) && (match s.rowPuts 5 e true rd rs q 0 with
          | .ok ps t => goes (t.engStore 5 (ps.filter (fun p => some (p.addr / 128) == some n)))
          | _ => false)
      | none => false)) = true) ∧
    (let far := handleOf 0 0 0 0 9 0x1000 0 [levelWord 64 2 4 0, levelWord 64 5 16 0]
     let s := working w (fun e => { e with gath := { e.gath with ids := [1] } }) (.gather rd far q [64, 0]) 4
     (match s.engOp? 5 with
      | some e => s.engReady 5 && (match s.rowPuts 5 e true rd far q 0 with
        | .cause _ _ _ => true
        | _ => false)
      | none => false) = true) ∧
    ([(.scatter rs rd q [1, 1] true : EngKind), .scatterList rs rd q 0 2 true].all (fun kind => [0, 1, 2].all (fun n =>
      let s := working w (fun e => { e with done := n, total := if n = 2 then 3 else 2 }) kind 2
      match s.engOp? 5 with
      | some e => s.engReady 5 && (match s.scatterRows 5 e rs rd q (if n = 0 then [0] else e.goodRows 2) with
        | .ok r t => n != 2 || ((rowLines r.1)[0]?).any (fun line =>
            let here := r.1.map (fun r => (r.1, r.2.filter (fun p => p.addr / 128 == line)))
            let ch := t.chooseUnits here true ((here.flatMap (fun r => r.2.map (fun p => p.addr / 4))).eraseDups);
            goes (ch.2.engStore 5 (here.flatMap (fun r => r.2.filter (fun p => ch.1.contains (p.addr / 4, r.1))))))
        | _ => false)
      | none => false)) = true) := by decide +kernel

/-- A split tile in scratchpad with a spill area at 0x10000, and rows to be encoded into it. -/
def spillTile : Handle := handleOf 1 0 0 1 5 0x1000 1 [levelWord 64 6 64 5, levelWord 64 6 128 5] ||| BitVec.ofNat 256 (0x3F80 * 2 ^ 168)

def splitSource (n : Nat) : Handle := handleOf 0 2 0 1 5 0 0 [levelWord 64 6 2 0, levelWord n 6 128 0]

/-- A TSPLIT of rows of 64 BF16 elements in scratchpad, the first `n` of them 2.0, into a tile with a spill area of this room. -/
def splitting (n room : Nat) : State :=
  let s := working (handled []) id (.tsplit spillTile (splitSource n) [0, 0, 0, 0] [0, 0, 0, 0]) 1
  ({ s with l2 := [dataLine 512 (zeros 8 ++ bytesOfNat 8 room)] } : State).updGroup 2 0 (fun g =>
    { g with scratch := (numsFrom 0 (64 * n)).map (fun j => (2 * j + 1, 0x40)) })

set_option maxRecDepth 100000 in
/-- CopyEngineSteps: a TSPLIT tile with 128 outliers, with room in its spill area; the area without room. -/
theorem test_witness_tsplit_spill :
    (let s := splitting 2 4096
     s.engReady 5 = true ∧ (match s.readRegion 5 (splitSource 2) [0, 0, 0, 0] with
       | .ok bits t => (match encodeRegion (fmtOf 2) 3 (hTau spillTile) 256 0x12 bits with
         | .inl img => decide (64 < img.outs.length) && (match t.takeSpill 5 (hAux spillTile) img.outs.length with
           | .ok (some _) _ => true
           | _ => false)
         | .inr _ => false)
       | _ => false) = true) ∧
    (match (splitting 2 0).takeSpill 5 (hAux spillTile) 128 with
     | .ok none _ => true
     | _ => false) = true := by decide +kernel

/-- CopyEngineSteps: an operation at its end with a counting word, and with a cause. -/
theorem test_witness_copy_ends :
    let (w, z, hd, hs) := (handled [], [0, 0, 0, 0], dense 1 0, dense 0 0x1000)
    (let s := working w (fun e => { e with done := 1, bar := some 16 }) (.copy hd hs z z) 1
     s.copyFinished 5 = true ∧ (match s.engScratch 0 { scr := true, addr := 16, size := 4, align := 4 } with
      | .inl h => !s.badAt h.place h.off 4 && s.peekBytes h.place h.off 4 == zeros 4
      | .inr _ => false) = true) ∧
    (let s := working w (fun e => { e with done := 1, cause := some { code := 0x41, sub := 0, time := 0 } }) (.copy hd hs z z) 1
     s.copyFinished 5 = true ∧ (s.warp? 0).isSome = true ∧ w.yieldedOn 5 = false) := by decide +kernel

/-! ### The matrix engine and the Larkspur index -/

/-- A BF16 operand of 32 columns in bound, at the start of the scratchpad. -/
def operand : Handle := handleOf 0 2 0 1 5 0 0 [levelWord 32 5 2 0, levelWord 128 6 64 0]

/-- A warp with the operand in h2, a drain's destination in h3, tile numbers 0, 1, 3 in s0, s1, s3 and register controls in s30, s31. -/
def computing (trap : Option TrapSave) : Warp :=
  { handled [(2, operand), (3, handleOf 0 0 0 1 5 0 0 [levelWord 128 6 4 0, levelWord 128 6 128 2]), (4, handleOf 1 0 0 1 5 0 0 [])] with
    sreg := [(1, 1), (2, 5), (3, 3), (4, 0x1000), (20, 32), (30, 0x5600F03), (31, 0x10000), (40, 4096)], trap := trap }

/-- Tile 0 is the warp's, tile 1 another's; the quad of a workgroup of four warps is published. -/
def tileState (w : Warp) (acctiles : Nat) : State :=
  inGroup w (fun g => { g with
    tiles := [(0, { Tile.reset with owner := some 0 }), (1, { Tile.reset with owner := some 1 })]
    quarters := (numsFrom 0 4).map (fun p => (p, { handle := operand, coord := [0, 0, 0, 0], clearance := none })) })
    (fun l => { l with wgWarps := 4, acctiles := acctiles })

/-- What trap entry saves. -/
def trapSave0 : TrapSave :=
  { path := 0, pc := 0x100, len := 1, mode := 0, old := warp0.path 0, replay := Mask.full, code := 0x57, begun := Mask.full, suspended := [1]
    sync := 0 }

/-- MatrixOperationsPost: one and 4096 steps, an operand and a quad; both data forms, in trap mode too; tiles of every kind. -/
theorem test_witness_matrix :
    let (w, z) := (computing none, [0, 0, 0, 0])
    let s := tileState w 4
    let q : Quarter := { handle := operand, coord := z, clearance := none }
    [Instr.mma 0x80 0xE2 0xE2 0x88 0x8C, .mma 0x80 0xE2 0xFF 0x88 0xFF, .mmaloop 0x80 0xE2 0xE2 0x88 0x8C 0x90 0xA8,
      .mmaloop 0x80 0xE2 0xFF 0x88 0xFF 0x94 0x82, .mload 0x80 0xE3 0x88, .mload 0x80 32 0x9F, .mdrain 0xE3 0x80 0x88 0xFF 1,
      .mdrain 32 0x80 0x9F 0x99 0, .bput 0xE2 0x88, .maccAlloc 0x98, .maccFree 0x80, .maccFree 0x83, .maccFree 0x81,
      .mma 0x83 0xE2 0xE2 0x88 0x8C, .mma 0x81 0xE2 0xE2 0x88 0x8C, .mma 0x82 0xE2 0xE2 0x88 0x8C].all (fun i => meets i .none s cur0 w) = true ∧
    (s.headerField w Launch.acctiles = 4 ∧ (s.tileOf? 0 0).bind Tile.owner = some 0 ∧ (s.tileOf? 0 1).bind Tile.owner = some 1 ∧
      (s.tileOf? 0 3).bind Tile.owner = none ∧ (s.tileOf? 0 2).bind Tile.owner = none ∧ 3 < (w.rd 0x82 0).toNat ∧ s.tileOps 0 0 = []) ∧
    (operandBad operand = none ∧ coordsBad (stepBoxes q [q] z 1) = none ∧ coordsBad (stepBoxes q [q, q, q, q] [32, 0, 0, 0] 5) = none ∧
      s.quadFits w = true ∧ s.quarters? w = some [q, q, q, q] ∧ coordsBad [(operand, 32, [0, 0, 0, 0])] = none) ∧
    ((s.dataForm w 0xE3 0x88 8 matches .scratch _ _) = true ∧ (s.dataForm w 32 0x9F 8 matches .regs 2 0 0) = true) ∧
    (let w1 := computing (some trapSave0)
     let s := tileState w1 4
     meets (.mdrain 32 0x80 0x9F 0x99 1) .none s cur0 w1 = true ∧ (s.dataForm w1 32 0x9F 16 matches .regs 2 0 0) = true) ∧
    (let s := tileState w 2
     meets (.maccAlloc 0x98) .none s cur0 w = true ∧ s.headerField w Launch.acctiles = 2) ∧
    (meets (.bput 0xE2 0x88) .none (stateOf w []) cur0 w = true ∧ (stateOf w []).quadFits w = false) := by decide +kernel

/-- A tile operation of warp 0. -/
def tiling (f : EngOp → EngOp) (kind : EngKind) : State :=
  { tileState (computing none) 4 with engines := [(5, f (EngOp.make cur0 (computing none) kind 0 1 none none))], fresh := 10 }

/-- MatrixSteps: a step whose operands are clipped, a load from registers, the end of an operation, blocks without outliers. -/
theorem test_witness_matrix_steps :
    (let q : Quarter := { handle := operand, coord := [32, 0, 0, 0], clearance := none }
     let s := tiling id (.mma 0 q [q] [0, 0, 0, 0] 1 false)
     s.tileReady 5 = true ∧ (s.tileOf? 0 0).isSome = true ∧ (match s.readOperand 5 0 q 128 (stepCoord q 0 0 0) with
      | .ok ra u => ra.all (fun r => !r.lost) && (match engMap [q] u (fun b s => s.readOperand 5 0 b (quarterRows [q]) (stepCoord b 0 0 0)) with
        | .ok rb v => rb.flatten.all (fun r => !r.lost) && decide (v.tileOf? 0 0 = s.tileOf? 0 0)
        | _ => false)
      | _ => false) = true) ∧
    ((tiling id (.loadReg 0 [(0, 1), (16383, 2)])).tileReady 5 = true ∧ (Assoc.keys [(0, (1 : Word)), (16383, 2)]).Nodup) ∧
    (let s := tiling (fun e => { e with done := 1 }) (.loadReg 0 [])
     s.tileFinished 5 = true ∧ (computing none).yieldedOn 5 = false) ∧
    (List.replicate 128 KRow.clipped).length = 128 ∧ (∀ p ∈ KRow.clipped.els, p.2 = none) := by decide +kernel

/-- MatrixSteps: a drain of a clean tile whose destination lies beyond a clip level: it writes nothing. -/
theorem test_witness_drain :
    let h := handleOf 0 0 0 1 5 0 0 [levelWord 1 6 4 0, levelWord 128 6 128 2]
    let s := tiling id (.drain 0 h [128, 0, 0, 0] true 0xFF)
    s.tileReady 5 = true ∧ (s.tileOf? 0 0).any (fun x => (x.drainBad (fun _ => true)).isNone) = true := by decide +kernel

/-- The R51 block: these levels and outliers at their k, zeros elsewhere. -/
def blockRow (scale : Nat) (els : List (Nat × Int × Option Nat)) : KRow :=
  { scale := scale, lost := false, els := (numsFrom 0 32).map (fun k => Assoc.get els (0, none) k) }

/-- R50, R51: the worked block, and the exact product of two outliers in range. -/
theorem test_merge_block :
    mergeAt 0x4B800000
        (blockRow 0x208 [(0, 3, none), (1, -2, none), (5, 0, some 0x42C8), (9, 7, none), (12, 1, none), (20, 0, some 0xC184)])
        (blockRow 0x1E0 [(0, 5, none), (1, 4, none), (5, -1, none), (9, -7, none), (12, 0, some 0x4040), (20, 0, some 0x4000)]) =
      0x4B7FFFBA := by decide +kernel

theorem eachLeft_const {α β : Type} (f : α → β ⊕ Nat) (y : β) (xs : List α) (h : ∀ x ∈ xs, f x = .inl y) :
    eachLeft xs f = .inl (List.replicate xs.length y) := by
  induction xs with
  | nil => rfl
  | cons a r ih => simp [eachLeft, h a, ih (fun x hx => h x (List.mem_cons_of_mem a hx)), List.replicate_succ]

/-- MatrixSteps: an MLOAD and an MDRAIN beyond a clip level, drains with a status and to registers. -/
theorem test_witness_tile_moves :
    let h := handleOf 0 0 0 1 21 0 0 [levelWord 128 6 4 0, levelWord 128 6 128 2, levelWord 1 0 4 0]
    (∃ els, eachLeft (tileBox [0, 0, 1, 0]) (fun c => (tiling id (.load 0 h [0, 0, 1, 0])).loadElement 0 h c) = .inl els ∧
      ∀ y ∈ els, y.2 = false) ∧
    (tiling id (.load 0 h [0, 0, 1, 0])).tileReady 5 = true ∧
    [(EngKind.drain 0 h [0, 0, 1, 0] true 0x82), .drainReg 0 32 2 0 0 false 0x82 Mask.full].all (fun kind =>
      let s := tiling id kind
      s.tileReady 5 && (s.tileOps 0 0).all (fun y => !decide (y.1 < 5)) && (s.tileOf? 0 0).any (fun x => x.bad.isEmpty && !x.poisoned && !x.mismatch)) =
      true ∧ classOf 0x82 = .uniform := by
  refine ⟨⟨_, eachLeft_const _ (0, false) _ (fun c hc => ?_), fun y hy => by rw [List.eq_of_mem_replicate hy]⟩, by decide +kernel⟩
  obtain ⟨i, -, rfl⟩ := List.mem_map.mp hc
  have hs : stepAddress (handleOf 0 0 0 1 21 0 0 [levelWord 128 6 4 0, levelWord 128 6 128 2, levelWord 1 0 4 0])
      (addCoord [0, 0, 1, 0] [i % 128, i / 128, 0, 0]) = none := by
    have h2 : stepAdjust (levelOf (handleOf 0 0 0 1 21 0 0 [levelWord 128 6 4 0, levelWord 128 6 128 2, levelWord 1 0 4 0]) 2)
        (nth (addCoord [0, 0, 1, 0] [i % 128, i / 128, 0, 0]) 2) = none := by
      show stepAdjust _ 1 = none
      decide +kernel
    unfold stepAddress
    simp only [List.mapM_cons, h2]
    cases stepAdjust _ (nth (addCoord [0, 0, 1, 0] [i % 128, i / 128, 0, 0]) 0) <;>
      cases stepAdjust _ (nth (addCoord [0, 0, 1, 0] [i % 128, i / 128, 0, 0]) 1) <;> rfl
  simp only [State.loadElement, hs]

/-- A batch of the warp, pending. -/
def batch0 (seq : Nat) : Batch := { seq := seq, posted := 1, pc := 0x100, ops := [5], bar := none, cause := none, complete := false }

/-- BatchesAndTokens: one batch and 256; a batch whose operation is complete; tokens invalid, pending, done; a held WAITT. -/
theorem test_witness_batches :
    (let w := { warp0 with openBatch := [5], tok := [(1, .op 5), (2, .op 6), (3, .batch 0)], batches := [{ batch0 0 with complete := true }] }
     let s : State := { working w id (.loadReg 0 []) 1 with fresh := 10 }
     [Instr.mbatch 0xF7 0xFF, .mbatch 0xFF 0x82, .waitt 0xF0, .waitt 0xF1, .waitt 0xF2, .waitt 0xF3].all (fun i => meets i .none s cur0 w) = true ∧
     w.token 0xF0 = .invalid ∧ s.tokenBusy w (w.token 0xF1) = true ∧ s.tokenBusy w (w.token 0xF2) = false ∧ s.tokenBusy w (w.token 0xF3) = false ∧
     (∀ e ∈ (s.awaited 0 w (w.token 0xF3)).1, e.2.cause = none) ∧ (∀ b ∈ (s.awaited 0 w (w.token 0xF3)).2, b.cause = none)) ∧
    (let w := { warp0 with batches := (numsFrom 0 256).map batch0 }
     meets (.mbatch 0xFF 0xFF) .none (stateOf w []) cur0 w = true ∧ (w.batches.filter (fun b => !b.complete)).length = 256) ∧
    (let w := { warp0 with batches := [batch0 0] }
     let s := working w (fun e => { e with complete := true }) (.loadReg 0 []) 1
     s.warp? 0 = some w ∧ w.batches.find? (fun b => !b.complete) = some (batch0 0) ∧ ∀ e, s.engOp? 5 = some e → e.complete = true) ∧
    (let w := { warp0 with tok := [(2, .op 6)], held := some { why := .waitt, cur := cur0, i := some (.waitt 0xF2) } }
     (stateOf w []).tokenBusy w (w.token 0xF2) = false ∧ w.halt = none ∧ w.token 0xF2 = .op 6) := by decide +kernel

/-- BatchesAndTokens: a batch whose word at 16 takes the arrival, is malformed, is uncorrectable; one whose word lies outside. -/
theorem test_witness_batch_word :
    let go := fun (off : Nat) (scratch : List (Nat × Byte)) (bad : List (Nat × Bool)) =>
      (working { warp0 with batches := [{ batch0 0 with bar := some off }] } (fun e => { e with complete := true }) (.loadReg 0 []) 1).updGroup 2 0
        (fun g => { g with scratch := scratch, badScratch := bad })
    let word := fun (s : State) => match s.engScratch 0 { scr := true, addr := 16, size := 4, align := 4 } with
      | .inl h => if s.badAt h.place h.off 4 then none else some (arriveWord (BitVec.ofNat 32 (natOfBytes (s.peekBytes h.place h.off 4))) 1)
      | .inr _ => none
    word (go 16 [(16, 3), (17, 0x40), (19, 1)] []) = some (some 0x02004000) ∧ word (go 16 [(16, 4), (17, 0x40)] []) = some none ∧
    word (go 16 [] [(4, true)]) = none ∧
    ((go 65536 [] []).engScratch 0 { scr := true, addr := 65536, size := 4, align := 4 } matches .inr _) = true ∧
    [go 16 [] [], go 65536 [] []].all (fun s => (s.warp? 0).any (fun w => (w.batches.find? (fun b => !b.complete)).isSome) &&
      (s.engOp? 5).all (fun e => e.complete)) = true := by decide +kernel

/-- A descriptor: 16 buckets from 0x900 on, keys and values at 0x1000, stride 128, 16 tokens, 64 elements of BF16. -/
def descriptor (elem : Nat) : List Byte :=
  [1, 0x900, 0, 0x1000, 0x1000].flatMap (bytesOfNat 8) ++ bytesOfNat 4 128 ++ bytesOfNat 4 16 ++ [4, 0, BitVec.ofNat 8 elem] ++ zeros 13

def index0 : Index := indexOf (descriptor 2)

/-- A warp with that index in slot 0; s0 = 0, s1 = 15, s3 = 16, s8:s11 a budget of 4, s12:s15 of 4097. -/
def indexed : Warp :=
  { withS [(1, 15), (3, 16), (6, 1), (8, 0), (9, 1024), (10, 2048), (11, 4), (12, 0), (13, 1024), (14, 2048), (15, 4097), (16, 257)] with
    index := [(0, index0)] }

/-- IndexInstructions: a good and a bad descriptor, the last token below the limit and the first beyond, budgets, an empty slot. -/
theorem test_witness_index :
    ([(2, none), (3, some (0x1D, 0x32))].all (fun (e : Nat × Option (Nat × Nat)) =>
      let s := stateOf indexed [dataLine 32 (descriptor e.1)]
      meets (.kidx 3 0x84) .none s cur0 indexed && meets (.kidx 0 0xFF) .none s cur0 indexed &&
      decide (s.formBlock cur0 indexed (indexed.rdPair 0x84 0) 64 8 8 true false = []) &&
      (match s.readLanes cur0 indexed true 8 (unitAddrs 0x1000 8 8) with
       | .done vals [] q => kept q indexed && decide (indexBad (blockBytes vals 8) = e.2)
       | _ => false)) = true) ∧
    (let (w, s) := (indexed, stateOf indexed [])
     [Instr.qsig 5 2 0x80, .kstore 0x80 0x80 0xFF 0x80 0xFF 0xFF 0 0 0, .kstore 0x81 0x80 0x80 0x86 0xFF 0xFF 0 1 0,
       .kstore 0x83 0x80 0xFF 0x86 0xFF 0xFF 0 0 0, .kstore 0x80 0x80 0xFF 0x90 0xF0 0x84 1 0 0, .bgather 0x88 0x81 0xF0 0xFF 2 0 0,
       .bgather 0x88 0x83 0xFF 0xFF 0 0 0, .bgather 0x8C 0x81 0xFF 0xFF 0 0 1, .kstore 0x80 0x80 0xFF 0x86 0xFF 0xFF 0 0 3,
       .bgather 0x88 0x80 0xFF 0xFF 0 3 0].all (fun i => meets i .none s cur0 w) = true ∧
     (w.slotOf 0 = some index0 ∧ w.slotOf 3 = none ∧ index0.limit = 16 ∧ index0.bits = 4 ∧ index0.row = 128) ∧
     ((w.onLanes none (onceR 5 [2]) cur0).any (fun l => s.vectorHeld cur0 w index0 (w.rd 2 l).toNat) = false ∧
       (s.settle (fun _ y => (w.path 0).follows 0 y)).any (fun q => kept q w) = true) ∧
     (∀ l, l < 32 → s.rangeBad w (w.rd 2 l).toNat index0.row index0.size = none ∧ s.badAt (.scratch 2 0) (w.rd 2 l).toNat index0.row = false) ∧
     (s.rangeBad w 0 index0.row index0.size = none ∧ s.rangeBad w 1024 (4 * index0.row) 16 = none ∧ s.rangeBad w 2048 32 16 = none)) := by
  decide +kernel

/-- IndexSteps: a token of zeros, the last bucket of a search, a token below the limit and one at it. -/
theorem test_witness_index_steps :
    (let s := working indexed id (.kstore index0 0 0 0 1 false true) 1
     s.engReady 5 = true ∧ goes (s.storeToken 5 index0 0 0 0 false true) = true) ∧
    (let kind : EngKind := .bgather index0 15 0 1024 2048 4 0 false
     let go := fun (todo ids : List Nat) => working indexed (fun e => { e with gath := { e.gath with todo := todo, ids := ids } }) kind 1
     ((go [15] []).engReady 5 = true ∧ (match ((go [15] []).freshReads 5).poolHead 5 index0 with
       | .ok p u => (match u.indexLine 5 (index0.head 15) with
         | .ok bs _ => !lineLossy bs && !lineBad bs p.2
         | _ => false)
       | _ => false) = true) ∧
     ((go [] [0]).engReady 5 = true ∧ (match (go [] [0]).tokenRows 5 index0 0 with
       | .ok (some (kb, vb)) u => goes (u.engStore 5 [{ scr := true, addr := 0, align := 4, data := kb }, { scr := true, addr := 1024, align := 4, data := vb },
           { scr := true, addr := 2064, align := 4, data := bytesOfNat 4 0 }])
       | _ => false) = true) ∧
     ((go [] [16]).engReady 5 = true ∧ index0.limit ≤ 16)) := by decide +kernel

/-- An index whose bucket 15 is the line at 0x1000 and whose pool begins at 0x1080: the head line, the pool's capacity, and a search that
has come this far. -/
def chained (head : List Byte) (cap : Nat) (f : Gathering → Gathering) : State :=
  let x := { index0 with buckets := 0x880, pool := 0x1080 }
  let e := fun (e : EngOp) => { e with gath := f e.gath }
  { working indexed e (.bgather x 15 0 1024 2048 4 0 false) 1 with
    l2 := [dataLine 32 head, dataLine 33 (bytesOfNat 8 1 ++ bytesOfNat 8 cap), dataLine 34 []] }

/-- IndexSteps: head lines that are lossy, malformed, linked within the pool and beyond; an extension line at its limit and past it. -/
theorem test_witness_chain :
    let x := { index0 with buckets := 0x880, pool := 0x1080 }
    ([([0, 1], true, false), ([31], false, true), ([0, 0, 1], false, false), ([0, 0, 5], false, false)].all (fun (e : List Byte × Bool × Bool) =>
      let s := chained e.1 2 (fun g => { g with todo := [15] })
      s.engReady 5 && (match (s.freshReads 5).indexLine 5 (x.head 15) with
        | .ok bs u => (lineLossy bs == e.2.1) && (e.2.1 || lineBad bs (lineNext bs) == e.2.2) && (match u.poolHead 5 x with
          | .ok p _ => p.2 == 2
          | _ => false)
        | _ => false)) = true) ∧
    ([0, 2].all (fun n =>
      let s := chained [] 2 (fun g => { g with todo := [], next := some (1, n) })
      s.engReady 5 && (match (s.freshReads 5).poolHead 5 x with
        | .ok p t => decide (p.2 ≤ n) == decide (n = 2) && (n == 2 || (match t.indexLine 5 (x.poolLine 1) with
          | .ok bs _ => !lineBad bs (lineNext bs)
          | _ => false))
        | _ => false)) = true) := by decide +kernel

/-- IndexSteps: a token that the clearance denies, one past the budget, a token of a KSTORE whose row is absent, one whose key is. -/
theorem test_witness_tokens :
    ([0, 5].all (fun (tag : Nat) =>
      let s := { chained [] 2 (fun g => { g with todo := [], ids := [0], count := 4 }) with
        l2 := [{ dataLine 32 [] with tag := tag }, { dataLine 33 [] with tag := tag }] }
      s.engReady 5 && (match s.tokenRows 5 index0 0 with
       | .ok rows _ => rows.isNone == (tag != 0)
       | _ => false)) = true) ∧
    (let s := working indexed id (.kstore index0 15 0 0 1 false false) 1
     (match s.storeToken 5 index0 15 0 0 false false with
      | .pause _ _ => true
      | _ => false) = true ∧
     (match s.storeToken 5 index0 0 0x10000 0 false false with
      | .cause _ _ _ => true
      | _ => false) = true) := by decide +kernel

/-! ### Traps, special registers, address spaces, safe points, launches -/

/-- Four lines at 0x1000 and two at 0x2100, the first with these bytes, and the context registers of ASID 0. -/
def ctxState (w : Warp) (bytes : List Byte) (f : Ctx → Ctx) : State :=
  (stateOf w [dataLine 32 bytes, dataLine 33 [], dataLine 34 [], dataLine 35 [], dataLine 66 [], dataLine 67 []]).updCtx 0 f

/-- TrapsEnterTheHandler: a handler and a frame at 0x1000; no handler; in trap mode, in save mode. -/
theorem test_witness_trap_entry :
    (let s := ctxState warp0 [] (fun k => { k with frames := 0x1000 }) |>.updLaunch 1 (fun l => { l with trap := 0x140 })
     let f := s.infoOf cur0 { code := 0x57, sub := 3, lanes := cur0.lanes, addrs := [], other := false }
     meets (.trap 0x82) .none s cur0 warp0 = true ∧ meets (.trapFrame 0x86) .none s cur0 warp0 = true ∧ (warp0.path 0).replayOp = none ∧
     warp0.pre = .normal ∧ warp0.trap = none ∧ s.headerField warp0 Launch.trap ≠ 0 ∧
     (match s.writeRecord cur0 warp0 f with
      | .ok () q => decide (q.warp? 0 = some warp0)
      | _ => false) = true ∧
     s.accesses.isEmpty = true ∧
     (match (s.updCtx 0 (fun k => { k with frames := 0x4000 })).writeRecord cur0 warp0 f with
      | .cause _ _ _ => true
      | _ => false) = true ∧
     (let x := access0 .store [{ lane := 0, va := 0x1000, voff := 0, off := 0, size := 4, data := [1, 2, 3, 4] }]
      let y := { x with acq := true, kind := .rmw 0 0 }
      let s1 : State := { s with
        accesses := [(5, y)], engines := [(6, { EngOp.make cur0 warp0 (.loadReg 0 []) 0 1 none none with owned := [(.line 0 32, 0)] })] }
      (match s1.writeRecord cur0 { warp0 with seq := 3 } f with
       | .wait q => (q.warp? 0).isSome
       | _ => false) = true)) ∧
    (let s := ctxState warp0 [] id |>.updLaunch 1 (fun l => { l with trap := 0x140 })
     s.heldLog = [] ∧ s.headerField warp0 Launch.trap ≠ 0 ∧ (s.appendFault (zeros 128)).1 = .full ∧
     (({ s with faultlog := 0x8000 } : State).appendFault (zeros 128)).1 = .failing ∧
     (({ ctxState warp0 (zeros 16 ++ [4]) id with faultlog := 0x1000 } : State).appendFault (zeros 128)).1 = .done) ∧
    (state0.headerField warp0 Launch.trap = 0 ∧ state0.warp? 0 = some warp0) ∧
    (let w := computing (some trapSave0)
     (stateOf w []).warp? 0 = some w ∧ w.trap.isSome = true ∧ w.pre = .normal) ∧
    (let w := { warp0 with pre := .saving 1 }
     (stateOf w []).warp? 0 = some w ∧ w.pre ≠ .normal) := by decide +kernel

/-- TrapsReturn: all the lanes of the handler; half of them; targets in range and beyond. -/
theorem test_witness_trap_return :
    let is := [Instr.eretRetry, .eretSkip, .eretTo 0x84, .eretTo 0x86]
    (let w := { withS [(7, 0x1000000)] with trap := some trapSave0 }
     let s := stateOf w []
     is.all (fun i => meets i .trapMode s cur0 w) = true ∧ (w.path 0).mask = trapSave0.begun &&& w.live ∧
     (pairTarget (w.rdPair 0x84 0)).toNat < 2 ^ 56 ∧ 2 ^ 56 ≤ (pairTarget (w.rdPair 0x86 0)).toNat ∧ w.paths.length = 8 ∧
     trapSave0.old.status = .run ∧ trapSave0.path < 8 ∧ trapSave0.sync ≠ 2 ∧ (s.ctxOf w.asid).replay.toNat % 4 = 0 ∧
     w.slice.active = false) ∧
    (let old := { warp0.path 0 with arr := some 0x200 }
     (old.arr = some 0x200 ∧ old.mask &&& warp0.live ≠ 0 ∧ { warp0.path 0 with status := .wait }.status = .wait)) ∧
    (let w := { warp0 with trap := some { trapSave0 with sync := 2 } }
     is.all (fun i => i == .eretTo 0x86 || meets i .trapMode (stateOf w []) cur0 w) = true ∧ (w.path 0).mask = trapSave0.begun &&& w.live) ∧
    (let w := { warp0 with trap := some { trapSave0 with begun := 0xFFFF } }
     is.all (fun i => meets i .trapMode (stateOf w []) cur0 w) = true ∧ (w.path 0).mask ≠ 0xFFFF#32 &&& w.live) := by decide +kernel

/-- PrivilegeIsChecked: a warp of ASID 1, without launch privilege, outside trap mode. -/
theorem test_witness_privilege :
    let w := { warp0 with asid := 1, launchPriv := false }
    let s := stateOf w []
    s.cur = some cur0 ∧ s.warp? 0 = some w ∧ w.asid ≠ 0 ∧ w.launchPriv = false ∧ w.trap = none := by decide +kernel

/-- SpecialRegisterWrites: good values, an ASID of 512, a reserved bit, ASID 0; another warp of ASID 1; both forms of faultlog. -/
theorem test_witness_special :
    let w := withS [(0, 1), (1, 512), (2, 0), (8, 0), (9, 0), (12, 4)]
    let w1 := { warp0 with asid := 1, warpId := 1 }
    let s : State := { stateOf w [dataLine 32 [], dataLine 33 []] with warps := [(0, w), (1, w1)], live := 3 }
    [Instr.mtsr 0x20 0x82 0x80, .mtsr 0x20 0x82 0x81, .mtsr 0x2D 0x82 0x80, .mtsrCtxPreempt 0x80 0x80, .mtsrCtxPreempt 0x8C 0x80,
      .mtsrCtxPreempt 0x80 0x82, .mtsrCtxHalt 0x80 0x80, .mtsrCtxHalt 0x80 0x8C, .mtsrCtxLcbins 0x88 0x80, .mtsrCtxLcbins 0x84 0x80,
      .mtsrFaultlog 0x88 0x82, .mtsrFaultlog 0x84 0x82].all (fun i => meets i .supervisor s cur0 w) = true ∧
    [Instr.mtsrFpflags 4, .bkpt 7, .perfrd 0x86 5 0, .perfrd 0x86 0 15].all (fun i => meets i .none s cur0 w) = true ∧
    (s.mtsrCause 0x20 1 0 = none ∧ s.mtsrCause 0x20 512 0 = some (0x33, 2) ∧ s.mtsrCause 0x26 1 1 = none ∧ s.mtsrCause 0x26 1 4 = some (1, 0) ∧
      s.mtsrCause 0x26 0 1 = some (0x33, 1) ∧ s.mtsrCause 0x2E 1 0 = none ∧ s.mtsrCause 0x2E 1 0x1000 = none ∧ s.mtsrCause 0x30 0 0x1000 = none) ∧
    (s.updCtx 1 (fun k => k.write 0x20 0)).debugOn w = false ∧ (Assoc.keys s.warps).Nodup ∧ s.warp? 1 = some w1 ∧
    (s.warpsOf 1 = [(1, w1)] ∧ w1.live ≠ 0 ∧ w1.halt = none ∧ s.warpsOf 4 = [] ∧ 1 < s.live.toNat) ∧
    readsDone (s.readLanes cur0 w true 16 (unitAddrs 0x1000 16 16)) w = true := by
  decide +kernel

/-- SpecialRegisterWrites: in the non-secure authorised state the debug selectors are accepted. -/
theorem test_witness_halt :
    ({ state0 with lock := Lock.nonSecure } : State).mtsrCause 0x2F 1 1 = none ∧
    meets (.mtsrCtxHalt 0x82 0x82) .supervisor { state0 with lock := Lock.nonSecure } cur0 warp0 = true ∧
    ([PathHold.none, .remote 9 cur0 false []].all (fun hold =>
      let w := withS [(0, 1), (1, 0)]
      let w1 := { (onPath (fun q => { q with hold := hold })) with asid := 1, warpId := 1 }
      let s : State := { stateOf w [] with warps := [(0, w), (1, w1)], lock := Lock.nonSecure }
      [Instr.mtsrCtxHalt 0x80 0x80, .mtsrCtxHalt 0x81 0x80].all (fun i => meets i .supervisor s cur0 w) &&
      decide (s.mtsrCause 0x2F 1 1 = none) && decide (s.mtsrCause 0x2F 1 0 = none) && decide (s.warpsOf 1 = [(1, w1)]) &&
      (w1.atBoundary == (hold == .none)) && decide (w1.live ≠ 0) && w1.halt.isNone && decide (s.warp? 1 = some w1)) = true) := by
  decide +kernel

/-- TranslationInstructions: ASIDs 0, 511 and 512, addresses below and at 2^56, a bitmap at 0x1000 and one misaligned. -/
theorem test_witness_translation :
    let w := withS [(0, 0), (1, 511), (6, 512), (9, 0x1000000), (10, 0x1004), (11, 0)]
    let ls := (numsFrom 32 64).map (fun n => dataLine n [1])
    let s := stateOf w ls
    [Instr.tlbinvPage 0x84 0x81, .tlbinvPage 0x84 0x86, .tlbinvPage 0x88 0x80, .tlbinvAsid 0x81, .tlbinvAsid 0x86, .tlbinvAll, .asinv 0x80,
      .asinv 0x86, .asinv 0x81, .clrset 0xFF, .clrset 0x84, .clrset 0x88, .clrset 0x8A].all (fun i => meets i .supervisor s cur0 w) = true ∧
    (w.rdPair 0x84 0).toNat = 0x1000 ∧ 2 ^ 56 ≤ (w.rdPair 0x88 0).toNat ∧ (w.rdPair 0x8A 0).toNat % 256 ≠ 0 ∧
    s.formBlock cur0 w 0x1000 256 128 64 true false = [] ∧ (match s.bitmapLoads cur0 w 0x1000 64 with
      | .ok _ q => kept q w
      | _ => false) = true ∧
    (match ({ s with l2 := loaderLine 0x7F000000 :: ls.take 3 } : State).bitmapLoads cur0 w 0x1000 64 with
      | .cause _ _ _ => true
      | _ => false) = true ∧
    (let all := fun (_ : Nat) => true
     let a := access0 .store [{ lane := 0, va := 0x1000, voff := 0, off := 0, size := 4, data := [1, 2, 3, 4] }]
     [some (0x30, 0), none].all (fun paused =>
       let e := { EngOp.make cur0 w (.loadReg 0 []) 0 1 none none with owned := [(.line 0 32, 0)], paused := paused }
       let s1 : State := { s with accesses := [(5, a)], engines := [(6, e)] }
       let q := s1.recallOwners (fun o => s1.selectedPlace all all o.1)
       (q.settlePast (fun _ a => q.selectedAccess all all a)).isSome == paused.isSome) = true) := by decide +kernel

/-- ResumeAndLimits: a ticket of a parked path, none; an ASID with and without warps; limits reached; an entry the log takes. -/
theorem test_witness_resume :
    (let x : Cause := { code := 0x30, sub := 0, lanes := 1, addrs := [], other := false }
     let w := withS [(0, 9), (1, 1), (6, 8)]
     let w1 := { (onPath (fun q => { q with hold := .parked 9 x 0x100 1 })) with asid := 1, warpId := 1 }
     let s : State := { stateOf w [] with warps := [(0, w), (1, w1)], tickets := [(9, .path 1 0)] }
     [Instr.resumeReplay 0x88 0x80, .resumeReplay 0x88 0x86, .resumeDeliver 0x88 0x80, .resumeDeliver 0x88 0x86, .resumeTerm 0x88 0x81,
       .resumeTerm 0x88 0x8C, .resumeTerm 0x88 0x86].all (fun i => meets i .supervisor s cur0 w) = true ∧
     (Assoc.at? s.tickets 9 = some (.path 1 0) ∧ s.warp? 1 = some w1 ∧ (w1.path 0).hold = .parked 9 x 0x100 1) ∧
     (s.resumeTicket 8 false = none ∧ s.resumeTicket 8 true = none ∧ (s.resumeTicket 9 false).any (fun q => kept q w) = true ∧
       (s.resumeTicket 9 true).any (fun q => kept q w) = true) ∧
     s.warpsOf 8 = [] ∧ (∀ l ∈ s.launches, l.2.asid ≠ 8) ∧ s.warpsOf 1 ≠ [] ∧ kept (s.terminate 1) w = true) ∧
    ([0x51, 0x52, 0x53].all (fun code =>
      let x : Cause := { code := code, sub := 0, lanes := 1, addrs := [], other := false }
      let w := onPath (fun q => { q with hold := .debug 9 x 0x100 1 })
      let s : State := { stateOf w [] with tickets := [(9, .path 0 0)] }
      decide ((w.path 0).hold = .debug 9 x 0x100 1) && decide (s.warp? 0 = some w) && (s.resumeTicket 9 false).isSome) = true) ∧
    (let x : Cause := { code := 0x5C, sub := 0, lanes := 1, addrs := [], other := false }
     let stopped := { warp0 with held := some { why := .stopped 9 x 1, cur := cur0, i := none } }
     let halted := { warp0 with halt := some 9 }
     [stopped, halted].all (fun w =>
       let s : State := { stateOf w [] with tickets := [(9, .warp 0)] }
       decide (s.warp? 0 = some w) && (s.resumeTicket 9 false).isSome) = true) ∧
    ([none, some ({ code := 0x41, sub := 0, time := 0 } : HeldCause)].all (fun held =>
      let s : State := { working warp0 (fun e => { e with paused := some (0x1000, 9), cause := held }) (.loadReg 0 []) 1 with
        tickets := [(9, .engine 5)] }
      (s.engOp? 5).any (fun e => decide (e.paused = some (0x1000, 9)) && decide (e.cause = held))) = true) ∧
    (let w := { warp0 with held := some { why := .mwait, cur := cur0, i := some (.mwaitNe 0x84 0x82) }, watch := 1024 }
     (ctxState w [] (fun k => { k with wdog := 1 })).watchDue w = true ∧ w.atBoundary = true ∧ w.nextPath = cur0.p) ∧
    (let w := { warp0 with trap := some trapSave0, handler := 1024 }
     (ctxState w [] (fun k => { k with hlimit := 1 })).handlerDue w = true ∧ w.atBoundary = true) ∧
    (let w := { warp0 with pending := true, overdue := 1024 }
     (ctxState w [] (fun k => { k with overdue := 1 })).overdueDue w = true ∧ w.atBoundary = true) ∧
    (let s : State := { ctxState warp0 (zeros 16 ++ [4]) id with faultlog := 0x1000 }
     (s.appendFault (zeros 128)).1 = .done) := by decide +kernel

/-- SafePoints: entry 1 of a table at 0x1000 with its routines, a pool at 0x1080 and a record at 0x2000; entry 0 is empty. -/
theorem test_witness_safe :
    let go := fun (w : Warp) =>
      { (ctxState w (zeros 8 ++ [0x10, 1, 0, 0, 0x20, 1, 0, 0]) (fun k => { k with save := 0x1080 })) with
        l2 := loaderLine 0x7F000000 :: [dataLine 32 (zeros 8 ++ [0x10, 1, 0, 0, 0x20, 1, 0, 0]), dataLine 33 ([0, 0x20] ++ zeros 10 ++ [1]),
          dataLine 66 [], dataLine 67 []], warps := [(0, w), (1, { warp0 with warpId := 1 })] } |>.updLaunch 1 (fun l => { l with safeTable := 0x1000, safeCount := 2 })
    let reads := fun (s : State) (w : Warp) (k save : Nat) => match s.launchOf w with
      | some l => decide (l.safeCount = 2) && (match s.safeEntry (w.who 0 0) l k cur0.lanes with
        | .entry a _ q => a == save && kept q w && (q.opsOf 0).all (fun e => e.2.cause.isNone)
        | _ => false)
      | none => false
    (let s := go warp0
     [Instr.safe 0, .safe 1, .safe 2].all (fun i => meets i .none s cur0 warp0) = true ∧ reads s warp0 0 0 = true ∧ reads s warp0 1 0x110 = true ∧
     warp0.trap = none ∧ warp0.pre = .normal ∧ warp0.pending = false ∧ warp0.batches = []) ∧
    (let w := { warp0 with pending := true }
     let s := go w
     meets (.safe 1) .none s cur0 w = true ∧ reads s w 1 0x110 = true ∧ w.sole 0 = true ∧ w.debugHeld = false ∧
     (match s.enterSave 0 w 0 1 0x110 0x104 [] 1 with
      | .done q => q.warp? 0 |>.isSome
      | _ => false) = true) ∧
    ([{ warp0 with trap := some trapSave0 }, { warp0 with pre := .saving 1 }, { warp0 with pre := .saving 0 },
      { warp0 with pre := .restoring 1 0x104 0 [] none }].all (fun w =>
      meets (.safe 1) .none (go w) cur0 w && reads (go w) w 1 0x110) = true ∧
      (go { warp0 with pre := .saving 1 }).lastSaved 0 { warp0 with pre := .saving 1 } = false) ∧
    ([false, true].all (fun active =>
      let w := { warp0 with pre := .saving 1, slice := { Slice.reset with active := active } }
      let s := { go w with
        warps := [(0, w)], l2 := (go w).l2 ++ [dataLine 64 [], dataLine 65 []]
        teams := (go w).teams.map (fun e => (e.1, { e.2 with record := some 0 })) }
      meets (.safe 1) .none s cur0 w && reads s w 1 0x110 && s.lastSaved 0 w &&
        (if active then s.saveObstacle w == some 0x103 else (s.saveObstacle w).isNone && (match s.saveTeam 0 0 w with
          | .done _ => true
          | _ => false))) = true) := by decide +kernel

/-- A launch record at 0x1000 whose header stands at 0x1100: one team of one warp; `off` is broken where it is not 0. -/
def launchRecord (off : Nat) : List Byte :=
  let r := bytesOfNat 8 0x1100 ++ [0, 0, 0, 0, 1, 1, 0xFF, 7] ++ zeros 16 ++ [0, 0x80] ++ zeros 94
  r.take off ++ (if off = 0 then [] else [0x7F]) ++ r.drop (if off = 0 then 0 else off + 1)

/-- A kernel header: eight lane and eight uniform registers. -/
def kernelHeader : List Byte :=
  bytesOfNat 4 0x4B344150 ++ [1, 0, 0, 0] ++ bytesOfNat 4 0x100 ++ bytesOfNat 4 0x180 ++ [8, 8, 0, 2] ++ zeros 108

/-- The machine with that record, that header and these launches beside the warp's own. -/
def launching (w : Warp) (off : Nat) (ls : List (Nat × Launch)) : State :=
  { stateOf w [dataLine 32 (launchRecord off), dataLine 34 kernelHeader, dataLine 35 []] with
    launches := (1, loaderLaunch) :: ls, fresh := 1000, lock := Lock.full }

/-- LaunchesQueue: a good record, one whose thread dimension is broken, a full queue; misaligned and far addresses; a held launch; a
condition at its value. -/
theorem test_witness_launches :
    let w := withS [(7, 0x1000000), (8, 0x1001), (9, 0)]
    let full := (numsFrom 10 64).map (fun n => (n, { loaderLaunch with queued := true }))
    let reads := fun (s : State) (off : Option Nat) => match s.readLanes cur0 w true 16 (unitAddrs 0x1000 16 8) with
      | .done vals [] q => kept q w && decide (firstBroken (recordChecks (blockBytes vals 8) w.supervisor) = off) &&
        decide (blockBytes vals 8 = launchRecord (off.getD 0))
      | _ => false
    ([Instr.launch 0x82 0x84, .launch 0xFF 0x86, .launch 0x82 0x88].all (fun i => meets i .launch (launching w 0 []) cur0 w) = true ∧
      2 ^ 56 ≤ (w.rdPair 0x86 0).toNat ∧ (w.rdPair 0x88 0).toNat % 128 ≠ 0 ∧
      (launching w 0 []).formBlock cur0 w (w.rdPair 0x84 0) 128 16 8 true false = []) ∧
    (reads (launching w 0 []) none = true ∧ reads (launching w 12 []) (some 12) = true ∧ reads (launching w 0 full) none = true) ∧
    ((launching w 0 []).launchRecord cur0 w 0x82 (launchRecord 0) matches .done _) = true ∧
    ((launching w 0 full).launchRecord cur0 w 0x82 (launchRecord 0) matches .full) = true ∧
    (let e := { EngOp.make cur0 w (.loadReg 0 []) 0 1 none none with owned := [(.line 0 34, 0)] }
     ({ launching w 0 [] with engines := [(6, e)] } : State).launchRecord cur0 w 0x82 (launchRecord 0) matches .wait _) = true := by
  decide +kernel

/-- LaunchesQueue: what a good record needs to join the queue. -/
theorem test_witness_queue :
    let (w, r) := (warp0, launchRecord 0)
    let s := launching w 0 []
    2 ^ 15 ≤ fieldOf r 0x20 2 ∧ fieldOf r 0x18 8 = 0 ∧ w.clearance = none ∧ s.isLive w.asid = true ∧
    (match s.loadNow { w.who 0 0 with asid := w.asid, principal := w.principal, clr := none } (fieldOf r 0x00 8) 256 with
     | .ok (h, []) u =>
       let l := Launch.ofRecord r h 0 w.asid w.principal none (1#4 &&& ~~~u.failed)
       decide (firstBroken (headerChecks h) = none) && decide (u.teamCapacity l ≠ 0) && decide (u.launches.length < Config.queueDepth) &&
         decide (u.lock ≠ Lock.nonSecure) && decide (l.die < u.launchNo.length)
     | _ => false) = true ∧
    (let h : Held := { why := .launch, cur := cur0, i := some (.launch 0x82 0x84) }
     let s := launching { w with held := some h } 0 []
     s.warp? 0 = some { w with held := some h } ∧ ((s.setWarp 0 w).launchTry h.cur w 0x82 0x84 matches .done _) = true) ∧
    (let d : Dep := { addr := 0x1000, value := 0x1100, holds := false, logged := false, failed := false }
     let l := { loaderLaunch with queued := true, deps := [d] }
     let s := launching w 0 [(3, l)]
     s.launch? 3 = some l ∧ l.deps[0]? = some d ∧ (match s.resolveRead l.who 0x1000 4 with
      | .ok (some h, _) q => decide (0x1100 ≤ natOfBytes (q.peekBytes h.place h.off 4))
      | _ => false) = true) := by decide +kernel

/-- The group that a team of launch 3 gets where only core 0 has room. -/
def room : Group := Group.fresh 0 0 65536 [0]

/-- A machine whose cores 1 to 63 are taken, with a launch of one team that has been saved, or not. -/
def admitting (saved : List (Nat × Nat)) : State :=
  { (ctxState warp0 (zeros 8 ++ [0x10, 1, 0, 0, 0x20, 1, 0, 0]) (fun k => { k with save := 0x1080 })) with
    l2 := [dataLine 32 (zeros 8 ++ [0x10, 1, 0, 0, 0x20, 1, 0, 0]), dataLine 33 ([0, 0x20] ++ zeros 10 ++ [1]),
      dataLine 66 (zeros 8 ++ [1, 0, 0, 0, 0xFF, 0xFF, 0xFF, 0xFF]), dataLine 67 []]
    warps := [], cur := none, fresh := 10, cores := (numsFrom 0 64).map (fun c => (c, { CoreState.reset with lent := 92 }))
    teams := [(2, { launch := 1, index := 0, x := 0, y := 0, z := 0, record := none, saving := false
                    groups := (numsFrom 1 63).map (fun c => Group.fresh c 0 65536 (numsFrom 0 64)) })]
    launches := [(1, loaderLaunch), (3, { loaderLaunch with next := saved.length, saved := saved, safeTable := 0x1000, safeCount := 2 })] }

/-- One choice is no choice. -/
theorem placed_where_one (s : State) (id index : Nat) (l : Launch) (gs : List Group)
    (h : (let all := (s.firstCores l).filterMap (fun c => s.roomsAt l c)
          let easy := all.filter (fun gs => gs.all (fun g => !s.lentInWay g))
          if easy = [] then all else easy) = [gs]) :
    s.placeTeam id l index = some ((withPos gs 0).foldl (fun (q : State) g => q.startGroup id s.fresh g.1 l g.2)
      { s.takeFree with
        teams := Assoc.put s.teams s.fresh { launch := id, index := index, x := index % l.gridX, y := index / l.gridX % l.gridY
                                             z := index / (l.gridX * l.gridY), groups := gs, record := none, saving := false }
        fresh := s.fresh + 1 }) := by
  simp only [] at h
  unfold State.placeTeam
  simp only [h, List.length_singleton, Nat.mod_one, List.getElem?_cons_zero]

/-- No place is none. -/
theorem placed_nowhere (s : State) (id index : Nat) (l : Launch) (h : (s.firstCores l).filterMap (fun c => s.roomsAt l c) = []) :
    s.placeTeam id l index = none := by
  unfold State.placeTeam
  simp [h]

theorem placed_one (s q : State) (id index : Nat) (l : Launch) (h : s.placeTeam id l index = some q) :
    s.placeTeams id l [index] = some q := by
  simp [State.placeTeams, h]

theorem placed_none (s : State) (id index : Nat) (l : Launch) (h : s.placeTeam id l index = none) :
    s.placeTeams id l [index] = none := by
  simp [State.placeTeams, h]

/-- TeamsComeAndGo: a concurrent launch of one team with room, and launches without room. -/
theorem test_witness_concurrent :
    let l0 := { loaderLaunch with next := 0, saved := [], safeTable := 0x1000, safeCount := 2 }
    let l := { l0 with cls := 0 }
    let s := (admitting []).updLaunch 3 (fun l => { l with cls := 0 })
    let taken := fun (s : State) => s.updTeam 2 (fun t => { t with groups := Group.fresh 0 0 65536 (numsFrom 0 64) :: t.groups })
    (∃ q, s.placeTeams 3 l (numsFrom 0 1) = some q ∧ (q.updLaunch 3 (fun l => { l with next := l.total, queued := false })).lentOver l = []) ∧
    (s.current 0 = some (3, l) ∧ s.reclaiming l = false ∧ s.launch? 3 = some l ∧ l.total = 1) ∧
    ((taken s).placeTeams 3 l (numsFrom 0 1) = none ∧ (taken s).current 0 = some (3, l) ∧ (taken s).reclaiming l = false) ∧
    ((taken (admitting [])).placeTeam 3 l0 0 = none ∧ (taken (admitting [])).current 0 = some (3, l0) ∧
      (taken (admitting [])).reclaiming l0 = false ∧ l0.cls ≠ 0) :=
  ⟨⟨_, placed_one _ _ 3 0 _ (placed_where_one _ 3 0 _ [room] (by decide +kernel)), by decide +kernel⟩, by decide +kernel,
    ⟨placed_none _ 3 0 _ (placed_nowhere _ 3 0 _ (by decide +kernel)), by decide +kernel, by decide +kernel⟩,
    ⟨placed_nowhere _ 3 0 _ (by decide +kernel), by decide +kernel, by decide +kernel, by decide +kernel⟩⟩

/-- TeamsComeAndGo: the next team is placed on the one core with room; a saved team comes back from its record. -/
theorem test_witness_admission :
    (∃ q, (admitting []).placeTeam 3 { loaderLaunch with next := 0, saved := [], safeTable := 0x1000, safeCount := 2 } 0 = some q ∧
      (admitting []).current 0 = some (3, { loaderLaunch with next := 0, saved := [], safeTable := 0x1000, safeCount := 2 }) ∧
      (admitting []).reclaiming loaderLaunch = false ∧
      (q.updLaunch 3 (fun l => { l with next := 1, queued := decide (1 < l.total) })).lentOver loaderLaunch = []) ∧
    (∃ q, let l := { loaderLaunch with next := 1, saved := [(0, 0)], safeTable := 0x1000, safeCount := 2 }
      (admitting [(0, 0)]).placeTeam 3 l 0 = some q ∧ (admitting [(0, 0)]).current 0 = some (3, l) ∧ q.lentOver l = [] ∧
      (q.restoreTeams 3 l [(0, 0)] matches .done _) = true) :=
  ⟨⟨_, placed_where_one _ 3 0 _ [room] (by decide +kernel), by decide +kernel, by decide +kernel, by decide +kernel⟩,
    ⟨_, placed_where_one _ 3 0 _ [room] (by decide +kernel), by decide +kernel, by decide +kernel, by decide +kernel⟩⟩

/-- TeamsComeAndGo: an exited warp, a team without warps that is not and is the last of its launch. -/
theorem test_witness_ends :
    (stateOf { warp0 with live := 0 } []).warpDone 0 = true ∧
    ([0, 1].all (fun n =>
      let s : State := { stateOf warp0 [] with warps := [], launches := [(1, { loaderLaunch with next := n, queued := decide (n < 1) })] }
      (match s.team? 2 with
       | some t => let q := (s.releaseTeam 2 t).updLaunch 1 (fun l => { l with completed := l.completed + 1 })
         decide (t.launch = 1) && (s.launch? 1).isSome && q.teams.all (fun e => e.2.launch != 1)
       | none => false)) = true) ∧ (loaderLaunch.total = 1 ∧ loaderLaunch.doneFailed = false) ∧
    ([1, 2].all (fun kind =>
      let l := { loaderLaunch with next := 1, doneKind := kind, doneAddr := 0x1000, doneValue := 1 }
      let e := { EngOp.make cur0 warp0 (.loadReg 0 []) 0 1 none none with owned := [(.line 0 32, 0)] }
      let s : State := { stateOf warp0 [dataLine 32 []] with warps := [], launches := [(1, l)], engines := [(6, e)] }
      (match s.team? 2 with
       | some t =>
         (((s.releaseTeam 2 t).updLaunch 1 (fun l => { l with completed := l.completed + 1 })).resolveWrite l.who 0x1000 4 matches .wait _)
       | none => false)) = true) ∧
    ([(1, 0x1000, true), (2, 0x1000, true), (1, 0x8000, false), (2, 0x8000, false)].all (fun (e : Nat × Nat × Bool) =>
      let l := { loaderLaunch with next := 1, doneKind := e.1, doneAddr := BitVec.ofNat 64 e.2.1, doneValue := 1 }
      let s : State := { stateOf warp0 [dataLine 32 []] with warps := [], launches := [(1, l)] }
      (match s.team? 2 with
       | some t =>
         let q := (s.releaseTeam 2 t).updLaunch 1 (fun l => { l with completed := l.completed + 1 })
         (match q.resolveWrite l.who l.doneAddr.toNat 4 with
          | .ok (h, none) u => e.2.2 && !u.badAt h.place h.off 4 &&
            decide ((arriveWord (BitVec.ofNat 32 (natOfBytes (u.peekBytes h.place h.off 4))) 1).isSome)
          | .cause _ _ _ => !e.2.2
          | _ => false)
       | none => false)) = true) := by decide +kernel

/-! ### Other devices, errors, start, host, power, the whole machine -/

/-- An access of warp 0 to device 1, sent this many cycles ago, for which path 0 waits or does not. -/
def remoteState (kind : AccKind) (sent : Nat) (waits : Bool) : State :=
  let a : Access := { access0 kind [{ lane := 0, va := 0x1000, voff := 0, off := 2 ^ 50 + 0x1000, size := 4, data := [1, 2, 3, 4] }] with
    place := .phys, remote := some 1, sent := sent }
  let w := if waits then onPath (fun q => { q with hold := .remote 9 cur0 false [] }) else warp0
  { stateOf w [] with
    hw := { State.reset.hw with peers := [1] }, fresh := 10, accesses := [(5, a)]
    outs := [(9, { w := 0, path := 0, pc := 0x100, isLoad := false, dst := 5, regs := 1, size := 4, signed := false, lanes := 1
                   uniform := false, got := [], more := false })] }

/-- RemoteAccesses: a store that is answered, for a path that waits and one that has gone on; a load past the limit. -/
theorem test_witness_remote :
    ([true, false].all (fun waits =>
      let s := remoteState .store 7 waits
      (match Assoc.at? s.accesses 5 with
       | some a => s.remoteReady 5 && decide (s.laneUnits 5 a = [(5, a)]) && decide (a.remote = some 1) && decide (a.sent < Config.remoteLimit) &&
         decide (s.remoteCause (2 ^ 50 + 0x1000) = none) && decide (s.eventCause ((s.warp? 0).any Warp.mixedTrap) a = none) &&
         ((s.remoteCur a).isSome == waits) && ((s.perform 5 a).remoteCur a).isSome == waits &&
         (Assoc.at? (s.perform 5 a).outs 9).any (fun o => o.late.isEmpty) &&
         decide ((s.perform 5 a).accesses.filter (fun e => e.2.op == 9 && e.2.w == 0 && e.2.remote.isSome) = [])
       | none => false)) = true) ∧
    (let bad : LaneCause := { lane := 1, row := rowHome, code := 0x2A, sub := 0, addr := 0x1004 }
     let s := { remoteState .store 7 true with warps := [(0, onPath (fun q => { q with hold := .remote 9 cur0 false [bad] }))] }
     (match Assoc.at? s.accesses 5 with
      | some a => s.remoteReady 5 && (match (s.perform 5 a).remoteCur a with
        | some (c, _, met) => decide (met = [bad]) && (c.causeOf false met).isSome
        | none => false)
      | none => false) = true) ∧
    (let s := { remoteState .store 0 true with routes := [(1, .down)] }
     (s.remoteReady 5 = true ∧ (s.remoteCause (2 ^ 50 + 0x1000)).isSome = true)) ∧
    (let s := remoteState .load (2 ^ 26) true
     (match Assoc.at? s.accesses 5 with
      | some a => decide (Config.remoteLimit ≤ a.sent) && s.canTell a && decide (s.laneUnits 5 a = [(5, a)]) && (match (s.maybePerform 5 a).remoteCur a with
        | some (c, _, met) => (c.causeOf false (met ++ a.laneCauses rowHome 0x2B 0)).isSome &&
          decide ((s.maybePerform 5 a).accesses.filter (fun e => e.2.op == 9 && e.2.w == 0 && e.2.remote.isSome) = [])
        | none => false)
      | none => false) = true) := by decide +kernel

/-- RemoteAccesses: a lane of 16 bytes in a warp that traps mixed sizes, the second half of which meets another warp's stamp. -/
theorem test_witness_lane_units :
    let part := fun (voff : Nat) => ({ lane := 0, va := 0x1000, voff := voff, off := 2 ^ 50 + 0x1000 + voff, size := 8, data := zeros 8 } : Part)
    let unit := fun (voff : Nat) => { access0 .store [part voff] with
      place := .phys, remote := some 1, sent := 7, size := 16, scope := .system }
    let stamp : Stamp := { place := .phys, base := (2 ^ 50 + 0x1000) / 128, off := 8, len := 4, size := 4, agent := { w := 9, team := 9, wg := 0 }
                           write := true, scope := .system }
    let s := { (remoteState .store 7 true).updWarp 0 (fun w => { w with mode := 0x2000 }) with
      accesses := [(5, unit 0), (6, unit 8)], stamps := [stamp] }
    s.remoteReady 5 = true ∧ s.laneUnits 5 (unit 0) = [(5, unit 0), (6, unit 8)] ∧
    (s.laneUnits 5 (unit 0)).all (fun u => decide (u.2.sent < Config.remoteLimit) &&
      (s.remoteCause (((u.2.parts.head?).map Part.off).getD 0)).isNone) = true ∧
    firstSome (s.laneUnits 5 (unit 0)) (fun u => s.eventCause ((s.warp? u.2.w).any Warp.mixedTrap) u.2) = some (rowHome, 0x25) := by
  decide +kernel

/-- StorageErrors: the last register, the last scratchpad word, a granule of memory; a lost response of a load whose path has gone on. -/
theorem test_witness_errors :
    ([Site.register 0 127 31, .scratch 2 0 65535, .memory 0, .memory 1999999999].all (fun x => state0.siteExists x) = true) ∧
    ({ state0 with pinned := [{ core := 3, slot := 2, pa := 0, maps := [], data := [], poison := [], bad := [] }] } : State).siteExists
      (.pinned 3 2 65535) = true ∧
    ([Mask.full, 0].all (fun live =>
      let s0 := remoteState .load 7 false
      let s := s0.setWarp 0 { warp0 with live := live }
      (match Assoc.at? s.accesses 5, s.warp? 0 with
       | some a, some w => s.canPerform 5 a && s.canTell a && (s.remoteCur a).isNone && decide (w.live = live) &&
         ((s.maybePerform 5 a).remoteCur a).isNone && decide ((s.maybePerform 5 a).warp? 0 = some w) &&
         (Assoc.at? (s.maybePerform 5 a).outs 9).any (fun o => o.late.isEmpty) &&
         ((w.boundary 0).causeOf false (a.laneCauses rowHome 0x3C 0)).isSome &&
         decide ((s.maybePerform 5 a).accesses.filter (fun e => e.2.op == 9 && e.2.w == 0 && e.2.remote.isSome) = [])
       | _, _ => false)) = true) ∧
    (let s := remoteState .load 7 true
     (match Assoc.at? s.accesses 5 with
      | some a => s.canPerform 5 a && s.canTell a && (match (s.maybePerform 5 a).remoteCur a with
        | some (c, _, []) => (c.causeOf false (a.laneCauses rowHome 0x3C 0)).isSome
        | _ => false)
      | none => false) = true) := by decide +kernel

/-- StorageErrors: a CXL link error of a load from the last word of a port's second-tier memory, for a path that has gone on. -/
theorem test_witness_tier :
    (let p : Part := { lane := 0, va := 0x1000, voff := 0, off := 2 ^ 42 + 0xFFC, size := 4, data := [] }
     let s : State := { remoteState .load 7 false with
       cxl := [4096, 0, 0, 0], accesses := [(5, { access0 .load [p] with place := .phys })] }
     (match Assoc.at? s.accesses 5, s.warp? 0 with
      | some a, some w => s.inTier a && s.canPerform 5 a && s.canTell a && decide (w.live ≠ 0) &&
        ((s.maybePerform 5 a).remoteCur a).isNone && decide ((s.maybePerform 5 a).warp? 0 = some w)
      | _, _ => false)) = true := by decide +kernel

/-- MatrixSteps: the array of core 0 can err, and a tile that a step in redundant mode marks or not. -/
theorem test_witness_redundant :
    (let s : State := { tileState warp0 4 with hw := { State.reset.hw with arrays := [0] } }
     coreOfKey 0 ∈ s.hw.arrays ∧ (s.tileOf? 0 0).isSome = true ∧ coreOfKey 64 ∉ s.hw.arrays) := by decide +kernel

/-- An image that verifies. -/
def image0 : Firmware :=
  { verifies := true, bytes := [], asidTable := 0, header := 0x1000, args := 0, mailbox := 0x200, winbase := 0x10000000, lock := .full }

/-- StartStages: without an image and with one; stages 1 and 2, with a failed unit, and with tests skipped. -/
theorem test_witness_start :
    State.reset.boot = .off ∧ State.reset.flash = none ∧ image0.verifies = true ∧ ({ State.reset with flash := some image0 } : State).boot = .off ∧
    state0.boot = .stage3 ∧ state0.startFailed = false ∧
    (let s : State := { State.reset with boot := .stage0, stage := 1, startFailed := false }
     s.tests = true ∧ s.hw.pkgFail = false ∧ ({ s with hw := { s.hw with pkgFail := true } } : State).hw.pkgFail = true ∧
     ({ s with warm := true, selftest := false } : State).tests = false) ∧
    ({ State.reset with boot := .stage1, verified := some image0 } : State).verified = some image0 := by decide +kernel

/-- HostAccesses: a mailbox word in HBM, a window at 2^28, the last byte of BAR2, an address with no memory behind it. -/
theorem test_witness_host :
    let s : State := { state0 with mailbox := 0x200, winbase := 0x10000000 }
    s.boot = .stage3 ∧ s.inHbm s.mailbox = true ∧ State.reset.boot ≠ .stage3 ∧ s.boot ≠ .off ∧ 0xFFFFFFF + [(7 : Byte)].length ≤ 2 ^ 28 ∧
    (∀ j, j < [(7 : Byte)].length → s.paPresent (s.winbase.toNat + 0xFFFFFFF + j) = true) ∧
    ({ s with winbase := 0xFFFFFFFFF0000000 } : State).paPresent (0xFFFFFFFFF0000000 + 0) = false := by decide +kernel

/-- PowerStates: a slice and a core that nothing wants at the end of each count; a core with a warp that wants to issue. -/
theorem test_witness_power :
    (let s : State := { State.reset with cycle := 2 ^ 20 }
     [Block.core 255, .slice 127, .bridge 15, .stack 11, .port 3].all (fun b => blockPresent b && !s.wanted b && s.powerOf b == .run &&
       decide (64 ≤ s.idleFor b) && (({ s with power := [(blockCode b, .idle)] } : State).powerOf b == .idle) && decide (64 + 4096 ≤ s.idleFor b)) =
         true ∧
     ({ s with power := [(blockCode (.core 255), .gated)] } : State).powerOf (.core 255) = .gated ∧ 2 ^ 20 ≤ s.vacantFor 255) ∧
    (let s : State := { state0 with power := [(blockCode (.core 0), .gated)] }
     s.asleep (.core 0) = true ∧ s.wanted (.core 0) = true) := by decide +kernel

/-- StepRunsDecoded, PlacedInstructionRuns: a loaded ADD is the one thing that can go on; an input waits. -/
theorem test_witness_steps :
    (let s := State.reset.loadWord 0x01050607
     let t := s.tick
     s.inputs = [] ∧ t.bins = none ∧ (match t.actions t.offers with
      | [.issue o] =>
        let q := (t.ageAll (t.offers.filter (fun x => x != o))).pick o
        (match q.warp? o.key with
         | some w => !q.breaks w o.path (w.path o.path).nextPc && (w.path o.path).status != .wait &&
           (match q.fetch o.key o.path w (w.path o.path).nextPc, q.fetchWord o.key o.path w 0x100 with
            | (.instr i 1, u), (.word x, _) => decide (i = .add none 5 6 7) && u.bins.isNone && x == 0x01050607
            | _, _ => false)
         | none => false)
      | _ => false) = true) ∧
    ({ State.reset with inputs := [.dieThrottle 0 true] } : State).tick.bins = none ∧
    decode [0x01050607#32, 0#32, 0#32] = .done (.add none 5 6 7) 1 := by decide +kernel

/-- DecodeEncode: well-formed instructions of one, two and three words. -/
theorem test_witness_wellformed :
    [Instr.nop, .add (pfx true 3 0 0 true 0) 5 6 7, .ffma (pfx false 0 0 0xB false 3) 4 2 3, .ffmaL none 4 2 3 0x3E2AAAAB, .atom none 6 2 4 9 1 7 6].all wellFormed =
      true := by decide +kernel

/-- MemoryStaysCanonical: a sound state with a next step. -/
theorem test_witness_canonical :
    let s : State := { State.reset with inputs := [.dieThrottle 0 true] }
    Sound s ∧ ∃ t, step s = .next t :=
  ⟨by show Memory.wf _ = true; decide +kernel, _, rfl⟩

end Sys2Proof.Tests
end

section
/-! ## Family 01: what a step of the sequential machine runs -/
namespace Sys2Proof.Machine

/-! ### What a step executes (R13, R52, R164) -/

theorem State.binIdle_unbound (s : State) (used : Option (Nat × Bool)) (h : s.bins = none) : s.binIdle used = s := by
  simp [State.binIdle, h]

theorem State.binIssue_unbound (s : State) (c : Cur) (i : Instr) (h : s.bins = none) : s.binIssue c i = s := by
  simp [State.binIssue, h]

/-- Growing older binds no bins. -/
@[simp] theorem State.ageAll_bins (s : State) (os : List Offer) : (s.ageAll os).bins = s.bins := by
  unfold State.ageAll
  refine foldl_keeps (fun t : State => t.bins = s.bins) _ ?_ os s rfl
  exact fun _ _ h => h

@[simp] theorem State.pick_bins (s : State) (o : Offer) : (s.pick o).bins = s.bins := rfl

/-- An input is the step of its cycle. -/
theorem State.nextAction_input {s : State} {i : Instr} {r : List Instr} (hi : s.inputs = i :: r) (hb : s.tick.bins = none) :
    s.nextAction = (some (exec i), { s.tick.ageAll s.tick.offers with inputs := r }) := by
  simp only [State.nextAction, hi]
  rw [State.binIdle_unbound _ _ (by rw [State.ageAll_bins, hb])]

/-- Where one path alone can go on, its issue is the step of the cycle. -/
theorem State.nextAction_issue {s : State} {o : Offer} (hi : s.inputs = []) (ha : s.tick.actions s.tick.offers = [.issue o]) :
    s.nextAction = (s.tick.ageAll (s.tick.offers.filter (fun x => x != o))).issuePath o := by
  simp only [State.nextAction, hi, ha, State.act]

/-- A path that no breakpoint stops issues the instruction that its words decode to; one that waits re-executes its transfer. -/
theorem State.issuePath_fetched {q u : State} {o : Offer} {w : Warp} {i : Instr} {n : Nat} (hw : q.warp? o.key = some w)
    (hbr : q.breaks w o.path (w.path o.path).nextPc = false)
    (hf : q.fetch o.key o.path w (w.path o.path).nextPc = (.instr i n, u)) (hu : u.bins = none) :
    q.issuePath o =
      if (w.path o.path).status = .wait then (some (execHeldTransferReexecution o.key o.path), u.pick o)
      else (some (exec i), { ((u.pick o).updPath o.key o.path (fun x => { x with hold := .none })) with
        cur := some { w.curFor o.key o.path n with sync := syncOf i } }) := by
  have hp : (u.pick o).bins = none := hu
  simp only [State.issuePath, hw, hbr, hf, Bool.false_eq_true, if_false]
  rw [State.binIdle_unbound _ _ hp, State.binIssue_unbound _ _ _ hp]

/-- One word that decodes to an instruction is fetched as that instruction. -/
theorem State.fetch_oneWord {s q : State} {key p : Nat} {w : Warp} {pc : DWord} {x : Word} {i : Instr}
    (hx : s.fetchWord key p w pc.toNat = (.word x, q)) (hd : decode [x] = .done i 1) :
    s.fetch key p w pc = (.instr i 1, q) := by
  simp [State.fetch, State.fetchMore, hx, hd]

theorem exec_heldTransferReexecution (key p : Nat) (s : State) :
    exec (.heldTransferReexecution key p) s = execHeldTransferReexecution key p s := rfl

/-- Settles O56: an input goes first; else the only action is the issue of the one path, whose words are fetched and decoded. -/
theorem stepRunsDecoded : Obligations.StepRunsDecoded := by
  unfold Obligations.StepRunsDecoded
  refine ⟨fun s i r hi hb => ?_, fun s q u o w i n hi hb ha hq hw hbr hf hu => ?_, fun s key p w pc x q i hx hd => ?_⟩
  · rw [step, State.nextAction_input hi hb]
  · have hissue := State.issuePath_fetched hw hbr hf hu
    refine ⟨fun hs => ?_, fun hs => ?_⟩
    · rw [step, State.nextAction_issue hi ha, ← hq, hissue, if_neg hs]
    · rw [step, State.nextAction_issue hi ha, ← hq, hissue, if_pos hs, exec_heldTransferReexecution]
  · exact State.fetch_oneWord hx hd

end Sys2Proof.Machine
end

section
/-! ## Family 01: facts that control transfers, checks and retirement share -/
namespace Sys2Proof.Machine

/-! ### What `Ready` says of the operands -/

/-- Where the operand checks pass, every operand is of a class that its description accepts (check 9 of R70). -/
theorem accept_of_checkOf {i : Instr} {v s : Nat} (h : checkOf i v s = none) :
    ∀ o ∈ operandsOf i, o.accept.contains (classOf o.code) = true := by
  intro o ho
  simp only [checkOf] at h
  split at h
  · cases h
  · split_ifs at h
    split at h
    · cases h
    · rename_i hnone
      simpa using List.find?_eq_none.mp hnone o ho

/-- The destination of an instruction that is ready is of an accepted class. -/
theorem Ready.accepts {i : Instr} {priv : Priv} {s : State} {c : Cur} {w : Warp} (h : Ready i priv s c w) {o : Opnd}
    (ho : o ∈ operandsOf i) : classOf o.code ∈ o.accept := by
  simpa using accept_of_checkOf h.checked o ho

/-! ### Retirement with no debugger -/

theorem State.warp?_setWarp_self {s : State} {k : Nat} {w : Warp} (x : Warp) (h : s.warp? k = some w) :
    (s.setWarp k x).warp? k = some x := s.warp?_updWarp_self k _ w h

/-- With no debugger, changing the issuing warp and retiring is `afterRetire` of the changed warp. -/
theorem State.setWarp_retire {s : State} {c : Cur} {w x : Warp} (hw : s.warp? c.w = some w) (hd : s.debugOn w = false)
    (hx : x.asid = w.asid) : (s.setWarp c.w x).retire c = s.setWarp c.w (x.afterRetire c false) := by
  have hdx : (s.setWarp c.w x).debugOn x = false := by
    simpa [State.debugOn, hx] using hd
  rw [State.retire_plain _ c x (State.warp?_setWarp_self x hw) hdx, State.setWarp_setWarp]

theorem State.retireWith_moved {s : State} {c : Cur} {w : Warp} (hw : s.warp? c.w = some w) (hd : s.debugOn w = false)
    (f : Warp → Warp) (hf : (f w).asid = w.asid) : s.retireWith c f = s.setWarp c.w ((f w).afterRetire c false) := by
  rw [State.retireWith, State.updWarp_eq_setWarp _ _ _ w hw, State.setWarp_retire hw hd hf]

/-! ### Transfers with one target (R122, R133, R169) -/

/-- Lanes with one target form one group. -/
theorem branches_oneTarget {ls : List Nat} (h : ls ≠ []) (f : Nat → DWord) (t : DWord) (hf : ∀ l ∈ ls, f l = t) :
    ∃ m : Mask, branches (ls.map (fun l => (l, f l))) = [{ target := t, lanes := m }] := by
  have more : ∀ (r : List Nat) (m : Mask), (∀ l ∈ r, f l = t) →
      ∃ m', (r.map (fun l => (l, f l))).foldl (fun gs e => addLane gs e.2 e.1) [{ target := t, lanes := m }] =
        [({ target := t, lanes := m' } : Branch)] := by
    intro r
    induction r with
    | nil => exact fun m _ => ⟨m, rfl⟩
    | cons l r ih =>
      intro m hr
      simp only [List.map_cons, List.foldl_cons, addLane, hr l (by simp), if_true]
      exact ih _ (fun j hj => hr j (List.mem_cons_of_mem _ hj))
  cases ls with
  | nil => exact absurd rfl h
  | cons l r =>
    simp only [branches, List.map_cons, List.foldl_cons, addLane, hf l (by simp)]
    exact more r _ (fun j hj => hf j (List.mem_cons_of_mem _ hj))

/-- A running path's transfer moves all its lanes. -/
theorem Warp.transferLanes_run {w : Warp} {c : Cur} (h : (w.path c.p).status = .run) :
    w.transferLanes c = (w.path c.p).mask.lanes := by
  simp [Warp.transferLanes, h]

theorem lanes_ne_nil {m : Mask} (h : m ≠ 0) : m.lanes ≠ [] := by
  intro e
  apply h
  apply BitVec.eq_of_getLsbD_eq
  intro i hi
  have : i ∉ m.lanes := by simp [e]
  rw [mem_lanes] at this
  simpa [hi] using this

theorem Warp.samePaths_goto (w : Warp) (p : Nat) (k : Xfer) (t : DWord) : w.SamePaths (w.goto p k t) :=
  (w.samePaths_updPath _ _).trans (Warp.samePaths_settle _ _)

/-- A transfer that takes all the lanes of a running path to one target. -/
theorem Warp.transfer_oneTarget {w : Warp} {p : Nat} (h : (w.path p).status = .run) (k : Xfer) (x nxt t : DWord) (m : Mask) :
    w.transfer p k x nxt [{ target := t, lanes := m }] =
      if k = .cond ∧ t = nxt then w.advance p x nxt else w.goto p k t := by
  simp [Warp.transfer, h]

/-- With no debugger, a transfer with one target retires as `wentTo` says. -/
theorem State.retireTransfer_oneTarget {s : State} {c : Cur} {w : Warp} (hw : s.warp? c.w = some w) (hd : s.debugOn w = false)
    (hr : (w.path c.p).status = .run) (k : Xfer) (t : DWord) (m : Mask) :
    s.retireTransfer c k [{ target := t, lanes := m }] = s.setWarp c.w (w.wentTo c k t) := by
  have hmove : s.updWarp c.w (fun w => w.transfer c.p k c.pc c.next [{ target := t, lanes := m }]) =
      s.setWarp c.w (if k = .cond ∧ t = c.next then w.advance c.p c.pc c.next else w.goto c.p k t) := by
    rw [State.updWarp_eq_setWarp _ _ _ w hw, Warp.transfer_oneTarget hr]
  rw [State.retireTransfer, hmove]
  by_cases hk : k = .cond ∧ t = c.next
  · rw [if_pos hk, Warp.wentTo, if_pos hk, ← State.updWarp_eq_setWarp _ _ (fun w => w.advance c.p c.pc c.next) w hw]
    exact State.advance_finish_plain s c w false hw hd
  · obtain ⟨hg⟩ := w.samePaths_goto c.p k t
    have hasid : (w.goto c.p k t).asid = w.asid := by rw [hg]
    have hdx : (s.setWarp c.w (w.goto c.p k t)).debugOn (w.goto c.p k t) = false := by simpa [State.debugOn, hasid] using hd
    have hx := State.warp?_setWarp_self (w.goto c.p k t) hw
    rw [if_neg hk, Warp.wentTo, if_neg hk, State.finish_plain _ c _ false hx hdx, State.updWarp_eq_setWarp _ _ _ _ hx,
      State.setWarp_setWarp]
    rfl

/-! ### The cause of several lanes (R356) -/

/-- The bits of the mask of a list of lanes. -/
theorem maskOf_getLsbD (ls : List Nat) {l : Nat} (hl : l < 32) : (maskOf ls).getLsbD l = decide (l ∈ ls) := by
  have gen : ∀ m : Mask, (ls.foldl (fun (m : Mask) i => m ||| Mask.bit i) m).getLsbD l = (m.getLsbD l || decide (l ∈ ls)) := by
    induction ls with
    | nil => simp
    | cons i r ih => intro m; rw [List.foldl_cons, ih]; simp [bit_getLsbD i l hl, Bool.or_assoc]
  simpa [maskOf] using gen 0

/-- The first cause is one of the causes. -/
theorem firstCause_mem {xs : List LaneCause} (h : xs ≠ []) : ∃ x ∈ xs, firstCause xs = some x := by
  have more : ∀ (r : List LaneCause) (y : LaneCause), ∃ x ∈ y :: r, r.foldl (fun (b : Option LaneCause) x =>
      match b with
      | none => some x
      | some y => if x.row < y.row ∨ (x.row = y.row ∧ x.lane < y.lane) then some x else some y) (some y) = some x := by
    intro r
    induction r with
    | nil => exact fun y => ⟨y, by simp, rfl⟩
    | cons z r ih =>
      intro y
      simp only [List.foldl_cons]
      split
      · obtain ⟨x, hx, he⟩ := ih z
        exact ⟨x, List.mem_cons_of_mem _ hx, he⟩
      · obtain ⟨x, hx, he⟩ := ih y
        refine ⟨x, ?_, he⟩
        rcases List.mem_cons.mp hx with hx | hx
        · simp [hx]
        · simp [hx]
  cases xs with
  | nil => exact absurd rfl h
  | cons y r => exact more r y

/-- Lanes that all meet one cause raise it, with those lanes. -/
theorem joinCauses_same {xs : List LaneCause} {code sub : Nat} (h : xs ≠ []) (hx : ∀ x ∈ xs, x.code = code ∧ x.sub = sub) :
    ∃ y : Cause, joinCauses xs = some y ∧ y.code = code ∧ y.sub = sub ∧ y.other = false ∧
      y.lanes = maskOf (xs.map LaneCause.lane) := by
  have hmem : ∃ f ∈ xs, firstCause (if xs.filter (fun x => !parks x.code) = [] then xs else xs.filter (fun x => !parks x.code)) =
      some f := by
    split
    · exact firstCause_mem h
    · rename_i hne
      obtain ⟨f, hf, he⟩ := firstCause_mem hne
      exact ⟨f, (List.mem_filter.mp hf).1, he⟩
  obtain ⟨f, hf, he⟩ := hmem
  obtain ⟨hcode, hsub⟩ := hx f hf
  refine ⟨_, by simp only [joinCauses, he]; rfl, hcode, hsub, ?_, ?_⟩
  · rw [List.any_eq_false]
    intro x hm
    simp [(hx x hm).1, hcode]
  · simp [maskOf, List.foldl_map]

end Sys2Proof.Machine
end

section
/-! ## Family 01: branches, calls and returns with one target -/
namespace Sys2Proof.Machine

theorem exec_bra (f : BitVec 20) (s : State) : exec (.bra f) s = execBra f s := rfl
theorem exec_brt (m : BitVec 4) (f : BitVec 20) (s : State) : exec (.brt m f) s = execBrt m f s := rfl
theorem exec_brf (m : BitVec 4) (f : BitVec 20) (s : State) : exec (.brf m f) s = execBrf m f s := rfl
theorem exec_brx (n a b : Code) (s : State) : exec (.brx n a b) s = execBrx n a b s := rfl
theorem exec_call (d : Code) (i : BitVec 16) (s : State) : exec (.call d i) s = execCall d i s := rfl
theorem exec_callx (d a : Code) (s : State) : exec (.callx d a) s = execCallx d a s := rfl
theorem exec_ret (a : Code) (s : State) : exec (.ret a) s = execRet a s := rfl

/-! ### Branches (R123) -/

/-- BRA issued by a running path. -/
theorem exec_bra_ready {f : BitVec 20} {s : State} {c : Cur} {w : Warp} (h : Ready (.bra f) .none s c w) :
    exec (.bra f) s = .next (s.branch c .jump true (farOff c.pc f)
      (branches ((w.transferLanes c).map (fun i => (i, farOff c.pc f))))) := by
  rw [exec_bra, execBra, issue_ready h]

/-- BRT goes where its mask register is 1, BRF where it is 0. -/
theorem exec_condBranch_ready {m : BitVec 4} {f : BitVec 20} {s : State} {c : Cur} {w : Warp} {e : Instr × Bool}
    (he : e ∈ [(Instr.brt m f, true), (Instr.brf m f, false)]) (h : Ready e.1 .none s c w) :
    exec e.1 s = .next (s.condBranch c w m e.2 f) := by
  simp only [List.mem_cons, List.not_mem_nil, or_false] at he
  rcases he with rfl | rfl
  · rw [exec_brt, execBrt, issue_ready h]
  · rw [exec_brf, execBrf, issue_ready h]

theorem State.branch_near (s : State) (c : Cur) (k : Xfer) (taken : Bool) {target : DWord} (gs : List Branch)
    (h : target.toNat < 2 ^ 56) : s.branch c k taken target gs = s.retireTransfer c k gs := by
  simp only [State.branch]
  rw [if_neg (by omega)]

theorem State.branch_untaken (s : State) (c : Cur) (k : Xfer) (target : DWord) (gs : List Branch) :
    s.branch c k false target gs = s.retireTransfer c k gs := by
  simp [State.branch]

theorem State.branch_far (s : State) (c : Cur) (k : Xfer) {target : DWord} (gs : List Branch)
    (h : 2 ^ 56 ≤ target.toNat) : s.branch c k true target gs = s.raiseWhole c 0x24 0 := by
  simp only [State.branch]
  rw [if_pos ⟨h, trivial⟩]

section
variable {s : State} {c : Cur} {w : Warp} {m : BitVec 4} {f : BitVec 20} {sense : Bool}

/-- A branch whose lanes have one target, in range, moves the path there. -/
theorem State.retireTransfer_all (hw : s.warp? c.w = some w) (hd : s.debugOn w = false) (hr : (w.path c.p).status = .run)
    (hm : (w.path c.p).mask ≠ 0) (k : Xfer) {f : Nat → DWord} {t : DWord}
    (hf : ∀ l, l < 32 → (w.path c.p).mask.getLsbD l = true → f l = t) :
    s.retireTransfer c k (branches ((w.transferLanes c).map (fun l => (l, f l)))) = s.setWarp c.w (w.wentTo c k t) := by
  rw [Warp.transferLanes_run hr]
  obtain ⟨g, hg⟩ := branches_oneTarget (lanes_ne_nil hm) f t (fun l hl => hf l (mem_lanes.mp hl).1 (mem_lanes.mp hl).2)
  rw [hg, State.retireTransfer_oneTarget hw hd hr]

theorem Warp.takers_all (hr : (w.path c.p).status = .run)
    (h : ∀ l, l < 32 → (w.path c.p).mask.getLsbD l = true → (w.maskReg m.toNat).getLsbD l = sense) :
    w.takers c m sense = w.transferLanes c := by
  rw [Warp.takers, Warp.transferLanes_run hr, List.filter_eq_self]
  intro l hl
  obtain ⟨hl, hon⟩ := mem_lanes.mp hl
  simpa using h l hl hon

theorem Warp.takers_none (hr : (w.path c.p).status = .run)
    (h : ∀ l, l < 32 → (w.path c.p).mask.getLsbD l = true → (w.maskReg m.toNat).getLsbD l = !sense) :
    w.takers c m sense = [] := by
  rw [Warp.takers, Warp.transferLanes_run hr, List.filter_eq_nil_iff]
  intro l hl
  obtain ⟨hl, hon⟩ := mem_lanes.mp hl
  simp [h l hl hon]

theorem Warp.takers_ne_nil (hr : (w.path c.p).status = .run)
    (h : ∃ l, l < 32 ∧ (w.path c.p).mask.getLsbD l = true ∧ (w.maskReg m.toNat).getLsbD l = sense) :
    w.takers c m sense ≠ [] := by
  obtain ⟨l, hl, hon, hs⟩ := h
  have : l ∈ w.takers c m sense := by
    rw [Warp.takers, Warp.transferLanes_run hr, List.mem_filter, mem_lanes]
    exact ⟨⟨hl, hon⟩, by simpa using hs⟩
  exact List.ne_nil_of_mem this

/-- Every lane takes the branch. -/
theorem State.condBranch_all (hw : s.warp? c.w = some w) (hd : s.debugOn w = false) (hr : (w.path c.p).status = .run)
    (hm : (w.path c.p).mask ≠ 0) (ht : (farOff c.pc f).toNat < 2 ^ 56)
    (h : ∀ l, l < 32 → (w.path c.p).mask.getLsbD l = true → (w.maskReg m.toNat).getLsbD l = sense) :
    s.condBranch c w m sense f = s.setWarp c.w (w.wentTo c .jump (farOff c.pc f)) := by
  simp only [State.condBranch]
  rw [Warp.takers_all hr h, if_pos rfl, State.branch_near _ _ _ _ _ ht, Warp.condGroups]
  exact State.retireTransfer_all hw hd hr hm .jump (fun l hl hon => by rw [h l hl hon]; simp)

/-- No lane takes the branch: the path goes on as after any instruction. -/
theorem State.condBranch_none (hw : s.warp? c.w = some w) (hd : s.debugOn w = false) (hr : (w.path c.p).status = .run)
    (hm : (w.path c.p).mask ≠ 0)
    (h : ∀ l, l < 32 → (w.path c.p).mask.getLsbD l = true → (w.maskReg m.toNat).getLsbD l = !sense) :
    s.condBranch c w m sense f = s.setWarp c.w (w.afterRetire c false) := by
  have hne : ¬[] = w.transferLanes c := fun e => lanes_ne_nil hm (by rw [← Warp.transferLanes_run hr, ← e])
  have hwent : w.wentTo c .cond c.next = w.afterRetire c false := if_pos ⟨rfl, rfl⟩
  simp only [State.condBranch]
  rw [Warp.takers_none hr h, if_neg hne, ← hwent, Warp.condGroups]
  exact (State.branch_untaken _ _ _ _ _).trans
    (State.retireTransfer_all hw hd hr hm .cond (fun l hl hon => by rw [h l hl hon]; simp))

/-- Some lane takes the branch to a target out of range. -/
theorem State.condBranch_far (hr : (w.path c.p).status = .run) (ht : 2 ^ 56 ≤ (farOff c.pc f).toNat)
    (h : ∃ l, l < 32 ∧ (w.path c.p).mask.getLsbD l = true ∧ (w.maskReg m.toNat).getLsbD l = sense) :
    s.condBranch c w m sense f = s.raiseWhole c 0x24 0 := by
  have htaken : (!(w.takers c m sense).isEmpty) = true := by simpa using Warp.takers_ne_nil hr h
  simp only [State.condBranch]
  rw [htaken, State.branch_far _ _ _ _ ht]

end

/-! ### Calls and returns (R127 to R129) -/

/-- A pair destination: an even lane or uniform register, or z. -/
def PairDst (d : Code) : Prop := classOf d ∈ dReg ∧ (d.toNat % 2 = 0 ∨ d = 0xFF)

theorem PairDst.cases {d : Code} (h : PairDst d) (hz : d ≠ 0xFF) :
    (classOf d = .lane ∨ classOf d = .uniform) ∧ classOf (nextCode d 1) = classOf d := by
  obtain ⟨hclass, heven⟩ := h
  have hc : classOf d = .lane ∨ classOf d = .uniform := by
    simp only [dReg, List.mem_cons, List.not_mem_nil, or_false] at hclass
    rcases hclass with hc | hc | hc
    · exact .inl hc
    · exact .inr hc
    · refine absurd ?_ hz
      have hlt := d.isLt
      apply code_eq_of_toNat
      simp only [classOf] at hc
      split_ifs at hc
      show d.toNat = 255
      omega
  exact ⟨hc, classOf_nextCode (heven.resolve_right hz) hc⟩

/-- What a register reads after a pair is written in a lane, or once for a uniform pair. -/
theorem Warp.rd_wrPair {d : Code} (hd : PairDst d) (w : Warp) (r : Code) {i l : Nat} (x : DWord) (hi : i < 32) (hl : l < 32) :
    (w.wrPair d i x).rd r l =
      if (d ≠ 0xFF ∧ (r = d ∨ r = nextCode d 1)) ∧ (classOf d = .uniform ∨ classOf d = .lane ∧ l = i) then
        (if r = d then x.lo else x.hi)
      else w.rd r l := by
  by_cases hz : d = 0xFF
  · subst hz
    rw [if_neg (by simp)]
    rfl
  obtain ⟨hclass, hnext⟩ := hd.cases hz
  have hne := nextCode_ne hz
  have hz' : ¬d = 255#8 := hz
  rw [Warp.wrPair, Warp.rd_wr _ _ _ _ _ _ hi hl, hnext]
  by_cases hrn : r = nextCode d 1
  · have hrd : r ≠ d := fun e => hne (hrn.symm.trans e)
    have hold : (w.wr d i x.lo).rd (nextCode d 1) l = w.rd (nextCode d 1) l := by
      rw [Warp.rd_wr _ _ _ _ _ _ hi hl, if_neg hne]
    subst hrn
    rcases hclass with hc | hc <;> simp [hc, hz', hrd, hold]
  · rw [if_neg hrn, Warp.rd_wr _ _ _ _ _ _ hi hl]
    by_cases hrd : r = d
    · rcases hclass with hc | hc <;> simp [hc, hz', hrd]
    · simp [hrn, hrd]

theorem Warp.link_withRegs (w : Warp) (c : Cur) (d : Code) (x : DWord) : w.link c d x = w.withRegs (w.link c d x) := by
  unfold Warp.link
  split
  · exact foldl_keeps (fun a : Warp => a = w.withRegs a) (fun a l => a.wrPair d l x)
      (fun a l ha => Warp.withRegs_trans ha (a.wrPair_withRegs d l x)) _ w rfl
  · exact w.wrPair_withRegs d 0 x

theorem Warp.link_fpflags (w : Warp) (c : Cur) (d : Code) (x : DWord) : (w.link c d x).fpflags = w.fpflags := by
  unfold Warp.link
  split
  · exact foldl_keeps (fun a : Warp => a.fpflags = w.fpflags) (fun a l => a.wrPair d l x)
      (fun a l ha => (a.wrPair_fpflags d l x).trans ha) _ w rfl
  · exact w.wrPair_fpflags d 0 x

/-- What a register reads after a lane pair is written in several lanes. -/
theorem Warp.rd_foldl_wrPair {d : Code} (hd : PairDst d) (hlane : classOf d = .lane) (r : Code) {l : Nat} (x : DWord) (hl : l < 32)
    (ls : List Nat) (hls : ∀ i ∈ ls, i < 32) (w : Warp) :
    (ls.foldl (fun a i => a.wrPair d i x) w).rd r l =
      if (d ≠ 0xFF ∧ (r = d ∨ r = nextCode d 1)) ∧ l ∈ ls then (if r = d then x.lo else x.hi) else w.rd r l := by
  induction ls generalizing w with
  | nil => simp
  | cons i ls ih =>
    rw [List.foldl_cons, ih (fun j hj => hls j (List.mem_cons_of_mem _ hj)), Warp.rd_wrPair hd _ _ _ (hls i (by simp)) hl,
      ← ite_or]
    exact if_congr (by rw [← and_or_left]; simp [hlane, or_comm]) rfl rfl

/-- The registers after a call's link is written. -/
theorem Warp.rd_link {w : Warp} {c : Cur} {d : Code} (hd : PairDst d) (hr : (w.path c.p).status = .run) (x : DWord) (r : Code)
    {l : Nat} (hl : l < 32) : (w.link c d x).rd r l = w.afterLink c d x r l := by
  unfold Warp.link Warp.afterLink isLane
  rw [Warp.transferLanes_run hr]
  by_cases hlane : classOf d = .lane
  · rw [if_pos (by simpa using hlane), Warp.rd_foldl_wrPair hd hlane r x hl _ (fun i hi => (mem_lanes.mp hi).1)]
    simp [hlane, mem_lanes, hl]
  · rw [if_neg (by simpa using hlane), Warp.rd_wrPair hd _ _ _ (by omega) hl]
    simp [hlane]

section
variable {s : State} {c : Cur} {w : Warp} {d a : Code} {t : DWord}

/-- The link is written, then all the lanes go to the target: what a call leaves. -/
theorem State.call_oneTarget (hw : s.warp? c.w = some w) (hdbg : s.debugOn w = false) (hr : (w.path c.p).status = .run)
    (hm : (w.path c.p).mask ≠ 0) (hd : PairDst d) {f : Nat → DWord}
    (hf : ∀ l, l < 32 → (w.path c.p).mask.getLsbD l = true → f l = t) :
    ∃ w' : Warp, (s.updWarp c.w (fun w => w.link c d c.next)).retireTransfer c .call
        (branches ((w.transferLanes c).map (fun l => (l, f l)))) = s.setWarp c.w (w'.wentTo c .call t) ∧
      w' = w.withRegs w' ∧ w'.fpflags = w.fpflags ∧ ∀ r l, l < 32 → w'.rd r l = w.afterLink c d c.next r l := by
  have hregs := w.link_withRegs c d c.next
  refine ⟨w.link c d c.next, ?_, hregs, w.link_fpflags c d _, fun r l hl => Warp.rd_link hd hr _ r hl⟩
  have hpath : (w.link c d c.next).path c.p = w.path c.p := by rw [hregs]; rfl
  have hlanes : w.transferLanes c = (w.link c d c.next).transferLanes c := by simp only [Warp.transferLanes, hpath]
  have hasid : (w.link c d c.next).asid = w.asid := by rw [hregs]; rfl
  rw [State.updWarp_eq_setWarp _ _ _ w hw, hlanes,
    State.retireTransfer_all (State.warp?_setWarp_self _ hw) (by simpa [State.debugOn, hasid] using hdbg) (by rw [hpath]; exact hr)
      (by rw [hpath]; exact hm) .call (by rw [hpath]; exact hf), State.setWarp_setWarp]

/-- The causes of a transfer through a pair, where no register is uncorrectable: the lanes whose target is out of range. -/
theorem Warp.pairCauses_sound (hb : w.badReg = []) (hr : (w.path c.p).status = .run) (i : Instr) (a : Code) :
    w.pairCauses c i a = ((w.path c.p).mask.lanes.filter (fun l => decide (2 ^ 56 ≤ (w.rdPair a l &&& ~~~3#64).toNat))).map
      (fun l => { lane := l, row := rowForm, code := 0x24, sub := 0, addr := 0 }) := by
  rw [Warp.pairCauses, badLanes_nil hb, Warp.transferLanes_run hr]
  rfl

theorem Warp.pairCauses_near (hb : w.badReg = []) (hr : (w.path c.p).status = .run) (i : Instr) (ht : t.toNat < 2 ^ 56)
    (h : ∀ l, l < 32 → (w.path c.p).mask.getLsbD l = true → w.rdPair a l &&& ~~~3#64 = t) :
    joinCauses (w.pairCauses c i a) = none := by
  have hnone : (w.path c.p).mask.lanes.filter (fun l => decide (2 ^ 56 ≤ (w.rdPair a l &&& ~~~3#64).toNat)) = [] := by
    rw [List.filter_eq_nil_iff]
    intro l hl
    rw [h l (mem_lanes.mp hl).1 (mem_lanes.mp hl).2]
    simpa using ht
  rw [Warp.pairCauses_sound hb hr, hnone]
  rfl

end

/-! ### Causes of the lanes of a transfer (R57, R124, R128, R129) -/

/-- A check that some lanes of a mask fail: they raise its code, and they alone are the faulting lanes. -/
theorem joinCauses_failing {m : Mask} {p : Nat → Bool} (row code : Nat) (addr : Nat → DWord)
    (h : ∃ l, l < 32 ∧ m.getLsbD l = true ∧ p l = true) :
    ∃ x : Cause, joinCauses ((m.lanes.filter p).map
        (fun l => { lane := l, row := row, code := code, sub := 0, addr := addr l })) = some x ∧
      x.code = code ∧ x.sub = 0 ∧ x.other = false ∧ ∀ l, l < 32 → x.lanes.getLsbD l = (m.getLsbD l && p l) := by
  obtain ⟨l, hl, hon, hp⟩ := h
  have hmem : l ∈ m.lanes.filter p := List.mem_filter.mpr ⟨mem_lanes.mpr ⟨hl, hon⟩, hp⟩
  obtain ⟨x, hx, hcode, hsub, hother, hlanes⟩ := joinCauses_same (code := code) (sub := 0)
    (xs := (m.lanes.filter p).map (fun l => { lane := l, row := row, code := code, sub := 0, addr := addr l }))
    (by simpa using List.ne_nil_of_mem hmem) (List.forall_mem_map.mpr (fun _ _ => ⟨rfl, rfl⟩))
  refine ⟨x, hx, hcode, hsub, hother, fun j hj => ?_⟩
  rw [hlanes, maskOf_getLsbD _ hj]
  simp [mem_lanes, hj]

theorem filter_ne_nil {m : Mask} {p : Nat → Bool} (h : ∃ l, l < 32 ∧ m.getLsbD l = true ∧ p l = true) : m.lanes.filter p ≠ [] := by
  obtain ⟨l, hl, hon, hp⟩ := h
  exact List.ne_nil_of_mem (List.mem_filter.mpr ⟨mem_lanes.mpr ⟨hl, hon⟩, hp⟩)

theorem filter_eq_nil {m : Mask} {p : Nat → Bool} (h : ∀ l, l < 32 → m.getLsbD l = true → p l = false) : m.lanes.filter p = [] := by
  rw [List.filter_eq_nil_iff]
  intro l hl
  simp [h l (mem_lanes.mp hl).1 (mem_lanes.mp hl).2]

/-! ### BRX (R124) -/

/-- The address of the table entry that a lane's index names. -/
def Warp.brxEntry (w : Warp) (a b : Code) (l : Nat) : DWord := w.rdPair b 0 + 4 * (w.rd a l).setWidth 64

section
variable {s q : State} {c : Cur} {w : Warp} {n a b : Code} {i : Instr}

theorem State.watched_off (hd : s.debugOn w = false) (c : Cur) (va k : Nat) (reads writes : Bool) :
    s.watched c w va k reads writes = false := by
  have : ((s.ctxOf w.asid).debug).getLsbD 0 = false := hd
  rw [State.watched, this]
  rfl

/-- An index at or beyond the length of the table. -/
theorem State.brxRead_beyond (hp : Plain s w) (hr : (w.path c.p).status = .run)
    (h : ∃ l, l < 32 ∧ (w.path c.p).mask.getLsbD l = true ∧ decide (n.toNat ≤ (w.rd a l).toNat) = true) :
    s.brxRead c w i n a b = .bad (((w.path c.p).mask.lanes.filter (fun l => decide (n.toNat ≤ (w.rd a l).toNat))).map
      (fun l => { lane := l, row := rowForm, code := 0x0F, sub := 0, addr := 0 })) s := by
  simp only [State.brxRead, badLanes_nil hp.sound, Warp.transferLanes_run hr]
  rw [if_neg (by simp), if_pos (filter_ne_nil h)]

/-- The indices are within the table; an entry's address is out of range. -/
theorem State.brxRead_far (hp : Plain s w) (hr : (w.path c.p).status = .run)
    (hn : ∀ l, l < 32 → (w.path c.p).mask.getLsbD l = true → (w.rd a l).toNat < n.toNat)
    (h : ∃ l, l < 32 ∧ (w.path c.p).mask.getLsbD l = true ∧ decide (2 ^ 56 ≤ (w.brxEntry a b l).toNat) = true) :
    s.brxRead c w i n a b = .bad (((w.path c.p).mask.lanes.filter (fun l => decide (2 ^ 56 ≤ (w.brxEntry a b l).toNat))).map
      (fun l => { lane := l, row := rowForm, code := 0x24, sub := 0, addr := w.brxEntry a b l })) s := by
  have hout : (w.path c.p).mask.lanes.filter (fun l => decide (n.toNat ≤ (w.rd a l).toNat)) = [] :=
    filter_eq_nil (fun l hl hon => by simpa using hn l hl hon)
  simp only [State.brxRead, badLanes_nil hp.sound, Warp.transferLanes_run hr, hout]
  rw [if_neg (by simp), if_neg (by simp)]
  exact if_pos (filter_ne_nil h)

/-- The entries are within the table and in range; one's address is misaligned. -/
theorem State.brxRead_odd (hp : Plain s w) (hr : (w.path c.p).status = .run)
    (hn : ∀ l, l < 32 → (w.path c.p).mask.getLsbD l = true → (w.rd a l).toNat < n.toNat)
    (hf : ∀ l, l < 32 → (w.path c.p).mask.getLsbD l = true → (w.brxEntry a b l).toNat < 2 ^ 56)
    (h : ∃ l, l < 32 ∧ (w.path c.p).mask.getLsbD l = true ∧ decide ((w.brxEntry a b l).toNat % 4 ≠ 0) = true) :
    s.brxRead c w i n a b = .bad (((w.path c.p).mask.lanes.filter (fun l => decide ((w.brxEntry a b l).toNat % 4 ≠ 0))).map
      (fun l => { lane := l, row := rowForm2, code := 0x20, sub := 0, addr := w.brxEntry a b l })) s := by
  have hout : (w.path c.p).mask.lanes.filter (fun l => decide (n.toNat ≤ (w.rd a l).toNat)) = [] :=
    filter_eq_nil (fun l hl hon => by simpa using hn l hl hon)
  have hfar : (w.path c.p).mask.lanes.filter (fun l => decide (2 ^ 56 ≤ (w.brxEntry a b l).toNat)) = [] :=
    filter_eq_nil (fun l hl hon => by simpa using hf l hl hon)
  simp only [State.brxRead, badLanes_nil hp.sound, Warp.transferLanes_run hr, hout]
  rw [if_neg (by simp), if_neg (by simp)]
  exact (if_neg (not_not_intro hfar)).trans (if_pos (filter_ne_nil h))

/-- Every entry is read without a cause and leads to a target in range. -/
theorem State.brxRead_go (hp : Plain s w) (hr : (w.path c.p).status = .run) {vals : List (Nat × List Byte)}
    (h : ∀ l, l < 32 → (w.path c.p).mask.getLsbD l = true →
      (w.rd a l).toNat < n.toNat ∧ (w.brxEntry a b l).toNat < 2 ^ 56 ∧ (w.brxEntry a b l).toNat % 4 = 0 ∧
      (farOff c.pc (BitVec.ofNat 32 (readValue vals l))).toNat < 2 ^ 56)
    (hread : s.readLanes c w false 4 ((w.path c.p).mask.lanes.map (fun l => { lane := l, va := (w.brxEntry a b l).toNat })) =
      .done vals [] q) :
    s.brxRead c w i n a b =
      .go ((w.path c.p).mask.lanes.map (fun l => (l, farOff c.pc (BitVec.ofNat 32 (readValue vals l))))) q := by
  have hout : (w.path c.p).mask.lanes.filter (fun l => decide (n.toNat ≤ (w.rd a l).toNat)) = [] :=
    filter_eq_nil (fun l hl hon => by simpa using (h l hl hon).1)
  have hfar : (w.path c.p).mask.lanes.filter (fun l => decide (2 ^ 56 ≤ (w.brxEntry a b l).toNat)) = [] :=
    filter_eq_nil (fun l hl hon => by simpa using (h l hl hon).2.1)
  have hodd : (w.path c.p).mask.lanes.filter (fun l => decide ((w.brxEntry a b l).toNat % 4 ≠ 0)) = [] :=
    filter_eq_nil (fun l hl hon => by simpa using (h l hl hon).2.2.1)
  have hseen : (w.path c.p).mask.lanes.filter (fun l => s.watched c w (w.brxEntry a b l).toNat 4 true false) = [] :=
    filter_eq_nil (fun l _ _ => State.watched_off hp.debug ..)
  have htargets : ((w.path c.p).mask.lanes.map (fun l => (l, farOff c.pc (BitVec.ofNat 32 (readValue vals l))))).filter
      (fun t => decide (2 ^ 56 ≤ t.2.toNat)) = [] := by
    rw [List.filter_map, List.map_eq_nil_iff]
    exact filter_eq_nil (fun l hl hon => by simpa using (h l hl hon).2.2.2)
  simp only [State.brxRead, badLanes_nil hp.sound, Warp.transferLanes_run hr, hout]
  refine (if_neg (by simp)).trans ((if_neg (by simp)).trans ((if_neg (not_not_intro hfar)).trans
    ((if_neg (not_not_intro hodd)).trans ((if_neg (not_not_intro hseen)).trans ?_))))
  simp only [Warp.brxEntry] at hread
  simp only [hread, htargets]
  rfl

theorem exec_brx_ready (h : Ready (.brx n a b) .none s c w) :
    (∀ ts, s.brxRead c w (.brx n a b) n a b = .go ts q → exec (.brx n a b) s = .next (q.retireTransfer c .jump (branches ts))) ∧
    (∀ xs x, s.brxRead c w (.brx n a b) n a b = .bad xs q → joinCauses xs = some x →
      exec (.brx n a b) s = .next (q.raise c x none)) := by
  rw [exec_brx, execBrx, issue_ready h]
  exact ⟨fun ts hg => by rw [hg], fun xs x hg hx => by rw [hg]; simp only [hx]⟩

end

/-! ### What CALLX, RET and CALL execute where their lanes pass the checks of issue -/

section
variable {s : State} {c : Cur} {w : Warp} {d a : Code}

theorem exec_callx_ready (h : Ready (.callx d a) .none s c w) :
    (joinCauses (w.pairCauses c (.callx d a) a) = none → exec (.callx d a) s =
      .next ((s.updWarp c.w (fun w => w.link c d c.next)).retireTransfer c .call (w.pairGroups c a))) ∧
    ∀ x, joinCauses (w.pairCauses c (.callx d a) a) = some x → exec (.callx d a) s = .next (s.raise c x none) := by
  rw [exec_callx, execCallx, issue_ready h]
  exact ⟨fun hx => by rw [hx], fun x hx => by rw [hx]⟩

theorem exec_ret_ready (h : Ready (.ret a) .none s c w) :
    (joinCauses (w.pairCauses c (.ret a) a) = none → exec (.ret a) s = .next (s.retireTransfer c .jump (w.pairGroups c a))) ∧
    ∀ x, joinCauses (w.pairCauses c (.ret a) a) = some x → exec (.ret a) s = .next (s.raise c x none) := by
  rw [exec_ret, execRet, issue_ready h]
  exact ⟨fun hx => by rw [hx], fun x hx => by rw [hx]⟩

/-- CALL to a target in range. -/
theorem exec_call_ready {i : BitVec 16} (h : Ready (.call d i) .none s c w) (ht : (farOff c.pc i).toNat < 2 ^ 56) :
    exec (.call d i) s = .next ((s.updWarp c.w (fun w => w.link c d c.next)).retireTransfer c .call
      (branches ((w.transferLanes c).map (fun l => (l, farOff c.pc i))))) := by
  rw [exec_call, execCall, issue_ready h]
  simp only [if_neg (not_le.mpr ht)]

end

section
variable {s q : State} {c : Cur} {w : Warp} {d a b n : Code} {t : DWord}

/-- BRA to a target in range moves the path there. -/
theorem bra_moves {f : BitVec 20} (hp : Plain s w) (hr : (w.path c.p).status = .run) (hm : (w.path c.p).mask ≠ 0)
    (h : Ready (.bra f) .none s c w) (ht : (farOff c.pc f).toNat < 2 ^ 56) :
    exec (.bra f) s = .next (s.setWarp c.w (w.wentTo c .jump (farOff c.pc f))) := by
  rw [exec_bra_ready h, State.branch_near _ _ _ _ _ ht, State.retireTransfer_all h.warp hp.debug hr hm .jump (fun _ _ _ => rfl)]

/-- CALL of lanes with one target writes the link and goes there. -/
theorem call_moves {i : BitVec 16} (hp : Plain s w) (hr : (w.path c.p).status = .run) (hm : (w.path c.p).mask ≠ 0)
    (heven : d.toNat % 2 = 0 ∨ d = 0xFF) (h : Ready (.call d i) .none s c w) (ht : (farOff c.pc i).toNat < 2 ^ 56) :
    ∃ w' : Warp, exec (.call d i) s = .next (s.setWarp c.w (w'.wentTo c .call (farOff c.pc i))) ∧ w' = w.withRegs w' ∧
      w'.fpflags = w.fpflags ∧ ∀ r l, l < 32 → w'.rd r l = w.afterLink c d c.next r l := by
  have hd : PairDst d := ⟨h.accepts (o := od d dReg 2) List.mem_cons_self, heven⟩
  rw [exec_call_ready h ht]
  simpa using State.call_oneTarget h.warp hp.debug hr hm hd (f := fun _ => farOff c.pc i) (fun _ _ _ => rfl)

/-- CALLX of lanes with one target writes the link and goes there. -/
theorem callx_moves (hp : Plain s w) (hr : (w.path c.p).status = .run) (hm : (w.path c.p).mask ≠ 0)
    (heven : d.toNat % 2 = 0 ∨ d = 0xFF) (h : Ready (.callx d a) .none s c w) (ht : t.toNat < 2 ^ 56)
    (hf : ∀ l, l < 32 → (w.path c.p).mask.getLsbD l = true → w.rdPair a l &&& ~~~3#64 = t) :
    ∃ w' : Warp, exec (.callx d a) s = .next (s.setWarp c.w (w'.wentTo c .call t)) ∧ w' = w.withRegs w' ∧
      w'.fpflags = w.fpflags ∧ ∀ r l, l < 32 → w'.rd r l = w.afterLink c d c.next r l := by
  have hd : PairDst d := ⟨h.accepts (o := od d dReg 2) List.mem_cons_self, heven⟩
  rw [(exec_callx_ready h).1 (Warp.pairCauses_near hp.sound hr _ ht hf)]
  simpa [Warp.pairGroups] using State.call_oneTarget h.warp hp.debug hr hm hd (f := fun l => pairTarget (w.rdPair a l)) hf

/-- RET of lanes with one target goes there. -/
theorem ret_moves (hp : Plain s w) (hr : (w.path c.p).status = .run) (hm : (w.path c.p).mask ≠ 0)
    (h : Ready (.ret a) .none s c w) (ht : t.toNat < 2 ^ 56)
    (hf : ∀ l, l < 32 → (w.path c.p).mask.getLsbD l = true → w.rdPair a l &&& ~~~3#64 = t) :
    exec (.ret a) s = .next (s.setWarp c.w (w.wentTo c .jump t)) := by
  rw [(exec_ret_ready h).1 (Warp.pairCauses_near hp.sound hr _ ht hf), Warp.pairGroups,
    State.retireTransfer_all h.warp hp.debug hr hm .jump (f := fun l => pairTarget (w.rdPair a l)) hf]

/-- BRX whose entries are read without a cause makes the transfer to the PC plus each lane's entry. -/
theorem brx_moves {vals : List (Nat × List Byte)} (hp : Plain s w) (hr : (w.path c.p).status = .run)
    (h : Ready (.brx n a b) .none s c w)
    (hl : ∀ l, l < 32 → (w.path c.p).mask.getLsbD l = true →
      (w.rd a l).toNat < n.toNat ∧ (w.brxEntry a b l).toNat < 2 ^ 56 ∧ (w.brxEntry a b l).toNat % 4 = 0 ∧
      (farOff c.pc (BitVec.ofNat 32 (readValue vals l))).toNat < 2 ^ 56)
    (hread : s.readLanes c w false 4 ((w.path c.p).mask.lanes.map (fun l => { lane := l, va := (w.brxEntry a b l).toNat })) =
      .done vals [] q) :
    exec (.brx n a b) s = .next (q.retireTransfer c .jump
      (branches ((w.path c.p).mask.lanes.map (fun l => (l, farOff c.pc (BitVec.ofNat 32 (readValue vals l))))))) :=
  (exec_brx_ready h).1 _ (State.brxRead_go hp hr hl hread)

/-- The instruction raises `code` in exactly the lanes of its path that fail a check. -/
def RaisesIn (i : Instr) (s : State) (c : Cur) (w : Warp) (code : Nat) (bad : Nat → Bool) : Prop :=
  ∃ x : Cause, exec i s = .next (s.raise c x none) ∧ x.code = code ∧ x.sub = 0 ∧ x.other = false ∧
    ∀ l, l < 32 → x.lanes.getLsbD l = ((w.path c.p).mask.getLsbD l && bad l)

theorem brx_raises {code row : Nat} {bad : Nat → Bool} {addr : Nat → DWord} (h : Ready (.brx n a b) .none s c w)
    (hb : ∃ l, l < 32 ∧ (w.path c.p).mask.getLsbD l = true ∧ bad l = true)
    (hread : s.brxRead c w (.brx n a b) n a b = .bad (((w.path c.p).mask.lanes.filter bad).map
      (fun l => { lane := l, row := row, code := code, sub := 0, addr := addr l })) s) :
    RaisesIn (.brx n a b) s c w code bad := by
  obtain ⟨x, hx, hcause⟩ := joinCauses_failing row code addr hb
  exact ⟨x, (exec_brx_ready h).2 _ x hread hx, hcause⟩

/-- The checks of BRX in their order: index, range, alignment. -/
theorem brx_checks (hp : Plain s w) (hr : (w.path c.p).status = .run) (h : Ready (.brx n a b) .none s c w) :
    ((∃ l, l < 32 ∧ (w.path c.p).mask.getLsbD l = true ∧ decide (n.toNat ≤ (w.rd a l).toNat) = true) →
      RaisesIn (.brx n a b) s c w 0x0F (fun l => decide (n.toNat ≤ (w.rd a l).toNat))) ∧
    ((∀ l, l < 32 → (w.path c.p).mask.getLsbD l = true → (w.rd a l).toNat < n.toNat) →
      ((∃ l, l < 32 ∧ (w.path c.p).mask.getLsbD l = true ∧ decide (2 ^ 56 ≤ (w.brxEntry a b l).toNat) = true) →
        RaisesIn (.brx n a b) s c w 0x24 (fun l => decide (2 ^ 56 ≤ (w.brxEntry a b l).toNat))) ∧
      ((∀ l, l < 32 → (w.path c.p).mask.getLsbD l = true → (w.brxEntry a b l).toNat < 2 ^ 56) →
        (∃ l, l < 32 ∧ (w.path c.p).mask.getLsbD l = true ∧ decide ((w.brxEntry a b l).toNat % 4 ≠ 0) = true) →
        RaisesIn (.brx n a b) s c w 0x20 (fun l => decide ((w.brxEntry a b l).toNat % 4 ≠ 0)))) :=
  ⟨fun hb => brx_raises h hb (State.brxRead_beyond hp hr hb),
    fun hn => ⟨fun hb => brx_raises h hb (State.brxRead_far hp hr hn hb),
      fun hf hb => brx_raises h hb (State.brxRead_odd hp hr hn hf hb)⟩⟩

/-- A target pair out of range raises 0x24 in the lanes that hold it, before any link is written. -/
theorem pairCauses_far (hp : Plain s w) (hr : (w.path c.p).status = .run) (i : Instr)
    (hb : ∃ l, l < 32 ∧ (w.path c.p).mask.getLsbD l = true ∧ decide (2 ^ 56 ≤ (w.rdPair a l &&& ~~~3#64).toNat) = true) :
    ∃ x : Cause, joinCauses (w.pairCauses c i a) = some x ∧ x.code = 0x24 ∧ x.sub = 0 ∧ x.other = false ∧
      ∀ l, l < 32 → x.lanes.getLsbD l =
        ((w.path c.p).mask.getLsbD l && decide (2 ^ 56 ≤ (w.rdPair a l &&& ~~~3#64).toNat)) := by
  rw [Warp.pairCauses_sound hp.sound hr]
  exact joinCauses_failing rowForm 0x24 (fun _ => 0) hb

end

/-- Settles O8: each transfer checks its targets, then moves its one group by `wentTo`. -/
theorem uniformTransfers : Obligations.UniformTransfers := by
  unfold Obligations.UniformTransfers
  refine ⟨fun m f s c w hp hr hm ht => ⟨fun h => ?_, fun e he h hall => ?_⟩,
    fun m f s c w hr hm => ⟨fun e he h hp hnone => ?_, fun ht => ⟨fun h => ?_, fun e he h hsome => ?_⟩⟩,
    fun d a i t s c w hp hr hm ht hd => ⟨fun h e => ?_, fun h hall => callx_moves hp hr hm hd h ht hall,
      fun h hall => ret_moves hp hr hm h ht hall⟩,
    fun n a b s q c w vals h hp hr hl hread => brx_moves hp hr h hl hread,
    fun n a b d s c w hp hr => ⟨brx_checks hp hr, fun h hb => ?_, fun h hb => ?_⟩⟩
  · exact bra_moves hp hr hm h ht
  · rw [exec_condBranch_ready he h, State.condBranch_all h.warp hp.debug hr hm ht hall, farOff]
  · rw [exec_condBranch_ready he h, State.condBranch_none h.warp hp.debug hr hm hnone]
  · rw [exec_bra_ready h, State.branch_far (target := farOff c.pc f) _ _ _ _ ht]
  · rw [exec_condBranch_ready he h, State.condBranch_far hr ht hsome]
  · subst e
    exact call_moves hp hr hm hd h ht
  · obtain ⟨x, hx, hcause⟩ := pairCauses_far hp hr (.callx d a) hb
    exact ⟨x, (exec_callx_ready h).2 x hx, hcause⟩
  · obtain ⟨x, hx, hcause⟩ := pairCauses_far hp hr (.ret a) hb
    exact ⟨x, (exec_ret_ready h).2 x hx, hcause⟩

end Sys2Proof.Machine
end

section
/-! ## Family 01: loops -/
namespace Sys2Proof.Machine

/-! ### Hardware loops (R131 to R134) -/

theorem exec_loop (d : Code) (x : BitVec 16) (s : State) : exec (.loop d x) s = execLoop d x s := rfl
theorem exec_loopi (d : Code) (x : BitVec 16) (s : State) : exec (.loopi d x) s = execLoopi d x s := rfl

section
variable {s q : State} {c : Cur} {w : Warp} {count : Word} {off : BitVec 16}

theorem State.enterLoop_full (h : 4 ≤ (w.path c.p).stack.length) : s.enterLoop c w count off = s.raiseWhole c 0x0D 0 := by
  simp only [State.enterLoop]
  rw [if_pos h]

/-- A count other than 0 pushes an entry, and the path goes on. -/
theorem State.enterLoop_push (hw : s.warp? c.w = some w) (hd : s.debugOn w = false) (h : (w.path c.p).stack.length < 4)
    (hc : count ≠ 0) : s.enterLoop c w count off =
      s.setWarp c.w ((w.updPath c.p (fun q => { q with stack :=
        { start := c.next, stop := c.pc + 4 * off.setWidth 64, count := count } :: q.stack })).afterRetire c false) := by
  simp only [State.enterLoop]
  rw [if_neg (not_le.mpr h), if_neg hc, State.retireWith_moved hw hd _ rfl]

/-- A count of 0 skips the body: the path goes on after its last instruction. -/
theorem State.enterLoop_skip {n : Nat} (h : (w.path c.p).stack.length < 4)
    (hn : s.lengthAt c w (c.pc + 4 * off.setWidth 64).toNat = (.words n, q))
    (ht : (c.pc + 4 * off.setWidth 64 + BitVec.ofNat 64 (4 * n)).toNat < 2 ^ 56) :
    s.enterLoop c w 0 off = q.retireTransfer c .jump
      (branches (c.lanes.lanes.map (fun l => (l, c.pc + 4 * off.setWidth 64 + BitVec.ofNat 64 (4 * n))))) := by
  simp only [State.enterLoop]
  rw [if_neg (not_le.mpr h), if_true, hn]
  exact if_neg (not_le.mpr ht)

end

/-- LOOP takes its count from a register, LOOPI from its field. -/
theorem exec_loop_ready {e : (BitVec 8 → BitVec 16 → Instr) × (Warp → Code → Word)}
    (he : e ∈ ([(fun d x => Instr.loop d x, fun w d => w.rd d 0), (fun d x => Instr.loopi d x, fun _ d => d.setWidth 32)] :
      List ((BitVec 8 → BitVec 16 → Instr) × (Warp → Code → Word))))
    {d : Code} {x : BitVec 16} {s : State} {c : Cur} {w : Warp} (h : Ready (e.1 d x) .none s c w) :
    exec (e.1 d x) s = .next (s.enterLoop c w (e.2 w d) x) := by
  simp only [List.mem_cons, List.not_mem_nil, or_false] at he
  rcases he with rfl | rfl
  · rw [exec_loop, execLoop, issue_ready h]
  · rw [exec_loopi, execLoopi, issue_ready h]

/-! ### The end check (R133) -/

theorem endCheck_elsewhere {x : DWord} {e : LoopEntry} (h : e.stop ≠ x) (n : DWord) (r : List LoopEntry) :
    endCheck x n (e :: r) = (e :: r, n) := by
  rw [endCheck, if_neg h]

theorem count_sub_one_eq_zero {k : Word} : k - 1 = 0 ↔ k = 1 := sub_eq_zero

theorem endCheck_again {x : DWord} {e : LoopEntry} (h : e.stop = x) (hc : e.count ≠ 1) (n : DWord) (r : List LoopEntry) :
    endCheck x n (e :: r) = ({ e with count := e.count - 1 } :: r, e.start) := by
  rw [endCheck, if_pos h, if_neg (mt count_sub_one_eq_zero.mp hc)]

theorem endCheck_last {x : DWord} {e : LoopEntry} (h : e.stop = x) (hc : e.count = 1) (n : DWord) (r : List LoopEntry) :
    endCheck x n (e :: r) = endCheck x n r := by
  rw [endCheck, if_pos h, if_pos (count_sub_one_eq_zero.mpr hc)]

theorem covers_iff (e : LoopEntry) (a : DWord) : e.covers a = true ↔ e.start ≤ a ∧ a ≤ e.stop := by
  simp [LoopEntry.covers]

theorem popScan_inside {e : LoopEntry} {a : DWord} (h : e.start ≤ a ∧ a ≤ e.stop) (r : List LoopEntry) :
    popScan a (e :: r) = e :: r := by
  rw [popScan, if_pos ((covers_iff e a).mpr h)]

theorem popScan_outside {e : LoopEntry} {a : DWord} (h : ¬(e.start ≤ a ∧ a ≤ e.stop)) (r : List LoopEntry) :
    popScan a (e :: r) = popScan a r := by
  rw [popScan, if_neg (mt (covers_iff e a).mp h)]

/-- Settles O10: entering a loop by the depth of the stack and the count; then the end check and the scan, case by case. -/
theorem loopResults : Obligations.LoopResults := by
  unfold Obligations.LoopResults
  refine ⟨fun e he d x s c w h hp => ?_, fun x n e r => ?_⟩
  · rw [exec_loop_ready he h]
    refine ⟨fun hs hc => ?_, fun hs => ?_, fun n q hs hc hn ht => ?_⟩
    · rw [State.enterLoop_push h.warp hp.debug hs hc]
    · rw [State.enterLoop_full hs]
    · rw [hc, State.enterLoop_skip hs hn ht]
  · exact ⟨rfl, fun h => endCheck_elsewhere h n r, fun h hc => endCheck_again h hc n r, fun h hc => endCheck_last h hc n r,
      fun h1 h2 => popScan_inside ⟨h1, h2⟩ r, fun h => popScan_outside h r⟩

end Sys2Proof.Machine
end

section
/-! ## Family 01: word destinations lane by lane, and the cross-lane instructions -/
namespace Sys2Proof.Machine

/-! ### Writing the lanes of a word destination (R18, R24) -/

/-- The listed lanes write their values and exceptions. -/
def Warp.writeLanes (w : Warp) (d : Code) (f : Nat → Word) (fl : Nat → FpFlags) (ls : List Nat) : Warp :=
  ls.foldl (fun x l => (x.wr d l (f l)).orFlags l (fl l)) w

/-- The listed lanes write zero. -/
def Warp.zeroLanes (w : Warp) (d : Code) (ls : List Nat) : Warp := ls.foldl (fun x l => x.wr d l 0) w

theorem Warp.writeLanes_withRegs (w : Warp) (d : Code) (f : Nat → Word) (fl : Nat → FpFlags) (ls : List Nat) :
    w.writeLanes d f fl ls = w.withRegs (w.writeLanes d f fl ls) :=
  foldl_keeps (fun a : Warp => a = w.withRegs a) _
    (fun a l ha => Warp.withRegs_trans (Warp.withRegs_trans ha (a.wr_withRegs d l (f l))) (Warp.orFlags_withRegs _ l (fl l))) ls w rfl

theorem Warp.zeroLanes_withRegs (w : Warp) (d : Code) (ls : List Nat) : w.zeroLanes d ls = w.withRegs (w.zeroLanes d ls) :=
  foldl_keeps (fun a : Warp => a = w.withRegs a) _ (fun a l ha => Warp.withRegs_trans ha (a.wr_withRegs d l 0)) ls w rfl

/-- A write to a destination that is written lane by lane. -/
theorem Warp.rd_wr_lane {d : Code} (ho : OnceFits d false) (w : Warp) (r : Code) (x : Word) {i l : Nat} (hi : i < 32) (hl : l < 32) :
    (w.wr d i x).rd r l = if (r = d ∧ classOf d = .lane) ∧ l = i then x else w.rd r l := by
  rw [Warp.rd_wr _ _ _ _ _ _ hi hl]
  unfold OnceFits at ho
  by_cases hr : r = d
  · subst hr
    rw [if_pos rfl]
    split <;> simp_all
  · simp [hr]

/-- Folding one write per lane: a lane's place holds its own value. -/
theorem Warp.rd_foldl_wr {d : Code} (r : Code) {l : Nat} (g : Warp → Nat → Warp) (f : Nat → Word) (ls : List Nat)
    (hg : ∀ a, ∀ i ∈ ls, (g a i).rd r l = if (r = d ∧ classOf d = .lane) ∧ l = i then f i else a.rd r l) (w : Warp) :
    (ls.foldl g w).rd r l = if (r = d ∧ classOf d = .lane) ∧ l ∈ ls then f l else w.rd r l := by
  induction ls generalizing w with
  | nil => simp
  | cons i ls ih =>
    rw [List.foldl_cons, ih (fun a j hj => hg a j (List.mem_cons_of_mem _ hj)), hg w i (by simp)]
    by_cases hli : l = i
    · subst hli
      rw [← ite_or]
      exact if_congr (by rw [← and_or_left]; simp) rfl rfl
    · exact if_congr (by simp [hli]) rfl (by simp [hli])

theorem Warp.rd_writeLanes {d : Code} (ho : OnceFits d false) (w : Warp) (f : Nat → Word) (fl : Nat → FpFlags) {ls : List Nat}
    (hls : ∀ i ∈ ls, i < 32) (r : Code) {l : Nat} (hl : l < 32) :
    (w.writeLanes d f fl ls).rd r l = if (r = d ∧ classOf d = .lane) ∧ l ∈ ls then f l else w.rd r l :=
  Warp.rd_foldl_wr r _ f ls (fun a i hi => (Warp.rd_orFlags ..).trans (Warp.rd_wr_lane ho a r (f i) (hls i hi) hl)) w

theorem Warp.rd_zeroLanes {d : Code} (ho : OnceFits d false) (w : Warp) {ls : List Nat} (hls : ∀ i ∈ ls, i < 32) (r : Code)
    {l : Nat} (hl : l < 32) :
    (w.zeroLanes d ls).rd r l = if (r = d ∧ classOf d = .lane) ∧ l ∈ ls then 0 else w.rd r l :=
  Warp.rd_foldl_wr r _ (fun _ => 0) ls (fun a i hi => Warp.rd_wr_lane ho a r 0 (hls i hi) hl) w

theorem Warp.zeroLanes_fpflags (w : Warp) (d : Code) (ls : List Nat) : (w.zeroLanes d ls).fpflags = w.fpflags :=
  foldl_keeps (fun a : Warp => a.fpflags = w.fpflags) _ (fun a l ha => (a.wr_fpflags d l 0).trans ha) ls w rfl

theorem Warp.flags_writeLanes (w : Warp) (d : Code) (f : Nat → Word) (fl : Nat → FpFlags) (ls : List Nat) (l : Nat) :
    Assoc.get (w.writeLanes d f fl ls).fpflags 0 l =
      if l ∈ ls then Assoc.get w.fpflags 0 l ||| fl l else Assoc.get w.fpflags 0 l := by
  unfold Warp.writeLanes
  induction ls generalizing w with
  | nil => simp
  | cons i ls ih =>
    have hone : Assoc.get ((w.wr d i (f i)).orFlags i (fl i)).fpflags 0 l =
        if l = i then Assoc.get w.fpflags 0 l ||| fl l else Assoc.get w.fpflags 0 l := by
      simp only [Warp.orFlags, Warp.wr_fpflags, Assoc.get_set]
      by_cases hli : l = i <;> simp [hli]
    rw [List.foldl_cons, ih, hone]
    by_cases hli : l = i <;> by_cases hm : l ∈ ls <;> simp [hli, hm, BitVec.or_assoc]

/-- The lanes that run are those that are on under the guard. -/
theorem mem_onLanes {w : Warp} {pf : Option Prefix} {c : Cur} {l : Nat} :
    l ∈ w.onLanes pf false c ↔ l < 32 ∧ w.runs pf c.lanes l = true := by
  simp [Warp.onLanes, Warp.runs, mem_lanes, and_assoc]

/-- The lanes that are on and guarded off. -/
def Warp.offLanes (w : Warp) (pf : Option Prefix) (c : Cur) : List Nat :=
  c.lanes.lanes.filter (fun l => !(w.guardOf pf).getLsbD l)

theorem mem_offLanes {w : Warp} {pf : Option Prefix} {c : Cur} {l : Nat} :
    l ∈ w.offLanes pf c ↔ l < 32 ∧ c.lanes.getLsbD l = true ∧ (w.guardOf pf).getLsbD l = false := by
  simp [Warp.offLanes, mem_lanes, and_assoc]

/-- The guarded-off lanes write zero where zero policy is in force (R24). -/
def Warp.zeroOffLanes (a w : Warp) (pf : Option Prefix) (c : Cur) (d : Code) : Warp :=
  if w.zeroPolicy pf then a.zeroLanes d (w.offLanes pf c) else a

section
variable {w : Warp} {pf : Option Prefix} {c : Cur} {d : Code} {f : Nat → Word} {fl : Nat → FpFlags}

theorem Warp.zeroOffLanes_withRegs (a w : Warp) (pf : Option Prefix) (c : Cur) (d : Code) :
    a.zeroOffLanes w pf c d = a.withRegs (a.zeroOffLanes w pf c d) := by
  unfold Warp.zeroOffLanes
  split
  · exact a.zeroLanes_withRegs d _
  · rfl

theorem Warp.zeroOffLanes_fpflags (a w : Warp) (pf : Option Prefix) (c : Cur) (d : Code) :
    (a.zeroOffLanes w pf c d).fpflags = a.fpflags := by
  unfold Warp.zeroOffLanes
  split
  · exact a.zeroLanes_fpflags d _
  · rfl

theorem Warp.rd_zeroOffLanes (ho : OnceFits d false) (a w : Warp) (pf : Option Prefix) (c : Cur) (r : Code) {l : Nat} (hl : l < 32) :
    (a.zeroOffLanes w pf c d).rd r l =
      if (r = d ∧ classOf d = .lane) ∧ w.zeroed pf c.lanes l = true then 0 else a.rd r l := by
  unfold Warp.zeroOffLanes Warp.zeroed
  by_cases hz : w.zeroPolicy pf = true
  · rw [if_pos hz, Warp.rd_zeroLanes ho a (fun i hi => (mem_offLanes.mp hi).1) r hl]
    exact if_congr (by simp [mem_offLanes, hl, hz]) rfl rfl
  · rw [if_neg hz]
    simp [hz]

/-- `afterWord` of a destination that is written lane by lane. -/
theorem Warp.afterWord_lanes (ho : OnceFits d false) (w : Warp) (pf : Option Prefix) (m : Mask) (f : Nat → Word) (r : Code) (l : Nat) :
    w.afterWord pf m d f r l =
      if (r = d ∧ classOf d = .lane) ∧ w.runs pf m l = true then f l
      else if (r = d ∧ classOf d = .lane) ∧ w.zeroed pf m l = true then 0 else w.rd r l := by
  unfold OnceFits at ho
  unfold Warp.afterWord
  by_cases hr : r = d
  · subst hr
    rw [if_pos rfl]
    split <;> simp_all
  · simp [hr]

/-- A lane that runs is not one that zero policy clears. -/
theorem Warp.not_zeroed_of_runs {m : Mask} {l : Nat} (h : w.runs pf m l = true) : w.zeroed pf m l = false := by
  simp only [Warp.runs, Bool.and_eq_true] at h
  simp [Warp.zeroed, h.2]

/-- The warp once its guarded-off lanes are cleared and then the lanes that run have written. -/
def Warp.zeroWrite (w : Warp) (pf : Option Prefix) (c : Cur) (d : Code) (f : Nat → Word) (fl : Nat → FpFlags) : Warp :=
  (w.zeroOffLanes w pf c d).writeLanes d f fl (w.onLanes pf false c)

/-- The same in the other order. -/
def Warp.writeZero (w : Warp) (pf : Option Prefix) (c : Cur) (d : Code) (f : Nat → Word) (fl : Nat → FpFlags) : Warp :=
  (w.writeLanes d f fl (w.onLanes pf false c)).zeroOffLanes w pf c d

theorem Warp.zeroWrite_withRegs : w.zeroWrite pf c d f fl = w.withRegs (w.zeroWrite pf c d f fl) :=
  Warp.withRegs_trans (Warp.zeroOffLanes_withRegs ..) (Warp.writeLanes_withRegs ..)

theorem Warp.writeZero_withRegs : w.writeZero pf c d f fl = w.withRegs (w.writeZero pf c d f fl) :=
  Warp.withRegs_trans (Warp.writeLanes_withRegs ..) (Warp.zeroOffLanes_withRegs ..)

theorem Warp.rd_zeroWrite (ho : OnceFits d false) (r : Code) {l : Nat} (hl : l < 32) :
    (w.zeroWrite pf c d f fl).rd r l = w.afterWord pf c.lanes d f r l := by
  rw [Warp.zeroWrite, Warp.rd_writeLanes ho _ f fl (fun i hi => (mem_onLanes.mp hi).1) r hl, Warp.rd_zeroOffLanes ho _ _ _ _ r hl,
    Warp.afterWord_lanes ho]
  exact if_congr (by simp [mem_onLanes, hl]) rfl rfl

theorem Warp.rd_writeZero (ho : OnceFits d false) (r : Code) {l : Nat} (hl : l < 32) :
    (w.writeZero pf c d f fl).rd r l = w.afterWord pf c.lanes d f r l := by
  rw [Warp.writeZero, Warp.rd_zeroOffLanes ho _ _ _ _ r hl, Warp.rd_writeLanes ho _ f fl (fun i hi => (mem_onLanes.mp hi).1) r hl,
    Warp.afterWord_lanes ho]
  by_cases hruns : w.runs pf c.lanes l = true
  · simp [mem_onLanes, hl, hruns, Warp.not_zeroed_of_runs hruns]
  · simp [mem_onLanes, hruns]

/-- Of the lanes, those that run raise their exceptions (R26). -/
theorem Warp.afterFlags_lanes {l : Nat} (hl : l < 32) :
    (if l ∈ w.onLanes pf false c then Assoc.get w.fpflags 0 l ||| fl l else Assoc.get w.fpflags 0 l) =
      w.afterFlags pf c.lanes false fl l := by
  rw [Warp.afterFlags, if_neg Bool.false_ne_true]
  exact if_congr (by simp [mem_onLanes, hl]) rfl rfl

theorem Warp.flags_zeroWrite {l : Nat} (hl : l < 32) :
    Assoc.get (w.zeroWrite pf c d f fl).fpflags 0 l = w.afterFlags pf c.lanes false fl l := by
  rw [Warp.zeroWrite, Warp.flags_writeLanes, Warp.zeroOffLanes_fpflags, Warp.afterFlags_lanes hl]

theorem Warp.flags_writeZero {l : Nat} (hl : l < 32) :
    Assoc.get (w.writeZero pf c d f fl).fpflags 0 l = w.afterFlags pf c.lanes false fl l := by
  rw [Warp.writeZero, Warp.zeroOffLanes_fpflags, Warp.flags_writeLanes, Warp.afterFlags_lanes hl]

end

/-! ### Cross-lane instructions (R178 to R181) -/

section
variable {i : Instr} {pf : Option Prefix} {d : Code} {s : State} {c : Cur} {w : Warp}
  {from_ : Warp → List Nat → Nat → List Nat} {F : Warp → List Nat → Nat → Word × FpFlags}

/-- The contributors are the lanes of the whole issuing path that run (log entry 70). -/
theorem mem_contributors {l : Nat} :
    l ∈ w.contributors pf c ↔ l < 32 ∧ w.runs pf (w.path c.p).issueMask l = true := mem_onLanes

/-- Retiring with new registers: the warp is as after a plain retirement but for them. -/
theorem State.retire_withRegs {s : State} {c : Cur} {w x : Warp} (hw : s.warp? c.w = some w) (hd : s.debugOn w = false)
    (hx : x = w.withRegs x) : (s.setWarp c.w x).retire c = s.setWarp c.w ((w.afterRetire c false).withRegs x) := by
  rw [State.setWarp_retire hw hd (by rw [hx]; rfl), hx, Warp.afterRetire_withRegs]
  rfl

/-- A cross-lane instruction writes every lane that runs with what it takes from the contributors. -/
theorem crossLane_writes {f : Nat → Word} {fl : Nat → FpFlags} (he : exec i s = crossLane i pf d s from_ F)
    (h : Ready i .none s c w) (hp : Plain s w) (ho : OnceFits d false)
    (hF : ∀ l, l < 32 → F w (w.contributors pf c) l = (f l, fl l)) : WritesWord i pf d false s c w f fl := by
  have hbad : (w.onLanes pf false c).filter (fun l => !(w.badLanes ((operandsOf i).drop 2) [l]).isEmpty ||
      !(w.badLanes (((operandsOf i).drop 1).take 1) (from_ w (w.contributors pf c) l)).isEmpty) = [] := by
    simp [badLanes_nil hp.sound]
  have hwarp : (w.onLanes pf false c).foldl (fun (x : Warp) l => (x.wr d l (F w (w.contributors pf c) l).1).orFlags l
      (F w (w.contributors pf c) l).2) (w.zeroOffLanes w pf c d) = w.zeroWrite pf c d f fl :=
    List.foldl_ext _ _ _ (fun a l hl => by rw [hF l (mem_onLanes.mp hl).1])
  have hrun : crossLane i pf d s from_ F = .next ((s.setWarp c.w (w.zeroWrite pf c d f fl)).retire c) := by
    rw [crossLane, issue_ready h, ← hwarp]
    simp only [hbad, List.contains_nil, Bool.not_false, List.filter_true]
    rfl
  refine ⟨(w.afterRetire c false).withRegs (w.zeroWrite pf c d f fl), ?_, rfl, fun r l hl => Warp.rd_zeroWrite ho r hl,
    fun l hl => Warp.flags_zeroWrite hl⟩
  rw [he, hrun, State.retire_withRegs h.warp hp.debug Warp.zeroWrite_withRegs]

end

theorem exec_ballot (pf : Option Prefix) (d a : Code) (s : State) : exec (.ballot pf d a) s = execBallot pf d a s := rfl
theorem exec_matchLanes (pf : Option Prefix) (d a : Code) (s : State) :
    exec (.matchLanes pf d a) s = execMatchLanes pf d a s := rfl
theorem exec_shflIdx (pf : Option Prefix) (d a b : Code) (s : State) : exec (.shflIdx pf d a b) s = execShflIdx pf d a b s := rfl
theorem exec_shflUp (pf : Option Prefix) (d a b : Code) (s : State) : exec (.shflUp pf d a b) s = execShflUp pf d a b s := rfl
theorem exec_shflDown (pf : Option Prefix) (d a b : Code) (s : State) : exec (.shflDown pf d a b) s = execShflDown pf d a b s := rfl
theorem exec_shflXor (pf : Option Prefix) (d a b : Code) (s : State) : exec (.shflXor pf d a b) s = execShflXor pf d a b s := rfl

/-- A destination of a cross-lane instruction (R178) is written lane by lane. -/
theorem onceFits_dLane {d : Code} (h : classOf d ∈ dLane) : OnceFits d false := by
  simp only [dLane, List.mem_cons, List.not_mem_nil, or_false] at h
  rcases h with h | h <;> simp [OnceFits, h]

section
variable {pf : Option Prefix} {d a b : Code} {s : State} {c : Cur} {w : Warp}

/-- The mask of the contributors of which `p` holds. -/
theorem maskOf_contributors {p : Nat → Bool} {x : Mask}
    (hx : ∀ j, j < 32 → x.getLsbD j = (w.runs pf (w.path c.p).issueMask j && p j)) : maskOf ((w.contributors pf c).filter p) = x := by
  apply BitVec.eq_of_getLsbD_eq
  intro j hj
  rw [maskOf_getLsbD _ hj, hx j hj]
  simp [mem_contributors, hj]

/-- A shuffle reads its source in the lane that `from_` computes, where that lane runs, and its own otherwise. -/
theorem shuffle_writes {i : Instr} {from_ : Nat → Nat → Option Nat} {f : Nat → Word} (he : exec i s = shuffle i pf d a b s from_)
    (h : Ready i .none s c w) (hp : Plain s w) (ho : OnceFits d false)
    (hsome : ∀ l j, l < 32 → from_ l ((w.rd b l).toNat % 32) = some j →
      j < 32 ∧ f l = if w.runs pf (w.path c.p).issueMask j = true then w.rd a j else w.rd a l)
    (hnone : ∀ l, l < 32 → from_ l ((w.rd b l).toNat % 32) = none → f l = w.rd a l) :
    WritesWord i pf d false s c w f (fun _ => 0) := by
  rw [shuffle] at he
  refine crossLane_writes he h hp ho (fun l hl => ?_)
  cases hj : from_ l ((w.rd b l).toNat % 32) with
  | none => simp only [hj, hnone l hl hj]
  | some j =>
    obtain ⟨hj32, hfl⟩ := hsome l j hl hj
    have hmem : (w.contributors pf c).contains j = w.runs pf (w.path c.p).issueMask j := by
      rw [Bool.eq_iff_iff]
      simp [mem_contributors, hj32]
    simp only [hj, hmem, hfl, apply_ite (fun j => w.rd a j)]

theorem ballot_writes (hp : Plain s w) {x : Mask}
    (hx : ∀ j, j < 32 → x.getLsbD j = (w.runs pf (w.path c.p).issueMask j && w.rd a j != 0)) (h : Ready (.ballot pf d a) .none s c w) :
    WritesWord (.ballot pf d a) pf d false s c w (fun _ => x) (fun _ => 0) :=
  crossLane_writes (exec_ballot ..) h hp (onceFits_dLane (h.accepts List.mem_cons_self))
    (fun l _ => by rw [maskOf_contributors hx])

theorem matchLanes_writes (hp : Plain s w) {x : Nat → Mask}
    (hx : ∀ l j, j < 32 → (x l).getLsbD j = (w.runs pf (w.path c.p).issueMask j && w.rd a j == w.rd a l))
    (h : Ready (.matchLanes pf d a) .none s c w) : WritesWord (.matchLanes pf d a) pf d false s c w x (fun _ => 0) :=
  crossLane_writes (exec_matchLanes ..) h hp (onceFits_dLane (h.accepts List.mem_cons_self))
    (fun l _ => by rw [maskOf_contributors (hx l)])

theorem shflIdx_writes (hp : Plain s w) (h : Ready (.shflIdx pf d a b) .none s c w) :
    WritesWord (.shflIdx pf d a b) pf d false s c w (fun l =>
      let j := (w.rd b l).toNat % 32
      if w.runs pf (w.path c.p).issueMask j then w.rd a j else w.rd a l) (fun _ => 0) := by
  refine shuffle_writes (exec_shflIdx ..) h hp (onceFits_dLane (h.accepts List.mem_cons_self)) (fun l j _ hj => ?_)
    (fun l _ hn => nomatch hn)
  cases hj
  exact ⟨Nat.mod_lt _ (by omega), rfl⟩

theorem shflUp_writes (hp : Plain s w) (h : Ready (.shflUp pf d a b) .none s c w) :
    WritesWord (.shflUp pf d a b) pf d false s c w (fun l =>
      let n := (w.rd b l).toNat % 32
      if n ≤ l ∧ w.runs pf (w.path c.p).issueMask (l - n) = true then w.rd a (l - n) else w.rd a l) (fun _ => 0) := by
  refine shuffle_writes (exec_shflUp ..) h hp (onceFits_dLane (h.accepts List.mem_cons_self)) (fun l j hl hj => ?_)
    (fun l _ hn => if_neg (fun hc => by simp [hc.1] at hn))
  obtain ⟨hle, hlane⟩ := Option.ite_none_right_eq_some.mp hj
  cases hlane
  exact ⟨by omega, if_congr (and_iff_right hle) rfl rfl⟩

theorem shflDown_writes (hp : Plain s w) (h : Ready (.shflDown pf d a b) .none s c w) :
    WritesWord (.shflDown pf d a b) pf d false s c w (fun l =>
      let n := (w.rd b l).toNat % 32
      if l + n ≤ 31 ∧ w.runs pf (w.path c.p).issueMask (l + n) = true then w.rd a (l + n) else w.rd a l) (fun _ => 0) := by
  refine shuffle_writes (exec_shflDown ..) h hp (onceFits_dLane (h.accepts List.mem_cons_self)) (fun l j hl hj => ?_)
    (fun l _ hn => if_neg (fun hc => by simp [hc.1] at hn))
  obtain ⟨hle, hlane⟩ := Option.ite_none_right_eq_some.mp hj
  cases hlane
  exact ⟨by omega, if_congr (and_iff_right hle) rfl rfl⟩

theorem shflXor_writes (hp : Plain s w) (h : Ready (.shflXor pf d a b) .none s c w) :
    WritesWord (.shflXor pf d a b) pf d false s c w (fun l =>
      let j := l ^^^ ((w.rd b l).toNat % 32)
      if w.runs pf (w.path c.p).issueMask j then w.rd a j else w.rd a l) (fun _ => 0) := by
  refine shuffle_writes (exec_shflXor ..) h hp (onceFits_dLane (h.accepts List.mem_cons_self)) (fun l j hl hj => ?_)
    (fun l _ hn => nomatch hn)
  cases hj
  exact ⟨Nat.xor_lt_two_pow (n := 5) hl (Nat.mod_lt _ (by omega)), rfl⟩

end

/-- Settles O21: each instruction is one of `crossLane`, whose receivers take what its operation gives of the contributors. -/
theorem votesAndShuffles : Obligations.VotesAndShuffles := by
  unfold Obligations.VotesAndShuffles
  exact ⟨fun pf d a b s c w hp => ⟨fun x hx h => ballot_writes hp hx h, fun x hx h => matchLanes_writes hp hx h,
      fun h => shflIdx_writes hp h, fun h => shflUp_writes hp h, fun h => shflDown_writes hp h, fun h => shflXor_writes hp h⟩,
    fun d a b => ⟨rfl, rfl, rfl, rfl, rfl, rfl⟩⟩

end Sys2Proof.Machine
end

section
/-! ## Family 01: the constant space -/
namespace Sys2Proof.Machine

/-! ### The constant space (R29, R103, R109) -/

theorem exec_ldc (pf : Option Prefix) (d a : Code) (f : BitVec 5) (s : State) : exec (.ldc pf d a f) s = execLdc pf d a f s := rfl
theorem exec_ffmc (pf : Option Prefix) (d a n : Code) (s : State) : exec (.ffmc pf d a n) s = execFfmc pf d a n s := rfl

/-- Lanes whose addresses all pass the checks of row 1, with no uncorrectable register and no watchpoint. -/
theorem State.formLanes_at {s : State} {c : Cur} {w : Warp} {ops : List Opnd} {ls : List Nat} {reads writes : Bool} {n : Nat}
    {f : Nat → Formed} {va : Nat → Nat} (hp : Plain s w) (watch : Bool) (hf : ∀ l ∈ ls, f l = .at (va l)) :
    s.formLanes c w ops ls watch reads writes n f = ([], ls.map (fun l => { lane := l, va := va l })) := by
  have hstep : s.formLanes c w ops ls watch reads writes n f =
      ls.foldl (fun r l => (r.1, r.2 ++ [{ lane := l, va := va l }])) ([], []) := by
    unfold State.formLanes
    refine List.foldl_ext _ _ _ fun r l hl => ?_
    simp only [badLanes_nil hp.sound, hf l hl, State.watched_off hp.debug, Bool.and_false, Bool.false_eq_true, if_false]
  have hfold : ∀ (cs : List LaneCause) (as : List LaneAddr),
      ls.foldl (fun r l => (r.1, r.2 ++ [{ lane := l, va := va l }])) (cs, as) =
        (cs, as ++ ls.map (fun l => { lane := l, va := va l })) := by
    clear hf hstep
    induction ls with
    | nil => simp
    | cons l ls ih => intro cs as; simp [ih]
  exact hstep.trans (hfold [] [])

/-- The warp once an instruction that executes once per warp has written its word and raised its exceptions in every lane. -/
def Warp.writeOnce (w : Warp) (c : Cur) (d : Code) (x : Word) (fl : FpFlags) : Warp := (w.wr d 0 x).orFlagsOf c.lanes.lanes fl

section
variable {w : Warp} {pf : Option Prefix} {c : Cur} {d : Code} {f : Nat → Word} {fl : Nat → FpFlags}

theorem Warp.writeOnce_withRegs (x : Word) (e : FpFlags) : w.writeOnce c d x e = w.withRegs (w.writeOnce c d x e) :=
  Warp.withRegs_trans (w.wr_withRegs d 0 x) (orFlagsOf_withRegs ..)

theorem Warp.rd_writeOnce (ho : OnceFits d true) (r : Code) {l : Nat} (hl : l < 32) :
    (w.writeOnce c d (f 0) (fl 0)).rd r l = w.afterWord pf c.lanes d f r l := by
  rw [Warp.writeOnce, rd_orFlagsOf, Warp.rd_wr _ _ _ _ _ _ (by omega) hl]
  unfold OnceFits at ho
  unfold Warp.afterWord
  by_cases hr : r = d
  · subst hr
    rw [if_pos rfl, if_pos rfl]
    split <;> simp_all
  · rw [if_neg hr, if_neg hr]

theorem Warp.flags_writeOnce (x : Word) {l : Nat} (hl : l < 32) :
    Assoc.get (w.writeOnce c d x (fl 0)).fpflags 0 l = w.afterFlags pf c.lanes true fl l := by
  rw [Warp.writeOnce, flags_orFlagsOf, Warp.wr_fpflags, Warp.afterFlags, if_pos rfl]
  exact if_congr (by simp [mem_lanes, hl]) rfl rfl

end

/-- A read of the constant space whose offsets are in range and whose words are read without a cause writes its results. -/
theorem constOp_writes {i : Instr} {pf : Option Prefix} {once : Bool} {d : Code} {s q : State} {c : Cur} {w : Warp}
    {at_ : Warp → Nat → Nat} {F : Warp → Nat → Nat → Res Word} {vals : List (Nat × List Byte)} {f : Nat → Word}
    {fl : Nat → FpFlags} (he : exec i s = constOp i pf once d s at_ F) (h : Ready i .none s c w) (hp : Plain s w)
    (ho : OnceFits d once) (hF : ∀ l, F w l (readValue vals l) = .ok (f l) (fl l))
    (hat : ∀ l ∈ w.onLanes pf once c, at_ w l < s.headerField w Launch.constSize)
    (hread : s.readLanes c w once 4 ((w.onLanes pf once c).map (fun l =>
      { lane := l, va := ((s.launchOf w).map (fun x => x.args.toNat)).getD 0 + at_ w l })) = .done vals [] q)
    (hq : q.warp? c.w = some w) (hd : q.debugOn w = false) : WritesWordIn i pf d once s q c w f fl := by
  have hform : s.formLanes c w (operandsOf i) (w.onLanes pf once c) false true false 4 (fun l =>
      if s.headerField w Launch.constSize ≤ at_ w l then .bad rowForm 0x23 0
      else .at (((s.launchOf w).map (fun l => l.args.toNat)).getD 0 + at_ w l)) =
      ([], (w.onLanes pf once c).map (fun l =>
        { lane := l, va := ((s.launchOf w).map (fun x => x.args.toNat)).getD 0 + at_ w l })) :=
    State.formLanes_at hp false (fun l hl => if_neg (not_le.mpr (hat l hl)))
  have hrun : constOp i pf once d s at_ F =
      .next ((q.setWarp c.w (if once then w.writeOnce c d (f 0) (fl 0) else w.writeZero pf c d f fl)).retire c) := by
    rw [constOp, issue_ready h]
    simp only [hform, hread, List.any_nil, Bool.not_false, List.filter_true, List.foldl_map, hF]
    cases once <;> rfl
  rw [WritesWordIn, he, hrun]
  cases once with
  | true =>
    exact ⟨_, congrArg _ (State.retire_withRegs hq hd (Warp.writeOnce_withRegs ..)), rfl, fun r l hl => Warp.rd_writeOnce ho r hl,
      fun l hl => Warp.flags_writeOnce _ hl⟩
  | false =>
    exact ⟨_, congrArg _ (State.retire_withRegs hq hd Warp.writeZero_withRegs), rfl, fun r l hl => Warp.rd_writeZero ho r hl,
      fun l hl => Warp.flags_writeZero hl⟩

/-- Settles O18: LDC and FFMC are both `constOp`, with the word itself and with the fused product. -/
theorem constantReads : Obligations.ConstantReads := by
  unfold Obligations.ConstantReads
  exact ⟨fun pf d a f s q c w vals h hp hat hread hq hd =>
      constOp_writes (exec_ldc ..) h hp (onceFits_onceR ..) (fun _ => rfl) hat hread hq hd,
    fun pf d a n s q c w vals h hp hat hread hq hd =>
      constOp_writes (exec_ffmc ..) h hp (onceFits_onceR ..) (fun _ => rfl) (fun _ _ => hat) hread hq hd⟩

end Sys2Proof.Machine
end

section
/-! ## Family 02: the floating-point instructions -/
namespace Sys2Proof.Machine

theorem FpFmt.two_pow_width (f : FpFmt) : 2 ^ f.width = 2 * f.signBit := by cases f <;> rfl

/-- An operand's bits are a pattern of the format. -/
theorem fpBits_lt (f : FpFmt) (x : Word) : fpBits f x < 2 ^ f.width := Nat.mod_lt _ (by positivity)

/-- FNEG's result on a pattern of the format: adding the sign bit modulo the width inverts it. -/
theorem withSign_invert (f : FpFmt) {x : Nat} (hx : x < 2 ^ f.width) :
    withSign f x (x / f.signBit % 2 == 0) = ((x + f.signBit) % (2 * f.signBit), 0) := by
  rw [f.two_pow_width] at hx
  have hpos : 0 < f.signBit := Nat.two_pow_pos _
  rw [withSign, FpFmt.sign]
  rcases lt_or_ge x f.signBit with h | h
  · rw [Nat.div_eq_of_lt h, Nat.mod_eq_of_lt h, Nat.mod_eq_of_lt (a := x + _) (by omega)]
    rfl
  · have h1 : x / f.signBit = 1 := (Nat.div_eq_iff hpos).mpr (by omega)
    rw [h1, Nat.mod_eq_sub_mod h, Nat.mod_eq_of_lt (a := x - _) (by omega), Nat.mod_eq_sub_mod (a := x + _) (by omega),
      Nat.mod_eq_of_lt (a := x + _ - _) (by omega)]
    change (x - f.signBit, (0 : FpFlags)) = _
    rw [show x + f.signBit - 2 * f.signBit = x - f.signBit by omega]

/-! ### What each instruction executes -/

section
variable (pf : Option Prefix) (d a b : Code) (lit : Word) (s : State)

theorem exec_fadd : exec (.fadd pf d a b) s = fbin (.fadd pf d a b) pf d a b s FpFmt.add := rfl
theorem exec_fsub : exec (.fsub pf d a b) s = fbin (.fsub pf d a b) pf d a b s FpFmt.sub := rfl
theorem exec_fmul : exec (.fmul pf d a b) s = fbin (.fmul pf d a b) pf d a b s FpFmt.mul := rfl
theorem exec_fdiv : exec (.fdiv pf d a b) s = fbin (.fdiv pf d a b) pf d a b s FpFmt.div := rfl
theorem exec_fmin : exec (.fmin pf d a b) s = fbin (.fmin pf d a b) pf d a b s (fun f _ x y => f.minMax false x y) := rfl
theorem exec_fmax : exec (.fmax pf d a b) s = fbin (.fmax pf d a b) pf d a b s (fun f _ x y => f.minMax true x y) := rfl
theorem exec_faddL : exec (.faddL pf d a lit) s = fbinL (.faddL pf d a lit) pf d a lit s FpFmt.add := rfl
theorem exec_fmulL : exec (.fmulL pf d a lit) s = fbinL (.fmulL pf d a lit) pf d a lit s FpFmt.mul := rfl
theorem exec_fminL :
    exec (.fminL pf d a lit) s = fbinL (.fminL pf d a lit) pf d a lit s (fun f _ x y => f.minMax false x y) := rfl
theorem exec_fmaxL :
    exec (.fmaxL pf d a lit) s = fbinL (.fmaxL pf d a lit) pf d a lit s (fun f _ x y => f.minMax true x y) := rfl
theorem exec_fsqrt : exec (.fsqrt pf d a) s = funa (.fsqrt pf d a) pf d a s FpFmt.sqrt := rfl
theorem exec_fround : exec (.fround pf d a) s = funa (.fround pf d a) pf d a s FpFmt.rint := rfl
theorem exec_fabs : exec (.fabs pf d a) s = funa (.fabs pf d a) pf d a s (fun f _ x => (x % f.signBit, 0)) := rfl
theorem exec_fneg :
    exec (.fneg pf d a) s = funa (.fneg pf d a) pf d a s (fun f _ x => withSign f x (x / f.signBit % 2 == 0)) := rfl
theorem exec_fclass : exec (.fclass pf d a) s = funa (.fclass pf d a) pf d a s (fun f _ x => (f.classify x, 0)) := rfl
theorem exec_frcp : exec (.frcp pf d a) s = funa (.frcp pf d a) pf d a s (ApFn.apply .rcp) := rfl
theorem exec_frsq : exec (.frsq pf d a) s = funa (.frsq pf d a) pf d a s (ApFn.apply .rsq) := rfl
theorem exec_fexp2 : exec (.fexp2 pf d a) s = funa (.fexp2 pf d a) pf d a s (ApFn.apply .exp2) := rfl
theorem exec_flog2 : exec (.flog2 pf d a) s = funa (.flog2 pf d a) pf d a s (ApFn.apply .log2) := rfl
theorem exec_fsin : exec (.fsin pf d a) s = funa (.fsin pf d a) pf d a s (ApFn.apply .sin) := rfl
theorem exec_fcos : exec (.fcos pf d a) s = funa (.fcos pf d a) pf d a s (ApFn.apply .cos) := rfl
theorem exec_fscale : exec (.fscale pf d a b) s = execFscale pf d a b s := rfl

end

/-! ### The shared forms -/

section
variable {pf : Option Prefix} {d a b : Code} {s : State} {c : Cur} {w : Warp} {i : Instr}

/-- A word instruction whose lanes meet no cause. -/
theorem runWord_writes {once : Bool} {F : Warp → Nat → Res Word} {f : Nat → Word} {fl : Nat → FpFlags}
    (he : exec i s = runWord i pf once d s F) (h : Ready i .none s c w) (hp : Plain s w) (ho : OnceFits d once)
    (hF : ∀ l, F w l = .ok (f l) (fl l)) : WritesWord i pf d once s c w f fl := by
  rw [WritesWord, he]
  exact runWord_ready h hp ho (fun _ => hF 0) (fun _ l _ => hF l)

theorem fbin_writes {op : FpFmt → Nat → Nat → Nat → Nat × FpFlags} (he : exec i s = fbin i pf d a b s op)
    (h : Ready i .none s c w) (hp : Plain s w) :
    WritesWord i pf d (onceR d [a, b]) s c w
      (fun l => BitVec.ofNat 32 (op (w.fpType pf) (w.rounding pf) (fpBits (w.fpType pf) (w.rd a l)) (fpBits (w.fpType pf) (w.rd b l))).1)
      (fun l => (op (w.fpType pf) (w.rounding pf) (fpBits (w.fpType pf) (w.rd a l)) (fpBits (w.fpType pf) (w.rd b l))).2) :=
  runWord_writes he h hp (onceFits_onceR ..) (fun _ => rfl)

theorem fbinL_writes {lit : Word} {op : FpFmt → Nat → Nat → Nat → Nat × FpFlags} (he : exec i s = fbinL i pf d a lit s op)
    (h : Ready i .none s c w) (hp : Plain s w) :
    WritesWord i pf d (onceR d [a]) s c w
      (fun l => BitVec.ofNat 32 (op (w.fpType pf) (w.rounding pf) (fpBits (w.fpType pf) (w.rd a l)) (fpBits (w.fpType pf) lit)).1)
      (fun l => (op (w.fpType pf) (w.rounding pf) (fpBits (w.fpType pf) (w.rd a l)) (fpBits (w.fpType pf) lit)).2) :=
  runWord_writes he h hp (onceFits_onceR ..) (fun _ => rfl)

theorem funa_writes {op : FpFmt → Nat → Nat → Nat × FpFlags} (he : exec i s = funa i pf d a s op)
    (h : Ready i .none s c w) (hp : Plain s w) :
    WritesWord i pf d (onceR d [a]) s c w
      (fun l => BitVec.ofNat 32 (op (w.fpType pf) (w.rounding pf) (fpBits (w.fpType pf) (w.rd a l))).1)
      (fun l => (op (w.fpType pf) (w.rounding pf) (fpBits (w.fpType pf) (w.rd a l))).2) :=
  runWord_writes he h hp (onceFits_onceR ..) (fun _ => rfl)

end

/-- Settles O4: each instruction is one of the forms `fbin`, `fbinL` and `funa`, or FSCALE, whose lanes meet no cause. -/
theorem floatResults : Obligations.FloatResults := by
  unfold Obligations.FloatResults
  simp only [List.forall_mem_cons, List.not_mem_nil, false_imp_iff, implies_true, and_true]
  exact ⟨⟨fun _ _ _ _ _ _ _ h hp => fbin_writes (exec_fadd ..) h hp,
      fun _ _ _ _ _ _ _ h hp => fbin_writes (exec_fsub ..) h hp,
      fun _ _ _ _ _ _ _ h hp => fbin_writes (exec_fmul ..) h hp,
      fun _ _ _ _ _ _ _ h hp => fbin_writes (exec_fdiv ..) h hp,
      fun _ _ _ _ _ _ _ h hp => fbin_writes (exec_fmin ..) h hp,
      fun _ _ _ _ _ _ _ h hp => fbin_writes (exec_fmax ..) h hp⟩,
    ⟨fun _ _ _ _ _ _ _ h hp => fbinL_writes (exec_faddL ..) h hp,
      fun _ _ _ _ _ _ _ h hp => fbinL_writes (exec_fmulL ..) h hp,
      fun _ _ _ _ _ _ _ h hp => fbinL_writes (exec_fminL ..) h hp,
      fun _ _ _ _ _ _ _ h hp => fbinL_writes (exec_fmaxL ..) h hp⟩,
    ⟨fun _ _ _ _ _ _ h hp => funa_writes (exec_fsqrt ..) h hp,
      fun _ _ _ _ _ _ h hp => funa_writes (exec_fround ..) h hp,
      fun _ _ _ _ _ _ h hp => funa_writes (exec_fabs ..) h hp,
      fun _ _ _ _ _ _ h hp => runWord_writes (exec_fneg ..) h hp (onceFits_onceR ..)
        (fun _ => congrArg okFp (withSign_invert _ (fpBits_lt ..))),
      fun _ _ _ _ _ _ h hp => funa_writes (exec_fclass ..) h hp,
      fun _ _ _ _ _ _ h hp => funa_writes (exec_frcp ..) h hp,
      fun _ _ _ _ _ _ h hp => funa_writes (exec_frsq ..) h hp,
      fun _ _ _ _ _ _ h hp => funa_writes (exec_fexp2 ..) h hp,
      fun _ _ _ _ _ _ h hp => funa_writes (exec_flog2 ..) h hp,
      fun _ _ _ _ _ _ h hp => funa_writes (exec_fsin ..) h hp,
      fun _ _ _ _ _ _ h hp => funa_writes (exec_fcos ..) h hp⟩,
    fun _ _ _ _ _ _ _ h hp => runWord_writes (exec_fscale ..) h hp (onceFits_onceR ..) (fun _ => rfl)⟩

end Sys2Proof.Machine
end

section
/-! ## Family 02: the values of the formats -/
namespace Sys2Proof.Machine

/-! ### The grid of a format's magnitudes (R31, R32) -/

/-- A significand of `frac + 1` bits at a step: its top bit is set, but for the lowest step, which holds the subnormals. -/
def FpFmt.Digits (f : FpFmt) (t q : Nat) : Prop := q < 2 ^ (f.frac + 1) ∧ (t = 0 ∨ 2 ^ f.frac ≤ q)

/-- The magnitude of pattern `k`, continued beyond the largest finite pattern as with unbounded exponent range. -/
def FpFmt.grid (f : FpFmt) (k : Nat) : ℚ :=
  ((k - (k / 2 ^ f.frac - 1) * 2 ^ f.frac : Nat) : ℚ) * 2 ^ (f.emin + ((k / 2 ^ f.frac - 1 : Nat) : Int))

section
variable (f : FpFmt)

theorem FpFmt.two_le_frac : 2 ≤ f.frac := by cases f <;> decide

theorem FpFmt.exists_digits (k : Nat) : ∃ t q, f.Digits t q ∧ k = t * 2 ^ f.frac + q := by
  have hP : 0 < 2 ^ f.frac := by positivity
  have hk := Nat.div_add_mod' k (2 ^ f.frac)
  have hr := Nat.mod_lt k hP
  unfold FpFmt.Digits
  rw [pow_succ]
  rcases Nat.eq_zero_or_pos (k / 2 ^ f.frac) with h | h
  · exact ⟨0, k, ⟨by rw [h] at hk; omega, .inl rfl⟩, by omega⟩
  · obtain ⟨t, ht⟩ := Nat.exists_eq_add_of_le' h
    refine ⟨t, 2 ^ f.frac + k % 2 ^ f.frac, ⟨by omega, .inr (by omega)⟩, ?_⟩
    rw [ht, Nat.add_mul] at hk
    omega

variable {f} {t q : Nat}

theorem FpFmt.place_div (t q : Nat) : (t * 2 ^ f.frac + q) / 2 ^ f.frac = t + q / 2 ^ f.frac := by
  rw [Nat.add_comm, Nat.add_mul_div_right _ _ (by positivity), Nat.add_comm]

/-- The last significand of a step, plus one, is the first of the next. -/
theorem FpFmt.grid_of_le (hq : q ≤ 2 ^ (f.frac + 1)) (ht : t = 0 ∨ 2 ^ f.frac ≤ q) :
    f.grid (t * 2 ^ f.frac + q) = q * (2 : ℚ) ^ (f.emin + t) := by
  have hP : 0 < 2 ^ f.frac := by positivity
  rw [FpFmt.grid, FpFmt.place_div]
  rw [pow_succ] at hq
  rcases Nat.lt_or_ge q (2 ^ f.frac) with h | h
  · obtain rfl : t = 0 := by omega
    simp [Nat.div_eq_of_lt h]
  · rcases Nat.lt_or_ge q (2 ^ f.frac * 2) with h2 | h2
    · rw [show q / 2 ^ f.frac = 1 from (Nat.div_eq_iff hP).mpr (by omega)]
      simp
    · obtain rfl : q = 2 ^ f.frac * 2 := by omega
      have hdigits : t * 2 ^ f.frac + 2 ^ f.frac * 2 - (t + 1) * 2 ^ f.frac = 2 ^ f.frac := by
        rw [Nat.add_mul]
        omega
      rw [Nat.mul_div_cancel_left _ hP, show t + 2 - 1 = t + 1 by omega, hdigits]
      push_cast
      rw [← add_assoc, zpow_add_one₀ two_ne_zero]
      ring

theorem FpFmt.grid_digits (h : f.Digits t q) : f.grid (t * 2 ^ f.frac + q) = q * (2 : ℚ) ^ (f.emin + t) :=
  FpFmt.grid_of_le h.1.le h.2

theorem FpFmt.grid_digits_succ (h : f.Digits t q) : f.grid (t * 2 ^ f.frac + q + 1) = (q + 1) * (2 : ℚ) ^ (f.emin + t) := by
  rw [Nat.add_assoc, FpFmt.grid_of_le (show q + 1 ≤ _ from h.1) (h.2.imp_right (by omega))]
  push_cast
  rfl

variable (f)

theorem FpFmt.grid_strictMono : StrictMono f.grid := strictMono_nat_of_lt_succ fun k => by
  obtain ⟨t, q, h, rfl⟩ := f.exists_digits k
  rw [FpFmt.grid_digits h, FpFmt.grid_digits_succ h]
  have : (0 : ℚ) < 2 ^ (f.emin + t) := by positivity
  linarith

@[simp] theorem FpFmt.grid_zero : f.grid 0 = 0 := by simp [FpFmt.grid]

theorem FpFmt.grid_nonneg (k : Nat) : 0 ≤ f.grid k := f.grid_zero ▸ f.grid_strictMono.monotone (Nat.zero_le k)

/-! ### Patterns -/

theorem FpFmt.signBit_eq : f.signBit = 2 ^ f.exp * 2 ^ f.frac := by cases f <;> rfl

theorem FpFmt.infBits_eq {f : FpFmt} (h : f ≠ .e4m3) : f.infBits = (2 ^ f.exp - 1) * 2 ^ f.frac := by
  cases f
  case e4m3 => exact absurd rfl h
  all_goals rfl

theorem FpFmt.infBits_lt_signBit : f.infBits < f.signBit := by cases f <;> decide

theorem FpFmt.signBit_pos : 0 < f.signBit := Nat.two_pow_pos _

theorem FpFmt.signBit_even : f.signBit % 2 = 0 := by cases f <;> rfl

variable {f}

@[simp] theorem FpFmt.sign_false (k : Nat) : f.sign false k = k := rfl
@[simp] theorem FpFmt.sign_true (k : Nat) : f.sign true k = k + f.signBit := rfl

theorem FpFmt.sign_lt {k : Nat} (h : k < f.signBit) (s : Bool) : f.sign s k < 2 ^ f.width := by
  rw [f.two_pow_width]
  cases s <;> simp only [FpFmt.sign_false, FpFmt.sign_true] <;> omega

theorem FpFmt.sign_div {k : Nat} (h : k < f.signBit) (s : Bool) : decide (f.sign s k / f.signBit % 2 = 1) = s := by
  cases s
  · simp [Nat.div_eq_of_lt h]
  · simp [Nat.add_div_right _ f.signBit_pos, Nat.div_eq_of_lt h]

theorem FpFmt.sign_mod {k : Nat} (h : k < f.signBit) (s : Bool) : f.sign s k % f.signBit = k := by
  cases s <;> simp [Nat.mod_eq_of_lt h]

/-- A pattern is its sign and the rest. -/
theorem FpFmt.sign_div_mod {y : Nat} (h : y < 2 ^ f.width) : f.sign (decide (y / f.signBit % 2 = 1)) (y % f.signBit) = y := by
  rw [f.two_pow_width] at h
  have hd := Nat.div_add_mod' y f.signBit
  have h2 : y / f.signBit < 2 := Nat.div_lt_of_lt_mul (by omega)
  interval_cases hq : y / f.signBit
  · simpa using hd
  · rw [show decide (1 % 2 = 1) = true from rfl, FpFmt.sign_true]
    omega

theorem FpFmt.sign_mod_two (s : Bool) (k : Nat) : f.sign s k % 2 = k % 2 := by
  have := f.signBit_even
  cases s
  · rfl
  · rw [FpFmt.sign_true]
    omega

/-- The value of a finite pattern, by its digits (R32). -/
theorem FpFmt.unpack_digits {y : Nat} (h : f.Digits t q) (hy : y % f.signBit = t * 2 ^ f.frac + q)
    (hI : t * 2 ^ f.frac + q < f.infBits) : f.unpack y = .fin (decide (y / f.signBit % 2 = 1)) q (f.emin + t) := by
  have hP : 0 < 2 ^ f.frac := by positivity
  have hmod : (t * 2 ^ f.frac + q) % 2 ^ f.frac = q % 2 ^ f.frac := by
    rw [Nat.add_comm, Nat.add_mul_mod_self_right]
  have hfin : ∀ s : Bool,
      (if t + q / 2 ^ f.frac = 0 then Fp.fin s (q % 2 ^ f.frac) f.emin
        else .fin s (q % 2 ^ f.frac + 2 ^ f.frac) (f.emin + ((t + q / 2 ^ f.frac : Nat) : Int) - 1)) =
      .fin s q (f.emin + t) := fun s => by
    obtain ⟨hq, ht⟩ := h
    rw [pow_succ] at hq
    rcases Nat.lt_or_ge q (2 ^ f.frac) with h | h
    · obtain rfl : t = 0 := by omega
      simp [Nat.div_eq_of_lt h, Nat.mod_eq_of_lt h]
    · rw [show q / 2 ^ f.frac = 1 from (Nat.div_eq_iff hP).mpr (by omega), Nat.mod_eq_sub_mod h,
        Nat.mod_eq_of_lt (by omega), Nat.sub_add_cancel h, if_neg (by omega)]
      congr 1
      omega
  rw [FpFmt.unpack]
  simp only [hy, FpFmt.place_div, hmod]
  by_cases hf : f = .e4m3
  · rw [if_pos hf, if_neg (hI.trans_eq (hf ▸ rfl)).ne, hfin]
  · rw [if_neg hf, if_neg (ne_of_lt ?_), hfin]
    rw [← FpFmt.place_div]
    refine Nat.div_lt_of_lt_mul (hI.trans_eq ?_)
    rw [FpFmt.infBits_eq hf, Nat.mul_comm]

/-- A pattern at or above that of infinity is it, or a NaN. -/
theorem FpFmt.unpack_of_infBits_le {y : Nat} (h : f.infBits ≤ y % f.signBit) : (f.unpack y).isNan = true ∨
    (y % f.signBit = f.infBits ∧ f.unpack y = .inf (decide (y / f.signBit % 2 = 1))) := by
  have hlt := Nat.mod_lt y f.signBit_pos
  rw [FpFmt.unpack]
  by_cases hf : f = .e4m3
  · have : y % f.signBit = 0x7F := by subst hf; exact le_antisymm (Nat.le_of_lt_succ hlt) h
    simp only [if_pos hf, if_pos this, Fp.isNan, true_or]
  · rw [FpFmt.infBits_eq hf] at h ⊢
    have hex : y % f.signBit / 2 ^ f.frac = 2 ^ f.exp - 1 := by
      have := (Nat.le_div_iff_mul_le (by positivity)).mpr h
      have := (Nat.div_lt_iff_lt_mul (by positivity)).mpr (hlt.trans_eq f.signBit_eq)
      omega
    simp only [if_neg hf, if_pos hex]
    split_ifs with h0
    · refine .inr ⟨?_, rfl⟩
      rw [← hex, Nat.div_mul_cancel (Nat.dvd_of_mod_eq_zero h0)]
    · exact .inl rfl

/-- A finite pattern is a sign and a place on the grid below infinity. -/
theorem FpFmt.finite_sign {k : Nat} (h : k < f.infBits) (s : Bool) : f.finite (f.sign s k) := by
  obtain ⟨t, q, hd, rfl⟩ := f.exists_digits k
  have hlt := h.trans f.infBits_lt_signBit
  rw [FpFmt.finite, FpFmt.unpack_digits hd (FpFmt.sign_mod hlt s) h]
  exact ⟨FpFmt.sign_lt hlt s, rfl, rfl⟩

theorem FpFmt.finite.exists_sign {y : Nat} (h : f.finite y) : ∃ s k, k < f.infBits ∧ y = f.sign s k := by
  obtain ⟨hy, hn, hi⟩ := h
  refine ⟨_, _, lt_of_not_ge fun hle => ?_, (FpFmt.sign_div_mod hy).symm⟩
  rcases FpFmt.unpack_of_infBits_le hle with h | ⟨-, h⟩
  · rw [hn] at h
    cases h
  · rw [h] at hi
    cases hi

/-- The digits of a finite pattern. -/
theorem FpFmt.finite.exists_digits {y : Nat} (h : f.finite y) :
    ∃ s t q, f.Digits t q ∧ t * 2 ^ f.frac + q < f.infBits ∧ y = f.sign s (t * 2 ^ f.frac + q) ∧
      f.unpack y = .fin s q (f.emin + t) := by
  obtain ⟨s, k, hk, rfl⟩ := h.exists_sign
  obtain ⟨t, q, hd, rfl⟩ := f.exists_digits k
  have hlt := hk.trans f.infBits_lt_signBit
  refine ⟨s, t, q, hd, hk, rfl, ?_⟩
  rw [FpFmt.unpack_digits hd (FpFmt.sign_mod hlt s) hk, FpFmt.sign_div hlt]

/-! ### Values -/

theorem Fp.value_fin (s : Bool) (m : Nat) (e : Int) : Fp.value (.fin s m e) = (if s then -1 else 1) * (m * (2 : ℚ) ^ e) := by
  rw [Fp.value, mul_assoc]

theorem Fp.abs_value_fin (s : Bool) (m : Nat) (e : Int) : |Fp.value (.fin s m e)| = m * (2 : ℚ) ^ e := by
  have : (0 : ℚ) ≤ m * 2 ^ e := by positivity
  cases s <;> simp [Fp.value_fin, abs_of_nonneg this]

theorem Fp.value_eq_zero_iff (s : Bool) (m : Nat) (e : Int) : Fp.value (.fin s m e) = 0 ↔ m = 0 := by
  rw [← abs_eq_zero, Fp.abs_value_fin]
  simp [zpow_ne_zero]

/-- A value is its magnitude with its sign. -/
theorem Fp.value_eq_abs (x : Fp) : Fp.value x = (if x.neg then -1 else 1) * |Fp.value x| := by
  cases x with
  | nan s fr q => simp [Fp.value]
  | inf s => simp [Fp.value]
  | fin s m e => rw [Fp.abs_value_fin, Fp.value_fin, Fp.neg]

theorem FpFmt.neg_unpack_sign {k : Nat} (h : k < f.infBits) (s : Bool) : (f.unpack (f.sign s k)).neg = s := by
  obtain ⟨t, q, hd, rfl⟩ := f.exists_digits k
  have hlt := h.trans f.infBits_lt_signBit
  rw [FpFmt.unpack_digits hd (FpFmt.sign_mod hlt s) h, Fp.neg, FpFmt.sign_div hlt]

theorem FpFmt.abs_value_sign {k : Nat} (h : k < f.infBits) (s : Bool) : |Fp.value (f.unpack (f.sign s k))| = f.grid k := by
  obtain ⟨t, q, hd, rfl⟩ := f.exists_digits k
  rw [FpFmt.unpack_digits hd (FpFmt.sign_mod (h.trans f.infBits_lt_signBit) s) h, Fp.abs_value_fin, FpFmt.grid_digits hd]

theorem FpFmt.value_sign {k : Nat} (h : k < f.infBits) (s : Bool) :
    Fp.value (f.unpack (f.sign s k)) = (if s then -1 else 1) * f.grid k := by
  rw [Fp.value_eq_abs, FpFmt.abs_value_sign h, FpFmt.neg_unpack_sign h]

end
end Sys2Proof.Machine
end

section
/-! ## Family 02: one rounding -/
namespace Sys2Proof.Machine

/-! ### Rounding between two neighbours (R36) -/

/-- The mode rounds this sign away from zero. -/
def roundsAway (mode : Nat) (s : Bool) : Bool := (mode == 2 && s) || (mode == 3 && !s)

/-- A magnitude `a` from `lo` up to below `hi` is rounded to `hi`; `odd` says that `lo` is the odd one of the two. -/
def goesUp (mode : Nat) (s : Bool) (lo a hi : ℚ) (odd : Bool) : Bool :=
  if mode = 0 then decide (lo + hi < 2 * a) || (decide (lo + hi = 2 * a) && odd) else roundsAway mode s && decide (lo ≠ a)

section
variable {mode : Nat} {s : Bool} {lo a hi : ℚ} {odd : Bool}

theorem roundsAway_iff : roundsAway mode s = true ↔ (mode = 2 ∧ s = true) ∨ (mode = 3 ∧ s = false) := by
  simp [roundsAway]

theorem goesUp_nearest : goesUp 0 s lo a hi odd = true ↔ lo + hi < 2 * a ∨ (lo + hi = 2 * a ∧ odd = true) := by
  simp [goesUp]

theorem goesUp_directed (h : mode ≠ 0) : goesUp mode s lo a hi odd = true ↔ roundsAway mode s = true ∧ lo ≠ a := by
  simp [goesUp, h]

/-- What lies on the lower neighbour stays there. -/
theorem goesUp_self (h : lo < hi) : goesUp mode s lo lo hi odd = false := by
  rw [← Bool.not_eq_true]
  by_cases h0 : mode = 0
  · subst h0
    rw [goesUp_nearest]
    rintro (h1 | ⟨h1, -⟩) <;> linarith
  · simp [goesUp_directed h0]

theorem goesUp_mul {c : ℚ} (hc : 0 < c) : goesUp mode s (lo * c) (a * c) (hi * c) odd = goesUp mode s lo a hi odd := by
  have h1 : lo * c + hi * c < 2 * (a * c) ↔ lo + hi < 2 * a := by
    rw [← add_mul, ← mul_assoc]
    exact mul_lt_mul_iff_left₀ hc
  have h2 : lo * c + hi * c = 2 * (a * c) ↔ lo + hi = 2 * a := by
    rw [← add_mul, ← mul_assoc]
    exact mul_left_inj' hc.ne'
  have h3 : lo * c ≠ a * c ↔ lo ≠ a := (mul_left_inj' hc.ne').not
  simp only [goesUp, h1, h2, h3]

end

/-! ### Dropping bits -/

theorem roundShift_eq {mode : Nat} (hmode : mode ≤ 3) (s : Bool) (m j : Nat) : roundShift mode s m j =
    if goesUp mode s ((m / 2 ^ j : Nat) : ℚ) (m / 2 ^ j) ((m / 2 ^ j : Nat) + 1) (m / 2 ^ j % 2 == 1) then m / 2 ^ j + 1
    else m / 2 ^ j := by
  have hm : (m : ℚ) = 2 ^ j * (m / 2 ^ j : Nat) + (m % 2 ^ j : Nat) := by exact_mod_cast (Nat.div_add_mod m (2 ^ j)).symm
  have hP : (0 : ℚ) < 2 ^ j := by positivity
  rw [← goesUp_mul hP, div_mul_cancel₀ _ hP.ne']
  have h1 : ((m / 2 ^ j : Nat) : ℚ) * 2 ^ j + ((m / 2 ^ j : Nat) + 1) * 2 ^ j < 2 * m ↔ 2 ^ j < 2 * (m % 2 ^ j) := by
    rw [hm, ← Nat.cast_lt (α := ℚ)]
    push_cast
    constructor <;> intro h <;> linarith
  have h2 : ((m / 2 ^ j : Nat) : ℚ) * 2 ^ j + ((m / 2 ^ j : Nat) + 1) * 2 ^ j = 2 * m ↔ 2 ^ j = 2 * (m % 2 ^ j) := by
    rw [hm, ← Nat.cast_inj (R := ℚ)]
    push_cast
    constructor <;> intro h <;> linarith
  have h3 : ((m / 2 ^ j : Nat) : ℚ) * 2 ^ j ≠ m ↔ m % 2 ^ j ≠ 0 := by
    rw [hm, ← Nat.cast_ne_zero (R := ℚ), not_iff_not]
    constructor <;> intro h <;> linarith
  simp only [goesUp, h1, h2, h3]
  obtain rfl | rfl | rfl | rfl : mode = 0 ∨ mode = 1 ∨ mode = 2 ∨ mode = 3 := by omega
  all_goals simp [roundShift, roundsAway]

/-- `m × 2^e` rounded to a multiple of `2^t`, in units of `2^t`. -/
def roundTo (mode : Nat) (s : Bool) (m : Nat) (e t : Int) : Nat :=
  if t - e ≤ 0 then m * 2 ^ (-(t - e)).toNat else roundShift mode s m (t - e).toNat

/-- `m × 2^e` is a multiple of `2^t`. -/
def exactTo (m : Nat) (e t : Int) : Bool := decide (t - e ≤ 0) || decide (m % 2 ^ (t - e).toNat = 0)

theorem mul_zpow_toNat {e t : Int} (h : t - e ≤ 0) (m : Nat) :
    ((m * 2 ^ (-(t - e)).toNat : Nat) : ℚ) * 2 ^ t = m * 2 ^ e := by
  push_cast
  rw [mul_assoc, ← zpow_natCast, ← zpow_add₀ two_ne_zero]
  congr 2
  omega

theorem div_pow_toNat_mul {e t : Int} (h : ¬t - e ≤ 0) (m : Nat) : (m : ℚ) / 2 ^ (t - e).toNat * 2 ^ t = m * 2 ^ e := by
  rw [div_mul_eq_mul_div, div_eq_iff (by positivity), mul_assoc, ← zpow_natCast, ← zpow_add₀ two_ne_zero]
  congr 2
  omega

/-- The two neighbours between which `roundTo` decides. -/
theorem roundTo_spec {mode : Nat} (hmode : mode ≤ 3) (s : Bool) (m : Nat) (e t : Int) :
    ∃ q : Nat, (q : ℚ) * 2 ^ t ≤ m * 2 ^ e ∧ (m : ℚ) * 2 ^ e < (q + 1) * 2 ^ t ∧
      roundTo mode s m e t = (if goesUp mode s (q * 2 ^ t) (m * 2 ^ e) ((q + 1) * 2 ^ t) (q % 2 == 1) then q + 1 else q) ∧
      exactTo m e t = decide ((q : ℚ) * 2 ^ t = m * 2 ^ e) := by
  have hT : (0 : ℚ) < 2 ^ t := by positivity
  by_cases h : t - e ≤ 0
  · refine ⟨m * 2 ^ (-(t - e)).toNat, (mul_zpow_toNat h m).le, ?_, ?_, ?_⟩
    · rw [add_mul, mul_zpow_toNat h]
      linarith
    · rw [mul_zpow_toNat h, goesUp_self (by rw [add_mul, mul_zpow_toNat h]; linarith), roundTo, if_pos h]
      rfl
    · rw [exactTo, mul_zpow_toNat h]
      simp [h]
  · have hle : ((m / 2 ^ (t - e).toNat : Nat) : ℚ) ≤ m / 2 ^ (t - e).toNat := by exact_mod_cast Nat.cast_div_le
    have hlt : (m : ℚ) / 2 ^ (t - e).toNat < (m / 2 ^ (t - e).toNat : Nat) + 1 := by
      rw [div_lt_iff₀ (by positivity), mul_comm]
      exact_mod_cast Nat.lt_mul_div_succ m (by positivity)
    refine ⟨m / 2 ^ (t - e).toNat, ?_, ?_, ?_, ?_⟩
    · rw [← div_pow_toNat_mul h]
      exact mul_le_mul_of_nonneg_right hle hT.le
    · rw [← div_pow_toNat_mul h]
      exact mul_lt_mul_of_pos_right hlt hT
    · rw [← div_pow_toNat_mul h, goesUp_mul hT, roundTo, if_neg h, roundShift_eq hmode]
    · have hx : (((m / 2 ^ (t - e).toNat : Nat) : ℚ) * 2 ^ t = m * 2 ^ e) ↔ m % 2 ^ (t - e).toNat = 0 := by
        rw [← div_pow_toNat_mul h, mul_left_inj' hT.ne', eq_div_iff (by positivity), ← Nat.dvd_iff_mod_eq_zero, Nat.dvd_iff_div_mul_eq]
        exact_mod_cast Iff.rfl
      simp only [exactTo, h, hx]
      simp

/-! ### Tiny results (R36) -/

/-- The smallest normal magnitude. -/
def FpFmt.minNormal (f : FpFmt) : ℚ := 2 ^ (f.emin + f.frac)

/-- The result lies below the smallest normal once it is rounded with unbounded exponent range. -/
def FpFmt.tiny (f : FpFmt) (mode : Nat) (s : Bool) (a : ℚ) : Bool :=
  if mode = 0 then decide (a < f.minNormal - 2 ^ (f.emin - 2))
  else if roundsAway mode s then decide (a ≤ f.minNormal - 2 ^ (f.emin - 1)) else decide (a < f.minNormal)

section
variable (f : FpFmt) {mode : Nat} {s : Bool} {a : ℚ}

/-- As `FpFmt.Rounds` writes it. -/
theorem FpFmt.tiny_iff (mode : Nat) (s : Bool) (a : ℚ) : f.tiny mode s a = true ↔
    if mode = 0 then a < 2 ^ (f.emin + f.frac) - 2 ^ (f.emin - 2)
    else (roundsAway mode s = true ∧ a ≤ 2 ^ (f.emin + f.frac) - 2 ^ (f.emin - 1)) ∨
      (¬roundsAway mode s = true ∧ a < 2 ^ (f.emin + f.frac)) := by
  rw [← FpFmt.minNormal]
  by_cases h0 : mode = 0
  · simp [FpFmt.tiny, h0]
  · by_cases haway : roundsAway mode s = true <;> simp [FpFmt.tiny, h0, haway]

theorem FpFmt.minNormal_eq : f.minNormal = 2 ^ (f.frac + 1) * 2 ^ (f.emin - 1) := by
  rw [FpFmt.minNormal, ← zpow_natCast, ← zpow_add₀ two_ne_zero]
  congr 1
  push_cast
  ring

theorem FpFmt.two_zpow_emin_sub_one : (2 : ℚ) ^ (f.emin - 1) = 2 * 2 ^ (f.emin - 2) := by
  rw [mul_comm, ← zpow_add_one₀ two_ne_zero, show f.emin - 2 + 1 = f.emin - 1 by ring]

variable {f}

theorem FpFmt.tiny_of_lt (h : a < f.minNormal - 2 ^ (f.emin - 1)) : f.tiny mode s a = true := by
  have h2 : (0 : ℚ) < 2 ^ (f.emin - 2) := by positivity
  rw [FpFmt.two_zpow_emin_sub_one] at h
  simp only [FpFmt.tiny, FpFmt.two_zpow_emin_sub_one]
  split_ifs <;> rw [decide_eq_true_eq] <;> linarith

theorem FpFmt.not_tiny_of_le (h : f.minNormal ≤ a) : f.tiny mode s a = false := by
  have h1 : (0 : ℚ) < 2 ^ (f.emin - 1) := by positivity
  have h2 : (0 : ℚ) < 2 ^ (f.emin - 2) := by positivity
  rw [FpFmt.tiny]
  split_ifs <;> rw [decide_eq_false_iff_not] <;> linarith

/-- Between the last number of `frac + 1` bits below the smallest normal and it, what is not rounded up to it is tiny. -/
theorem FpFmt.tiny_eq_not_goesUp (h1 : f.minNormal - 2 ^ (f.emin - 1) ≤ a) (h2 : a < f.minNormal) :
    f.tiny mode s a = !goesUp mode s (f.minNormal - 2 ^ (f.emin - 1)) a f.minNormal true := by
  have hhalf := f.two_zpow_emin_sub_one
  rw [Bool.eq_iff_iff, Bool.not_eq_true', ← Bool.not_eq_true, FpFmt.tiny]
  by_cases h0 : mode = 0
  · subst h0
    have hmid : f.minNormal - 2 ^ (f.emin - 1) + f.minNormal = 2 * (f.minNormal - 2 ^ (f.emin - 2)) := by linarith
    rw [goesUp_nearest, if_pos rfl, hmid, decide_eq_true_eq, mul_lt_mul_iff_right₀ two_pos, mul_right_inj' two_ne_zero,
      and_iff_left rfl, ← le_iff_lt_or_eq, not_le]
  · rw [goesUp_directed h0, if_neg h0]
    split_ifs with haway
    · rw [haway, and_iff_right rfl, not_not, decide_eq_true_eq, le_antisymm_iff, and_iff_right h1]
    · simp [haway, h2]

end

/-! ### Rounding on the grid -/

/-- The grid point that magnitude `a`, at or above point `k` and below the next, is rounded to. -/
def FpFmt.nearby (f : FpFmt) (mode : Nat) (s : Bool) (a : ℚ) (k : Nat) : Nat :=
  if goesUp mode s (f.grid k) a (f.grid (k + 1)) (k % 2 == 1) then k + 1 else k

/-- What that rounding delivers, and its flags (R36 to R38). -/
def FpFmt.deliver (f : FpFmt) (mode : Nat) (s : Bool) (a : ℚ) (k : Nat) : Nat × FpFlags :=
  if f.infBits ≤ f.nearby mode s a k then (f.overflowBits mode s, FpFlags.overflow ||| FpFlags.inexact)
  else (f.sign s (f.nearby mode s a k),
    if f.grid k = a then 0 else if f.tiny mode s a then FpFlags.inexact ||| FpFlags.underflow else FpFlags.inexact)

section
variable {f : FpFmt} {mode : Nat} {s : Bool} {m : Nat} {e : Int}

theorem FpFmt.grid_lt_succ (k : Nat) : f.grid k < f.grid (k + 1) := f.grid_strictMono (Nat.lt_succ_self k)

/-- A value of the format is delivered as it is. -/
theorem FpFmt.deliver_grid {k : Nat} (hk : k < f.infBits) : f.deliver mode s (f.grid k) k = (f.sign s k, 0) := by
  have hn : f.nearby mode s (f.grid k) k = k := by rw [FpFmt.nearby, goesUp_self (FpFmt.grid_lt_succ k)]; rfl
  rw [FpFmt.deliver, hn, if_neg (not_le.mpr hk), if_pos rfl]

/-- A magnitude has `frac + 1` bits above the weight that it is rounded to with unbounded exponent range. -/
theorem FpFmt.unbounded_bounds (f : FpFmt) (hm : m ≠ 0) (e : Int) :
    (2 : ℚ) ^ f.frac * 2 ^ (e + topBit m - f.frac) ≤ m * 2 ^ e ∧
      (m : ℚ) * 2 ^ e < 2 ^ (f.frac + 1) * 2 ^ (e + topBit m - f.frac) := by
  have h1 : 2 ^ topBit m ≤ m := Nat.log2_self_le hm
  have h2 : m < 2 ^ (topBit m + 1) := Nat.lt_log2_self
  have he : (0 : ℚ) < 2 ^ e := by positivity
  have h3 : (2 : ℚ) ^ f.frac * 2 ^ (e + topBit m - f.frac) = 2 ^ topBit m * 2 ^ e := by
    rw [← zpow_natCast, ← zpow_natCast, ← zpow_add₀ two_ne_zero, ← zpow_add₀ two_ne_zero]
    congr 1
    ring
  rw [pow_succ, mul_right_comm, h3, mul_right_comm, ← pow_succ]
  exact ⟨mul_le_mul_of_nonneg_right (by exact_mod_cast h1) he.le, mul_lt_mul_of_pos_right (by exact_mod_cast h2) he⟩

/-- The rounding that decides whether a result is tiny: at `frac + 1` bits, with unbounded exponent range. -/
theorem FpFmt.tiny_eq {eu : Int} (hmode : mode ≤ 3) (hlow : (2 : ℚ) ^ f.frac * 2 ^ eu ≤ m * 2 ^ e)
    (hhigh : (m : ℚ) * 2 ^ e < 2 ^ (f.frac + 1) * 2 ^ eu) :
    (decide (eu < f.emin) && !(decide (roundTo mode s m e eu = 2 ^ (f.frac + 1)) && decide (eu + 1 = f.emin))) =
      f.tiny mode s (m * (2 : ℚ) ^ e) := by
  have hU : (0 : ℚ) < 2 ^ (f.emin - 1) := by positivity
  have hmin := f.minNormal_eq
  rcases lt_trichotomy (eu + 1) f.emin with h | h | h
  · have hle : 2 * (2 : ℚ) ^ eu ≤ 2 ^ (f.emin - 1) := by
      rw [mul_comm, ← zpow_add_one₀ two_ne_zero]
      exact zpow_le_zpow_right₀ one_le_two (by omega)
    have hP : (1 : ℚ) ≤ 2 ^ f.frac := one_le_pow₀ one_le_two
    rw [FpFmt.tiny_of_lt (by rw [pow_succ] at *; nlinarith)]
    simp [show eu < f.emin by omega, h.ne]
  · obtain rfl : eu = f.emin - 1 := by omega
    obtain ⟨q, hq1, hq2, hq3, -⟩ := roundTo_spec hmode s m e (f.emin - 1)
    have hlt : q < 2 ^ (f.frac + 1) := by exact_mod_cast lt_of_mul_lt_mul_right (hq1.trans_lt hhigh) hU.le
    simp only [h, show f.emin - 1 < f.emin by omega, decide_true, Bool.and_true, Bool.true_and, hq3]
    rcases Nat.lt_or_ge (q + 1) (2 ^ (f.frac + 1)) with hlt2 | hge
    · have hq : (q : ℚ) + 1 ≤ 2 ^ (f.frac + 1) - 1 := by
        rw [le_sub_iff_add_le]
        exact_mod_cast hlt2
      have := mul_le_mul_of_nonneg_right hq hU.le
      rw [FpFmt.tiny_of_lt (by linarith)]
      split_ifs <;> simp [hlt.ne, hlt2.ne]
    · obtain hq : q + 1 = 2 ^ (f.frac + 1) := by omega
      have hodd : q % 2 = 1 := by rw [pow_succ] at hq; omega
      have hhi : ((q : ℚ) + 1) * 2 ^ (f.emin - 1) = f.minNormal := by
        rw [hmin, ← Nat.cast_add_one, hq]
        push_cast
        rfl
      have hlo : (q : ℚ) * 2 ^ (f.emin - 1) = f.minNormal - 2 ^ (f.emin - 1) := by linarith
      rw [hhi, hlo, hodd, beq_self_eq_true, FpFmt.tiny_eq_not_goesUp (by linarith) (by linarith)]
      split_ifs with hg <;> simp [hg, hq, hlt.ne]
  · have hle : (2 : ℚ) ^ f.emin ≤ 2 ^ eu := zpow_le_zpow_right₀ one_le_two (by omega)
    rw [FpFmt.not_tiny_of_le]
    · simp [show ¬eu < f.emin by omega]
    · refine le_trans ?_ hlow
      rw [FpFmt.minNormal, add_comm, zpow_add₀ two_ne_zero, zpow_natCast]
      exact mul_le_mul_of_nonneg_left hle (by positivity)

theorem FpFmt.round_of_ne_zero (f : FpFmt) (mode : Nat) (s : Bool) (hm : m ≠ 0) (e : Int) : f.round mode s m e =
    let eu : Int := e + topBit m - f.frac
    let t : Int := if eu < f.emin then f.emin else eu
    let n := (t - f.emin).toNat * 2 ^ f.frac + roundTo mode s m e t
    if f.infBits ≤ n then (f.overflowBits mode s, FpFlags.overflow ||| FpFlags.inexact)
    else (f.sign s n, if exactTo m e t then 0
      else if decide (eu < f.emin) && !(decide (roundTo mode s m e eu = 2 ^ (f.frac + 1)) && decide (eu + 1 = f.emin)) then
        FpFlags.inexact ||| FpFlags.underflow else FpFlags.inexact) :=
  if_neg hm

/-- The significand at the weight `2^t` that the format allows. -/
theorem FpFmt.digits_of_bounds {a : ℚ} {eu t : Int} {q : Nat} (ht : t = if eu < f.emin then f.emin else eu)
    (hlow : (2 : ℚ) ^ f.frac * 2 ^ eu ≤ a) (hhigh : a < 2 ^ (f.frac + 1) * 2 ^ eu) (h1 : (q : ℚ) * 2 ^ t ≤ a)
    (h2 : a < (q + 1) * 2 ^ t) : f.Digits (t - f.emin).toNat q ∧ f.emin + ((t - f.emin).toNat : Int) = t := by
  have hT : (0 : ℚ) < 2 ^ t := by positivity
  have hle : (2 : ℚ) ^ eu ≤ 2 ^ t := zpow_le_zpow_right₀ one_le_two (by split at ht <;> omega)
  refine ⟨⟨?_, or_iff_not_imp_left.mpr fun h0 => ?_⟩, by split at ht <;> omega⟩
  · have := (h1.trans_lt hhigh).trans_le (mul_le_mul_of_nonneg_left hle (by positivity))
    exact_mod_cast lt_of_mul_lt_mul_right this hT.le
  · obtain rfl : t = eu := by split at ht <;> omega
    have := lt_of_mul_lt_mul_right (hlow.trans_lt h2) hT.le
    exact Nat.lt_succ_iff.mp (by exact_mod_cast this)

theorem FpFmt.place_mod_two (f : FpFmt) (t q : Nat) : (t * 2 ^ f.frac + q) % 2 = q % 2 := by
  obtain ⟨n, hn⟩ := Nat.exists_eq_add_of_le' f.two_le_frac
  rw [hn, pow_add, ← mul_assoc]
  omega

/-- The model's rounding is that of the exact magnitude on the grid. -/
theorem FpFmt.round_eq_deliver (f : FpFmt) (hmode : mode ≤ 3) (s : Bool) (m : Nat) (e : Int) :
    ∃ k, f.grid k ≤ m * (2 : ℚ) ^ e ∧ m * (2 : ℚ) ^ e < f.grid (k + 1) ∧
      f.round mode s m e = f.deliver mode s (m * (2 : ℚ) ^ e) k := by
  by_cases hm : m = 0
  · have h0 : (m : ℚ) * 2 ^ e = f.grid 0 := by simp [hm]
    rw [h0, FpFmt.round, if_pos hm]
    exact ⟨0, le_rfl, FpFmt.grid_lt_succ 0, (FpFmt.deliver_grid (by cases f <;> decide)).symm⟩
  · obtain ⟨hlow, hhigh⟩ := f.unbounded_bounds hm e
    rw [f.round_of_ne_zero mode s hm e]
    dsimp only
    rw [FpFmt.tiny_eq hmode hlow hhigh]
    generalize e + (topBit m : Int) - f.frac = eu at *
    obtain ⟨t, ht⟩ : ∃ t, t = if eu < f.emin then f.emin else eu := ⟨_, rfl⟩
    rw [← ht]
    obtain ⟨q, hq1, hq2, hq3, hq4⟩ := roundTo_spec hmode s m e t
    obtain ⟨hd, hexp⟩ := FpFmt.digits_of_bounds ht hlow hhigh hq1 hq2
    have hg := FpFmt.grid_digits hd
    have hg1 := FpFmt.grid_digits_succ hd
    rw [hexp] at hg hg1
    have hn : f.nearby mode s (m * 2 ^ e) ((t - f.emin).toNat * 2 ^ f.frac + q) =
        (t - f.emin).toNat * 2 ^ f.frac + roundTo mode s m e t := by
      rw [FpFmt.nearby, hg, hg1, f.place_mod_two, hq3]
      split <;> rfl
    refine ⟨_, hg.trans_le hq1, hq2.trans_eq hg1.symm, ?_⟩
    rw [FpFmt.deliver, hn, hg, hq4]
    simp only [decide_eq_true_eq]

end
end Sys2Proof.Machine
end

section
/-! ## Family 02: the rounding of an exact magnitude meets R36 to R38 -/
namespace Sys2Proof.Machine

/-- Of two points the upper one is as near where the magnitude is not below their middle, -/
theorem abs_sub_le_upper {x y a : ℚ} (h : x < y) : |a - y| ≤ |a - x| ↔ x + y ≤ 2 * a := by
  rw [← sq_le_sq]
  constructor <;> intro h' <;> nlinarith

/-- and the lower one where it is not above it. -/
theorem abs_sub_le_lower {x y a : ℚ} (h : x < y) : |a - x| ≤ |a - y| ↔ 2 * a ≤ x + y := by
  rw [← sq_le_sq]
  constructor <;> intro h' <;> nlinarith

section
variable (f : FpFmt)

theorem FpFmt.two_le_infBits : 2 ≤ f.infBits := by cases f <;> decide

/-- The two largest finite patterns and the one above them are equally far apart. -/
theorem FpFmt.grid_infBits : f.grid f.infBits = f.grid (f.infBits - 1) + (f.grid (f.infBits - 1) - f.grid (f.infBits - 2)) := by
  obtain ⟨t, q, hI, hq, ht⟩ : ∃ t q, f.infBits = t * 2 ^ f.frac + (q + 2) ∧ q + 2 ≤ 2 ^ (f.frac + 1) ∧ 2 ^ f.frac ≤ q := by
    cases f
    case e4m3 => exact ⟨14, 13, by decide⟩
    case fp32 => exact ⟨253, 0xFFFFFE, by decide⟩
    case fp16 => exact ⟨29, 0x7FE, by decide⟩
    case bf16 => exact ⟨253, 0xFE, by decide⟩
    case e5m2 => exact ⟨29, 6, by decide⟩
  rw [hI, show t * 2 ^ f.frac + (q + 2) - 1 = t * 2 ^ f.frac + (q + 1) by omega,
    show t * 2 ^ f.frac + (q + 2) - 2 = t * 2 ^ f.frac + q by omega, FpFmt.grid_of_le hq (.inr (by omega)),
    FpFmt.grid_of_le (by omega) (.inr (by omega)), FpFmt.grid_of_le (by omega) (.inr ht)]
  push_cast
  ring

variable {f} {mode : Nat} {s : Bool} {a : ℚ} {k : Nat}

theorem FpFmt.nearby_cases (f : FpFmt) (mode : Nat) (s : Bool) (a : ℚ) (k : Nat) :
    (goesUp mode s (f.grid k) a (f.grid (k + 1)) (k % 2 == 1) = true ∧ f.nearby mode s a k = k + 1) ∨
    (goesUp mode s (f.grid k) a (f.grid (k + 1)) (k % 2 == 1) = false ∧ f.nearby mode s a k = k) := by
  rw [FpFmt.nearby]
  split_ifs with h
  · exact .inl ⟨h, rfl⟩
  · exact .inr ⟨by simpa using h, rfl⟩

/-- The rounded magnitude is exact only where it is the lower neighbour. -/
theorem FpFmt.grid_nearby_eq_iff (h : a < f.grid (k + 1)) : f.grid (f.nearby mode s a k) = a ↔ f.grid k = a := by
  rcases f.nearby_cases mode s a k with ⟨hup, hn⟩ | ⟨-, hn⟩
  · rw [hn]
    refine ⟨fun he => absurd he h.ne', fun he => ?_⟩
    rw [← he, goesUp_self (FpFmt.grid_lt_succ k)] at hup
    cases hup
  · rw [hn]

section
variable (h1 : f.grid k ≤ a) (h2 : a < f.grid (k + 1))
include h1 h2

theorem FpFmt.grid_le_iff (n : Nat) : f.grid n ≤ a ↔ n ≤ k := by
  refine ⟨fun h => Nat.lt_succ_iff.mp (f.grid_strictMono.lt_iff_lt.mp (h.trans_lt h2)), fun h => ?_⟩
  exact (f.grid_strictMono.monotone h).trans h1

omit h1 h2 in
theorem FpFmt.le_nearby_iff (n : Nat) : n ≤ f.nearby mode s a k ↔
    n ≤ k ∨ (n = k + 1 ∧ goesUp mode s (f.grid k) a (f.grid (k + 1)) (k % 2 == 1) = true) := by
  rcases f.nearby_cases mode s a k with ⟨hup, hn⟩ | ⟨hup, hn⟩
  · rw [hn, hup, eq_self, and_true]
    omega
  · simp [hn, hup]

/-- To the nearest, the result is above a point where the magnitude lies beyond the middle of it and the next, or at the middle with
the point odd. -/
theorem FpFmt.lt_nearby_nearest (n : Nat) : n < f.nearby 0 s a k ↔
    f.grid n + f.grid (n + 1) < 2 * a ∨ (f.grid n + f.grid (n + 1) = 2 * a ∧ n % 2 = 1) := by
  have hn := FpFmt.grid_lt_succ (f := f) n
  rw [Nat.lt_iff_add_one_le, FpFmt.le_nearby_iff, Nat.add_right_cancel_iff, goesUp_nearest, beq_iff_eq]
  rcases lt_trichotomy n k with h | rfl | h
  · have := (FpFmt.grid_le_iff h1 h2 (n + 1)).mpr h
    exact iff_of_true (.inl h) (.inl (by linarith))
  · simp
  · have := f.grid_strictMono.monotone (show k + 1 ≤ n from h)
    refine iff_of_false (by omega) ?_
    rintro (h | ⟨h, -⟩) <;> linarith

/-- In a mode away from zero, where the magnitude is above the point. -/
theorem FpFmt.lt_nearby_away (h0 : mode ≠ 0) (haway : roundsAway mode s = true) (n : Nat) :
    n < f.nearby mode s a k ↔ f.grid n < a := by
  rw [Nat.lt_iff_add_one_le, FpFmt.le_nearby_iff, Nat.add_right_cancel_iff, goesUp_directed h0, haway]
  rcases lt_trichotomy n k with h | rfl | h
  · exact iff_of_true (.inl h) ((f.grid_strictMono h).trans_le h1)
  · simp [h1.lt_iff_ne]
  · exact iff_of_false (by omega) (not_lt.mpr (h2.le.trans (f.grid_strictMono.monotone h)))

omit h1 h2 in
/-- In a mode toward zero the result is the lower neighbour. -/
theorem FpFmt.nearby_toward (h0 : mode ≠ 0) (haway : roundsAway mode s = false) : f.nearby mode s a k = k := by
  refine if_neg ?_
  simp [goesUp_directed h0, haway]

/-- Away from zero no point lies between the magnitude and the one rounded to, -/
theorem FpFmt.nearby_away (h0 : mode ≠ 0) (haway : roundsAway mode s = true) : a ≤ f.grid (f.nearby mode s a k) ∧
    ∀ j, a ≤ f.grid j → f.grid (f.nearby mode s a k) ≤ f.grid j := by
  have hlt := FpFmt.lt_nearby_away h1 h2 h0 haway
  refine ⟨not_lt.mp fun h => lt_irrefl _ ((hlt _).mpr h), fun j h => f.grid_strictMono.monotone (not_lt.mp fun hj => ?_)⟩
  exact absurd ((hlt j).mp hj) (not_lt.mpr h)

/-- and toward zero none does either. -/
theorem FpFmt.grid_nearby_toward (h0 : mode ≠ 0) (haway : ¬roundsAway mode s = true) : f.grid (f.nearby mode s a k) ≤ a ∧
    ∀ j, f.grid j ≤ a → f.grid j ≤ f.grid (f.nearby mode s a k) := by
  rw [FpFmt.nearby_toward h0 (by simpa using haway)]
  exact ⟨h1, fun j h => f.grid_strictMono.monotone ((FpFmt.grid_le_iff h1 h2 j).mp h)⟩

/-- No point is nearer than the one rounded to, and of two as near it is the even one. -/
theorem FpFmt.nearby_nearest (j : Nat) : |a - f.grid (f.nearby 0 s a k)| ≤ |a - f.grid j| ∧
    (|a - f.grid (f.nearby 0 s a k)| = |a - f.grid j| → f.grid j ≠ f.grid (f.nearby 0 s a k) → f.nearby 0 s a k % 2 = 0) := by
  have hlt := FpFmt.lt_nearby_nearest (s := s) h1 h2
  generalize f.nearby 0 s a k = n at hlt ⊢
  rcases lt_trichotomy j n with h | rfl | h
  · obtain ⟨i, rfl⟩ := Nat.exists_eq_add_one.mpr (Nat.zero_lt_of_lt h)
    have hji : f.grid j ≤ f.grid i := f.grid_strictMono.monotone (by omega)
    rw [le_antisymm_iff (a := |a - _|), abs_sub_le_upper (f.grid_strictMono h), abs_sub_le_lower (f.grid_strictMono h)]
    rcases (hlt i).mp (by omega) with hi | ⟨hi, hodd⟩
    · exact ⟨by linarith, fun he => absurd he.2 (by linarith)⟩
    · exact ⟨by linarith, fun _ _ => by omega⟩
  · exact ⟨le_rfl, fun _ h => absurd rfl h⟩
  · have hnj : f.grid (n + 1) ≤ f.grid j := f.grid_strictMono.monotone h
    rw [le_antisymm_iff (a := |a - _|), abs_sub_le_upper (f.grid_strictMono h), abs_sub_le_lower (f.grid_strictMono h)]
    obtain ⟨hn, hn2⟩ := not_or.mp (mt (hlt n).mpr (lt_irrefl n))
    refine ⟨by linarith, fun he _ => ?_⟩
    have : ¬n % 2 = 1 := fun hodd => hn2 ⟨by linarith, hodd⟩
    omega

end

/-- The rounded magnitude lies beyond the largest finite one: the overflow of `FpFmt.Rounds`. -/
theorem FpFmt.infBits_le_nearby (h1 : f.grid k ≤ a) (h2 : a < f.grid (k + 1)) : f.infBits ≤ f.nearby mode s a k ↔
    if mode = 0 then 2 * f.grid (f.infBits - 1) + (f.grid (f.infBits - 1) - f.grid (f.infBits - 2)) < 2 * a ∨
      (2 * a = 2 * f.grid (f.infBits - 1) + (f.grid (f.infBits - 1) - f.grid (f.infBits - 2)) ∧ (f.infBits - 1) % 2 = 1)
    else (roundsAway mode s = true ∧ f.grid (f.infBits - 1) < a) ∨
      (¬roundsAway mode s = true ∧ f.grid (f.infBits - 1) + (f.grid (f.infBits - 1) - f.grid (f.infBits - 2)) ≤ a) := by
  have hI : f.infBits = f.infBits - 1 + 1 := (Nat.sub_add_cancel (one_le_two.trans f.two_le_infBits)).symm
  rw [two_mul, add_assoc, ← f.grid_infBits]
  by_cases h0 : mode = 0
  · subst h0
    have := FpFmt.lt_nearby_nearest (s := s) h1 h2 (f.infBits - 1)
    rwa [Nat.lt_iff_add_one_le, ← hI, eq_comm (a := _ + _)] at this
  · rw [if_neg h0]
    by_cases haway : roundsAway mode s = true
    · have := FpFmt.lt_nearby_away h1 h2 h0 haway (f.infBits - 1)
      rw [Nat.lt_iff_add_one_le, ← hI] at this
      simpa [haway] using this
    · rw [FpFmt.nearby_toward h0 (by simpa using haway), ← FpFmt.grid_le_iff h1 h2]
      simp [haway]

theorem FpFmt.overflowBits_infinite (hmode : mode ≤ 3) (hf : f ≠ .e4m3) (h : mode = 0 ∨ roundsAway mode s = true) :
    f.overflowBits mode s = f.sign s f.infBits := by
  obtain rfl | rfl | rfl | rfl : mode = 0 ∨ mode = 1 ∨ mode = 2 ∨ mode = 3 := by omega
  all_goals simp_all [FpFmt.overflowBits, roundsAway]

theorem FpFmt.overflowBits_finite (hmode : mode ≤ 3) (hf : f ≠ .e4m3) (h : ¬(mode = 0 ∨ roundsAway mode s = true)) :
    f.overflowBits mode s = f.sign s (f.infBits - 1) := by
  obtain rfl | rfl | rfl | rfl : mode = 0 ∨ mode = 1 ∨ mode = 2 ∨ mode = 3 := by omega
  all_goals simp_all [FpFmt.overflowBits, roundsAway]

/-- What `deliver` gives is the magnitude rounded once. -/
theorem FpFmt.deliver_rounds (hmode : mode ≤ 3) (h1 : f.grid k ≤ a) (h2 : a < f.grid (k + 1)) :
    f.Rounds mode s a (f.deliver mode s a k) := by
  have hI := f.two_le_infBits
  have htop : |Fp.value (f.unpack (f.infBits - 1))| = f.grid (f.infBits - 1) := FpFmt.abs_value_sign (s := false) (by omega)
  have htop2 : |Fp.value (f.unpack (f.infBits - 2))| = f.grid (f.infBits - 2) := FpFmt.abs_value_sign (s := false) (by omega)
  unfold FpFmt.Rounds
  simp only [htop, htop2, ← roundsAway_iff, ← FpFmt.infBits_le_nearby h1 h2]
  refine ⟨fun ho => ?_, fun ho => ?_⟩
  · rw [FpFmt.deliver, if_pos ho]
    refine ⟨rfl, ?_, fun hf hout => FpFmt.overflowBits_infinite hmode hf hout, fun hf hin => FpFmt.overflowBits_finite hmode hf hin⟩
    rintro rfl
    rfl
  · rw [FpFmt.deliver, if_neg ho]
    rw [not_le] at ho
    simp only [FpFmt.abs_value_sign ho, FpFmt.neg_unpack_sign ho, FpFmt.sign_mod_two, FpFmt.grid_nearby_eq_iff h2]
    have hgrid : ∀ y, f.finite y → ∃ j, |Fp.value (f.unpack y)| = f.grid j := fun y hy => by
      obtain ⟨t, j, hj, rfl⟩ := hy.exists_sign
      exact ⟨j, FpFmt.abs_value_sign hj t⟩
    refine ⟨FpFmt.finite_sign ho s, trivial, ?_, fun h0 haway => ?_, fun h0 haway => ?_, fun h => if_pos h, fun h ht => ?_,
      fun h ht => ?_⟩
    · rintro rfl y hy
      obtain ⟨j, hj⟩ := hgrid y hy
      exact hj ▸ FpFmt.nearby_nearest h1 h2 j
    · obtain ⟨hle, hnext⟩ := FpFmt.nearby_away h1 h2 h0 haway
      refine ⟨hle, fun y hy => ?_⟩
      obtain ⟨j, hj⟩ := hgrid y hy
      exact hj ▸ hnext j
    · obtain ⟨hle, hnext⟩ := FpFmt.grid_nearby_toward h1 h2 h0 haway
      refine ⟨hle, fun y hy => ?_⟩
      obtain ⟨j, hj⟩ := hgrid y hy
      exact hj ▸ hnext j
    · rw [if_neg ((FpFmt.grid_nearby_eq_iff h2).not.mp h), if_pos ((f.tiny_iff ..).mpr ht)]
    · rw [if_neg ((FpFmt.grid_nearby_eq_iff h2).not.mp h), if_neg ((f.tiny_iff ..).not.mpr ht)]

end
end Sys2Proof.Machine
end

section
/-! ## Family 02: exact values, and numbers that stand for a value with a sticky bit -/
namespace Sys2Proof.Machine

section
variable {f : FpFmt} {mode : Nat} {s : Bool} {m : Nat} {e : Int}

/-- R36 to R38 hold of the model's rounding of every dyadic number. -/
theorem FpFmt.round_rounds (hmode : mode ≤ 3) : f.Rounds mode s (m * (2 : ℚ) ^ e) (f.round mode s m e) := by
  obtain ⟨k, h1, h2, h⟩ := f.round_eq_deliver hmode s m e
  exact h ▸ FpFmt.deliver_rounds hmode h1 h2

/-! ### Exact values -/

theorem roundShift_min (mode : Nat) (s : Bool) (m j : Nat) : roundShift (min mode 3) s m j = roundShift mode s m j := by
  rcases le_total mode 3 with h | h
  · rw [min_eq_left h]
  · obtain ⟨n, rfl⟩ := Nat.exists_eq_add_of_le' h
    rw [min_eq_right h]
    rfl

theorem FpFmt.overflowBits_min (f : FpFmt) (mode : Nat) (s : Bool) : f.overflowBits (min mode 3) s = f.overflowBits mode s := by
  rcases le_total mode 3 with h | h
  · rw [min_eq_left h]
  · obtain ⟨n, rfl⟩ := Nat.exists_eq_add_of_le' h
    rw [min_eq_right h]
    rfl

/-- A mode beyond 3 rounds as mode 3 does. -/
theorem FpFmt.round_min (f : FpFmt) (mode : Nat) (s : Bool) (m : Nat) (e : Int) : f.round (min mode 3) s m e = f.round mode s m e := by
  simp only [FpFmt.round, roundShift_min, FpFmt.overflowBits_min]

/-- A value of the format is rounded to itself, in every mode. -/
theorem FpFmt.round_exact {k : Nat} (h : (m : ℚ) * 2 ^ e = f.grid k) (hk : k < f.infBits) : f.round mode s m e = (f.sign s k, 0) := by
  rw [← FpFmt.round_min]
  obtain ⟨j, h1, h2, hj⟩ := f.round_eq_deliver (min_le_right mode 3) s m e
  rw [h] at h1 h2 hj
  obtain rfl : k = j := le_antisymm ((FpFmt.grid_le_iff h1 h2 k).mp le_rfl) (f.grid_strictMono.le_iff_le.mp h1)
  rw [hj, FpFmt.deliver_grid hk]

/-- A number of at most `frac + 1` bits at or above the lowest weight of the format is on its grid. -/
theorem FpFmt.exists_grid (hm : m < 2 ^ (f.frac + 1)) (he : f.emin ≤ e) : ∃ k, (m : ℚ) * 2 ^ e = f.grid k := by
  obtain ⟨k, h1, h2, -⟩ := f.round_eq_deliver (Nat.zero_le 3) false m e
  obtain ⟨t, q, hd, rfl⟩ := f.exists_digits k
  refine ⟨_, le_antisymm ?_ h1⟩
  rw [FpFmt.grid_digits hd] at h1 ⊢
  rw [FpFmt.grid_digits_succ hd] at h2
  have hT : (0 : ℚ) < 2 ^ (f.emin + t) := by positivity
  rcases le_or_gt (f.emin + t) e with h | h
  · obtain ⟨n, rfl⟩ := Int.le.dest h
    rw [zpow_add₀ two_ne_zero, zpow_natCast, mul_left_comm, mul_comm] at h2 ⊢
    refine mul_le_mul_of_nonneg_right ?_ hT.le
    have := lt_of_mul_lt_mul_right h2 hT.le
    exact_mod_cast Nat.lt_succ_iff.mp (by exact_mod_cast this)
  · have ht : 2 ^ f.frac ≤ q := hd.2.resolve_left (by omega)
    exfalso
    have h3 : (2 : ℚ) * 2 ^ e ≤ 2 ^ (f.emin + t) := by
      rw [mul_comm, ← zpow_add_one₀ two_ne_zero]
      exact zpow_le_zpow_right₀ one_le_two h
    have h4 : (2 : ℚ) ^ f.frac * 2 ^ (f.emin + t) ≤ q * 2 ^ (f.emin + t) :=
      mul_le_mul_of_nonneg_right (by exact_mod_cast ht) hT.le
    have h5 : (m : ℚ) * 2 ^ e < 2 ^ f.frac * (2 * 2 ^ e) := by
      rw [← mul_assoc, ← pow_succ]
      exact mul_lt_mul_of_pos_right (by exact_mod_cast hm) (by positivity)
    have h6 : (2 : ℚ) ^ f.frac * (2 * 2 ^ e) ≤ 2 ^ f.frac * 2 ^ (f.emin + t) := mul_le_mul_of_nonneg_left h3 (by positivity)
    linarith

/-! ### Rounding a number with a sticky bit -/

/-- The two magnitudes lie on the same side of `x`. -/
def SameSide (x a b : ℚ) : Prop := (x < a ↔ x < b) ∧ (a < x ↔ b < x)

theorem SameSide.eq_iff {x a b : ℚ} (h : SameSide x a b) : x = a ↔ x = b := by
  rw [← not_iff_not, ← Ne, ← Ne, ne_iff_lt_or_gt, ne_iff_lt_or_gt, h.1, h.2]

theorem SameSide.two_mul {x a b : ℚ} (h : SameSide x a b) : SameSide (2 * x) (2 * a) (2 * b) := by
  simpa only [SameSide, mul_lt_mul_iff_right₀ (two_pos (α := ℚ))] using h

/-- They do so for every multiple of `2^(e+1)`. -/
def SameSides (e : Int) (a b : ℚ) : Prop := ∀ n : Int, SameSide (n * 2 ^ (e + 1)) a b

theorem SameSides.at {a b : ℚ} (h : SameSides e a b) {j : Int} (hj : e + 1 ≤ j) (n : Int) : SameSide (n * 2 ^ j) a b := by
  obtain ⟨i, rfl⟩ := Int.le.dest hj
  have := h (n * 2 ^ i)
  push_cast at this
  rwa [mul_assoc, mul_comm ((2 : ℚ) ^ i), ← zpow_natCast, ← zpow_add₀ two_ne_zero] at this

/-- A dyadic number with its lowest bit read as the mark that it is not exact: what is marked lies strictly within a unit of it. -/
def StandsFor (x : Nat × Int) (a : ℚ) : Prop :=
  (x.1 % 2 = 0 → a = x.1 * 2 ^ x.2) ∧
  (x.1 % 2 = 1 → ((x.1 : ℚ) - 1) * 2 ^ x.2 < a ∧ a < ((x.1 : ℚ) + 1) * 2 ^ x.2)

/-- An odd number of units stands for what lies strictly within a unit of it. -/
theorem sameSides_odd {a : ℚ} (hm : m % 2 = 1) (h1 : ((m : ℚ) - 1) * 2 ^ e < a) (h2 : a < ((m : ℚ) + 1) * 2 ^ e) :
    SameSides e (m * 2 ^ e) a := fun n => by
  obtain ⟨j, rfl⟩ : ∃ j, m = 2 * j + 1 := ⟨m / 2, by omega⟩
  have hU : (0 : ℚ) < 2 ^ e := by positivity
  rw [zpow_add_one₀ two_ne_zero]
  push_cast at *
  rcases le_or_gt n j with h | h
  · have : (n : ℚ) * 2 ^ e ≤ j * 2 ^ e := mul_le_mul_of_nonneg_right (by exact_mod_cast h) hU.le
    exact ⟨iff_of_true (by linarith) (by linarith), iff_of_false (by linarith) (by linarith)⟩
  · have : ((j : ℚ) + 1) * 2 ^ e ≤ n * 2 ^ e := mul_le_mul_of_nonneg_right (by exact_mod_cast h) hU.le
    exact ⟨iff_of_false (by linarith) (by linarith), iff_of_true (by linarith) (by linarith)⟩

/-- What the choice between two neighbours depends on: the sides of the lower one and of the middle. -/
theorem goesUp_congr {lo hi a b : ℚ} {odd : Bool} (hlo : SameSide lo a b) (hmid : SameSide (lo + hi) (2 * a) (2 * b)) :
    goesUp mode s lo a hi odd = goesUp mode s lo b hi odd := by
  simp only [goesUp, hmid.1, hlo.eq_iff, hmid.eq_iff, ne_eq]

/-- Numbers with `frac + 5` bits or more lie on the same side of what tells that a result is tiny. -/
theorem SameSides.below_minNormal {a b : ℚ} (h : SameSides e a b) (ha : 2 ^ (f.frac + 4) * (2 : ℚ) ^ e ≤ a) {n : Int}
    (hn : n ≤ 2 ^ (f.frac + 2)) : SameSide (n * 2 ^ (f.emin - 2)) a b := by
  rcases le_or_gt (e + 1) (f.emin - 2) with he | he
  · exact h.at he n
  · have hb : 2 ^ (f.frac + 4) * (2 : ℚ) ^ e ≤ b := by
      have := (h (2 ^ (f.frac + 3))).2
      push_cast at this
      rw [zpow_add_one₀ two_ne_zero, mul_comm _ (2 : ℚ), ← mul_assoc, ← pow_succ] at this
      exact not_lt.mp (this.not.mp (not_lt.mpr ha))
    have h3 : (n : ℚ) * 2 ^ (f.emin - 2) ≤ 2 ^ (f.frac + 2) * 2 ^ e :=
      mul_le_mul (by exact_mod_cast hn) (zpow_le_zpow_right₀ one_le_two (by omega)) (by positivity) (by positivity)
    have h4 : (2 : ℚ) ^ (f.frac + 2) * 2 ^ e < 2 ^ (f.frac + 4) * 2 ^ e :=
      mul_lt_mul_of_pos_right (pow_lt_pow_right₀ one_lt_two (by omega)) (by positivity)
    exact ⟨iff_of_true (by linarith) (by linarith), iff_of_false (by linarith) (by linarith)⟩

theorem SameSides.tiny_eq {a b : ℚ} (h : SameSides e a b) (ha : 2 ^ (f.frac + 4) * (2 : ℚ) ^ e ≤ a) :
    f.tiny mode s a = f.tiny mode s b := by
  have hmin : f.minNormal = 2 ^ (f.frac + 2) * 2 ^ (f.emin - 2) := by
    rw [f.minNormal_eq, f.two_zpow_emin_sub_one]
    ring
  have c1 := h.below_minNormal ha (show (2 ^ (f.frac + 2) - 1 : Int) ≤ 2 ^ (f.frac + 2) by omega)
  have c2 := h.below_minNormal ha (show (2 ^ (f.frac + 2) - 2 : Int) ≤ 2 ^ (f.frac + 2) by omega)
  have c3 := h.below_minNormal ha (le_refl (2 ^ (f.frac + 2) : Int))
  push_cast at c1 c2 c3
  rw [sub_mul, ← hmin, one_mul] at c1
  rw [sub_mul, ← hmin, ← f.two_zpow_emin_sub_one] at c2
  rw [← hmin] at c3
  have hle : a ≤ f.minNormal - 2 ^ (f.emin - 1) ↔ b ≤ f.minNormal - 2 ^ (f.emin - 1) := by rw [← not_lt, ← not_lt, c2.1]
  simp only [FpFmt.tiny, c1.2, hle, c3.2]

/-- Numbers with `frac + 5` bits or more on the same side of everything that matters are rounded alike. -/
theorem FpFmt.deliver_congr {a b : ℚ} {k : Nat} (h : SameSides e a b) (ha : 2 ^ (f.frac + 4) * (2 : ℚ) ^ e ≤ a)
    (h1 : f.grid k ≤ a) (h2 : a < f.grid (k + 1)) :
    f.grid k ≤ b ∧ b < f.grid (k + 1) ∧ f.deliver mode s a k = f.deliver mode s b k := by
  obtain ⟨t, q, hd, rfl⟩ := f.exists_digits k
  have hexp : e + 1 ≤ f.emin + t - 1 := by
    rw [FpFmt.grid_digits_succ hd] at h2
    have h3 : ((q : ℚ) + 1) * 2 ^ (f.emin + t) ≤ 2 ^ (f.frac + 1) * 2 ^ (f.emin + t) :=
      mul_le_mul_of_nonneg_right (by exact_mod_cast hd.1) (by positivity)
    have h4 := (ha.trans_lt h2).trans_le h3
    rw [← zpow_natCast, ← zpow_natCast, ← zpow_add₀ two_ne_zero, ← zpow_add₀ two_ne_zero,
      zpow_lt_zpow_iff_right₀ one_lt_two] at h4
    push_cast at h4
    omega
  have hhalf : (2 : ℚ) ^ (f.emin + t) = 2 * 2 ^ (f.emin + t - 1) := by
    rw [mul_comm, ← zpow_add_one₀ two_ne_zero, sub_add_cancel]
  have c1 := h.at (show e + 1 ≤ f.emin + t by omega) q
  have c2 := h.at (show e + 1 ≤ f.emin + t by omega) (q + 1)
  have c3 := h.at hexp (2 * q + 1)
  push_cast at c1 c2 c3
  rw [← FpFmt.grid_digits hd] at c1
  rw [← FpFmt.grid_digits_succ hd] at c2
  have hsum : f.grid (t * 2 ^ f.frac + q) + f.grid (t * 2 ^ f.frac + q + 1) = 2 * ((2 * q + 1) * 2 ^ (f.emin + t - 1)) := by
    rw [FpFmt.grid_digits hd, FpFmt.grid_digits_succ hd, hhalf]
    ring
  have hup := goesUp_congr (mode := mode) (s := s) (odd := (t * 2 ^ f.frac + q) % 2 == 1) c1
    (hsum ▸ c3.two_mul)
  refine ⟨not_lt.mp (c1.2.not.mp (not_lt.mpr h1)), c2.2.mp h2, ?_⟩
  rw [FpFmt.deliver, FpFmt.deliver, FpFmt.nearby, FpFmt.nearby, hup, h.tiny_eq ha, if_congr c1.eq_iff rfl rfl]

/-- A number is rounded as what it stands for. -/
theorem FpFmt.round_standsFor {x : Nat × Int} {a : ℚ} (hmode : mode ≤ 3) (hx : 2 ^ (f.frac + 4) ≤ x.1) (h : StandsFor x a) :
    f.Rounds mode s a (f.round mode s x.1 x.2) := by
  obtain ⟨heven, hodd⟩ := h
  rcases Nat.mod_two_eq_zero_or_one x.1 with h | h
  · exact heven h ▸ FpFmt.round_rounds hmode
  · obtain ⟨k, h1, h2, hk⟩ := f.round_eq_deliver hmode s x.1 x.2
    have ha : 2 ^ (f.frac + 4) * (2 : ℚ) ^ x.2 ≤ x.1 * 2 ^ x.2 :=
      mul_le_mul_of_nonneg_right (by exact_mod_cast hx) (by positivity)
    obtain ⟨h3, h4, h5⟩ := FpFmt.deliver_congr (sameSides_odd h (hodd h).1 (hodd h).2) ha h1 h2
    rw [hk, h5]
    exact FpFmt.deliver_rounds hmode h3 h4

end
end Sys2Proof.Machine
end

section
/-! ## Family 02: conversions that are exact, and sums, products, quotients and roots rounded once -/
namespace Sys2Proof.Machine

section
variable {f : FpFmt} {mode : Nat}

/-! ### Conversions of finite values (R32, R41) -/

/-- A finite pattern converted to its own format. -/
theorem FpFmt.convert_self {x : Nat} (h : f.finite x) : f.convert f mode x = (x, 0) := by
  obtain ⟨s, t, q, hd, hI, rfl, hx⟩ := h.exists_digits
  rw [FpFmt.convert, hx]
  exact FpFmt.round_exact (FpFmt.grid_digits hd).symm hI

theorem FpFmt.grid_infBits_le (f : FpFmt) : f.grid f.infBits ≤ FpFmt.fp32.grid FpFmt.fp32.infBits := by
  cases f <;> norm_num [FpFmt.grid, FpFmt.infBits, FpFmt.frac, FpFmt.emin, FpFmt.bias, FpFmt.exp]

theorem FpFmt.fp32_emin_le (f : FpFmt) : FpFmt.fp32.emin ≤ f.emin := by cases f <;> decide

theorem FpFmt.frac_le_fp32 (f : FpFmt) : f.frac ≤ FpFmt.fp32.frac := by cases f <;> decide

/-- FP32 holds every finite value of the other formats. -/
theorem FpFmt.convert_fp32 {x : Nat} (h : f.finite x) :
    ∃ k, k < FpFmt.fp32.infBits ∧ f.convert .fp32 mode x = (FpFmt.fp32.sign (f.unpack x).neg k, 0) ∧
      FpFmt.fp32.grid k = |Fp.value (f.unpack x)| := by
  obtain ⟨s, t, q, hd, hI, rfl, hx⟩ := h.exists_digits
  have hq : q < 2 ^ (FpFmt.fp32.frac + 1) :=
    hd.1.trans_le (Nat.pow_le_pow_right two_pos (Nat.add_le_add_right f.frac_le_fp32 1))
  obtain ⟨k, hk⟩ := FpFmt.exists_grid (e := f.emin + t) hq (f.fp32_emin_le.trans (by omega))
  have hkI : k < FpFmt.fp32.infBits := by
    rw [← FpFmt.fp32.grid_strictMono.lt_iff_lt, ← hk, ← FpFmt.grid_digits hd]
    exact (f.grid_strictMono hI).trans_le f.grid_infBits_le
  refine ⟨k, hkI, ?_, ?_⟩
  · rw [FpFmt.convert, hx]
    exact FpFmt.round_exact hk hkI
  · rw [hx, Fp.abs_value_fin, hk]

/-! ### Sums (R36, R108, R109) -/

theorem FpFmt.finite.exists_fin {x : Nat} (h : f.finite x) : ∃ s m e, m < 2 ^ (f.frac + 1) ∧ f.unpack x = .fin s m e := by
  obtain ⟨s, t, q, hd, -, -, hx⟩ := h.exists_digits
  exact ⟨s, q, _, hd.1, hx⟩

theorem addExact_value (s1 : Bool) (m1 : Nat) (e1 : Int) (s2 : Bool) (m2 : Nat) (e2 : Int) :
    ((addExact s1 m1 e1 s2 m2 e2).1 : ℚ) * 2 ^ (addExact s1 m1 e1 s2 m2 e2).2 =
      Fp.value (.fin s1 m1 e1) + Fp.value (.fin s2 m2 e2) := by
  have hscale : ∀ (m : Nat) (i e : Int), e ≤ i → ((m * 2 ^ (i - e).toNat : Nat) : ℚ) * 2 ^ e = m * 2 ^ i := by
    intro m i e h
    push_cast
    rw [mul_assoc, ← zpow_natCast, ← zpow_add₀ two_ne_zero]
    congr 2
    omega
  have h1 := hscale m1 e1 (if e1 < e2 then e1 else e2) (by split <;> omega)
  have h2 := hscale m2 e2 (if e1 < e2 then e1 else e2) (by split <;> omega)
  rw [Fp.value_fin, Fp.value_fin, ← h1, ← h2, addExact]
  generalize (if e1 < e2 then e1 else e2) = e
  cases s1 <;> cases s2 <;> simp <;> ring

/-- The sum is rounded once, and a sum that is exactly zero has the sign of R36. -/
theorem FpFmt.roundSum_spec (hmode : mode ≤ 3) (s1 s2 : Bool) {x : Int × Int} {v : ℚ} (hx : (x.1 : ℚ) * 2 ^ x.2 = v) :
    (v ≠ 0 → f.Rounds mode (decide (v < 0)) |v| (f.roundSum mode s1 s2 x)) ∧
      (v = 0 → f.roundSum mode s1 s2 x = (f.sign (if s1 = s2 then s1 else decide (mode = 2)) 0, 0)) := by
  subst hx
  have hP : (0 : ℚ) < 2 ^ x.2 := by positivity
  refine ⟨fun h => ?_, fun h => if_pos (by simpa [hP.ne'] using h)⟩
  have h0 : x.1 ≠ 0 := by rintro h1; simp [h1] at h
  have hneg : (x.1 : ℚ) * 2 ^ x.2 < 0 ↔ x.1 < 0 := by rw [mul_neg_iff]; simp [hP, hP.not_gt]
  rw [FpFmt.roundSum, if_neg h0, decide_eq_decide.mpr hneg, abs_mul, abs_of_pos hP, ← Int.cast_abs, Int.abs_eq_natAbs]
  exact FpFmt.round_rounds hmode

theorem firstNan_eq_none {src dst : FpFmt} {ops : List Fp} (h : ∀ x ∈ ops, x.isNan = false) : firstNan src dst ops = none := by
  rw [firstNan, List.find?_eq_none.mpr (by simpa using h)]

section
variable {x y z : Nat}

theorem FpFmt.add_finite (hmode : mode ≤ 3) (hx : f.finite x) (hy : f.finite y) :
    (Fp.value (f.unpack x) + Fp.value (f.unpack y) ≠ 0 →
      f.Rounds mode (decide (Fp.value (f.unpack x) + Fp.value (f.unpack y) < 0)) |Fp.value (f.unpack x) + Fp.value (f.unpack y)|
        (f.add mode x y)) ∧
    (Fp.value (f.unpack x) + Fp.value (f.unpack y) = 0 →
      f.add mode x y = (f.sign (if (f.unpack x).neg = (f.unpack y).neg then (f.unpack x).neg else decide (mode = 2)) 0, 0)) := by
  obtain ⟨s1, m1, e1, -, h1⟩ := hx.exists_fin
  obtain ⟨s2, m2, e2, -, h2⟩ := hy.exists_fin
  rw [FpFmt.add, h1, h2]
  exact FpFmt.roundSum_spec hmode s1 s2 (addExact_value ..)

theorem Fp.value_flip (x : Fp) : Fp.value x.flip = -Fp.value x := by
  cases x with
  | nan => simp [Fp.value, Fp.flip]
  | inf => simp [Fp.value, Fp.flip]
  | fin s m e => cases s <;> simp [Fp.value, Fp.flip]

theorem FpFmt.sub_finite (hmode : mode ≤ 3) (hx : f.finite x) (hy : f.finite y) :
    (Fp.value (f.unpack x) - Fp.value (f.unpack y) ≠ 0 →
      f.Rounds mode (decide (Fp.value (f.unpack x) - Fp.value (f.unpack y) < 0)) |Fp.value (f.unpack x) - Fp.value (f.unpack y)|
        (f.sub mode x y)) ∧
    (Fp.value (f.unpack x) - Fp.value (f.unpack y) = 0 →
      f.sub mode x y = (f.sign (if (f.unpack x).neg = !(f.unpack y).neg then (f.unpack x).neg else decide (mode = 2)) 0, 0)) := by
  obtain ⟨s1, m1, e1, -, h1⟩ := hx.exists_fin
  obtain ⟨s2, m2, e2, -, h2⟩ := hy.exists_fin
  rw [FpFmt.sub, h1, h2, sub_eq_add_neg, ← Fp.value_flip]
  exact FpFmt.roundSum_spec hmode s1 (!s2) (addExact_value ..)

/-! ### Products and quotients (R108) -/

theorem FpFmt.mul_finite (hmode : mode ≤ 3) (hx : f.finite x) (hy : f.finite y) :
    f.Rounds mode ((f.unpack x).neg != (f.unpack y).neg) |Fp.value (f.unpack x) * Fp.value (f.unpack y)| (f.mul mode x y) := by
  obtain ⟨s1, m1, e1, -, h1⟩ := hx.exists_fin
  obtain ⟨s2, m2, e2, -, h2⟩ := hy.exists_fin
  have hval : |Fp.value (f.unpack x) * Fp.value (f.unpack y)| = ((m1 * m2 : Nat) : ℚ) * 2 ^ (e1 + e2) := by
    rw [h1, h2, abs_mul, Fp.abs_value_fin, Fp.abs_value_fin, zpow_add₀ two_ne_zero]
    push_cast
    ring
  rw [hval, FpFmt.mul, h1, h2]
  exact FpFmt.round_rounds hmode

/-- A quotient's lowest bit marks that a rest is left. -/
theorem quotient_standsFor {ma mb : Nat} (hb : mb ≠ 0) (ea eb : Int) :
    StandsFor (quotient ma ea mb eb) (ma * 2 ^ ea / (mb * 2 ^ eb)) := by
  have hmb : (0 : ℚ) < mb := by exact_mod_cast Nat.pos_of_ne_zero hb
  have hU : (0 : ℚ) < 2 ^ (ea - eb - 65) := by positivity
  have hval : (ma : ℚ) * 2 ^ ea / (mb * 2 ^ eb) = 2 * (((ma * 2 ^ 64 : Nat) : ℚ) / mb) * 2 ^ (ea - eb - 65) := by
    rw [zpow_sub₀ two_ne_zero, zpow_sub₀ two_ne_zero]
    push_cast
    field_simp
    ring
  have hdiv : ((ma * 2 ^ 64 : Nat) : ℚ) / mb = (ma * 2 ^ 64 / mb : Nat) + ((ma * 2 ^ 64 % mb : Nat) : ℚ) / mb := by
    rw [div_eq_iff hmb.ne', add_mul, div_mul_cancel₀ _ hmb.ne']
    exact_mod_cast (Nat.div_add_mod' _ mb).symm
  have hr : ((ma * 2 ^ 64 % mb : Nat) : ℚ) / mb < 1 := by
    rw [div_lt_one hmb]
    exact_mod_cast Nat.mod_lt _ (Nat.pos_of_ne_zero hb)
  rw [hval, hdiv, quotient, StandsFor]
  dsimp only
  generalize ma * 2 ^ 64 = n at *
  by_cases h0 : n % mb = 0
  · refine ⟨fun _ => ?_, fun h => ?_⟩
    · simp [h0]
    · simp [h0] at h
  · have hpos : (0 : ℚ) < ((n % mb : Nat) : ℚ) / mb := div_pos (by exact_mod_cast Nat.pos_of_ne_zero h0) hmb
    refine ⟨fun h => ?_, fun _ => ⟨mul_lt_mul_of_pos_right ?_ hU, mul_lt_mul_of_pos_right ?_ hU⟩⟩
    · simp only [h0, if_false] at h
      omega
    all_goals
      simp only [h0, if_false]
      push_cast
      linarith

/-- A quotient carries more bits than any format: its divisor is a significand. -/
theorem FpFmt.le_quotient (f : FpFmt) {ma mb : Nat} (ha : ma ≠ 0) (hb : mb ≠ 0) (hlt : mb < 2 ^ (f.frac + 1)) (ea eb : Int) :
    2 ^ (f.frac + 4) ≤ (quotient ma ea mb eb).1 := by
  have h1 : 2 ^ (f.frac + 4) ≤ 2 ^ 64 / 2 ^ (f.frac + 1) := by cases f <;> decide
  have h2 : 2 ^ 64 / 2 ^ (f.frac + 1) ≤ ma * 2 ^ 64 / mb :=
    Nat.div_le_div (Nat.le_mul_of_pos_left _ (Nat.pos_of_ne_zero ha)) hlt.le hb
  rw [quotient]
  dsimp only
  omega

theorem FpFmt.div_finite (hmode : mode ≤ 3) (hx : f.finite x) (hy : f.finite y) (h0 : Fp.value (f.unpack y) ≠ 0) :
    f.Rounds mode ((f.unpack x).neg != (f.unpack y).neg) (|Fp.value (f.unpack x)| / |Fp.value (f.unpack y)|) (f.div mode x y) := by
  obtain ⟨s1, m1, e1, -, h1⟩ := hx.exists_fin
  obtain ⟨s2, m2, e2, hlt, h2⟩ := hy.exists_fin
  rw [h2, Ne, Fp.value_eq_zero_iff] at h0
  have hdiv : f.div mode x y = f.round mode (s1 != s2) (quotient m1 e1 m2 e2).1 (quotient m1 e1 m2 e2).2 := by
    rw [FpFmt.div, h1, h2]
    exact if_neg h0
  rw [hdiv, h1, h2, Fp.abs_value_fin, Fp.abs_value_fin]
  have hq := quotient_standsFor h0 (ma := m1) e1 e2
  by_cases hm : m1 = 0
  · subst hm
    have hzero : (quotient 0 e1 m2 e2).1 = 0 := by simp [quotient]
    rw [hq.1 (by rw [hzero])]
    exact FpFmt.round_rounds hmode
  · exact FpFmt.round_standsFor hmode (f.le_quotient hm h0 hlt e1 e2) hq

theorem FpFmt.div_zero (hx : f.finite x) (hy : f.finite y) (h0 : Fp.value (f.unpack y) = 0) :
    (Fp.value (f.unpack x) ≠ 0 →
      f.div mode x y = (f.sign ((f.unpack x).neg != (f.unpack y).neg) f.infBits, FpFlags.divZero)) ∧
    (Fp.value (f.unpack x) = 0 → f.div mode x y = (f.nanBits, FpFlags.invalid)) := by
  obtain ⟨s1, m1, e1, -, h1⟩ := hx.exists_fin
  obtain ⟨s2, m2, e2, -, h2⟩ := hy.exists_fin
  rw [h2, Fp.value_eq_zero_iff] at h0
  have hdiv : f.div mode x y = if m1 = 0 then f.bad else (f.sign (s1 != s2) f.infBits, FpFlags.divZero) := by
    rw [FpFmt.div, h1, h2]
    exact if_pos h0
  rw [hdiv, h1, h2, Fp.value_eq_zero_iff]
  exact ⟨fun h => if_neg (mt (Fp.value_eq_zero_iff ..).mpr h), fun h => if_pos h⟩

/-! ### Square roots (R110) -/

theorem isqrtFrom_spec (n : Nat) : ∀ (k r : Nat), r * r ≤ n → n < (r + 2 ^ k) * (r + 2 ^ k) →
    isqrtFrom n k r * isqrtFrom n k r ≤ n ∧ n < (isqrtFrom n k r + 1) * (isqrtFrom n k r + 1)
  | 0, _, h1, h2 => ⟨h1, h2⟩
  | k + 1, r, h1, h2 => by
    rw [isqrtFrom]
    split_ifs with h
    · exact isqrtFrom_spec n k _ h (by rwa [add_assoc, ← two_mul, ← pow_succ'])
    · exact isqrtFrom_spec n k _ h1 (not_le.mp h)

/-- It is the square root. -/
theorem isqrt_eq (n : Nat) : isqrtFrom n (topBit n / 2 + 1) 0 = Nat.sqrt n := by
  have hn : n < 2 ^ (topBit n / 2 + 1) * 2 ^ (topBit n / 2 + 1) := by
    rw [← pow_add]
    exact Nat.lt_log2_self.trans_le (Nat.pow_le_pow_right two_pos (by rw [topBit]; omega))
  obtain ⟨h1, h2⟩ := isqrtFrom_spec n (topBit n / 2 + 1) 0 (Nat.zero_le n) (by simpa using hn)
  exact Nat.eq_sqrt.mpr ⟨h1, h2⟩

/-- The exponent is halved after it is made even. -/
theorem sqrtDyadic_scale (m : Nat) (e : Int) :
    ∃ n : Nat, m ≤ n ∧ sqrtDyadic m e 40 =
        (2 * Nat.sqrt (n * 2 ^ 80) + (if Nat.sqrt (n * 2 ^ 80) * Nat.sqrt (n * 2 ^ 80) = n * 2 ^ 80 then 0 else 1),
          (sqrtDyadic m e 40).2) ∧
      (m : ℚ) * 2 ^ e = (n * 2 ^ 80 : Nat) * (2 * 2 ^ (sqrtDyadic m e 40).2) ^ 2 := by
  refine ⟨if e % 2 ≠ 0 then 2 * m else m, by split <;> omega, ?_, ?_⟩
  · simp only [sqrtDyadic, isqrt_eq, decide_eq_true_eq]
  · obtain ⟨i, hi⟩ : ∃ i, i = (if e % 2 ≠ 0 then e - 1 else e) / 2 := ⟨_, rfl⟩
    have h2 : (sqrtDyadic m e 40).2 = i - 40 - 1 := by simp [sqrtDyadic, hi]
    have h3 : ((2 : ℚ) * 2 ^ (i - 40 - 1)) ^ 2 = 2 ^ (i + i) / 2 ^ 80 := by
      rw [zpow_sub₀ two_ne_zero, zpow_sub₀ two_ne_zero, zpow_add₀ two_ne_zero]
      field_simp
    rw [h2, h3]
    split at hi
    · rw [if_pos ‹_›, show e = i + i + 1 by omega, zpow_add_one₀ two_ne_zero]
      push_cast
      field_simp
      norm_num
    · rw [if_neg ‹_›, show e = i + i by omega]
      push_cast
      field_simp
      norm_num

theorem sqrtDyadic_spec {m : Nat} (hm : m ≠ 0) (e : Int) :
    2 ^ 41 ≤ (sqrtDyadic m e 40).1 ∧
    ((sqrtDyadic m e 40).1 % 2 = 0 → (((sqrtDyadic m e 40).1 : ℚ) * 2 ^ (sqrtDyadic m e 40).2) ^ 2 = m * 2 ^ e) ∧
    ((sqrtDyadic m e 40).1 % 2 = 1 →
      ((((sqrtDyadic m e 40).1 : ℚ) - 1) * 2 ^ (sqrtDyadic m e 40).2) ^ 2 < m * 2 ^ e ∧
      (m : ℚ) * 2 ^ e < (((sqrtDyadic m e 40).1 + 1) * 2 ^ (sqrtDyadic m e 40).2) ^ 2) := by
  obtain ⟨n, hn, heq, hval⟩ := sqrtDyadic_scale m e
  rw [hval, heq]
  dsimp only
  generalize (sqrtDyadic m e 40).2 = i
  have hbig : 2 ^ 40 ≤ Nat.sqrt (n * 2 ^ 80) := Nat.le_sqrt.mpr (by rw [← pow_add]; exact Nat.le_mul_of_pos_left _ (by omega))
  have hle := Nat.sqrt_le (n * 2 ^ 80)
  have hlt := Nat.lt_succ_sqrt (n * 2 ^ 80)
  generalize n * 2 ^ 80 = N at *
  generalize Nat.sqrt N = r at *
  have hU : (0 : ℚ) < (2 * 2 ^ i) ^ 2 := by positivity
  refine ⟨by omega, fun h => ?_, fun h => ?_⟩
  · have h0 : r * r = N := by by_contra h0; rw [if_neg h0] at h; omega
    rw [← h0, if_pos rfl]
    push_cast
    ring
  · have h0 : r * r ≠ N := fun h0 => by rw [if_pos h0] at h; omega
    have h1 : (r : ℚ) * r < N := by exact_mod_cast lt_of_le_of_ne hle h0
    have h2 : (N : ℚ) < (r + 1) * (r + 1) := by exact_mod_cast hlt
    rw [if_neg h0]
    push_cast
    constructor <;> nlinarith

theorem FpFmt.sqrt_fin {s : Bool} {m : Nat} {e : Int} (h : f.unpack x = .fin s m e) :
    f.sqrt mode x = if m = 0 then (f.sign s 0, 0) else if s then f.bad
      else f.round mode false (sqrtDyadic m e 40).1 (sqrtDyadic m e 40).2 := by
  simp only [FpFmt.sqrt, h, firstNan_eq_none (ops := [.fin s m e]) (by simp [Fp.isNan])]

theorem FpFmt.sqrt_positive (hx : f.finite x) (h : 0 < Fp.value (f.unpack x)) :
    ∃ (m : Nat) (e : Int), f.sqrt mode x = f.round mode false m e ∧ 2 ^ (f.frac + 4) ≤ m ∧
      (m % 2 = 0 → (m * (2 : ℚ) ^ e) ^ 2 = Fp.value (f.unpack x)) ∧
      (m % 2 = 1 → ((m - 1) * (2 : ℚ) ^ e) ^ 2 < Fp.value (f.unpack x) ∧ Fp.value (f.unpack x) < ((m + 1) * (2 : ℚ) ^ e) ^ 2) := by
  obtain ⟨s, m, e, -, hu⟩ := hx.exists_fin
  rw [hu, Fp.value_fin] at h
  have hnn : (0 : ℚ) ≤ m * 2 ^ e := by positivity
  have hm : m ≠ 0 := by rintro rfl; simp at h
  obtain rfl : s = false := by
    by_contra hs
    rw [if_pos (by simpa using hs)] at h
    linarith
  have hv : Fp.value (.fin false m e) = m * 2 ^ e := by simp [Fp.value]
  rw [FpFmt.sqrt_fin hu, if_neg hm, if_neg Bool.false_ne_true, hu, hv]
  obtain ⟨h1, h2⟩ := sqrtDyadic_spec hm e
  have hbits : 2 ^ (f.frac + 4) ≤ 2 ^ 41 := Nat.pow_le_pow_right two_pos (by cases f <;> decide)
  exact ⟨_, _, rfl, hbits.trans h1, h2⟩

theorem FpFmt.sqrt_zero (hx : f.finite x) (h : Fp.value (f.unpack x) = 0) : f.sqrt mode x = (f.sign (f.unpack x).neg 0, 0) := by
  obtain ⟨s, m, e, -, hu⟩ := hx.exists_fin
  rw [hu, Fp.value_eq_zero_iff] at h
  rw [FpFmt.sqrt_fin hu, if_pos h, hu]
  rfl

theorem FpFmt.sqrt_negative (hx : f.finite x) (h : Fp.value (f.unpack x) < 0) : f.sqrt mode x = (f.nanBits, FpFlags.invalid) := by
  obtain ⟨s, m, e, -, hu⟩ := hx.exists_fin
  have hnn : (0 : ℚ) ≤ m * 2 ^ e := by positivity
  rw [hu, Fp.value_fin] at h
  have hm : m ≠ 0 := by rintro rfl; simp at h
  have hs : s = true := by
    by_contra hs
    rw [if_neg hs] at h
    linarith
  rw [FpFmt.sqrt_fin hu, if_neg hm, if_pos hs]
  rfl

end
end
end Sys2Proof.Machine
end

section
/-! ## Family 02: infinities and NaNs -/
namespace Sys2Proof.Machine

section
variable {f : FpFmt} {mode x y z : Nat}

/-! ### Infinities (R36, R38) -/

theorem FpFmt.inf_with_finite {s t : Bool} (hx : f.unpack x = .inf s) (hy : f.finite y) (ht : (f.unpack y).neg = t) :
    f.add mode x y = (f.sign s f.infBits, 0) ∧ f.add mode y x = (f.sign s f.infBits, 0) ∧
    f.sub mode x y = (f.sign s f.infBits, 0) ∧ f.sub mode y x = (f.sign (!s) f.infBits, 0) ∧
    f.div mode x y = (f.sign (s != t) f.infBits, 0) ∧ f.div mode y x = (f.sign (t != s) 0, 0) ∧
    (Fp.value (f.unpack y) ≠ 0 →
      f.mul mode x y = (f.sign (s != t) f.infBits, 0) ∧ f.mul mode y x = (f.sign (t != s) f.infBits, 0)) ∧
    (Fp.value (f.unpack y) = 0 → f.mul mode x y = (f.nanBits, FpFlags.invalid) ∧ f.mul mode y x = (f.nanBits, FpFlags.invalid)) := by
  obtain ⟨s2, m, e, -, hu⟩ := hy.exists_fin
  obtain rfl : s2 = t := by rw [hu] at ht; exact ht
  rw [hu, Ne, Fp.value_eq_zero_iff]
  simp only [FpFmt.add, FpFmt.sub, FpFmt.mul, FpFmt.div, hx, hu]
  refine ⟨rfl, rfl, rfl, rfl, rfl, rfl, fun h => ⟨if_neg ?_, if_neg ?_⟩, fun h => ⟨if_pos ?_, if_pos ?_⟩⟩
  all_goals simp [Fp.isZero, h]

theorem FpFmt.inf_with_inf {s t : Bool} (hx : f.unpack x = .inf s) (hy : f.unpack y = .inf t) :
    f.add mode x y = (if s = t then (f.sign s f.infBits, 0) else (f.nanBits, FpFlags.invalid)) ∧
    f.sub mode x y = (if s = t then (f.nanBits, FpFlags.invalid) else (f.sign s f.infBits, 0)) ∧
    f.mul mode x y = (f.sign (s != t) f.infBits, 0) ∧ f.div mode x y = (f.nanBits, FpFlags.invalid) := by
  simp only [FpFmt.add, FpFmt.sub, FpFmt.mul, FpFmt.div, hx, hy]
  refine ⟨rfl, ?_, rfl, rfl⟩
  cases s <;> cases t <;> rfl

theorem FpFmt.sqrt_inf {s : Bool} (hx : f.unpack x = .inf s) :
    f.sqrt mode x = if s then (f.nanBits, FpFlags.invalid) else (f.infBits, 0) := by
  rw [FpFmt.sqrt, hx]
  rfl

/-! ### NaN operands (R35) -/

/-- The first NaN of the operands is carried into the result. -/
theorem firstNan_getElem {src dst : FpFmt} {s q : Bool} {fr : Nat} : ∀ {ops : List Fp} {i : Nat},
    (∀ a ∈ ops.take i, a.isNan = false) → ops[i]? = some (.nan s fr q) →
    firstNan src dst ops = some (src.carryNan dst s fr, if ops.any Fp.isSnan then FpFlags.invalid else 0) := by
  intro ops i h hi
  have hfind : ops.find? Fp.isNan = some (.nan s fr q) := by
    induction ops generalizing i with
    | nil => simp at hi
    | cons a ops ih =>
      cases i with
      | zero =>
        obtain rfl : a = .nan s fr q := by simpa using hi
        rfl
      | succ i =>
        simp only [List.take_succ_cons, List.forall_mem_cons] at h
        rw [List.find?_cons, h.1]
        exact ih h.2 (by simpa using hi)
  rw [firstNan, hfind]

theorem FpFmt.carryNan_self (hf : f ≠ .e4m3) (s : Bool) (fr : Nat) :
    f.carryNan f s fr = f.sign s (f.infBits + (fr ||| 2 ^ (f.frac - 1))) := by
  simp [FpFmt.carryNan, hf]

theorem Fp.isSnan_of_not_nan {a : Fp} (h : a.isNan = false) : a.isSnan = false := by
  cases a with
  | nan => cases h
  | inf => rfl
  | fin => rfl

@[simp] theorem Fp.isSnan_nan (s q : Bool) (fr : Nat) : (Fp.nan s fr q).isSnan = q := rfl

theorem firstNan_one {a : Fp} {s q : Bool} {fr : Nat} (hf : f ≠ .e4m3) (h : a = .nan s fr q) :
    firstNan f f [a] = some (f.sign s (f.infBits + (fr ||| 2 ^ (f.frac - 1))), if q then FpFlags.invalid else 0) := by
  rw [firstNan_getElem (i := 0) (by simp) (congrArg some h), FpFmt.carryNan_self hf, h]
  simp

theorem firstNan_two {a b : Fp} {s q : Bool} {fr : Nat} (hf : f ≠ .e4m3) :
    (a = .nan s fr q → firstNan f f [a, b] =
      some (f.sign s (f.infBits + (fr ||| 2 ^ (f.frac - 1))), if q || b.isSnan then FpFlags.invalid else 0)) ∧
    (a.isNan = false → b = .nan s fr q → firstNan f f [a, b] =
      some (f.sign s (f.infBits + (fr ||| 2 ^ (f.frac - 1))), if q then FpFlags.invalid else 0)) := by
  refine ⟨fun h => ?_, fun ha h => ?_⟩
  · rw [firstNan_getElem (i := 0) (by simp) (congrArg some h), FpFmt.carryNan_self hf, h]
    simp
  · rw [firstNan_getElem (i := 1) (by simpa using ha) (congrArg some h), FpFmt.carryNan_self hf, h]
    simp [Fp.isSnan_of_not_nan ha]

/-- FSUB meets the NaNs that FADD does: the second operand is inverted where it is not a NaN. -/
theorem firstNan_flip {src dst : FpFmt} (a b : Fp) : firstNan src dst [a, if b.isNan then b else b.flip] = firstNan src dst [a, b] := by
  cases a <;> cases b <;> rfl

theorem FpFmt.sqrt_of_firstNan {r : Nat × FpFlags} (h : firstNan f f [f.unpack x] = some r) : f.sqrt mode x = r := by
  simp only [FpFmt.sqrt, h]

/-- The NaN is the result of each operation. -/
theorem FpFmt.ops_of_firstNan {r : Nat × FpFlags} (h : firstNan f f [f.unpack x, f.unpack y] = some r) :
    ∀ g ∈ [f.add, f.sub, f.mul, f.div], g mode x y = r := by
  have hsub : f.sub mode x y = r := by simp only [FpFmt.sub, addInto, firstNan_flip, h]
  simp only [List.forall_mem_cons, FpFmt.add, addInto, FpFmt.mul, FpFmt.div, h, hsub]
  simp

end
end Sys2Proof.Machine
end

section
/-! ## Family 02: fused and packed operations, minimum and maximum -/
namespace Sys2Proof.Machine

section
variable {f : FpFmt} {mode x y z : Nat}

/-! ### FFMA and an element of HFMA2 (R109, R117) -/

theorem Fp.isNan_of_isInf {a : Fp} (h : a.isInf = true) : a.isNan = false := by
  cases a with
  | nan => cases h
  | inf => rfl
  | fin => rfl

theorem Fp.isNan_of_isZero {a : Fp} (h : a.isZero = true) : a.isNan = false := by
  cases a with
  | nan => cases h
  | inf => rfl
  | fin => rfl

theorem FpFmt.fma_finite (hmode : mode ≤ 3) (hx : f.finite x) (hy : f.finite y) (hz : f.finite z) :
    (Fp.value (f.unpack x) * Fp.value (f.unpack y) + Fp.value (f.unpack z) ≠ 0 →
      f.Rounds mode (decide (Fp.value (f.unpack x) * Fp.value (f.unpack y) + Fp.value (f.unpack z) < 0))
        |Fp.value (f.unpack x) * Fp.value (f.unpack y) + Fp.value (f.unpack z)| (f.fma mode x y z)) ∧
    (Fp.value (f.unpack x) * Fp.value (f.unpack y) + Fp.value (f.unpack z) = 0 →
      f.fma mode x y z = (f.sign (if ((f.unpack x).neg != (f.unpack y).neg) = (f.unpack z).neg then (f.unpack x).neg != (f.unpack y).neg
        else decide (mode = 2)) 0, 0)) := by
  obtain ⟨s1, m1, e1, -, h1⟩ := hx.exists_fin
  obtain ⟨s2, m2, e2, -, h2⟩ := hy.exists_fin
  obtain ⟨s3, m3, e3, -, h3⟩ := hz.exists_fin
  have hval : Fp.value (.fin s1 m1 e1) * Fp.value (.fin s2 m2 e2) = Fp.value (.fin (s1 != s2) (m1 * m2) (e1 + e2)) := by
    simp only [Fp.value_fin, zpow_add₀ (two_ne_zero (α := ℚ))]
    push_cast
    cases s1 <;> cases s2 <;> simp <;> ring
  have hfma : f.fma mode x y z = f.roundSum mode (s1 != s2) s3 (addExact (s1 != s2) (m1 * m2) (e1 + e2) s3 m3 e3) := by
    rw [FpFmt.fma, h1, h2, h3]
    exact if_neg (by simp [Fp.isInf])
  rw [hfma, h1, h2, h3, hval]
  exact FpFmt.roundSum_spec hmode (s1 != s2) s3 (addExact_value ..)

/-- The product of an infinity and a zero. -/
def Fp.badProduct (a b : Fp) : Bool := (a.isInf && b.isZero) || (a.isZero && b.isInf)

theorem Fp.badProduct_iff {a b : Fp} : a.badProduct b = true ↔
    (a.isInf = true ∧ b.isZero = true) ∨ (a.isZero = true ∧ b.isInf = true) := by
  simp [Fp.badProduct]

theorem Fp.badProduct_noNan {a b : Fp} (h : a.badProduct b = true) : a.isNan = false ∧ b.isNan = false := by
  rcases Fp.badProduct_iff.mp h with ⟨ha, hb⟩ | ⟨ha, hb⟩
  · exact ⟨Fp.isNan_of_isInf ha, Fp.isNan_of_isZero hb⟩
  · exact ⟨Fp.isNan_of_isZero ha, Fp.isNan_of_isInf hb⟩

/-- FFMA tests its product first. -/
theorem FpFmt.fma_bad (h : (f.unpack x).badProduct (f.unpack y) = true) : f.fma mode x y z = (f.nanBits, FpFlags.invalid) := by
  obtain ⟨ha, hb⟩ := Fp.badProduct_noNan h
  refine if_pos ?_
  rw [Fp.badProduct, Bool.or_comm] at h
  rw [ha, hb, h]
  rfl

theorem FpFmt.fma_firstNan {r : Nat × FpFlags} (h : (f.unpack x).badProduct (f.unpack y) = false)
    (hr : firstNan f f [f.unpack x, f.unpack y, f.unpack z] = some r) : f.fma mode x y z = r := by
  rw [Fp.badProduct, Bool.or_comm] at h
  simp [FpFmt.fma, fmaInto, h, hr]

/-- The element of HFMA2 lets the NaN win and keeps the invalid of the product. -/
theorem FpFmt.fmaElem_firstNan {n : Nat} {signals : Bool}
    (hr : firstNan f f [f.unpack x, f.unpack y, f.unpack z] = some (n, if signals then FpFlags.invalid else 0)) :
    f.fmaElem mode x y z = (n, if signals || (f.unpack x).badProduct (f.unpack y) then FpFlags.invalid else 0) := by
  have helem : f.fmaElem mode x y z = (n, if (f.unpack x).badProduct (f.unpack y) then
      (if signals then FpFlags.invalid else 0) ||| FpFlags.invalid else if signals then FpFlags.invalid else 0) := by
    rw [FpFmt.fmaElem, hr, Fp.badProduct, Bool.or_comm]
  rw [helem]
  cases signals <;> cases (f.unpack x).badProduct (f.unpack y) <;> rfl

theorem FpFmt.fmaElem_numbers (hx : (f.unpack x).isNan = false) (hy : (f.unpack y).isNan = false) (hz : (f.unpack z).isNan = false) :
    f.fmaElem mode x y z = f.fma mode x y z := by
  rw [FpFmt.fmaElem, firstNan_eq_none (by simp [hx, hy, hz])]

theorem firstNan_three {a b c : Fp} {s q : Bool} {fr : Nat} (hf : f ≠ .e4m3)
    (h : a = .nan s fr q ∨ (a.isNan = false ∧ b = .nan s fr q) ∨ (a.isNan = false ∧ b.isNan = false ∧ c = .nan s fr q)) :
    firstNan f f [a, b, c] = some (f.sign s (f.infBits + (fr ||| 2 ^ (f.frac - 1))),
      if a.isSnan || b.isSnan || c.isSnan then FpFlags.invalid else 0) := by
  have hany : [a, b, c].any Fp.isSnan = (a.isSnan || b.isSnan || c.isSnan) := by simp [Bool.or_assoc]
  rw [← hany, ← FpFmt.carryNan_self hf]
  rcases h with ha | ⟨ha, hb⟩ | ⟨ha, hb, hc⟩
  · exact firstNan_getElem (q := q) (i := 0) (by simp) (by simp [ha])
  · exact firstNan_getElem (q := q) (i := 1) (by simp [ha]) (by simp [hb])
  · exact firstNan_getElem (q := q) (i := 2) (by simp [ha, hb]) (by simp [hc])

/-! ### HDOT2 (R118) -/

theorem elemOf_zero (a : Word) : elemOf a 0 = a.toNat % 65536 := by simp [elemOf]

theorem elemOf_one (a : Word) : elemOf a 1 = a.toNat / 65536 := by
  have := a.isLt
  rw [elemOf, show 2 ^ (16 * 1) = 65536 from rfl, Nat.mod_eq_of_lt (by omega)]

/-- The four elements in the order in which their NaNs are looked for. -/
def dotElems (f : FpFmt) (a b : Word) : List Fp :=
  [a.toNat % 65536, b.toNat % 65536, a.toNat / 65536, b.toNat / 65536].map f.unpack

section
variable {a b c : Word}

/-- A NaN of a 16-bit type in FP32, and one of FP32 itself. -/
theorem carryNan_fp32 (hf : f = .fp16 ∨ f = .bf16 ∨ f = .fp32) (s : Bool) (fr : Nat) :
    f.carryNan .fp32 s fr = FpFmt.fp32.sign s (0x7F800000 + (fr * 2 ^ (23 - f.frac) ||| 0x400000)) := by
  rcases hf with rfl | rfl | rfl <;> rfl

/-- The first NaN of the elements is the result. -/
theorem hdot2_elem_nan {i : Nat} {s q : Bool} {fr : Nat} (hf : f = .fp16 ∨ f = .bf16)
    (h : ∀ v ∈ (dotElems f a b).take i, v.isNan = false) (hi : (dotElems f a b)[i]? = some (.nan s fr q)) :
    (hdot2 f mode a b c).1 = FpFmt.fp32.sign s (0x7F800000 + (fr * 2 ^ (23 - f.frac) ||| 0x400000)) := by
  have h1 := firstNan_getElem (src := f) (dst := .fp32) h hi
  rw [dotElems] at h1
  simp only [hdot2, elemOf_zero, elemOf_one, h1]
  exact carryNan_fp32 (hf.imp_right .inl) s fr

/-- Without one, c's NaN is. -/
theorem hdot2_sum_nan {s q : Bool} {fr : Nat} (he : ∀ v ∈ dotElems f a b, v.isNan = false)
    (hc : FpFmt.fp32.unpack c.toNat = .nan s fr q) :
    (hdot2 f mode a b c).1 = FpFmt.fp32.sign s (0x7F800000 + (fr ||| 0x400000)) := by
  have h1 := firstNan_eq_none (src := f) (dst := .fp32) he
  have h2 := firstNan_one (f := .fp32) (by decide) hc
  rw [dotElems] at h1
  simp only [hdot2, elemOf_zero, elemOf_one, h1, h2]
  rfl

theorem firstNan_isSome {src dst : FpFmt} {ops : List Fp} (h : ops.any Fp.isSnan = true) : ∃ r, firstNan src dst ops = some r := by
  obtain ⟨v, hv, hs⟩ := List.any_eq_true.mp h
  cases hfind : ops.find? Fp.isNan with
  | none =>
    cases v with
    | nan => exact absurd rfl (List.find?_eq_none.mp hfind _ hv)
    | inf => cases hs
    | fin => cases hs
  | some w =>
    have hw := List.find?_some hfind
    cases w with
    | nan => exact ⟨_, by rw [firstNan, hfind]⟩
    | inf => cases hw
    | fin => cases hw

/-- A signalling NaN among the five raises invalid. -/
theorem hdot2_signals (h : (dotElems f a b).any Fp.isSnan = true ∨ (FpFmt.fp32.unpack c.toNat).isSnan = true) :
    (hdot2 f mode a b c).2.getLsbD 0 = true := by
  have hbad : ((dotElems f a b).any Fp.isSnan || (FpFmt.fp32.unpack c.toNat).isSnan) = true := by simpa using h
  rw [dotElems] at hbad
  cases h1 : firstNan f .fp32 (dotElems f a b) with
  | some r =>
    rw [dotElems] at h1
    simp only [hdot2, elemOf_zero, elemOf_one, h1, hbad, if_true]
    rfl
  | none =>
    have hc : (FpFmt.fp32.unpack c.toNat).isSnan = true := h.resolve_left fun he => by
      obtain ⟨r, hr⟩ := firstNan_isSome (src := f) (dst := .fp32) he
      rw [h1] at hr
      cases hr
    obtain ⟨r, hr⟩ := firstNan_isSome (src := .fp32) (dst := .fp32) (ops := [FpFmt.fp32.unpack c.toNat]) (by simpa using hc)
    rw [dotElems] at h1
    simp only [hdot2, elemOf_zero, elemOf_one, h1, hr, hbad, if_true]
    rfl

theorem hdot2_numbers (he : ∀ v ∈ dotElems f a b, v.isNan = false) (hc : (FpFmt.fp32.unpack c.toNat).isNan = false) :
    hdot2 f mode a b c =
      (let wide := fun (x : Nat) => (f.convert .fp32 mode x).1
      let p0 := FpFmt.fp32.mul mode (wide (a.toNat % 65536)) (wide (b.toNat % 65536))
      let p1 := FpFmt.fp32.mul mode (wide (a.toNat / 65536)) (wide (b.toNat / 65536))
      let t := FpFmt.fp32.add mode c.toNat p0.1
      let r := FpFmt.fp32.add mode t.1 p1.1
      (r.1, p0.2 ||| p1.2 ||| t.2 ||| r.2)) := by
  have h1 := firstNan_eq_none (src := f) (dst := .fp32) he
  have h2 := firstNan_eq_none (src := .fp32) (dst := .fp32) (ops := [FpFmt.fp32.unpack c.toNat]) (by simpa using hc)
  rw [dotElems] at h1
  simp only [hdot2, elemOf_zero, elemOf_one, h1, h2]

end

/-! ### FMIN and FMAX (R111) -/

theorem FpFmt.minMax_nan {x y : Nat} (b : Bool) (hy : y < 2 ^ f.width) (hx : (f.unpack x).isNan = true) (hn : (f.unpack y).isNan = false) :
    f.minMax b x y = (y, if (f.unpack x).isSnan then FpFlags.invalid else 0) ∧
      f.minMax b y x = (y, if (f.unpack x).isSnan then FpFlags.invalid else 0) := by
  simp [FpFmt.minMax, hx, hn, Fp.isSnan_of_not_nan hn, Nat.mod_eq_of_lt hy]

/-- Of two numbers FMIN takes the lower by the order of R111 and FMAX the other one. -/
theorem FpFmt.minMax_numbers {x y : Nat} (hx : x < 2 ^ f.width) (hy : y < 2 ^ f.width) (hnx : (f.unpack x).isNan = false)
    (hny : (f.unpack y).isNan = false) :
    f.minMax false x y = (if f.orderKey x ≤ f.orderKey y then x else y, 0) ∧
      f.minMax true x y = (if f.orderKey x ≤ f.orderKey y then y else x, 0) := by
  by_cases h : f.orderKey x ≤ f.orderKey y <;>
    simp [FpFmt.minMax, hnx, hny, Fp.isSnan_of_not_nan hnx, Fp.isSnan_of_not_nan hny, Nat.mod_eq_of_lt hx, Nat.mod_eq_of_lt hy, h]

theorem FpFmt.orderKey_eq (f : FpFmt) (x : Nat) : f.orderKey x =
    if decide (x / f.signBit % 2 = 1) = true then -((x % f.signBit : Nat) : Int) - 1 else ((x % f.signBit : Nat) : Int) := by
  simp [FpFmt.orderKey]

theorem FpFmt.orderKey_sign {k : Nat} (h : k < f.signBit) (s : Bool) : f.orderKey (f.sign s k) = if s then -(k : Int) - 1 else k := by
  rw [FpFmt.orderKey_eq, FpFmt.sign_div h, FpFmt.sign_mod h]

/-- The order of the keys is that of the values, −0 below +0. -/
theorem FpFmt.value_le_of_orderKey_le {x y : Nat} (hx : f.finite x) (hy : f.finite y) (h : f.orderKey x ≤ f.orderKey y) :
    Fp.value (f.unpack x) ≤ Fp.value (f.unpack y) ∧ ((f.unpack y).neg = true → (f.unpack x).neg = true) := by
  obtain ⟨s, k, hk, rfl⟩ := hx.exists_sign
  obtain ⟨t, j, hj, rfl⟩ := hy.exists_sign
  rw [FpFmt.orderKey_sign (hk.trans f.infBits_lt_signBit), FpFmt.orderKey_sign (hj.trans f.infBits_lt_signBit)] at h
  rw [FpFmt.value_sign hk, FpFmt.value_sign hj, FpFmt.neg_unpack_sign hk, FpFmt.neg_unpack_sign hj]
  have h1 := f.grid_nonneg k
  have h2 := f.grid_nonneg j
  cases s <;> cases t <;> simp only [if_true, if_false, Bool.false_eq_true] at h ⊢
  · have := f.grid_strictMono.monotone (show k ≤ j by omega)
    exact ⟨by linarith, id⟩
  · omega
  · exact ⟨by linarith, fun _ => trivial⟩
  · have := f.grid_strictMono.monotone (show j ≤ k by omega)
    exact ⟨by linarith, id⟩

theorem FpFmt.minMax_finite {x y : Nat} (hx : f.finite x) (hy : f.finite y) :
    (f.minMax false x y).2 = 0 ∧ (f.minMax true x y).2 = 0 ∧
    (((f.minMax false x y).1 = x ∧ (f.minMax true x y).1 = y) ∨ ((f.minMax false x y).1 = y ∧ (f.minMax true x y).1 = x)) ∧
    Fp.value (f.unpack (f.minMax false x y).1) ≤ Fp.value (f.unpack (f.minMax true x y).1) ∧
    (Fp.value (f.unpack (f.minMax false x y).1) = Fp.value (f.unpack (f.minMax true x y).1) →
      (f.unpack (f.minMax true x y).1).neg = true → (f.unpack (f.minMax false x y).1).neg = true) := by
  obtain ⟨h1, h2⟩ := FpFmt.minMax_numbers hx.1 hy.1 hx.2.1 hy.2.1
  rw [h1, h2]
  rcases le_or_gt (f.orderKey x) (f.orderKey y) with h | h
  · rw [if_pos h, if_pos h]
    obtain ⟨hv, hn⟩ := FpFmt.value_le_of_orderKey_le hx hy h
    exact ⟨rfl, rfl, .inl ⟨rfl, rfl⟩, hv, fun _ => hn⟩
  · rw [if_neg (not_le.mpr h), if_neg (not_le.mpr h)]
    obtain ⟨hv, hn⟩ := FpFmt.value_le_of_orderKey_le hy hx h.le
    exact ⟨rfl, rfl, .inr ⟨rfl, rfl⟩, hv, fun _ => hn⟩

theorem FpFmt.orderKey_inj {x y : Nat} (hx : x < 2 ^ f.width) (hy : y < 2 ^ f.width) (h : f.orderKey x = f.orderKey y) : x = y := by
  have h1 := Nat.mod_lt x f.signBit_pos
  have h2 := Nat.mod_lt y f.signBit_pos
  rw [← FpFmt.sign_div_mod hx, ← FpFmt.sign_div_mod hy] at h ⊢
  rw [FpFmt.orderKey_sign h1, FpFmt.orderKey_sign h2] at h
  generalize decide (x / f.signBit % 2 = 1) = s at h ⊢
  generalize decide (y / f.signBit % 2 = 1) = t at h ⊢
  have hst : s = t ∧ x % f.signBit = y % f.signBit := by
    cases s <;> cases t <;> simp only [if_true, if_false, Bool.false_eq_true] at h <;> simp <;> omega
  rw [hst.1, hst.2]

theorem FpFmt.mag_of_inf {x : Nat} {s : Bool} (h : f.unpack x = .inf s) :
    x % f.signBit = f.infBits ∧ decide (x / f.signBit % 2 = 1) = s := by
  rcases lt_or_ge (x % f.signBit) f.infBits with hlt | hge
  · obtain ⟨t, q, hd, hk⟩ := f.exists_digits (x % f.signBit)
    rw [FpFmt.unpack_digits hd hk (hk ▸ hlt)] at h
    cases h
  · rcases FpFmt.unpack_of_infBits_le hge with hn | ⟨hm, hu⟩
    · rw [h] at hn
      cases hn
    · rw [hu] at h
      exact ⟨hm, Fp.inf.inj h⟩

theorem FpFmt.mag_le_of_not_nan {y : Nat} (h : (f.unpack y).isNan = false) : y % f.signBit ≤ f.infBits := by
  rcases lt_or_ge (y % f.signBit) f.infBits with hlt | hge
  · exact hlt.le
  · rcases FpFmt.unpack_of_infBits_le hge with hn | ⟨hm, -⟩
    · rw [h] at hn
      cases hn
    · exact hm.le

/-- The infinities bound the order of the numbers. -/
theorem FpFmt.orderKey_inf {x y : Nat} {s : Bool} (hx : f.unpack x = .inf s) (hy : (f.unpack y).isNan = false) :
    if s then f.orderKey x ≤ f.orderKey y else f.orderKey y ≤ f.orderKey x := by
  obtain ⟨hm, rfl⟩ := FpFmt.mag_of_inf hx
  have hy := FpFmt.mag_le_of_not_nan hy
  rw [FpFmt.orderKey_eq, FpFmt.orderKey_eq, hm]
  generalize decide (x / f.signBit % 2 = 1) = s
  cases s <;> split_ifs <;> omega

theorem FpFmt.minMax_inf {x y : Nat} (hx : x < 2 ^ f.width) (hy : y < 2 ^ f.width) (hn : (f.unpack y).isNan = false) :
    (f.unpack x = .inf true →
      f.minMax false x y = (x, 0) ∧ f.minMax false y x = (x, 0) ∧ f.minMax true x y = (y, 0) ∧ f.minMax true y x = (y, 0)) ∧
    (f.unpack x = .inf false →
      f.minMax false x y = (y, 0) ∧ f.minMax false y x = (y, 0) ∧ f.minMax true x y = (x, 0) ∧ f.minMax true y x = (x, 0)) := by
  have key : ∀ s, f.unpack x = .inf s → (f.unpack x).isNan = false := fun s h => by rw [h]; rfl
  refine ⟨fun h => ?_, fun h => ?_⟩
  · have hle : f.orderKey x ≤ f.orderKey y := FpFmt.orderKey_inf h hn
    obtain ⟨h1, h2⟩ := FpFmt.minMax_numbers hx hy (key _ h) hn
    obtain ⟨h3, h4⟩ := FpFmt.minMax_numbers hy hx hn (key _ h)
    rw [h1, h2, h3, h4, if_pos hle, if_pos hle]
    refine ⟨rfl, ?_, rfl, ?_⟩
    all_goals
      split_ifs with hge
      · rw [FpFmt.orderKey_inj hx hy (le_antisymm hle hge)]
      · rfl
  · have hle : f.orderKey y ≤ f.orderKey x := FpFmt.orderKey_inf h hn
    obtain ⟨h1, h2⟩ := FpFmt.minMax_numbers hx hy (key _ h) hn
    obtain ⟨h3, h4⟩ := FpFmt.minMax_numbers hy hx hn (key _ h)
    rw [h1, h2, h3, h4, if_pos hle, if_pos hle]
    refine ⟨?_, rfl, ?_, rfl⟩
    all_goals
      split_ifs with hge
      · rw [FpFmt.orderKey_inj hx hy (le_antisymm hge hle)]
      · rfl

end
end Sys2Proof.Machine
end

section
/-! ## Family 02: every rounding is tight -/
namespace Sys2Proof.Machine

section
variable {f : FpFmt} {mode : Nat}

/-- Of two values of one sign the distance is that of the magnitudes; of others it is no less. -/
theorem Fp.abs_value_sub {u v : Fp} (h : u.neg = v.neg) (w : Fp) :
    |Fp.value u - Fp.value v| = |(|Fp.value v| - |Fp.value u|)| ∧ |(|Fp.value v| - |Fp.value w|)| ≤ |Fp.value w - Fp.value v| := by
  constructor
  · rw [Fp.value_eq_abs u, Fp.value_eq_abs v, h, ← mul_sub, abs_mul, abs_mul, abs_mul, abs_abs, abs_abs]
    cases v.neg <;> simp [abs_sub_comm]
  · rw [abs_sub_comm (Fp.value w)]
    exact abs_abs_sub_abs_le _ _

/-- What `FpFmt.Rounds` says of a rounding that does not overflow, on signed values. -/
theorem FpFmt.Rounds.tight {s : Bool} {m : Nat} {e : Int} {r : Nat × FpFlags} (hr : f.Rounds mode s (m * (2 : ℚ) ^ e) r)
    (h : r.2 &&& FpFlags.overflow = 0) :
    ((r.2 &&& FpFlags.inexact = 0) ↔ Fp.value (f.unpack r.1) = Fp.value (.fin s m e)) ∧
    (mode = 0 → ∀ y, y < 2 ^ f.width → (f.unpack y).isNan = false → (f.unpack y).isInf = false →
      |Fp.value (f.unpack r.1) - Fp.value (.fin s m e)| ≤ |Fp.value (f.unpack y) - Fp.value (.fin s m e)|) ∧
    (mode = 1 → |Fp.value (f.unpack r.1)| ≤ |Fp.value (.fin s m e)|) ∧
    (mode = 2 → Fp.value (f.unpack r.1) ≤ Fp.value (.fin s m e)) ∧
    (mode = 3 → Fp.value (.fin s m e) ≤ Fp.value (f.unpack r.1)) := by
  rw [← Fp.abs_value_fin s] at hr
  simp only [FpFmt.Rounds] at hr
  obtain ⟨hover, hr⟩ := hr
  obtain ⟨-, hneg, hnear, hup, hdown, hexact, hunder, hinexact⟩ := hr fun ho => by
    rw [(hover ho).1] at h
    exact absurd h (by decide)
  have hsign : (f.unpack r.1).neg = (Fp.fin s m e).neg := hneg
  have hvr := Fp.value_eq_abs (f.unpack r.1)
  have hv := Fp.value_eq_abs (.fin s m e)
  rw [hneg] at hvr
  have heq : Fp.value (f.unpack r.1) = Fp.value (.fin s m e) ↔ |Fp.value (f.unpack r.1)| = |Fp.value (.fin s m e)| := by
    refine ⟨fun h => by rw [h], fun h => ?_⟩
    rw [hvr, hv, h]
    rfl
  refine ⟨?_, ?_, ?_, ?_, ?_⟩
  · rw [heq]
    refine ⟨fun hi => by_contra fun hne => ?_, fun he => by rw [hexact he]; rfl⟩
    have hflags : r.2 = FpFlags.inexact ||| FpFlags.underflow ∨ r.2 = FpFlags.inexact :=
      (Classical.em _).imp (hunder hne) (hinexact hne)
    rcases hflags with h | h
    all_goals
      rw [h] at hi
      exact absurd hi (by decide)
  · rintro rfl y hy hn hi
    obtain ⟨h1, h2⟩ := Fp.abs_value_sub hsign (f.unpack y)
    exact h1.trans_le (((hnear rfl y ⟨hy, hn, hi⟩).1).trans h2)
  · rintro rfl
    exact (hdown (by decide) (by simp)).1
  · rintro rfl
    rw [hvr, hv]
    cases s
    · simpa [Fp.neg] using (hdown (by decide) (by simp)).1
    · simpa [Fp.neg] using (hup (by decide) (by simp)).1
  · rintro rfl
    rw [hvr, hv]
    cases s
    · simpa [Fp.neg] using (hup (by decide) (by simp)).1
    · simpa [Fp.neg] using (hdown (by decide) (by simp)).1

end

/-- Settles O7: every rounding is that of the exact magnitude on the format's grid (`FpFmt.round_eq_deliver`), which is tight
(`FpFmt.deliver_rounds`); a quotient's or root's sticky bit does not change it (`FpFmt.round_standsFor`). -/
theorem roundingIsTight : Obligations.RoundingIsTight := by
  unfold Obligations.RoundingIsTight
  refine ⟨⟨fun f mode x h1 h2 h3 => FpFmt.convert_self ⟨h1, h2, h3⟩, fun f mode x h1 h2 h3 => ?_⟩,
    ?_, ?_, ?_, ?_, ?_, ?_, ?_, ?_, ?_⟩
  · obtain ⟨k, hk, hc, hg⟩ := FpFmt.convert_fp32 (mode := mode) (show f.finite x from ⟨h1, h2, h3⟩)
    rw [hc, FpFmt.value_sign hk, FpFmt.neg_unpack_sign hk, hg]
    exact ⟨rfl, FpFmt.sign_lt (hk.trans FpFmt.fp32.infBits_lt_signBit) _, (Fp.value_eq_abs _).symm, rfl⟩
  · exact fun f s m e mode hmode _ h => (FpFmt.round_rounds hmode).tight h
  · exact fun f s m e mode hmode => FpFmt.round_rounds hmode
  · intro f mode x y hmode hx hy
    exact ⟨(FpFmt.add_finite hmode hx hy).1, (FpFmt.add_finite hmode hx hy).2, (FpFmt.sub_finite hmode hx hy).1,
      (FpFmt.sub_finite hmode hx hy).2, FpFmt.mul_finite hmode hx hy, FpFmt.div_finite hmode hx hy,
      fun hb => (FpFmt.div_zero hx hy hb).1, fun hb => (FpFmt.div_zero hx hy hb).2, FpFmt.sqrt_positive hx, FpFmt.sqrt_zero hx,
      FpFmt.sqrt_negative hx⟩
  · exact fun f mode x y s t hx => ⟨FpFmt.inf_with_finite hx, FpFmt.inf_with_inf hx, FpFmt.sqrt_inf hx⟩
  · intro f mode x y s q fr hf
    exact ⟨fun hx => ⟨FpFmt.ops_of_firstNan ((firstNan_two hf).1 hx), FpFmt.sqrt_of_firstNan (firstNan_one hf hx)⟩,
      fun hx hy => FpFmt.ops_of_firstNan ((firstNan_two hf).2 hx hy)⟩
  · intro f mode x y z hmode
    exact ⟨fun hx hy hz => FpFmt.fma_finite hmode hx hy hz, fun h => FpFmt.fma_bad (Fp.badProduct_iff.mpr h),
      FpFmt.fmaElem_numbers⟩
  · intro f mode x y z s q fr hf
    exact fun hnan => ⟨fun hbad => FpFmt.fma_firstNan hbad (firstNan_three hf hnan), FpFmt.fmaElem_firstNan (firstNan_three hf hnan)⟩
  · intro f mode a b c hf
    refine ⟨fun he hc => hdot2_numbers (List.forall_mem_map.mpr he) hc, fun i s q fr _ h hi => hdot2_elem_nan (i := i) (q := q) hf ?_ ?_,
      fun s q fr he hc => hdot2_sum_nan (List.forall_mem_map.mpr he) hc, fun h => hdot2_signals (h.imp_left fun he => ?_)⟩
    · rw [dotElems, ← List.map_take]
      exact List.forall_mem_map.mpr h
    · rw [dotElems, List.getElem?_map]
      exact hi
    · rw [dotElems, List.any_map]
      exact List.any_eq_true.mpr he
  · intro f x y
    refine ⟨FpFmt.minMax_finite, fun hx hy hn => ⟨fun h => ?_, fun h => ?_, fun h b => FpFmt.minMax_nan b hy h hn⟩⟩
    · obtain ⟨h1, h2, h3, h4⟩ := (FpFmt.minMax_inf hx hy hn).1 h
      exact ⟨h1, h2, h3, h4⟩
    · obtain ⟨h1, h2, h3, h4⟩ := (FpFmt.minMax_inf hx hy hn).2 h
      exact ⟨h1, h2, h3, h4⟩

end Sys2Proof.Machine
end

section
/-! ## Family 03: the fields of an instruction word -/
namespace Sys2Proof

/-! ### Fields of a word made of parts

Stated for `BitVec.append`: the encoder's words have the literal width 32, under which `simp` finds no lemma about `x ++ y`. -/

theorem extract_above {u v i n : Nat} (x : BitVec u) (y : BitVec v) (h : v ≤ i) :
    (BitVec.append x y).extractLsb' i n = x.extractLsb' (i - v) n := BitVec.extractLsb'_append_eq_of_le h

theorem extract_below {u v i n : Nat} (x : BitVec u) (y : BitVec v) (h : i + n ≤ v) :
    (BitVec.append x y).extractLsb' i n = y.extractLsb' i n := BitVec.extractLsb'_append_eq_of_add_le h

theorem bit1_beq_one (b : Bool) : (bit1 b == 1#1) = b := by cases b <;> rfl

/-! ### The word of a `Prefix` (R60) -/

/-- The fields of the word of a `Prefix` are its own. -/
@[simp] theorem Prefix.ofWord_word (p : Prefix) : Prefix.ofWord p.word = p := by
  simp [Prefix.ofWord, Prefix.word, HAppend.hAppend, extract_above, extract_below, bit1_beq_one, -BitVec.append_eq]

@[simp] theorem Prefix.opcode_word (p : Prefix) : opcode p.word = 0xDF := by
  simp [opcode, Prefix.word, HAppend.hAppend, extract_above, -BitVec.append_eq]

@[simp] theorem Prefix.word_low (p : Prefix) : p.word.extractLsb' 0 3 = 0 := by
  simp [Prefix.word, HAppend.hAppend, extract_below, -BitVec.append_eq]

end Sys2Proof
end

section
/-! ## Family 03: what the decoder makes of encoded words -/
namespace Sys2Proof

/-! ### Finding the words (R52, R70) -/

/-- The words of an instruction with `pf` before it. -/
def Words.of (pf : Option Prefix) (w x : Word) : Words := { pw := pf.map Prefix.word, w := w, x := x }

@[simp] theorem Words.pf_of (pf : Option Prefix) (w x : Word) : (Words.of pf w x).pf = pf := by
  cases pf <;> simp [Words.of, Words.pf]

@[simp] theorem Words.w_of (pf : Option Prefix) (w x : Word) : (Words.of pf w x).w = w := rfl
@[simp] theorem Words.x_of (pf : Option Prefix) (w x : Word) : (Words.of pf w x).x = x := rfl

/-- Decoding gives the instruction back, whatever words follow. -/
def Decodes (i : Instr) : Prop := ∀ r : List Word, decode (encode i ++ r) = .done i (encode i).length

/-- The opcode is of an instruction of one word besides its `Prefix`. -/
def shortOp (n : Nat) : Bool := n != 0xDF && !hasSecond n

theorem decodes_short {i : Instr} {pf : Option Prefix} {w : Word} (he : encode i = prefixWords pf ++ [w])
    (hop : shortOp (opcode w) = true) (hb : decodeBody (.of pf w 0) = i) : Decodes i := by
  obtain ⟨hprefix, hone⟩ : opcode w ≠ 0xDF ∧ hasSecond (opcode w) = false := by simpa [shortOp] using hop
  intro r
  rw [he]
  cases pf with
  | none => simpa [Words.of, prefixWords, decode, hprefix, hone] using hb
  | some p => simpa [Words.of, prefixWords, decode, hone] using hb

theorem decodes_long {i : Instr} {pf : Option Prefix} {w x : Word} (he : encode i = prefixWords pf ++ [w, x])
    (hop : hasSecond (opcode w) = true) (hb : decodeBody (.of pf w x) = i) : Decodes i := by
  have hprefix : opcode w ≠ 0xDF := fun e => absurd hop (by rw [e]; decide)
  intro r
  rw [he]
  cases pf with
  | none => simpa [Words.of, prefixWords, decode, hprefix, hop] using hb
  | some p => simpa [Words.of, prefixWords, decode, hop] using hb

/-! ### The opcode (R66) -/

/-- The instruction of complete words by their opcode, kept apart from the word so that it can be a literal. -/
def bodyAt (q : Words) (op : Nat) : Instr :=
  match op / 16 with
  | 0x0 => decode0 q op
  | 0x1 => decode1 q op
  | 0x2 => decode2 q op
  | 0x3 => decode3 q op
  | 0x4 => decode4 q op
  | 0x5 => decode5 q op
  | 0x7 => decode7 q op
  | 0x8 => decode8 q op
  | 0x9 => decode9 q op
  | 0xA => decodeA q op
  | 0xB => decodeB q op
  | 0xC => decodeC q op
  | 0xD => if op == 0xDF then .nonInstruction .none 0x04 (subOf 1 24) q.len else decodeD q op
  | 0xE => decodeW20 q 0xE
  | 0xF => decodeW20 q 0xF
  | _ => q.unassigned

theorem decodeBody_eq_bodyAt {q : Words} {n : Nat} (h : opcode q.w = n) : decodeBody q = bodyAt q n := by
  subst h
  rfl

/-! ### The checks of R70 -/

/-- The checks of fields and values pass. -/
def Clean (chks : List (Nat × Nat × Bool)) : Prop := ∀ c ∈ chks, c.2.2 = false

theorem Clean.find {chks : List (Nat × Nat × Bool)} (h : Clean chks) : chks.find? (fun c => c.2.2) = none :=
  List.find?_eq_none.mpr (fun c hc => by simp [h c hc])

theorem fin_plain {w x : Word} {pr : Priv} {chks : List (Nat × Nat × Bool)} {g : Option Groups} {once : Bool} (i : Instr)
    (h : Clean chks) : fin (.of none w x) pr chks g once i = i := by
  simp [fin, Words.of, h.find]

theorem fin_accepted {pf : Option Prefix} {w x : Word} {pr : Priv} {chks : List (Nat × Nat × Bool)} {g : Groups} {once : Bool}
    (i : Instr) (h : Clean chks) (hp : prefixOk g once pf = true) : fin (.of pf w x) pr chks (some g) once i = i := by
  cases pf with
  | none => exact fin_plain i h
  | some p =>
    have hbad : prefixBad g once p = none := by simpa [prefixOk] using hp
    simp [fin, Words.of, h.find, hbad]

@[simp] theorem clean_nil : Clean [] := nofun

@[simp] theorem clean_cons (k l : Nat) (b : Bool) (chks : List (Nat × Nat × Bool)) :
    Clean ((k, l, b) :: chks) ↔ b = false ∧ Clean chks := List.forall_mem_cons

/-! ### From the words to the instruction -/

section
variable {i : Instr} {pf : Option Prefix} {w x : Word} {o : BitVec 8}

theorem opcode_eq (ho : w.extractLsb' 24 8 = o) : opcode w = o.toNat := by rw [opcode, ho]

theorem decodes_one (he : encode i = prefixWords pf ++ [w]) (ho : w.extractLsb' 24 8 = o) (hop : shortOp o.toNat = true)
    (hb : bodyAt (.of pf w 0) o.toNat = i) : Decodes i :=
  decodes_short he (opcode_eq ho ▸ hop) ((decodeBody_eq_bodyAt (q := .of pf w 0) (opcode_eq ho)).trans hb)

theorem decodes_two (he : encode i = prefixWords pf ++ [w, x]) (ho : w.extractLsb' 24 8 = o) (hop : hasSecond o.toNat = true)
    (hb : bodyAt (.of pf w x) o.toNat = i) : Decodes i :=
  decodes_long he (opcode_eq ho ▸ hop) ((decodeBody_eq_bodyAt (q := .of pf w x) (opcode_eq ho)).trans hb)

end

end Sys2Proof
end

section
/-! ## Family 03: decoding the instructions that take a `Prefix` -/
namespace Sys2Proof

/-! ### The encodings with a `Prefix` (R56 to R63)

In each lemma `mk` is the instruction's constructor, `once` says from `pf` and the codes that it executes once per warp, and `hb`
is the decoder's entry for its opcode `o`. -/

section
variable {pf : Option Prefix} {g : Groups} {o : BitVec 8} {d a : Code}

/-- Three codes. -/
theorem decodes_regs {mk : Option Prefix → Code → Code → Code → Instr} {b : Code}
    {once : Option Prefix → Code → Code → Code → Bool}
    (h : wellFormed (mk pf d a b) = true) (hw : wellFormed (mk pf d a b) = prefixOk g (once pf d a b) pf)
    (he : encode (mk pf d a b) = prefixWords pf ++ [o ++ d ++ a ++ b]) (hop : shortOp o.toNat = true)
    (hb : ∀ q : Words, bodyAt q o.toNat = fin q .none [] (some g)
      (once q.pf (q.w.extractLsb' 16 8) (q.w.extractLsb' 8 8) (q.w.extractLsb' 0 8))
      (mk q.pf (q.w.extractLsb' 16 8) (q.w.extractLsb' 8 8) (q.w.extractLsb' 0 8))) : Decodes (mk pf d a b) := by
  refine decodes_one he (by simp [HAppend.hAppend, extract_above, -BitVec.append_eq]) hop ((hb _).trans ?_)
  simp [HAppend.hAppend, extract_above, extract_below, -BitVec.append_eq, fin_accepted, ← hw, h]

/-- Two codes; bits [7:0] are reserved. -/
theorem decodes_twoRegs {mk : Option Prefix → Code → Code → Instr} {once : Option Prefix → Code → Code → Bool}
    (h : wellFormed (mk pf d a) = true) (hw : wellFormed (mk pf d a) = prefixOk g (once pf d a) pf)
    (he : encode (mk pf d a) = prefixWords pf ++ [o ++ d ++ a ++ 0#8]) (hop : shortOp o.toNat = true)
    (hb : ∀ q : Words, bodyAt q o.toNat = fin q .none [(0, 0, q.w.extractLsb' 0 8 != 0)] (some g)
      (once q.pf (q.w.extractLsb' 16 8) (q.w.extractLsb' 8 8))
      (mk q.pf (q.w.extractLsb' 16 8) (q.w.extractLsb' 8 8))) : Decodes (mk pf d a) := by
  refine decodes_one he (by simp [HAppend.hAppend, extract_above, -BitVec.append_eq]) hop ((hb _).trans ?_)
  simp [HAppend.hAppend, extract_above, extract_below, -BitVec.append_eq, fin_accepted, ← hw, h]

/-- Two codes and a literal; bits [7:0] are reserved. -/
theorem decodes_literal {mk : Option Prefix → Code → Code → Word → Instr} {lit : Word}
    {once : Option Prefix → Code → Code → Bool}
    (h : wellFormed (mk pf d a lit) = true) (hw : wellFormed (mk pf d a lit) = prefixOk g (once pf d a) pf)
    (he : encode (mk pf d a lit) = prefixWords pf ++ [o ++ d ++ a ++ 0#8, lit]) (hop : hasSecond o.toNat = true)
    (hb : ∀ q : Words, bodyAt q o.toNat = fin q .none [(0, 0, q.w.extractLsb' 0 8 != 0)] (some g)
      (once q.pf (q.w.extractLsb' 16 8) (q.w.extractLsb' 8 8))
      (mk q.pf (q.w.extractLsb' 16 8) (q.w.extractLsb' 8 8) (q.x.extractLsb' 0 32))) : Decodes (mk pf d a lit) := by
  refine decodes_two he (by simp [HAppend.hAppend, extract_above, -BitVec.append_eq]) hop ((hb _).trans ?_)
  simp [HAppend.hAppend, extract_above, extract_below, -BitVec.append_eq, fin_accepted, ← hw, h]

/-- Two codes, the order of an access and a scaled offset. -/
theorem decodes_access {mk : Option Prefix → Code → Code → BitVec 3 → BitVec 5 → Instr} {once : Code → Code → Bool}
    {r : BitVec 3} {f : BitVec 5} (h : wellFormed (mk pf d a r f) = true)
    (hw : wellFormed (mk pf d a r f) = prefixOk g (once d a) pf)
    (he : encode (mk pf d a r f) = prefixWords pf ++ [o ++ d ++ a ++ r ++ f]) (hop : shortOp o.toNat = true)
    (hb : ∀ q : Words, bodyAt q o.toNat = fin q .none [] (some g) (once (q.w.extractLsb' 16 8) (q.w.extractLsb' 8 8))
      (mk q.pf (q.w.extractLsb' 16 8) (q.w.extractLsb' 8 8) (q.w.extractLsb' 5 3) (q.w.extractLsb' 0 5))) :
    Decodes (mk pf d a r f) := by
  refine decodes_one he (by simp [HAppend.hAppend, extract_above, -BitVec.append_eq]) hop ((hb _).trans ?_)
  simp [HAppend.hAppend, extract_above, extract_below, -BitVec.append_eq, fin_accepted, ← hw, h]

/-- A code and an immediate of 16 bits. -/
theorem decodes_imm16 {mk : Option Prefix → Code → BitVec 16 → Instr} {once : Code → Bool} {i : BitVec 16}
    (h : wellFormed (mk pf d i) = true) (hw : wellFormed (mk pf d i) = prefixOk g (once d) pf)
    (he : encode (mk pf d i) = prefixWords pf ++ [o ++ d ++ i]) (hop : shortOp o.toNat = true)
    (hb : ∀ q : Words, bodyAt q o.toNat = fin q .none [] (some g) (once (q.w.extractLsb' 16 8))
      (mk q.pf (q.w.extractLsb' 16 8) (q.w.extractLsb' 0 16))) : Decodes (mk pf d i) := by
  refine decodes_one he (by simp [HAppend.hAppend, extract_above, -BitVec.append_eq]) hop ((hb _).trans ?_)
  simp [HAppend.hAppend, extract_above, extract_below, -BitVec.append_eq, fin_accepted, ← hw, h]

/-- A code and a shift count; bits [15:5] are reserved. -/
theorem decodes_shift {mk : Option Prefix → Code → BitVec 5 → Instr} {once : Code → Bool} {n : BitVec 5}
    (h : wellFormed (mk pf d n) = true) (hw : wellFormed (mk pf d n) = prefixOk g (once d) pf)
    (he : encode (mk pf d n) = prefixWords pf ++ [o ++ d ++ 0#11 ++ n]) (hop : shortOp o.toNat = true)
    (hb : ∀ q : Words, bodyAt q o.toNat = fin q .none [(0, 5, q.w.extractLsb' 5 11 != 0)] (some g)
      (once (q.w.extractLsb' 16 8)) (mk q.pf (q.w.extractLsb' 16 8) (q.w.extractLsb' 0 5))) : Decodes (mk pf d n) := by
  refine decodes_one he (by simp [HAppend.hAppend, extract_above, -BitVec.append_eq]) hop ((hb _).trans ?_)
  simp [HAppend.hAppend, extract_above, extract_below, -BitVec.append_eq, fin_accepted, ← hw, h]

/-- Three codes of an instruction that takes no `Prefix`. -/
theorem decodes_codes {mk : Code → Code → Code → Instr} {b : Code} {priv : Priv} (he : encode (mk d a b) = [o ++ d ++ a ++ b])
    (hop : shortOp o.toNat = true)
    (hb : ∀ q : Words, bodyAt q o.toNat = fin q priv [] none false
      (mk (q.w.extractLsb' 16 8) (q.w.extractLsb' 8 8) (q.w.extractLsb' 0 8))) : Decodes (mk d a b) := by
  refine decodes_one (pf := none) he (by simp [HAppend.hAppend, extract_above, -BitVec.append_eq]) hop ((hb _).trans ?_)
  simp [HAppend.hAppend, extract_above, extract_below, -BitVec.append_eq, fin_plain]

end

/-! ### MOVI20 and MOVF20 (R65), whose opcode byte holds part of `d` -/

theorem opcode_high (w : Word) : opcode w / 16 = (w.extractLsb' 28 4).toNat := by
  simp only [opcode, BitVec.extractLsb'_toNat, Nat.shiftRight_eq_div_pow]
  omega

theorem shortOp_high {n : Nat} (h : 0xE0 ≤ n) : shortOp n = true := by
  simp [shortOp, hasSecond]
  omega

theorem decodes_imm20 {i : Instr} {pf : Option Prefix} {w : Word} {k : BitVec 4} (hk : k = 0xE#4 ∨ k = 0xF#4)
    (he : encode i = prefixWords pf ++ [w]) (hw : w.extractLsb' 28 4 = k) (hb : decodeW20 (.of pf w 0) k.toNat = i) :
    Decodes i := by
  have hhigh := opcode_high w
  rw [hw] at hhigh
  refine decodes_short he (shortOp_high ?_) (.trans ?_ hb)
  · rcases hk with rfl | rfl <;> simp at hhigh <;> omega
  · rcases hk with rfl | rfl <;> simp_all [decodeBody]

end Sys2Proof
end

section
/-! ## Family 03: the round trip of every well-formed instruction (O59) and the words of the spec (O58) -/
namespace Sys2Proof

/-- A register that the general form of MTSR writes is none of those that have an instruction of their own. -/
theorem mtsrPlain_cases {s : BitVec 8} (h : mtsrPlain s = true) :
    mtsrOk s = true ∧ s ≠ 0x0D#8 ∧ s ≠ 0x26#8 ∧ s ≠ 0x2F#8 ∧ s ≠ 0x2E#8 ∧ s ≠ 0x30#8 := by
  simp only [mtsrPlain, Bool.and_eq_true, bne_iff_ne] at h
  obtain ⟨⟨⟨⟨hok, h26⟩, h2E⟩, h2F⟩, h30⟩ := h
  exact ⟨hok, by rintro rfl; exact absurd hok (by decide), h26, h2F, h2E, h30⟩

/-- Instructions of the engines and of the system that take no `Prefix`: rows 0xB and 0xD of the opcode map (R66), but QSIG and
MLOAD. -/
def isEngineOrSystem (i : Instr) : Bool :=
  match i with
  | .thld .. | .mma .. | .mmaloop .. | .mbatch .. | .waitt .. | .maccAlloc .. | .maccFree .. | .mdrain .. | .bput .. |
    .thset .. | .thget .. | .copy .. | .gather .. | .scatter .. | .tsplit .. | .kstore .. | .bgather .. | .trap .. |
    .trapFrame .. | .eretRetry .. | .eretSkip .. | .eretTo .. | .mtsrFpflags .. | .mtsrCtxPreempt .. | .mtsrCtxHalt .. |
    .mtsrCtxLcbins .. | .mtsrFaultlog .. | .resumeReplay .. | .resumeDeliver .. | .resumeTerm .. | .launch .. | .tlbinvPage .. |
    .tlbinvAsid .. | .tlbinvAll .. | .asinv .. | .bkpt .. | .clrset .. | .kidx .. | .perfrd .. | .mtsr .. => true
  | _ => false

/-- Each of them decodes from its words: its fields are read back one by one, and its conditions of R70 are those of
`wellFormed`. -/
theorem decodes_engineOrSystem {i : Instr} (hk : (isEngineOrSystem i && wellFormed i) = true) : Decodes i := by
  have h : wellFormed i = true := (Bool.and_eq_true_iff.mp hk).2
  cases i with
  | thld d a off | mma d a b qa qb | mmaloop d a b qa qb inc n | mbatch d bar | waitt a | maccAlloc d | maccFree a
    | mdrain d a b st clr | bput a b =>
    refine decodes_two (pf := none) (by rfl) (by simp [HAppend.hAppend, extract_above, -BitVec.append_eq]; rfl) (by rfl) ?_
    simp [bodyAt, decodeB, fin_plain, HAppend.hAppend, extract_above, extract_below, -BitVec.append_eq]
  | thset d a sel | thget d a sel =>
    have hv : selOk sel = true := h
    refine decodes_two (pf := none) (by rfl) (by simp [HAppend.hAppend, extract_above, -BitVec.append_eq]; rfl) (by rfl) ?_
    simp [bodyAt, decodeB, fin_plain, HAppend.hAppend, extract_above, extract_below, -BitVec.append_eq, hv]
  | copy d a b q tok bar yld cont | gather d a b q tok bar yld list cont | scatter d a b q tok bar yld list ordered cont
    | tsplit d a b q tok bar yld cont =>
    have hv : (yld == 0#1 && cont != 0#5) = false := by simpa [imp_iff_not_or] using (show (yld != 0 || cont == 0) = true from h)
    refine decodes_two (pf := none) (by rfl) (by simp [HAppend.hAppend, extract_above, -BitVec.append_eq]; rfl) (by rfl) ?_
    simp [bodyAt, decodeB, fin_plain, HAppend.hAppend, extract_above, extract_below, -BitVec.append_eq, hv]
  | kstore d a b n tok bar strict val slot =>
    have hv : (val == 0#1 && b != 255#8) = false := by simpa [imp_iff_not_or] using (show (val != 0 || b == 0xFF) = true from h)
    refine decodes_two (pf := none) (by rfl) (by simp [HAppend.hAppend, extract_above, -BitVec.append_eq]; rfl) (by rfl) ?_
    simp [bodyAt, decodeB, fin_plain, HAppend.hAppend, extract_above, extract_below, -BitVec.append_eq, hv]
  | bgather d a tok bar dist slot trunc =>
    have hv : dist ≠ 3#2 := bne_iff_ne.mp h
    refine decodes_two (pf := none) (by rfl) (by simp [HAppend.hAppend, extract_above, -BitVec.append_eq]; rfl) (by rfl) ?_
    simp [bodyAt, decodeB, fin_plain, HAppend.hAppend, extract_above, extract_below, -BitVec.append_eq, hv]
  | trap a | trapFrame d | eretRetry | eretSkip | eretTo a | mtsrFpflags a | mtsrCtxPreempt a b
    | mtsrCtxHalt a b | mtsrCtxLcbins a b | mtsrFaultlog a b | resumeReplay d a | resumeDeliver d a | resumeTerm d a
    | launch d a | tlbinvPage a b | tlbinvAsid b | tlbinvAll | asinv b | bkpt c | clrset a =>
    refine decodes_one (pf := none) (by rfl) (by simp [HAppend.hAppend, extract_above, -BitVec.append_eq]; rfl) (by rfl) ?_
    simp [bodyAt, decodeD, fin_plain, HAppend.hAppend, extract_above, extract_below, -BitVec.append_eq]
  | kidx n a =>
    have hv : n.toNat ≤ 3 := of_decide_eq_true h
    refine decodes_one (pf := none) (by rfl) (by simp [HAppend.hAppend, extract_above, -BitVec.append_eq]; rfl) (by rfl) ?_
    simp [bodyAt, decodeD, fin_plain, HAppend.hAppend, extract_above, extract_below, -BitVec.append_eq, hv]
  | perfrd d k n =>
    have hv : k.toNat ≤ 5 := of_decide_eq_true h
    refine decodes_one (pf := none) (by rfl) (by simp [HAppend.hAppend, extract_above, -BitVec.append_eq]; rfl) (by rfl) ?_
    simp [bodyAt, decodeD, fin_plain, HAppend.hAppend, extract_above, extract_below, -BitVec.append_eq, hv]
  | mtsr s a b =>
    obtain ⟨h0, h1, h2, h3, h4, h5⟩ := mtsrPlain_cases h
    refine decodes_one (pf := none) (by rfl) (by simp [HAppend.hAppend, extract_above, -BitVec.append_eq]; rfl) (by rfl) ?_
    simp [bodyAt, decodeD, fin_plain, HAppend.hAppend, extract_above, extract_below, -BitVec.append_eq, h0, h1, h2, h3, h4, h5]
  | _ => exact absurd hk Bool.false_ne_true

/-- Every other instruction does. They go by the form of their encoding: those of three codes, of two, of a literal and so on by the
lemmas above; the others as in `decodes_engineOrSystem`. -/
theorem decodes_others {i : Instr} (hk : (!isEngineOrSystem i && wellFormed i) = true) : Decodes i := by
  have h : wellFormed i = true := (Bool.and_eq_true_iff.mp hk).2
  cases i with
  | add pf d a b | sub pf d a b | adds pf d a b | subs pf d a b | mullo pf d a b | mulhiS pf d a b | mulhiU pf d a b
    | mad pf d a b | madwU pf d a b | madwS pf d a b | divS pf d a b | divU pf d a b | remS pf d a b | remU pf d a b
    | minS pf d a b | minU pf d a b | maxS pf d a b | maxU pf d a b | and pf d a b | or pf d a b | xor pf d a b | andn pf d a b
    | shl pf d a b | shr pf d a b | sar pf d a b | rol pf d a b | fshl pf d a b | bfxU pf d a b | bfxS pf d a b | bfi pf d a b
    | permb pf d a b | cmpEq pf d a b | cmpNe pf d a b | cmpLtS pf d a b | cmpLeS pf d a b | cmpLtU pf d a b | cmpLeU pf d a b
    | sel pf d a b | lea1 pf d a b | lea4 pf d a b | lea8 pf d a b | lea16 pf d a b | add64 pf d a b | sub64 pf d a b
    | cvti pf d a b | fadd pf d a b | fsub pf d a b | fmul pf d a b | ffma pf d a b | fmin pf d a b | fmax pf d a b
    | fcmpEq pf d a b | fcmpLt pf d a b | fcmpLe pf d a b | fcmpUn pf d a b | fdiv pf d a b | fscale pf d a b | fcvtF2i pf d a b
    | fcvtI2f pf d a b | fcvtF2f pf d a b | hadd2 pf d a b | hmul2 pf d a b | hfma2 pf d a b | hdot2 pf d a b | shflIdx pf d a b
    | shflUp pf d a b | shflDown pf d a b | shflXor pf d a b | hins pf d a b | hprobe pf d a b | hdel pf d a b | ffmc pf d a n
    | redux pf d a c | scan pf d a c =>
    exact decodes_regs h (by rfl) (by rfl) (by rfl) (fun _ => by rfl)
  | abs pf d a | neg pf d a | clz pf d a | ctz pf d a | popc pf d a | brev pf d a | mov pf d a | fabs pf d a | fneg pf d a
    | fclass pf d a | fsqrt pf d a | frcp pf d a | frsq pf d a | fexp2 pf d a | flog2 pf d a | fsin pf d a | fcos pf d a
    | fround pf d a | ballot pf d a | qappend pf d a | xchgp pf d a | matchLanes pf d a | movsr pf d s =>
    exact decodes_twoRegs h (by rfl) (by rfl) (by rfl) (fun _ => by rfl)
  | addL pf d a lit | andL pf d a lit | orL pf d a lit | xorL pf d a lit | mulloL pf d a lit | cmpEqL pf d a lit
    | cmpLtSL pf d a lit | faddL pf d a lit | fmulL pf d a lit | fminL pf d a lit | fmaxL pf d a lit | fcmpLtL pf d a lit =>
    exact decodes_literal h (by rfl) (by rfl) (by rfl) (fun _ => by rfl)
  | addi16 pf d i | andi16 pf d i | ori16 pf d i | xori16 pf d i | movhi16 pf d i =>
    exact decodes_imm16 h (by rfl) (by rfl) (by rfl) (fun _ => by rfl)
  | shli pf d n | shri pf d n | sari pf d n =>
    exact decodes_shift h (by rfl) (by rfl) (by rfl) (fun _ => by rfl)
  | ld8u pf d a o f | ld8s pf d a o f | ld16u pf d a o f | ld16s pf d a o f | ld32 pf d a o f | ld64 pf d a o f | ld128 pf d a o f
    | lds32 pf d a o f | lds128 pf d a o f | st8 pf d a o f | st16 pf d a o f | st32 pf d a o f | st64 pf d a o f
    | st128 pf d a o f | sts32 pf d a o f | sts128 pf d a o f =>
    exact decodes_access h (by rfl) (by rfl) (by rfl) (fun _ => by rfl)
  | ldc pf d a f =>
    have hp : prefixOk ⟨false, false, false⟩ (onceR d [a]) pf = true := h
    refine decodes_one (by rfl) (by simp [HAppend.hAppend, extract_above, -BitVec.append_eq]; rfl) (by rfl) ?_
    simp [bodyAt, decode3, fin_accepted, hp, HAppend.hAppend, extract_above, extract_below, -BitVec.append_eq]
  | atom pf d a b aop width order c | atoms pf d a b aop width order c =>
    obtain ⟨hv, hp⟩ := Bool.and_eq_true_iff.mp h
    obtain ⟨⟨h15, hw⟩, hc⟩ : (aop ≠ 15#4 ∧ width.toNat ≤ 1) ∧ (aop != 9#4 && c != 0#8) = false := by
      simpa [or_iff_not_imp_left] using hv
    refine decodes_two (by rfl) (by simp [HAppend.hAppend, extract_above, -BitVec.append_eq]; rfl) (by rfl) ?_
    simp [bodyAt, decodeA, HAppend.hAppend, extract_above, extract_below, -BitVec.append_eq, -Bool.not_or]
    exact fin_accepted _ (by simp [h15, hw, hc]) hp
  | hacc pf d a b op ty =>
    obtain ⟨hv, hp⟩ := Bool.and_eq_true_iff.mp h
    obtain ⟨hop, hty⟩ : op.toNat ≤ 2 ∧ ty ≠ 3#2 := by simpa using hv
    refine decodes_two (by rfl) (by simp [HAppend.hAppend, extract_above, -BitVec.append_eq]; rfl) (by rfl) ?_
    simp [bodyAt, decodeA, fin_accepted, hp, hop, hty, HAppend.hAppend, extract_above, extract_below, -BitVec.append_eq]
  | movL pf d lit =>
    have hp : prefixOk ⟨false, false, false⟩ (onceR d []) pf = true := h
    refine decodes_two (by rfl) (by simp [HAppend.hAppend, extract_above, -BitVec.append_eq]; rfl) (by rfl) ?_
    simp [bodyAt, decodeC, fin_accepted, hp, HAppend.hAppend, extract_above, extract_below, -BitVec.append_eq]
  | ffmaL pf d a b lit =>
    have hp : prefixOk ⟨true, true, false⟩ (onceR d [a, b]) pf = true := h
    refine decodes_two (by rfl) (by simp [HAppend.hAppend, extract_above, -BitVec.append_eq]; rfl) (by rfl) ?_
    simp [bodyAt, decodeC, fin_accepted, hp, HAppend.hAppend, extract_above, extract_below, -BitVec.append_eq]
  | movi20 pf d i =>
    have hp : prefixOk ⟨false, false, false⟩ (onceR d []) pf = true := h
    refine decodes_imm20 (k := 0xE) (.inl rfl) (by rfl) (by simp [HAppend.hAppend, extract_above, -BitVec.append_eq]) ?_
    simp [decodeW20, fin_accepted, hp, HAppend.hAppend, extract_above, extract_below, -BitVec.append_eq]
  | movf20 pf d i =>
    have hp : prefixOk ⟨false, false, false⟩ (onceR d []) pf = true := h
    refine decodes_imm20 (k := 0xF) (.inr rfl) (by rfl) (by simp [HAppend.hAppend, extract_above, -BitVec.append_eq]) ?_
    simp [decodeW20, fin_accepted, hp, HAppend.hAppend, extract_above, extract_below, -BitVec.append_eq]
  | exnext d a b | arrive d a b | htclaim d a b | hdrain d a b | qsig d a b | mload d a b =>
    exact decodes_codes (by rfl) (by rfl) (fun _ => by rfl)
  | setmode i | brt c f | brf c f | bra f | call d i | callx d a | ret a | jpt f | join | exit | wait l s c t | yield | safe k
    | nop | expand d a s o | exred a | exfin d | exsave a | exload a | waitbPh a b | waitbCnt a b | barWg | barTeam
    | mwaitNe a b | mwaitGeu a b | pref a | prefL1 a | cflushWb a | cflushInv a | htrel a =>
    refine decodes_one (pf := none) (by rfl) (by simp [HAppend.hAppend, extract_above, -BitVec.append_eq]; rfl) (by rfl) ?_
    simp [bodyAt, decode2, decode7, decode9, decodeA, fin_plain, HAppend.hAppend, extract_above, extract_below, -BitVec.append_eq]
  | brx n a b =>
    have hv : n ≠ 0#8 := bne_iff_ne.mp h
    refine decodes_one (pf := none) (by rfl) (by simp [HAppend.hAppend, extract_above, -BitVec.append_eq]; rfl) (by rfl) ?_
    simp [bodyAt, decode7, fin_plain, HAppend.hAppend, extract_above, extract_below, -BitVec.append_eq, hv]
  | loop d e | loopi n e =>
    have hv : e ≠ 0#16 := bne_iff_ne.mp h
    refine decodes_one (pf := none) (by rfl) (by simp [HAppend.hAppend, extract_above, -BitVec.append_eq]; rfl) (by rfl) ?_
    simp [bodyAt, decode7, fin_plain, HAppend.hAppend, extract_above, extract_below, -BitVec.append_eq, hv]
  | fence k s =>
    have hv : k ≠ 3#2 ∧ s.toNat ≤ 4 := by simpa using (show (k != 3 && decide (s.toNat ≤ 4)) = true from h)
    refine decodes_one (pf := none) (by rfl) (by simp [HAppend.hAppend, extract_above, -BitVec.append_eq]; rfl) (by rfl) ?_
    simp [bodyAt, decodeA, fin_plain, HAppend.hAppend, extract_above, extract_below, -BitVec.append_eq, hv]
  | _ => exact absurd hk Bool.false_ne_true

theorem decodes_of_wellFormed {i : Instr} (h : wellFormed i = true) : Decodes i := by
  cases hk : isEngineOrSystem i with
  | true => exact decodes_engineOrSystem (by simp [hk, h])
  | false => exact decodes_others (by simp [hk, h])

/-- Settles O59: the decoder's entry for each form of encoding reads the encoder's fields back, and its checks are those of
`wellFormed`. -/
theorem decodeEncode : Obligations.DecodeEncode := fun _ r h => decodes_of_wellFormed h r

/-- Settles O58: the decoder is evaluated on the words. -/
theorem decodeWords : Obligations.DecodeWords := by
  unfold Obligations.DecodeWords
  decide

end Sys2Proof
end

section
/-! ## Family 03: held lanes re-execute their transfer -/
namespace Sys2Proof.Machine

/-! ### The lanes of a waiting path's transfer (R169, R171) -/

section
variable {s q : State} {c : Cur} {w : Warp} {m : BitVec 4} {f : BitVec 20} {sense : Bool} {n a b : Code} {i : Instr}

/-- A waiting path's transfer moves its held lanes. -/
theorem Warp.transferLanes_wait (h : (w.path c.p).status = .wait) : w.transferLanes c = (w.path c.p).held.lanes := by
  simp [Warp.transferLanes, h]

/-- BRT and BRF to a target in range make a transfer, which is a jump where every lane takes the branch. -/
theorem State.condBranch_near (ht : (farOff c.pc f).toNat < 2 ^ 56) :
    s.condBranch c w m sense f =
      s.retireTransfer c (if ∀ l ∈ w.transferLanes c, (w.maskReg m.toNat).getLsbD l = sense then .jump else .cond)
        (w.condGroups c m sense f) := by
  simp only [State.condBranch, State.branch_near _ _ _ _ _ ht, Warp.takers, List.filter_eq_self, beq_iff_eq]

/-- BRX whose lanes pass every check and read their entries without a cause has its targets. -/
theorem State.brxRead_targets (hb : w.badReg = []) (hd : s.debugOn w = false) {vals : List (Nat × List Byte)}
    (h : ∀ l ∈ w.transferLanes c, (w.rd a l).toNat < n.toNat ∧ (w.brxEntry a b l).toNat < 2 ^ 56 ∧
      (w.brxEntry a b l).toNat % 4 = 0 ∧ (farOff c.pc (BitVec.ofNat 32 (readValue vals l))).toNat < 2 ^ 56)
    (hread : s.readLanes c w false 4 ((w.transferLanes c).map (fun l => { lane := l, va := (w.brxEntry a b l).toNat })) =
      .done vals [] q) :
    s.brxRead c w i n a b =
      .go ((w.transferLanes c).map (fun l => (l, farOff c.pc (BitVec.ofNat 32 (readValue vals l))))) q := by
  have none_of : ∀ p : Nat → Bool, (∀ l ∈ w.transferLanes c, p l = false) → (w.transferLanes c).filter p = [] :=
    fun p hp => List.filter_eq_nil_iff.mpr (fun l hl => by simp [hp l hl])
  have hout := none_of (fun l => decide (n.toNat ≤ (w.rd a l).toNat)) (fun l hl => by simpa using (h l hl).1)
  have hfar := none_of (fun l => decide (2 ^ 56 ≤ (w.brxEntry a b l).toNat)) (fun l hl => by simpa using (h l hl).2.1)
  have hodd := none_of (fun l => decide ((w.brxEntry a b l).toNat % 4 ≠ 0)) (fun l hl => by simpa using (h l hl).2.2.1)
  have hseen := none_of (fun l => s.watched c w (w.brxEntry a b l).toNat 4 true false) (fun l _ => State.watched_off hd ..)
  have hbeyond := none_of (fun l => decide (2 ^ 56 ≤ (farOff c.pc (BitVec.ofNat 32 (readValue vals l))).toNat))
    (fun l hl => by simpa using (h l hl).2.2.2)
  have hbad : ((w.transferLanes c).map (fun l => (l, farOff c.pc (BitVec.ofNat 32 (readValue vals l))))).filter
      (fun t => decide (2 ^ 56 ≤ t.2.toNat)) = [] := by
    rw [List.filter_map, List.map_eq_nil_iff]
    exact hbeyond
  simp only [State.brxRead, badLanes_nil hb]
  refine (if_neg (not_not_intro rfl)).trans ((if_neg (not_not_intro hout)).trans ((if_neg (not_not_intro hfar)).trans
    ((if_neg (not_not_intro hodd)).trans ((if_neg (not_not_intro hseen)).trans ?_))))
  simp only [Warp.brxEntry] at hread
  simp only [hread, hbad]
  rfl

theorem toNat_pairTarget_le (x : DWord) : (pairTarget x).toNat ≤ x.toNat := by
  simp only [pairTarget, BitVec.toNat_and]
  exact Nat.and_le_left

/-- Where every lane's target pair is in range, a transfer through a pair meets no cause. -/
theorem Warp.pairCauses_inRange (hb : w.badReg = []) (h : ∀ l ∈ w.transferLanes c, (w.rdPair a l).toNat < 2 ^ 56) :
    joinCauses (w.pairCauses c i a) = none := by
  have hnone : (w.transferLanes c).filter (fun l => decide (2 ^ 56 ≤ (pairTarget (w.rdPair a l)).toNat)) = [] :=
    List.filter_eq_nil_iff.mpr (fun l hl => by simpa using (toNat_pairTarget_le _).trans_lt (h l hl))
  rw [Warp.pairCauses, badLanes_nil hb, hnone]
  rfl

end

/-! ### Re-execution -/

/-- The transfers at which lanes can be held, and the BRA and CALL that a changed word may hold (R171; log entry 60). -/
def isTransfer (i : Instr) : Bool :=
  match i with
  | .brt _ _ => true
  | .brf _ _ => true
  | .bra _ => true
  | .brx _ _ _ => true
  | .call _ _ => true
  | .callx _ _ => true
  | .ret _ => true
  | _ => false

/-- The instruction fetched for held lanes executes with the path's issue record. -/
theorem exec_heldTransfer {s q : State} {key p len : Nat} {i : Instr} {w : Warp} (hw : s.warp? key = some w)
    (hs : (w.path p).status = .wait) (hh : (w.path p).held ≠ 0) (hf : s.pathFree w p = true)
    (hi : s.fetch key p w (w.path p).hpc = (.instr i len, q)) (ht : isTransfer i = true) :
    exec (.heldTransferReexecution key p) s =
      exec i { (q.updPath key p (fun x => { x with hold := .none })) with cur := some (w.curFor key p len) } := by
  have hready : s.heldReady key p = true := by simpa [State.heldReady, hw, hs, hf] using hh
  rw [exec_heldTransferReexecution, execHeldTransferReexecution, if_pos hready, hw]
  dsimp only
  rw [hi]
  unfold isTransfer at ht
  split at ht
  case h_8 => cases ht
  all_goals rfl

/-! ### A group of held lanes takes an entry (R170, R171) -/

theorem Warp.lt_of_status {w : Warp} {p : Nat} (h : (w.path p).status ≠ .free) : p < w.paths.length := by
  by_contra hp
  exact h (by simp [Warp.path, List.getElem?_eq_none (not_lt.mp hp), Path.empty])

@[simp] theorem Warp.path_newSeg (w : Warp) (e j : Nat) (he : e < w.paths.length) :
    (w.newSeg e).path j = if j = e then { w.path e with segs := w.seg :: (w.path e).segs } else w.path j :=
  w.path_updPath e j _ he

/-- Changing a path that stays in the table leaves the free entries as they are. -/
theorem Warp.freePaths_updPath {w : Warp} {p : Nat} (f : Path → Path) (h : (w.path p).status ≠ .free)
    (hf : (f (w.path p)).status ≠ .free) : (w.updPath p f).freePaths = w.freePaths := by
  refine List.filter_congr fun j _ => ?_
  rw [w.path_updPath p j f (Warp.lt_of_status h)]
  split
  · subst j
    simp [h, hf]
  · rfl

theorem Warp.mem_freePaths {w : Warp} {e : Nat} {r : List Nat} (h : w.freePaths = e :: r) :
    e < 8 ∧ (w.path e).status = .free := by
  have hmem : e ∈ w.freePaths := by simp [h]
  obtain ⟨hnum, hfree⟩ := List.mem_filter.mp hmem
  refine ⟨?_, by simpa using hfree⟩
  have : numsFrom 0 8 = List.range 8 := by decide
  simpa [this] using hnum

/-- With no loop a group of a transfer continues at its target. -/
theorem landing_nil (k : Xfer) (x nxt t : DWord) : landing k x nxt t [] = ([], t) := by
  unfold landing
  split
  · next h => simp [endCheck, h.2]
  · cases k <;> rfl

theorem joinsAt_ne {j : Option DWord} {t : DWord} (h : j ≠ some t) : joinsAt j t = false := by
  simp [joinsAt, h]

@[simp] theorem Warp.seg_updPath (w : Warp) (p : Nat) (f : Path → Path) : (w.updPath p f).seg = w.seg := rfl

/-- The entry that a group with no loop takes as a child of `home`, for the path `q` that splits. -/
def Path.childOf (q : Path) (home seg : Nat) (g : Branch) : Path :=
  { Path.empty with status := .run, pc := g.target, mask := g.lanes, jp := q.jp, arr := q.jp, parent := some home, stack := []
                    segs := seg :: q.segs, after := q.after }

section
variable {w : Warp} {p e : Nat} {r : List Nat} {g : Branch} {k : Xfer} {x nxt : DWord}

theorem Warp.ne_of_free (hfree : w.freePaths = e :: r) (h : (w.path p).status ≠ .free) : p ≠ e :=
  fun hpe => h (hpe ▸ (Warp.mem_freePaths hfree).2)

/-- `place` fills the lowest free entry and counts one more child. -/
theorem Warp.path_place {q : Path} {home : Nat} (hlen : w.paths.length = 8) (hfree : w.freePaths = e :: r) (hhome : home < 8)
    (hne : home ≠ e) (j : Nat) :
    (w.place home q [] k x nxt g).path j =
      if j = home then { w.path home with kids := (w.path home).kids + 1 }
      else if j = e then q.childOf home w.seg g else w.path j := by
  obtain ⟨he, -⟩ := Warp.mem_freePaths hfree
  simp only [Warp.place, hfree, landing_nil]
  rw [Warp.path_updPath _ _ _ _ (by simpa [Warp.newSeg, hlen] using hhome), Warp.path_newSeg _ _ _ (by simpa [hlen] using he),
    Warp.path_newSeg _ _ _ (by simpa [hlen] using he), if_neg hne]
  by_cases hj : j = e
  · simp [hj, Warp.path_updPath, hlen, he, hne.symm, Path.childOf]
  · simp [hj, Warp.path_updPath, hlen, he, hne]

/-- One group of a waiting path that is neither flat nor at its join point takes the lowest free entry. -/
theorem Warp.path_split_oneGroup (hlen : w.paths.length = 8) (hfree : w.freePaths = e :: r) (hs : (w.path p).status = .wait)
    (hflat : (w.path p).flat = false) (hjp : (w.path p).jp ≠ some g.target) (j : Nat) :
    (w.split p [] k x nxt [g]).path j =
      if j = p then { w.path p with status := .wait, mask := 0, kids := (w.path p).kids + 1 }
      else if j = e then (w.path p).childOf p w.seg g else w.path j := by
  have hp : p < w.paths.length := Warp.lt_of_status (by simp [hs])
  have hpe : p ≠ e := Warp.ne_of_free hfree (by simp [hs])
  simp only [Warp.split, hflat, Path.others, List.filter_cons, List.filter_nil, joinsAt_ne hjp, Bool.not_false, if_true,
    Bool.false_eq_true, if_false, List.foldl_nil]
  generalize hw2 : w.updPath p (fun q => { q with status := .wait, mask := 0 }) = w2
  have hfree2 : w2.freePaths = e :: r := by
    rw [← hw2, Warp.freePaths_updPath _ (by simp [hs]) (by simp), hfree]
  have hlen2 : w2.paths.length = 8 := by
    rw [← hw2]
    simpa using hlen
  have hpath := Warp.path_place (q := w.path p) (k := k) (x := x) (nxt := nxt) (g := g) hlen2 hfree2 (hlen ▸ hp) hpe
  have hsettle : (w2.place p (w.path p) [] k x nxt g).settle e = w2.place p (w.path p) [] k x nxt g := by
    simp [Warp.settle, hpath, hpe.symm, Path.childOf, joinsAt_ne hjp]
  have hmerge : (w2.place p (w.path p) [] k x nxt g).merge p 9 = w2.place p (w.path p) [] k x nxt g := by
    simp [Warp.merge, hpath]
  simp only [hfree2, Warp.holdLanes, Warp.placeAll, List.length_cons, List.length_nil, List.drop_succ_cons, List.drop_zero,
    List.take_succ_cons, List.take_zero, List.foldl_cons, List.foldl_nil, Nat.le_add_left, if_true, hsettle, hmerge, hpath]
  by_cases hj : j = p
  · simp [hj, ← hw2, Warp.path_updPath, hp]
  · simp [hj, ← hw2, Warp.path_updPath, hp]

/-- A waiting path gives one group of held lanes the lowest free entry, as its child, and holds it no longer (R170, R171). -/
theorem Warp.path_transfer_heldGroup (hlen : w.paths.length = 8) (hfree : w.freePaths = e :: r) (hs : (w.path p).status = .wait)
    (hflat : (w.path p).flat = false) (hstack : (w.path p).hstack = []) (hjp : (w.path p).jp ≠ some g.target) (j : Nat) :
    (w.transfer p k x nxt [g]).path j =
      if j = p then { w.path p with held := 0, status := .wait, mask := 0, kids := (w.path p).kids + 1 }
      else if j = e then (w.path p).childOf p w.seg g else w.path j := by
  have hp : p < w.paths.length := Warp.lt_of_status (by simp [hs])
  rw [Warp.transfer, if_pos hs, hstack]
  have hpath : ∀ j, (w.updPath p (fun q => { q with held := 0 })).path j =
      if j = p then { w.path p with held := 0 } else w.path j :=
    fun j => Warp.path_updPath _ _ _ _ hp
  have hhome := (hpath p).trans (if_pos rfl)
  rw [Warp.path_split_oneGroup (by simpa using hlen) (by rw [Warp.freePaths_updPath _ (by simp [hs]) (by simp [hs]), hfree])
    (by rw [hhome]; exact hs) (by rw [hhome]; exact hflat) (by rw [hhome]; exact hjp), hhome, hpath]
  by_cases hj : j = p
  · simp [hj]
  · simp [hj, Path.childOf]

end

/-! ### O12 -/

/-- Settles O12: a held transfer runs as its instruction does, on the held lanes; a group of them is placed by `Warp.split`. -/
theorem heldTransfersAndNonInstructions : Obligations.HeldTransfersAndNonInstructions := by
  unfold Obligations.HeldTransfersAndNonInstructions
  refine ⟨?_, ?_, ?_⟩
  · intro key p len i s q w hw hs hh hf hi c s1 w1 hr hwait hb hd held goes
    have hlanes : w1.transferLanes c = held := Warp.transferLanes_wait hwait
    have hrun := fun ht => exec_heldTransfer hw hs hh hf hi ht
    refine ⟨?_, ?_, ?_, ?_, ?_, ?_⟩
    · rintro f rfl hnear
      refine (hrun rfl).trans ((exec_bra_ready hr).trans ?_)
      rw [State.branch_near (target := farOff c.pc f) _ _ _ _ _ hnear, hlanes]
      rfl
    · intro m f sense hi hnear
      have hbranch : exec i s1 = .next (s1.condBranch c w1 m sense f) := by
        rcases hi with ⟨rfl, rfl⟩ | ⟨rfl, rfl⟩
        · exact exec_condBranch_ready (e := (.brt m f, true)) (by simp) hr
        · exact exec_condBranch_ready (e := (.brf m f, false)) (by simp) hr
      refine (hrun (by rcases hi with ⟨rfl, rfl⟩ | ⟨rfl, rfl⟩ <;> rfl)).trans (hbranch.trans ?_)
      rw [State.condBranch_near hnear, Warp.condGroups, hlanes]
      simp only [beq_iff_eq, farOff]
    · rintro n a b vals u rfl hlane hread
      exact (hrun rfl).trans (((exec_brx_ready hr).1 _ (State.brxRead_targets hb hd (hlanes ▸ hlane) (hlanes ▸ hread))).trans
        (by rw [hlanes]; rfl))
    · rintro d f rfl hnear
      exact (hrun rfl).trans ((exec_call_ready hr hnear).trans (by rw [hlanes]; rfl))
    · rintro d a rfl hnear
      exact (hrun rfl).trans (((exec_callx_ready hr).1 (Warp.pairCauses_inRange hb (hlanes ▸ hnear))).trans
        (by rw [Warp.pairGroups, hlanes]; rfl))
    · rintro a rfl hnear
      exact (hrun rfl).trans (((exec_ret_ready hr).1 (Warp.pairCauses_inRange hb (hlanes ▸ hnear))).trans
        (by rw [Warp.pairGroups, hlanes]; rfl))
  · intro w p e r k x nxt t hlen hfree q hs hh hflat hstack hjp w'
    have hwait : (w.path p).status = .wait := hs
    have hpe : p ≠ e := Warp.ne_of_free hfree (by simp [hwait])
    have hpath := Warp.path_transfer_heldGroup (g := ⟨t, q.held⟩) (k := k) (x := x) (nxt := nxt) hlen hfree hs hflat hstack hjp
    have hhome := (hpath p).trans (if_pos rfl)
    have hchild := (hpath e).trans ((if_neg hpe.symm).trans (if_pos rfl))
    rw [hhome, hchild]
    exact ⟨rfl, rfl, rfl, rfl, rfl, rfl, rfl, rfl, rfl,
      fun j hjp hje => (hpath j).trans ((if_neg hjp).trans (if_neg hje))⟩
  · intro priv k sub len s c w hr
    change execNonInstruction priv k sub len s = _
    rw [execNonInstruction, issue_ready hr]

end Sys2Proof.Machine
end

section
/-! ## Family 03: words, bytes and fetching -/
namespace Sys2Proof.Machine

/-- Further words do not change what a run of words decodes to (R52). -/
theorem decode_append {ws : List Word} {i : Instr} {n : Nat} (h : decode ws = .done i n) (r : List Word) :
    decode (ws ++ r) = .done i n := by
  rcases ws with _ | ⟨w, _ | ⟨w1, _ | ⟨y, rest⟩⟩⟩
  · cases h
  · by_cases hp : opcode w = 0xDF
    · simp [decode, hp] at h
    · by_cases hs : hasSecond (opcode w) <;> simp_all [decode]
  · by_cases hp : opcode w = 0xDF
    · by_cases hs : hasSecond (opcode w1) <;> simp_all [decode]
    · simpa [decode, hp] using h
  · exact h

theorem getElem?_bytesOfNat {n j : Nat} (v : Nat) (h : j < n) (r : List Byte) :
    (bytesOfNat n v ++ r)[j]? = some (BitVec.ofNat 8 (v / 256 ^ j)) := by
  induction n generalizing j v with
  | zero => omega
  | succ n ih =>
    cases j with
    | zero => simp [bytesOfNat]
    | succ j => simpa [bytesOfNat, Nat.div_div_eq_div_mul, Nat.pow_succ'] using ih (v / 256) (Nat.lt_of_succ_lt_succ h)

theorem natOfBytes_bytesOfNat (n v : Nat) : natOfBytes (bytesOfNat n v) = v % 256 ^ n := by
  induction n generalizing v with
  | zero => simp [bytesOfNat, natOfBytes, Nat.mod_one]
  | succ n ih => simp [bytesOfNat, natOfBytes, ih, Nat.pow_succ', Nat.mod_mul]

/-- A word of a readable cached line, before the code's end. -/
theorem State.fetchWord_line {s : State} {key p va t n : Nat} {w : Warp} {h : Hit} (hend : va < s.codeEnd w)
    (hlook : s.look w.asid (some w.team) va = .hit h) (hx : h.x = true) (htag : h.tag = 0) (hplace : h.place = .line t n)
    (hway : s.way (some (coreOfKey key)) h = .go) (hgood : s.badAt h.place h.off 4 = false) :
    s.fetchWord key p w va = (.word (BitVec.ofNat 32 (natOfBytes (s.peekBytes h.place h.off 4))),
      (s.readThrough (coreOfKey key) h).wakeFor (some (coreOfKey key)) h) := by
  rw [State.fetchWord, if_neg (not_le.mpr hend), hlook]
  simp only [hx, htag, State.cleared, State.usedAt, hplace, if_true, Bool.true_eq_false, if_false]
  rw [← hplace, hway, hgood]
  rfl

end Sys2Proof.Machine
end

section
/-! ## Family 03: an instruction that nothing hinders (R145, R166, R171) -/
namespace Sys2Proof.Machine

/-- Nothing of a warp or of the machine that could make an instruction wait is outstanding. -/
structure Unhindered (s : State) (w : Warp) (c : Cur) : Prop where
  accesses : s.accesses = []
  outs : s.outs = []
  engines : s.engines = []
  boot : s.boot = .stage3
  loads : w.loads = []
  stores : w.stores = []
  copies : w.copies = []
  tiles : w.tiles = []
  batches : w.batches = []
  pre : w.pre = .normal
  pending : w.pending = false
  held : (w.path c.p).held = 0

section
variable {s : State} {w : Warp} {c : Cur}

theorem Unhindered.outstanding (h : Unhindered s w c) (key : Nat) (own : Option Nat) (r : Code) (n : Nat) :
    s.outstanding key own r n = false := by
  simp [State.outstanding, h.outs, h.engines]

theorem Unhindered.scoreboard (h : Unhindered s w c) (key : Nat) (own : Option Nat) (ops : List Opnd) :
    s.scoreboard key own ops = false := by
  simp [State.scoreboard, h.outstanding]

@[simp] theorem Warp.full_nil (w : Warp) (c : Cur) : w.full c [] = false := by
  simp [Warp.full, Config.counterMax]

theorem length_onLanes_le (w : Warp) (pf : Option Prefix) (once : Bool) (c : Cur) : (w.onLanes pf once c).length ≤ 32 := by
  cases once with
  | true => simp [Warp.onLanes]
  | false =>
    refine (List.length_filter_le ..).trans ((List.length_filter_le ..).trans ?_)
    decide

theorem Unhindered.memWaits (h : Unhindered s w c) (pf : Option Prefix) (once : Bool) (n : Nat) :
    s.memWaits c w pf once n [] = false := by
  have hpieces : (pieces n).length ≤ 2 := by
    unfold pieces
    split <;> simp
  have := Nat.mul_le_mul (length_onLanes_le w pf once c) hpieces
  simp [State.memWaits, State.crowded, State.requestsOf, h.accesses, Config.coreRequests]
  omega

theorem Unhindered.tokenPending (h : Unhindered s w c) (t : Code) : s.tokenPending w t = false := by
  have hbusy : ∀ t, s.tokenBusy w t = false := fun t => by cases t <;> simp [State.tokenBusy, h.engines, h.batches]
  simp [State.tokenPending, hbusy]

theorem Unhindered.copyWaits (h : Unhindered s w c) (t : Code) : s.copyWaits c w t = false := by
  simp [State.copyWaits, h.copies, h.tokenPending, State.copyLoad, h.engines, Config.copyDepth]

theorem Unhindered.tileWaits (h : Unhindered s w c) : s.tileWaits c w = false := by
  simp [State.tileWaits, h.tiles, State.fifoLoad, h.engines, Config.fifoDepth]

theorem Unhindered.dataWaits (h : Unhindered s w c) (r b : Code) : s.dataWaits c w r b = false := by
  simp [State.dataWaits, h.outstanding]

theorem Unhindered.splitBlocked (h : Unhindered s w c) (pc : DWord) (gs : List Branch) : w.splitBlocked c.p pc gs = false := by
  simp [Warp.splitBlocked, h.held]

theorem Unhindered.loadWaits (h : Unhindered s w c) (pf : Option Prefix) (d a : Code) (n : Nat) :
    s.loadWaits c w pf d a n = false := by
  rw [State.loadWaits, h.loads, h.memWaits]

theorem Unhindered.storeWaits (h : Unhindered s w c) (pf : Option Prefix) (d a : Code) (n : Nat) :
    s.storeWaits c w pf d a n = false := by
  rw [State.storeWaits, h.stores, h.memWaits]

theorem Unhindered.flushWaits (h : Unhindered s w c) (a : Code) : s.flushWaits c w a = false := by
  simp [State.flushWaits, h.stores, h.engines]

theorem Unhindered.safeWaits (h : Unhindered s w c) (p : Nat) : w.safeWaits p = false := by
  simp [Warp.safeWaits, h.pre, h.pending]

theorem Unhindered.freeWaits (h : Unhindered s w c) (a : Code) : s.freeWaits c w a = false := by
  simp [State.freeWaits, State.tileOps, State.opsOf, h.engines]

/-- Where nothing is outstanding no instruction has to wait. The instructions go by what they could wait for. -/
theorem Unhindered.mustWait (h : Unhindered s w c) (i : Instr) : s.mustWait i c w = false := by
  have hcounted (d : Code) : (if d = 0xFF then w.stores else w.loads) = [] := by rw [h.loads, h.stores, ite_self]
  have hloads : w.full c w.loads = false := by rw [h.loads, Warp.full_nil]
  have hstores : w.full c w.stores = false := by rw [h.stores, Warp.full_nil]
  cases i with
  | ld8u pf d a | ld8s pf d a | ld16u pf d a | ld16s pf d a | ld32 pf d a | ld64 pf d a | ld128 pf d a =>
    exact h.loadWaits pf d a _
  | st8 pf d a | st16 pf d a | st32 pf d a | st64 pf d a | st128 pf d a => exact h.storeWaits pf d a _
  | lds32 | lds128 => exact hloads
  | sts32 | sts128 => exact hstores
  | atom pf d a b aop width order cmp =>
    change s.memWaits c w pf _ _ (if d = 0xFF then w.stores else w.loads) = false
    rw [hcounted, h.memWaits]
  | atoms pf d =>
    change w.full c (if d = 0xFF then w.stores else w.loads) = false
    rw [hcounted, Warp.full_nil]
  | brt | brf | brx | callx | ret => exact h.splitBlocked _ _
  | cflushWb a | cflushInv a => exact h.flushWaits a
  | safe => exact h.safeWaits _
  | copy | gather | scatter | tsplit | kstore | bgather => exact h.copyWaits _
  | mma | mmaloop => exact h.tileWaits
  | mdrain d a b =>
    change (s.tileWaits c w || s.dataWaits c w d b) = false
    rw [h.tileWaits, h.dataWaits, Bool.or_false]
  | mload d a b =>
    change (s.tileWaits c w || s.dataWaits c w a b) = false
    rw [h.tileWaits, h.dataWaits, Bool.or_false]
  | mbatch => exact h.tokenPending _
  | maccFree a => exact h.freeWaits a
  | launch =>
    change (s.boot != .stage3 || !(w.loads.isEmpty && w.stores.isEmpty)) = false
    rw [h.boot, h.loads, h.stores]
    rfl
  | exit =>
    change ((s.opsOf c.w).any _ || (w.trap.isNone && w.batches.any _)) = false
    simp [State.opsOf, h.engines, h.batches]
  | _ => rfl

end

end Sys2Proof.Machine
end

section
/-! ## Family 03: the first cycle of the loaded machine (log entry 3) -/
namespace Sys2Proof.Machine

/-! ### Counting the cycle -/

/-- The loaded warp in its first cycle. -/
def countedWarp : Warp := { loaderWarp with watch := 1 }

/-- The loaded machine after its first cycle is counted, with these records of its cores and of activity. -/
def loadedAfter (x : Nat) (cores : Assoc CoreState) (active : Assoc Nat) : State :=
  { State.reset.loadWord x with cycle := 1, clock := 1, warps := [(0, countedWarp)], cores := cores, active := active }

theorem State.ticks_unslowed {s : State} (h : s.slow = []) (d : Nat) : s.ticks d = true := by
  simp [State.ticks, h, Assoc.get, Nat.mod_one]

theorem State.skips_unslowed {s : State} (h : s.slow = []) : s.skips = s.skipped := by
  simp [State.skips, State.ticks_unslowed h]

theorem State.countWarp_loader {s : State} (h : s.slow = []) (hr : s.watchRuns loaderWarp = true) :
    s.countWarp 0 loaderWarp = countedWarp := by
  rw [State.countWarp, if_pos (State.ticks_unslowed h _), if_pos hr]
  rfl

/-- The clocks of a cycle advance. -/
def State.nextCycle (s : State) : State :=
  let q : State := { s with cycle := s.cycle + 1, clock := if s.boot = .stage3 then s.clock + 1 else s.clock, cur := none }
  { q with skipped := q.skips }

/-- The clocks and counts of a cycle advance. -/
def State.countCycle (s : State) : State :=
  let q := s.nextCycle
  { q with asked := q.countAsked
           warps := q.warps.map (fun e => (e.1, q.countWarp e.1 e.2))
           accesses := q.accesses.map (fun e => (e.1, q.countAccess e.1 e.2)) }

theorem State.tick_eq (s : State) :
    s.tick =
      s.countCycle.sweepMisses.retryEvent.finishLaunches.retryHeld.haltDue.saveAllParked.saveTeamsDue.choosePowers := rfl

theorem nextCycle_loadWord (x : Nat) :
    (State.reset.loadWord x).nextCycle = { State.reset.loadWord x with cycle := 1, clock := 1 } := by
  unfold State.nextCycle
  simp only [State.skips_unslowed (s := { State.reset.loadWord x with cycle := _, clock := _, cur := none }) rfl]
  rfl

theorem countCycle_loadWord (x : Nat) : (State.reset.loadWord x).countCycle = loadedAfter x [] [] := by
  have hcount : ({ State.reset.loadWord x with cycle := 1, clock := 1 } : State).countWarp 0 loaderWarp = countedWarp :=
    State.countWarp_loader rfl rfl
  unfold State.countCycle
  rw [nextCycle_loadWord]
  change ({ State.reset.loadWord x with cycle := 1, clock := 1, warps := [(0, State.countWarp _ 0 loaderWarp)] } : State) = _
  rw [hcount]
  rfl

theorem tick_loadWord (x : Nat) : (State.reset.loadWord x).tick = loadedAfter x [] [(5000, 1)] := by
  have hsweep : (loadedAfter x [] []).sweepMisses = loadedAfter x [] [] := rfl
  have hevent : (loadedAfter x [] []).retryEvent = loadedAfter x [] [] := rfl
  have hlaunch : (loadedAfter x [] []).finishLaunches = loadedAfter x [] [] := rfl
  have hheld : (loadedAfter x [] []).retryHeld = loadedAfter x [] [] := rfl
  have hhalt : (loadedAfter x [] []).haltDue = loadedAfter x [] [] := rfl
  have hparked : (loadedAfter x [] []).saveAllParked = loadedAfter x [] [] := rfl
  have hteams : (loadedAfter x [] []).saveTeamsDue = loadedAfter x [] [] := rfl
  have hpower : (loadedAfter x [] []).choosePowers = loadedAfter x [] [(5000, 1)] := rfl
  rw [State.tick_eq, countCycle_loadWord, hsweep, hevent, hlaunch, hheld, hhalt, hparked, hteams, hpower]

/-! ### No event is ready -/

/-- A launch whose teams have all started is no die's current one. -/
theorem State.current_none {s : State} (h : ∀ e ∈ s.launches, e.2.total ≤ e.2.next ∧ e.2.saved = []) (die : Nat) :
    s.current die = none := by
  have hcan : s.launches.filter (fun e => e.2.die == die && e.2.ready && !(s.ctxOf e.2.asid).preempt.getLsbD 0 &&
      (decide (e.2.next < e.2.total) || !e.2.saved.isEmpty)) = [] := by
    refine List.filter_eq_nil_iff.mpr fun e he => ?_
    obtain ⟨hnext, hsaved⟩ := h e he
    simp [hsaved, hnext]
  simp only [State.current, hcan, List.foldl_nil]

theorem current_loadedAfter (x : Nat) (cs : Assoc CoreState) (as : Assoc Nat) (die : Nat) :
    (loadedAfter x cs as).current die = none := by
  refine State.current_none (fun e he => ?_) die
  obtain rfl : e = (1, loaderLaunch) := List.mem_singleton.mp he
  decide

theorem distributorEvents_loadedAfter (x : Nat) : (loadedAfter x [] [(5000, 1)]).distributorEvents = [] := by
  simp only [State.distributorEvents, State.admitTry, State.readmitTry, current_loadedAfter]
  rfl

theorem events_loadedAfter (x : Nat) : (loadedAfter x [] [(5000, 1)]).events = [] := by
  have hwarp : (loadedAfter x [] [(5000, 1)]).warpEvents 0 countedWarp = [] := rfl
  have hmem : (loadedAfter x [] [(5000, 1)]).memoryEvents = [] := rfl
  have hengine : (loadedAfter x [] [(5000, 1)]).engineEvents = [] := rfl
  have hsystem : (loadedAfter x [] [(5000, 1)]).systemEvents = [] := rfl
  have hwake : (loadedAfter x [] [(5000, 1)]).wakeEvents = [] := rfl
  rw [State.events, hmem, hengine, distributorEvents_loadedAfter, hsystem, hwake]
  change ((loadedAfter x [] [(5000, 1)]).warpEvents 0 countedWarp ++ []) ++ [] ++ [] ++ [] ++ [] ++ [] = _
  rw [hwarp]
  rfl

/-! ### Fetching the words -/

/-- The words that stand at the pc of the loaded warp. -/
def placedWords (x : Nat) : List Word := [BitVec.ofNat 32 x, BitVec.ofNat 32 (x / 2 ^ 32), BitVec.ofNat 32 (x / 2 ^ 64)]

/-- The loaded machine after its first cycle is counted, whatever the records of its cores and of activity hold. -/
def Loaded (x : Nat) (s : State) : Prop := ∃ cores active, s = loadedAfter x cores active

section
variable {x : Nat} {s : State}

theorem Loaded.wake (h : Loaded x s) (b : Block) : Loaded x (s.wake b) := by
  obtain ⟨cs, as, rfl⟩ := h
  exact ⟨cs, _, rfl⟩

theorem Loaded.wakeAll (h : Loaded x s) (bs : List Block) : Loaded x (s.wakeAll bs) := by
  induction bs generalizing s with
  | nil => exact h
  | cons b r ih => exact ih (h.wake b)

theorem Loaded.wakeFor (h : Loaded x s) (core : Option Nat) (a : Hit) : Loaded x (s.wakeFor core a) := by
  refine Loaded.wakeAll ?_ _
  obtain ⟨cs, as, rfl⟩ := h
  exact ⟨cs, as, rfl⟩

theorem Loaded.fillL1 (h : Loaded x s) (core : Nat) (l : L2Line) : Loaded x (s.fillL1 core l) := by
  simp only [State.fillL1]
  split_ifs
  · exact h
  · exact h
  · obtain ⟨cs, as, rfl⟩ := h
    exact ⟨_, as, rfl⟩

theorem Loaded.readThrough (h : Loaded x s) (core : Nat) (a : Hit) : Loaded x (s.readThrough core a) := by
  unfold State.readThrough State.fillL1s
  split
  · split
    · exact h
    · exact h.fillL1 _ _
  · exact h

end

/-- Where the word at `k` words from the pc stands. -/
def wordHit (k : Nat) : Hit :=
  { place := .line 0 2, off := 4 * k, pa := 0x100 + 4 * k, tag := 0, w := false, x := true, home := 0, remote := none }

section
variable {x : Nat} {s : State}

theorem Loaded.findLine (h : Loaded x s) : s.findLine 0 2 = some (loaderLine x) := by
  obtain ⟨cs, as, rfl⟩ := h
  rfl

theorem Loaded.look (h : Loaded x s) {k : Nat} (hk : k < 3) :
    s.look 0 (some 2) (0x100 + 4 * k) = .hit (wordHit k) := by
  have hlive : s.isLive 0 = true := by
    obtain ⟨cs, as, rfl⟩ := h
    change (State.reset.live ||| 1).getLsbD 0 = true
    rw [BitVec.getLsbD_or]
    simp
  have hline : lineOf (0x100 + 4 * k) = 2 := by
    simp [lineOf]
    omega
  have htag : tagAsid 0 (0x100 + 4 * k) = 0 := by
    simp [tagAsid]
  simp only [State.look, hlive, hline, htag, h.findLine, wordHit, loaderLine, Bool.true_eq_false, if_false]
  rw [show (0x100 + 4 * k) % 128 = 4 * k by omega]

theorem Loaded.codeEnd (h : Loaded x s) : s.codeEnd countedWarp = 0x180 := by
  obtain ⟨cs, as, rfl⟩ := h
  rfl

theorem Loaded.way (h : Loaded x s) (k : Nat) : s.way (some 0) (wordHit k) = .go := by
  obtain ⟨cs, as, rfl⟩ := h
  rfl

theorem Loaded.badAt (h : Loaded x s) (k : Nat) : s.badAt (.line 0 2) (4 * k) 4 = false := by
  simp [State.badAt, h.findLine, loaderLine]

theorem Loaded.peek (h : Loaded x s) {j : Nat} (hj : j < 12) : s.peek (.line 0 2) j = BitVec.ofNat 8 (x / 256 ^ j) := by
  simp [State.peek, h.findLine, loaderLine, getElem?_bytesOfNat x hj]

theorem Loaded.peekBytes (h : Loaded x s) {k : Nat} (hk : k < 3) :
    s.peekBytes (.line 0 2) (4 * k) 4 = bytesOfNat 4 (x / 2 ^ (32 * k)) := by
  have hb (j : Nat) (hj : j < 4) : s.peek (.line 0 2) (4 * k + j) = BitVec.ofNat 8 (x / 2 ^ (32 * k) / 256 ^ j) := by
    rw [h.peek (by omega), Nat.div_div_eq_div_mul, Nat.pow_add, Nat.pow_mul, Nat.pow_mul]
  generalize x / 2 ^ (32 * k) = v at hb
  simpa [State.peekBytes, numsFrom, bytesOfNat, Nat.div_div_eq_div_mul, Nat.add_assoc] using
    And.intro (hb 0 (by omega)) (And.intro (hb 1 (by omega)) (And.intro (hb 2 (by omega)) (hb 3 (by omega))))

/-- The word of the placed instruction at `k` words from its pc. -/
theorem Loaded.fetchWord (h : Loaded x s) {k : Nat} (hk : k < 3) : ∃ u, Loaded x u ∧
    s.fetchWord 0 0 countedWarp (0x100 + 4 * k) = (.word (BitVec.ofNat 32 (x / 2 ^ (32 * k))), u) := by
  refine ⟨_, (h.readThrough 0 (wordHit k)).wakeFor (some 0) (wordHit k), ?_⟩
  have hbytes : s.peekBytes (wordHit k).place (wordHit k).off 4 = bytesOfNat 4 (x / 2 ^ (32 * k)) := h.peekBytes hk
  rw [State.fetchWord_line (by rw [h.codeEnd]; omega) (h.look hk) rfl rfl rfl (h.way k) (h.badAt k), hbytes,
    natOfBytes_bytesOfNat]
  congr 2
  exact BitVec.eq_of_toNat_eq (by simp)

/-- Fetching goes on word by word until the words decode. -/
theorem Loaded.fetch (h : Loaded x s) {i : Instr} {n : Nat} (hd : decode (placedWords x) = .done i n) :
    ∃ u, Loaded x u ∧ s.fetch 0 0 countedWarp 0x100 = (.instr i n, u) := by
  obtain ⟨u0, h0, hw0⟩ := h.fetchWord (k := 0) (by omega)
  obtain ⟨u1, h1, hw1⟩ := h0.fetchWord (k := 1) (by omega)
  obtain ⟨u2, h2, hw2⟩ := h1.fetchWord (k := 2) (by omega)
  rw [placedWords] at hd
  simp only [Nat.mul_zero, Nat.pow_zero, Nat.div_one, Nat.add_zero, Nat.mul_one, Nat.reduceMul, Nat.reduceAdd] at hw0 hw1 hw2
  generalize BitVec.ofNat 32 x = a at hd hw0
  generalize BitVec.ofNat 32 (x / 2 ^ 32) = b at hd hw1
  generalize BitVec.ofNat 32 (x / 2 ^ 64) = c at hd hw2
  cases ha : decode [a] with
  | done j m =>
    have := (decode_append ha [b, c]).symm.trans hd
    exact ⟨u0, h0, by simpa [State.fetch, State.fetchMore, hw0, ha] using this⟩
  | more =>
    cases hb : decode [a, b] with
    | done j m =>
      have := (decode_append hb [c]).symm.trans hd
      exact ⟨u1, h1, by simpa [State.fetch, State.fetchMore, hw0, ha, hw1, hb] using this⟩
    | more => exact ⟨u2, h2, by simp [State.fetch, State.fetchMore, hw0, ha, hw1, hb, hw2, hd]⟩

end

/-! ### The placed instruction is the one thing that can go on -/

section
variable {x n : Nat} {s : State} {i : Instr}

theorem Loaded.warp? (h : Loaded x s) : s.warp? 0 = some countedWarp := by
  obtain ⟨cs, as, rfl⟩ := h
  rfl

theorem Loaded.unhindered (h : Loaded x s) (c : Cur) (hc : c.p = 0) : Unhindered s countedWarp c := by
  obtain ⟨cs, as, rfl⟩ := h
  exact ⟨rfl, rfl, rfl, rfl, rfl, rfl, rfl, rfl, rfl, rfl, rfl, by rw [hc]; rfl⟩

theorem Loaded.breaks (h : Loaded x s) (pc : DWord) : s.breaks countedWarp 0 pc = false := by
  have hdebug : s.debugOn countedWarp = false := by
    obtain ⟨cs, as, rfl⟩ := h
    change (Ctx.reset.debug).getLsbD 0 = false
    decide
  rw [State.breaks, hdebug]
  rfl

theorem Loaded.pathReady_zero (h : Loaded x s) (hd : decode (placedWords x) = .done i n) :
    s.pathReady 0 0 countedWarp = some (vectorPipe i) := by
  obtain ⟨u, -, hf⟩ := h.fetch hd
  have hfree : s.pathFree countedWarp 0 = true := rfl
  have hpc : (countedWarp.path 0).nextPc = 0x100 := rfl
  have hready := h.unhindered (countedWarp.curFor 0 0 n) rfl
  rw [State.pathReady, hfree, h.breaks, hpc, hf]
  simp [hready.scoreboard, hready.mustWait]

theorem pathReady_free (s : State) {p : Nat} (hp : p ∈ [1, 2, 3, 4, 5, 6, 7]) : s.pathReady 0 p countedWarp = none := by
  have hfree : s.pathFree countedWarp p = false := by
    have hcand : ∀ p ∈ [1, 2, 3, 4, 5, 6, 7], countedWarp.candidate p = false := by decide
    simp [State.pathFree, hcand p hp]
  rw [State.pathReady, hfree]
  rfl

/-- The offer of the placed instruction. -/
def placedOffer (i : Instr) : Offer := { key := 0, path := 0, ready := [0], vector := vectorPipe i }

theorem Loaded.offerAwake (h : Loaded x s) (hd : decode (placedWords x) = .done i n) :
    s.offerAwake 0 countedWarp = some (placedOffer i) := by
  have hdue : s.due countedWarp = false := by
    obtain ⟨cs, as, rfl⟩ := h
    rfl
  have hrest : [1, 2, 3, 4, 5, 6, 7].filterMap (fun p => (s.pathReady 0 p countedWarp).map (fun v => (p, v))) = [] :=
    List.filterMap_eq_nil_iff.mpr fun p hp => by rw [pathReady_free s hp]; rfl
  have hpaths : (numsFrom 0 8).filterMap (fun p => (s.pathReady 0 p countedWarp).map (fun v => (p, v))) =
      [(0, vectorPipe i)] := by
    change (0 :: [1, 2, 3, 4, 5, 6, 7]).filterMap _ = _
    rw [List.filterMap_cons, h.pathReady_zero hd, hrest]
    rfl
  have hgo : (countedWarp.held.isSome || countedWarp.halt.isSome || countedWarp.halting || countedWarp.pre == .saved ||
      s.due countedWarp) = false := by
    rw [hdue]
    rfl
  have hchoose : countedWarp.choosePath [0] = some 0 := by decide
  simp [State.offerAwake, hgo, hpaths, hchoose, placedOffer]

theorem Loaded.offers (h : Loaded x s) (hd : decode (placedWords x) = .done i n) : s.offers = [placedOffer i] := by
  have hawake : s.asleep (.core 0) = false := by
    obtain ⟨cs, as, rfl⟩ := h
    rfl
  have hwarps : s.warps = [(0, countedWarp)] := by
    obtain ⟨cs, as, rfl⟩ := h
    rfl
  have hcore : coreOfKey 0 = 0 := rfl
  simp [State.offers, hwarps, State.offer, hcore, hawake, h.offerAwake hd]

theorem Loaded.picks (h : Loaded x s) (i : Instr) : s.picks [placedOffer i] = [placedOffer i] := by
  have hyield : s.deferred [placedOffer i] (placedOffer i) = false := by
    rw [State.deferred, show s.warp? (placedOffer i).key = some countedWarp from h.warp?]
    rfl
  simp [State.picks, State.pipePicks, hyield]

/-- The placed instruction is the one action of the first cycle. -/
theorem actions_loadWord (hd : decode (placedWords x) = .done i n) :
    (State.reset.loadWord x).tick.actions (State.reset.loadWord x).tick.offers = [.issue (placedOffer i)] := by
  have h : Loaded x (loadedAfter x [] [(5000, 1)]) := ⟨_, _, rfl⟩
  rw [tick_loadWord, h.offers hd, State.actions, events_loadedAfter, h.picks]
  rfl

/-- The state in which the placed instruction executes, once its words are fetched. -/
def State.issued (s : State) (i : Instr) (n : Nat) : State :=
  { ((s.pick (placedOffer i)).updPath 0 0 (fun q => { q with hold := .none })) with
    cur := some { countedWarp.curFor 0 0 n with sync := syncOf i } }

theorem step_loadWord (hd : decode (placedWords x) = .done i n) :
    ∃ u, Loaded x u ∧ step (State.reset.loadWord x) = exec i (u.issued i n) := by
  have h : Loaded x (State.reset.loadWord x).tick := ⟨_, _, tick_loadWord x⟩
  obtain ⟨u, hu, hfetch⟩ := h.fetch hd
  have hbins : u.bins = none := by
    obtain ⟨cs, as, rfl⟩ := hu
    rfl
  have hissue := State.issuePath_fetched (o := placedOffer i) h.warp? (h.breaks _) hfetch hbins
  have hage : (State.reset.loadWord x).tick.ageAll ([placedOffer i].filter (fun o => o != placedOffer i)) =
      (State.reset.loadWord x).tick := by
    simp [State.ageAll]
  refine ⟨u, hu, ?_⟩
  rw [step, State.nextAction_issue rfl (actions_loadWord hd), h.offers hd, hage, hissue]
  rfl

theorem Loaded.mem_issued (h : Loaded x s) : (s.issued i n).mem = [] := by
  obtain ⟨cs, as, rfl⟩ := h
  rfl

theorem Loaded.warp_issued (h : Loaded x s) :
    ((s.issued i n).warp? 0).map (fun w => (w.v, w.sreg, w.m, w.asid, w.mode, w.live)) = some ([], [], [], 0, 0, Mask.full) := by
  obtain ⟨cs, as, rfl⟩ := h
  rfl

end

/-- Settles O57: the loaded line's words are fetched and decoded, nothing hinders the instruction, and nothing else can go on. -/
theorem placedInstructionRuns : Obligations.PlacedInstructionRuns := by
  unfold Obligations.PlacedInstructionRuns
  intro nbits x n i hd
  obtain ⟨u, hu, hstep⟩ := step_loadWord hd
  exact ⟨u.issued i n, hstep, rfl, hu.mem_issued, hu.warp_issued⟩

end Sys2Proof.Machine
end

section
/-! ## Family 05: compares -/
namespace Sys2Proof.Machine

/-! ### What each compare executes -/

section
variable (pf : Option Prefix) (d a b : Code) (lit : Word) (s : State)

theorem exec_cmpEq : exec (.cmpEq pf d a b) s = cmp (.cmpEq pf d a b) pf d a b s (fun x y => x == y) := rfl
theorem exec_cmpNe : exec (.cmpNe pf d a b) s = cmp (.cmpNe pf d a b) pf d a b s (fun x y => x != y) := rfl
theorem exec_cmpLtS : exec (.cmpLtS pf d a b) s = cmp (.cmpLtS pf d a b) pf d a b s (fun x y => x.slt y) := rfl
theorem exec_cmpLeS : exec (.cmpLeS pf d a b) s = cmp (.cmpLeS pf d a b) pf d a b s (fun x y => x.sle y) := rfl
theorem exec_cmpLtU : exec (.cmpLtU pf d a b) s = cmp (.cmpLtU pf d a b) pf d a b s (fun x y => x.ult y) := rfl
theorem exec_cmpLeU : exec (.cmpLeU pf d a b) s = cmp (.cmpLeU pf d a b) pf d a b s (fun x y => x.ule y) := rfl
theorem exec_cmpEqL :
    exec (.cmpEqL pf d a lit) s = runBit (.cmpEqL pf d a lit) pf d s (fun w l => .ok (w.rd a l == lit) 0) := rfl
theorem exec_cmpLtSL :
    exec (.cmpLtSL pf d a lit) s = runBit (.cmpLtSL pf d a lit) pf d s (fun w l => .ok ((w.rd a l).slt lit) 0) := rfl
theorem exec_fcmpEq : exec (.fcmpEq pf d a b) s = fcmp (.fcmpEq pf d a b) .eq pf d a b s := rfl
theorem exec_fcmpLt : exec (.fcmpLt pf d a b) s = fcmp (.fcmpLt pf d a b) .lt pf d a b s := rfl
theorem exec_fcmpLe : exec (.fcmpLe pf d a b) s = fcmp (.fcmpLe pf d a b) .le pf d a b s := rfl
theorem exec_fcmpUn : exec (.fcmpUn pf d a b) s = fcmp (.fcmpUn pf d a b) .un pf d a b s := rfl
theorem exec_fcmpLtL : exec (.fcmpLtL pf d a lit) s = runBit (.fcmpLtL pf d a lit) pf d s (fun w l =>
    okBit ((w.fpType pf).compare .lt (fpBits (w.fpType pf) (w.rd a l)) (fpBits (w.fpType pf) lit))) := rfl

end

section
variable {pf : Option Prefix} {d a b : Code} {s : State} {c : Cur} {w : Warp} {i : Instr}

/-- A compare meets no cause. -/
theorem runBit_writes {F : Warp → Nat → Res Bool} {f : Nat → Bool} {fl : Nat → FpFlags} (he : exec i s = runBit i pf d s F)
    (h : Ready i .none s c w) (hp : Plain s w) (hF : ∀ l, F w l = .ok (f l) (fl l)) : WritesBits i pf d s c w f fl := by
  rw [WritesBits, he]
  exact runBit_ready h hp (fun _ _ => hF _)

theorem cmp_writes {rel R : Word → Word → Bool} (he : exec i s = cmp i pf d a b s rel) (h : Ready i .none s c w) (hp : Plain s w)
    (hR : ∀ x y, rel x y = R x y) : WritesBits i pf d s c w (fun l => R (w.rd a l) (w.rd b l)) (fun _ => 0) :=
  runBit_writes he h hp (fun _ => congrArg (Res.ok · 0) (hR _ _))

theorem fcmp_writes {rel : FpRel} (he : exec i s = fcmp i rel pf d a b s) (h : Ready i .none s c w) (hp : Plain s w) :
    WritesBits i pf d s c w
      (fun l => ((w.fpType pf).compare rel (fpBits (w.fpType pf) (w.rd a l)) (fpBits (w.fpType pf) (w.rd b l))).1)
      (fun l => ((w.fpType pf).compare rel (fpBits (w.fpType pf) (w.rd a l)) (fpBits (w.fpType pf) (w.rd b l))).2) :=
  runBit_writes he h hp (fun _ => rfl)

end

/-! ### The order of the numbers (R112) -/

section
variable {f : FpFmt} {x y : Nat}

/-- Two numbers compare by the order of their keys, but for the zeros, which are equal. -/
theorem FpFmt.compare_numbers (hx : (f.unpack x).isNan = false) (hy : (f.unpack y).isNan = false) :
    f.compare .eq x y = ((f.unpack x).isZero && (f.unpack y).isZero || decide (f.orderKey x = f.orderKey y), 0) ∧
    f.compare .lt x y = (!((f.unpack x).isZero && (f.unpack y).isZero) && decide (f.orderKey x < f.orderKey y), 0) ∧
    f.compare .le x y = ((f.unpack x).isZero && (f.unpack y).isZero || decide (f.orderKey x ≤ f.orderKey y), 0) ∧
    f.compare .un x y = (false, 0) := by
  simp [FpFmt.compare, hx, hy, Fp.isSnan_of_not_nan hx, Fp.isSnan_of_not_nan hy]

/-- With a NaN only the unordered relation holds; the ordered ones raise invalid, the others where a NaN signals. -/
theorem FpFmt.compare_nan (h : (f.unpack x).isNan = true ∨ (f.unpack y).isNan = true) :
    f.compare .eq x y = (false, if (f.unpack x).isSnan || (f.unpack y).isSnan then FpFlags.invalid else 0) ∧
    f.compare .lt x y = (false, FpFlags.invalid) ∧ f.compare .le x y = (false, FpFlags.invalid) ∧
    f.compare .un x y = (true, if (f.unpack x).isSnan || (f.unpack y).isSnan then FpFlags.invalid else 0) := by
  have hany : ((f.unpack x).isNan || (f.unpack y).isNan) = true := by simpa using h
  simp [FpFmt.compare, hany]

theorem FpFmt.finite_of_unpack {s : Bool} {m : Nat} {e : Int} (hx : x < 2 ^ f.width) (h : f.unpack x = .fin s m e) : f.finite x :=
  ⟨hx, by rw [h]; rfl, by rw [h]; rfl⟩

/-- The zeros are the finite patterns of value 0. -/
theorem FpFmt.finite.isZero_iff (h : f.finite x) : (f.unpack x).isZero = true ↔ Fp.value (f.unpack x) = 0 := by
  obtain ⟨s, t, q, -, -, -, hu⟩ := h.exists_digits
  rw [hu, Fp.value_eq_zero_iff]
  simp [Fp.isZero]

/-- Finite patterns have one value only where they are the same pattern or two zeros. -/
theorem FpFmt.value_eq_iff (hx : f.finite x) (hy : f.finite y) : Fp.value (f.unpack x) = Fp.value (f.unpack y) ↔
    ((f.unpack x).isZero && (f.unpack y).isZero) = true ∨ f.orderKey x = f.orderKey y := by
  rw [Bool.and_eq_true, hx.isZero_iff, hy.isZero_iff]
  refine ⟨fun h => ?_, ?_⟩
  · obtain ⟨s, k, hk, rfl⟩ := hx.exists_sign
    obtain ⟨t, j, hj, rfl⟩ := hy.exists_sign
    rw [FpFmt.value_sign hk, FpFmt.value_sign hj] at h ⊢
    by_cases hst : s = t
    · subst hst
      have hkj : f.grid k = f.grid j := by cases s <;> simpa using h
      rw [f.grid_strictMono.injective hkj]
      exact .inr rfl
    · have hs := f.grid_nonneg k
      have ht := f.grid_nonneg j
      left
      cases s <;> cases t <;> simp only [if_true, if_false, Bool.false_eq_true, not_true] at h hst ⊢
      all_goals constructor <;> linarith
  · rintro (⟨hx0, hy0⟩ | hkey)
    · rw [hx0, hy0]
    · rw [FpFmt.orderKey_inj hx.1 hy.1 hkey]

theorem FpFmt.value_lt_iff (hx : f.finite x) (hy : f.finite y) : Fp.value (f.unpack x) < Fp.value (f.unpack y) ↔
    ¬((f.unpack x).isZero && (f.unpack y).isZero) = true ∧ f.orderKey x < f.orderKey y := by
  rw [lt_iff_le_and_ne, ne_eq, FpFmt.value_eq_iff hx hy, not_or]
  constructor
  · rintro ⟨hle, hz, hne⟩
    refine ⟨hz, lt_of_not_ge fun hge => ?_⟩
    have heq := le_antisymm hle (FpFmt.value_le_of_orderKey_le hy hx hge).1
    exact ((FpFmt.value_eq_iff hx hy).mp heq).elim hz hne
  · rintro ⟨hz, hlt⟩
    exact ⟨(FpFmt.value_le_of_orderKey_le hx hy hlt.le).1, hz, hlt.ne⟩

theorem FpFmt.compare_finite (hx : f.finite x) (hy : f.finite y) :
    ((f.compare .lt x y).1 = true ↔ Fp.value (f.unpack x) < Fp.value (f.unpack y)) ∧
    ((f.compare .eq x y).1 = true ↔ Fp.value (f.unpack x) = Fp.value (f.unpack y)) ∧
    ((f.compare .le x y).1 = true ↔ Fp.value (f.unpack x) ≤ Fp.value (f.unpack y)) ∧
    f.compare .un x y = (false, 0) ∧ (f.compare .lt x y).2 = 0 ∧ (f.compare .eq x y).2 = 0 ∧ (f.compare .le x y).2 = 0 := by
  obtain ⟨heq, hlt, hle, hun⟩ := FpFmt.compare_numbers hx.2.1 hy.2.1
  rw [heq, hlt, hle, hun]
  refine ⟨?_, ?_, ?_, rfl, rfl, rfl, rfl⟩
  · rw [FpFmt.value_lt_iff hx hy, Bool.and_eq_true, Bool.not_eq_true', decide_eq_true_eq, Bool.not_eq_true]
  · rw [FpFmt.value_eq_iff hx hy, Bool.or_eq_true, decide_eq_true_eq]
  · rw [Bool.or_eq_true, decide_eq_true_eq, ← not_lt (a := Fp.value _), FpFmt.value_lt_iff hy hx, not_and_or, not_not, not_lt,
      Bool.and_comm]

theorem FpFmt.orderKey_of_inf {s : Bool} (h : f.unpack x = .inf s) :
    f.orderKey x = if s then -(f.infBits : Int) - 1 else f.infBits := by
  obtain ⟨hm, hs⟩ := FpFmt.mag_of_inf h
  rw [FpFmt.orderKey_eq, hm, hs]

/-- The keys of the finite patterns lie between those of the infinities. -/
theorem FpFmt.finite.orderKey_bounds (h : f.finite x) : -(f.infBits : Int) - 1 < f.orderKey x ∧ f.orderKey x < f.infBits := by
  obtain ⟨s, k, hk, rfl⟩ := h.exists_sign
  rw [FpFmt.orderKey_sign (hk.trans f.infBits_lt_signBit)]
  cases s
  · simp only [Bool.false_eq_true, if_false]
    omega
  · simp only [if_true]
    omega

theorem FpFmt.compare_inf_finite {s : Bool} (hx : f.unpack x = .inf s) (hy : f.finite y) :
    f.compare .lt x y = (s, 0) ∧ f.compare .lt y x = (!s, 0) ∧ f.compare .le x y = (s, 0) ∧ f.compare .le y x = (!s, 0) ∧
      f.compare .eq x y = (false, 0) ∧ f.compare .eq y x = (false, 0) ∧ f.compare .un x y = (false, 0) ∧
      f.compare .un y x = (false, 0) := by
  have hnan : (f.unpack x).isNan = false := by rw [hx]; rfl
  have hzero : (f.unpack x).isZero = false := by rw [hx]; rfl
  obtain ⟨heq, hlt, hle, hun⟩ := FpFmt.compare_numbers hnan hy.2.1
  obtain ⟨heq', hlt', hle', hun'⟩ := FpFmt.compare_numbers hy.2.1 hnan
  obtain ⟨hlow, hhigh⟩ := hy.orderKey_bounds
  rw [heq, hlt, hle, hun, heq', hlt', hle', hun', FpFmt.orderKey_of_inf hx, hzero]
  cases s
  · simp [hhigh, hhigh.le, hhigh.ne, hhigh.ne', hhigh.not_gt, hhigh.not_ge]
  · simp [hlow, hlow.le, hlow.ne, hlow.ne', hlow.not_gt, hlow.not_ge]

theorem FpFmt.compare_inf_inf {s t : Bool} (hx : f.unpack x = .inf s) (hy : f.unpack y = .inf t) :
    f.compare .lt x y = (s && !t, 0) ∧ f.compare .le x y = (s || !t, 0) ∧ f.compare .eq x y = (s == t, 0) ∧
      f.compare .un x y = (false, 0) := by
  obtain ⟨heq, hlt, hle, hun⟩ := FpFmt.compare_numbers (f := f) (x := x) (y := y) (by rw [hx]; rfl) (by rw [hy]; rfl)
  have hzero : (f.unpack x).isZero = false := by rw [hx]; rfl
  have hlow : -(f.infBits : Int) - 1 < f.infBits := by omega
  rw [heq, hlt, hle, hun, FpFmt.orderKey_of_inf hx, FpFmt.orderKey_of_inf hy, hzero]
  cases s <;> cases t <;> simp [hlow, hlow.le, hlow.ne, hlow.ne', hlow.not_gt, hlow.not_ge]

end

/-- Settles O3: the instructions are `runBit` with relations that meet no cause; the floating-point relation of two numbers is
that of their order keys, which grow with the values. -/
theorem compareResults : Obligations.CompareResults := by
  unfold Obligations.CompareResults
  simp only [List.forall_mem_cons, List.not_mem_nil, false_imp_iff, implies_true, and_true]
  refine ⟨⟨⟨fun _ _ _ _ _ _ _ h hp => cmp_writes (exec_cmpEq ..) h hp (fun _ _ => rfl),
      fun _ _ _ _ _ _ _ h hp => cmp_writes (R := fun x y => decide (x ≠ y)) (exec_cmpNe ..) h hp (fun _ _ => decide_not.symm),
      fun _ _ _ _ _ _ _ h hp => cmp_writes (exec_cmpLtS ..) h hp (fun _ _ => rfl),
      fun _ _ _ _ _ _ _ h hp => cmp_writes (exec_cmpLeS ..) h hp (fun _ _ => rfl),
      fun _ _ _ _ _ _ _ h hp => cmp_writes (exec_cmpLtU ..) h hp (fun _ _ => rfl),
      fun _ _ _ _ _ _ _ h hp => cmp_writes (exec_cmpLeU ..) h hp (fun _ _ => rfl)⟩,
      fun _ _ _ _ _ _ _ h hp => runBit_writes (exec_cmpEqL ..) h hp (fun _ => rfl),
      fun _ _ _ _ _ _ _ h hp => runBit_writes (exec_cmpLtSL ..) h hp (fun _ => rfl)⟩,
    ⟨fun _ _ _ _ _ _ _ h hp => fcmp_writes (exec_fcmpEq ..) h hp,
      fun _ _ _ _ _ _ _ h hp => fcmp_writes (exec_fcmpLt ..) h hp,
      fun _ _ _ _ _ _ _ h hp => fcmp_writes (exec_fcmpLe ..) h hp,
      fun _ _ _ _ _ _ _ h hp => fcmp_writes (exec_fcmpUn ..) h hp⟩,
    fun _ _ _ _ _ _ _ h hp => runBit_writes (exec_fcmpLtL ..) h hp (fun _ => rfl),
    fun f x y h => ?_, fun f sx sy mx my ex ey x y hx hy hux huy => ?_,
    fun f sx sy m e x y hx hy hux => ⟨fun huy => ?_, fun huy => ?_⟩⟩
  · obtain ⟨heq, hlt, hle, hun⟩ := FpFmt.compare_nan h
    rw [heq, hlt, hle, hun]
    exact ⟨rfl, rfl, rfl, rfl, rfl, rfl, rfl, rfl⟩
  · rw [← hux, ← huy]
    exact FpFmt.compare_finite (FpFmt.finite_of_unpack hx hux) (FpFmt.finite_of_unpack hy huy)
  · exact FpFmt.compare_inf_finite hux (FpFmt.finite_of_unpack hy huy)
  · exact FpFmt.compare_inf_inf hux huy

end Sys2Proof.Machine
end

section
/-! ## Family 05: the integer operations on bits and integers -/
namespace Sys2Proof.Machine

/-! ### Counting bits (R90) -/

theorem allLanes_eq_range : allLanes = List.range 32 := rfl

/-- The first of the lanes where `p` holds, 32 where there is none: `p` holds there and nowhere below. -/
theorem firstLane_spec (p : Nat → Bool) (h : ∃ i, i < 32 ∧ p i = true) : (allLanes.find? p).getD 32 < 32 ∧
    p ((allLanes.find? p).getD 32) = true ∧ ∀ j, j < (allLanes.find? p).getD 32 → p j = false := by
  obtain ⟨i, hi, hpi⟩ := h
  cases hf : allLanes.find? p with
  | none =>
    rw [List.find?_eq_none] at hf
    exact absurd hpi (hf i (by simpa [allLanes_eq_range] using hi))
  | some k =>
    rw [allLanes_eq_range, List.find?_range_eq_some] at hf
    obtain ⟨hpk, hk, hbelow⟩ := hf
    exact ⟨List.mem_range.mp hk, hpk, fun j hj => by simpa using hbelow j hj⟩

/-- A word that is not zero has a bit that is set. -/
theorem exists_bit_of_ne_zero {x : Word} (h : x ≠ 0) : ∃ i, i < 32 ∧ x.getLsbD i = true := by
  by_contra hnone
  push Not at hnone
  exact h (BitVec.eq_of_getLsbD_eq fun i hi => by simpa using hnone i hi)

theorem leading_of_ne_zero {x : Word} (h : x ≠ 0) : leading x < 32 ∧ x.toNat / 2 ^ (31 - leading x) = 1 := by
  obtain ⟨i, hi, hbit⟩ := exists_bit_of_ne_zero h
  obtain ⟨hlt, htop, habove⟩ := firstLane_spec (fun j => x.getLsbD (31 - j)) ⟨31 - i, by omega, by
    rwa [show 31 - (31 - i) = i by omega]⟩
  change leading x < 32 at hlt
  change x.getLsbD (31 - leading x) = true at htop
  change ∀ j, j < leading x → x.getLsbD (31 - j) = false at habove
  refine ⟨hlt, ?_⟩
  have hlow : 2 ^ (31 - leading x) ≤ x.toNat := Nat.ge_two_pow_of_testBit htop
  have hhigh : x.toNat < 2 ^ (31 - leading x + 1) := Nat.lt_pow_two_of_testBit _ fun j hj => by
    rcases Nat.lt_or_ge j 32 with h32 | h32
    · have := habove (31 - j) (by omega)
      rwa [show 31 - (31 - j) = j by omega] at this
    · exact BitVec.getLsbD_of_ge x j h32
  rw [Nat.div_eq_iff (by positivity)]
  rw [pow_succ] at hhigh
  omega

theorem trailing_of_ne_zero {x : Word} (h : x ≠ 0) : trailing x < 32 ∧ x.toNat % 2 ^ (trailing x + 1) = 2 ^ trailing x := by
  obtain ⟨hlt, hbit, hbelow⟩ := firstLane_spec (fun j => x.getLsbD j) (exists_bit_of_ne_zero h)
  change trailing x < 32 at hlt
  change x.toNat.testBit (trailing x) = true at hbit
  change ∀ j, j < trailing x → x.toNat.testBit j = false at hbelow
  refine ⟨hlt, Nat.eq_of_testBit_eq fun j => ?_⟩
  rw [Nat.testBit_mod_two_pow, Nat.testBit_two_pow]
  rcases Nat.lt_trichotomy j (trailing x) with hj | rfl | hj
  · simp [hbelow j hj, hj.ne']
  · simp [hbit]
  · simp [hj.ne, show ¬j < trailing x + 1 by omega]

theorem length_filter_eq_sum {α : Type} (p : α → Bool) (l : List α) : (l.filter p).length = (l.map (fun j => (p j).toNat)).sum := by
  induction l with
  | nil => rfl
  | cons a l ih => cases h : p a <;> simp [h, ih, Nat.add_comm]

theorem popcount_eq (x : Word) : popcount x = ((List.range 32).map (fun j => (x.getLsbD j).toNat)).sum :=
  length_filter_eq_sum _ _

/-- Bit `j` of the number of a list of bits is its element `j`. -/
theorem testBit_natOf (bs : List Bool) (j : Nat) : (reverseBits.natOf bs).testBit j = bs.getD j false := by
  induction bs generalizing j with
  | nil => simp [reverseBits.natOf]
  | cons b r ih =>
    cases j with
    | zero => cases b <;> simp [reverseBits.natOf, Nat.testBit_zero]
    | succ j =>
      have hhalf : ((if b then 1 else 0) + 2 * reverseBits.natOf r) / 2 = reverseBits.natOf r := by
        cases b <;> simp [Nat.add_comm 1, Nat.mul_add_div]
      rw [reverseBits.natOf, Nat.testBit_succ, hhalf, ih]
      rfl

theorem reverseBits_getLsbD (x : Word) {j : Nat} (hj : j < 32) : (reverseBits x).getLsbD j = x.getLsbD (31 - j) := by
  rw [reverseBits, BitVec.getLsbD_ofNat, testBit_natOf, allLanes_eq_range]
  simp [hj]

/-! ### Fields (R93) -/

theorem lowOnes_getLsbD (n : Nat) {j : Nat} (hj : j < 32) : (lowOnes n).getLsbD j = decide (j < n) := by
  rw [lowOnes, BitVec.getLsbD_ofNat, Nat.testBit_two_pow_sub_one]
  simp [hj]

/-- BFI replaces the bits of its field. -/
theorem bfiW_getLsbD (base ins y : Word) {j : Nat} (hj : j < 32) : (bfiW base ins y).getLsbD j =
    if fieldPos y ≤ j ∧ j < fieldPos y + fieldWidth y then ins.getLsbD (j - fieldPos y) else base.getLsbD j := by
  have hm : (lowOnes (fieldWidth y) <<< fieldPos y).getLsbD j = decide (fieldPos y ≤ j ∧ j < fieldPos y + fieldWidth y) := by
    rw [BitVec.getLsbD_shiftLeft, lowOnes_getLsbD _ (by omega), Bool.eq_iff_iff]
    simp
    omega
  simp only [bfiW, BitVec.getLsbD_or, BitVec.getLsbD_and, BitVec.getLsbD_not, hm, hj, decide_true, Bool.true_and]
  split_ifs with h
  · simp [h, hj, show ¬j < fieldPos y by omega, BitVec.getLsbD_eq_getElem (show j - fieldPos y < 32 by omega)]
  · simp [h]

/-- The field of BFX.U as a number. -/
theorem bfxUW_toNat (x y : Word) : (bfxUW x y).toNat = x.toNat / 2 ^ fieldPos y % 2 ^ fieldWidth y := by
  have hw : fieldWidth y ≤ 32 := by rw [fieldWidth_eq]; omega
  have hlt := Nat.mod_lt (x.toNat / 2 ^ fieldPos y) (show 0 < 2 ^ fieldWidth y by positivity)
  have hp : 2 ^ fieldWidth y ≤ 2 ^ 32 := Nat.pow_le_pow_right (by omega) hw
  rw [bfxUW_eq, ← fieldWidth_eq, ← fieldPos_eq, BitVec.toNat_ofNat, Nat.mod_eq_of_lt (by omega)]

/-- A field of no bits is 0. -/
theorem bfxSW_zero (x : Word) {y : Word} (hn : fieldWidth y = 0) : bfxSW x y = 0 := by
  have hzero : bfxUW x y = 0 := BitVec.eq_of_toNat_eq (by rw [bfxUW_toNat, hn, pow_zero, Nat.mod_one]; rfl)
  rw [bfxSW, if_neg (fun h => h.1 hn), hzero]

/-- The top bit of the field stands in the operand at its last position. -/
theorem bfxUW_top (x y : Word) (hn : fieldWidth y ≠ 0) :
    (bfxUW x y).getLsbD (fieldWidth y - 1) = x.getLsbD (fieldPos y + fieldWidth y - 1) := by
  change (bfxUW x y).toNat.testBit _ = x.toNat.testBit _
  rw [bfxUW_toNat, Nat.testBit_mod_two_pow, Nat.testBit_div_two_pow]
  simp only [show fieldWidth y - 1 < fieldWidth y by omega, decide_true, Bool.true_and]
  congr 1
  omega

/-- A number of `n` bits whose bit `n - 1` is given lies in the upper or the lower half. -/
theorem testBit_top_iff {m n : Nat} (hm : m < 2 ^ n) (hn : n ≠ 0) : m.testBit (n - 1) = true ↔ 2 ^ (n - 1) ≤ m := by
  refine ⟨Nat.ge_two_pow_of_testBit, fun h => ?_⟩
  obtain ⟨k, rfl⟩ := Nat.exists_eq_succ_of_ne_zero hn
  rw [Nat.succ_sub_one] at h ⊢
  rw [pow_succ] at hm
  have hone : m / 2 ^ k = 1 := (Nat.div_eq_iff (by positivity)).mpr (by omega)
  rw [Nat.testBit_eq_decide_div_mod_eq, hone]
  rfl

/-- Setting the bits above a number of `n` bits subtracts `2 ^ n` from it, modulo `2 ^ 32`. -/
theorem toNat_or_not_lowOnes {u : Word} {n : Nat} (hn : n ≤ 32) (hu : u.toNat < 2 ^ n) :
    (u ||| ~~~lowOnes n).toNat = u.toNat + (2 ^ 32 - 2 ^ n) := by
  have hp : 2 ^ n ≤ 2 ^ 32 := Nat.pow_le_pow_right (by omega) hn
  have h0 : 0 < 2 ^ n := by positivity
  have hsplit : 2 ^ 32 - 2 ^ n = 2 ^ n * (2 ^ (32 - n) - 1) := by
    rw [Nat.mul_sub, ← Nat.pow_add, Nat.add_sub_cancel' hn, Nat.mul_one]
  have hhigh : (~~~lowOnes n).toNat = 2 ^ 32 - 2 ^ n := by
    rw [BitVec.toNat_not, lowOnes, BitVec.toNat_ofNat, Nat.mod_eq_of_lt (by omega)]
    omega
  rw [BitVec.toNat_or, hhigh, hsplit, Nat.or_comm, ← Nat.two_pow_add_eq_or_of_lt hu, Nat.add_comm]

/-- BFX.S is the field, less `2 ^ n` where its top bit is set. -/
theorem bfxSW_toInt (x y : Word) (hn : fieldWidth y ≠ 0) : (bfxSW x y).toInt =
    ((x.toNat / 2 ^ fieldPos y % 2 ^ fieldWidth y : Nat) : Int) -
      (if x.getLsbD (fieldPos y + fieldWidth y - 1) then 2 ^ fieldWidth y else 0) := by
  have hw : fieldWidth y ≤ 32 := by rw [fieldWidth_eq]; omega
  have hlt : (bfxUW x y).toNat < 2 ^ fieldWidth y := by
    rw [bfxUW_toNat]
    exact Nat.mod_lt _ (by positivity)
  have htop := testBit_top_iff hlt hn
  change (bfxUW x y).getLsbD _ = true ↔ _ at htop
  rw [← bfxUW_toNat, ← bfxUW_top x y hn, bfxSW]
  have hdouble : 2 ^ fieldWidth y = 2 * 2 ^ (fieldWidth y - 1) := by
    rw [← Nat.pow_succ', Nat.succ_eq_add_one, Nat.sub_add_cancel (by omega)]
  have hhalf : 2 ^ (fieldWidth y - 1) ≤ 2 ^ 31 := Nat.pow_le_pow_right (by omega) (by omega)
  by_cases hbit : (bfxUW x y).getLsbD (fieldWidth y - 1) = true
  · have hge := htop.mp hbit
    have hnat := toNat_or_not_lowOnes hw hlt
    rw [if_pos hbit, if_pos ⟨hn, hbit⟩, BitVec.toInt_eq_toNat_cond, hnat, if_neg (by omega)]
    have hcast : (2 : Int) ^ fieldWidth y = ((2 ^ fieldWidth y : Nat) : Int) := by norm_cast
    rw [hcast]
    omega
  · have hlow := not_le.mp (mt htop.mpr hbit)
    rw [if_neg hbit, if_neg (fun h => hbit h.2), BitVec.toInt_eq_toNat_cond, if_pos (by omega)]
    simp

/-! ### Bytes (R95) -/

theorem byteOf_toNat (x : Word) (k : Nat) : (byteOf x k).toNat = x.toNat / 256 ^ k % 256 := by
  rw [byteOf, BitVec.toNat_and, BitVec.toNat_ushiftRight, Nat.shiftRight_eq_div_pow, Nat.pow_mul]
  exact Nat.and_two_pow_sub_one_eq_mod _ 8

theorem selector_toNat (y : Word) (j : Nat) : ((y >>> (4 * j)) &&& 0xF).toNat = y.toNat / 16 ^ j % 16 := by
  rw [BitVec.toNat_and, BitVec.toNat_ushiftRight, Nat.shiftRight_eq_div_pow, Nat.pow_mul]
  exact Nat.and_two_pow_sub_one_eq_mod _ 4

/-- A byte of PERMB by its selector: zero, a byte of the operand, or that byte's sign. -/
theorem permByte_toNat (x y : Word) (j : Nat) :
    let sel := y.toNat / 16 ^ j % 16
    let byte := x.toNat / 256 ^ (sel % 4) % 256
    (permByte x y j).toNat = if 8 ≤ sel then 0 else if sel < 4 then byte else if 128 ≤ byte then 255 else 0 := by
  intro sel byte
  have hsel : sel < 16 := Nat.mod_lt _ (by omega)
  have hbyte : byte < 256 := Nat.mod_lt _ (by omega)
  have hbyteOf : (byteOf x (sel % 4)).toNat = byte := byteOf_toNat x _
  rw [permByte, selector_toNat y j]
  have hsign : (byteOf x (sel % 4)).getLsbD 7 = true ↔ 128 ≤ byte := by
    change (byteOf x (sel % 4)).toNat.testBit (8 - 1) = true ↔ _
    rw [hbyteOf]
    exact testBit_top_iff hbyte (by omega)
  change (if 8 ≤ sel then (0 : Word) else if sel < 4 then byteOf x sel else if (byteOf x (sel - 4)).getLsbD 7 then 0xFF else 0).toNat = _
  by_cases h8 : 8 ≤ sel
  · rw [if_pos h8, if_pos h8]
    rfl
  by_cases h4 : sel < 4
  · rw [if_neg h8, if_neg h8, if_pos h4, if_pos h4, ← hbyteOf, Nat.mod_eq_of_lt h4]
  · rw [if_neg h8, if_neg h8, if_neg h4, if_neg h4, show sel - 4 = sel % 4 by omega]
    by_cases h7 : 128 ≤ byte
    · rw [if_pos h7, if_pos (hsign.mpr h7)]
      rfl
    · rw [if_neg h7, if_neg (mt hsign.mp h7)]
      rfl

theorem permByte_lt (x y : Word) (j : Nat) : (permByte x y j).toNat < 256 := by
  rw [permByte_toNat]
  split_ifs <;> omega

/-- A word put above a number of `n` bits. -/
theorem toNat_or_shiftLeft {u v : Word} {n : Nat} (hu : u.toNat < 2 ^ n) (hv : v.toNat * 2 ^ n < 2 ^ 32) :
    (u ||| v <<< n).toNat = u.toNat + v.toNat * 2 ^ n := by
  rw [BitVec.toNat_or, BitVec.toNat_shiftLeft, Nat.shiftLeft_eq, Nat.mod_eq_of_lt hv, Nat.or_comm, Nat.mul_comm,
    ← Nat.two_pow_add_eq_or_of_lt hu, Nat.add_comm]

theorem permbW_toNat (x y : Word) : (permbW x y).toNat = (permByte x y 0).toNat + (permByte x y 1).toNat * 2 ^ 8 +
    (permByte x y 2).toNat * 2 ^ 16 + (permByte x y 3).toNat * 2 ^ 24 := by
  have h0 := permByte_lt x y 0
  have h1 := permByte_lt x y 1
  have h2 := permByte_lt x y 2
  have h3 := permByte_lt x y 3
  have e1 := toNat_or_shiftLeft (n := 8) h0 (v := permByte x y 1) (by omega)
  have e2 := toNat_or_shiftLeft (n := 16) (u := permByte x y 0 ||| permByte x y 1 <<< 8) (v := permByte x y 2) (by omega) (by omega)
  rw [permbW, toNat_or_shiftLeft (by omega) (by omega), e2, e1]

/-- Each byte of PERMB is the byte that its selector makes. -/
theorem permbW_byte (x y : Word) {j : Nat} (hj : j < 4) : (permbW x y).toNat / 256 ^ j % 256 = (permByte x y j).toNat := by
  have h0 := permByte_lt x y 0
  have h1 := permByte_lt x y 1
  have h2 := permByte_lt x y 2
  have h3 := permByte_lt x y 3
  rw [permbW_toNat]
  interval_cases j <;> norm_num <;> omega

/-! ### Conversion (R100) -/

/-- Comparing with the bounds in turn is clamping between them. -/
theorem clamp_eq {lo hi : Int} (h : lo ≤ hi) (x : Int) :
    (if x < lo then lo else if hi < x then hi else x) = max lo (min hi x) := by
  split_ifs <;> omega

/-- CVTI by its control: the operand as an integer, clamped to the range of the result's type. -/
theorem cvtiW_eq (x y : Word) :
    let n := if y.toNat % 4 = 0 then 8 else if y.toNat % 4 = 1 then 16 else 32
    let v : Int := if y.getLsbD 3 then x.toInt else x.toNat
    cvtiW x y = BitVec.ofInt 32 (if y.getLsbD 2 then max (-(2 ^ (n - 1))) (min (2 ^ (n - 1) - 1) v) else max 0 (min (2 ^ n - 1) v)) := by
  intro n v
  have hwidth : (y.extractLsb' 0 2).toNat = y.toNat % 4 := by simp [BitVec.extractLsb'_toNat]
  have hpos : ∀ k : Nat, (1 : Int) ≤ 2 ^ k := fun k => one_le_pow₀ (by norm_num)
  have h1 := hpos (n - 1)
  have h2 := hpos n
  rw [cvtiW, hwidth]
  change BitVec.ofInt 32 (if v < (if y.getLsbD 2 then -(2 ^ (n - 1)) else 0) then (if y.getLsbD 2 then -(2 ^ (n - 1)) else 0)
    else if (if y.getLsbD 2 then 2 ^ (n - 1) - 1 else 2 ^ n - 1) < v then (if y.getLsbD 2 then 2 ^ (n - 1) - 1 else 2 ^ n - 1)
    else v) = _
  cases y.getLsbD 2
  · simp only [Bool.false_eq_true, if_false]
    rw [clamp_eq (by omega)]
  · simp only [if_true]
    rw [clamp_eq (by omega)]

/-! ### Immediates (R65, R102) -/

theorem shiftLeft_eq_ofNat (x : Word) (n : Nat) : x <<< n = BitVec.ofNat 32 (x.toNat * 2 ^ n) := by
  rw [← Nat.shiftLeft_eq]
  exact BitVec.eq_of_toNat_eq (by simp)

theorem ushiftRight_eq_ofNat (x : Word) (n : Nat) : x >>> n = BitVec.ofNat 32 (x.toNat / 2 ^ n) := by
  rw [← Nat.shiftRight_eq_div_pow, ← BitVec.toNat_ushiftRight, BitVec.ofNat_toNat, BitVec.setWidth_eq]

/-- MOVHI16 puts its immediate above the low half. -/
theorem movhi_eq (i : BitVec 16) (x : Word) :
    (i.setWidth 32 <<< 16) ||| (x &&& 0xFFFF) = BitVec.ofNat 32 (i.toNat * 65536 + x.toNat % 65536) := by
  have hi := i.isLt
  have hwide : (i.setWidth 32).toNat = i.toNat := by rw [BitVec.toNat_setWidth, Nat.mod_eq_of_lt (by omega)]
  have hlow : (x &&& 0xFFFF).toNat = x.toNat % 65536 := by
    rw [BitVec.toNat_and]
    exact Nat.and_two_pow_sub_one_eq_mod _ 16
  apply BitVec.eq_of_toNat_eq
  rw [BitVec.or_comm, toNat_or_shiftLeft (by omega) (by omega), hlow, hwide, BitVec.toNat_ofNat,
    Nat.mod_eq_of_lt (a := i.toNat * 65536 + _) (by omega), Nat.add_comm]
  rfl

theorem movf20_eq (i : BitVec 20) : i.setWidth 32 <<< 12 = BitVec.ofNat 32 (i.toNat * 4096) := by
  have hi := i.isLt
  rw [shiftLeft_eq_ofNat, BitVec.toNat_setWidth, Nat.mod_eq_of_lt (by omega)]
  rfl

/-! ### MODE (R22) -/

theorem modeOk_iff (m : BitVec 16) : modeOk m = true ↔ m.toNat % 16 ≤ 2 ∧ m.toNat / 16 % 8 ≤ 3 ∧ m.toNat / 16384 = 0 := by
  have hm := m.isLt
  have h0 : (m.extractLsb' 0 4).toNat = m.toNat % 16 := by simp [BitVec.extractLsb'_toNat]
  have h4 : (m.extractLsb' 4 3).toNat = m.toNat / 16 % 8 := by simp [BitVec.extractLsb'_toNat, Nat.shiftRight_eq_div_pow]
  have h14 : (m.extractLsb' 14 2).toNat = m.toNat / 16384 := by
    simp only [BitVec.extractLsb'_toNat, Nat.shiftRight_eq_div_pow]
    omega
  rw [modeOk, Bool.and_eq_true, Bool.and_eq_true, decide_eq_true_eq, decide_eq_true_eq, beq_iff_eq, ← BitVec.toNat_inj,
    h0, h4, h14, and_assoc]
  rfl

/-- SETMODE keeps bit 13 of the old value outside supervisor mode. -/
theorem maskedMode_getLsbD (i old : BitVec 16) {k : Nat} (hk : k < 16) :
    ((i &&& ~~~0x2000#16) ||| (old &&& 0x2000#16)).getLsbD k = if k = 13 then old.getLsbD 13 else i.getLsbD k := by
  have hbit : (0x2000#16).getLsbD k = decide (k = 13) := by interval_cases k <;> rfl
  simp only [BitVec.getLsbD_or, BitVec.getLsbD_and, BitVec.getLsbD_not, hbit, hk]
  by_cases h : k = 13
  · subst h
    simp
  · simp [h]

end Sys2Proof.Machine
end

section
/-! ## Family 05: the integer instructions -/
namespace Sys2Proof.Machine

/-! ### What each instruction executes -/

section
variable (pf : Option Prefix) (d a b : Code) (i : BitVec 16) (n : BitVec 5) (k : BitVec 20) (lit : Word) (s : State)

theorem exec_add : exec (.add pf d a b) s = bin (.add pf d a b) pf d a b s (fun x y => x + y) := rfl
theorem exec_sub : exec (.sub pf d a b) s = bin (.sub pf d a b) pf d a b s (fun x y => x - y) := rfl
theorem exec_adds : exec (.adds pf d a b) s = bin (.adds pf d a b) pf d a b s addS := rfl
theorem exec_subs : exec (.subs pf d a b) s = bin (.subs pf d a b) pf d a b s subS := rfl
theorem exec_mullo : exec (.mullo pf d a b) s = bin (.mullo pf d a b) pf d a b s (fun x y => x * y) := rfl
theorem exec_mulhiS : exec (.mulhiS pf d a b) s = bin (.mulhiS pf d a b) pf d a b s mulhiS := rfl
theorem exec_mulhiU : exec (.mulhiU pf d a b) s = bin (.mulhiU pf d a b) pf d a b s mulhiU := rfl
theorem exec_minS : exec (.minS pf d a b) s = bin (.minS pf d a b) pf d a b s minS := rfl
theorem exec_minU : exec (.minU pf d a b) s = bin (.minU pf d a b) pf d a b s minU := rfl
theorem exec_maxS : exec (.maxS pf d a b) s = bin (.maxS pf d a b) pf d a b s maxS := rfl
theorem exec_maxU : exec (.maxU pf d a b) s = bin (.maxU pf d a b) pf d a b s maxU := rfl
theorem exec_and : exec (.and pf d a b) s = bin (.and pf d a b) pf d a b s (fun x y => x &&& y) := rfl
theorem exec_or : exec (.or pf d a b) s = bin (.or pf d a b) pf d a b s (fun x y => x ||| y) := rfl
theorem exec_xor : exec (.xor pf d a b) s = bin (.xor pf d a b) pf d a b s (fun x y => x ^^^ y) := rfl
theorem exec_andn : exec (.andn pf d a b) s = bin (.andn pf d a b) pf d a b s (fun x y => x &&& ~~~y) := rfl
theorem exec_shl : exec (.shl pf d a b) s = bin (.shl pf d a b) pf d a b s shlW := rfl
theorem exec_shr : exec (.shr pf d a b) s = bin (.shr pf d a b) pf d a b s shrW := rfl
theorem exec_sar : exec (.sar pf d a b) s = bin (.sar pf d a b) pf d a b s sarW := rfl
theorem exec_rol : exec (.rol pf d a b) s = bin (.rol pf d a b) pf d a b s rolW := rfl
theorem exec_bfxU : exec (.bfxU pf d a b) s = bin (.bfxU pf d a b) pf d a b s bfxUW := rfl
theorem exec_bfxS : exec (.bfxS pf d a b) s = bin (.bfxS pf d a b) pf d a b s bfxSW := rfl
theorem exec_permb : exec (.permb pf d a b) s = bin (.permb pf d a b) pf d a b s permbW := rfl
theorem exec_cvti : exec (.cvti pf d a b) s = bin (.cvti pf d a b) pf d a b s cvtiW := rfl
theorem exec_abs : exec (.abs pf d a) s = una (.abs pf d a) pf d a s absW := rfl
theorem exec_neg : exec (.neg pf d a) s = una (.neg pf d a) pf d a s (fun x => 0 - x) := rfl
theorem exec_mov : exec (.mov pf d a) s = una (.mov pf d a) pf d a s (fun x => x) := rfl
theorem exec_clz : exec (.clz pf d a) s = una (.clz pf d a) pf d a s (fun x => BitVec.ofNat 32 (leading x)) := rfl
theorem exec_ctz : exec (.ctz pf d a) s = una (.ctz pf d a) pf d a s (fun x => BitVec.ofNat 32 (trailing x)) := rfl
theorem exec_popc : exec (.popc pf d a) s = una (.popc pf d a) pf d a s (fun x => BitVec.ofNat 32 (popcount x)) := rfl
theorem exec_brev : exec (.brev pf d a) s = una (.brev pf d a) pf d a s reverseBits := rfl
theorem exec_addi16 : exec (.addi16 pf d i) s = imm (.addi16 pf d i) pf d s (fun x => x + i.signExtend 32) := rfl
theorem exec_andi16 : exec (.andi16 pf d i) s = imm (.andi16 pf d i) pf d s (fun x => x &&& i.setWidth 32) := rfl
theorem exec_ori16 : exec (.ori16 pf d i) s = imm (.ori16 pf d i) pf d s (fun x => x ||| i.setWidth 32) := rfl
theorem exec_xori16 : exec (.xori16 pf d i) s = imm (.xori16 pf d i) pf d s (fun x => x ^^^ i.setWidth 32) := rfl
theorem exec_movhi16 :
    exec (.movhi16 pf d i) s = imm (.movhi16 pf d i) pf d s (fun x => (i.setWidth 32 <<< 16) ||| (x &&& 0xFFFF)) := rfl
theorem exec_shli : exec (.shli pf d n) s = imm (.shli pf d n) pf d s (fun x => x <<< n.toNat) := rfl
theorem exec_shri : exec (.shri pf d n) s = imm (.shri pf d n) pf d s (fun x => x >>> n.toNat) := rfl
theorem exec_sari : exec (.sari pf d n) s = imm (.sari pf d n) pf d s (fun x => x.sshiftRight n.toNat) := rfl
theorem exec_addL : exec (.addL pf d a lit) s = una (.addL pf d a lit) pf d a s (fun x => x + lit) := rfl
theorem exec_andL : exec (.andL pf d a lit) s = una (.andL pf d a lit) pf d a s (fun x => x &&& lit) := rfl
theorem exec_orL : exec (.orL pf d a lit) s = una (.orL pf d a lit) pf d a s (fun x => x ||| lit) := rfl
theorem exec_xorL : exec (.xorL pf d a lit) s = una (.xorL pf d a lit) pf d a s (fun x => x ^^^ lit) := rfl
theorem exec_mulloL : exec (.mulloL pf d a lit) s = una (.mulloL pf d a lit) pf d a s (fun x => x * lit) := rfl
theorem exec_movL : exec (.movL pf d lit) s = runWord (.movL pf d lit) pf (onceR d []) d s (fun _ _ => .ok lit 0) := rfl
theorem exec_movi20 : exec (.movi20 pf d k) s =
    runWord (.movi20 pf d k) pf (onceR d []) d s (fun _ _ => .ok (k.signExtend 32) 0) := rfl
theorem exec_movf20 : exec (.movf20 pf d k) s =
    runWord (.movf20 pf d k) pf (onceR d []) d s (fun _ _ => .ok (k.setWidth 32 <<< 12) 0) := rfl
theorem exec_sel : exec (.sel pf d a b) s = execSel pf d a b s := rfl
theorem exec_movsr : exec (.movsr pf d a) s = execMovsr pf d a s := rfl
theorem exec_setmode : exec (.setmode i) s = execSetmode i s := rfl

end

/-! ### The shared forms -/

section
variable {pf : Option Prefix} {d a b : Code} {s : State} {c : Cur} {w : Warp} {i : Instr}

theorem bin_writes {op R : Word → Word → Word} (he : exec i s = bin i pf d a b s op) (h : Ready i .none s c w) (hp : Plain s w)
    (hR : ∀ x y, op x y = R x y) :
    WritesWord i pf d (onceR d [a, b]) s c w (fun l => R (w.rd a l) (w.rd b l)) (fun _ => 0) :=
  runWord_writes he h hp (onceFits_onceR ..) (fun _ => congrArg (Res.ok · 0) (hR _ _))

theorem una_writes {op R : Word → Word} (he : exec i s = una i pf d a s op) (h : Ready i .none s c w) (hp : Plain s w)
    (hR : ∀ x, op x = R x) : WritesWord i pf d (onceR d [a]) s c w (fun l => R (w.rd a l)) (fun _ => 0) :=
  runWord_writes he h hp (onceFits_onceR ..) (fun _ => congrArg (Res.ok · 0) (hR _))

theorem imm_writes {op R : Word → Word} (he : exec i s = imm i pf d s op) (h : Ready i .none s c w) (hp : Plain s w)
    (hR : ∀ x, op x = R x) : WritesWord i pf d (onceR d []) s c w (fun l => R (w.rd d l)) (fun _ => 0) :=
  runWord_writes he h hp (onceFits_onceR ..) (fun _ => congrArg (Res.ok · 0) (hR _))

/-! ### SEL (R97) -/

/-- A run of the lanes that no guard holds back, and in which no lane meets a cause, writes every lane. -/
theorem Warp.laneRun_unguarded (hb : w.badReg = []) (ops : List Opnd) (m : Mask) (f : Nat → Word) :
    w.laneRun ops Mask.full false m.lanes (fun l => .ok (f l) 0) (putWord d) 0 = (w.writeLanes d f (fun _ => 0) m.lanes, []) := by
  rw [Warp.laneRun_ok w ops _ _ _ _ _ _ f (fun _ => 0) hb (fun _ _ _ => rfl)]
  refine congrArg (·, []) (List.foldl_ext _ _ _ fun x l hl => ?_)
  have hfull : Mask.full.getLsbD l = true := by
    have hlt := (mem_lanes.mp hl).1
    interval_cases l <;> rfl
  rw [laneEffect, if_pos hfull]
  rfl

/-- What SEL writes in a lane: the first source under its guard bit, else the second. -/
def Warp.selected (w : Warp) (pf : Option Prefix) (a b : Code) (l : Nat) : Word :=
  if (w.guardOf pf).getLsbD l then w.rd a l else w.rd b l

theorem exec_sel_writes (h : Ready (.sel pf d a b) .none s c w) (hp : Plain s w) :
    ∃ w' : Warp, exec (.sel pf d a b) s = .next (s.setWarp c.w w') ∧ w' = (w.afterRetire c false).withRegs w' ∧
      (∀ l, l < 32 → Assoc.get w'.fpflags 0 l = Assoc.get w.fpflags 0 l) ∧
      ∀ r l, l < 32 → w'.rd r l =
        if r = d ∧ classOf d = .lane ∧ c.lanes.getLsbD l = true then w.selected pf a b l else w.rd r l := by
  have hd : OnceFits d false := by
    have hclass : classOf d = .lane ∨ classOf d = .zero := by
      simpa [od, dLane] using h.accepts (o := od d dLane 1) List.mem_cons_self
    rcases hclass with hc | hc <;> simp [OnceFits, hc]
  have hrun : exec (.sel pf d a b) s = .next (s.setWarp c.w ((w.afterRetire c false).withRegs
      (w.writeLanes d (w.selected pf a b) (fun _ => 0) c.lanes.lanes))) := by
    rw [← finishLanes_plain h.warp hp.debug (Warp.writeLanes_withRegs ..)]
    rw [exec_sel, execSel, issue_ready h]
    exact congrArg (fun r => Host.Outcome.next (s.finishLanes c r)) (Warp.laneRun_unguarded hp.sound _ c.lanes _)
  refine ⟨_, hrun, rfl, fun l _ => ?_, fun r l hl => ?_⟩
  · exact (Warp.flags_writeLanes w d _ _ _ l).trans (by simp)
  · rw [Warp.rd_withRegs, Warp.rd_writeLanes hd _ _ _ (fun _ hi => (mem_lanes.mp hi).1) r hl]
    exact if_congr (by simp [mem_lanes, hl, and_assoc]) rfl rfl

/-! ### MOVSR (R98) -/

theorem exec_movsr_word {sel : Code} (h : Ready (.movsr pf d sel) .none s c w) (hp : Plain s w) (hsel : sel ≠ 0x0C) :
    WritesWord (.movsr pf d sel) pf d (onceR d []) s c w (fun l => s.special c w sel l) (fun _ => 0) := by
  refine runWord_writes (F := fun w l => .ok (s.special c w sel l) 0) ?_ h hp (onceFits_onceR ..) (fun _ => rfl)
  rw [exec_movsr, execMovsr, if_neg hsel, h.cur]

theorem exec_movsr_clock (h : Ready (.movsr pf d 0x0C) .none s c w) (hp : Plain s w) (hd : d.toNat % 2 = 0 ∨ d = 0xFF) :
    WritesPair (.movsr pf d 0x0C) pf d s c w (fun _ => s.clock) := by
  have hpair : PairDst d := ⟨h.accepts (o := od d dReg 2) List.mem_cons_self, hd⟩
  have hclass : classOf d = .lane ∨ classOf d = .uniform ∨ d = 0xFF := by
    by_cases hz : d = 0xFF
    · exact .inr (.inr hz)
    · exact (hpair.cases hz).1.imp_right .inl
  rw [WritesPair, exec_movsr, execMovsr, if_pos rfl]
  exact runPair_ready h hp (onceFits_onceR ..) hclass hd (fun _ => rfl) (fun _ _ _ => rfl)

/-! ### SETMODE (R99) -/

/-- SETMODE takes an accepted value whole in supervisor mode, and otherwise all of it but bit 13, which stays. -/
theorem exec_setmode_accepted {i : BitVec 16} (h : Ready (.setmode i) .none s c w) (hp : Plain s w) (hi : modeOk i = true) :
    ∃ m : BitVec 16, exec (.setmode i) s = .next (s.setWarp c.w ({ w with mode := m }.afterRetire c false)) ∧
      (∀ k, k < 16 → k ≠ 13 → m.getLsbD k = i.getLsbD k) ∧
      m.getLsbD 13 = if w.asid = 0 then i.getLsbD 13 else w.mode.getLsbD 13 := by
  refine ⟨if w.supervisor then i else (i &&& ~~~0x2000#16) ||| (w.mode &&& 0x2000#16), ?_, ?_⟩
  · rw [exec_setmode, execSetmode, issue_ready h, if_pos hi]
    exact congrArg _ (State.retireWith_moved h.warp hp.debug _ rfl)
  · rw [Warp.supervisor]
    by_cases hs : w.asid = 0
    · simp [hs]
    · simp only [beq_iff_eq, hs, if_false]
      exact ⟨fun k hk hne => by rw [maskedMode_getLsbD _ _ hk, if_neg hne], by rw [maskedMode_getLsbD _ _ (by omega), if_pos rfl]⟩

theorem exec_setmode_refused {m : BitVec 16} (h : Ready (.setmode m) .none s c w) (hm : ¬modeOk m = true) :
    exec (.setmode m) s = .next (s.raiseWhole c 0x0C 0) := by
  rw [exec_setmode, execSetmode, issue_ready h, if_neg hm]

end

/-- Settles O1: each instruction is one of the forms `bin`, `una` and `imm`, whose lanes meet no cause, or SEL, MOVSR or
SETMODE; the operations are those on integers and bits. -/
theorem integerResults : Obligations.IntegerResults := by
  unfold Obligations.IntegerResults
  refine ⟨?_, ⟨?_, ?_, ?_, ?_, ?_, ?_, ?_⟩, ?_, ?_, ?_, ⟨⟨rfl, rfl⟩, ?_, ?_, ?_, cvtiW_eq⟩, ?_⟩
  · simp only [List.forall_mem_cons, List.not_mem_nil, false_imp_iff, implies_true, and_true]
    exact ⟨fun _ _ _ _ _ _ _ h hp => bin_writes (exec_add ..) h hp (fun _ _ => rfl),
      fun _ _ _ _ _ _ _ h hp => bin_writes (exec_sub ..) h hp (fun _ _ => rfl),
      fun _ _ _ _ _ _ _ h hp => bin_writes (exec_adds ..) h hp (fun _ _ => clampS_eq _),
      fun _ _ _ _ _ _ _ h hp => bin_writes (exec_subs ..) h hp (fun _ _ => clampS_eq _),
      fun _ _ _ _ _ _ _ h hp => bin_writes (exec_mullo ..) h hp (fun _ _ => rfl),
      fun _ _ _ _ _ _ _ h hp => bin_writes (exec_mulhiS ..) h hp mulhiS_eq,
      fun _ _ _ _ _ _ _ h hp => bin_writes (exec_mulhiU ..) h hp mulhiU_eq,
      fun _ _ _ _ _ _ _ h hp => bin_writes (exec_minS ..) h hp minS_eq,
      fun _ _ _ _ _ _ _ h hp => bin_writes (exec_minU ..) h hp minU_eq,
      fun _ _ _ _ _ _ _ h hp => bin_writes (exec_maxS ..) h hp maxS_eq,
      fun _ _ _ _ _ _ _ h hp => bin_writes (exec_maxU ..) h hp maxU_eq,
      fun _ _ _ _ _ _ _ h hp => bin_writes (exec_and ..) h hp (fun _ _ => rfl),
      fun _ _ _ _ _ _ _ h hp => bin_writes (exec_or ..) h hp (fun _ _ => rfl),
      fun _ _ _ _ _ _ _ h hp => bin_writes (exec_xor ..) h hp (fun _ _ => rfl),
      fun _ _ _ _ _ _ _ h hp => bin_writes (exec_andn ..) h hp (fun _ _ => rfl),
      fun _ _ _ _ _ _ _ h hp => bin_writes (exec_shl ..) h hp shlW_eq,
      fun _ _ _ _ _ _ _ h hp => bin_writes (exec_shr ..) h hp shrW_eq,
      fun _ _ _ _ _ _ _ h hp => bin_writes (exec_sar ..) h hp sarW_eq,
      fun _ _ _ _ _ _ _ h hp => bin_writes (exec_rol ..) h hp rolW_eq,
      fun _ _ _ _ _ _ _ h hp => bin_writes (exec_bfxU ..) h hp bfxUW_eq,
      fun _ _ _ _ _ _ _ h hp => bin_writes (exec_bfxS ..) h hp (fun _ _ => rfl),
      fun _ _ _ _ _ _ _ h hp => bin_writes (exec_permb ..) h hp (fun _ _ => rfl),
      fun _ _ _ _ _ _ _ h hp => bin_writes (exec_cvti ..) h hp (fun _ _ => rfl)⟩
  · simp only [List.forall_mem_cons, List.not_mem_nil, false_imp_iff, implies_true, and_true]
    exact ⟨fun _ _ _ _ _ _ h hp => una_writes (exec_abs ..) h hp absW_eq,
      fun _ _ _ _ _ _ h hp => una_writes (exec_neg ..) h hp (fun _ => rfl),
      fun _ _ _ _ _ _ h hp => una_writes (exec_mov ..) h hp (fun _ => rfl),
      fun _ _ _ _ _ _ h hp => una_writes (exec_clz ..) h hp (fun _ => rfl),
      fun _ _ _ _ _ _ h hp => una_writes (exec_ctz ..) h hp (fun _ => rfl),
      fun _ _ _ _ _ _ h hp => una_writes (exec_popc ..) h hp (fun _ => rfl),
      fun _ _ _ _ _ _ h hp => una_writes (exec_brev ..) h hp (fun _ => rfl)⟩
  · simp only [List.forall_mem_cons, List.not_mem_nil, false_imp_iff, implies_true, and_true]
    exact ⟨fun _ _ _ _ _ _ h hp => imm_writes (exec_addi16 ..) h hp (fun _ => rfl),
      fun _ _ _ _ _ _ h hp => imm_writes (exec_andi16 ..) h hp (fun _ => rfl),
      fun _ _ _ _ _ _ h hp => imm_writes (exec_ori16 ..) h hp (fun _ => rfl),
      fun _ _ _ _ _ _ h hp => imm_writes (exec_xori16 ..) h hp (fun _ => rfl),
      fun _ _ i _ _ _ h hp => imm_writes (exec_movhi16 ..) h hp (movhi_eq i)⟩
  · simp only [List.forall_mem_cons, List.not_mem_nil, false_imp_iff, implies_true, and_true]
    exact ⟨fun _ _ _ _ _ _ h hp => imm_writes (exec_shli ..) h hp (shiftLeft_eq_ofNat · _),
      fun _ _ _ _ _ _ h hp => imm_writes (exec_shri ..) h hp (ushiftRight_eq_ofNat · _),
      fun _ _ _ _ _ _ h hp => imm_writes (exec_sari ..) h hp (ofInt_sshiftRight · _)⟩
  · simp only [List.forall_mem_cons, List.not_mem_nil, false_imp_iff, implies_true, and_true]
    exact ⟨fun _ _ _ _ _ _ _ h hp => una_writes (exec_addL ..) h hp (fun _ => rfl),
      fun _ _ _ _ _ _ _ h hp => una_writes (exec_andL ..) h hp (fun _ => rfl),
      fun _ _ _ _ _ _ _ h hp => una_writes (exec_orL ..) h hp (fun _ => rfl),
      fun _ _ _ _ _ _ _ h hp => una_writes (exec_xorL ..) h hp (fun _ => rfl),
      fun _ _ _ _ _ _ _ h hp => una_writes (exec_mulloL ..) h hp (fun _ => rfl)⟩
  · exact fun pf d lit s c w h hp => runWord_writes (exec_movL ..) h hp (onceFits_onceR ..) (fun _ => rfl)
  · exact fun pf d i s c w h hp => runWord_writes (exec_movi20 ..) h hp (onceFits_onceR ..) (fun _ => rfl)
  · exact fun pf d i s c w h hp => runWord_writes (exec_movf20 ..) h hp (onceFits_onceR ..)
      (fun _ => congrArg (Res.ok · 0) (movf20_eq i))
  · exact fun pf d a b s c w h hp => exec_sel_writes h hp
  · refine fun pf d sel s c w h hp => ⟨exec_movsr_word h hp, ?_⟩
    rintro rfl hd
    exact exec_movsr_clock h hp hd
  · exact fun i s c w h hp => ⟨fun hm => exec_setmode_accepted h hp ((modeOk_iff i).mpr hm),
      fun hm => exec_setmode_refused h (mt (modeOk_iff i).mp hm)⟩
  · exact fun x => ⟨leading_of_ne_zero, trailing_of_ne_zero, popcount_eq x, fun j hj => reverseBits_getLsbD x hj⟩
  · intro x ins y pos n
    have hpos : fieldPos y = pos := fieldPos_eq y
    have hn : fieldWidth y = n := fieldWidth_eq y
    rw [← hpos, ← hn]
    exact ⟨fun h0 => bfxSW_zero x h0, bfxSW_toInt x y, fun j hj => bfiW_getLsbD x ins y hj⟩
  · exact fun x y j hj => (permbW_byte x y hj).trans (permByte_toNat x y j)
  · intro d a b i
    simp only [List.forall_mem_cons, List.not_mem_nil, false_imp_iff, implies_true, and_true]
    exact ⟨⟨rfl, rfl, rfl, rfl, rfl, rfl, rfl, rfl, rfl, rfl, rfl, rfl, rfl, rfl, rfl, rfl, rfl, rfl, rfl, rfl, rfl, rfl, rfl⟩,
      ⟨rfl, rfl, rfl, rfl, rfl, rfl, rfl⟩, rfl⟩

end Sys2Proof.Machine
end

section
/-! ## Family 05: division -/
namespace Sys2Proof.Machine

theorem exec_divU (pf : Option Prefix) (d a b : Code) (s : State) :
    exec (.divU pf d a b) s = dvd (.divU pf d a b) pf d a b s (fun x y => x / y) := rfl

/-! ### A stop with no fault log (R353, R354) -/

/-- Without a log the entry is held. -/
theorem State.logOrHold_off {s : State} (h : s.faultlog = 0) (e : List Byte) : s.logOrHold e = s.holdEntry e false := by
  have hfull : (if s.heldLog = [] then s.appendFault e else (.full, s)) = (.full, s) := by
    rw [State.appendFault, h]
    exact ite_self _
  rw [State.logOrHold, State.logEntry, hfull]
  rfl

/-- A stop holds the warp and leaves its `fpflags`. -/
theorem State.stopWarp_fpflags {s : State} {key : Nat} {w : Warp} (hw : s.warp? key = some w) (h : s.faultlog = 0) (c : Cur)
    (f : FaultInfo) (replay : Mask) : ((s.stopWarp key c f replay).warp? key).map Warp.fpflags = some w.fpflags := by
  simp only [State.stopWarp, hw]
  rw [State.logOrHold_off (s := (s.issueTicket _ _ 0 (.warp key)).2) h]
  exact congrArg (Option.map Warp.fpflags) (State.warp?_updWarp_self _ key _ w hw)

/-- A warp outside trap mode, of a launch with no handler, keeps its `fpflags` when it raises a cause that neither parks nor is a
watchpoint. -/
theorem State.raise_fpflags {s : State} {c : Cur} {w : Warp} {x : Cause} (hw : s.warp? c.w = some w) (h : s.faultlog = 0)
    (hcode : x.code = 0x10) (hpre : w.pre = .normal) (htrap : w.trap = none) (hreplay : (w.path c.p).replayOp = none)
    (hhandler : s.headerField w Launch.trap = 0) : ((s.raise c x none).warp? c.w).map Warp.fpflags = some w.fpflags := by
  obtain ⟨-, -, hstop, -⟩ := State.routeH_cases s c (s.infoOf c x) w hw hreplay
  rw [State.raise, if_neg (by omega), if_neg (by omega)]
  dsimp only
  rw [hstop hpre htrap hhandler]
  exact State.stopWarp_fpflags hw h ..

/-! ### A division after which `fpflags` is another list (R92, R26) -/

namespace ListedFlags

/-- Lanes 0 and 1 issue. -/
def cur : Cur := { w := 0, p := 0, lanes := 3, pc := 0x100, len := 1, held := false }

/-- The loaded warp: v1 is 1 in lane 0 and 0 in lane 1, v2 is 7 in lane 0, and the `fpflags` of lane 0, which are clear, are listed. -/
def warp : Warp := { loaderWarp with v := [(32, 1), (64, 7)], fpflags := [(0, 0)] }

/-- The machine in which that warp is about to execute. -/
def state : State := { State.reset.loadWord 0 with warps := [(0, warp)], cur := some cur }

/-- `div.u v3, v2, v1`. -/
abbrev divide : Instr := .divU none 3 2 1

theorem ready : Ready divide .none state cur warp where
  cur := rfl
  warp := rfl
  held := by decide +kernel
  checked := by decide +kernel
  operands := by decide +kernel
  free := by decide +kernel

theorem plain : Plain state warp where
  debug := by decide +kernel
  sound := rfl

/-- The warp once lane 0 has its quotient: no exception was raised in the lane, and its clear flags are no longer listed. -/
def divided : Warp := { warp with v := [(32, 1), (64, 7), (96, 7)], fpflags := [] }

/-- Lane 0 divides, lane 1 meets 0x10. -/
theorem laneRun_divide : warp.laneRun (operandsOf divide) (warp.guardOf none) (warp.zeroPolicy none) cur.lanes.lanes
    (fun l => if warp.rd 1 l = 0 then .bad 1 0x10 0 0 else .ok (warp.rd 2 l / warp.rd 1 l) 0) (putWord 3) 0 =
      (divided, [{ lane := 1, row := 1, code := 0x10, sub := 0, addr := 0 }]) := by decide +kernel

/-- The division raises the cause of lane 1. -/
theorem exec_divide : ∃ z : Cause, z.code = 0x10 ∧ exec divide state = .next ((state.setWarp 0 divided).raise cur z none) := by
  refine ⟨{ code := 0x10, sub := 0, lanes := 2, addrs := [(1, 0)], other := false }, rfl, ?_⟩
  rw [exec_divU, dvd, runWord, runOp, issue_ready ready]
  exact congrArg (fun r => Host.Outcome.next (state.finishLanes cur r)) laneRun_divide

/-- A cause that the warp raises leaves `fpflags`, whatever its registers. -/
theorem raise_fpflags (x : Warp) {z : Cause} (hz : z.code = 0x10) :
    (((state.setWarp 0 (warp.withRegs x)).raise cur z none).warp? 0).map Warp.fpflags = some x.fpflags :=
  State.raise_fpflags (w := warp.withRegs x) rfl (show state.faultlog = 0 by decide +kernel) hz rfl rfl rfl rfl

end ListedFlags

open ListedFlags in
/-- Refutes O2: it says of every division in which a lane meets 0x10 that `fpflags` stays the same list. Where a lane that divides has
its clear flags listed, in a list that is not canonical, raising no exception in the lane drops the entry: the list changes, though
no lane reads other flags. -/
theorem not_divisionAndWideResults : ¬Obligations.DivisionAndWideResults := by
  unfold Obligations.DivisionAndWideResults
  rintro ⟨-, hzero, -⟩
  obtain ⟨-, hlanes⟩ :=
    hzero (Instr.divU, fun x y => BitVec.ofNat 32 (x.toNat / y.toNat)) (by simp) none 3 2 1 state cur warp ready plain
  obtain ⟨w', x, hexec, hcode, -, -, -, hregs, hflags, -⟩ := hlanes (by decide) ⟨1, by decide +kernel⟩
  obtain ⟨z, hz, hdivide⟩ := exec_divide
  have hsame : (state.setWarp 0 divided).raise cur z none = (state.setWarp 0 w').raise cur x none :=
    Host.Outcome.next.inj (hdivide.symm.trans hexec)
  have hread := raise_fpflags w' hcode
  rw [← hregs] at hread
  have hdivided : (((state.setWarp 0 divided).raise cur z none).warp? 0).map Warp.fpflags = some [] := raise_fpflags divided hz
  rw [hsame, hread, hflags] at hdivided
  cases hdivided

end Sys2Proof.Machine
end

section
/-! ## Family 06: fused and packed instructions -/
namespace Sys2Proof.Machine

/-! ### What each instruction executes -/

section
variable (pf : Option Prefix) (d a b : Code) (lit : Word) (s : State)

theorem exec_ffma : exec (.ffma pf d a b) s = execFfma pf d a b s := rfl
theorem exec_ffmaL : exec (.ffmaL pf d a b lit) s = execFfmaL pf d a b lit s := rfl
theorem exec_hadd2 : exec (.hadd2 pf d a b) s = execHadd2 pf d a b s := rfl
theorem exec_hmul2 : exec (.hmul2 pf d a b) s = execHmul2 pf d a b s := rfl
theorem exec_hfma2 : exec (.hfma2 pf d a b) s = execHfma2 pf d a b s := rfl
theorem exec_hdot2 : exec (.hdot2 pf d a b) s = execHdot2 pf d a b s := rfl

end

/-! ### Packed results (R116) -/

/-- A packed result holds what an operation makes of the low halves, and above it what it makes of the high halves. -/
theorem packed_ternary (op : Nat → Nat → Nat → Nat × FpFlags) (x y z : Word) :
    packed (op (elemOf x 0) (elemOf y 0) (elemOf z 0)) (op (elemOf x 1) (elemOf y 1) (elemOf z 1)) =
      .ok (BitVec.ofNat 32 ((op (x.toNat % 65536) (y.toNat % 65536) (z.toNat % 65536)).1 +
          65536 * (op (x.toNat / 65536) (y.toNat / 65536) (z.toNat / 65536)).1))
        ((op (x.toNat % 65536) (y.toNat % 65536) (z.toNat % 65536)).2 |||
          (op (x.toNat / 65536) (y.toNat / 65536) (z.toNat / 65536)).2) := by
  simp only [packed, elemOf_zero, elemOf_one]

theorem packed_binary (op : Nat → Nat → Nat × FpFlags) (x y : Word) :
    packed (op (elemOf x 0) (elemOf y 0)) (op (elemOf x 1) (elemOf y 1)) =
      .ok (BitVec.ofNat 32 ((op (x.toNat % 65536) (y.toNat % 65536)).1 + 65536 * (op (x.toNat / 65536) (y.toNat / 65536)).1))
        ((op (x.toNat % 65536) (y.toNat % 65536)).2 ||| (op (x.toNat / 65536) (y.toNat / 65536)).2) :=
  packed_ternary (fun p q _ => op p q) x y 0

/-- Settles O5: each instruction is a `runWord` whose lanes meet no cause; the packed ones make their two elements apart. -/
theorem fusedAndPackedResults : Obligations.FusedAndPackedResults := by
  unfold Obligations.FusedAndPackedResults
  simp only [List.forall_mem_cons, List.not_mem_nil, false_imp_iff, implies_true, and_true]
  exact ⟨fun _ _ _ _ _ _ _ _ hp =>
      ⟨fun h => runWord_writes (exec_ffma ..) h hp (onceFits_onceR ..) (fun _ => rfl),
        fun h => runWord_writes (exec_ffmaL ..) h hp (onceFits_onceR ..) (fun _ => rfl)⟩,
    fun pf _ _ _ _ _ w hp =>
      ⟨⟨fun h => runWord_writes (exec_hadd2 ..) h hp (onceFits_onceR ..)
            (fun _ => packed_binary (w.packedType.add (w.rounding pf)) ..),
          fun h => runWord_writes (exec_hmul2 ..) h hp (onceFits_onceR ..)
            (fun _ => packed_binary (w.packedType.mul (w.rounding pf)) ..)⟩,
        fun h => runWord_writes (exec_hfma2 ..) h hp (onceFits_onceR ..)
          (fun _ => packed_ternary (w.packedType.fmaElem (w.rounding pf)) ..),
        fun h => runWord_writes (exec_hdot2 ..) h hp (onceFits_onceR ..) (fun _ => rfl)⟩⟩

end Sys2Proof.Machine
end

section
/-! ## Family 06: word instructions of which some lanes meet a cause -/
namespace Sys2Proof.Machine

/-! ### The lanes, one by one (R88) -/

section
variable {α : Type} {w : Warp} {guard : Mask} {f : Nat → Res α} {x : Nat → α} {fl : Nat → FpFlags} {ok : Nat → Bool}
  {row code : Nat}

/-- A lane that runs and passes its check has its effect; one that fails it only adds its cause. -/
theorem Warp.laneStep_checked (hb : w.badReg = []) (ops : List Opnd) (zeroing : Bool) (put : Warp → Nat → α → Warp) (zero : α)
    {l : Nat} (hf : f l = if ok l then .ok (x l) (fl l) else .bad row code 0 0) (acc : Warp × List LaneCause) :
    w.laneStep ops guard zeroing f put zero acc l =
      if guard.getLsbD l && !ok l then (acc.1, acc.2 ++ [{ lane := l, row := row, code := code, sub := 0, addr := 0 }])
      else (laneEffect guard zeroing put zero x fl acc.1 l, acc.2) := by
  rw [Warp.laneStep, laneEffect, badLanes_nil hb, hf]
  cases guard.getLsbD l
  · rfl
  · cases ok l <;> rfl

/-- The lanes that run and fail their check are the causes, in their order; the effects are those of the other lanes. -/
theorem Warp.laneRun_checked (hb : w.badReg = []) (ops : List Opnd) (zeroing : Bool) (lanes : List Nat)
    (put : Warp → Nat → α → Warp) (zero : α) (hf : ∀ l, f l = if ok l then .ok (x l) (fl l) else .bad row code 0 0) :
    w.laneRun ops guard zeroing lanes f put zero =
      ((lanes.filter (fun l => !(guard.getLsbD l && !ok l))).foldl (laneEffect guard zeroing put zero x fl) w,
        (lanes.filter (fun l => guard.getLsbD l && !ok l)).map
          (fun l => { lane := l, row := row, code := code, sub := 0, addr := 0 })) := by
  have hfold : ∀ acc : Warp × List LaneCause, lanes.foldl (w.laneStep ops guard zeroing f put zero) acc =
      ((lanes.filter (fun l => !(guard.getLsbD l && !ok l))).foldl (laneEffect guard zeroing put zero x fl) acc.1,
        acc.2 ++ (lanes.filter (fun l => guard.getLsbD l && !ok l)).map
          (fun l => { lane := l, row := row, code := code, sub := 0, addr := 0 })) := by
    induction lanes with
    | nil => simp
    | cons l ls ih =>
      intro acc
      rw [List.foldl_cons, Warp.laneStep_checked hb _ _ _ _ (hf l), ih]
      simp only [List.filter_cons]
      cases guard.getLsbD l && !ok l
      · rfl
      · exact congrArg _ (List.append_assoc ..)
  simpa [Warp.laneRun] using hfold (w, [])

end

section
variable {pf : Option Prefix} {d : Code} {i : Instr} {s : State} {c : Cur} {w : Warp}

/-- The warp after the writes of the lanes that do not fail the check `ok`. -/
def Warp.wroteChecked (w : Warp) (pf : Option Prefix) (c : Cur) (d : Code) (f : Nat → Word) (fl : Nat → FpFlags)
    (ok : Nat → Bool) : Warp :=
  (c.lanes.lanes.filter (fun l => !((w.guardOf pf).getLsbD l && !ok l))).foldl
    (laneEffect (w.guardOf pf) (w.zeroPolicy pf) (putWord d) 0 f fl) w

theorem Warp.wroteChecked_withRegs (w : Warp) (pf : Option Prefix) (c : Cur) (d : Code) (f : Nat → Word) (fl : Nat → FpFlags)
    (ok : Nat → Bool) : w.wroteChecked pf c d f fl ok = w.withRegs (w.wroteChecked pf c d f fl ok) :=
  laneEffect_keeps (fun a => a = w.withRegs a) _ _ _ (putWord d) 0 f fl w rfl
    (fun a j v _ ha => Warp.withRegs_trans ha (a.wr_withRegs d j v)) (fun a j v ha => Warp.withRegs_trans ha (a.orFlags_withRegs j v))

/-- Those writes leave every other register, and `d` itself in the lanes that run and fail. -/
theorem Warp.rd_wroteChecked_other (ho : OnceFits d false) (w : Warp) (f : Nat → Word) (fl : Nat → FpFlags) {ok : Nat → Bool}
    {r : Code} {l : Nat} (hl : l < 32) (h : r ≠ d ∨ ok l = false ∧ w.runs pf c.lanes l = true) :
    (w.wroteChecked pf c d f fl ok).rd r l = w.rd r l := by
  refine laneEffect_keeps (fun a => a.rd r l = w.rd r l) _ _ _ (putWord d) 0 f fl w rfl (fun a j v hj ha => ?_) (fun _ _ _ ha => ha)
  obtain ⟨hj, hpass⟩ := List.mem_filter.mp hj
  rw [putWord, Warp.rd_wr_lane ho a r v (mem_lanes.mp hj).1 hl, if_neg, ha]
  rintro ⟨⟨rfl, -⟩, rfl⟩
  obtain hne | ⟨hok, hruns⟩ := h
  · exact hne rfl
  · obtain ⟨-, hguard⟩ := Bool.and_eq_true_iff.mp hruns
    simp [hguard, hok] at hpass

/-- The instruction raises `code` in exactly the lanes that run and fail the check `ok`, in which, as in every register but `d`,
nothing is written; the path has not moved on. -/
def FailsIn (i : Instr) (pf : Option Prefix) (d : Code) (s : State) (c : Cur) (w : Warp) (code : Nat) (ok : Nat → Bool) : Prop :=
  ∃ (w' : Warp) (x : Cause), exec i s = .next ((s.setWarp c.w w').raise c x none) ∧
    x.code = code ∧ x.sub = 0 ∧ x.other = false ∧ w' = w.withRegs w' ∧
    (∀ l, l < 32 → x.lanes.getLsbD l = (w.runs pf c.lanes l && !ok l)) ∧
    (∀ r l, l < 32 → (r ≠ d ∨ ok l = false ∧ w.runs pf c.lanes l = true) → w'.rd r l = w.rd r l)

/-- A word instruction in which some lane that runs fails its check. -/
theorem runWord_fails {F : Warp → Nat → Res Word} {f : Nat → Word} {fl : Nat → FpFlags} {ok : Nat → Bool} {row code : Nat}
    (he : exec i s = runWord i pf false d s F) (h : Ready i .none s c w) (hp : Plain s w) (ho : OnceFits d false)
    (hF : ∀ l, F w l = if ok l then .ok (f l) (fl l) else .bad row code 0 0)
    (hfail : ∃ l, l < 32 ∧ w.runs pf c.lanes l = true ∧ ok l = false) : FailsIn i pf d s c w code ok := by
  obtain ⟨l, hl, hruns, hok⟩ := hfail
  obtain ⟨hon, hguard⟩ := Bool.and_eq_true_iff.mp hruns
  obtain ⟨x, hx, hcode, hsub, hother, hlanes⟩ := joinCauses_failing (m := c.lanes)
    (p := fun l => (w.guardOf pf).getLsbD l && !ok l) row code (fun _ => 0) ⟨l, hl, hon, by simp [hguard, hok]⟩
  refine ⟨w.wroteChecked pf c d f fl ok, x, ?_, hcode, hsub, hother, w.wroteChecked_withRegs .., fun l hl => ?_,
    fun r l hl hr => w.rd_wroteChecked_other ho f fl hl hr⟩
  · rw [he, runWord, runOp, issue_ready h, if_neg Bool.false_ne_true, Warp.laneRun_checked hp.sound _ _ _ _ _ hF,
      State.finishLanes, hx, Warp.wroteChecked]
  · rw [hlanes l hl, Warp.runs, Bool.and_assoc]

end

end Sys2Proof.Machine
end

section
/-! ## Family 06: conversions -/
namespace Sys2Proof.Machine

/-! ### The controls that R119 lists -/

/-- The control of FCVT.F2I and FCVT.I2F: an integer width and a scalar format. -/
def scalarControl (b : Word) : Bool := (intWidth (b.toNat / 4 % 4)).isSome && (scalarFmt (b.toNat % 4)).isSome

/-- The control of FCVT.F2F: two formats. -/
def formatControl (b : Word) : Bool := (anyFmt (b.toNat / 16 % 8)).isSome && (anyFmt (b.toNat % 8)).isSome

/-- A conversion delivers a value for the controls of `ok`, and meets 0x16 for all others. -/
def ChecksControl (op : Nat → Word → Word → Res Word) (ok : Word → Bool) : Prop :=
  ∀ (mode : Nat) (a b : Word), op mode a b =
    if ok b then .ok ((op mode a b).got 0).1 ((op mode a b).got 0).2 else .bad 1 0x16 0 0

theorem toNat_field (b : Word) (k n : Nat) : (b.extractLsb' k n).toNat = b.toNat / 2 ^ k % 2 ^ n := by
  rw [BitVec.extractLsb'_toNat, Nat.shiftRight_eq_div_pow]

theorem f2i_checks : ChecksControl f2i scalarControl := by
  intro mode a b
  simp only [f2i, scalarControl, toNat_field, pow_zero, Nat.div_one, Nat.reducePow]
  cases intWidth (b.toNat / 4 % 4)
  case none => rfl
  case some n => cases scalarFmt (b.toNat % 4) <;> rfl

theorem i2f_checks : ChecksControl i2f scalarControl := by
  intro mode a b
  simp only [i2f, scalarControl, toNat_field, pow_zero, Nat.div_one, Nat.reducePow]
  cases intWidth (b.toNat / 4 % 4)
  case none => rfl
  case some n => cases scalarFmt (b.toNat % 4) <;> rfl

theorem f2f_checks : ChecksControl f2f formatControl := by
  intro mode a b
  simp only [f2f, formatControl, toNat_field, pow_zero, Nat.div_one, Nat.reducePow]
  cases anyFmt (b.toNat / 16 % 8)
  case none => rfl
  case some f => cases anyFmt (b.toNat % 8) <;> rfl

/-! ### What each instruction executes -/

section
variable (pf : Option Prefix) (d a b : Code) (s : State)

theorem exec_fcvtF2i : exec (.fcvtF2i pf d a b) s = fcvt (.fcvtF2i pf d a b) pf d a b s f2i := rfl
theorem exec_fcvtI2f : exec (.fcvtI2f pf d a b) s = fcvt (.fcvtI2f pf d a b) pf d a b s i2f := rfl
theorem exec_fcvtF2f : exec (.fcvtF2f pf d a b) s = fcvt (.fcvtF2f pf d a b) pf d a b s f2f := rfl

end

/-! ### The shared form -/

section
variable {pf : Option Prefix} {d a b : Code} {i : Instr} {s : State} {c : Cur} {w : Warp} {op : Nat → Word → Word → Res Word}
  {ok : Word → Bool}

/-- Under listed controls a conversion completes. -/
theorem fcvt_writes (hop : ChecksControl op ok) (he : exec i s = fcvt i pf d a b s op) (h : Ready i .none s c w) (hp : Plain s w)
    (honce : onceR d [a, b] = true → ok (w.rd b 0) = true)
    (hlanes : onceR d [a, b] = false → ∀ l, w.runs pf c.lanes l = true → ok (w.rd b l) = true) :
    WritesWord i pf d (onceR d [a, b]) s c w (fun l => ((op (w.rounding pf) (w.rd a l) (w.rd b l)).got 0).1)
      (fun l => ((op (w.rounding pf) (w.rd a l) (w.rd b l)).got 0).2) := by
  have hlisted : ∀ l, ok (w.rd b l) = true → op (w.rounding pf) (w.rd a l) (w.rd b l) =
      .ok ((op (w.rounding pf) (w.rd a l) (w.rd b l)).got 0).1 ((op (w.rounding pf) (w.rd a l) (w.rd b l)).got 0).2 :=
    fun l hl => (hop ..).trans (if_pos hl)
  rw [WritesWord, he]
  exact runWord_ready h hp (onceFits_onceR ..) (fun ho => hlisted 0 (honce ho)) (fun ho l hl => hlisted l (hlanes ho l hl))

/-- Executed once, a control that is not listed is a cause of the whole path. -/
theorem fcvt_raisesWhole (hop : ChecksControl op ok) (he : exec i s = fcvt i pf d a b s op) (h : Ready i .none s c w)
    (honce : onceR d [a, b] = true) (hbad : ok (w.rd b 0) = false) : exec i s = .next (s.raiseWhole c 0x16 0) := by
  rw [he, fcvt, runWord, runOp, issue_ready h, if_pos honce, hop, if_neg (by simp [hbad])]

/-- Executed lane by lane, a control that is not listed is a cause of the lane that holds it. -/
theorem fcvt_fails (hop : ChecksControl op ok) (he : exec i s = fcvt i pf d a b s op) (h : Ready i .none s c w) (hp : Plain s w)
    (honce : onceR d [a, b] = false) (hbad : ∃ l, l < 32 ∧ w.runs pf c.lanes l = true ∧ ok (w.rd b l) = false) :
    FailsIn i pf d s c w 0x16 (fun l => ok (w.rd b l)) := by
  rw [fcvt, honce] at he
  exact runWord_fails he h hp (honce ▸ onceFits_onceR d [a, b]) (fun _ => hop ..) hbad

end

/-- Settles O6: a conversion is a `runWord` whose lanes meet no cause but that of a control R119 does not list. -/
theorem conversionResults : Obligations.ConversionResults := by
  unfold Obligations.ConversionResults
  simp only [List.forall_mem_cons, List.not_mem_nil, false_imp_iff, implies_true, and_true]
  exact ⟨⟨fun _ _ _ _ _ _ _ h hp => fcvt_writes f2i_checks (exec_fcvtF2i ..) h hp,
      fun _ _ _ _ _ _ _ h hp => fcvt_writes i2f_checks (exec_fcvtI2f ..) h hp,
      fun _ _ _ _ _ _ _ h hp => fcvt_writes f2f_checks (exec_fcvtF2f ..) h hp⟩,
    fun _ _ _ _ _ _ _ h hp =>
      ⟨fcvt_raisesWhole f2i_checks (exec_fcvtF2i ..) h, fcvt_fails f2i_checks (exec_fcvtF2i ..) h hp⟩,
    fun _ _ _ _ _ _ _ h hp =>
      ⟨fcvt_raisesWhole i2f_checks (exec_fcvtI2f ..) h, fcvt_fails i2f_checks (exec_fcvtI2f ..) h hp⟩,
    fun _ _ _ _ _ _ _ h hp =>
      ⟨fcvt_raisesWhole f2f_checks (exec_fcvtF2f ..) h, fcvt_fails f2f_checks (exec_fcvtF2f ..) h hp⟩⟩

end Sys2Proof.Machine
end

section
/-! ## Family 07: EXIT, NOP, YIELD, WAIT and its release -/
namespace Sys2Proof.Machine

theorem exec_exit (s : State) : exec .exit s = execExit s := rfl
theorem exec_nop (s : State) : exec .nop s = execNop s := rfl
theorem exec_yield (s : State) : exec .yield s = execYield s := rfl
theorem exec_wait (l st cp tl : BitVec 6) (s : State) : exec (.wait l st cp tl) s = execWait l st cp tl s := rfl
theorem exec_waitRelease (key : Nat) (s : State) : exec (.waitRelease key) s = execWaitRelease key s := rfl

/-- Where no operation and no batch holds a cause, none is delivered (R294, R307). -/
theorem State.deliverHeld_none (s : State) (c : Cur) {es : List (Nat × EngOp)} {bs : List Batch} (he : heldOps es = [])
    (hb : heldBatches bs = []) : s.deliverHeld c es bs = none := by
  simp only [State.deliverHeld, he, hb]
  rfl

/-- With no debugger, closing an instruction after its warp has changed is `closed` of the changed warp. -/
theorem State.setWarp_finish {s : State} {c : Cur} {w x : Warp} (hw : s.warp? c.w = some w) (hd : s.debugOn w = false)
    (hx : x.asid = w.asid) (resets : Bool) : (s.setWarp c.w x).finish c resets = s.setWarp c.w (x.closed c.p resets) := by
  have hself := State.warp?_setWarp_self x hw
  have hdx : (s.setWarp c.w x).debugOn x = false := by simpa [State.debugOn, hx] using hd
  rw [State.finish_plain _ c x resets hself hdx, State.updWarp_eq_setWarp _ _ _ x hself, State.setWarp_setWarp]
  rfl

/-! ### EXIT (R130, R152) -/

/-- Losing lanes moves paths and takes the lanes from the live ones, nothing else. -/
theorem Warp.samePaths_loseLanes (w : Warp) (p : Nat) (m : Mask) :
    ({ w with live := w.live &&& ~~~m } : Warp).SamePaths (w.loseLanes p m) := by
  simp only [Warp.loseLanes]
  split
  · exact Warp.SamePaths.trans ⟨rfl⟩ (Warp.samePaths_leave _ _)
  · exact ⟨rfl⟩

theorem Warp.loseLanes_live (w : Warp) (p : Nat) (m : Mask) : (w.loseLanes p m).live = w.live &&& ~~~m := by
  obtain ⟨h⟩ := w.samePaths_loseLanes p m
  rw [h]

theorem Warp.loseLanes_asid (w : Warp) (p : Nat) (m : Mask) : (w.loseLanes p m).asid = w.asid := by
  obtain ⟨h⟩ := w.samePaths_loseLanes p m
  rw [h]

section
variable {s : State} {c : Cur} {w : Warp}

/-- Outside trap mode the lanes of the issuing path end. -/
theorem State.endLanes_normal (hw : s.warp? c.w = some w) (ht : w.trap = none) :
    s.endLanes c = s.setWarp c.w (w.loseLanes c.p (w.path c.p).mask) := by
  rw [State.endLanes, State.updWarp_eq_setWarp _ _ _ w hw]
  simp only [ht]

/-- EXIT outside trap mode ends the lanes of its path; the last lanes of the warp end the warp. -/
theorem State.exitLanes_normal (hw : s.warp? c.w = some w) (hd : s.debugOn w = false) (ht : w.trap = none) :
    s.exitLanes c w =
      let t := s.setWarp c.w ((w.loseLanes c.p (w.path c.p).mask).closed c.p false)
      if w.live &&& ~~~(w.path c.p).mask = 0 then t.exited c.w w else t := by
  have hfinish := State.setWarp_finish hw hd (w.loseLanes_asid c.p (w.path c.p).mask) false
  have hlive : ((w.loseLanes c.p (w.path c.p).mask).closed c.p false).live = w.live &&& ~~~(w.path c.p).mask :=
    w.loseLanes_live _ _
  simp only [State.exitLanes, State.endLanes_normal hw ht, hfinish, ht, State.warp?_setWarp_self _ hw, Option.any_some, hlive,
    Option.isSome_none, Bool.false_eq_true, if_false, beq_iff_eq]

/-- EXIT with nothing to deliver, outside save and restore mode. -/
theorem exec_exit_ready (h : Ready .exit .none s c w) (hpre : w.pre = .normal) (he : heldOps (s.opsOf c.w) = [])
    (hb : heldBatches w.batches = []) : exec .exit s = .next (s.exitLanes c w) := by
  rw [exec_exit, execExit, issue_ready h, if_pos hpre, State.deliverHeld_none s c he hb]

end

/-! ### WAIT (R146) -/

/-- The fields of a WAIT are met: each is 63, or its counter has fallen to it. -/
theorem Warp.waitMet_iff {w : Warp} {l st cp tl : BitVec 6} : w.waitMet l st cp tl = true ↔
    ∀ e ∈ [(l, w.loads), (st, w.stores), (cp, w.copies), (tl, w.tiles)], e.1.toNat = 63 ∨ e.2.length ≤ e.1.toNat := by
  have hfield (f : BitVec 6) : f = 63#6 ↔ f.toNat = 63 := BitVec.toNat_inj.symm
  simp [Warp.waitMet, hfield, and_assoc]

theorem Warp.not_waitMet {w : Warp} {l st cp tl : BitVec 6}
    (h : ∃ e ∈ [(l, w.loads), (st, w.stores), (cp, w.copies), (tl, w.tiles)], e.1.toNat ≠ 63 ∧ e.1.toNat < e.2.length) :
    w.waitMet l st cp tl = false := by
  obtain ⟨e, he, hfield, hmore⟩ := h
  refine Bool.eq_false_iff.mpr fun hmet => ?_
  rcases Warp.waitMet_iff.mp hmet e he with h63 | hless
  · exact hfield h63
  · exact absurd hmore (not_lt.mpr hless)

section
variable {s : State} {c : Cur} {w : Warp} {l st cp tl : BitVec 6}

/-- A WAIT that is met, with nothing to deliver, retires. -/
theorem exec_wait_met (h : Ready (.wait l st cp tl) .none s c w) (hd : s.debugOn w = false) (hmet : w.waitMet l st cp tl = true)
    (hops : heldOps (s.waitOps c.w w cp tl) = []) :
    exec (.wait l st cp tl) s = .next (s.setWarp c.w (w.afterRetire c false)) := by
  rw [exec_wait, execWait, issue_ready h, if_pos hmet, State.deliverHeld_none s c hops rfl, State.retire_plain s c w h.warp hd]

/-- A WAIT that is not met holds its warp. -/
theorem exec_wait_holds (h : Ready (.wait l st cp tl) .none s c w) (hmet : w.waitMet l st cp tl = false) :
    exec (.wait l st cp tl) s =
      .next (s.setWarp c.w { w with held := some { why := .wait, cur := c, i := some (.wait l st cp tl) } }) := by
  rw [exec_wait, execWait, issue_ready h, hmet, if_neg Bool.false_ne_true, State.updWarp_eq_setWarp _ _ _ w h.warp]

/-- The release of a held WAIT that is met, with nothing to deliver, ends the hold and retires the WAIT. -/
theorem exec_waitRelease_met {key : Nat} {h : Held} (hw : s.warp? key = some w) (hheld : w.held = some h) (hwhy : h.why = .wait)
    (hi : h.i = some (.wait l st cp tl)) (hkey : h.cur.w = key) (hd : s.debugOn w = false) (hmet : w.waitMet l st cp tl = true)
    (hops : heldOps (s.waitOps key { w with held := none } cp tl) = []) :
    exec (.waitRelease key) s = .next (s.setWarp key ({ w with held := none }.afterRetire h.cur false)) := by
  subst hkey
  have hready : s.waitReady h.cur.w = true := by simp only [State.waitReady, hw, hheld, hwhy, hi, hmet]
  have hops' : heldOps ((s.setWarp h.cur.w { w with held := none }).waitOps h.cur.w w cp tl) = [] := hops
  rw [exec_waitRelease, execWaitRelease, hw]
  simp only [hheld, hready, hi, if_true, State.updWarp_eq_setWarp _ _ _ w hw]
  rw [State.deliverHeld_none _ _ hops' rfl]
  exact congrArg Host.Outcome.next (State.setWarp_retire hw hd rfl)

end

/-- Settles O11: EXIT ends its path's lanes; NOP, YIELD and a WAIT that is met retire, at issue or at its release. -/
theorem exitAndWaiting : Obligations.ExitAndWaiting := by
  unfold Obligations.ExitAndWaiting
  refine ⟨fun s c w h hp hpre ht he hb => ?_,
    fun l st cp tl s c w hp => ⟨fun h => ?_, fun h => ?_, fun h => ⟨fun hmet hops => ?_, fun hmore => ?_⟩⟩,
    fun key h l st cp tl s w hw hheld hwhy hi hkey hd hmet hops => ?_⟩
  · rw [exec_exit_ready h hpre he hb, State.exitLanes_normal h.warp hp.debug ht]
    exact ⟨fun hlive => by rw [if_neg hlive], fun hlive => by rw [if_pos hlive]⟩
  · rw [exec_nop, execNop, issue_ready h, State.retire_plain s c w h.warp hp.debug]
  · rw [exec_yield, execYield, issue_ready h, State.retireWith_moved h.warp hp.debug _ rfl]
  · exact exec_wait_met h hp.debug (Warp.waitMet_iff.mpr hmet) hops
  · exact exec_wait_holds h (Warp.not_waitMet hmore)
  · exact exec_waitRelease_met hw hheld hwhy hi hkey hd (Warp.waitMet_iff.mpr hmet) hops

end Sys2Proof.Machine
end

section
/-! ## Family 07: a divergent branch, and the join point -/
namespace Sys2Proof.Machine

theorem exec_jpt (f : BitVec 20) (s : State) : exec (.jpt f) s = execJpt f s := rfl
theorem exec_join (s : State) : exec .join s = execJoin s := rfl

/-! ### The groups of lanes with two targets (R169) -/

/-- The groups of lanes that go to `lo` and lanes that go to `hi`, of which either may be missing. -/
def twoGroups (lo hi : DWord) (a b : Mask) : List Branch :=
  (if a = 0 then [] else [{ target := lo, lanes := a }]) ++ (if b = 0 then [] else [{ target := hi, lanes := b }])

theorem or_bit_ne_zero (a : Mask) {l : Nat} (hl : l < 32) : a ||| Mask.bit l ≠ 0#32 := by
  intro h
  have hbit := congrArg (fun m : Mask => m.getLsbD l) h
  simp [bit_getLsbD l l hl] at hbit

section
variable {lo hi : DWord} {l : Nat}

theorem addLane_lo (h : lo < hi) (hl : l < 32) (a b : Mask) :
    addLane (twoGroups lo hi a b) lo l = twoGroups lo hi (a ||| Mask.bit l) b := by
  have hne : lo ≠ hi := BitVec.ne_of_lt h
  have hbit : Mask.bit l ≠ 0#32 := by simpa using or_bit_ne_zero 0 hl
  by_cases ha : a = 0#32
  · by_cases hb : b = 0#32 <;> simp [twoGroups, addLane, ha, hb, hbit, hne, h]
  · simp [twoGroups, addLane, ha, or_bit_ne_zero a hl]

theorem addLane_hi (h : lo < hi) (hl : l < 32) (a b : Mask) :
    addLane (twoGroups lo hi a b) hi l = twoGroups lo hi a (b ||| Mask.bit l) := by
  have hne : hi ≠ lo := (BitVec.ne_of_lt h).symm
  have hnot : ¬hi < lo := BitVec.lt_asymm h
  have hbit : Mask.bit l ≠ 0#32 := by simpa using or_bit_ne_zero 0 hl
  by_cases hb : b = 0#32
  · by_cases ha : a = 0#32 <;> simp [twoGroups, addLane, ha, hb, hbit, hne, hnot]
  · by_cases ha : a = 0#32 <;> simp [twoGroups, addLane, ha, hb, hne, hnot, or_bit_ne_zero b hl]

/-- Lanes with two targets form the group of each target, the lower target first. -/
theorem branches_twoTargets (h : lo < hi) {ls : List Nat} (hls : ∀ l ∈ ls, l < 32) {f : Nat → DWord}
    (hf : ∀ l ∈ ls, f l = lo ∨ f l = hi) :
    branches (ls.map (fun l => (l, f l))) =
      twoGroups lo hi (maskOf (ls.filter (fun l => f l = lo))) (maskOf (ls.filter (fun l => f l = hi))) := by
  have hne : lo ≠ hi := BitVec.ne_of_lt h
  have more : ∀ (r : List Nat) (a b : Mask), (∀ l ∈ r, l < 32) → (∀ l ∈ r, f l = lo ∨ f l = hi) →
      (r.map (fun l => (l, f l))).foldl (fun gs e => addLane gs e.2 e.1) (twoGroups lo hi a b) =
        twoGroups lo hi ((r.filter (fun l => f l = lo)).foldl (fun (m : Mask) i => m ||| Mask.bit i) a)
          ((r.filter (fun l => f l = hi)).foldl (fun (m : Mask) i => m ||| Mask.bit i) b) := by
    intro r
    induction r with
    | nil => exact fun _ _ _ _ => rfl
    | cons l r ih =>
      intro a b hr hfr
      obtain ⟨hl, hr⟩ := List.forall_mem_cons.mp hr
      obtain ⟨hfl, hfr⟩ := List.forall_mem_cons.mp hfr
      rw [List.map_cons, List.foldl_cons]
      rcases hfl with hlo | hhi
      · rw [hlo, addLane_lo h hl, ih _ _ hr hfr]
        simp [hlo, hne]
      · rw [hhi, addLane_hi h hl, ih _ _ hr hfr]
        simp [hhi, hne.symm]
  exact more ls 0 0 hls hf

end

theorem maskOf_filter_lanes {m b : Mask} {p : Nat → Bool} (h : ∀ l, l < 32 → b.getLsbD l = (m.getLsbD l && p l)) :
    maskOf (m.lanes.filter p) = b := by
  apply BitVec.eq_of_getLsbD_eq
  intro l hl
  rw [maskOf_getLsbD _ hl, h l hl, Bool.eq_iff_iff]
  simp [mem_lanes, hl]

theorem twoGroups_of_ne {lo hi : DWord} {a b : Mask} (ha : a ≠ 0) (hb : b ≠ 0) :
    twoGroups lo hi a b = [{ target := lo, lanes := a }, { target := hi, lanes := b }] := by
  rw [twoGroups, if_neg ha, if_neg hb]
  rfl

/-- The groups of the lanes `yes` that go to `t` and the lanes `no` that go on at `n`, in ascending order of target. -/
def InTargetOrder (t n : DWord) (yes no : Mask) (g1 g2 : Branch) : Prop :=
  if t < n then g1 = ⟨t, yes⟩ ∧ g2 = ⟨n, no⟩ else g1 = ⟨n, no⟩ ∧ g2 = ⟨t, yes⟩

/-- The groups of a BRT that some lanes take and some do not. -/
theorem Warp.condGroups_divergent {w : Warp} {c : Cur} {m : BitVec 4} {f : BitVec 20} (hr : (w.path c.p).status = .run)
    (ht : farOff c.pc f ≠ c.next) (hyes : (w.path c.p).mask &&& w.maskReg m.toNat ≠ 0)
    (hno : (w.path c.p).mask &&& ~~~(w.maskReg m.toNat) ≠ 0) :
    ∃ g1 g2 : Branch, w.condGroups c m true f = [g1, g2] ∧
      InTargetOrder (farOff c.pc f) c.next ((w.path c.p).mask &&& w.maskReg m.toNat)
        ((w.path c.p).mask &&& ~~~(w.maskReg m.toNat)) g1 g2 := by
  have htakes : maskOf ((w.path c.p).mask.lanes.filter
      (fun l => (if (w.maskReg m.toNat).getLsbD l == true then farOff c.pc f else c.next) = farOff c.pc f)) =
      (w.path c.p).mask &&& w.maskReg m.toNat :=
    maskOf_filter_lanes (fun l hl => by cases hbit : (w.maskReg m.toNat).getLsbD l <;> simp [hbit, ht.symm])
  have hpasses : maskOf ((w.path c.p).mask.lanes.filter
      (fun l => (if (w.maskReg m.toNat).getLsbD l == true then farOff c.pc f else c.next) = c.next)) =
      (w.path c.p).mask &&& ~~~(w.maskReg m.toNat) :=
    maskOf_filter_lanes (fun l hl => by
      cases hbit : (w.maskReg m.toNat).getLsbD l <;> simp [hbit, ht, hl, -BitVec.getLsbD_eq_getElem])
  have hlanes : ∀ l ∈ (w.path c.p).mask.lanes, l < 32 := fun l hl => (mem_lanes.mp hl).1
  rw [Warp.condGroups, Warp.transferLanes_run hr]
  by_cases hlt : farOff c.pc f < c.next
  · rw [branches_twoTargets hlt hlanes (fun l _ => ite_eq_or_eq ..), htakes, hpasses, twoGroups_of_ne hyes hno]
    exact ⟨_, _, rfl, (if_pos hlt).mpr ⟨rfl, rfl⟩⟩
  · have hgt : c.next < farOff c.pc f := BitVec.lt_of_le_ne (BitVec.not_lt.mp hlt) ht.symm
    rw [branches_twoTargets hgt hlanes (fun l _ => (ite_eq_or_eq ..).symm), htakes, hpasses, twoGroups_of_ne hno hyes]
    exact ⟨_, _, rfl, (if_neg hlt).mpr ⟨rfl, rfl⟩⟩

/-! ### Two groups take the two lowest free entries (R170) -/

section
variable {w : Warp} {p home e e1 e2 : Nat} {r : List Nat} {q : Path} {g g1 g2 : Branch} {k : Xfer} {x nxt : DWord}
  {st : List LoopEntry}

theorem Warp.samePaths_place (w : Warp) (home : Nat) (q : Path) (st : List LoopEntry) (k : Xfer) (x nxt : DWord) (g : Branch) :
    w.SamePaths (w.place home q st k x nxt g) := by
  unfold Warp.place
  split
  · exact .refl w
  · exact ⟨rfl⟩

@[simp] theorem Warp.paths_place_length : (w.place home q st k x nxt g).paths.length = w.paths.length := by
  unfold Warp.place
  split
  · rfl
  · simp [Warp.newSeg]

theorem Warp.seg_place (hfree : w.freePaths = e :: r) : (w.place home q st k x nxt g).seg = w.seg + 1 := by
  simp only [Warp.place, hfree]
  rfl

theorem Warp.nodup_freePaths (w : Warp) : w.freePaths.Nodup := List.Nodup.filter _ (by decide)

theorem Warp.free_ne_free (h : w.freePaths = e1 :: e2 :: r) : e2 ≠ e1 := by
  have hnodup : (e1 :: e2 :: r).Nodup := h ▸ w.nodup_freePaths
  rintro rfl
  exact (List.nodup_cons.mp hnodup).1 List.mem_cons_self

theorem Warp.ne_of_mem_free {i : Nat} (hi : i ∈ w.freePaths) (hs : (w.path p).status ≠ .free) : i ≠ p := by
  rintro rfl
  exact hs (by simpa using (List.mem_filter.mp hi).2)

/-- `place` takes the entry it fills from the free ones. -/
theorem Warp.freePaths_place (hlen : w.paths.length = 8) (hfree : w.freePaths = e :: r) (hhome : (w.path home).status ≠ .free) :
    (w.place home q [] k x nxt g).freePaths = r := by
  have hne : home ≠ e := Warp.ne_of_free hfree hhome
  have hpath := Warp.path_place (q := q) (k := k) (x := x) (nxt := nxt) (g := g) hlen hfree (hlen ▸ Warp.lt_of_status hhome) hne
  have hnodup : (e :: r).Nodup := hfree ▸ w.nodup_freePaths
  have hrest : (w.place home q [] k x nxt g).freePaths = w.freePaths.filter (fun i => i != e) := by
    rw [Warp.freePaths, Warp.freePaths, List.filter_filter]
    refine List.filter_congr fun i _ => ?_
    rw [hpath]
    by_cases hi : i = home
    · subst hi
      simp [hhome]
    · by_cases hie : i = e
      · simp [hie, hne.symm, Path.childOf]
      · simp [hi, hie]
  have hkeep : r.filter (fun i => i != e) = r :=
    List.filter_eq_self.mpr (fun i hi => bne_iff_ne.mpr (fun hie => (List.nodup_cons.mp hnodup).1 (hie ▸ hi)))
  rw [hrest, hfree, List.filter_cons_of_neg (by simp), hkeep]

/-- The path waits with no lane: what `split` makes of a path that is not flat before it places the groups. -/
def Warp.emptied (w : Warp) (p : Nat) : Warp := w.updPath p (fun q => { q with status := .wait, mask := 0 })

theorem Warp.path_emptied (hp : p < w.paths.length) (j : Nat) :
    (w.emptied p).path j = if j = p then { w.path p with status := .wait, mask := 0 } else w.path j :=
  w.path_updPath p j _ hp

/-- The path emptied and its two groups placed. -/
def Warp.placeTwo (w : Warp) (p : Nat) (k : Xfer) (x nxt : DWord) (g1 g2 : Branch) : Warp :=
  ((w.emptied p).place p (w.path p) [] k x nxt g1).place p (w.path p) [] k x nxt g2

theorem Warp.samePaths_placeTwo (w : Warp) (p : Nat) (k : Xfer) (x nxt : DWord) (g1 g2 : Branch) :
    w.SamePaths (w.placeTwo p k x nxt g1 g2) :=
  ((w.samePaths_updPath _ _).trans (Warp.samePaths_place ..)).trans (Warp.samePaths_place ..)

theorem Warp.path_placeTwo (hlen : w.paths.length = 8) (hfree : w.freePaths = e1 :: e2 :: r) (hs : (w.path p).status ≠ .free)
    (j : Nat) :
    (w.placeTwo p k x nxt g1 g2).path j =
      if j = p then { w.path p with status := .wait, mask := 0, kids := (w.path p).kids + 2 }
      else if j = e1 then (w.path p).childOf p w.seg g1
      else if j = e2 then (w.path p).childOf p (w.seg + 1) g2 else w.path j := by
  have hp : p < w.paths.length := Warp.lt_of_status hs
  have hp8 : p < 8 := hlen ▸ hp
  have hempty := Warp.path_emptied hp
  have hwait : ((w.emptied p).path p).status ≠ .free := by simp [hempty]
  have hseg : (w.emptied p).seg = w.seg := rfl
  have hlen0 : (w.emptied p).paths.length = 8 := by simpa [Warp.emptied] using hlen
  have hfree0 : (w.emptied p).freePaths = e1 :: e2 :: r := (Warp.freePaths_updPath _ hs (by simp)).trans hfree
  have hfree1 := Warp.freePaths_place (q := w.path p) (k := k) (x := x) (nxt := nxt) (g := g1) hlen0 hfree0 hwait
  have hpath1 := Warp.path_place (q := w.path p) (k := k) (x := x) (nxt := nxt) (g := g1) hlen0 hfree0 hp8
    (Warp.ne_of_free hfree0 hwait)
  have hwait1 : (((w.emptied p).place p (w.path p) [] k x nxt g1).path p).status ≠ .free := by simpa [hpath1] using hwait
  have hne : e2 ≠ e1 := Warp.free_ne_free hfree
  rw [Warp.placeTwo, Warp.path_place (by simpa using hlen0) hfree1 hp8 (Warp.ne_of_free hfree1 hwait1), Warp.seg_place hfree0]
  by_cases hj : j = p
  · simp [hj, hpath1, hempty]
  · by_cases h1 : j = e1
    · subst h1
      simp [hj, hpath1, hne.symm, hseg]
    · simp [hj, h1, hpath1, hempty, hseg]

/-- A running path whose split is not flat and that is in no loop, with two free entries, of which `e1` and `e2` are the lowest. -/
structure Warp.SplitsApart (w : Warp) (p e1 e2 : Nat) (r : List Nat) : Prop where
  table : w.paths.length = 8
  free : w.freePaths = e1 :: e2 :: r
  run : (w.path p).status = .run
  apart : (w.path p).flat = false
  noLoop : (w.path p).stack = []

theorem Warp.SplitsApart.status_ne_free (h : w.SplitsApart p e1 e2 r) : (w.path p).status ≠ .free := by
  simp [h.run]

/-- The split of such a path into two groups away from its join point. -/
theorem Warp.split_twoGroups (h : w.SplitsApart p e1 e2 r) (hj1 : (w.path p).jp ≠ some g1.target)
    (hj2 : (w.path p).jp ≠ some g2.target) : w.split p [] k x nxt [g1, g2] = w.placeTwo p k x nxt g1 g2 := by
  have hrun := h.status_ne_free
  have hempty : (w.emptied p).freePaths = e1 :: e2 :: r := (Warp.freePaths_updPath _ hrun (by simp)).trans h.free
  have hpath := Warp.path_placeTwo (k := k) (x := x) (nxt := nxt) (g1 := g1) (g2 := g2) h.table h.free hrun
  have hsettle1 : (w.placeTwo p k x nxt g1 g2).settle e1 = w.placeTwo p k x nxt g1 g2 := by
    simp [Warp.settle, hpath, (Warp.ne_of_free h.free hrun).symm, Path.childOf, joinsAt_ne hj1]
  have hsettle2 : (w.placeTwo p k x nxt g1 g2).settle e2 = w.placeTwo p k x nxt g1 g2 := by
    simp [Warp.settle, hpath, Warp.ne_of_mem_free (i := e2) (by simp [h.free]) hrun, Warp.free_ne_free h.free, Path.childOf,
      joinsAt_ne hj2]
  have hmerge : (w.placeTwo p k x nxt g1 g2).merge p 9 = w.placeTwo p k x nxt g1 g2 := by
    simp [Warp.merge, hpath]
  rw [Warp.emptied] at hempty
  simp only [Warp.placeTwo, Warp.emptied] at hsettle1 hsettle2 hmerge
  simp only [Warp.placeTwo, Warp.emptied, Warp.split, h.apart, Path.others, List.filter_cons, List.filter_nil, joinsAt_ne hj1,
    joinsAt_ne hj2, Bool.not_false, if_true, Bool.false_eq_true, if_false, List.foldl_nil, hempty, Warp.holdLanes, Warp.placeAll,
    List.length_cons, List.length_nil, List.drop_succ_cons, List.drop_zero, List.take_succ_cons, List.take_zero, List.foldl_cons,
    Nat.le_add_left, Nat.reduceAdd, hsettle1, hsettle2, hmerge]

end

/-! ### BRT, JPT and JOIN -/

section
variable {s : State} {c : Cur} {w : Warp} {m : BitVec 4} {f : BitVec 20}

theorem Warp.path_closed {p : Nat} (hp : p < w.paths.length) (b : Bool) (j : Nat) :
    (w.closed p b).path j =
      if j = p then { w.path p with replay := none, replayOp := none, passBreak := false, passWatch := false } else w.path j :=
  w.path_updPath p j _ hp

/-- The path table after a transfer that splits a path in two. -/
theorem Warp.path_closed_placeTwo {p e1 e2 : Nat} {r : List Nat} {g1 g2 : Branch} {k : Xfer} {x nxt : DWord}
    (hlen : w.paths.length = 8) (hfree : w.freePaths = e1 :: e2 :: r) (hs : (w.path p).status ≠ .free) (b : Bool) (j : Nat) :
    ((w.placeTwo p k x nxt g1 g2).closed p b).path j =
      if j = p then { w.path p with status := .wait, mask := 0, kids := (w.path p).kids + 2, replay := none, replayOp := none
                                    passBreak := false, passWatch := false }
      else if j = e1 then (w.path p).childOf p w.seg g1
      else if j = e2 then (w.path p).childOf p (w.seg + 1) g2 else w.path j := by
  have hplaced := Warp.path_placeTwo (k := k) (x := x) (nxt := nxt) (g1 := g1) (g2 := g2) hlen hfree hs
  rw [Warp.path_closed (Warp.lt_of_status (by simp [hplaced])), hplaced, hplaced]
  by_cases hj : j = p <;> simp [hj]

/-- With no debugger, a transfer that splits a running path in two leaves the warp with the groups placed. -/
theorem State.retireTransfer_twoGroups {e1 e2 : Nat} {r : List Nat} {g1 g2 : Branch} {k : Xfer} (hw : s.warp? c.w = some w)
    (hd : s.debugOn w = false) (h : w.SplitsApart c.p e1 e2 r) (hj1 : (w.path c.p).jp ≠ some g1.target)
    (hj2 : (w.path c.p).jp ≠ some g2.target) :
    s.retireTransfer c k [g1, g2] = s.setWarp c.w ((w.placeTwo c.p k c.pc c.next g1 g2).closed c.p false) := by
  have hmove : w.transfer c.p k c.pc c.next [g1, g2] = w.placeTwo c.p k c.pc c.next g1 g2 := by
    rw [← Warp.split_twoGroups h hj1 hj2, ← h.noLoop]
    simp [Warp.transfer, h.run]
  obtain ⟨hsame⟩ := w.samePaths_placeTwo c.p k c.pc c.next g1 g2
  rw [State.retireTransfer, State.updWarp_eq_setWarp _ _ _ w hw, hmove, State.setWarp_finish hw hd (by rw [hsame])]

/-- JPT sets the join point of its path. -/
theorem jpt_sets (h : Ready (.jpt f) .none s c w) (hd : s.debugOn w = false) :
    exec (.jpt f) s = .next (s.setWarp c.w
      ((w.updPath c.p (fun q => { q with jp := some (farOff c.pc f) })).afterRetire c false)) := by
  rw [exec_jpt, execJpt, issue_ready h, State.retireWith_moved h.warp hd _ rfl]

/-- JOIN clears the join point of its path. -/
theorem join_clears (h : Ready .join .none s c w) (hd : s.debugOn w = false) (hj : (w.path c.p).jp ≠ none) :
    exec .join s = .next (s.setWarp c.w ((w.updPath c.p (fun q => { q with jp := none })).afterRetire c false)) := by
  obtain ⟨t, ht⟩ := Option.ne_none_iff_exists'.mp hj
  rw [exec_join, execJoin, issue_ready h]
  simp only [ht, State.retireWith_moved h.warp hd (fun w => w.updPath c.p (fun q => { q with jp := none })) rfl]

/-- JOIN of a path without a join point raises 0x0E. -/
theorem join_raises (h : Ready .join .none s c w) (hj : (w.path c.p).jp = none) :
    exec .join s = .next (s.raiseWhole c 0x0E 0) := by
  rw [exec_join, execJoin, issue_ready h]
  simp only [hj]

/-- A divergent BRT leaves its path waiting and its two groups in the two lowest free entries. The kind `k` of the transfer has no
effect where there is no loop (`landing_nil`). -/
theorem brt_splits {e1 e2 : Nat} {r : List Nat} (h : Ready (.brt m f) .none s c w) (hd : s.debugOn w = false)
    (hsplit : w.SplitsApart c.p e1 e2 r) (hnear : (farOff c.pc f).toNat < 2 ^ 56) (ht : farOff c.pc f ≠ c.next)
    (hjt : (w.path c.p).jp ≠ some (farOff c.pc f)) (hjn : (w.path c.p).jp ≠ some c.next)
    (hyes : (w.path c.p).mask &&& w.maskReg m.toNat ≠ 0) (hno : (w.path c.p).mask &&& ~~~(w.maskReg m.toNat) ≠ 0) :
    ∃ (k : Xfer) (g1 g2 : Branch),
      exec (.brt m f) s = .next (s.setWarp c.w ((w.placeTwo c.p k c.pc c.next g1 g2).closed c.p false)) ∧
      InTargetOrder (farOff c.pc f) c.next ((w.path c.p).mask &&& w.maskReg m.toNat)
        ((w.path c.p).mask &&& ~~~(w.maskReg m.toNat)) g1 g2 := by
  obtain ⟨g1, g2, hgroups, horder⟩ := Warp.condGroups_divergent hsplit.run ht hyes hno
  have htargets : (w.path c.p).jp ≠ some g1.target ∧ (w.path c.p).jp ≠ some g2.target := by
    unfold InTargetOrder at horder
    split at horder <;> obtain ⟨rfl, rfl⟩ := horder
    · exact ⟨hjt, hjn⟩
    · exact ⟨hjn, hjt⟩
  obtain ⟨k, hbranch⟩ : ∃ k, s.condBranch c w m true f = s.retireTransfer c k [g1, g2] :=
    ⟨_, hgroups ▸ State.condBranch_near hnear⟩
  refine ⟨k, g1, g2, ?_, horder⟩
  rw [exec_condBranch_ready (e := (.brt m f, true)) List.mem_cons_self h, hbranch,
    State.retireTransfer_twoGroups h.warp hd hsplit htargets.1 htargets.2]

end

/-- Settles O9: the two groups of the BRT are placed by `Warp.placeTwo`; then the path table entry by entry. JPT and JOIN change
the join point of their path, which goes on. -/
theorem divergentBranchSplits : Obligations.DivergentBranchSplits := by
  unfold Obligations.DivergentBranchSplits
  refine ⟨?_, fun _ _ _ _ _ _ _ _ _ _ => rfl, fun f => ⟨rfl, rfl⟩, fun f s c w hp =>
    ⟨fun h => jpt_sets h hp.debug, fun h hj => join_clears h hp.debug hj, fun h hj => join_raises h hj⟩⟩
  intro m f s c w e1 e2 r h hp hlen q t yes no hs hflat hstack _ hnear ht hjt hjn hyes hno hfree
  have hsplit : w.SplitsApart c.p e1 e2 r := ⟨hlen, hfree, hs, hflat, hstack⟩
  have hrun := hsplit.status_ne_free
  obtain ⟨k, g1, g2, hexec, horder⟩ := brt_splits h hp.debug hsplit hnear ht hjt hjn hyes hno
  have hfirst : e1 ≠ c.p := Warp.ne_of_mem_free (by simp [hfree]) hrun
  have hsecond : e2 ≠ c.p := Warp.ne_of_mem_free (by simp [hfree]) hrun
  have hpath := Warp.path_closed_placeTwo (k := k) (x := c.pc) (nxt := c.next) (g1 := g1) (g2 := g2) hlen hfree hrun false
  have hhome := (hpath c.p).trans (if_pos rfl)
  have hchild1 := (hpath e1).trans ((if_neg hfirst).trans (if_pos rfl))
  have hchild2 := (hpath e2).trans ((if_neg hsecond).trans ((if_neg (Warp.free_ne_free hfree)).trans (if_pos rfl)))
  refine ⟨_, hexec, ?_⟩
  rw [hhome, hchild1, hchild2]
  refine ⟨rfl, rfl, rfl, rfl, rfl, rfl, rfl, rfl, rfl, rfl, rfl, ?_,
    fun i hp h1 h2 => (hpath i).trans ((if_neg hp).trans ((if_neg h1).trans (if_neg h2))), ?_⟩
  · change if farOff c.pc f < c.next then _ else _
    unfold InTargetOrder at horder
    split at horder <;> obtain ⟨rfl, rfl⟩ := horder
    · rw [if_pos ‹_›]
      exact ⟨rfl, rfl, rfl, rfl⟩
    · rw [if_neg ‹_›]
      exact ⟨rfl, rfl, rfl, rfl⟩
  · obtain ⟨hsame⟩ := w.samePaths_placeTwo c.p k c.pc c.next g1 g2
    rw [hsame]
    exact ⟨rfl, rfl, rfl, rfl, rfl, rfl⟩

end Sys2Proof.Machine
end

section
/-! ## Family 08: the registers that a load writes -/
namespace Sys2Proof.Machine

/-! ### Consecutive registers (R17) -/

/-- `n` register codes from `d` on stay below z, or `d` is z, which is its own successor. -/
def CodesFit (d : Code) (n : Nat) : Prop := d.toNat + n ≤ 0xFF ∨ d = 0xFF

@[simp] theorem nextCode_zero (d : Code) : nextCode d 0 = d := by simp [nextCode]

@[simp] theorem nextCode_z (j : Nat) : nextCode 0xFF j = 0xFF := rfl

theorem nextCode_toNat {d : Code} {j : Nat} (h : d.toNat + j < 0xFF) : (nextCode d j).toNat = d.toNat + j := by
  have hne : d ≠ 0xFF := by rintro rfl; simp at h
  rw [nextCode, if_neg hne, BitVec.toNat_add, BitVec.toNat_ofNat]
  omega

theorem nextCode_nextCode {d : Code} {n j : Nat} (h : CodesFit d (n + 1)) (hj : j < n) :
    nextCode (nextCode d 1) j = nextCode d (j + 1) := by
  rcases h with h | rfl
  · have hone := nextCode_toNat (d := d) (j := 1) (by omega)
    apply BitVec.eq_of_toNat_eq
    rw [nextCode_toNat (by omega), hone, nextCode_toNat (by omega)]
    omega
  · rfl

theorem CodesFit.next {d : Code} {n : Nat} (h : CodesFit d (n + 1)) : CodesFit (nextCode d 1) n := by
  rcases h with h | rfl
  · rcases Nat.eq_zero_or_pos n with rfl | hn
    · exact .inl (by have := (nextCode d 1).isLt; omega)
    · exact .inl (by rw [nextCode_toNat (by omega)]; omega)
  · exact .inr rfl

theorem nextCode_inj {d : Code} {n i j : Nat} (h : d.toNat + n ≤ 0xFF) (hi : i < n) (hj : j < n)
    (he : nextCode d i = nextCode d j) : i = j := by
  have := congrArg BitVec.toNat he
  rw [nextCode_toNat (by omega), nextCode_toNat (by omega)] at this
  omega

/-- The codes of consecutive lane registers are lane registers. -/
theorem classOf_nextCode_lane {d : Code} {n j : Nat} (h : d.toNat + n ≤ 0x80) (hj : j < n) : classOf (nextCode d j) = .lane :=
  classOf_lane.mpr (by rw [nextCode_toNat (by omega)]; omega)

theorem classOf_nextCode_uniform {d : Code} {n j : Nat} (hd : classOf d = .uniform) (h : d.toNat + n ≤ 0xC0) (hj : j < n) :
    classOf (nextCode d j) = .uniform := by
  have := (classOf_uniform.mp hd).1
  exact classOf_uniform.mpr (by rw [nextCode_toNat (by omega)]; omega)

/-! ### Writing consecutive registers (R135) -/

theorem Warp.wrWords_withRegs (w : Warp) (d : Code) (i : Nat) (xs : List Word) : w.wrWords d i xs = w.withRegs (w.wrWords d i xs) := by
  induction xs generalizing w d with
  | nil => rfl
  | cons x r ih => exact Warp.withRegs_trans (w.wr_withRegs d i x) (ih ..)

theorem Warp.wrWords_fpflags (w : Warp) (d : Code) (i : Nat) (xs : List Word) : (w.wrWords d i xs).fpflags = w.fpflags := by
  induction xs generalizing w d with
  | nil => rfl
  | cons x r ih => exact (ih ..).trans (w.wr_fpflags d i x)

theorem Warp.wrWords_z (w : Warp) (i : Nat) (xs : List Word) : w.wrWords 0xFF i xs = w := by
  induction xs generalizing w with
  | nil => rfl
  | cons x r ih => exact ih w

/-- A register that is none of those written. -/
theorem Warp.rd_wrWords_other {d r : Code} {i l : Nat} (hi : i < 32) (hl : l < 32) (w : Warp) (xs : List Word)
    (hf : CodesFit d xs.length) (hr : ∀ j, j < xs.length → r ≠ nextCode d j) : (w.wrWords d i xs).rd r l = w.rd r l := by
  induction xs generalizing w d with
  | nil => rfl
  | cons x xs ih =>
    have hrest : ∀ j, j < xs.length → r ≠ nextCode (nextCode d 1) j := fun j hj => by
      rw [nextCode_nextCode hf hj]
      exact hr (j + 1) (Nat.succ_lt_succ hj)
    have hfirst : r ≠ d := by simpa using hr 0 (Nat.succ_pos _)
    rw [Warp.wrWords, ih _ hf.next hrest, Warp.rd_wr _ _ _ _ _ _ hi hl, if_neg hfirst]

/-- What a write leaves in its register depends on what the register held, and on nothing else of the warp. -/
theorem Warp.rd_wr_congr {a b : Warp} {r : Code} {i l : Nat} (hi : i < 32) (hl : l < 32) (x : Word) (h : a.rd r l = b.rd r l) :
    (a.wr r i x).rd r l = (b.wr r i x).rd r l := by
  simp only [Warp.rd_wr _ _ _ _ _ _ hi hl, h]

/-- One of the registers written reads as after its own write alone. -/
theorem Warp.rd_wrWords {d : Code} {i l j : Nat} (hi : i < 32) (hl : l < 32) (w : Warp) (xs : List Word)
    (hf : d.toNat + xs.length ≤ 0xFF) (hj : j < xs.length) :
    (w.wrWords d i xs).rd (nextCode d j) l = (w.wr (nextCode d j) i xs[j]).rd (nextCode d j) l := by
  induction xs generalizing w d j with
  | nil => cases hj
  | cons x xs ih =>
    have hfit : CodesFit d (xs.length + 1) := .inl hf
    simp only [List.length_cons] at hf hj
    cases j with
    | zero =>
      rw [Warp.wrWords, Warp.rd_wrWords_other hi hl _ _ hfit.next, nextCode_zero]
      · rfl
      · intro k hk he
        rw [nextCode_nextCode hfit hk] at he
        exact absurd (nextCode_inj hf hj (by omega) he) (by omega)
    | succ j =>
      have hne : nextCode d (j + 1) ≠ d := fun he =>
        absurd (nextCode_inj (j := 0) hf hj (by omega) (he.trans (nextCode_zero d).symm)) (by omega)
      have hone := nextCode_toNat (d := d) (j := 1) (by omega)
      have hkeep : (w.wr d i x).rd (nextCode d (j + 1)) l = w.rd (nextCode d (j + 1)) l := by
        rw [Warp.rd_wr _ _ _ _ _ _ hi hl, if_neg hne]
      rw [Warp.wrWords, ← nextCode_nextCode hfit (Nat.lt_of_succ_lt_succ hj), ih _ (by omega) (by omega),
        nextCode_nextCode hfit (Nat.lt_of_succ_lt_succ hj)]
      exact Warp.rd_wr_congr hi hl _ hkeep

/-- The listed lanes each write their words to consecutive registers. -/
def Warp.writeWords (w : Warp) (d : Code) (f : Nat → List Word) (ls : List Nat) : Warp :=
  ls.foldl (fun x l => x.wrWords d l (f l)) w

section
variable {d : Code} {n : Nat} {f : Nat → List Word} {ls : List Nat}

theorem Warp.writeWords_withRegs (w : Warp) (d : Code) (f : Nat → List Word) (ls : List Nat) :
    w.writeWords d f ls = w.withRegs (w.writeWords d f ls) :=
  foldl_keeps (fun a : Warp => a = w.withRegs a) _ (fun a l ha => Warp.withRegs_trans ha (a.wrWords_withRegs d l (f l))) ls w rfl

theorem Warp.writeWords_fpflags (w : Warp) (d : Code) (f : Nat → List Word) (ls : List Nat) :
    (w.writeWords d f ls).fpflags = w.fpflags :=
  foldl_keeps (fun a : Warp => a.fpflags = w.fpflags) _ (fun a l ha => (a.wrWords_fpflags d l (f l)).trans ha) ls w rfl

theorem Warp.writeWords_z (w : Warp) (f : Nat → List Word) (ls : List Nat) : w.writeWords 0xFF f ls = w :=
  foldl_keeps (fun a : Warp => a = w) _ (fun a l ha => (a.wrWords_z l (f l)).trans ha) ls w rfl

theorem Warp.rd_writeWords_other (w : Warp) {r : Code} {l : Nat} (hn : ∀ i, (f i).length = n) (hls : ∀ i ∈ ls, i < 32)
    (hf : CodesFit d n) (hl : l < 32) (hr : ∀ j, j < n → r ≠ nextCode d j) : (w.writeWords d f ls).rd r l = w.rd r l := by
  unfold Warp.writeWords
  induction ls generalizing w with
  | nil => rfl
  | cons i ls ih =>
    rw [List.foldl_cons, ih _ (fun k hk => hls k (List.mem_cons_of_mem _ hk)),
      Warp.rd_wrWords_other (hls i List.mem_cons_self) hl w _ (by rwa [hn]) (by rwa [hn])]

/-- Consecutive lane registers: a lane that writes holds its own words, the others keep theirs. -/
theorem Warp.rd_writeWords_lane (w : Warp) {l j : Nat} (hn : ∀ i, (f i).length = n) (hls : ∀ i ∈ ls, i < 32)
    (hd : d.toNat + n ≤ 0x80) (hl : l < 32) (hj : j < n) :
    (w.writeWords d f ls).rd (nextCode d j) l = if l ∈ ls then ((f l)[j]?).getD 0 else w.rd (nextCode d j) l := by
  have hc := classOf_nextCode_lane hd hj
  have hone : ∀ a : Warp, ∀ i ∈ ls, (a.wrWords d i (f i)).rd (nextCode d j) l =
      if (nextCode d j = nextCode d j ∧ classOf (nextCode d j) = .lane) ∧ l = i then ((f i)[j]?).getD 0
      else a.rd (nextCode d j) l := fun a i hi => by
    have hji : j < (f i).length := by rwa [hn]
    rw [Warp.rd_wrWords (hls i hi) hl a _ (by rw [hn]; omega) hji, Warp.rd_wr _ _ _ _ _ _ (hls i hi) hl, if_pos rfl, hc]
    simp [hji]
  rw [Warp.writeWords, Warp.rd_foldl_wr (d := nextCode d j) _ _ (fun i => ((f i)[j]?).getD 0) ls hone]
  simp [hc]

/-- A uniform register reads the same in every lane. -/
theorem Warp.rd_uniform (w : Warp) {r : Code} (h : classOf r = .uniform) (l : Nat) : w.rd r l = w.rd r 0 := by
  simp [Warp.rd, h]

/-- Consecutive uniform registers, written once. -/
theorem Warp.rd_writeWords_uniform (w : Warp) {j : Nat} (hn : ∀ i, (f i).length = n) (hc : classOf d = .uniform)
    (hd : d.toNat + n ≤ 0xC0) (hj : j < n) (l : Nat) :
    (w.writeWords d f [0]).rd (nextCode d j) l = ((f 0)[j]?).getD 0 := by
  have hcj := classOf_nextCode_uniform hc hd hj
  have hj0 : j < (f 0).length := by rwa [hn]
  rw [Warp.rd_uniform _ hcj, Warp.writeWords, List.foldl_cons, List.foldl_nil,
    Warp.rd_wrWords (by omega) (by omega) w _ (by rw [hn]; omega) hj0, Warp.rd_wr _ _ _ _ _ _ (by omega) (by omega), if_pos rfl, hcj]
  simp [hj0]

end

/-! ### Completion (R135, R144, R145, R218) -/

theorem numsFrom_eq_range' (a n : Nat) : numsFrom a n = List.range' a n := by
  induction n generalizing a with
  | zero => rfl
  | succ n ih => rw [numsFrom, ih, List.range'_succ]

/-- A load gives as many words as it writes registers. -/
theorem OutOp.words_length {o : OutOp} (hregs : o.regs = (o.size + 3) / 4) (hsize : 0 < o.size) (l : Nat) :
    (o.words l).length = o.regs := by
  unfold OutOp.words
  split
  · simp only [List.length_cons, List.length_nil]
    omega
  · rw [List.length_map, numsFrom_eq_range', List.length_range']

theorem exec_loadCompletion (k : Nat) (s : State) : exec (.loadCompletion k) s = execLoadCompletion k s := rfl
theorem exec_storeAcknowledge (k : Nat) (s : State) : exec (.storeAcknowledge k) s = execStoreAcknowledge k s := rfl

section
variable {k : Nat} {o : OutOp} {s : State} {w : Warp}

/-- The warp once a load's lanes have taken their words, and its number has left the load counter unless lanes are still to be
replayed. -/
def Warp.loaded (w : Warp) (k : Nat) (o : OutOp) : Warp :=
  { w.writeWords o.dst o.words o.lanes.lanes with loads := if o.more then w.loads else complete w.loads k }

theorem exec_loadCompletion_ready (hk : s.opDone k true = true ∨ s.loadPart k = true) (ho : Assoc.at? s.outs k = some o)
    (hw : s.warp? o.w = some w) :
    exec (.loadCompletion k) s = .next
      ({ s with outs := if o.more then Assoc.put s.outs k { o with lanes := 0 } else Assoc.erase s.outs k }.setWarp o.w
        (w.loaded k o)) := by
  have hready : (s.opDone k true || s.loadPart k) = true := by simpa using hk
  have hloads : (w.writeWords o.dst o.words o.lanes.lanes).loads = w.loads := by rw [Warp.writeWords_withRegs]; rfl
  rw [exec_loadCompletion, execLoadCompletion, if_pos hready]
  simp only [ho, State.completeLoad]
  rw [Warp.loaded, ← hloads]
  exact congrArg _ (State.updWarp_eq_setWarp _ _ _ w hw)

theorem exec_storeAcknowledge_ready (hk : s.opDone k false = true) (ho : Assoc.at? s.outs k = some o)
    (hw : s.warp? o.w = some w) :
    exec (.storeAcknowledge k) s = .next
      ({ s with outs := Assoc.erase s.outs k }.setWarp o.w { w with stores := complete w.stores k }) := by
  rw [exec_storeAcknowledge, execStoreAcknowledge, if_pos hk]
  simp only [ho]
  exact congrArg _ (State.updWarp_eq_setWarp _ _ _ w hw)

end

/-- Settles O17: the lanes write their words to consecutive registers by `Warp.writeWords`, register by register. -/
theorem loadsAndStoresComplete : Obligations.LoadsAndStoresComplete := by
  unfold Obligations.LoadsAndStoresComplete
  refine ⟨fun k o s w hk ho hw hregs hsize hdst => ?_, fun k o s w hk ho hw => exec_storeAcknowledge_ready hk ho hw⟩
  have hlen := OutOp.words_length hregs hsize
  have hlanes : ∀ i ∈ o.lanes.lanes, i < 32 := fun i hi => (mem_lanes.mp hi).1
  have hfit : CodesFit o.dst o.regs := by
    rcases hdst with ⟨_, hd⟩ | ⟨_, hd, _⟩ | hz
    · exact .inl (by omega)
    · exact .inl (by omega)
    · exact .inr hz
  have hloaded : w.loaded k o = { w.withRegs (w.loaded k o) with loads := if o.more then w.loads else complete w.loads k } := by
    rw [Warp.loaded, Warp.writeWords_withRegs]
    rfl
  refine ⟨w.loaded k o, exec_loadCompletion_ready hk ho hw, hloaded, Warp.writeWords_fpflags .., fun r l hl hr => ?_,
    fun hc j l hj hl => ?_, fun hc j l hj => ?_⟩
  · exact Warp.rd_writeWords_other w hlen hlanes hfit hl hr
  · have hd : o.dst.toNat + o.regs ≤ 0x80 := by
      rcases hdst with ⟨_, hd⟩ | ⟨hu, _⟩ | hz
      · exact hd
      · simp [hc] at hu
      · rw [hz] at hc; cases hc
    have hread := Warp.rd_writeWords_lane w hlen hlanes hd hl hj
    simp only [mem_lanes, hl, true_and] at hread
    exact hread
  · have hd : o.dst.toNat + o.regs ≤ 0xC0 ∧ o.lanes = 1 := by
      rcases hdst with ⟨hl, _⟩ | ⟨_, hd⟩ | hz
      · simp [hc] at hl
      · exact hd
      · rw [hz] at hc; cases hc
    have hone : o.lanes.lanes = [0] := by rw [hd.2]; decide
    have hread := Warp.rd_writeWords_uniform w hlen hc hd.1 hj l
    rw [← hone] at hread
    exact hread

end Sys2Proof.Machine
end

section
/-! ## Family 08: what loads and stores have in common -/
namespace Sys2Proof.Machine

/-! ### The operands (R17, R135 to R137) -/

/-- What a load or store is, as its operands give it (R135, R59). -/
def accessOf (load : Bool) (size : Nat) (signed : Bool) (d a : Code) (o : BitVec 3) : Mem :=
  { isLoad := load, d := d, size := size, signed := signed, order := o.toNat
    once := if load then onceLoad d a else !(isLane d || isLane a) }

/-- The instructions `e` are loads or stores of `size` bytes, which `run` executes; a load writes one register, a pair or a quad. -/
structure AccessForm (run : State → Cur → Warp → Instr → Option Prefix → Mem → Code → Nat → State)
    (e : Option Prefix → Code → Code → BitVec 3 → BitVec 5 → Instr) (load : Bool) (size : Nat) (signed : Bool) : Prop where
  runs : ∀ pf d a o f s, exec (e pf d a o f) s =
    issue (e pf d a o f) .none s (fun s c w => run s c w (e pf d a o f) pf (accessOf load size signed d a o) a f.toNat)
  dest : ∀ pf d a o f, load = true → od d dReg ((size + 3) / 4) ∈ operandsOf (e pf d a o f)
  sizes : size ∈ [1, 2, 4, 8, 16]

theorem form_ld8u : AccessForm State.globalAccess Instr.ld8u true 1 false :=
  ⟨fun _ _ _ _ _ _ => rfl, fun _ _ _ _ _ _ => List.mem_cons_self, by decide⟩
theorem form_ld8s : AccessForm State.globalAccess Instr.ld8s true 1 true :=
  ⟨fun _ _ _ _ _ _ => rfl, fun _ _ _ _ _ _ => List.mem_cons_self, by decide⟩
theorem form_ld16u : AccessForm State.globalAccess Instr.ld16u true 2 false :=
  ⟨fun _ _ _ _ _ _ => rfl, fun _ _ _ _ _ _ => List.mem_cons_self, by decide⟩
theorem form_ld16s : AccessForm State.globalAccess Instr.ld16s true 2 true :=
  ⟨fun _ _ _ _ _ _ => rfl, fun _ _ _ _ _ _ => List.mem_cons_self, by decide⟩
theorem form_ld32 : AccessForm State.globalAccess Instr.ld32 true 4 false :=
  ⟨fun _ _ _ _ _ _ => rfl, fun _ _ _ _ _ _ => List.mem_cons_self, by decide⟩
theorem form_ld64 : AccessForm State.globalAccess Instr.ld64 true 8 false :=
  ⟨fun _ _ _ _ _ _ => rfl, fun _ _ _ _ _ _ => List.mem_cons_self, by decide⟩
theorem form_ld128 : AccessForm State.globalAccess Instr.ld128 true 16 false :=
  ⟨fun _ _ _ _ _ _ => rfl, fun _ _ _ _ _ _ => List.mem_cons_self, by decide⟩
theorem form_st8 : AccessForm State.globalAccess Instr.st8 false 1 false :=
  ⟨fun _ _ _ _ _ _ => rfl, fun _ _ _ _ _ => nofun, by decide⟩
theorem form_st16 : AccessForm State.globalAccess Instr.st16 false 2 false :=
  ⟨fun _ _ _ _ _ _ => rfl, fun _ _ _ _ _ => nofun, by decide⟩
theorem form_st32 : AccessForm State.globalAccess Instr.st32 false 4 false :=
  ⟨fun _ _ _ _ _ _ => rfl, fun _ _ _ _ _ => nofun, by decide⟩
theorem form_st64 : AccessForm State.globalAccess Instr.st64 false 8 false :=
  ⟨fun _ _ _ _ _ _ => rfl, fun _ _ _ _ _ => nofun, by decide⟩
theorem form_st128 : AccessForm State.globalAccess Instr.st128 false 16 false :=
  ⟨fun _ _ _ _ _ _ => rfl, fun _ _ _ _ _ => nofun, by decide⟩
theorem form_lds32 : AccessForm State.scratchAccess Instr.lds32 true 4 false :=
  ⟨fun _ _ _ _ _ _ => rfl, fun _ _ _ _ _ _ => List.mem_cons_self, by decide⟩
theorem form_lds128 : AccessForm State.scratchAccess Instr.lds128 true 16 false :=
  ⟨fun _ _ _ _ _ _ => rfl, fun _ _ _ _ _ _ => List.mem_cons_self, by decide⟩
theorem form_sts32 : AccessForm State.scratchAccess Instr.sts32 false 4 false :=
  ⟨fun _ _ _ _ _ _ => rfl, fun _ _ _ _ _ => nofun, by decide⟩
theorem form_sts128 : AccessForm State.scratchAccess Instr.sts128 false 16 false :=
  ⟨fun _ _ _ _ _ _ => rfl, fun _ _ _ _ _ => nofun, by decide⟩

theorem eq_z_of_classOf {d : Code} (h : classOf d = .zero) : d = 0xFF := by
  have hd := d.isLt
  apply BitVec.eq_of_toNat_eq
  by_contra hne
  have hlt : d.toNat < 0xFF := by
    have : d.toNat ≠ 255 := hne
    omega
  revert h
  simp only [classOf, hlt, if_true]
  split_ifs <;> nofun

/-- Where the operand checks pass, pairs are even and quads are at a multiple of 4 (check 11 of R70). -/
theorem odd_of_checkOf {i : Instr} {v s : Nat} (h : checkOf i v s = none) : ∀ o ∈ operandsOf i, o.odd = false := by
  intro o ho
  simp only [checkOf] at h
  split at h
  · cases h
  · split_ifs at h
    split at h
    · cases h
    · split at h
      · cases h
      · split at h
        · cases h
        · rename_i hnone
          simpa using List.find?_eq_none.mp hnone o ho

/-- The destination of a load that executes in every lane: consecutive lane registers, or z. -/
theorem AccessForm.destination {run : State → Cur → Warp → Instr → Option Prefix → Mem → Code → Nat → State}
    {e : Option Prefix → Code → Code → BitVec 3 → BitVec 5 → Instr} {load signed : Bool} {size : Nat}
    (hform : AccessForm run e load size signed) {pf : Option Prefix} {d a : Code} {o : BitVec 3} {f : BitVec 5} {priv : Priv}
    {s : State} {c : Cur} {w : Warp} (h : Ready (e pf d a o f) priv s c w) (hl : load = true)
    (ho : (accessOf load size signed d a o).once = false) : d.toNat + (size + 3) / 4 ≤ 0x80 ∨ d = 0xFF := by
  subst hl
  have hmem := hform.dest pf d a o f rfl
  have hodd := odd_of_checkOf h.checked _ hmem
  have hclass : classOf d ∈ dReg := h.accepts hmem
  simp only [dReg, List.mem_cons, List.not_mem_nil, or_false] at hclass
  rcases hclass with hc | hc | hc
  · have hlt := classOf_lane.mp hc
    have hsize := hform.sizes
    simp only [Opnd.odd, od, hc, bne_eq_false_iff_eq] at hodd
    simp only [List.mem_cons, List.not_mem_nil, or_false] at hsize
    rcases hsize with rfl | rfl | rfl | rfl | rfl <;> omega
  · simp [accessOf, onceLoad, hc] at ho
  · exact .inr (eq_z_of_classOf hc)

/-! ### Lanes guarded off (R24, R138) -/

section
variable {w : Warp} {pf : Option Prefix} {c : Cur} {m : Mem}

/-- Under zero policy the lanes that are on and guarded off write zeros to the registers of a load that executes in every lane. -/
theorem Warp.zeroOff_eq : w.zeroOff pf m c.lanes.lanes =
    if m.isLoad = true ∧ m.once = false ∧ w.zeroPolicy pf = true then
      w.writeWords m.d (fun _ => List.replicate m.regs 0) (w.offLanes pf c)
    else w := by
  have hguard : c.lanes.lanes.foldl (fun (x : Warp) i =>
        if (w.guardOf pf).getLsbD i then x else x.wrWords m.d i (List.replicate m.regs 0)) w =
      w.writeWords m.d (fun _ => List.replicate m.regs 0) (w.offLanes pf c) := by
    rw [Warp.writeWords, Warp.offLanes, List.foldl_filter]
    refine List.foldl_ext _ _ _ fun x i _ => ?_
    cases (w.guardOf pf).getLsbD i <;> rfl
  rw [Warp.zeroOff, hguard]
  exact if_congr (by simp [and_assoc]) rfl rfl

theorem Warp.zeroOff_withRegs : w.zeroOff pf m c.lanes.lanes = w.withRegs (w.zeroOff pf m c.lanes.lanes) := by
  rw [Warp.zeroOff_eq]
  split
  · exact Warp.writeWords_withRegs ..
  · rfl

theorem Warp.zeroOff_fpflags : (w.zeroOff pf m c.lanes.lanes).fpflags = w.fpflags := by
  rw [Warp.zeroOff_eq]
  split
  · exact Warp.writeWords_fpflags ..
  · rfl

theorem Warp.rd_z (w : Warp) (l : Nat) : w.rd 0xFF l = 0 := rfl

theorem Warp.rd_zeroOff (hd : m.isLoad = true → m.once = false → m.d.toNat + m.regs ≤ 0x80 ∨ m.d = 0xFF) (r : Code) {l : Nat}
    (hl : l < 32) : (w.zeroOff pf m c.lanes.lanes).rd r l =
      if m.isLoad = true ∧ m.once = false ∧ w.zeroed pf c.lanes l = true ∧ ∃ j, j < m.regs ∧ r = nextCode m.d j then 0
      else w.rd r l := by
  rw [Warp.zeroOff_eq]
  by_cases hz : m.isLoad = true ∧ m.once = false ∧ w.zeroPolicy pf = true
  · obtain ⟨hload, honce, hpol⟩ := hz
    have hoff : l ∈ w.offLanes pf c ↔ w.zeroed pf c.lanes l = true := by simp [mem_offLanes, Warp.zeroed, hl, hpol]
    simp only [hload, honce, hpol, true_and, and_true, if_true]
    rcases hd hload honce with hlane | hz
    · by_cases hr : ∃ j, j < m.regs ∧ r = nextCode m.d j
      · obtain ⟨j, hj, rfl⟩ := hr
        rw [Warp.rd_writeWords_lane w (fun _ => List.length_replicate) (fun i hi => (mem_offLanes.mp hi).1) hlane hl hj]
        refine if_congr (hoff.trans ⟨fun h => ⟨h, j, hj, rfl⟩, And.left⟩) ?_ rfl
        simp [hj]
      · rw [if_neg (fun h => hr h.2)]
        exact Warp.rd_writeWords_other w (fun _ => List.length_replicate) (fun i hi => (mem_offLanes.mp hi).1) (.inl (by omega)) hl
          (fun j hj he => hr ⟨j, hj, he⟩)
    · rw [hz, Warp.writeWords_z]
      split
      · rename_i h
        obtain ⟨_, j, _, rfl⟩ := h
        exact Warp.rd_z w l
      · rfl
  · rw [if_neg hz, if_neg]
    rintro ⟨hload, honce, hzero, _⟩
    refine hz ⟨hload, honce, ?_⟩
    simp only [Warp.zeroed, Bool.and_eq_true] at hzero
    exact hzero.2

end

end Sys2Proof.Machine
end

section
/-! ## Family 08: misaligned accesses -/
namespace Sys2Proof.Machine

/-! ### Causes of row 1 in every lane (R143, R356) -/

/-- The causes of lanes that all meet one code in one row. -/
def sameCauses (on : List Nat) (row code : Nat) (addr : Nat → DWord) : List LaneCause :=
  on.map (fun l => { lane := l, row := row, code := code, sub := 0, addr := addr l })

/-- Lanes of which none passes the checks of row 1, with no uncorrectable register. -/
theorem State.formLanes_bad {s : State} {c : Cur} {w : Warp} {ops : List Opnd} {ls : List Nat} {watch reads writes : Bool} {n : Nat}
    {f : Nat → Formed} {row code : Nat} {addr : Nat → DWord} (hp : Plain s w) (hf : ∀ l ∈ ls, f l = .bad row code (addr l)) :
    s.formLanes c w ops ls watch reads writes n f = (sameCauses ls row code addr, []) := by
  have hstep : s.formLanes c w ops ls watch reads writes n f = ls.foldl (fun r l =>
      (r.1 ++ [{ lane := l, row := row, code := code, sub := 0, addr := addr l }], r.2)) ([], []) := by
    unfold State.formLanes
    refine List.foldl_ext _ _ _ fun r l hl => ?_
    simp only [badLanes_nil hp.sound, hf l hl]
  have hfold : ∀ (cs : List LaneCause) (as : List LaneAddr), ls.foldl (fun r l =>
      (r.1 ++ [{ lane := l, row := row, code := code, sub := 0, addr := addr l }], r.2)) (cs, as) =
        (cs ++ sameCauses ls row code addr, as) := by
    clear hf hstep
    induction ls with
    | nil => simp [sameCauses]
    | cons l ls ih =>
      intro cs as
      rw [List.foldl_cons, ih]
      simp [sameCauses]
  exact hstep.trans (hfold [] [])

/-- A cause of several lanes carries the address of each, and no time of its own. -/
theorem joinCauses_addrs {xs : List LaneCause} {y : Cause} (h : joinCauses xs = some y) :
    y.addrs = xs.map (fun x => (x.lane, x.addr)) ∧ y.time = 0 := by
  simp only [joinCauses] at h
  split at h
  · cases h
  · cases h
    exact ⟨rfl, rfl⟩

/-- The cause of an instruction of which every lane meets the same code. -/
theorem Cur.causeOf_same {c : Cur} {once : Bool} {on : List Nat} {row code : Nat} {addr : Nat → DWord} (hne : on ≠ [])
    (honce : once = true → on = [0]) :
    c.causeOf once (sameCauses on row code addr) = some
      { code := code, sub := 0, lanes := if once then c.lanes else maskOf on
        addrs := if once then c.lanes.lanes.map (fun l => (l, addr 0)) else on.map (fun l => (l, addr l)), other := false } := by
  cases once with
  | true =>
    rw [honce rfl]
    rfl
  | false =>
    have hsame : ∀ x ∈ sameCauses on row code addr, x.code = code ∧ x.sub = 0 := by
      simp [sameCauses]
    obtain ⟨y, hy, hcode, hsub, hother, hlanes⟩ := joinCauses_same (by simpa [sameCauses] using hne) hsame
    obtain ⟨haddrs, htime⟩ := joinCauses_addrs hy
    rw [sameCauses, List.map_map] at hlanes haddrs
    rw [Cur.causeOf, if_neg Bool.false_ne_true, hy]
    cases y
    simp only at hcode hsub hother hlanes haddrs htime
    simp [hcode, hsub, hother, hlanes, haddrs, htime, Function.comp_def]

/-- An instruction of which no lane gets past row 1 raises the lanes' cause; the lanes guarded off have been cleared. -/
theorem State.issueAccesses_bad {s : State} {c : Cur} {w : Warp} {pf : Option Prefix} {m : Mem} {early : List LaneCause}
    {kind : AccKind} {bytes : Nat → List Byte} {whole strong : Bool} {tweak : Access → Access} {now resets : Bool} {x : Cause}
    (hr : (w.path c.p).replayOp = none) (hne : early ≠ []) (hx : c.causeOf m.once early = some x) :
    s.issueAccesses c w pf m early [] kind bytes whole strong tweak now resets =
      (s.setWarp c.w (w.zeroOff pf m c.lanes.lanes)).raise c x none := by
  simp only [State.issueAccesses, List.map_nil, lookCauses, List.filterMap_nil, List.append_nil, ne_eq, hne, not_false_eq_true, hr,
    and_self, if_true, hx]

/-! ### Global accesses (R138) -/

section
variable {e : Option Prefix → Code → Code → BitVec 3 → BitVec 5 → Instr} {load signed : Bool} {size : Nat} {pf : Option Prefix}
  {d a : Code} {o : BitVec 3} {f : BitVec 5} {s : State} {c : Cur} {w : Warp}

theorem formGlobal_misaligned {base : DWord} {size off : Nat} (h1 : (base + BitVec.ofNat 64 (size * off)).toNat < 2 ^ 56)
    (h2 : (base + BitVec.ofNat 64 (size * off)).toNat % size ≠ 0) :
    formGlobal base size off = .bad rowForm2 0x20 (base + BitVec.ofNat 64 (size * off)) := by
  simp only [formGlobal]
  rw [if_neg (by omega), if_pos h2]

theorem Warp.onLanes_once (w : Warp) (pf : Option Prefix) {once : Bool} (c : Cur) (h : once = true) : w.onLanes pf once c = [0] :=
  if_pos h

/-- A global access that is misaligned in every lane that runs raises 0x20 and accesses nothing. -/
theorem AccessForm.misaligned (hform : AccessForm State.globalAccess e load size signed) (h : Ready (e pf d a o f) .none s c w)
    (hp : Plain s w) (hr : (w.path c.p).replayOp = none) {once : Bool} (honce : (accessOf load size signed d a o).once = once)
    (hne : w.onLanes pf once c ≠ [])
    (hva : ∀ l ∈ w.onLanes pf once c, (w.rdPair a l + BitVec.ofNat 64 (size * f.toNat)).toNat < 2 ^ 56 ∧
      (w.rdPair a l + BitVec.ofNat 64 (size * f.toNat)).toNat % size ≠ 0) :
    exec (e pf d a o f) s = .next ((s.setWarp c.w (w.zeroOff pf (accessOf load size signed d a o) c.lanes.lanes)).raise c
      { code := 0x20, sub := 0, lanes := if once then c.lanes else maskOf (w.onLanes pf once c)
        addrs := if once then c.lanes.lanes.map (fun l => (l, w.rdPair a 0 + BitVec.ofNat 64 (size * f.toNat)))
          else (w.onLanes pf once c).map (fun l => (l, w.rdPair a l + BitVec.ofNat 64 (size * f.toNat))), other := false } none) := by
  have hlanes := State.formLanes_bad (s := s) (c := c) (ops := operandsOf (e pf d a o f)) (watch := true) (reads := load)
    (writes := !load) (n := size) (f := fun l => formGlobal (w.rdPair a l) size f.toNat) hp
    (fun l hl => formGlobal_misaligned (hva l hl).1 (hva l hl).2)
  have hcause := Cur.causeOf_same (c := c) (row := rowForm2) (code := 0x20)
    (addr := fun l => w.rdPair a l + BitVec.ofNat 64 (size * f.toNat)) hne (w.onLanes_once pf c)
  subst honce
  rw [hform.runs, issue_ready h, State.globalAccess]
  simp only [accessOf] at hlanes hcause hne ⊢
  simp only [hlanes, State.lookLanes, anyWait, List.any_nil, Bool.false_eq_true, if_false]
  exact congrArg _ (State.issueAccesses_bad hr (by simpa [sameCauses] using hne) hcause)

end

/-- Settles O15: every lane fails the second check of row 1, and the lanes' causes join. -/
theorem misalignedAccessRaises : Obligations.MisalignedAccessRaises := by
  unfold Obligations.MisalignedAccessRaises
  intro e he pf d a o f s c w once on va h hp hr hne hva
  obtain ⟨signed, hform⟩ : ∃ signed, AccessForm State.globalAccess e.1 e.2.1 e.2.2 signed := by
    simp only [List.mem_cons, List.not_mem_nil, or_false] at he
    rcases he with rfl | rfl | rfl | rfl | rfl | rfl | rfl | rfl | rfl
    exacts [⟨_, form_ld16u⟩, ⟨_, form_ld16s⟩, ⟨_, form_ld32⟩, ⟨_, form_ld64⟩, ⟨_, form_ld128⟩, ⟨_, form_st16⟩, ⟨_, form_st32⟩,
      ⟨_, form_st64⟩, ⟨_, form_st128⟩]
  exact ⟨w.zeroOff pf (accessOf e.2.1 e.2.2 signed d a o) c.lanes.lanes, Warp.zeroOff_withRegs, Warp.zeroOff_fpflags,
    hform.misaligned h hp hr rfl hne hva, fun r l hl => Warp.rd_zeroOff (hform.destination h) r hl⟩

end Sys2Proof.Machine
end

section
/-! ## Family 08: what loads and stores issue -/
namespace Sys2Proof.Machine

/-! ### The units of the lanes that go on (R234, R244) -/

/-- Lanes with their addresses and hits. -/
def hitsOf (on : List Nat) (va : Nat → Nat) (H : Nat → Hit) : List (LaneAddr × Hit) :=
  on.map (fun l => ({ lane := l, va := va l }, H l))

section
variable {w : Warp} {key p op n order : Nat} {kind : AccKind} {whole : Bool} {bytes : Nat → List Byte}

/-- Each access is a unit at the hit of one of the lanes. -/
theorem Warp.mem_unitsOf {hs : List (LaneAddr × Hit)} {x : Access} (h : x ∈ w.unitsOf key p op kind n order whole hs bytes) :
    ∃ y ∈ hs, ∃ ps k, x = w.unit key p op kind y.2 ps k order := by
  unfold Warp.unitsOf at h
  split at h
  · cases hs with
    | nil => cases h
    | cons y r => exact ⟨y, List.mem_cons_self, _, _, List.mem_singleton.mp h⟩
  · obtain ⟨y, hy, hx⟩ := List.mem_flatMap.mp h
    obtain ⟨z, _, rfl⟩ := List.mem_map.mp hx
    exact ⟨y, hy, _, _, rfl⟩

/-- Lanes whose places are local have local accesses. -/
theorem Warp.unitsOf_local {on : List Nat} {va : Nat → Nat} {H : Nat → Hit} (hlocal : ∀ l ∈ on, (H l).remote = none) :
    (w.unitsOf key p op kind n order whole (hitsOf on va H) bytes).filter (fun a => a.remote.isSome) = [] := by
  refine List.filter_eq_nil_iff.mpr fun x hx => ?_
  obtain ⟨y, hy, ps, k, rfl⟩ := Warp.mem_unitsOf hx
  obtain ⟨l, hl, rfl⟩ := List.mem_map.mp hy
  simp [Warp.unit, hlocal l hl]

/-- The lanes of a coalesced event lie in one line. -/
theorem coalesced_sameLine {x y : LaneAddr × Hit} {r : List (LaneAddr × Hit)} (h : coalesced n (x :: r) = true) (hy : y ∈ x :: r) :
    y.1.va / 128 = x.1.va / 128 := by
  simp only [coalesced, Bool.and_eq_true, List.all_eq_true, beq_iff_eq] at h
  obtain ⟨⟨_, hline⟩, _⟩ := h
  rcases List.mem_cons.mp hy with rfl | hr
  · rfl
  · exact hline y hr

theorem size_pos (hn : n ∈ [1, 2, 4, 8, 16]) : 0 < n := by
  simp only [List.mem_cons, List.not_mem_nil, or_false] at hn
  omega

/-- A lane's pieces lie in its bytes and cover them (R234). -/
theorem pieces_cover (hn : n ∈ [1, 2, 4, 8, 16]) : (∀ z ∈ pieces n, 0 < z.2 ∧ z.1 + z.2 ≤ n) ∧
    ∀ j, j < n → ∃ z ∈ pieces n, z.1 ≤ j ∧ j < z.1 + z.2 := by
  by_cases h8 : n ≤ 8
  · simp [pieces, h8, size_pos hn]
  · have h16 : n = 16 := by
      simp only [List.mem_cons, List.not_mem_nil, or_false] at hn
      omega
    subst h16
    refine ⟨by simp [pieces], fun j hj => ?_⟩
    rcases Nat.lt_or_ge j 8 with h | h
    · exact ⟨(0, 8), by simp [pieces], Nat.zero_le j, h⟩
    · exact ⟨(8, 8), by simp [pieces], h, hj⟩

/-- All the bytes of a list. -/
theorem sliceBytes_all {bs : List Byte} (h : bs.length = n) : sliceBytes bs 0 n = bs := by
  rw [sliceBytes, numsFrom_eq_range']
  apply List.ext_getElem
  · simp [h]
  · intro k _ hk
    simp [hk]

@[simp] theorem sliceBytes_length (bs : List Byte) (off n : Nat) : (sliceBytes bs off n).length = n := by
  rw [sliceBytes, List.length_map, numsFrom_eq_range', List.length_range']

theorem Warp.rdBytes_length (w : Warp) (d : Code) (l n : Nat) : (w.rdBytes d l n).length = n := sliceBytes_length ..

/-- The accesses of an instruction cover its lanes' bytes exactly; `data` is given where they carry bytes. -/
theorem Warp.unitsOf_covers {on : List Nat} {va : Nat → Nat} {H : Nat → Hit} {data : Option (Nat → List Byte)}
    (hn : n ∈ [1, 2, 4, 8, 16]) (hdata : ∀ f, data = some f → ∀ l, (f l).length = n ∧ bytes l = f l)
    (hplace : whole = true → ∀ l ∈ on, ∀ k ∈ on, va l / 128 = va k / 128 → (H l).place = (H k).place) :
    Covers (w.unitsOf key p op kind n order whole (hitsOf on va H) bytes) on n va H data := by
  obtain ⟨hin, hcover⟩ := pieces_cover hn
  have hpos := size_pos hn
  unfold Warp.unitsOf
  split
  · rename_i hwhole
    obtain ⟨hw, hco⟩ := Bool.and_eq_true_iff.mp hwhole
    cases on with
    | nil => exact ⟨fun _ hx => absurd hx List.not_mem_nil, fun _ hl => absurd hl List.not_mem_nil⟩
    | cons k r =>
      refine ⟨fun x hx q hq => ?_, fun l hl j hj => ?_⟩
      · obtain rfl := List.mem_singleton.mp hx
        simp only [Warp.unit, hitsOf, List.map_map, List.mem_map, Function.comp_apply] at hq
        obtain ⟨l, hl, rfl⟩ := hq
        have hline := coalesced_sameLine hco (List.mem_map_of_mem (f := fun l => (({ lane := l, va := va l } : LaneAddr), H l)) hl)
        refine ⟨hl, hplace hw k List.mem_cons_self l hl hline.symm, rfl, rfl, hpos, (Nat.zero_add n).le, fun f hf => ?_⟩
        obtain ⟨hlen, hbytes⟩ := hdata f hf l
        simp only [hbytes, sliceBytes_all hlen]
      · refine ⟨_, List.mem_singleton.mpr rfl, { lane := l, va := va l, voff := 0, off := (H l).off, size := n, data := bytes l }, ?_,
          rfl, Nat.zero_le j, by simpa using hj⟩
        simp only [Warp.unit, hitsOf, List.map_map, List.mem_map, Function.comp_apply]
        exact ⟨l, hl, rfl⟩
  · refine ⟨fun x hx q hq => ?_, fun l hl j hj => ?_⟩
    · obtain ⟨y, hy, hx⟩ := List.mem_flatMap.mp hx
      obtain ⟨l, hl, rfl⟩ := List.mem_map.mp hy
      obtain ⟨z, hz, rfl⟩ := List.mem_map.mp hx
      obtain rfl := List.mem_singleton.mp hq
      obtain ⟨hsize, hend⟩ := hin z hz
      exact ⟨hl, rfl, rfl, rfl, hsize, hend, fun f hf => by simp only [(hdata f hf l).2]⟩
    · obtain ⟨z, hz, hlow, hhigh⟩ := hcover j hj
      exact ⟨_, List.mem_flatMap.mpr ⟨_, List.mem_map_of_mem hl, List.mem_map_of_mem hz⟩, _, List.mem_singleton.mpr rfl, rfl, hlow, hhigh⟩

end

/-! ### Pending accesses and counted instructions (R144) -/

/-- Adding pending accesses changes nothing else. -/
theorem State.addAccesses_keeps (s : State) (as : List Access) :
    s.addAccesses as = { s with accesses := (s.addAccesses as).accesses, fresh := (s.addAccesses as).fresh } :=
  foldl_keeps (fun q : State => q = { s with accesses := q.accesses, fresh := q.fresh }) _ (fun q a hq => by rw [hq]) as s rfl

theorem State.addAccesses_setWarp (s : State) (k : Nat) (w : Warp) (as : List Access) :
    (s.setWarp k w).addAccesses as = (s.addAccesses as).setWarp k w :=
  List.foldl_hom (fun q : State => q.setWarp k w) (fun _ _ => rfl)

@[simp] theorem State.addAccesses_warp? (s : State) (as : List Access) (k : Nat) : (s.addAccesses as).warp? k = s.warp? k := by
  rw [State.addAccesses_keeps]
  rfl

@[simp] theorem State.addAccesses_debugOn (s : State) (as : List Access) (w : Warp) : (s.addAccesses as).debugOn w = s.debugOn w := by
  rw [State.addAccesses_keeps]
  rfl

/-- The record of a counted instruction all of whose lanes go on (R144). -/
def Mem.outOp (m : Mem) (c : Cur) (on : List Nat) : OutOp :=
  { w := c.w, path := c.p, pc := c.pc, isLoad := m.isLoad, dst := m.d, regs := m.regs, size := m.size, signed := m.signed
    lanes := maskOf on, uniform := m.once, got := [], more := false }

/-- The state with a new counted instruction's record. -/
def State.counted (s : State) (o : OutOp) : State := { s with outs := Assoc.put s.outs s.fresh o, fresh := s.fresh + 1 }

/-- A counted instruction that no path replays is a new one of its warp. -/
theorem State.openOp_new {s : State} {c : Cur} {w x : Warp} {o : OutOp} (hw : s.warp? c.w = some w)
    (hr : (x.path c.p).replayOp = none) :
    ((s.setWarp c.w x).openOp c x o).1 = s.fresh ∧
      ((s.setWarp c.w x).openOp c x o).2.updWarp c.w (fun w => { w with seq := w.seq + 1 }) =
        (s.counted o).setWarp c.w (x.issued o.isLoad s.fresh) := by
  simp only [State.openOp, hr, State.updWarp_updWarp]
  refine ⟨rfl, ?_⟩
  have hx : (({ s.setWarp c.w x with outs := Assoc.put s.outs s.fresh o, fresh := s.fresh + 1 } : State)).warp? c.w = some x :=
    State.warp?_setWarp_self x hw
  refine (State.updWarp_eq_setWarp _ _ _ x hx).trans ?_
  refine Eq.trans ?_ (State.setWarp_setWarp (s.counted o) c.w x _)
  cases hl : o.isLoad <;> simp only [Warp.issued, Bool.false_eq_true, if_false, if_true] <;> rfl

@[simp] theorem State.counted_warp? (s : State) (o : OutOp) (k : Nat) : (s.counted o).warp? k = s.warp? k := rfl
@[simp] theorem State.counted_debugOn (s : State) (o : OutOp) (w : Warp) : (s.counted o).debugOn w = s.debugOn w := rfl

theorem Warp.issued_asid (w : Warp) (isLoad : Bool) (k : Nat) : (w.issued isLoad k).asid = w.asid := by
  cases isLoad <;> rfl

/-- The looks of lanes that all go on. -/
def goLooks (on : List Nat) (va : Nat → Nat) (H : Nat → Hit) : List (LaneAddr × LaneLook) :=
  on.map (fun l => ({ lane := l, va := va l }, .go (H l)))

theorem filterMap_goLooks {α : Type} (on : List Nat) (va : Nat → Nat) (H : Nat → Hit) (g : LaneAddr × LaneLook → Option α) :
    (goLooks on va H).filterMap g = on.filterMap (fun l => g ({ lane := l, va := va l }, .go (H l))) := by
  rw [goLooks, List.filterMap_map]
  rfl

theorem lookCauses_go (on : List Nat) (va : Nat → Nat) (H : Nat → Hit) : lookCauses (goLooks on va H) = [] := by
  simp [lookCauses, filterMap_goLooks]

theorem State.logDenied_go (s : State) (c : Cur) (w : Warp) (once : Bool) (on : List Nat) (va : Nat → Nat) (H : Nat → Hit) :
    s.logDenied c w once (goLooks on va H) = s := by
  simp [State.logDenied, filterMap_goLooks]

theorem State.retireOrRemote_local (s : State) (c : Cur) (op : Nat) (must once : Bool) :
    s.retireOrRemote c op false must false once [] = s.retire c := by
  cases once <;> rfl

section
variable {s : State} {c : Cur} {w : Warp} {pf : Option Prefix} {m : Mem} {on : List Nat} {va : Nat → Nat} {H : Nat → Hit}
  {kind : AccKind} {bytes : Nat → List Byte} {whole strong : Bool}

/-- An instruction all of whose lanes go on to local places, outside the trap on mixed sizes, leaves its accesses pending and
retires. -/
theorem State.issueAccesses_go (hw : s.warp? c.w = some w) (hd : s.debugOn w = false) (hr : (w.path c.p).replayOp = none)
    (hcold : (w.mixedTrap && strong) = false) (hlocal : ∀ l ∈ on, (H l).remote = none) :
    s.issueAccesses c w pf m [] (goLooks on va H) kind bytes whole strong (fun a => a) false false =
      ((s.counted (m.outOp c on)).addAccesses ((w.zeroOff pf m c.lanes.lanes).unitsOf c.w c.p s.fresh kind m.size m.order whole
        (hitsOf on va H) bytes)).setWarp c.w (((w.zeroOff pf m c.lanes.lanes).issued m.isLoad s.fresh).afterRetire c false) := by
  have hregs : w.zeroOff pf m c.lanes.lanes = w.withRegs (w.zeroOff pf m c.lanes.lanes) := Warp.zeroOff_withRegs
  have hpath : ((w.zeroOff pf m c.lanes.lanes).path c.p).replayOp = none := by
    rw [hregs]
    exact hr
  have hsettle : (goLooks on va H).map (fun x => (x.1, x.2.settle false)) = goLooks on va H := by
    simp [goLooks, LaneLook.settle]
  have haway := Warp.unitsOf_local (w := w.zeroOff pf m c.lanes.lanes) (key := c.w) (p := c.p) (op := s.fresh) (kind := kind)
    (n := m.size) (order := m.order) (whole := whole) (va := va) (bytes := bytes) hlocal
  have hasid : ((w.zeroOff pf m c.lanes.lanes).issued m.isLoad s.fresh).asid = w.asid := by
    rw [Warp.issued_asid, hregs]
    rfl
  have hnone : on.filterMap (fun _ => (none : Option Nat)) = [] := by simp
  obtain ⟨hid, hopen⟩ := State.openOp_new (o := m.outOp c on) hw hpath
  have hretire := State.setWarp_retire (s := (s.counted (m.outOp c on)).addAccesses ((w.zeroOff pf m c.lanes.lanes).unitsOf c.w c.p
    s.fresh kind m.size m.order whole (hitsOf on va H) bytes)) (w := w) (by simpa using hw) (by simpa using hd) hasid
  simp only [State.issueAccesses, hcold, Bool.or_false, hsettle, lookCauses_go, State.logDenied_go, filterMap_goLooks,
    List.filterMap_eq_map', hnone, List.map_map, Function.comp_def, List.map_id_fun', id_eq, List.append_nil, List.isEmpty_nil,
    Bool.and_true, Bool.not_true, ne_eq, not_true_eq_false, false_and, and_false, if_false, Bool.false_eq_true]
  simp only [Mem.outOp, hitsOf] at hid hopen haway hretire ⊢
  rw [hid, hopen, haway, State.addAccesses_setWarp]
  exact (State.retireOrRemote_local ..).trans hretire

end

/-! ### Global and scratchpad accesses -/

section
variable {run : State → Cur → Warp → Instr → Option Prefix → Mem → Code → Nat → State}
  {e : Option Prefix → Code → Code → BitVec 3 → BitVec 5 → Instr} {load signed : Bool} {size : Nat} {pf : Option Prefix}
  {d a : Code} {o : BitVec 3} {f : BitVec 5} {s q : State} {c : Cur} {w : Warp} {on : List Nat} {va : Nat → Nat} {H : Nat → Hit}

/-- The instruction retires at `q` as one counted load or store of the lanes `on`: the accesses that it leaves pending cover
their bytes, a store's carry the lanes' register bytes, and the lanes guarded off are cleared under zero policy. -/
def IssuesAccesses (i : Instr) (s q : State) (c : Cur) (w : Warp) (pf : Option Prefix) (load : Bool) (size : Nat) (signed : Bool)
    (d a : Code) (o : BitVec 3) (on : List Nat) (va : Nat → Nat) (H : Nat → Hit) : Prop :=
  let m := accessOf load size signed d a o
  ∃ (as : List Access) (w0 : Warp), w0 = w.withRegs w0 ∧ w0.fpflags = w.fpflags ∧
    exec i s = .next
      (((q.counted (m.outOp c on)).addAccesses as).setWarp c.w ((w0.issued load q.fresh).afterRetire c false)) ∧
    (∀ x ∈ as, x.w = c.w ∧ x.op = q.fresh ∧ x.seq = w.seq ∧ x.remote = none ∧ (x.strong = true ↔ o ≠ 0) ∧
      x.kind = if load then .load else .store) ∧
    Covers as on size va H (if load then none else some (fun l => w.rdBytes d l size)) ∧
    (∀ r l, l < 32 → w0.rd r l =
      if load = true ∧ m.once = false ∧ w.zeroed pf c.lanes l = true ∧ ∃ j, j < m.regs ∧ r = nextCode d j then 0 else w.rd r l)

/-- A weak access is performed later, and so is a strong one where the warp does not trap mixed sizes. -/
theorem Warp.performsLater (h : o = 0 ∨ w.mode.getLsbD 13 = false) : (w.mixedTrap && decide (0 < o.toNat)) = false := by
  rcases h with rfl | h
  · exact Bool.and_false _
  · rw [Warp.mixedTrap, h, Bool.false_and]

/-- A load or store all of whose lanes go on to local places issues its accesses. -/
theorem AccessForm.issues (hform : AccessForm run e load size signed) (h : Ready (e pf d a o f) .none s c w) {whole : Bool}
    (he : run s c w (e pf d a o f) pf (accessOf load size signed d a o) a f.toNat =
      q.issueAccesses c w pf (accessOf load size signed d a o) [] (goLooks on va H) (if load then .load else .store)
        (fun l => w.rdBytes d l size) whole (decide (0 < o.toNat)) (fun a => a) false false)
    (hw : q.warp? c.w = some w) (hd : q.debugOn w = false) (hr : (w.path c.p).replayOp = none)
    (hcold : o = 0 ∨ w.mode.getLsbD 13 = false) (hlocal : ∀ l ∈ on, (H l).remote = none)
    (hplace : whole = true → ∀ l ∈ on, ∀ k ∈ on, va l / 128 = va k / 128 → (H l).place = (H k).place) :
    IssuesAccesses (e pf d a o f) s q c w pf load size signed d a o on va H := by
  have hregs : w.zeroOff pf (accessOf load size signed d a o) c.lanes.lanes = w.withRegs (w.zeroOff pf _ c.lanes.lanes) :=
    Warp.zeroOff_withRegs
  have hexec := hform.runs pf d a o f s
  rw [issue_ready h, he, State.issueAccesses_go hw hd hr (Warp.performsLater hcold) hlocal] at hexec
  refine ⟨_, _, hregs, Warp.zeroOff_fpflags, hexec, fun x hx => ?_, Warp.unitsOf_covers hform.sizes (fun g hg l => ?_) hplace,
    fun r l hl => Warp.rd_zeroOff (hform.destination h) r hl⟩
  · obtain ⟨y, hy, ps, k, rfl⟩ := Warp.mem_unitsOf hx
    obtain ⟨l, hl, rfl⟩ := List.mem_map.mp hy
    refine ⟨rfl, rfl, by rw [hregs]; rfl, hlocal l hl, ?_, rfl⟩
    simp [Warp.unit, accessOf, BitVec.toNat_eq, Nat.pos_iff_ne_zero]
  · cases load with
    | true => cases hg
    | false =>
      obtain rfl := Option.some.inj hg
      exact ⟨Warp.rdBytes_length .., rfl⟩

theorem anyWait_goLooks (on : List Nat) (va : Nat → Nat) (H : Nat → Hit) : anyWait (goLooks on va H) = false := by
  simp [anyWait, goLooks]

theorem formGlobal_aligned {base : DWord} {size off : Nat} (h1 : (base + BitVec.ofNat 64 (size * off)).toNat < 2 ^ 56)
    (h2 : (base + BitVec.ofNat 64 (size * off)).toNat % size = 0) :
    formGlobal base size off = .at (base + BitVec.ofNat 64 (size * off)).toNat := by
  simp only [formGlobal]
  rw [if_neg (by omega), if_neg (by omega)]

/-- A global access all of whose lanes pass row 1 and their lookups. -/
theorem State.globalAccess_go {i : Instr} {m : Mem} {off : Nat} (hp : Plain s w) (hon : w.onLanes pf m.once c = on)
    (hform : ∀ l ∈ on, formGlobal (w.rdPair a l) m.size off = .at (va l))
    (hq : s.lookLanes (w.who c.w c.p) m.isLoad (!m.isLoad) m.size (on.map (fun l => { lane := l, va := va l })) =
      (goLooks on va H, q)) :
    s.globalAccess c w i pf m a off = q.issueAccesses c w pf m [] (goLooks on va H) (if m.isLoad then .load else .store)
      (fun l => w.rdBytes m.d l m.size) (!m.once && decide (on.length = (w.path c.p).mask.lanes.length)) (decide (0 < m.order))
      (fun a => a) false false := by
  subst hon
  simp only [State.globalAccess, State.formLanes_at hp true hform, hq, anyWait_goLooks, Bool.false_eq_true, if_false]

/-- A scratchpad access all of whose lanes pass row 1 and read no uncorrectable word. -/
theorem State.scratchAccess_go {i : Instr} {m : Mem} {off : Nat} (hp : Plain s w) (hon : w.onLanes pf m.once c = on)
    (hform : ∀ l ∈ on, formScratch (w.rd a l) m.size off (s.headerField w Launch.scratch) (s.twoGroups w) = .at (va l))
    (hlook : ∀ l ∈ on, s.scratchLook w m.isLoad m.size { lane := l, va := va l } = ({ lane := l, va := va l }, .go (H l))) :
    s.scratchAccess c w i pf m a off = s.issueAccesses c w pf m [] (goLooks on va H) (if m.isLoad then .load else .store)
      (fun l => w.rdBytes m.d l m.size) false (decide (0 < m.order)) (fun a => a) false false := by
  subst hon
  have hgo : ((w.onLanes pf m.once c).map (fun l => ({ lane := l, va := va l } : LaneAddr))).map (s.scratchLook w m.isLoad m.size) =
      goLooks (w.onLanes pf m.once c) va H := by
    rw [List.map_map]
    exact List.map_congr_left hlook
  simp only [State.scratchAccess, State.formLanes_at hp false hform, hgo]

theorem formScratch_inside {base : Word} {size off limit : Nat} {two : Bool} (h1 : base.toNat + size * off < 2 ^ 32)
    (h2 : (base.toNat + size * off) % size = 0) (h3 : 2 ^ 31 ≤ base.toNat + size * off → two = true)
    (h4 : (base.toNat + size * off) % 2 ^ 31 + size ≤ limit) :
    formScratch base size off limit two = .at (base.toNat + size * off) := by
  have hpartner : ¬(2 ^ 31 ≤ base.toNat + size * off ∧ two = false) := fun ⟨hle, hno⟩ => by simp [h3 hle] at hno
  simp only [formScratch]
  rw [if_neg (not_not.mpr h2), if_neg (by omega), if_neg hpartner, if_neg (by omega)]

end

/-- Settles O13: every lane passes the checks of row 1 and its lookup, so the instruction issues its accesses. -/
theorem globalAccessesIssue : Obligations.GlobalAccessesIssue := by
  unfold Obligations.GlobalAccessesIssue
  intro e he pf d a o f s c w H load size once on va h hp hcold hr hgo q hq hqw hqd hplace
  have hform : AccessForm State.globalAccess e.1 load size e.2.2.2 := by
    simp only [List.mem_cons, List.not_mem_nil, or_false] at he
    rcases he with rfl | rfl | rfl | rfl | rfl | rfl | rfl | rfl | rfl | rfl | rfl | rfl
    exacts [form_ld8u, form_ld8s, form_ld16u, form_ld16s, form_ld32, form_ld64, form_ld128, form_st8, form_st16, form_st32, form_st64,
      form_st128]
  have hrun := State.globalAccess_go (i := e.1 pf d a o f) (m := accessOf load size e.2.2.2 d a o) hp rfl
    (fun l hl => formGlobal_aligned (off := f.toNat) (hgo l hl).1 (hgo l hl).2.1) hq
  exact hform.issues h hrun hqw hqd hr hcold (fun l hl => (hgo l hl).2.2) (fun _ => hplace)

/-- Settles O14: the offsets pass the checks of row 1 and name places of the team's scratchpads, so the instruction issues its
accesses. -/
theorem scratchAccessesIssue : Obligations.ScratchAccessesIssue := by
  unfold Obligations.ScratchAccessesIssue
  intro e he pf d a o f s c w load size once on at_ H h hp hcold hr hgo
  have hform : AccessForm State.scratchAccess e.1 load size false := by
    simp only [List.mem_cons, List.not_mem_nil, or_false] at he
    rcases he with rfl | rfl | rfl | rfl
    exacts [form_lds32, form_lds128, form_sts32, form_sts128]
  have hlook : ∀ l ∈ on, s.scratchLook w load size { lane := l, va := at_ l } = ({ lane := l, va := at_ l }, .go (H l)) := by
    intro l hl
    obtain ⟨_, _, _, _, hread⟩ := hgo l hl
    have hsound : ¬(load && s.badAt (H l).place (H l).off size) = true := by
      cases hload : load
      · exact Bool.false_ne_true
      · simp [hread hload]
    exact congrArg _ (if_neg hsound)
  have hrun := State.scratchAccess_go (i := e.1 pf d a o f) (m := accessOf load size false d a o) (off := f.toNat) hp rfl
    (fun l hl => by
      obtain ⟨hlt, halign, hpartner, hinside, _⟩ := hgo l hl
      exact formScratch_inside hlt halign hpartner hinside) hlook
  exact hform.issues h hrun h.warp hp.debug hr hcold (fun _ _ => rfl) nofun

end Sys2Proof.Machine
end

section
/-! ## Family 10: LAUNCH, its queue, and the conditions of a queued launch -/
namespace Sys2Proof.Machine

theorem exec_launch (d a : Code) (s : State) : exec (.launch d a) s = execLaunch d a s := rfl
theorem exec_launchEnqueue (key : Nat) (s : State) : exec (.launchEnqueue key) s = execLaunchEnqueue key s := rfl
theorem exec_dependenceConditionRead (id k : Nat) (s : State) :
    exec (.dependenceConditionRead id k) s = execDependenceConditionRead id k s := rfl

section
variable {d a : Code} {s q : State} {c : Cur} {w : Warp}

/-! ### Reading the record (R154, R156) -/

theorem State.launchTry_far (hx : 2 ^ 56 ≤ (w.rdPair a 0).toNat) :
    s.launchTry c w d a = .done (s.raiseAt c 0x24 0 (w.rdPair a 0).toNat) := if_pos hx

theorem State.launchTry_misaligned (hx : (w.rdPair a 0).toNat < 2 ^ 56) (hal : (w.rdPair a 0).toNat % 128 ≠ 0) :
    s.launchTry c w d a = .done (s.raiseWhole c 0x59 0) := by
  rw [State.launchTry, if_neg (not_le.mpr hx), if_pos hal]

/-- The address passes the checks of its form and the record is read whole, the machine then being `q`. -/
structure ReadsRecord (a : Code) (s q : State) (c : Cur) (w : Warp) (vals : List (Nat × List Byte)) : Prop where
  near : (w.rdPair a 0).toNat < 2 ^ 56
  aligned : (w.rdPair a 0).toNat % 128 = 0
  formed : s.formBlock c w (w.rdPair a 0) 128 16 8 true false = []
  read : s.readLanes c w true 16 (unitAddrs (w.rdPair a 0).toNat 16 8) = .done vals [] q

variable {vals : List (Nat × List Byte)}

/-- A field of the record that breaks its limit raises 0x59 with its offset. -/
theorem ReadsRecord.broken (h : ReadsRecord a s q c w vals) {off : Nat}
    (hb : firstBroken (recordChecks (blockBytes vals 8) w.supervisor) = some off) :
    s.launchTry c w d a = .done (q.raiseWhole c 0x59 off) := by
  simp only [State.launchTry, if_neg (not_le.mpr h.near), if_neg (not_not.mpr h.aligned), h.formed, h.read, hb]

/-- A record within its limits goes on to the steps that read its header. -/
theorem ReadsRecord.checked (h : ReadsRecord a s q c w vals)
    (hb : firstBroken (recordChecks (blockBytes vals 8) w.supervisor) = none) :
    s.launchTry c w d a = q.launchRecord c w d (blockBytes vals 8) := by
  simp only [State.launchTry, if_neg (not_le.mpr h.near), if_neg (not_not.mpr h.aligned), h.formed, h.read, hb]

/-! ### What LAUNCH makes of the outcome (R153) -/

theorem exec_launch_done {t : State} (h : Ready (.launch d a) .launch s c w) (ht : s.launchTry c w d a = .done t) :
    exec (.launch d a) s = .next t := by
  rw [exec_launch, execLaunch, issue_ready h, ht]

theorem exec_launch_wait {t : State} (h : Ready (.launch d a) .launch s c w) (ht : s.launchTry c w d a = .wait t) :
    exec (.launch d a) s = .next t := by
  rw [exec_launch, execLaunch, issue_ready h, ht]

/-- Before a full queue the warp is held with its instruction, in the machine as it was. -/
theorem exec_launch_full (h : Ready (.launch d a) .launch s c w) (ht : s.launchTry c w d a = .full) :
    exec (.launch d a) s =
      .next (s.setWarp c.w { w with held := some { why := .launch, cur := c, i := some (.launch d a) } }) := by
  rw [exec_launch, execLaunch, issue_ready h, ht]
  exact congrArg Host.Outcome.next (s.updWarp_eq_setWarp _ _ w h.warp)

/-- A held LAUNCH for which there is room goes on as if it issued anew. -/
theorem exec_launchEnqueue_done {t : State} {key : Nat} {h : Held} (hw : s.warp? key = some w) (hhalt : w.halt = none)
    (hheld : w.held = some h) (hwhy : h.why = .launch) (hi : h.i = some (.launch d a))
    (ht : (s.setWarp key { w with held := none }).launchTry h.cur { w with held := none } d a = .done t) :
    exec (.launchEnqueue key) s = .next t := by
  have hrunning : w.halt.isSome = false := by rw [hhalt]; rfl
  have hunpark : s.unpark key = s.setWarp key { w with held := none } := s.updWarp_eq_setWarp _ _ w hw
  simp only [exec_launchEnqueue, execLaunchEnqueue, State.enqueueTry, hw, hheld, hrunning, hwhy, hi, hunpark, ht, Bool.false_eq_true,
    if_false]

/-! ### Reading the header and joining the queue (R153 to R156, R160) -/

/-- A launch that inherits the context of an untagged warp, whose header is sound and which has room, joins the queue. -/
theorem State.launchRecord_enqueues {u : State} {r h : List Byte} {mask : BitVec 4} {l : Launch}
    (hinherit : 2 ^ 15 ≤ fieldOf r 0x20 2) (hcad : fieldOf r 0x18 8 = 0) (hclr : w.clearance = none) (hlive : s.isLive w.asid = true)
    (hread : s.loadNow { w.who c.w c.p with asid := w.asid, principal := w.principal, clr := none } (fieldOf r 0x00 8) 256 =
      .ok (h, []) u) (hsound : firstBroken (headerChecks h) = none)
    (hmask : mask = (if BitVec.ofNat 4 (fieldOf r 0x24 1) = 0 then 1#4 <<< dieOfCore (coreOfKey c.w)
      else BitVec.ofNat 4 (fieldOf r 0x24 1)) &&& ~~~u.failed)
    (hl : l = Launch.ofRecord r h (dieOfCore (coreOfKey c.w)) w.asid w.principal none mask) (hdies : mask ≠ 0)
    (hfits : u.teamCapacity l ≠ 0) (hwhole : l.cls = 0 → l.total ≤ u.teamCapacity l)
    (hroom : (u.launches.filter (fun x => x.2.die == dieOfCore (coreOfKey c.w) && x.2.prio == l.prio && x.2.queued)).length <
      Config.queueDepth) :
    s.launchRecord c w d r = .done (u.enqueue c w d l false) := by
  have hconcurrent : ¬(l.cls = 0 ∧ u.teamCapacity l < l.total) := fun ⟨hcls, hless⟩ => absurd (hwhole hcls) (not_le.mpr hless)
  have hnone : (if w.asid = 0 ∧ s.lock = .nonSecure then (none : Option DWord) else none) = none := ite_self none
  subst hl hmask
  simp only [State.launchRecord, hinherit, hcad, hclr, hlive, State.launchClearance, decide_true, if_true, if_false, hnone, hread,
    State.permEvents, List.foldl_nil, hsound, Bool.true_eq_false]
  rw [if_neg hdies, if_neg hfits, if_neg hconcurrent, if_neg (not_le.mpr hroom)]

/-- The machine once the launch stands in its queue, before LAUNCH retires. -/
def State.joinQueue (s : State) (c : Cur) (w : Warp) (l : Launch) (tagged : Bool) : State :=
  let old := (s.ctxOf l.asid).tagged && s.launches.any (fun x => x.2.asid == l.asid)
  let q : State := { s with
    launches := Assoc.put s.launches s.fresh
      { l with number := (s.launchNo[l.die]?).getD 0, order := s.fresh, known := w.launchKnown c.w c.p }
    fresh := s.fresh + 1
    launchNo := listUpd s.launchNo l.die (fun x => x + 1) }
  q.updCtx l.asid (fun x => { x with tagged := old || tagged || decide (l.principal ≠ 0), launchPriv := x.launchPriv || l.grant })

theorem State.enqueue_eq (s : State) (c : Cur) (w : Warp) (d : Code) (l : Launch) (tagged : Bool) :
    s.enqueue c w d l tagged = (s.joinQueue c w l tagged).retireWith c (fun w => w.wr d 0 ((s.launchNo[l.die]?).getD 0)) := rfl

theorem State.ctxOf_updCtx (s : State) (k j : Nat) (f : Ctx → Ctx) :
    (s.updCtx k f).ctxOf j = if j = k then f (s.ctxOf k) else s.ctxOf j := Assoc.get_set ..

/-- Joining the queue changes no debug register. -/
theorem State.joinQueue_debugOn (s : State) (c : Cur) (w : Warp) (l : Launch) (tagged : Bool) (x : Warp) :
    (s.joinQueue c w l tagged).debugOn x = s.debugOn x := by
  simp only [State.debugOn, State.joinQueue, State.ctxOf_updCtx]
  split
  · next h => rw [h]; rfl
  · rfl

theorem State.joinQueue_launchPriv (s : State) (c : Cur) (w : Warp) (l : Launch) (tagged : Bool) :
    ((s.joinQueue c w l tagged).ctxOf l.asid).launchPriv = ((s.ctxOf l.asid).launchPriv || l.grant) := by
  simp only [State.joinQueue, State.ctxOf_updCtx, if_true]
  rfl

/-- The number after the launch's own is the next of its die (R153). -/
theorem State.joinQueue_launchNo (s : State) (c : Cur) (w : Warp) (l : Launch) (tagged : Bool) (h : l.die < s.launchNo.length) :
    (s.joinQueue c w l tagged).launchNo[l.die]? = some ((s.launchNo[l.die]?).getD 0 + 1) := by
  simp only [State.joinQueue, State.updCtx_launchNo, listUpd_get, if_true, List.getElem?_eq_getElem h, Option.map_some,
    Option.getD_some]

/-- LAUNCH retires with the launch's number in its destination. -/
theorem State.enqueue_retires (s : State) (c : Cur) (w : Warp) (d : Code) (l : Launch) (tagged : Bool) (hw : s.warp? c.w = some w)
    (hd : s.debugOn w = false) : s.enqueue c w d l tagged =
      (s.joinQueue c w l tagged).setWarp c.w ((w.wr d 0 ((s.launchNo[l.die]?).getD 0)).afterRetire c false) := by
  have hasid : (w.wr d 0 ((s.launchNo[l.die]?).getD 0)).asid = w.asid := by rw [w.wr_withRegs]; rfl
  have hwq : (s.joinQueue c w l tagged).warp? c.w = some w := hw
  rw [State.enqueue_eq]
  exact State.retireWith_moved hwq ((s.joinQueue_debugOn c w l tagged w).trans hd) _ hasid

end

/-! ### Dependence conditions (R158) -/

/-- A condition whose word has reached its value holds, and the launch knows what the word's writers told. -/
theorem exec_dependenceConditionRead_reached {s q : State} {id k tag : Nat} {l : Launch} {d : Dep} {h : Hit}
    (hl : s.launch? id = some l) (hd : l.deps[k]? = some d) (hholds : d.holds = false) (hfailed : d.failed = false)
    (hqueued : l.queued = true) (hread : s.resolveRead l.who d.addr.toNat 4 = .ok (some h, tag) q)
    (hvalue : d.value.toNat ≤ natOfBytes (q.peekBytes h.place h.off 4)) :
    exec (.dependenceConditionRead id k) s =
      .next ((q.updDep id k (fun d => { d with holds := true })).updLaunch id (fun l =>
        { l with known := l.known ++ q.toldAt h.place h.off 4 })) := by
  simp only [exec_dependenceConditionRead, execDependenceConditionRead, State.depTry, hl, hd, hholds, hfailed, hqueued, hread, hvalue,
    Bool.not_true, Bool.or_false, Bool.false_eq_true, if_false, if_true]

/-- Settles O48: LAUNCH reads its record by `launchTry`; a launch that passes joins its queue (`State.joinQueue`) and LAUNCH
retires. -/
theorem launchesQueue : Obligations.LaunchesQueue := by
  unfold Obligations.LaunchesQueue
  refine ⟨fun d a s q c w vals h _ => ⟨fun hfar => ?_, fun hnear hal => ?_, fun hnear hal hform hread => ?_⟩,
    fun s u c w d r h hinherit hcad hclr hlive hread hsound => ?_,
    fun s c w d l tagged hw hp _ => ⟨s.joinQueue c w l tagged, s.enqueue_retires c w d l tagged hw hp.debug, rfl, rfl,
      s.joinQueue_launchPriv c w l tagged, s.joinQueue_launchNo c w l tagged⟩,
    fun s t key w h d a hw hhalt hheld hwhy hi ht => exec_launchEnqueue_done hw hhalt hheld hwhy hi ht,
    fun s q id k tag l d h hl hd hholds hfailed hqueued hread hvalue =>
      exec_dependenceConditionRead_reached hl hd hholds hfailed hqueued hread hvalue⟩
  · exact exec_launch_done h (State.launchTry_far hfar)
  · exact exec_launch_done h (State.launchTry_misaligned hnear hal)
  · have hrecord : ReadsRecord a s q c w vals := ⟨hnear, hal, hform, hread⟩
    exact ⟨fun off hb => exec_launch_done h (hrecord.broken hb),
      fun hb hfull => exec_launch_full h ((hrecord.checked hb).trans hfull),
      fun t hb hdone => exec_launch_done h ((hrecord.checked hb).trans hdone),
      fun t hb hwait => exec_launch_wait h ((hrecord.checked hb).trans hwait)⟩
  · intro die mask l hdies hfits hwhole hroom
    exact State.launchRecord_enqueues hinherit hcad hclr hlive hread hsound rfl rfl hdies hfits hwhole hroom

end Sys2Proof.Machine
end

section
/-! ## Family 10: the machine after reset, and a warp as it starts -/
namespace Sys2Proof.Machine

/-- A warp with no register listed reads zero in every register but m0, which reads all ones. -/
theorem Warp.rd_unlisted {w : Warp} (hv : w.v = []) (hs : w.sreg = []) (hm : w.m = []) (r : Code) (l : Nat)
    (hr : classOf r = .lane ∨ classOf r = .uniform ∨ (classOf r = .mask ∧ r ≠ 0xC0)) : w.rd r l = 0 := by
  rcases hr with h | h | ⟨h, hne⟩
  · simp only [Warp.rd, h, hv]; rfl
  · simp only [Warp.rd, h, hs]; rfl
  · simp only [Warp.rd, h, hm, if_neg hne]; rfl

/-- Settles O55: each field of `State.reset` and of `Warp.start` is read off; a starting warp lists no register. -/
theorem resetState : Obligations.ResetState := by
  unfold Obligations.ResetState
  refine ⟨rfl, rfl, rfl, rfl, rfl, rfl, fun launch team wg i asid principal priv clr pc known => ?_⟩
  exact ⟨Warp.rd_unlisted rfl rfl rfl, rfl, rfl, rfl, rfl, rfl, rfl, rfl⟩

end Sys2Proof.Machine
end

section
/-! ## Family 10: the slots and groups that a team is placed in -/
namespace Sys2Proof.Machine

/-! ### Slots of a workgroup (R150, R160) -/

theorem mem_numsFrom {a n k : Nat} : k ∈ numsFrom a n ↔ a ≤ k ∧ k < a + n := by
  rw [numsFrom_eq_range', List.mem_range'_1]

theorem nodup_numsFrom (a n : Nat) : (numsFrom a n).Nodup := by
  rw [numsFrom_eq_range']
  exact List.nodup_range'

section
variable {used : List Nat} {l : Launch} {p n k v w : Nat}

theorem mem_freeSlots (h : k ∈ freeSlots used p n) : 16 * p ≤ k ∧ k < 16 * p + 16 :=
  mem_numsFrom.mp (List.mem_of_mem_filter (List.mem_of_mem_take h))

theorem nodup_freeSlots (used : List Nat) (p n : Nat) : (freeSlots used p n).Nodup :=
  ((nodup_numsFrom _ _).filter _).sublist (List.take_sublist _ _)

/-- Each partition has a free slot for every warp of the workgroup that lies in it. -/
def SlotsSuffice (used : List Nat) (l : Launch) : Prop := ∀ p, p < 4 → (freeSlots used p (l.warpsIn p)).length = l.warpsIn p

/-- The slot of warp `w`: of the free ones of partition w mod 4 the one at position w div 4. -/
def slotAt (used : List Nat) (l : Launch) (w : Nat) : Nat := ((freeSlots used (w % 4) (l.warpsIn (w % 4)))[w / 4]?).getD 0

theorem slotsFor_eq (used : List Nat) (l : Launch) : slotsFor used l = (numsFrom 0 l.wgWarps).map (slotAt used l) := by
  refine List.map_congr_left fun w _ => ?_
  have hp : w % 4 < 4 := Nat.mod_lt _ (by decide)
  simp [slotAt, numsFrom_eq_range', hp]

/-- Where the slots suffice, a warp's slot is one of its partition's free slots. -/
theorem SlotsSuffice.getElem?_slotAt (h : SlotsSuffice used l) (hw : w < l.wgWarps) :
    w / 4 < (freeSlots used (w % 4) (l.warpsIn (w % 4))).length ∧
      (freeSlots used (w % 4) (l.warpsIn (w % 4)))[w / 4]? = some (slotAt used l w) := by
  have hlt : w / 4 < (freeSlots used (w % 4) (l.warpsIn (w % 4))).length := by
    rw [h _ (Nat.mod_lt _ (by decide)), Launch.warpsIn]
    omega
  exact ⟨hlt, by rw [slotAt, List.getElem?_eq_getElem hlt, Option.getD_some]⟩

theorem SlotsSuffice.slotAt_range (h : SlotsSuffice used l) (hw : w < l.wgWarps) :
    16 * (w % 4) ≤ slotAt used l w ∧ slotAt used l w < 16 * (w % 4) + 16 :=
  mem_freeSlots (List.mem_of_getElem? (h.getElem?_slotAt hw).2)

/-- Where the slots suffice, no two warps share one: they differ in the partition, or in the position in it. -/
theorem SlotsSuffice.slotAt_inj (h : SlotsSuffice used l) (hv : v < l.wgWarps) (hw : w < l.wgWarps)
    (he : slotAt used l v = slotAt used l w) : v = w := by
  have hpart : v % 4 = w % 4 := by
    have hrv := h.slotAt_range hv
    have hrw := h.slotAt_range hw
    omega
  obtain ⟨hlt, hgetv⟩ := h.getElem?_slotAt hv
  obtain ⟨-, hgetw⟩ := h.getElem?_slotAt hw
  have hpos : v / 4 = w / 4 := by
    rw [hpart] at hlt hgetv
    exact (List.getElem?_inj hlt (nodup_freeSlots ..)).mp (hgetv.trans (he ▸ hgetw.symm))
  omega

/-- Slots of one core, each for one warp. -/
def OwnSlots (slots : List Nat) : Prop := slots.Nodup ∧ ∀ k ∈ slots, k < Config.slotsPerCore

theorem SlotsSuffice.ownSlots (h : SlotsSuffice used l) : OwnSlots (slotsFor used l) := by
  rw [slotsFor_eq]
  refine ⟨List.Nodup.map_on (fun v hv w hw he => ?_) (nodup_numsFrom _ _), fun k hk => ?_⟩
  · exact h.slotAt_inj (by simpa using (mem_numsFrom.mp hv).2) (by simpa using (mem_numsFrom.mp hw).2) he
  · obtain ⟨w, hw, rfl⟩ := List.mem_map.mp hk
    have hrange := h.slotAt_range (w := w) (by simpa using (mem_numsFrom.mp hw).2)
    show slotAt used l w < 64
    omega

end

/-! ### Groups of a team -/

section
variable {s : State} {l : Launch} {core : Nat} {gs : List Group}

theorem State.roomOn_ownSlots {r : Nat × List Nat} (h : s.roomOn core l = some r) : OwnSlots r.2 := by
  simp only [State.roomOn] at h
  split at h
  · next hok =>
    have hsuffice : SlotsSuffice ((s.groupsOn core).flatMap (fun x => x.2.slots)) l := by
      simp only [Bool.and_eq_true, List.all_eq_true, decide_eq_true_eq] at hok
      exact fun p hp => hok.1.1 p (mem_numsFrom.mpr ⟨Nat.zero_le p, by omega⟩)
    split at h
    · rw [← Option.some.inj h]
      exact hsuffice.ownSlots
    · obtain ⟨b, -, rfl⟩ := Option.map_eq_some_iff.mp h
      exact hsuffice.ownSlots
  · cases h

/-- The groups lie on different cores, each with a slot of its own for every warp. -/
structure Apart (gs : List Group) : Prop where
  cores : (gs.map Group.core).Nodup
  slots : ∀ g ∈ gs, OwnSlots g.slots

theorem State.roomsAt_apart (h : s.roomsAt l core = some gs) : Apart gs := by
  simp only [State.roomsAt] at h
  split at h
  · cases h
  · next a ha =>
    split at h
    · rw [← Option.some.inj h]
      exact ⟨by simp, by simpa [Group.fresh] using State.roomOn_ownSlots ha⟩
    · obtain ⟨b, hb, rfl⟩ := Option.map_eq_some_iff.mp h
      exact ⟨by simp [Group.fresh], by simpa [Group.fresh] using ⟨State.roomOn_ownSlots ha, State.roomOn_ownSlots hb⟩⟩

theorem Group.keyAt_eq_some {g : Group} {i key : Nat} :
    g.keyAt i = some key ↔ ∃ k, g.slots[i]? = some k ∧ g.core * Config.slotsPerCore + k = key := Option.map_eq_some_iff

/-- A key names one group of the team and one warp of it. -/
theorem Apart.keyAt_inj (h : Apart gs) {i j v w key : Nat} {x y : Group} (hx : gs[i]? = some x) (hy : gs[j]? = some y)
    (hv : x.keyAt v = some key) (hw : y.keyAt w = some key) : i = j ∧ v = w := by
  obtain ⟨a, ha, hak⟩ := Group.keyAt_eq_some.mp hv
  obtain ⟨b, hb, hbk⟩ := Group.keyAt_eq_some.mp hw
  have halt : a < 64 := (h.slots x (List.mem_of_getElem? hx)).2 a (List.mem_of_getElem? ha)
  have hblt : b < 64 := (h.slots y (List.mem_of_getElem? hy)).2 b (List.mem_of_getElem? hb)
  simp only [Config.slotsPerCore] at hak hbk
  have hgroup : i = j := by
    have hcore : x.core = y.core := by omega
    have hi : i < (gs.map Group.core).length := by simpa using (List.getElem?_eq_some_iff.mp hx).1
    exact (List.getElem?_inj hi h.cores).mp (by simp [hx, hy, hcore])
  subst hgroup
  have hxy : x = y := Option.some.inj (hx.symm.trans hy)
  subst hxy
  have hslot : a = b := by omega
  exact ⟨rfl, (List.getElem?_inj (List.getElem?_eq_some_iff.mp ha).1 (h.slots x (List.mem_of_getElem? hx)).1).mp
    (ha.trans (hslot ▸ hb.symm))⟩

end

end Sys2Proof.Machine
end

section
/-! ## Family 10: what placing a team leaves -/
namespace Sys2Proof.Machine

/-- What one element of a list brings about, and no other element undoes, holds after the list has been gone through. -/
theorem foldl_reaches {α β : Type} {P : β → Prop} {f : β → α → β} {xs : List α} {a : α} (ha : a ∈ xs) (hset : ∀ b, P (f b a))
    (hkeep : ∀ b, ∀ x ∈ xs, x ≠ a → P b → P (f b x)) (b : β) : P (xs.foldl f b) := by
  obtain ⟨before, after, rfl⟩ := List.append_of_mem ha
  rw [List.foldl_append, List.foldl_cons]
  refine List.foldlRecOn after f (hset _) fun b hb x hx => ?_
  by_cases hxa : x = a
  · exact hxa ▸ hset b
  · exact hkeep b x (by simp [hx]) hxa hb

theorem withPos_eq {α : Type} (xs : List α) (p : Nat) : withPos xs p = (xs.zipIdx p).map Prod.swap := by
  induction xs generalizing p with
  | nil => rfl
  | cons x r ih => rw [withPos, ih, List.zipIdx_cons, List.map_cons, Prod.swap_prod_mk]

theorem mem_withPos {α : Type} {xs : List α} {e : Nat × α} : e ∈ withPos xs 0 ↔ xs[e.1]? = some e.2 := by
  obtain ⟨i, x⟩ := e
  simp [withPos_eq, List.mem_zipIdx_iff_getElem?]

/-! ### Starting the warps (R162) -/

/-- Warp `k` of workgroup `wg` of a team as it starts (R162). -/
def Launch.startingWarp (l : Launch) (id team wg k : Nat) : Warp :=
  Warp.start id team wg k l.asid l.principal l.privileged l.clearance (pairTarget (l.header + BitVec.ofNat 64 l.entry)) l.known

/-- The state with warp `k` of a group started, where the group has a slot for it. -/
def State.startWarp (s : State) (id team wg : Nat) (l : Launch) (g : Group) (k : Nat) : State :=
  match g.keyAt k with
  | none => s
  | some key => { s with warps := Assoc.put s.warps key (l.startingWarp id team wg k) }

section
variable {s q : State} {id team wg index k key : Nat} {l : Launch} {g : Group} {gs : List Group}

theorem State.startGroup_eq (s : State) (id team wg : Nat) (l : Launch) (g : Group) :
    s.startGroup id team wg l g = (numsFrom 0 l.wgWarps).foldl (fun q k => q.startWarp id team wg l g k) s := rfl

theorem State.startWarp_keeps (s : State) (id team wg : Nat) (l : Launch) (g : Group) (k : Nat) :
    s.startWarp id team wg l g k = { s with warps := (s.startWarp id team wg l g k).warps } := by
  simp only [State.startWarp]
  split <;> rfl

theorem State.startWarp_warp? (s : State) (id team wg : Nat) (l : Launch) (g : Group) (k key : Nat) :
    (s.startWarp id team wg l g k).warp? key = if g.keyAt k = some key then some (l.startingWarp id team wg k) else s.warp? key := by
  simp only [State.startWarp]
  cases hk : g.keyAt k with
  | none => rfl
  | some j =>
    simp only [State.warp?, Assoc.at?_put, Option.some.injEq, eq_comm (a := key)]

theorem State.startGroup_keeps (s : State) (id team wg : Nat) (l : Launch) (g : Group) :
    s.startGroup id team wg l g = { s with warps := (s.startGroup id team wg l g).warps } := by
  rw [State.startGroup_eq]
  exact foldl_keeps (fun q : State => q = { s with warps := q.warps }) _
    (fun q k hq => by rw [State.startWarp_keeps, hq]) (numsFrom 0 l.wgWarps) s rfl

/-- A key that names no warp of the group holds what it held. -/
theorem State.startGroup_warp?_other (hg : ∀ k, g.keyAt k ≠ some key) :
    (s.startGroup id team wg l g).warp? key = s.warp? key := by
  rw [State.startGroup_eq]
  exact foldl_keeps (fun q : State => q.warp? key = s.warp? key) _
    (fun q k hq => by rw [State.startWarp_warp?, if_neg (hg k), hq]) (numsFrom 0 l.wgWarps) s rfl

/-- The key of a warp of the group holds that warp as it starts. -/
theorem State.startGroup_warp?_self (hk : k < l.wgWarps) (hkey : g.keyAt k = some key) (hown : ∀ j, g.keyAt j = some key → j = k) :
    (s.startGroup id team wg l g).warp? key = some (l.startingWarp id team wg k) := by
  rw [State.startGroup_eq]
  refine foldl_reaches (P := fun q : State => q.warp? key = some (l.startingWarp id team wg k))
    (mem_numsFrom.mpr ⟨Nat.zero_le k, by omega⟩) (fun q => ?_) (fun q j _ hj hq => ?_) s
  · rw [State.startWarp_warp?, if_pos hkey]
  · rw [State.startWarp_warp?, if_neg (fun h => hj (hown j h)), hq]

/-! ### Starting a team (R150, R160) -/

/-- A team of a launch in these groups. -/
def Launch.teamIn (l : Launch) (id index : Nat) (gs : List Group) : Team :=
  { launch := id, index := index, x := index % l.gridX, y := index / l.gridX % l.gridY, z := index / (l.gridX * l.gridY)
    groups := gs, record := none, saving := false }

/-- The machine with the team listed and its warps started. -/
def State.startTeam (s : State) (id index : Nat) (l : Launch) (gs : List Group) : State :=
  (withPos gs 0).foldl (fun q g => q.startGroup id s.fresh g.1 l g.2)
    { s.takeFree with teams := Assoc.put s.teams s.fresh (l.teamIn id index gs), fresh := s.fresh + 1 }

/-- A team is placed in groups that lie apart. -/
theorem State.placeTeam_inv (h : s.placeTeam id l index = some q) : ∃ gs, Apart gs ∧ q = s.startTeam id index l gs := by
  simp only [State.placeTeam] at h
  split at h
  · cases h
  · next gs hchosen =>
    have hroom : gs ∈ (s.firstCores l).filterMap (fun c => s.roomsAt l c) := by
      have hmem := List.mem_of_getElem? hchosen
      split at hmem
      · exact hmem
      · exact List.mem_of_mem_filter hmem
    obtain ⟨core, -, hcore⟩ := List.mem_filterMap.mp hroom
    exact ⟨gs, State.roomsAt_apart hcore, (Option.some.inj h).symm⟩

theorem State.startTeam_keeps (s : State) (id index : Nat) (l : Launch) (gs : List Group) :
    s.startTeam id index l gs = { s with
      free := s.free + 1, teams := Assoc.put s.teams s.fresh (l.teamIn id index gs), fresh := s.fresh + 1
      warps := (s.startTeam id index l gs).warps } :=
  foldl_keeps (fun q : State => q = { s with
      free := s.free + 1, teams := Assoc.put s.teams s.fresh (l.teamIn id index gs), fresh := s.fresh + 1
      warps := q.warps }) _
    (fun q g hq => by rw [State.startGroup_keeps, hq]) (withPos gs 0) _ rfl

theorem State.startTeam_team? (s : State) (id index : Nat) (l : Launch) (gs : List Group) (k : Nat) :
    (s.startTeam id index l gs).team? k = if k = s.fresh then some (l.teamIn id index gs) else s.team? k := by
  rw [State.startTeam_keeps]
  exact Assoc.at?_put ..

theorem State.startTeam_fresh (s : State) (id index : Nat) (l : Launch) (gs : List Group) :
    (s.startTeam id index l gs).fresh = s.fresh + 1 := by rw [State.startTeam_keeps]

theorem State.startTeam_launches (s : State) (id index : Nat) (l : Launch) (gs : List Group) :
    (s.startTeam id index l gs).launches = s.launches := by rw [State.startTeam_keeps]

/-- Each warp of the team stands under its key as it starts. -/
theorem State.startTeam_warp? (hgs : Apart gs) (hg : gs[wg]? = some g) (hk : k < l.wgWarps) (hkey : g.keyAt k = some key) :
    (s.startTeam id index l gs).warp? key = some (l.startingWarp id s.fresh wg k) := by
  refine foldl_reaches (P := fun q : State => q.warp? key = some (l.startingWarp id s.fresh wg k)) (a := (wg, g))
    (mem_withPos.mpr hg) (fun q => ?_) (fun q e he hne hq => ?_) _
  · exact State.startGroup_warp?_self hk hkey fun j hj => (hgs.keyAt_inj hg hg hj hkey).2
  · rw [State.startGroup_warp?_other fun j hj => ?_, hq]
    obtain ⟨hwg, -⟩ := hgs.keyAt_inj (mem_withPos.mp he) hg hj hkey
    have heg : e.2 = g := Option.some.inj ((mem_withPos.mp he).symm.trans (hwg ▸ hg))
    exact hne (Prod.ext hwg heg)

/-! ### Placing teams (R160, R161) -/

theorem State.placeTeams_cons (i : Nat) (r : List Nat) : s.placeTeams id l (i :: r) = some q ↔
    ∃ u, s.placeTeam id l i = some u ∧ u.placeTeams id l r = some q := Option.bind_eq_some_iff

theorem State.placeTeams_launches {is : List Nat} (h : s.placeTeams id l is = some q) : q.launches = s.launches := by
  induction is generalizing s with
  | nil => rw [Option.some.inj h]
  | cons i r ih =>
    obtain ⟨u, hu, hr⟩ := (State.placeTeams_cons i r).mp h
    obtain ⟨gs, -, rfl⟩ := State.placeTeam_inv hu
    rw [ih hr, State.startTeam_launches]

/-- A team that has its identity stays as it is. -/
theorem State.placeTeams_team?_old {is : List Nat} (h : s.placeTeams id l is = some q) (hk : k < s.fresh) : q.team? k = s.team? k := by
  induction is generalizing s with
  | nil => rw [Option.some.inj h]
  | cons i r ih =>
    obtain ⟨u, hu, hr⟩ := (State.placeTeams_cons i r).mp h
    obtain ⟨gs, -, rfl⟩ := State.placeTeam_inv hu
    rw [ih hr (by rw [State.startTeam_fresh]; omega), State.startTeam_team?, if_neg hk.ne]

/-- Every team that was to be placed is there. -/
theorem State.placeTeams_team? {is : List Nat} (h : s.placeTeams id l is = some q) {i : Nat} (hi : i ∈ is) :
    ∃ k t, q.team? k = some t ∧ t.launch = id ∧ t.index = i := by
  induction is generalizing s with
  | nil => cases hi
  | cons j r ih =>
    obtain ⟨u, hu, hr⟩ := (State.placeTeams_cons j r).mp h
    rcases List.mem_cons.mp hi with rfl | hi
    · obtain ⟨gs, -, rfl⟩ := State.placeTeam_inv hu
      refine ⟨s.fresh, l.teamIn id i gs, ?_, rfl, rfl⟩
      rw [State.placeTeams_team?_old hr (by rw [State.startTeam_fresh]; omega), State.startTeam_team?, if_pos rfl]
    · exact ih hr hi

end

end Sys2Proof.Machine
end

section
/-! ## Family 10: teams are admitted and readmitted -/
namespace Sys2Proof.Machine

theorem exec_teamAdmission (die : Nat) (s : State) : exec (.teamAdmission die) s = execTeamAdmission die s := rfl
theorem exec_teamReadmission (die : Nat) (s : State) : exec (.teamReadmission die) s = execTeamReadmission die s := rfl

/-- The current launch has a team to admit or to readmit (R158). -/
theorem State.current_unfinished {s : State} {die id : Nat} {l : Launch} (h : s.current die = some (id, l)) :
    l.next < l.total ∨ l.saved ≠ [] := by
  have hchosen : ∀ e, s.current die = some e → e.2.next < e.2.total ∨ e.2.saved ≠ [] := by
    refine List.foldlRecOn (motive := fun b => ∀ e : Nat × Launch, b = some e → e.2.next < e.2.total ∨ e.2.saved ≠ []) _ _ nofun
      fun b hb x hx e he => ?_
    have hcan : x.2.next < x.2.total ∨ x.2.saved ≠ [] := by
      simpa using (Bool.and_eq_true_iff.mp (List.mem_filter.mp hx).2).2
    cases b with
    | none => exact Option.some.inj he ▸ hcan
    | some y =>
      simp only at he
      split at he
      · exact Option.some.inj he ▸ hcan
      · exact hb e he
  exact hchosen _ h

theorem State.orReclaim_nil {q : State} (s : State) {l : Launch} (h : q.lentOver l = []) : q.orReclaim s l = q := by
  rw [State.orReclaim, h]

/-- The machine after a launch has had `n` more teams admitted: with its last team it leaves its queue. -/
def State.admitted (q : State) (id n : Nat) : State :=
  q.updLaunch id (fun l => { l with next := l.next + n, queued := decide (l.next + n < l.total) })

/-- How many teams of a launch are admitted together (R161). -/
def Launch.together (l : Launch) : Nat := if l.cls = 0 then l.total - l.next else 1

section
variable {s q : State} {die id index : Nat} {l : Launch}

/-- The current launch of the die has no saved team, and no reclaim is under way on its dies. -/
structure Admits (s : State) (die id : Nat) (l : Launch) : Prop where
  current : s.current die = some (id, l)
  settled : s.reclaiming l = false
  unsaved : l.saved = []

theorem Admits.admitted (h : Admits s die id l) (hq : s.placeTeams id l (numsFrom l.next l.together) = some q)
    (hlent : (q.admitted id l.together).lentOver l = []) :
    exec (.teamAdmission die) s = .next (q.admitted id l.together) := by
  have hplace : s.placeTeams id l (numsFrom l.next (if l.cls = 0 then l.total - l.next else 1)) = some q := hq
  have hstay : (q.admitted id l.together).orReclaim s l = q.admitted id l.together := State.orReclaim_nil s hlent
  simp only [exec_teamAdmission, execTeamAdmission, State.admitTry, h.current, h.settled, h.unsaved, hplace, List.isEmpty_nil,
    Bool.not_true, Bool.or_false, Bool.false_eq_true, if_false]
  exact congrArg Host.Outcome.next hstay

theorem Admits.refused (h : Admits s die id l) (hq : s.placeTeams id l (numsFrom l.next l.together) = none) :
    exec (.teamAdmission die) s = .refused .notEnabled := by
  have hplace : s.placeTeams id l (numsFrom l.next (if l.cls = 0 then l.total - l.next else 1)) = none := hq
  simp only [exec_teamAdmission, execTeamAdmission, State.admitTry, h.current, h.settled, h.unsaved, hplace, List.isEmpty_nil,
    Bool.not_true, Bool.or_false, Bool.false_eq_true, if_false]

theorem State.placeTeams_single (s : State) (id : Nat) (l : Launch) (i : Nat) : s.placeTeams id l [i] = s.placeTeam id l i :=
  Option.bind_fun_some _

/-- A launch that is not concurrent has one team placed at a time. -/
theorem State.placeTeams_next (s : State) (id : Nat) (hcls : l.cls ≠ 0) :
    s.placeTeams id l (numsFrom l.next l.together) = s.placeTeam id l l.next := by
  rw [Launch.together, if_neg hcls]
  exact s.placeTeams_single id l l.next

theorem State.admitted_one (q : State) (id : Nat) (hcls : l.cls ≠ 0) : q.admitted id l.together =
    q.updLaunch id (fun l => { l with next := l.next + 1, queued := decide (l.next + 1 < l.total) }) := by
  rw [Launch.together, if_neg hcls, State.admitted]

/-- Once all teams of a concurrent launch are admitted, none is left and the launch is in no queue. -/
theorem Admits.admitted_all (h : Admits s die id l) (hcls : l.cls = 0) (hq : q.launch? id = some l) :
    q.admitted id l.together = q.updLaunch id (fun l => { l with next := l.total, queued := false }) := by
  have hmore : l.next < l.total := (State.current_unfinished h.current).resolve_right (not_not.mpr h.unsaved)
  have hsum : l.next + l.together = l.total := by rw [Launch.together, if_pos hcls]; omega
  rw [State.admitted, State.updLaunch, State.updLaunch,
    Assoc.upd_congr q.launches id _ (fun l => { l with next := l.total, queued := false }) l hq]
  rw [hsum, decide_eq_false (lt_irrefl _)]

/-- A saved team that is placed and restored is readmitted before any new one (R371). -/
theorem exec_teamReadmission_restored {r : Nat} {rest : List (Nat × Nat)} {u : State} (hcur : s.current die = some (id, l))
    (hsettled : s.reclaiming l = false) (hcls : l.cls ≠ 0) (hsaved : l.saved = (index, r) :: rest) (hdone : l.doneFailed = false)
    (hq : s.placeTeam id l index = some q) (hlent : q.lentOver l = []) (hrestore : q.restoreTeams id l [(index, r)] = .done u) :
    exec (.teamReadmission die) s =
      .next (u.updLaunch id (fun x => { x with saved := x.saved.drop 1, savedSyncs := x.savedSyncs.drop 1 })) := by
  have hplace : s.placeTeams id l [index] = some q := (s.placeTeams_single id l index).trans hq
  have hbusy : (l.cls == 0) = false := beq_eq_false_iff_ne.mpr hcls
  simp only [exec_teamReadmission, execTeamReadmission, State.readmitTry, hcur, hsettled, hsaved, hdone, hbusy, if_neg hcls,
    List.take_succ_cons, List.take_zero, List.map_cons, List.map_nil, hplace, hlent, hrestore, List.isEmpty_cons, Bool.false_and,
    Bool.or_false, Bool.false_eq_true, if_false, List.length_singleton]

end

end Sys2Proof.Machine
end

section
/-! ## Family 10: warps, teams and launches complete -/
namespace Sys2Proof.Machine

theorem exec_warpCompletion (key : Nat) (s : State) : exec (.warpCompletion key) s = execWarpCompletion key s := rfl
theorem exec_teamCompletion (team : Nat) (s : State) : exec (.teamCompletion team) s = execTeamCompletion team s := rfl

/-! ### Warps (R130) -/

theorem State.group?_updGroup (s : State) (t g : Nat) (f : Group → Group) : (s.updGroup t g f).group? t g = (s.group? t g).map f := by
  simp only [State.group?, State.team?, State.updGroup, State.updTeam, Assoc.at?_upd, if_true]
  cases Assoc.at? s.teams t with
  | none => rfl
  | some x => simp [listUpd_get]

/-- The machine once a warp has completed (R130, R163): it stands no more, nor do its fences and engine operations, and its accumulator
tiles are free. -/
def State.completeWarp (s : State) (key : Nat) (w : Warp) : State :=
  let q := (s.updGroup w.team w.wg (fun g => { g with tiles := g.tiles.filter (fun t => t.2.owner != some w.warpId) })).updLaunch w.launch
    (fun l => { l with made := l.made ++ w.allKnown key })
  { q with warps := Assoc.erase s.warps key, fences := s.fences.filter (fun f => f.w != key)
           engines := s.engines.filter (fun e => e.2.w != key) }

section
variable {s : State} {key : Nat} {w : Warp}

theorem exec_warpCompletion_done (hw : s.warp? key = some w) (hd : s.warpDone key = true) :
    exec (.warpCompletion key) s = .next (s.completeWarp key w) := by
  simp only [exec_warpCompletion, execWarpCompletion, hw, hd, if_true]
  rfl

theorem State.completeWarp_warp? (s : State) (key : Nat) (w : Warp) (j : Nat) :
    (s.completeWarp key w).warp? j = if j = key then none else s.warp? j := Assoc.at?_erase ..

theorem State.completeWarp_engines {e : Nat × EngOp} (he : e ∈ (s.completeWarp key w).engines) : e.2.w ≠ key := by
  simpa using (List.mem_filter.mp he).2

theorem State.completeWarp_tiles {g : Group} (hg : (s.completeWarp key w).group? w.team w.wg = some g) {x : Nat × Tile}
    (hx : x ∈ g.tiles) : x.2.owner ≠ some w.warpId := by
  have hgroup : ((s.group? w.team w.wg).map (fun g => { g with tiles := g.tiles.filter (fun t => t.2.owner != some w.warpId) })) =
      some g := (s.group?_updGroup _ _ _).symm.trans hg
  obtain ⟨old, -, rfl⟩ := Option.map_eq_some_iff.mp hgroup
  simpa using (List.mem_filter.mp hx).2

theorem State.warpDone_warp? (h : s.warpDone key = true) : ∃ w, s.warp? key = some w := by
  simp only [State.warpDone] at h
  split at h
  · cases h
  · next w hw => exact ⟨w, hw⟩

end

/-! ### Completion actions (R159, R163) -/

/-- The word that the completion action writes over `old`: the sum, or the barrier word after the arrival. -/
def Launch.doneWord (l : Launch) (old : Word) : Option Word :=
  if l.doneKind = 1 then some (old + l.doneValue) else arriveWord old l.doneValue.toNat

theorem Launch.doneWord_add {l : Launch} (h : l.doneKind = 1) (old : Word) : l.doneWord old = some (old + l.doneValue) := if_pos h

theorem Launch.doneWord_arrive {l : Launch} (h : l.doneKind = 2) (old : Word) :
    l.doneWord old = arriveWord old l.doneValue.toNat := if_neg (by omega)

section
variable {q u : State} {l : Launch}

theorem State.completionAction_none (h : l.doneKind = 0) : q.completionAction l = (some true, q) := if_pos h

/-- An action that reaches its word writes it, and nothing else changes but what the write tells. -/
theorem State.completionAction_made {h : Hit} {x : Word} (hkind : l.doneKind ≠ 0)
    (hreach : q.resolveWrite l.who l.doneAddr.toNat 4 = .ok (h, none) u) (hsound : u.badAt h.place h.off 4 = false)
    (hx : l.doneWord (BitVec.ofNat 32 (natOfBytes (u.peekBytes h.place h.off 4))) = some x) :
    ∃ v : State, q.completionAction l = (some true, v) ∧
      v = { u.poke h.place h.off (bytesOfNat 4 x.toNat) with told := v.told } := by
  simp only [State.completionAction, if_neg hkind, hreach, hsound, Bool.false_eq_true, if_false]
  by_cases hadd : l.doneKind = 1
  · rw [Launch.doneWord, if_pos hadd] at hx
    rw [if_pos hadd, ← Option.some.inj hx]
    exact ⟨_, rfl, rfl⟩
  · rw [Launch.doneWord, if_neg hadd] at hx
    rw [if_neg hadd, hx]
    exact ⟨_, rfl, rfl⟩

theorem State.completionAction_waits (hkind : l.doneKind ≠ 0) (hwait : q.resolveWrite l.who l.doneAddr.toNat 4 = .wait u) :
    q.completionAction l = (none, u) := by
  simp only [State.completionAction, if_neg hkind, hwait]

theorem State.completionAction_fails {k b : Nat} (hkind : l.doneKind ≠ 0)
    (hcause : q.resolveWrite l.who l.doneAddr.toNat 4 = .cause k b u) :
    q.completionAction l = (some false, u.distLog l k l.doneAddr.toNat) := by
  simp only [State.completionAction, if_neg hkind, hcause]

/-! ### Launches (R163) -/

/-- The machine once a launch has completed: it is listed no more, and its distributor's tickets are released. -/
def State.endLaunch (u : State) (id : Nat) : State :=
  { u with launches := Assoc.erase u.launches id, tickets := u.tickets.filter (fun t => t.2 != .distributor id) }

variable {id : Nat}

theorem State.finishLaunch_unfinished (hl : q.launch? id = some l) (hf : q.finishing id l = false) : q.finishLaunch id = q := by
  simp only [State.finishLaunch, hl, hf, Bool.false_eq_true, if_false]

/-- A launch that has completed but for its action: what becomes of it by how the action ends. -/
theorem State.finishLaunch_cases (hl : q.launch? id = some l) (hf : q.finishing id l = true) :
    (∀ u, q.completionAction l = (some true, u) → q.finishLaunch id = u.endLaunch id) ∧
    (∀ u, q.completionAction l = (some false, u) → q.finishLaunch id = u.updLaunch id (fun l => { l with doneFailed := true })) ∧
    (∀ u, q.completionAction l = (none, u) → q.finishLaunch id = u) := by
  refine ⟨fun u ha => ?_, fun u ha => ?_, fun u ha => ?_⟩
  · simp only [State.finishLaunch, hl, hf, ha, if_true, State.endLaunch]
  · simp only [State.finishLaunch, hl, hf, ha, if_true]
  · simp only [State.finishLaunch, hl, hf, ha, if_true]

end

/-! ### Teams (R163) -/

/-- A launch with one more team complete. -/
def Launch.counted (l : Launch) : Launch := { l with completed := l.completed + 1 }

/-- The machine once the reservations of a team are released and its launch has counted it. -/
def State.teamEnded (s : State) (team : Nat) (t : Team) : State := (s.releaseTeam team t).updLaunch t.launch Launch.counted

section
variable {s : State} {team : Nat} {t : Team} {l : Launch}

theorem exec_teamCompletion_empty (ht : s.team? team = some t) (hnone : ∀ e ∈ s.warps, e.2.team ≠ team) :
    exec (.teamCompletion team) s = .next ((s.teamEnded team t).finishLaunch t.launch) := by
  have hempty : s.warps.any (fun e => e.2.team == team) = false := by simpa using hnone
  simp only [exec_teamCompletion, execTeamCompletion, State.teamTry, ht, hempty, Bool.false_eq_true, if_false]
  rfl

theorem State.releaseTeam_launches (s : State) (team : Nat) (t : Team) : (s.releaseTeam team t).launches = s.launches := by
  rw [State.releaseTeam]
  refine foldl_keeps (fun q : State => q.launches = s.launches) _ ?_ t.groups _ rfl
  exact fun _ _ h => h

theorem State.teamEnded_launch? (hl : s.launch? t.launch = some l) :
    (s.teamEnded team t).launch? t.launch = some l.counted := by
  have hat : Assoc.at? s.launches t.launch = some l := hl
  simp only [State.teamEnded, State.launch?, State.updLaunch, State.releaseTeam_launches, Assoc.at?_upd, if_true, hat, Option.map_some]

/-- The launch has completed but for its action: its last team is admitted, none is saved, and no other team of it is there. -/
theorem State.teamEnded_finishing (hall : l.total ≤ l.next) (hsaved : l.saved = []) (hdone : l.doneFailed = false)
    (hlast : ∀ e ∈ (s.teamEnded team t).teams, e.2.launch ≠ t.launch) : (s.teamEnded team t).finishing t.launch l.counted = true := by
  have htotal : l.counted.total ≤ l.counted.next := hall
  have hunsaved : l.counted.saved = [] := hsaved
  have hsound : l.counted.doneFailed = false := hdone
  have hnone : (s.teamEnded team t).teams.any (fun e => e.2.launch == t.launch) = false := by simpa using hlast
  simp only [State.finishing, htotal, hunsaved, hsound, hnone, decide_true, List.isEmpty_nil, Bool.not_false, Bool.and_true]

theorem State.teamEnded_unfinished (h : l.next < l.total) : (s.teamEnded team t).finishing t.launch l.counted = false := by
  have htotal : ¬l.counted.total ≤ l.counted.next := not_le.mpr h
  simp only [State.finishing, htotal, decide_false, Bool.false_and]

end

/-- Settles O49: a team is placed in groups that lie apart (`State.placeTeam_inv`), where each of its warps stands under its own key
(`State.startTeam_warp?`); completions go by how the completion action ends (`State.finishLaunch_cases`). -/
theorem teamsComeAndGo : Obligations.TeamsComeAndGo := by
  unfold Obligations.TeamsComeAndGo
  refine ⟨fun s q die id l hcur hsettled hcls => ⟨fun hsaved hq hlent => ?_, fun hsaved hq => ?_,
      fun index r rest u hsaved hdone hq hlent hrestore =>
        exec_teamReadmission_restored hcur hsettled hcls hsaved hdone hq hlent hrestore⟩,
    fun s q die id l hcur hsettled hcls hsaved => ⟨fun hq => ?_, fun hq hlent hl => ?_⟩,
    fun s q id l is h i hi => State.placeTeams_team? h hi, fun s q id index l h => ?_, fun s key hdone => ?_,
    fun s team t l ht hnone hl => ⟨fun hmore => ?_, fun hall hsaved hdone hlast => ?_⟩⟩
  · have hadmits : Admits s die id l := ⟨hcur, hsettled, hsaved⟩
    rw [← q.admitted_one id hcls] at hlent ⊢
    exact hadmits.admitted ((s.placeTeams_next id hcls).trans hq) hlent
  · have hadmits : Admits s die id l := ⟨hcur, hsettled, hsaved⟩
    exact hadmits.refused ((s.placeTeams_next id hcls).trans hq)
  · have hadmits : Admits s die id l := ⟨hcur, hsettled, hsaved⟩
    exact hadmits.refused (by rw [Launch.together, if_pos hcls]; exact hq)
  · have hadmits : Admits s die id l := ⟨hcur, hsettled, hsaved⟩
    have hlq : q.launch? id = some l := (congrArg (fun m => Assoc.at? m id) (State.placeTeams_launches hq)).trans hl
    rw [← hadmits.admitted_all hcls hlq] at hlent ⊢
    exact hadmits.admitted (by rw [Launch.together, if_pos hcls]; exact hq) hlent
  · obtain ⟨gs, hgs, rfl⟩ := State.placeTeam_inv h
    exact ⟨l.teamIn id index gs, by rw [State.startTeam_team?, if_pos rfl], rfl, rfl, rfl, rfl, rfl,
      fun g x k key hx hk hkey => State.startTeam_warp? hgs hx hk hkey⟩
  · obtain ⟨w, hw⟩ := State.warpDone_warp? hdone
    refine ⟨s.completeWarp key w, exec_warpCompletion_done hw hdone, by rw [State.completeWarp_warp?, if_pos rfl],
      fun j hj => by rw [State.completeWarp_warp?, if_neg hj], rfl, fun e he => State.completeWarp_engines he, fun w' g hw' hg x hx => ?_⟩
    obtain rfl := Option.some.inj (hw.symm.trans hw')
    exact State.completeWarp_tiles hg hx
  · rw [exec_teamCompletion_empty ht hnone,
      State.finishLaunch_unfinished (State.teamEnded_launch? hl) (State.teamEnded_unfinished hmore)]
    rfl
  · obtain ⟨hended, hfailed, hwaits⟩ := State.finishLaunch_cases (State.teamEnded_launch? hl)
      (State.teamEnded_finishing hall hsaved hdone hlast)
    have hacts (hkind : l.doneKind = 1 ∨ l.doneKind = 2) : l.counted.doneKind ≠ 0 := by
      show l.doneKind ≠ 0
      omega
    rw [exec_teamCompletion_empty ht hnone]
    refine ⟨fun hkind => ?_, fun h u hkind hreach hsound => ?_, fun h u x hkind hreach hsound hx => ?_, fun u hkind hwait => ?_,
      fun k b u hkind hcause => ?_⟩
    · exact congrArg _ (hended _ (State.completionAction_none hkind))
    · obtain ⟨v, hv, hkeep⟩ := State.completionAction_made (hacts (.inl hkind)) hreach hsound (Launch.doneWord_add hkind _)
      exact ⟨v, congrArg _ (hended _ hv), hkeep⟩
    · obtain ⟨v, hv, hkeep⟩ := State.completionAction_made (hacts (.inr hkind)) hreach hsound
        ((Launch.doneWord_arrive hkind _).trans hx)
      exact ⟨v, congrArg _ (hended _ hv), hkeep⟩
    · exact congrArg _ (hwaits _ (State.completionAction_waits (hacts hkind) hwait))
    · exact congrArg _ (hfailed _ (State.completionAction_fails (hacts hkind) hcause))

end Sys2Proof.Machine
end

section
/-! ## Family 11: reductions and scans -/
namespace Sys2Proof.Machine

/-! ### The chain of R182 -/

section
variable (w : Warp) (op : Nat) (a : Code)

theorem Warp.chain_singleton (j : Nat) : w.chain op a [j] = (w.rd a j, 0) := rfl

/-- One more lane is one more step of the chain. -/
theorem Warp.chain_concat {ls : List Nat} (hls : ls ≠ []) (j : Nat) :
    w.chain op a (ls ++ [j]) = ((combine op (w.rounding none) (w.chain op a ls).1 (w.rd a j)).1,
      (w.chain op a ls).2 ||| (combine op (w.rounding none) (w.chain op a ls).1 (w.rd a j)).2) := by
  cases ls with
  | nil => exact absurd rfl hls
  | cons l r => simp only [Warp.chain, List.cons_append, List.foldl_append, List.foldl_cons, List.foldl_nil]

end

/-- An operator that raises nothing and for which `e` is neutral on the left folds the lanes' sources from `e`. -/
theorem Warp.chain_eq_foldl {op : Nat} {g : Word → Word → Word} {e : Word} (hg : ∀ mode x y, combine op mode x y = (g x y, 0))
    (he : ∀ x, g e x = x) (w : Warp) (a : Code) {ls : List Nat} (hls : ls ≠ []) :
    w.chain op a ls = (ls.foldl (fun x j => g x (w.rd a j)) e, 0) := by
  induction ls using List.reverseRecOn with
  | nil => exact absurd rfl hls
  | append_singleton r j ih =>
    rw [List.foldl_append]
    by_cases hr : r = []
    · simp [hr, he, Warp.chain_singleton]
    · simp [Warp.chain_concat w op a hr, ih hr, hg]

/-- The same where the neutral word is 0, which is also what no lanes at all give. -/
theorem Warp.chain_eq_foldl_zero {op : Nat} {g : Word → Word → Word} (hg : ∀ mode x y, combine op mode x y = (g x y, 0))
    (he : ∀ x, g 0 x = x) (w : Warp) (a : Code) (ls : List Nat) :
    w.chain op a ls = (ls.foldl (fun x j => g x (w.rd a j)) 0, 0) := by
  by_cases hls : ls = []
  · subst hls; rfl
  · exact Warp.chain_eq_foldl hg he w a hls

/-- The operator picks one of two words, the first of them in the order `le`, and raises nothing. -/
structure Picks (op : Nat) (le : Word → Word → Bool) : Prop where
  pick : ∀ mode x y, ∃ z, combine op mode x y = (z, 0) ∧ (z = x ∨ z = y) ∧ le z x = true ∧ le z y = true
  trans : ∀ x y z, le x y = true → le y z = true → le x z = true

/-- An operator picks where a key orders the words and it gives an operand of the smaller key. -/
theorem picks_of_key {op : Nat} {le : Word → Word → Bool} (key : Word → ℤ) (hle : ∀ x y, le x y = true ↔ key x ≤ key y)
    (hpick : ∀ mode x y, combine op mode x y = (x, 0) ∧ key x ≤ key y ∨ combine op mode x y = (y, 0) ∧ key y ≤ key x) :
    Picks op le where
  pick mode x y := by
    rcases hpick mode x y with ⟨hc, hxy⟩ | ⟨hc, hyx⟩
    · exact ⟨x, hc, .inl rfl, (hle x x).mpr le_rfl, (hle x y).mpr hxy⟩
    · exact ⟨y, hc, .inr rfl, (hle y x).mpr hyx, (hle y y).mpr le_rfl⟩
  trans x y z hxy hyz := (hle x z).mpr (((hle x y).mp hxy).trans ((hle y z).mp hyz))

theorem picks_minS : Picks 1 (fun x y => decide (x.toInt ≤ y.toInt)) := by
  refine picks_of_key (fun x => x.toInt) (by simp) (fun _ x y => ?_)
  by_cases h : x.toInt ≤ y.toInt <;> simp [combine, h, le_of_not_ge]

theorem picks_minU : Picks 2 (fun x y => decide (x.toNat ≤ y.toNat)) := by
  refine picks_of_key (fun x => x.toNat) (by simp) (fun _ x y => ?_)
  by_cases h : x.toNat ≤ y.toNat <;> simp [combine, BitVec.le_def, h, le_of_not_ge]

theorem picks_maxS : Picks 3 (fun x y => decide (y.toInt ≤ x.toInt)) := by
  refine picks_of_key (fun x => -x.toInt) (by simp) (fun _ x y => ?_)
  by_cases h : x.toInt ≤ y.toInt <;> simp [combine, h, le_of_not_ge]

theorem picks_maxU : Picks 4 (fun x y => decide (y.toNat ≤ x.toNat)) := by
  refine picks_of_key (fun x => -x.toNat) (by simp) (fun _ x y => ?_)
  by_cases h : x.toNat ≤ y.toNat <;> simp [combine, BitVec.le_def, h, le_of_not_ge]

/-- The chain of such an operator is a bound that some lane holds. -/
theorem Picks.chain {op : Nat} {le : Word → Word → Bool} (h : Picks op le) (w : Warp) (a : Code) {ls : List Nat} (hls : ls ≠ []) :
    (w.chain op a ls).2 = 0 ∧ (∃ j ∈ ls, (w.chain op a ls).1 = w.rd a j) ∧ ∀ j ∈ ls, le (w.chain op a ls).1 (w.rd a j) = true := by
  induction ls using List.reverseRecOn with
  | nil => exact absurd rfl hls
  | append_singleton r i ih =>
    by_cases hr : r = []
    · subst hr
      obtain ⟨z, -, hz, hle, -⟩ := h.pick 0 (w.rd a i) (w.rd a i)
      obtain rfl : z = w.rd a i := hz.elim id id
      simpa [Warp.chain_singleton] using hle
    · obtain ⟨hfl, ⟨j, hj, hval⟩, hbound⟩ := ih hr
      obtain ⟨z, hcomb, hz, hzr, hzi⟩ := h.pick (w.rounding none) (w.chain op a r).1 (w.rd a i)
      simp only [Warp.chain_concat w op a hr, hcomb, hfl]
      refine ⟨rfl, ?_, fun k hk => ?_⟩
      · rcases hz with rfl | rfl
        · exact ⟨j, List.mem_append_left _ hj, hval⟩
        · exact ⟨i, by simp, rfl⟩
      · rcases List.mem_append.mp hk with hk | hk
        · exact h.trans _ _ _ hzr (hbound k hk)
        · rwa [List.mem_singleton.mp hk]

/-! ### REDUX and SCAN -/

theorem exec_redux (pf : Option Prefix) (d a o : Code) (s : State) : exec (.redux pf d a o) s = execRedux pf d a o s := rfl
theorem exec_scan (pf : Option Prefix) (d a o : Code) (s : State) : exec (.scan pf d a o) s = execScan pf d a o s := rfl

/-- The lanes that run, in ascending order. -/
theorem Warp.onLanes_eq_range (w : Warp) (pf : Option Prefix) (c : Cur) :
    w.onLanes pf false c = (List.range 32).filter (fun j => w.runs pf c.lanes j) := by
  simp only [Warp.onLanes, Mask.lanes, Warp.runs, allLanes_eq_range, List.filter_filter, Bool.false_eq_true, if_false, Bool.and_comm]

theorem Warp.contributors_eq_range (w : Warp) (pf : Option Prefix) (c : Cur) :
    w.contributors pf c = (List.range 32).filter (fun j => w.runs pf (w.path c.p).issueMask j) := w.onLanes_eq_range pf (w.wholeCur c)

section
variable {i : Instr} {pf : Option Prefix} {d a o : Code} {s : State} {c : Cur} {w : Warp} {upTo : List Nat → Nat → List Nat}

/-- With a code of the table each lane that runs takes the chain of the lanes that `upTo` gives it. -/
theorem reduceLanes_writes (he : exec i s = reduceLanes i pf d a o s upTo) (h : Ready i .none s c w) (hp : Plain s w)
    (ho : o.toNat ≤ 0x0A) (hd : OnceFits d false) :
    WritesWord i pf d false s c w (fun l => (w.chain o.toNat a (upTo (w.contributors pf c) l)).1)
      (fun l => (w.chain o.toNat a (upTo (w.contributors pf c) l)).2) := by
  rw [reduceLanes, if_pos ho] at he
  exact crossLane_writes he h hp hd (fun _ _ => rfl)

/-- A code beyond the table is 0x1F for the whole instruction. -/
theorem reduceLanes_beyond (he : exec i s = reduceLanes i pf d a o s upTo) (h : Ready i .none s c w) (ho : 0x0A < o.toNat) :
    exec i s = .next (s.raiseWhole c 0x1F 0) := by
  rw [he, reduceLanes, if_neg (not_le.mpr ho), issue_ready h]

end

end Sys2Proof.Machine
end

section
/-! ## Family 11: an addition to a word of the scratchpad (R183, R250) -/
namespace Sys2Proof.Machine

/-! ### Bytes of a scratchpad allocation -/

/-- Sparse bytes are written as memory is. -/
theorem Assoc.setBytes_eq_writeBytes (m : Assoc Byte) (off : Nat) (bs : List Byte) : Assoc.setBytes m off bs = Memory.writeBytes m off bs := by
  induction bs generalizing m off with
  | nil => rfl
  | cons b r ih => exact ih (Assoc.set m 0 off b) (off + 1)

/-- Bytes written to an allocation are read back. -/
theorem State.peekBytes_poke_scratch {s : State} {t g n : Nat} (h : (s.group? t g).isSome = true) (off : Nat) {bs : List Byte}
    (hn : bs.length = n) : (s.poke (.scratch t g) off bs).peekBytes (.scratch t g) off n = bs := by
  subst hn
  obtain ⟨x, hx⟩ := Option.isSome_iff_exists.mp h
  have hpeek (j : Nat) : (s.poke (.scratch t g) off bs).peek (.scratch t g) j = Memory.read (Memory.writeBytes x.scratch off bs) j := by
    simp only [State.peek, State.poke, State.group?_updGroup, hx, Option.map_some, Assoc.setBytes_eq_writeBytes]
    rfl
  rw [State.peekBytes, numsFrom_eq_range']
  refine List.ext_getElem (by simp) (fun k _ hk => ?_)
  simp only [List.getElem_map, List.getElem_range', Nat.one_mul, hpeek, Memory.read_writeBytes_inside _ _ _ _ hk]

/-- Allocations are part of their teams. -/
theorem State.peekBytes_scratch_congr {s q : State} (h : q.teams = s.teams) (t g off n : Nat) :
    q.peekBytes (.scratch t g) off n = s.peekBytes (.scratch t g) off n := by
  have hpeek : q.peek (.scratch t g) = s.peek (.scratch t g) := by
    funext off
    simp only [State.peek, State.group?, State.team?, h]
  rw [State.peekBytes, State.peekBytes, hpeek]

/-! ### What performing an access does beside its bytes -/

@[simp] theorem State.teams_blurReads (s : State) (a : Access) (p : Part) : (s.blurReads a p).teams = s.teams := by
  unfold State.blurReads
  split
  · refine foldl_keeps (fun q : State => q.teams = s.teams) _ ?_ _ s rfl
    exact fun _ _ h => h
  · rfl

@[simp] theorem State.teams_recordStamp (s : State) (a : Access) (p : Part) : (s.recordStamp a p).teams = s.teams := by
  unfold State.recordStamp
  split <;> rfl

@[simp] theorem State.teams_recordStrong (s : State) (a : Access) (p : Part) : (s.recordStrong a p).teams = s.teams := by
  unfold State.recordStrong
  split <;> rfl

@[simp] theorem State.teams_tellHear (s : State) (a : Access) (p : Part) : (s.tellHear a p).teams = s.teams := by
  unfold State.tellHear
  dsimp only
  split_ifs <;> rfl

@[simp] theorem State.teams_recordPart (s : State) (a : Access) (p : Part) : (s.recordPart a p).teams = s.teams := by
  simp [State.recordPart]

@[simp] theorem State.teams_performed (s : State) (k : Nat) (a : Access) : (s.performed k a).teams = s.teams := by
  unfold State.performed State.sweepFences
  split
  · split <;> rfl
  · rfl

@[simp] theorem State.teams_wakeAll (s : State) (bs : List Block) : (s.wakeAll bs).teams = s.teams :=
  foldl_keeps (fun q : State => q.teams = s.teams) (fun (q : State) b => q.wake b) (fun _ _ h => h) bs s rfl

@[simp] theorem State.teams_wakeFor (s : State) (core : Option Nat) (h : Hit) : (s.wakeFor core h).teams = s.teams := by
  simp [State.wakeFor, State.answered]

/-! ### The atomic -/

theorem State.races_nil {s : State} (h : s.strong = []) (a : Access) (p : Part) : s.races a p = [] := by
  simp [State.races, h]

theorem State.racesAhead_nil {s : State} (h : s.accesses = []) (k : Nat) (a : Access) (p : Part) : s.racesAhead k a p = [] := by
  simp [State.racesAhead, h]

/-- With no strong access recorded or pending a read meets the bytes that are there. -/
theorem State.scramble_quiet {s : State} (hs : s.strong = []) (ha : s.accesses = []) (a : Access) (p : Part) (bs : List Byte) :
    s.scramble a p bs = (bs, s) := by
  simp [State.scramble, State.races_nil hs, State.racesAhead_nil ha, writeRanges, State.blur]

theorem State.scrambleWrite_quiet {s : State} (hs : s.strong = []) (a : Access) (p : Part) (bs : List Byte) :
    s.scrambleWrite a p bs = (bs, s) := by
  simp [State.scrambleWrite, State.races_nil hs, writeRanges, State.blur]

/-- With nothing pending nothing precedes an access made within a step. -/
theorem State.settleFor_quiet {s q : State} {y : Access} (ha : s.accesses = []) (h : s.settleFor y = some q) : q = s := by
  unfold State.settleFor at h
  split at h
  · cases h
  · simp only [State.settle, State.needed, ha, List.foldr_nil, List.any_nil, List.foldl_nil] at h
    exact (Option.some.inj h).symm

/-- The access of an atomic made within a step, and its one part. -/
def Warp.rmwUnit (w : Warp) (c : Cur) (h : Hit) (n : Nat) (aop : BitVec 4) (x : Nat) (cmp : DWord) (acq rel : Bool) (scope : Scope) :
    Access × Part :=
  let p : Part := { lane := 0, va := 0, voff := 0, off := h.off, size := n, data := bytesOfNat n x }
  ({ (w.unit c.w c.p 0 (.rmw aop cmp) h [p] n 1) with acq := acq, rel := rel, scope := scope }, p)

section
variable {s q : State} {c : Cur} {w : Warp} {h : Hit} {n x old : Nat} {aop : BitVec 4} {cmp : DWord} {acq rel : Bool} {scope : Scope}

/-- A completed atomic made within a step performed its access after what had to precede it. -/
theorem State.rmwNow_done (hdone : s.rmwNow c w h n aop x cmp acq rel scope = .done old q) :
    ∃ s1, s.settleFor (w.rmwUnit c h n aop x cmp acq rel scope).1 = some s1 ∧
      let a := w.rmwUnit c h n aop x cmp acq rel scope
      let r := s1.rmwPart a.1 a.2 aop cmp
      old = natOfBytes r.1 ∧ q = (r.2.performed 0 a.1).wakeFor (some (coreOfKey c.w)) h := by
  unfold State.rmwNow at hdone
  dsimp only at hdone
  split at hdone
  · cases hdone
  · rename_i s1 hsettle
    split at hdone
    · cases hdone
    · injection hdone with hold hq
      exact ⟨s1, hsettle, hold.symm, hq.symm⟩

/-- With no strong access recorded or pending an atomic reads the bytes that are there and leaves what its operation makes of them. -/
theorem State.rmwPart_quiet (hs : s.strong = []) (ha : s.accesses = []) (a : Access) (p : Part) :
    s.rmwPart a p aop cmp = (s.peekBytes a.place p.off p.size, (s.recordPart a p).poke a.place p.off (bytesOfNat p.size
      (atomicNew aop (8 * p.size) (natOfBytes (s.peekBytes a.place p.off p.size)) (natOfBytes p.data) cmp.toNat))) := by
  simp only [State.rmwPart, State.scramble_quiet hs ha, State.scrambleWrite_quiet hs]

theorem length_bytesOfNat (n v : Nat) : (bytesOfNat n v).length = n := by
  induction n generalizing v with
  | zero => rfl
  | succ n ih => simp [bytesOfNat, ih]

/-- An addition made within a step, with nothing pending or recorded, to a word of an allocation: it reads the word that is there and
leaves the sum. -/
theorem State.rmwNow_add_scratch {t g : Nat} (ha : s.accesses = []) (hs : s.strong = []) (hplace : h.place = .scratch t g)
    (hgroup : (s.group? t g).isSome = true) (hdone : s.rmwNow c w h n 0 x cmp acq rel scope = .done old q) :
    old = natOfBytes (s.peekBytes h.place h.off n) ∧ natOfBytes (q.peekBytes h.place h.off n) = (old + x) % 256 ^ n := by
  obtain ⟨s1, hsettle, hold, hq⟩ := State.rmwNow_done hdone
  obtain rfl := State.settleFor_quiet ha hsettle
  generalize hu : w.rmwUnit c h n 0 x cmp acq rel scope = u at hold hq
  obtain ⟨hp, hoff, hsize, hdata⟩ : u.1.place = h.place ∧ u.2.off = h.off ∧ u.2.size = n ∧ u.2.data = bytesOfNat n x := by
    subst hu
    exact ⟨rfl, rfl, rfl, rfl⟩
  rw [State.rmwPart_quiet hs ha, hp, hoff, hsize] at hold hq
  have hread : old = natOfBytes (s1.peekBytes h.place h.off n) := hold
  have hwritten : q.peekBytes h.place h.off n = bytesOfNat n ((old + x % 256 ^ n) % 2 ^ (8 * n)) := by
    have hteams : q.teams = ((s1.recordPart u.1 u.2).poke h.place h.off (bytesOfNat n ((old + x % 256 ^ n) % 2 ^ (8 * n)))).teams := by
      rw [hq, ← hread, hdata, natOfBytes_bytesOfNat]
      simp [atomicNew]
    rw [hplace] at hteams ⊢
    rw [State.peekBytes_scratch_congr hteams]
    refine State.peekBytes_poke_scratch ?_ h.off (length_bytesOfNat n _)
    simpa [State.group?, State.team?] using hgroup
  refine ⟨hread, ?_⟩
  rw [hwritten, natOfBytes_bytesOfNat, Nat.pow_mul]
  simp

end

end Sys2Proof.Machine
end

section
/-! ## Family 11: QAPPEND -/
namespace Sys2Proof.Machine

theorem exec_qappend (pf : Option Prefix) (d a : Code) (s : State) : exec (.qappend pf d a) s = execQappend pf d a s := rfl

/-! ### Places in the queue -/

theorem Warp.takePlaces_concat (w : Warp) (d : Code) (old : Nat) (ls : List Nat) (l : Nat) :
    w.takePlaces d old (ls ++ [l]) = (w.takePlaces d old ls).wr d l (BitVec.ofNat 32 (old + ls.length)) := by
  induction ls generalizing w old with
  | nil => rfl
  | cons i r ih => simp only [List.cons_append, Warp.takePlaces, ih, List.length_cons, Nat.add_assoc, Nat.add_comm 1]

/-- Of the lanes of which `p` holds, each takes the old cursor plus its rank among them. -/
theorem Warp.takePlaces_filter (w : Warp) (d : Code) (old : Nat) (p : Nat → Bool) (n : Nat) :
    w.takePlaces d old ((List.range n).filter p) =
      ((List.range n).filter p).foldl (fun x l => x.wr d l (BitVec.ofNat 32 (old + ((List.range l).filter p).length))) w := by
  induction n with
  | zero => rfl
  | succ n ih =>
    rw [List.range_succ, List.filter_append, List.filter_singleton]
    by_cases hp : p n = true
    · simp only [hp, cond_true, Warp.takePlaces_concat, List.foldl_append, ih, List.foldl_cons, List.foldl_nil]
    · simp only [hp, cond_false, List.append_nil, ih]

theorem Warp.takePlaces_withRegs (w : Warp) (d : Code) (old : Nat) (ls : List Nat) :
    w.takePlaces d old ls = w.withRegs (w.takePlaces d old ls) := by
  induction ls generalizing w old with
  | nil => rfl
  | cons l r ih => exact Warp.withRegs_trans (w.wr_withRegs d l _) (ih (w.wr d l _) (old + 1))

theorem Warp.takePlaces_fpflags (w : Warp) (d : Code) (old : Nat) (ls : List Nat) : (w.takePlaces d old ls).fpflags = w.fpflags := by
  induction ls generalizing w old with
  | nil => rfl
  | cons l r ih => exact (ih (w.wr d l _) (old + 1)).trans (w.wr_fpflags d l _)

section
variable {pf : Option Prefix} {d a : Code} {s q : State} {c : Cur} {w x : Warp} {h : Hit} {old : Nat}

/-- The registers once the lanes that run have their places: R24 for the lanes guarded off. -/
theorem Warp.rd_takePlaces (ho : OnceFits d false) (r : Code) {l : Nat} (hl : l < 32) :
    ((w.zeroOffLanes w pf c d).takePlaces d old (w.onLanes pf false c)).rd r l = w.afterWord pf c.lanes d
      (fun l => BitVec.ofNat 32 (old + ((List.range l).filter (fun j => w.runs pf c.lanes j)).length)) r l := by
  have hlanes (i : Nat) (hi : i ∈ (List.range 32).filter (fun j => w.runs pf c.lanes j)) : i < 32 :=
    List.mem_range.mp (List.mem_of_mem_filter hi)
  rw [Warp.onLanes_eq_range, Warp.takePlaces_filter,
    Warp.rd_foldl_wr (d := d) r _ (fun l => BitVec.ofNat 32 (old + ((List.range l).filter (fun j => w.runs pf c.lanes j)).length)) _
      (fun x i hi => Warp.rd_wr_lane ho x r _ (hlanes i hi) hl), Warp.rd_zeroOffLanes ho _ _ _ _ r hl, Warp.afterWord_lanes ho]
  exact if_congr (by simp [hl]) rfl rfl

/-! ### The instruction -/

/-- Where no lane runs the cursor is not touched. -/
theorem qappend_none (h : Ready (.qappend pf d a) .none s c w) (hp : Plain s w) (hn : w.onLanes pf false c = []) :
    WritesWord (.qappend pf d a) pf d false s c w (fun _ => 0) (fun _ => 0) := by
  have ho : OnceFits d false := onceFits_dLane (h.accepts List.mem_cons_self)
  have hrun : execQappend pf d a s = .next ((s.setWarp c.w (w.zeroWrite pf c d (fun _ => 0) (fun _ => 0))).retire c) := by
    rw [execQappend, issue_ready h, Warp.zeroWrite, hn]
    rfl
  refine ⟨(w.afterRetire c false).withRegs (w.zeroWrite pf c d (fun _ => 0) (fun _ => 0)), ?_, rfl,
    fun r l hl => Warp.rd_zeroWrite ho r hl, fun l hl => Warp.flags_zeroWrite hl⟩
  rw [exec_qappend, hrun, State.retire_withRegs h.warp hp.debug Warp.zeroWrite_withRegs]

/-- The warp of a QAPPEND whose atomic is complete, before it retires; `x` is what the atomic left of it. -/
def Warp.queued (w : Warp) (pf : Option Prefix) (c : Cur) (d : Code) (old : Nat) (x : Warp) : Warp :=
  { (w.zeroOffLanes w pf c d).takePlaces d old (w.onLanes pf false c) with seq := w.seq + 1, heard := x.heard }

theorem Warp.queued_withRegs : w.queued pf c d old x = { w.withRegs (w.queued pf c d old x) with seq := w.seq + 1, heard := x.heard } := by
  unfold Warp.queued
  rw [Warp.withRegs_trans (Warp.zeroOffLanes_withRegs w w pf c d) (Warp.takePlaces_withRegs _ d old (w.onLanes pf false c))]
  rfl

theorem qappend_done (hr : Ready (.qappend pf d a) .none s c w) (hn : w.onLanes pf false c ≠ [])
    (hat : s.scratchWord w (w.rd a 0) = .at h) (hgood : s.badAt h.place h.off 4 = false)
    (hdone : s.rmwNow c w h 4 0 (w.onLanes pf false c).length 0 false false (if 2 ^ 31 ≤ (w.rd a 0).toNat then .team else .wg) =
      .done old q)
    (hx : q.warp? c.w = some x) (hd : q.debugOn w = false) :
    exec (.qappend pf d a) s = .next (q.setWarp c.w ((w.queued pf c d old x).afterRetire c false)) := by
  have hasid : (w.queued pf c d old x).asid = w.asid := by rw [Warp.queued_withRegs]; rfl
  have hretire : (q.setWarp c.w (w.queued pf c d old x)).retire c = q.setWarp c.w ((w.queued pf c d old x).afterRetire c false) := by
    rw [State.retire_plain _ c _ (State.warp?_setWarp_self _ hx) (by simpa [State.debugOn, hasid] using hd), State.setWarp_setWarp]
  obtain ⟨l, r, hlanes⟩ := List.exists_cons_of_ne_nil hn
  rw [← hretire, exec_qappend, execQappend, issue_ready hr, ← State.updWarp_eq_setWarp q c.w (fun x => w.queued pf c d old x) x hx]
  simp only [hlanes] at hdone
  simp only [hlanes, hat, hdone, hgood, Warp.queued]
  rfl

/-- A scratchpad word stands in a workgroup's allocation. -/
theorem State.scratchWord_place {off : Word} (hat : s.scratchWord w off = .at h) : ∃ t g, h.place = .scratch t g := by
  unfold State.scratchWord at hat
  split at hat
  · cases hat
  · simp only [State.scratchLook] at hat
    split_ifs at hat <;> cases hat <;> exact ⟨_, _, rfl⟩

/-- With nothing pending or recorded QAPPEND's atomic adds the number of lanes, at most 32, to the word in the scratchpad. -/
theorem State.rmwNow_cursor {off : Word} {n : Nat} {scope : Scope} (hat : s.scratchWord w off = .at h) (ha : s.accesses = [])
    (hs : s.strong = []) (hbacks : s.backs h.place h.off 4) (hdone : s.rmwNow c w h 4 0 n 0 false false scope = .done old q) :
    old = natOfBytes (s.peekBytes h.place h.off 4) ∧ natOfBytes (q.peekBytes h.place h.off 4) = (old + n) % 2 ^ 32 := by
  obtain ⟨t, g, hplace⟩ := State.scratchWord_place hat
  rw [hplace] at hbacks
  exact State.rmwNow_add_scratch ha hs hplace hbacks hdone

end

/-- Settles O22: REDUX and SCAN are `crossLane` with the chain of the lanes up to some lane, whose values are read off operator by
operator; QAPPEND writes the places after its atomic. -/
theorem reductionResults : Obligations.ReductionResults := by
  unfold Obligations.ReductionResults
  refine ⟨⟨fun pf d a o s c w hp ho => ⟨fun h => ?_, fun h => ?_⟩,
      fun pf d a o s c w ho => ⟨fun h => reduceLanes_beyond (exec_redux ..) h ho, fun h => reduceLanes_beyond (exec_scan ..) h ho⟩,
      fun w a ls => ⟨?_, fun hls => ?_, ?_, ?_⟩,
      fun w op j a ls => ⟨w.chain_singleton op a j, fun hls => w.chain_concat op a hls j⟩,
      fun w a ls hls e he => ?_, fun mode x y e he => ?_⟩,
    fun pf d a s q c w x h old hr hp => ?_⟩
  · rw [← Warp.contributors_eq_range]
    exact reduceLanes_writes (exec_redux ..) h hp ho (onceFits_dLane (h.accepts List.mem_cons_self))
  · rw [← Warp.contributors_eq_range]
    exact reduceLanes_writes (exec_scan ..) h hp ho (onceFits_dLane (h.accepts List.mem_cons_self))
  · exact Warp.chain_eq_foldl_zero (fun _ _ _ => rfl) BitVec.zero_add w a ls
  · exact Warp.chain_eq_foldl (fun _ _ _ => rfl) (fun _ => BitVec.allOnes_and) w a hls
  · exact Warp.chain_eq_foldl_zero (fun _ _ _ => rfl) (fun _ => BitVec.zero_or) w a ls
  · exact Warp.chain_eq_foldl_zero (fun _ _ _ => rfl) (fun _ => BitVec.zero_xor) w a ls
  · simp only [List.mem_cons, List.not_mem_nil, or_false] at he
    rcases he with rfl | rfl | rfl | rfl
    exacts [picks_minS.chain w a hls, picks_minU.chain w a hls, picks_maxS.chain w a hls, picks_maxU.chain w a hls]
  · simp only [List.mem_cons, List.not_mem_nil, or_false] at he
    rcases he with rfl | rfl | rfl <;> rfl
  · rw [← Warp.onLanes_eq_range]
    refine ⟨fun hn => qappend_none hr hp (List.length_eq_zero_iff.mp hn), fun hn hat hgood hdone hx hd => ⟨?_, fun ha _ _ hs hbacks => ?_⟩⟩
    · have ho : OnceFits d false := onceFits_dLane (hr.accepts List.mem_cons_self)
      exact ⟨w.queued pf c d old x, qappend_done hr (List.length_pos_iff.mp hn) hat hgood hdone hx hd, Warp.queued_withRegs,
        (Warp.takePlaces_fpflags ..).trans (Warp.zeroOffLanes_fpflags ..), fun r l hl => Warp.rd_takePlaces ho r hl⟩
    · exact State.rmwNow_cursor hat ha hs hbacks hdone

end Sys2Proof.Machine
end

section
/-! ## Family 11: XCHGP -/
namespace Sys2Proof.Machine

/-! ### Two warps of a state -/

theorem Assoc.upd_comm {α : Type} (m : Assoc α) {j k : Nat} (h : j ≠ k) (f g : α → α) :
    Assoc.upd (Assoc.upd m j f) k g = Assoc.upd (Assoc.upd m k g) j f := by
  induction m with
  | nil => rfl
  | cons e r ih =>
    obtain ⟨i, x⟩ := e
    by_cases hj : i = j
    · have hk : i ≠ k := fun hk => h (hj.symm.trans hk)
      simp [Assoc.upd_cons, hj, h]
    · by_cases hk : i = k
      · simp [Assoc.upd_cons, hk, Ne.symm h]
      · simp [Assoc.upd_cons, hj, hk, ih]

theorem State.setWarp_comm (s : State) {j k : Nat} (h : j ≠ k) (x y : Warp) :
    (s.setWarp j x).setWarp k y = (s.setWarp k y).setWarp j x := by
  simp only [State.setWarp, State.updWarp, Assoc.upd_comm s.warps h]

theorem State.warp?_setWarp_other {s : State} {j k : Nat} {w : Warp} (h : j ≠ k) (x : Warp) (hw : s.warp? j = some w) :
    (s.setWarp k x).warp? j = some w := by
  rw [State.setWarp, State.warp?_updWarp, if_neg h, hw]

/-! ### What one of the two warps takes -/

/-- The lane writes its destination: it runs in both warps, or zero policy clears it. -/
def Warp.swaps (w : Warp) (pf : Option Prefix) (m theirs : Mask) (l : Nat) : Bool :=
  if w.runs pf m l then theirs.getLsbD l else w.zeroPolicy pf

/-- The registers after the exchange. -/
def Warp.swapped (w : Warp) (pf : Option Prefix) (c : Cur) (d : Code) (y : Warp) (theirs : Mask) (a : Code) : Warp :=
  (c.lanes.lanes.filter (w.swaps pf c.lanes theirs)).foldl (fun x l => x.wr d l (if w.runs pf c.lanes l then y.rd a l else 0)) w

section
variable {w y : Warp} {pf : Option Prefix} {c : Cur} {d a : Code} {theirs : Mask}

theorem Warp.getLsbD_xchgpOwn (w : Warp) (pf : Option Prefix) (c : Cur) (l : Nat) :
    (w.xchgpOwn pf c).getLsbD l = w.runs pf c.lanes l := BitVec.getLsbD_and ..

theorem Warp.swapped_withRegs : w.swapped pf c d y theirs a = w.withRegs (w.swapped pf c d y theirs a) :=
  foldl_keeps (fun x : Warp => x = w.withRegs x) _ (fun x l hx => Warp.withRegs_trans hx (x.wr_withRegs d l _)) _ w rfl

theorem Warp.swapped_fpflags : (w.swapped pf c d y theirs a).fpflags = w.fpflags :=
  foldl_keeps (fun x : Warp => x.fpflags = w.fpflags) _ (fun x l hx => (x.wr_fpflags d l _).trans hx) _ w rfl

/-- A lane that does not run is one that zero policy clears, if it is on. -/
theorem Warp.zeroed_of_not_runs {m : Mask} {l : Nat} (h : ¬w.runs pf m l = true) :
    w.zeroed pf m l = (m.getLsbD l && w.zeroPolicy pf) := by
  rw [Warp.runs, Bool.and_eq_true, not_and, Bool.not_eq_true] at h
  cases hm : m.getLsbD l <;> simp_all [Warp.zeroed]

/-- The exchange changes the registers, the count of exchanges and the hold. -/
theorem Warp.exchange_eq : w.exchange pf c d y theirs a = { w.swapped pf c d y theirs a with xchgp := w.xchgp + 1, held := none } := by
  have hfold : c.lanes.lanes.foldl (fun (x : Warp) i =>
      if (w.xchgpOwn pf c).getLsbD i then (if theirs.getLsbD i then x.wr d i (y.rd a i) else x)
      else if w.zeroPolicy pf then x.wr d i 0 else x) w = w.swapped pf c d y theirs a := by
    rw [Warp.swapped, List.foldl_filter]
    refine List.foldl_ext _ _ _ (fun x l _ => ?_)
    rw [Warp.getLsbD_xchgpOwn, Warp.swaps]
    by_cases hrun : w.runs pf c.lanes l = true <;> simp [hrun]
  rw [Warp.exchange, hfold, Warp.swapped_withRegs]
  rfl

theorem Warp.exchange_withRegs : w.exchange pf c d y theirs a =
    { w.withRegs (w.exchange pf c d y theirs a) with xchgp := w.xchgp + 1, held := none } := by
  rw [Warp.exchange_eq, Warp.swapped_withRegs]
  rfl

theorem Warp.exchange_fpflags : (w.exchange pf c d y theirs a).fpflags = w.fpflags := by
  rw [Warp.exchange_eq]
  exact Warp.swapped_fpflags

/-- A lane that runs in both warps takes the partner's source, one that runs in its own alone keeps its register. -/
theorem Warp.rd_exchange (ho : OnceFits d false) {p : Option Prefix} {c2 : Cur} (r : Code) {l : Nat} (hl : l < 32) :
    (w.exchange pf c d y (y.xchgpOwn p c2) a).rd r l =
      if w.runs pf c.lanes l = true ∧ ¬y.runs p c2.lanes l = true then w.rd r l
      else w.afterWord pf c.lanes d (fun l => y.rd a l) r l := by
  have hrd : (w.exchange pf c d y (y.xchgpOwn p c2) a).rd r l = (w.swapped pf c d y (y.xchgpOwn p c2) a).rd r l := by
    rw [Warp.exchange_eq]
    rfl
  rw [hrd, Warp.swapped, Warp.rd_foldl_wr (d := d) r _ (fun l => if w.runs pf c.lanes l then y.rd a l else 0) _
    (fun x i hi => Warp.rd_wr_lane ho x r _ (mem_lanes.mp (List.mem_of_mem_filter hi)).1 hl), Warp.afterWord_lanes ho]
  simp only [List.mem_filter, mem_lanes, hl, true_and, Warp.swaps, Warp.getLsbD_xchgpOwn]
  by_cases hrun : w.runs pf c.lanes l = true
  · have hlane : c.lanes.getLsbD l = true := (Bool.and_eq_true_iff.mp hrun).1
    by_cases hother : y.runs p c2.lanes l = true <;> simp [hrun, hother, hlane, Warp.not_zeroed_of_runs hrun]
  · simp [hrun, Warp.zeroed_of_not_runs hrun]

end

/-! ### Both warps -/

section
variable {s : State} {c1 c2 : Cur} {p1 p2 : Option Prefix} {d1 a1 d2 a2 : Code} {w1 w2 : Warp}

/-- Two warps that no debugger watches both take what the exchange gives them, and both retire. -/
theorem State.exchange_retires (h1 : s.warp? c1.w = some w1) (h2 : s.warp? c2.w = some w2) (hne : c2.w ≠ c1.w)
    (hd1 : s.debugOn w1 = false) (hd2 : s.debugOn w2 = false) :
    s.exchange c1 p1 d1 a1 c2 p2 d2 a2 =
      (s.setWarp c1.w ((w1.exchange p1 c1 d1 w2 (w2.xchgpOwn p2 c2) a2).afterRetire c1 false)).setWarp c2.w
        ((w2.exchange p2 c2 d2 w1 (w1.xchgpOwn p1 c1) a1).afterRetire c2 false) := by
  have hasid (w y : Warp) (p : Option Prefix) (c : Cur) (d a : Code) (m : Mask) : (w.exchange p c d y m a).asid = w.asid := by
    rw [Warp.exchange_withRegs]
    rfl
  simp only [State.exchange, h1, h2]
  generalize hn1 : w1.exchange p1 c1 d1 w2 (w2.xchgpOwn p2 c2) a2 = n1
  generalize hn2 : w2.exchange p2 c2 d2 w1 (w1.xchgpOwn p1 c1) a1 = n2
  rw [State.setWarp_comm s hne.symm, State.setWarp_retire (State.warp?_setWarp_other hne.symm n2 h1) hd1 (hn1 ▸ hasid ..),
    State.setWarp_comm s hne, State.setWarp_retire (State.warp?_setWarp_other hne _ h2) hd2 (hn2 ▸ hasid ..)]

end

/-! ### The instruction -/

theorem exec_xchgp (pf : Option Prefix) (d a : Code) (s : State) : exec (.xchgp pf d a) s = execXchgp pf d a s := rfl
theorem exec_xchgpMatch (key : Nat) (s : State) : exec (.xchgpMatch key) s = execXchgpMatch key s := rfl

section
variable {pf p2 : Option Prefix} {d a d2 a2 : Code} {s : State} {c : Cur} {w w2 : Warp} {k2 : Nat} {h : Held}

theorem xchgp_exchanges (hr : Ready (.xchgp pf d a) .none s c w) (hp : Plain s w) (htwo : s.twoGroups w = true)
    (halone : s.xchgpAlone w = false) (hpartner : s.xchgpPartner w = some (k2, w2, h)) (hi : h.i = some (.xchgp p2 d2 a2)) :
    exec (.xchgp pf d a) s = .next (s.exchange (w.wholeCur c) pf d a h.cur p2 d2 a2) := by
  rw [exec_xchgp, execXchgp, issue_ready hr]
  simp [badLanes_nil hp.sound, htwo, halone, hpartner, hi]

theorem State.parkAt_eq_setWarp {why : Why} {i : Instr} (hw : s.warp? c.w = some w) :
    s.parkAt c why i = s.setWarp c.w { w with held := some { why := why, cur := c, i := some i } } :=
  State.updWarp_eq_setWarp s c.w _ w hw

theorem xchgp_waits (hr : Ready (.xchgp pf d a) .none s c w) (hp : Plain s w) (htwo : s.twoGroups w = true)
    (halone : s.xchgpAlone w = false) (hpartner : s.xchgpPartner w = none) :
    exec (.xchgp pf d a) s = .next (s.setWarp c.w
      { w with held := some { why := .xchgp w.xchgp, cur := w.wholeCur c, i := some (.xchgp pf d a) } }) := by
  have hpark : exec (.xchgp pf d a) s = .next (s.parkAt (w.wholeCur c) (.xchgp w.xchgp) (.xchgp pf d a)) := by
    rw [exec_xchgp, execXchgp, issue_ready hr]
    simp [badLanes_nil hp.sound, htwo, halone, hpartner]
  exact hpark.trans (congrArg _ (State.parkAt_eq_setWarp (c := w.wholeCur c) hr.warp))

theorem xchgp_alone (hr : Ready (.xchgp pf d a) .none s c w) (hp : Plain s w) (hnone : s.twoGroups w = false ∨ s.xchgpAlone w = true) :
    exec (.xchgp pf d a) s = .next (s.raiseWhole (w.wholeCur c) 0x4D 0) := by
  have hcond : (!s.twoGroups w || s.xchgpAlone w) = true := by
    rcases hnone with h | h <;> simp [h]
  rw [exec_xchgp, execXchgp, issue_ready hr]
  simp [badLanes_nil hp.sound, hcond]

end

/-- Settles O23: XCHGP by whether its partner waits, has not come or is gone; two that exchange take `Warp.exchange` and retire. -/
theorem partnersExchange : Obligations.PartnersExchange := by
  unfold Obligations.PartnersExchange
  refine ⟨fun pf p2 d a d2 a2 s c w w2 k2 h hr hp htwo halone hpartner hi hk hne hw2 hd2 => ?_,
    fun pf d a s c w hr hp => ⟨xchgp_waits hr hp, xchgp_alone hr hp⟩,
    fun p1 p2 d1 a1 d2 a2 s key k2 w w2 h h2 hw hheld hwhy hhalt hi hpartner hi2 => ?_⟩
  · subst hk
    have ho : OnceFits d false := onceFits_dLane (hr.accepts List.mem_cons_self)
    refine ⟨w.exchange pf (w.wholeCur c) d w2 (w2.xchgpOwn p2 h.cur) a2, w2.exchange p2 h.cur d2 w (w.xchgpOwn pf (w.wholeCur c)) a, ?_,
      Warp.exchange_withRegs, Warp.exchange_fpflags, Warp.exchange_withRegs, Warp.exchange_fpflags,
      fun r l hl => Warp.rd_exchange ho r hl, fun hlane r l hl => Warp.rd_exchange (by simp [OnceFits, hlane]) r hl⟩
    rw [xchgp_exchanges hr hp htwo halone hpartner hi]
    exact congrArg _ (State.exchange_retires (c1 := w.wholeCur c) hr.warp hw2 hne hp.debug hd2)
  · have hready : s.xchgpReady key = true := by
      simp [State.xchgpReady, hw, hheld, hwhy, hhalt, hpartner]
    rw [exec_xchgpMatch, execXchgpMatch, if_pos hready]
    simp [hw, hheld, hpartner, hi, hi2]

end Sys2Proof.Machine
end

section
/-! ## Family 12: collective instructions of the Aster unit -/
namespace Sys2Proof.Machine

theorem exec_expand (d a : Code) (n : BitVec 2) (o : BitVec 4) (s : State) : exec (.expand d a n o) s = execExpand d a n o s := rfl
theorem exec_exnext (d a b : Code) (s : State) : exec (.exnext d a b) s = withinExpansion (.exnext d a b) s := rfl
theorem exec_exred (a : Code) (s : State) : exec (.exred a) s = withinExpansion (.exred a) s := rfl
theorem exec_exfin (d : Code) (s : State) : exec (.exfin d) s = withinExpansion (.exfin d) s := rfl
theorem exec_asterStepMatch (key : Nat) (s : State) : exec (.asterStepMatch key) s = execAsterStepMatch key s := rfl

/-! ### Issue (R187, R197) -/

/-- The warp once its attribution span is closed (R197). -/
def Warp.spanless (w : Warp) : Warp := { w with span := false }

/-- The warp held at a collective instruction. -/
def Warp.deals (w : Warp) (c : Cur) (i : Instr) : Warp := { w with span := false, held := some { why := .aster, cur := c, i := some i } }

/-- Nothing but its operands keeps the instruction from its effect. -/
def NeverWaits (i : Instr) : Prop := ∀ (s : State) (c : Cur) (w : Warp), s.mustWait i c w = false

section
variable {i : Instr} {s : State} {c : Cur} {w : Warp}

theorem State.closeSpan_ready (h : Ready i .none s c w) : s.closeSpan i = s.setWarp c.w w.spanless := by
  simp only [State.closeSpan, h.cur, h.warp, h.operands, Bool.and_false]
  rfl

theorem Ready.spanless (h : Ready i .none s c w) (hi : NeverWaits i) : Ready i .none (s.setWarp c.w w.spanless) c w.spanless where
  cur := h.cur
  warp := State.warp?_setWarp_self _ h.warp
  held := rfl
  checked := h.checked
  operands := h.operands
  free := hi _ _ _

/-- An instruction that closes the span before its checks has its effect on the warp without it. -/
theorem issueClean_closeSpan (h : Ready i .none s c w) (hp : Plain s w) (hi : NeverWaits i) (body : State → Cur → Warp → State) :
    issueClean i .none (s.closeSpan i) body = .next (body (s.setWarp c.w w.spanless) c w.spanless) := by
  rw [State.closeSpan_ready h, issueClean_ready (h.spanless hi) hp.sound]

theorem withinExpansion_active (h : Ready i .none s c w) (hp : Plain s w) (hi : NeverWaits i) (hact : w.slice.active = true) :
    withinExpansion i s = .next ((s.setWarp c.w w.spanless).collective c w.spanless i) := by
  rw [withinExpansion, issueClean_closeSpan h hp hi, if_pos (show w.spanless.slice.active = true from hact)]

theorem withinExpansion_inactive (h : Ready i .none s c w) (hp : Plain s w) (hi : NeverWaits i) (hact : w.slice.active = false) :
    withinExpansion i s = .next ((s.setWarp c.w w.spanless).raiseWhole c 0x1B 0) := by
  have hoff : ¬w.spanless.slice.active = true := by simpa [Warp.spanless] using hact
  rw [withinExpansion, issueClean_closeSpan h hp hi, if_neg hoff]

/-- A collective instruction whose path is the whole warp and whose set is complete holds the warp, and what is due is made. -/
theorem State.collective_whole (hw : s.warp? c.w = some w) (hfull : (w.path c.p).mask = Mask.full)
    (hset : (s.setWarp c.w w.spanless).setBroken w (w.setOf i) = false) :
    (s.setWarp c.w w.spanless).collective c w.spanless i =
      match (s.setWarp c.w (w.deals c i)).asterDue w with
      | some d => (s.setWarp c.w (w.deals c i)).asterMatch d.key
      | none => if (s.setWarp c.w (w.deals c i)).asterReady c.w then (s.setWarp c.w (w.deals c i)).asterMatch c.w
        else s.setWarp c.w (w.deals c i) := by
  have hgo : ¬((w.spanless.path c.p).mask ≠ Mask.full ∨
      (s.setWarp c.w w.spanless).setBroken w.spanless (w.spanless.setOf i) = true) := by
    rintro (h | h)
    · exact h hfull
    · exact Bool.false_ne_true (hset.symm.trans h)
  have hpark : (s.setWarp c.w w.spanless).parkAt c .aster i = s.setWarp c.w (w.deals c i) := by
    rw [State.parkAt_eq_setWarp (State.warp?_setWarp_self _ hw), State.setWarp_setWarp]
    rfl
  rw [State.collective, if_neg hgo, hpark]
  rfl

end

/-! ### The step of a set (R187) -/

section
variable {s : State} {key : Nat} {w : Warp} {d : Dealt} {ds : List Dealt}

theorem Warp.dealt_w (h : w.dealt key = some d) : d.w = w := by
  unfold Warp.dealt at h
  split at h
  · cases h
  · split at h <;> cases h
    rfl

theorem loadedBad_unloaded (h : ∀ x ∈ ds, x.w.slice.loaded = false) : loadedBad ds = none := by
  unfold loadedBad
  split
  · rfl
  · exact if_neg (by simpa using h)

theorem reloaded_unloaded (h : ∀ x ∈ ds, x.w.slice.loaded = false) : reloaded ds = ds :=
  if_neg (by simpa using h)

/-- Where all agree and none has loaded a slice, the step is `asterStep` of the set as it stands: a cause in every warp. -/
theorem State.asterMatch_cause {code : Nat} (hw : s.warp? key = some w) (hd : w.dealt key = some d) (hsame : s.differs d = false)
    (hl : ∀ x ∈ s.dealtSet w (w.setOf d.i), x.w.slice.loaded = false)
    (hstep : asterStep (s.dealtSet w (w.setOf d.i)) = .inl code) :
    s.asterMatch key = s.raiseSet (s.dealtSet w (w.setOf d.i)) code := by
  simp only [State.asterMatch, hw, Option.bind_some, hd, Warp.dealt_w hd, hsame, Bool.false_eq_true, if_false, loadedBad_unloaded hl,
    reloaded_unloaded hl, ite_self, hstep]

/-- As `asterMatch_cause`, for a step that every warp of the set makes and retires. -/
theorem State.asterMatch_step {ws : List Warp} (hw : s.warp? key = some w) (hd : w.dealt key = some d) (hsame : s.differs d = false)
    (hl : ∀ x ∈ s.dealtSet w (w.setOf d.i), x.w.slice.loaded = false)
    (hstep : asterStep (s.dealtSet w (w.setOf d.i)) = .inr ws) :
    s.asterMatch key = (s.dealtSet w (w.setOf d.i)).foldl (fun (t : State) x => t.retire x.cur)
      (((s.dealtSet w (w.setOf d.i)).zip ws).foldl (fun (t : State) x => t.setWarp x.1.key { x.2 with held := none }) s) := by
  simp only [State.asterMatch, hw, Option.bind_some, hd, Warp.dealt_w hd, hsame, Bool.false_eq_true, if_false, loadedBad_unloaded hl,
    reloaded_unloaded hl, ite_self, hstep]

end

/-! ### What a step changes of a warp (R190 to R193) -/

section
variable (d : Dealt) (lens : List Nat) (starts : List Word)

theorem Dealt.expand_withRegs (nr : Nat) : d.expand nr = { d.w.withRegs (d.expand nr) with slice := (d.expand nr).slice } := by
  unfold Dealt.expand
  split
  · dsimp only
    rw [Warp.wr_withRegs]
    rfl
  · rfl

/-- What EXNEXT deals to one lane: an item's index and owner and a 1 in the mask, or a 0 (R191). -/
def Warp.dealLane (dst a b : Code) (lens : List Nat) (starts : List Word) (items : Assoc Nat) (w : Warp) (i : Nat) : Warp :=
  match Assoc.at? items i with
  | some f =>
    let o := ownerOf lens f 0
    ((w.wr dst i ((starts[o.1]?).getD 0 + BitVec.ofNat 32 o.2)).wr a i (BitVec.ofNat 32 o.1)).wrBit b i true
  | none => w.wrBit b i false

theorem Warp.dealLane_withRegs (dst a b : Code) (items : Assoc Nat) (w : Warp) (i : Nat) :
    Warp.dealLane dst a b lens starts items w i = w.withRegs (Warp.dealLane dst a b lens starts items w i) := by
  unfold Warp.dealLane
  split
  · exact Warp.withRegs_trans (Warp.withRegs_trans (w.wr_withRegs ..) (Warp.wr_withRegs ..)) (Warp.wrBit_withRegs ..)
  · exact w.wrBit_withRegs ..

/-- The registers of a warp to whose lanes these items are dealt. -/
def Warp.dealLanes (w : Warp) (dst a b : Code) (lens : List Nat) (starts : List Word) (items : Assoc Nat) : Warp :=
  allLanes.foldl (Warp.dealLane dst a b lens starts items) w

theorem Warp.dealLanes_withRegs (w : Warp) (dst a b : Code) (items : Assoc Nat) :
    w.dealLanes dst a b lens starts items = w.withRegs (w.dealLanes dst a b lens starts items) :=
  foldl_keeps (fun x : Warp => x = w.withRegs x) _
    (fun x i hx => Warp.withRegs_trans hx (Warp.dealLane_withRegs lens starts dst a b items x i)) _ w rfl

/-- EXFIN's destination takes the accumulators. -/
def Warp.takeAcc (w : Warp) (dst : Code) : Warp := allLanes.foldl (fun x i => x.wr dst i (Assoc.get w.slice.acc 0 i)) w

theorem Warp.takeAcc_withRegs (w : Warp) (dst : Code) : w.takeAcc dst = w.withRegs (w.takeAcc dst) :=
  foldl_keeps (fun x : Warp => x = w.withRegs x) _ (fun x i hx => Warp.withRegs_trans hx (x.wr_withRegs dst i _)) _ w rfl

theorem Dealt.expand_asid (nr : Nat) : (d.expand nr).asid = d.w.asid := by
  rw [Dealt.expand_withRegs]
  rfl

theorem Dealt.next_asid (p : Nat) : (d.next lens starts p).asid = d.w.asid := by
  unfold Dealt.next
  split
  · exact (congrArg Warp.asid (Warp.dealLanes_withRegs lens starts d.w _ _ _ _) :)
  · rfl

theorem Dealt.finish_asid : d.finish.asid = d.w.asid := by
  unfold Dealt.finish
  split
  · exact (congrArg Warp.asid (Warp.takeAcc_withRegs d.w _) :)
  · rfl

end

/-- What holds of every member of a set and its value holds of the set and the values by position. -/
theorem forall₂_withPos {α β : Type} {R : α → β → Prop} {f : Nat × α → β} (h : ∀ p x, R x (f (p, x))) (xs : List α) (p : Nat) :
    List.Forall₂ R xs ((withPos xs p).map f) := by
  induction xs generalizing p with
  | nil => exact .nil
  | cons x r ih => exact .cons (h p x) (ih (p + 1))

theorem forall₂_map_self {α β : Type} {R : α → β → Prop} {f : α → β} (h : ∀ x, R x (f x)) (xs : List α) :
    List.Forall₂ R xs (xs.map f) :=
  List.forall₂_map_right_iff.mpr (List.forall₂_same.mpr (fun x _ => h x))

/-- A step gives each warp of the set its next state, in the same context. -/
theorem asterStep_asid {ds : List Dealt} {ws : List Warp} (h : asterStep ds = .inr ws) :
    List.Forall₂ (fun (d : Dealt) (x : Warp) => x.asid = d.w.asid) ds ws := by
  cases ds with
  | nil =>
    cases h
    exact .nil
  | cons d r =>
    simp only [asterStep] at h
    split at h
    · split at h <;> cases h
      exact forall₂_map_self (fun x => x.expand_asid _) _
    · cases h
      exact forall₂_withPos (fun p x => x.next_asid _ _ p) _ 0
    · cases h
      exact forall₂_withPos (fun p x => rfl) _ 0
    · cases h
      exact forall₂_map_self (fun x => x.finish_asid) _
    · cases h
      exact forall₂_map_self (R := fun (d : Dealt) (x : Warp) => x.asid = d.w.asid) (fun _ => rfl) _

/-! ### Several warps are changed and retire -/

section
variable {α : Type} (k : α → Nat) (g : α → Warp)

/-- A state in which several warps are replaced. -/
def State.setWarps (s : State) (zs : List α) : State := zs.foldl (fun (t : State) z => t.setWarp (k z) (g z)) s

variable {k g} {s : State} {zs : List α}

theorem State.setWarps_setWarp {j : Nat} (hj : ∀ z ∈ zs, k z ≠ j) (s : State) (y : Warp) :
    (s.setWarps k g zs).setWarp j y = (s.setWarp j y).setWarps k g zs := by
  induction zs generalizing s with
  | nil => rfl
  | cons z r ih =>
    simp only [State.setWarps, List.foldl_cons] at ih ⊢
    rw [ih (fun x hx => hj x (List.mem_cons_of_mem z hx)), State.setWarp_comm s (hj z List.mem_cons_self)]

theorem State.warp?_setWarps {j : Nat} (hj : ∀ z ∈ zs, k z ≠ j) {y : Warp} (hy : s.warp? j = some y) :
    (s.setWarps k g zs).warp? j = some y := by
  induction zs generalizing s with
  | nil => exact hy
  | cons z r ih =>
    exact ih (fun x hx => hj x (List.mem_cons_of_mem z hx)) (State.warp?_setWarp_other (hj z List.mem_cons_self).symm _ hy)

theorem State.debugOn_setWarps (s : State) (y : Warp) : (s.setWarps k g zs).debugOn y = s.debugOn y :=
  foldl_keeps (fun t : State => t.debugOn y = s.debugOn y) (fun (t : State) z => t.setWarp (k z) (g z)) (fun _ _ ht => ht) zs s rfl

/-- Warps with distinct keys, none watched by a debugger, that are changed and then all retire. -/
theorem State.setWarps_retire {cur : α → Cur} (hk : (zs.map k).Nodup)
    (hz : ∀ z ∈ zs, (cur z).w = k z ∧ (s.warp? (k z)).isSome = true ∧ s.debugOn (g z) = false) :
    zs.foldl (fun (t : State) z => t.retire (cur z)) (s.setWarps k g zs) =
      s.setWarps k (fun z => (g z).afterRetire (cur z) false) zs := by
  induction zs generalizing s with
  | nil => rfl
  | cons z r ih =>
    obtain ⟨hcur, hsome, hd⟩ := hz z List.mem_cons_self
    obtain ⟨y, hy⟩ := Option.isSome_iff_exists.mp hsome
    rw [List.map_cons, List.nodup_cons] at hk
    obtain ⟨hnew, hk⟩ := hk
    have hne : ∀ x ∈ r, k x ≠ k z := fun x hx e => hnew (e ▸ List.mem_map_of_mem hx)
    have hself : ((s.setWarp (k z) (g z)).setWarps k g r).warp? (cur z).w = some (g z) := by
      rw [hcur]
      exact State.warp?_setWarps hne (State.warp?_setWarp_self (g z) hy)
    have hretire : ((s.setWarp (k z) (g z)).setWarps k g r).retire (cur z) =
        (s.setWarp (k z) ((g z).afterRetire (cur z) false)).setWarps k g r := by
      rw [State.retire_plain _ _ _ hself ((State.debugOn_setWarps ..).trans hd), hcur, State.setWarps_setWarp hne, State.setWarp_setWarp]
    have hcons (f : α → Warp) : s.setWarps k f (z :: r) = (s.setWarp (k z) (f z)).setWarps k f r := rfl
    rw [List.foldl_cons, hcons, hretire, hcons]
    refine ih hk (fun x hx => ?_)
    obtain ⟨h1, h2, h3⟩ := hz x (List.mem_cons_of_mem z hx)
    obtain ⟨x', hx'⟩ := Option.isSome_iff_exists.mp h2
    exact ⟨h1, by rw [State.warp?_setWarp_other (hne x hx) _ hx']; rfl, h3⟩

end

theorem State.mate_eq_some {s : State} {w x : Warp} {wg i k : Nat} : s.mate w wg i = some (k, x) ↔
    (s.group? w.team wg).bind (fun g => g.keyAt i) = some k ∧ s.warp? k = some x ∧
      x.team = w.team ∧ x.wg = wg ∧ x.warpId = i ∧ x.live ≠ 0 := by
  unfold State.mate
  cases (s.group? w.team wg).bind (fun g => g.keyAt i) with
  | none => simp
  | some j =>
    dsimp only
    by_cases hjk : j = k
    · subst hjk
      cases s.warp? j with
      | none => simp
      | some y => by_cases hy : y = x <;> simp [hy]
    · cases s.warp? j <;> simp [hjk]

/-- A member of a set is a warp of the state. -/
theorem State.warp?_of_mem_dealtSet {s : State} {w : Warp} {n : Nat} {x : Dealt} (h : x ∈ s.dealtSet w n) :
    s.warp? x.key = some x.w ∧ x.w.dealt x.key = some x := by
  obtain ⟨i, -, hi⟩ := List.mem_filterMap.mp h
  obtain ⟨⟨k, y⟩, hmate, hx⟩ := Option.bind_eq_some_iff.mp hi
  have hkey : x.key = k := by
    dsimp only at hx
    unfold Warp.dealt at hx
    split at hx
    · cases hx
    · split at hx <;> cases hx
      rfl
  rw [hkey, Warp.dealt_w hx]
  exact ⟨(State.mate_eq_some.mp hmate).2.1, hx⟩

/-- Where the warps of a set agree and none has loaded a slice, each takes what the step makes of it, and retires. -/
theorem State.asterMatch_all {s : State} {key : Nat} {w : Warp} {d : Dealt} {ds : List Dealt} {ws : List Warp}
    (hw : s.warp? key = some w) (hd : w.dealt key = some d) (hsame : s.differs d = false) (hds : s.dealtSet w (w.setOf d.i) = ds)
    (hall : ∀ x ∈ ds, x.w.slice.loaded = false ∧ x.cur.w = x.key ∧ s.debugOn x.w = false)
    (hkeys : (ds.map Dealt.key).Nodup) (hstep : asterStep ds = .inr ws) :
    s.asterMatch key = (ds.zip ws).foldl (fun (t : State) x => t.setWarp x.1.key ({ x.2 with held := none }.afterRetire x.1.cur false)) s := by
  obtain ⟨hlen, hasid⟩ := List.forall₂_iff_zip.mp (asterStep_asid hstep)
  have hfst : (ds.zip ws).map Prod.fst = ds := List.map_fst_zip hlen.le
  have hretire (t : State) : ds.foldl (fun (t : State) x => t.retire x.cur) t =
      (ds.zip ws).foldl (fun (t : State) x => t.retire x.1.cur) t := by
    conv_lhs => rw [← hfst, List.foldl_map]
  have hmatch := State.asterMatch_step hw hd hsame (hds ▸ fun x hx => (hall x hx).1) (hds ▸ hstep)
  rw [hds, hretire] at hmatch
  refine hmatch.trans (State.setWarps_retire (k := fun x : Dealt × Warp => x.1.key) (g := fun x => { x.2 with held := none })
    (zs := ds.zip ws) (cur := fun x => x.1.cur) ?_ (fun z hz => ?_))
  · rwa [← hfst, List.map_map] at hkeys
  · have hmem : z.1 ∈ ds := (List.of_mem_zip hz).1
    obtain ⟨-, hcur, hdbg⟩ := hall z.1 hmem
    have hx := (State.warp?_of_mem_dealtSet (hds ▸ hmem)).1
    have hz2 : z.2.asid = z.1.w.asid := hasid hz
    exact ⟨hcur, by rw [hx]; rfl, by simpa [State.debugOn, hz2] using hdbg⟩

/-- Settles O25: what holds the warp is `collective_whole`; the warps of a set that step together are changed and retire one by one. -/
theorem asterSetsStepTogether : Obligations.AsterSetsStepTogether := by
  unfold Obligations.AsterSetsStepTogether
  refine ⟨fun i d a b s c w hi hr hp hact hfull => ?_, fun s key w d ws hw hd hready hsame => ?_⟩
  · intro w1 hset hdue hwait
    have hrun : exec i s = withinExpansion i s ∧ NeverWaits i := by
      simp only [List.mem_cons, List.not_mem_nil, or_false] at hi
      rcases hi with rfl | rfl | rfl
      exacts [⟨exec_exnext .., fun _ _ _ => rfl⟩, ⟨exec_exred .., fun _ _ _ => rfl⟩, ⟨exec_exfin .., fun _ _ _ => rfl⟩]
    have hdue' : (s.setWarp c.w (w.deals c i)).asterDue w = none := hdue
    have hwait' : (s.setWarp c.w (w.deals c i)).asterReady c.w = false := hwait
    rw [hrun.1, withinExpansion_active hr hp hrun.2 hact, State.collective_whole hr.warp hfull hset, hdue', hwait']
    rfl
  · intro ds hall hkeys hstep
    rw [exec_asterStepMatch, execAsterStepMatch, if_pos hready]
    refine congrArg _ (State.asterMatch_all hw hd hsame rfl (fun x hx => ?_) hkeys hstep)
    obtain ⟨-, -, hloaded, hcur, hdbg⟩ := hall x hx
    exact ⟨hloaded, hcur, hdbg⟩

end Sys2Proof.Machine
end

section
/-! ## Family 12: a warp that deals alone -/
namespace Sys2Proof.Machine

/-- The members of a run of numbers for which `f` answers, where it answers for one of them alone. -/
theorem filterMap_numsFrom_single {β : Type} {f : Nat → Option β} {j : Nat} {y : β} (hj : f j = some y)
    (hne : ∀ k, k ≠ j → f k = none) {a n : Nat} (ha : a ≤ j) (hn : j < a + n) : (numsFrom a n).filterMap f = [y] := by
  have hafter : ∀ (n b : Nat), j < b → (numsFrom b n).filterMap f = [] := fun n b hb =>
    List.filterMap_eq_nil_iff.mpr (fun k hk => hne k (by have := mem_numsFrom.mp hk; omega))
  induction n generalizing a with
  | zero => omega
  | succ n ih =>
    rw [numsFrom, List.filterMap_cons]
    by_cases haj : a = j
    · subst haj
      simp [hj, hafter n (a + 1) (Nat.lt_succ_self a)]
    · simp only [hne a haj]
      exact ih (by omega) (by omega)

section
variable {s : State} {c : Cur} {w : Warp} {i : Instr}

/-- The warp as the sets know it that is held at a collective instruction. -/
def Warp.dealtAt (w : Warp) (c : Cur) (i : Instr) : Dealt := { key := c.w, w := w.deals c i, cur := c, i := i }

@[simp] theorem Warp.dealtAt_w (w : Warp) (c : Cur) (i : Instr) : (w.dealtAt c i).w = w.deals c i := rfl
@[simp] theorem Warp.dealtAt_i (w : Warp) (c : Cur) (i : Instr) : (w.dealtAt c i).i = i := rfl
@[simp] theorem Warp.dealt_deals (w : Warp) (c : Cur) (i : Instr) : (w.deals c i).dealt c.w = some (w.dealtAt c i) := rfl
@[simp] theorem Warp.setOf_deals (w : Warp) (c : Cur) (i j : Instr) : (w.deals c i).setOf j = w.setOf j := by cases j <;> rfl

theorem Warp.setBase_le (w : Warp) (n : Nat) : w.setBase n ≤ w.warpId := Nat.div_mul_le_self ..

theorem Warp.lt_setBase_add (w : Warp) {n : Nat} (hn : 0 < n) : w.warpId < w.setBase n + n := Nat.lt_div_mul_add hn

theorem Warp.inSet_one (w : Warp) (k : Nat) : w.inSet 1 k = true ↔ k = w.warpId := by
  simp [Warp.inSet, Warp.setBase]
  omega

/-- The warp, changed in what does not place it, is found in its place. -/
theorem DealsAlone.mate_self (h : DealsAlone s c w) (hw : s.warp? c.w = some w) {x : Warp} (ht : x.team = w.team)
    (hwg : x.wg = w.wg) (hid : x.warpId = w.warpId) (hl : x.live = w.live) :
    (s.setWarp c.w x).mate w w.wg w.warpId = some (c.w, x) :=
  State.mate_eq_some.mpr ⟨h.place, State.warp?_setWarp_self x hw, ht, hwg, hid, hl ▸ h.live⟩

/-- The other warps of the workgroup have no part in collective steps. -/
theorem DealsAlone.mate_other (h : DealsAlone s c w) (hw : s.warp? c.w = some w) {k : Nat} (hk : k ≠ w.warpId) {m : Nat × Warp}
    (hm : (s.setWarp c.w (w.deals c i)).mate w w.wg k = some m) : m.2.dealt m.1 = none ∧ m.2.slice.loaded = false := by
  obtain ⟨j, y⟩ := m
  obtain ⟨-, hy, hteam, hwg, hid, -⟩ := State.mate_eq_some.mp hm
  by_cases hj : j = c.w
  · subst hj
    rw [State.warp?_setWarp_self _ hw] at hy
    cases hy
    exact absurd hid.symm hk
  · rw [State.setWarp, State.warp?_updWarp, if_neg hj] at hy
    exact h.others j y hj hy hteam hwg

theorem DealsAlone.setBroken (h : DealsAlone s c w) (hw : s.warp? c.w = some w) {x : Warp} (ht : x.team = w.team) (hwg : x.wg = w.wg)
    (hid : x.warpId = w.warpId) (hl : x.live = w.live) : (s.setWarp c.w x).setBroken w 1 = false := by
  have hbase : w.setBase 1 = w.warpId := by simp [Warp.setBase]
  simp [State.setBroken, numsFrom, hbase, h.mate_self hw ht hwg hid hl]

/-- Of a set of any size that the warp stands in it alone is held. -/
theorem DealsAlone.dealtSet (h : DealsAlone s c w) (hw : s.warp? c.w = some w) {n : Nat} (hn : 0 < n) :
    (s.setWarp c.w (w.deals c i)).dealtSet w n = [w.dealtAt c i] := by
  refine filterMap_numsFrom_single (j := w.warpId) ?_ (fun k hk => ?_) (w.setBase_le n) (w.lt_setBase_add hn)
  · rw [h.mate_self hw (x := w.deals c i) rfl rfl rfl rfl]
    rfl
  · cases hm : (s.setWarp c.w (w.deals c i)).mate w w.wg k with
    | none => rfl
    | some m => exact (h.mate_other hw hk hm).1

/-- A step of a set of one is matched with no other warp's. -/
theorem DealsAlone.mates (h : DealsAlone s c w) (hw : s.warp? c.w = some w) (hone : w.setOf i = 1) :
    (s.setWarp c.w (w.deals c i)).mates (w.dealtAt c i) = [(c.w, w.deals c i)] := by
  have hown : (w.deals c i).slice.loaded = false := h.own
  refine filterMap_numsFrom_single (j := w.warpId) ?_ (fun k hk => ?_) (w.setBase_le 4) (w.lt_setBase_add (by decide))
  · have hmate : (s.setWarp c.w (w.deals c i)).mate (w.deals c i) (w.deals c i).wg w.warpId = some (c.w, w.deals c i) :=
      h.mate_self hw rfl rfl rfl rfl
    have hin : (w.deals c i).inSet 1 w.warpId = true := (Warp.inSet_one _ _).mpr rfl
    simp [hmate, hone, hin]
  · cases hm : (s.setWarp c.w (w.deals c i)).mate (w.deals c i) (w.deals c i).wg k with
    | none => simp [hm]
    | some m =>
      have hin : (w.deals c i).inSet 1 k = false := Bool.eq_false_iff.mpr (fun hin => hk ((Warp.inSet_one _ _).mp hin))
      have hload : m.2.slice.loaded = false := (h.mate_other hw hk hm).2
      simp [hm, hone, hin, hown, hload]

theorem DealsAlone.differs (h : DealsAlone s c w) (hw : s.warp? c.w = some w) (hone : w.setOf i = 1) :
    (s.setWarp c.w (w.deals c i)).differs (w.dealtAt c i) = false := by
  have hin : (w.deals c i).inSet 1 (w.deals c i).warpId = true := (Warp.inSet_one _ _).mpr rfl
  simp [State.differs, h.mates hw hone, Dealt.agrees, hone, hin]

theorem DealsAlone.allMet (h : DealsAlone s c w) (hw : s.warp? c.w = some w) (hone : w.setOf i = 1) :
    (s.setWarp c.w (w.deals c i)).allMet (w.dealtAt c i) = true := by
  have hset : (s.setWarp c.w (w.deals c i)).setBroken (w.deals c i) 1 = false := h.setBroken hw rfl rfl rfl rfl
  have hhalt : (w.deals c i).halt.isNone = true ∧ (w.deals c i).halting = false := ⟨by simp [Warp.deals, h.halt.1], h.halt.2⟩
  simp [State.allMet, hset, h.mates hw hone, Dealt.met, hone, hhalt]

/-- Its set is itself. -/
theorem DealsAlone.dealtSet_one (h : DealsAlone s c w) (hw : s.warp? c.w = some w) (hone : w.setOf i = 1) :
    (s.setWarp c.w (w.deals c i)).dealtSet (w.deals c i) ((w.deals c i).setOf i) = [w.dealtAt c i] := by
  rw [Warp.setOf_deals, hone]
  exact h.dealtSet hw Nat.one_pos

/-- The step of a warp that deals alone is made as it issues. -/
theorem DealsAlone.collective (h : DealsAlone s c w) (hw : s.warp? c.w = some w) (hone : w.setOf i = 1) :
    (s.setWarp c.w w.spanless).collective c w.spanless i = (s.setWarp c.w (w.deals c i)).asterMatch c.w := by
  have hdue : (s.setWarp c.w (w.deals c i)).asterDue w = none := by
    rw [State.asterDue, h.dealtSet hw (by decide)]
    simp [h.differs hw hone]
  have hready : (s.setWarp c.w (w.deals c i)).asterReady c.w = true := by
    simp [State.asterReady, State.warp?_setWarp_self _ hw, -Warp.setOf_deals, h.dealtSet_one hw hone, h.allMet hw hone,
      h.differs hw hone]
  rw [State.collective_whole hw h.full (hone ▸ h.setBroken hw rfl rfl rfl rfl), hdue, if_pos hready]

/-- A step that raises a cause raises it in the warp, which is held no longer. -/
theorem DealsAlone.collective_cause (h : DealsAlone s c w) (hw : s.warp? c.w = some w) (hone : w.setOf i = 1) {code : Nat}
    (hstep : asterStep [w.dealtAt c i] = .inl code) :
    (s.setWarp c.w w.spanless).collective c w.spanless i =
      (s.setWarp c.w { w with span := false, held := none }).raiseWhole c code 0 := by
  have hfree : (s.setWarp c.w (w.deals c i)).unpark c.w = s.setWarp c.w { w with span := false, held := none } := by
    rw [State.unpark, State.updWarp_eq_setWarp _ _ _ _ (State.warp?_setWarp_self _ hw), State.setWarp_setWarp]
    rfl
  rw [h.collective hw hone, State.asterMatch_cause (State.warp?_setWarp_self _ hw) (d := w.dealtAt c i) rfl (h.differs hw hone)
    (fun y hy => ?_) ((congrArg asterStep (h.dealtSet_one hw hone)).trans hstep), Warp.dealtAt_i, h.dealtSet_one hw hone, ← hfree]
  · rfl
  · rw [Warp.dealtAt_i, h.dealtSet_one hw hone, List.mem_singleton] at hy
    exact hy ▸ h.own

/-- A step that is made leaves the warp as `asterStep` says, and the instruction retires. -/
theorem DealsAlone.collective_step (h : DealsAlone s c w) (hw : s.warp? c.w = some w) (hp : Plain s w) (hone : w.setOf i = 1) {x : Warp}
    (hstep : asterStep [w.dealtAt c i] = .inr [x]) :
    (s.setWarp c.w w.spanless).collective c w.spanless i = s.setWarp c.w ({ x with held := none }.afterRetire c false) := by
  rw [h.collective hw hone, State.asterMatch_all (State.warp?_setWarp_self _ hw) (d := w.dealtAt c i) rfl (h.differs hw hone)
    (h.dealtSet_one hw hone) (fun y hy => ?_) (List.nodup_singleton _) hstep]
  · exact State.setWarp_setWarp ..
  · cases List.mem_singleton.mp hy
    exact ⟨h.own, rfl, hp.debug⟩

end

end Sys2Proof.Machine
end

section
/-! ## Family 12: expansions of one warp -/
namespace Sys2Proof.Machine

/-! ### One change for each lane -/

/-- Of changes of which each shows in one place alone, a place shows its own. -/
theorem foldl_view {α β : Type} (V : α → β) (F : β → β) (g : α → Nat → α) {l : Nat} {ls : List Nat} (hnd : ls.Nodup)
    (hg : ∀ x, ∀ i ∈ ls, V (g x i) = if i = l then F (V x) else V x) (x : α) :
    V (ls.foldl g x) = if l ∈ ls then F (V x) else V x := by
  induction ls generalizing x with
  | nil => rfl
  | cons i r ih =>
    obtain ⟨hi, hnd⟩ := List.nodup_cons.mp hnd
    rw [List.foldl_cons, ih hnd (fun y j hj => hg y j (List.mem_cons_of_mem i hj)), hg x i List.mem_cons_self]
    by_cases h : i = l
    · subst h
      simp [hi]
    · simp [h, Ne.symm h]

theorem mem_allLanes {i : Nat} : i ∈ allLanes ↔ i < 32 := by rw [allLanes_eq_range, List.mem_range]

/-- A table with an entry for each lane. -/
def laneTable (f : Nat → Word) : Assoc Word := allLanes.foldl (fun (m : Assoc Word) j => Assoc.set m 0 j (f j)) []

theorem get_laneTable (f : Nat → Word) {i : Nat} (hi : i < 32) : Assoc.get (laneTable f) 0 i = f i := by
  refine (foldl_view (fun m => Assoc.get m 0 i) (fun _ => f i) (fun (m : Assoc Word) j => Assoc.set m 0 j (f j)) allLanes_nodup
    (fun m j _ => ?_) []).trans (if_pos (mem_allLanes.mpr hi))
  by_cases hj : j = i
  · simp [hj]
  · simp [Assoc.get_set, hj, Ne.symm hj]

/-- The entries of chosen keys, each with its own value. -/
theorem at?_filter_map {α : Type} (p : Nat → Bool) (f : Nat → α) (ls : List Nat) (i : Nat) :
    Assoc.at? ((ls.filter p).map (fun j => (j, f j))) i = if i ∈ ls ∧ p i = true then some (f i) else none := by
  induction ls with
  | nil => rfl
  | cons j r ih =>
    by_cases hp : p j = true
    · rw [List.filter_cons_of_pos hp, List.map_cons, Assoc.at?_cons, ih]
      by_cases hj : j = i
      · subst hj
        simp [hp]
      · simp [hj, Ne.symm hj]
    · rw [List.filter_cons_of_neg hp, ih]
      by_cases hj : j = i
      · subst hj
        simp [hp]
      · simp [Ne.symm hj]

/-! ### Owners and rounds (R188, R189) -/

/-- Item `f` of the flat sequence belongs to the owner among whose items it falls, at its offset there. -/
theorem ownerOf_spec (lens : List Nat) {f : Nat} (hf : f < lens.sum) (o : Nat) :
    ∃ j, (ownerOf lens f o).1 = o + j ∧ j < lens.length ∧ (ownerOf lens f o).2 < (lens[j]?).getD 0 ∧
      (lens.take j).sum + (ownerOf lens f o).2 = f := by
  induction lens generalizing f o with
  | nil => exact absurd hf (Nat.not_lt_zero f)
  | cons n r ih =>
    rw [List.sum_cons] at hf
    by_cases hn : f < n
    · exact ⟨0, by simp [ownerOf, hn]⟩
    · obtain ⟨j, howner, hj, hoff, hsum⟩ := ih (f := f - n) (by omega) (o + 1)
      refine ⟨j + 1, ?_, by simpa using hj, ?_, ?_⟩
      · simp only [ownerOf, if_neg hn, howner]
        omega
      · simpa [ownerOf, hn] using hoff
      · simp only [ownerOf, if_neg hn, List.take_succ_cons, List.sum_cons]
        omega

/-- The lengths of a slice's owners. -/
def Slice.lens (x : Slice) : List Nat := (List.range 32).map (fun i => (Assoc.get x.ln 0 i).toNat)

/-- The starts of a slice's owners. -/
def Slice.starts (x : Slice) : List Word := (List.range 32).map (fun i => Assoc.get x.st 0 i)

/-- The rounds that deal the items of one warp's slice. -/
def Slice.rounds (x : Slice) : Nat := (x.lens.sum + 31) / 32

/-- The items of the round at the cursor. -/
def Slice.round (x : Slice) : Assoc Nat := if decide (x.cursor < x.rounds) then dealItems x.lens.sum 32 x.cursor 0 else []

theorem Slice.length_lens (x : Slice) : x.lens.length = 32 := by simp [Slice.lens]

/-- Slot `i` takes item 32 × cursor + `i`, where there is one (R191). -/
theorem Slice.at?_round (x : Slice) {i : Nat} (hi : i < 32) :
    Assoc.at? x.round i = if 32 * x.cursor + i < x.lens.sum then some (32 * x.cursor + i) else none := by
  have hitem : x.cursor * 32 + 0 * 32 + i = 32 * x.cursor + i := by omega
  unfold Slice.round
  by_cases hc : x.cursor < x.rounds
  · rw [if_pos (decide_eq_true hc), dealItems, at?_filter_map]
    simp only [mem_allLanes, hi, true_and, hitem, decide_eq_true_eq]
  · have hpast : ¬32 * x.cursor + i < x.lens.sum := by
      unfold Slice.rounds at hc
      omega
    rw [decide_eq_false hc, if_neg hpast]
    rfl

theorem Slice.getElem?_starts (x : Slice) {i : Nat} (hi : i < 32) : (x.starts[i]?).getD 0 = Assoc.get x.st 0 i := by
  simp [Slice.starts, hi]

section
variable {s : State} {c : Cur} {w : Warp} {d a b : Code} {i : Instr}

theorem setLens_dealtAt : setLens [w.dealtAt c i] = w.slice.lens := by
  rw [setLens, List.flatMap_singleton, allLanes_eq_range]
  rfl

/-! ### EXPAND (R190) -/

theorem DWord.lo_ofWords (x y : Word) : (DWord.ofWords x y).lo = x := BitVec.setWidth_append_eq_right

theorem DWord.hi_ofWords (x y : Word) : (DWord.ofWords x y).hi = y := by
  refine BitVec.eq_of_getLsbD_eq (fun i hi => ?_)
  rw [DWord.hi, BitVec.getLsbD_setWidth, BitVec.getLsbD_ushiftRight, DWord.ofWords]
  exact (congrArg _ BitVec.getLsbD_append).trans (by simp [hi])

/-- A lane supplies its pair where it is guarded on. -/
theorem Dealt.supply_eq (x : Dealt) (a : Code) (i : Nat) :
    x.supply a i = (if (x.w.guardOf none).getLsbD i then x.w.rd a i else 0,
      if (x.w.guardOf none).getLsbD i then x.w.rd (nextCode a 1) i else 0) := by
  unfold Dealt.supply
  split <;> simp [Warp.rdPair, DWord.lo_ofWords, DWord.hi_ofWords]

/-- The items that an EXPAND of the warp opens. -/
def Warp.supplied (w : Warp) (a : Code) : Nat :=
  ((List.range 32).map (fun i => if (w.guardOf none).getLsbD i then (w.rd (nextCode a 1) i).toNat else 0)).sum

theorem asterStep_expand {n : BitVec 2} {o : BitVec 4} :
    asterStep [w.dealtAt c (.expand d a n o)] =
      if 2 ^ 32 ≤ w.supplied a then .inl 0x11 else .inr [(w.dealtAt c (.expand d a n o)).expand ((w.supplied a + 31) / 32)] := by
  have hlens : ([w.dealtAt c (.expand d a n o)].flatMap (fun x => allLanes.map (fun i => (x.supply x.source i).2.toNat))).foldl
      (fun n x => n + x) 0 = w.supplied a := by
    rw [← List.sum_eq_foldl_nat, List.flatMap_singleton, Warp.supplied, allLanes_eq_range]
    refine congrArg List.sum (List.map_congr_left (fun i _ => ?_))
    rw [Dealt.supply_eq, apply_ite BitVec.toNat]
    rfl
  simp only [asterStep, Warp.dealtAt_i]
  rw [hlens]
  rfl

/-- EXPAND's destination is uniform, or z. -/
theorem Warp.rd_wr_uniPair (hd : classOf d ∈ uniPair) (w : Warp) (x : Word) (r : Code) {l : Nat} (hl : l < 32) :
    (w.wr d 0 x).rd r l = if r = d ∧ d ≠ 0xFF then x else w.rd r l := by
  rw [Warp.rd_wr _ _ _ _ _ _ (by decide) hl]
  simp only [uniPair, List.mem_cons, List.not_mem_nil, or_false] at hd
  rcases hd with hd | hd
  · have hz : d ≠ 0xFF := fun h => by simp [h, classOf] at hd
    simp only [hd, and_iff_left hz]
  · have hz : ¬(r = d ∧ d ≠ 0xFF) := fun h => h.2 (eq_z_of_classOf hd)
    rw [if_neg hz]
    by_cases hr : r = d
    · simp only [hr, hd, if_true]
    · rw [if_neg hr]

/-! ### EXNEXT (R191) -/

/-- The warp after round `w.slice.cursor` of `t` items to `l` slots is dealt, `p` being its position in the set. -/
def Warp.nextOf (w : Warp) (d a b : Code) (lens : List Nat) (starts : List Word) (p t l : Nat) : Warp :=
  let dealt := decide (w.slice.cursor < roundsOf t l)
  let items := if dealt then dealItems t l w.slice.cursor p else []
  let x := w.dealLanes d a b lens starts items
  { x with slice := { x.slice with cursor := if dealt then w.slice.cursor + 1 else roundsOf t l + 1, item := items }, span := dealt }

/-- The warp after the next round of its own items is dealt to its lanes. -/
def Warp.nextRound (w : Warp) (c : Cur) (d a b : Code) : Warp :=
  (w.deals c (.exnext d a b)).nextOf d a b w.slice.lens w.slice.starts 0 w.slice.lens.sum 32

theorem asterStep_exnext : asterStep [w.dealtAt c (.exnext d a b)] = .inr [w.nextRound c d a b] := by
  have hstarts : [w.dealtAt c (.exnext d a b)].flatMap (fun x => allLanes.map (fun i => Assoc.get x.w.slice.st 0 i)) =
      w.slice.starts := by
    rw [List.flatMap_singleton, allLanes_eq_range]
    rfl
  simp only [asterStep, Warp.dealtAt_i, withPos, List.map_cons, List.map_nil, hstarts, setLens_dealtAt]
  rw [Warp.nextRound, List.sum_eq_foldl_nat, ← w.slice.length_lens]
  rfl

theorem Warp.dealLanes_fpflags (lens : List Nat) (starts : List Word) (w : Warp) (d a b : Code) (items : Assoc Nat) :
    (w.dealLanes d a b lens starts items).fpflags = w.fpflags := by
  refine foldl_keeps (fun x : Warp => x.fpflags = w.fpflags) _ (fun x i hx => ?_) _ w rfl
  unfold Warp.dealLane
  split <;> simp only [Warp.wrBit_fpflags, Warp.wr_fpflags, hx]

theorem Warp.dealLanes_slice (w : Warp) (d a b : Code) (lens : List Nat) (starts : List Word) (items : Assoc Nat) :
    (w.dealLanes d a b lens starts items).slice = w.slice := by
  rw [Warp.dealLanes_withRegs]
  rfl

/-- The slice after EXNEXT. -/
def Slice.next (x : Slice) : Slice :=
  { x with cursor := if decide (x.cursor < x.rounds) then x.cursor + 1 else x.rounds + 1, item := x.round }

theorem Warp.nextRound_eq : w.nextRound c d a b =
    { (w.deals c (.exnext d a b)).dealLanes d a b w.slice.lens w.slice.starts w.slice.round with
      slice := w.slice.next, span := decide (w.slice.cursor < w.slice.rounds) } := by
  simp only [Warp.nextRound, Warp.nextOf, Warp.dealLanes_slice]
  rfl

/-- The warp after EXNEXT, before it retires. -/
def Warp.roundDealt (w : Warp) (c : Cur) (d a b : Code) : Warp := { w.nextRound c d a b with held := none }

theorem Warp.roundDealt_eq : w.roundDealt c d a b =
    { (w.deals c (.exnext d a b)).dealLanes d a b w.slice.lens w.slice.starts w.slice.round with
      slice := w.slice.next, span := decide (w.slice.cursor < w.slice.rounds), held := none } := by
  rw [Warp.roundDealt, Warp.nextRound_eq]

theorem Warp.slice_roundDealt : (w.roundDealt c d a b).slice = w.slice.next := by rw [Warp.roundDealt_eq]

theorem Warp.span_roundDealt : (w.roundDealt c d a b).span = decide (w.slice.cursor < w.slice.rounds) := by rw [Warp.roundDealt_eq]

/-- Beside the registers EXNEXT changes the slice and the span, and the warp is held no longer. -/
theorem Warp.roundDealt_withRegs : w.roundDealt c d a b =
    { w.withRegs (w.roundDealt c d a b) with
      slice := (w.roundDealt c d a b).slice, span := (w.roundDealt c d a b).span, held := none } := by
  rw [Warp.roundDealt_eq, Warp.dealLanes_withRegs]
  rfl

/-- What a lane's registers read after an item, or none, is dealt to it. -/
def dealtWord (d a : Code) (lens : List Nat) (starts : List Word) (item : Option Nat) (r : Code) (x : Word) : Word :=
  match item with
  | some f =>
    if r = a ∧ classOf a = .lane then BitVec.ofNat 32 (ownerOf lens f 0).1
    else if r = d ∧ classOf d = .lane then (starts[(ownerOf lens f 0).1]?).getD 0 + BitVec.ofNat 32 (ownerOf lens f 0).2
    else x
  | none => x

section
variable {lens : List Nat} {starts : List Word} {items : Assoc Nat} {r : Code} {l : Nat}

theorem Warp.rd_dealLanes (hd : OnceFits d false) (ha : OnceFits a false) (hr : r ≠ b ∨ classOf b ≠ .mask) (w : Warp) (hl : l < 32) :
    (w.dealLanes d a b lens starts items).rd r l = dealtWord d a lens starts (Assoc.at? items l) r (w.rd r l) := by
  have hr' : r ≠ b ∨ b = 0xC0 ∨ classOf b ≠ .mask := hr.imp_right .inr
  refine (foldl_view (fun x => x.rd r l) (dealtWord d a lens starts (Assoc.at? items l) r)
    (Warp.dealLane d a b lens starts items) allLanes_nodup (fun x i hi => ?_) w).trans (if_pos (mem_allLanes.mpr hl))
  have hi := mem_allLanes.mp hi
  unfold Warp.dealLane
  cases hitem : Assoc.at? items i with
  | none =>
    simp only [Warp.rd_wrBit_other x b r i l false hi hl hr']
    by_cases h : i = l
    · subst h
      simp [dealtWord, hitem]
    · rw [if_neg h]
  | some f =>
    simp only [Warp.rd_wrBit_other _ b r i l true hi hl hr', Warp.rd_wr_lane ha _ r _ hi hl, Warp.rd_wr_lane hd _ r _ hi hl]
    by_cases h : i = l
    · subst h
      simp [dealtWord, hitem]
    · simp [h, Ne.symm h]

theorem Warp.bit_dealLanes (hd : OnceFits d false) (ha : OnceFits a false) (hb : classOf b = .mask) (h0 : b ≠ 0xC0) (w : Warp)
    (hl : l < 32) : ((w.dealLanes d a b lens starts items).rd b 0).getLsbD l = (Assoc.at? items l).isSome := by
  refine (foldl_view (fun x => (x.rd b 0).getLsbD l) (fun _ => (Assoc.at? items l).isSome)
    (Warp.dealLane d a b lens starts items) allLanes_nodup (fun x i hi => ?_) w).trans (if_pos (mem_allLanes.mpr hl))
  have hi := mem_allLanes.mp hi
  unfold Warp.dealLane
  cases hitem : Assoc.at? items i with
  | none =>
    simp only [Warp.wrBit_bit x b i l false hi hl hb h0]
    by_cases h : i = l
    · subst h
      simp [hitem]
    · simp [h, Ne.symm h]
  | some f =>
    have hne (e : Code) (he : b = e ∧ classOf e = .lane) : False := by
      rw [← he.1, hb] at he
      cases he.2
    simp only [Warp.wrBit_bit _ b i l true hi hl hb h0, Warp.rd_wr_lane ha _ b _ hi (Nat.zero_lt_succ 31),
      Warp.rd_wr_lane hd _ b _ hi (Nat.zero_lt_succ 31), if_neg (fun h => hne _ (And.left h))]
    by_cases h : i = l
    · subst h
      simp [hitem]
    · simp [h, Ne.symm h]

end

end

end Sys2Proof.Machine
end

section
/-! ## Family 12: EXPAND, EXNEXT, EXRED and EXFIN of one warp -/
namespace Sys2Proof.Machine

section
variable {s : State} {c : Cur} {w : Warp} {d a b : Code} {o : BitVec 4}

theorem setOf_of_n (hn : w.slice.n = 0) : w.setOf (.exnext d a b) = 1 ∧ w.setOf (.exred a) = 1 ∧ w.setOf (.exfin d) = 1 := by
  simp [Warp.setOf, hn, setSize]

/-! ### EXPAND (R190) -/

/-- EXPAND of a set of one that its checks accept is a collective instruction. -/
theorem exec_expand_collects (h : Ready (.expand d a 0 o) .none s c w) (hp : Plain s w) (ho : asterOpOk o.toNat = true)
    (hact : w.slice.active = false) (hdim : w.warpId < s.wgDim w) :
    exec (.expand d a 0 o) s = .next ((s.setWarp c.w w.spanless).collective c w.spanless (.expand d a 0 o)) := by
  have hfits : ¬(s.setWarp c.w w.spanless).wgDim w.spanless < w.spanless.setBase (setSize 0) + setSize 0 := by
    have hbase : w.spanless.setBase (setSize 0) + setSize 0 = w.warpId + 1 := congrArg (· + 1) (Nat.mul_one _ |>.trans (Nat.div_one _))
    rw [hbase]
    exact Nat.not_lt.mpr hdim
  rw [exec_expand, execExpand, issueClean_closeSpan h hp (fun _ _ _ => rfl)]
  simp only [ho, hfits, show w.spanless.slice.active = false from hact]
  rfl

/-- What a lane supplies of a register: 0 where it is guarded off. -/
def Warp.supplies (w : Warp) (a : Code) (i : Nat) : Word := if (w.guardOf none).getLsbD i then w.rd a i else 0

/-- The slice that an EXPAND of the warp opens. -/
def Warp.openedSlice (w : Warp) (a : Code) (o : BitVec 4) : Slice :=
  { st := laneTable (w.supplies a), ln := laneTable (w.supplies (nextCode a 1)), acc := laneTable (fun _ => asterIdentity o.toNat)
    item := [], cursor := 0, active := true, op := o, n := 0, loaded := false }

/-- The warp after it has opened an expansion of its own, before it retires. -/
def Warp.expanded (w : Warp) (c : Cur) (d a : Code) (o : BitVec 4) : Warp :=
  { (w.deals c (.expand d a 0 o)).wr d 0 (BitVec.ofNat 32 ((w.supplied a + 31) / 32)) with slice := w.openedSlice a o, held := none }

theorem asterStep_expanded (h : w.supplied a < 2 ^ 32) :
    ∃ x, asterStep [w.dealtAt c (.expand d a 0 o)] = .inr [x] ∧ { x with held := none } = w.expanded c d a o := by
  refine ⟨_, asterStep_expand.trans (if_neg (Nat.not_le.mpr h)), ?_⟩
  have hsupply : (fun i => ((w.dealtAt c (.expand d a 0 o)).supply a i).1) = w.supplies a ∧
      (fun i => ((w.dealtAt c (.expand d a 0 o)).supply a i).2) = w.supplies (nextCode a 1) := by
    simp only [Dealt.supply_eq]
    exact ⟨rfl, rfl⟩
  rw [Warp.expanded, Warp.openedSlice, ← hsupply.1, ← hsupply.2]
  rfl

theorem Warp.expanded_withRegs : w.expanded c d a o =
    { w.withRegs (w.expanded c d a o) with slice := (w.expanded c d a o).slice, span := false, held := none } := by
  rw [Warp.expanded, Warp.wr_withRegs]
  rfl

theorem Warp.expanded_fpflags : (w.expanded c d a o).fpflags = w.fpflags :=
  (w.deals c (.expand d a 0 o)).wr_fpflags d 0 (BitVec.ofNat 32 ((w.supplied a + 31) / 32))

theorem Warp.rd_expanded (hd : classOf d ∈ uniPair) (r : Code) {l : Nat} (hl : l < 32) :
    (w.expanded c d a o).rd r l = if r = d ∧ d ≠ 0xFF then BitVec.ofNat 32 ((w.supplied a + 31) / 32) else w.rd r l :=
  Warp.rd_wr_uniPair hd (w.deals c (.expand d a 0 o)) _ r hl

/-! ### EXNEXT (R191) -/

theorem classOf_of_dLane (h : classOf d ∈ dLane) (hz : d ≠ 0xFF) : classOf d = .lane := by
  simp only [dLane, List.mem_cons, List.not_mem_nil, or_false] at h
  exact h.resolve_right (fun h => hz (eq_z_of_classOf h))

theorem classOf_of_dMask (h : classOf b ∈ dMask) (hz : b ≠ 0xFF) : classOf b = .mask := by
  simp only [dMask, List.mem_cons, List.not_mem_nil, or_false] at h
  exact h.resolve_right (fun h => hz (eq_z_of_classOf h))

/-- A lane register is no mask register. -/
theorem ne_or_of_dLane (h : classOf d ∈ dLane) (b : Code) : d ≠ b ∨ classOf b ≠ .mask := by
  by_cases hdb : d = b
  · subst hdb
    refine .inr (fun hm => ?_)
    simp [hm, dLane] at h
  · exact .inl hdb

theorem Warp.rd_roundDealt (hd : classOf d ∈ dLane) (ha : classOf a ∈ dLane) {r : Code} (hr : r ≠ b ∨ classOf b ≠ .mask) {l : Nat}
    (hl : l < 32) : (w.roundDealt c d a b).rd r l =
      dealtWord d a w.slice.lens w.slice.starts (Assoc.at? w.slice.round l) r (w.rd r l) := by
  rw [Warp.roundDealt_eq]
  exact Warp.rd_dealLanes (onceFits_dLane hd) (onceFits_dLane ha) hr (w.deals c (.exnext d a b)) hl

theorem Warp.bit_roundDealt (hd : classOf d ∈ dLane) (ha : classOf a ∈ dLane) (hb : classOf b ∈ dMask) (hz : b ≠ 0xFF) (h0 : b ≠ 0xC0)
    {l : Nat} (hl : l < 32) : ((w.roundDealt c d a b).rd b 0).getLsbD l = (Assoc.at? w.slice.round l).isSome := by
  rw [Warp.roundDealt_eq]
  exact Warp.bit_dealLanes (onceFits_dLane hd) (onceFits_dLane ha) (classOf_of_dMask hb hz) h0 (w.deals c (.exnext d a b)) hl

theorem Warp.roundDealt_fpflags : (w.roundDealt c d a b).fpflags = w.fpflags := by
  rw [Warp.roundDealt_eq]
  exact Warp.dealLanes_fpflags _ _ (w.deals c (.exnext d a b)) d a b _

theorem Warp.cursor_roundDealt : (w.roundDealt c d a b).slice.cursor =
    if w.slice.cursor < w.slice.rounds then w.slice.cursor + 1 else w.slice.rounds + 1 := by
  rw [Warp.slice_roundDealt]
  exact if_congr decide_eq_true_iff rfl rfl

theorem Warp.st_roundDealt : (w.roundDealt c d a b).slice.st = w.slice.st := by
  rw [Warp.slice_roundDealt]
  rfl

theorem Warp.ln_roundDealt : (w.roundDealt c d a b).slice.ln = w.slice.ln := by
  rw [Warp.slice_roundDealt]
  rfl

theorem Warp.acc_roundDealt : (w.roundDealt c d a b).slice.acc = w.slice.acc := by
  rw [Warp.slice_roundDealt]
  rfl

theorem Warp.item_roundDealt {i : Nat} (hi : i < 32) : Assoc.at? (w.roundDealt c d a b).slice.item i =
    if 32 * w.slice.cursor + i < w.slice.lens.sum then some (32 * w.slice.cursor + i) else none := by
  rw [Warp.slice_roundDealt]
  exact w.slice.at?_round hi

/-- A lane that takes an item of the round holds the item's index, its owner and a 1 in the mask. -/
theorem Warp.roundDealt_item (hd : classOf d ∈ dLane) (ha : classOf a ∈ dLane) (hb : classOf b ∈ dMask) {i : Nat} (hi : i < 32)
    (hitem : 32 * w.slice.cursor + i < w.slice.lens.sum) :
    let o := ownerOf w.slice.lens (32 * w.slice.cursor + i) 0
    (d ≠ 0xFF → d ≠ a → (w.roundDealt c d a b).rd d i = Assoc.get w.slice.st 0 o.1 + BitVec.ofNat 32 o.2) ∧
    (a ≠ 0xFF → (w.roundDealt c d a b).rd a i = BitVec.ofNat 32 o.1) ∧
    (b ≠ 0xFF → b ≠ 0xC0 → ((w.roundDealt c d a b).rd b 0).getLsbD i = true) := by
  intro o
  have hround : Assoc.at? w.slice.round i = some (32 * w.slice.cursor + i) := (w.slice.at?_round hi).trans (if_pos hitem)
  have howner : o.1 < 32 := by
    obtain ⟨j, hj, hlt, -⟩ := ownerOf_spec w.slice.lens hitem 0
    rw [Slice.length_lens] at hlt
    rw [hj]
    omega
  refine ⟨fun hz hda => ?_, fun hz => ?_, fun hz h0 => ?_⟩
  · rw [Warp.rd_roundDealt hd ha (ne_or_of_dLane hd b) hi, hround, ← w.slice.getElem?_starts howner]
    simp only [dealtWord, hda, classOf_of_dLane hd hz, false_and, if_false, and_self, if_true, o]
  · rw [Warp.rd_roundDealt hd ha (ne_or_of_dLane ha b) hi, hround]
    simp [dealtWord, classOf_of_dLane ha hz, o]
  · rw [Warp.bit_roundDealt hd ha hb hz h0 hi, hround]
    rfl

/-- A lane past the items keeps its registers and takes a 0 in the mask. -/
theorem Warp.roundDealt_noItem (hd : classOf d ∈ dLane) (ha : classOf a ∈ dLane) (hb : classOf b ∈ dMask) {i : Nat} (hi : i < 32)
    (hitem : w.slice.lens.sum ≤ 32 * w.slice.cursor + i) :
    (w.roundDealt c d a b).rd d i = w.rd d i ∧ (w.roundDealt c d a b).rd a i = w.rd a i ∧
    (b ≠ 0xFF → b ≠ 0xC0 → ((w.roundDealt c d a b).rd b 0).getLsbD i = false) := by
  have hround : Assoc.at? w.slice.round i = none := (w.slice.at?_round hi).trans (if_neg (Nat.not_lt.mpr hitem))
  refine ⟨?_, ?_, fun hz h0 => ?_⟩
  · rw [Warp.rd_roundDealt hd ha (ne_or_of_dLane hd b) hi, hround]
    rfl
  · rw [Warp.rd_roundDealt hd ha (ne_or_of_dLane ha b) hi, hround]
    rfl
  · rw [Warp.bit_roundDealt hd ha hb hz h0 hi, hround]
    rfl

/-- Registers that EXNEXT does not name stay. -/
theorem Warp.rd_roundDealt_other (hd : classOf d ∈ dLane) (ha : classOf a ∈ dLane) {r : Code} {l : Nat} (hl : l < 32) (hrd : r ≠ d)
    (hra : r ≠ a) (hrb : r ≠ b) : (w.roundDealt c d a b).rd r l = w.rd r l := by
  rw [Warp.rd_roundDealt hd ha (.inl hrb) hl]
  cases Assoc.at? w.slice.round l <;> simp [dealtWord, hrd, hra]

/-! ### EXRED (R192) -/

/-- What a contribution makes of an accumulator. -/
def Slice.combined (x : Slice) (cs : List (Nat × Word)) : Assoc Word :=
  cs.foldl (fun (m : Assoc Word) e =>
    if e.1 / 32 = 0 then Assoc.set m 0 (e.1 % 32) (combine x.op.toNat 0 (Assoc.get m 0 (e.1 % 32)) e.2).1 else m) x.acc

/-- An owner's accumulator takes the contributions to that owner, in their order. -/
theorem Slice.get_combined (x : Slice) (cs : List (Nat × Word)) {o : Nat} (ho : o < 32) :
    Assoc.get (x.combined cs) 0 o =
      cs.foldl (fun y e => if e.1 = o then (combine x.op.toNat 0 y e.2).1 else y) (Assoc.get x.acc 0 o) := by
  refine (List.foldl_hom (fun m => Assoc.get m 0 o) (fun m e => ?_)).symm
  by_cases he : e.1 = o
  · subst he
    simp [Nat.div_eq_of_lt ho, Nat.mod_eq_of_lt ho]
  · by_cases hown : e.1 / 32 = 0
    · have hlt : e.1 < 32 := by omega
      simp [he, hown, Nat.mod_eq_of_lt hlt, Assoc.get_set, Ne.symm he]
    · simp [he, hown]

/-- What the warp's lanes contribute, in ascending order: owner and value. -/
def Warp.gives (w : Warp) (a : Code) : List (Nat × Word) :=
  (allLanes.filter (fun i => (w.guardOf none).getLsbD i)).filterMap (fun i =>
    (Assoc.at? w.slice.item i).map (fun f => ((ownerOf w.slice.lens f 0).1, w.rd a i)))

/-- The slice after EXRED. -/
def Warp.reduced (w : Warp) (a : Code) : Slice := { w.slice with acc := w.slice.combined (w.gives a) }

theorem asterStep_exred : asterStep [w.dealtAt c (.exred a)] = .inr [{ w.deals c (.exred a) with slice := w.reduced a }] := by
  have hgives : contributions [w.dealtAt c (.exred a)] w.slice.lens = w.gives a := List.flatMap_singleton ..
  simp only [asterStep, Warp.dealtAt_i, withPos, List.map_cons, List.map_nil, setLens_dealtAt, hgives]
  rfl

/-- An owner's accumulator combines the sources of the lanes that hold its items, in ascending order. -/
theorem Warp.acc_reduced {o : Nat} (ho : o < 32) : Assoc.get (w.reduced a).acc 0 o =
    ((List.range 32).filter (fun i => (w.guardOf none).getLsbD i &&
      (Assoc.at? w.slice.item i).any (fun f => (ownerOf w.slice.lens f 0).1 == o))).foldl
        (fun y i => (combine w.slice.op.toNat 0 y (w.rd a i)).1) (Assoc.get w.slice.acc 0 o) := by
  refine (w.slice.get_combined _ ho).trans ?_
  rw [Warp.gives, List.foldl_filterMap, List.foldl_filter, List.foldl_filter, allLanes_eq_range]
  refine List.foldl_ext _ _ _ (fun y i _ => ?_)
  cases (w.guardOf none).getLsbD i <;> cases Assoc.at? w.slice.item i <;> simp

/-! ### EXFIN (R193) -/

/-- The warp after EXFIN, before it retires. -/
def Warp.finished (w : Warp) (c : Cur) (d : Code) : Warp :=
  { (w.deals c (.exfin d)).takeAcc d with slice := { w.slice with active := false, cursor := 0, item := [] } }

theorem asterStep_exfin : asterStep [w.dealtAt c (.exfin d)] = .inr [w.finished c d] := by
  have hslice : ((w.deals c (.exfin d)).takeAcc d).slice = w.slice := by
    rw [Warp.takeAcc_withRegs]
    rfl
  rw [Warp.finished, ← hslice]
  rfl

theorem Warp.finished_withRegs : { w.finished c d with held := none } =
    { w.withRegs (w.finished c d) with
      slice := { w.slice with active := false, cursor := 0, item := [] }, span := false, held := none } := by
  rw [Warp.finished, Warp.takeAcc_withRegs]
  rfl

theorem Warp.finished_fpflags : (w.finished c d).fpflags = w.fpflags :=
  foldl_keeps (fun x : Warp => x.fpflags = w.fpflags) _ (fun x i hx => (x.wr_fpflags d i _).trans hx) _ (w.deals c (.exfin d)) rfl

theorem Warp.rd_finished (hd : classOf d ∈ dLane) (r : Code) {l : Nat} (hl : l < 32) :
    (w.finished c d).rd r l = if r = d ∧ d ≠ 0xFF then Assoc.get w.slice.acc 0 l else w.rd r l := by
  refine (Warp.rd_foldl_wr (d := d) r _ (fun i => Assoc.get w.slice.acc 0 i) allLanes
    (fun x i hi => Warp.rd_wr_lane (onceFits_dLane hd) x r _ (mem_allLanes.mp hi) hl) (w.deals c (.exfin d))).trans ?_
  have hlane : classOf d = .lane ↔ d ≠ 0xFF := ⟨fun h e => by simp [e, classOf] at h, classOf_of_dLane hd⟩
  exact if_congr (by simp [hlane, mem_allLanes, hl]) rfl rfl

end

/-- Settles O24: a warp that deals alone makes its step as it issues, and `asterStep` of it alone is read off instruction by
instruction. -/
theorem asterExpansions : Obligations.AsterExpansions := by
  unfold Obligations.AsterExpansions
  refine ⟨by decide, fun d a o s c w h hp ho hact hdim halone => ?_, fun d a b s c w h hp hact hn halone => ?_, fun lens f hf => ?_,
    fun d a s c w hp hn halone => ⟨fun h hact => ?_, fun h hact => ?_, fun hact => ⟨fun h => ?_, fun h => ?_⟩⟩⟩
  · have hone : w.setOf (.expand d a 0 o) = 1 := rfl
    have hd : classOf d ∈ uniPair := h.accepts List.mem_cons_self
    rw [exec_expand_collects h hp ho hact hdim]
    refine ⟨fun htotal => ?_, fun htotal => ?_⟩
    · obtain ⟨x, hstep, hx⟩ := asterStep_expanded (c := c) (d := d) (o := o) htotal
      rw [halone.collective_step h.warp hp hone hstep, hx]
      exact ⟨w.expanded c d a o, rfl, Warp.expanded_withRegs, Warp.expanded_fpflags, fun r l hl => Warp.rd_expanded hd r hl,
        rfl, rfl, rfl, rfl, rfl, fun i hi => ⟨get_laneTable _ hi, get_laneTable _ hi, get_laneTable (fun _ => asterIdentity o.toNat) hi⟩⟩
    · exact ⟨_, congrArg _ (halone.collective_cause h.warp hone (asterStep_expand.trans (if_pos htotal))), rfl⟩
  · obtain ⟨hone, -, -⟩ := setOf_of_n (d := d) (a := a) (b := b) hn
    have hd : classOf d ∈ dLane := h.accepts List.mem_cons_self
    have ha : classOf a ∈ dLane := h.accepts (List.mem_cons_of_mem _ List.mem_cons_self)
    have hb : classOf b ∈ dMask := h.accepts (List.mem_cons_of_mem _ (List.mem_cons_of_mem _ List.mem_cons_self))
    rw [exec_exnext, withinExpansion_active h hp (fun _ _ _ => rfl) hact, halone.collective_step h.warp hp hone asterStep_exnext]
    exact ⟨_, rfl, Warp.roundDealt_withRegs, Warp.roundDealt_fpflags, Warp.cursor_roundDealt, Warp.span_roundDealt, Warp.st_roundDealt,
      Warp.ln_roundDealt, Warp.acc_roundDealt,
      fun i hi hitem => ⟨(Warp.item_roundDealt hi).trans (if_pos hitem), Warp.roundDealt_item hd ha hb hi hitem⟩,
      fun i hi hitem => ⟨(Warp.item_roundDealt hi).trans (if_neg (Nat.not_lt.mpr hitem)), Warp.roundDealt_noItem hd ha hb hi hitem⟩,
      fun r l hl hrd hra hrb => Warp.rd_roundDealt_other hd ha hl hrd hra hrb⟩
  · obtain ⟨j, howner, hlt, hoff, hsum⟩ := ownerOf_spec lens hf 0
    rw [Nat.zero_add] at howner
    simpa only [howner] using ⟨hlt, hoff, hsum⟩
  · obtain ⟨-, hone, -⟩ := setOf_of_n (d := d) (a := a) (b := a) hn
    rw [exec_exred, withinExpansion_active h hp (fun _ _ _ => rfl) hact, halone.collective_step h.warp hp hone asterStep_exred]
    exact ⟨w.reduced a, rfl, rfl, fun o ho => Warp.acc_reduced ho⟩
  · obtain ⟨-, -, hone⟩ := setOf_of_n (d := d) (a := a) (b := a) hn
    have hd : classOf d ∈ dLane := h.accepts List.mem_cons_self
    rw [exec_exfin, withinExpansion_active h hp (fun _ _ _ => rfl) hact, halone.collective_step h.warp hp hone asterStep_exfin]
    exact ⟨{ w.finished c d with held := none }, rfl, Warp.finished_withRegs, Warp.finished_fpflags, fun r l hl => Warp.rd_finished hd r hl⟩
  · rw [exec_exred, withinExpansion_inactive h hp (fun _ _ _ => rfl) hact]
    rfl
  · rw [exec_exfin, withinExpansion_inactive h hp (fun _ _ _ => rfl) hact]
    rfl

end Sys2Proof.Machine
end

section
/-! ## Family 12: EXSAVE, EXLOAD and the slice image -/
namespace Sys2Proof.Machine

/-! ### Fields of a record -/

theorem sliceBytes_append_right (pre bs : List Byte) (off n : Nat) :
    sliceBytes (pre ++ bs) (pre.length + off) n = sliceBytes bs off n := by
  rw [sliceBytes, sliceBytes, numsFrom_eq_range', numsFrom_eq_range', ← List.map_add_range', List.map_map]
  refine List.map_congr_left (fun k _ => ?_)
  rw [Function.comp_apply, List.getElem?_append_right (Nat.le_add_right ..), Nat.add_sub_cancel_left]

theorem sliceBytes_append_left (bs post : List Byte) : sliceBytes (bs ++ post) 0 bs.length = bs := by
  rw [sliceBytes, numsFrom_eq_range', ← List.range_eq_range']
  refine List.ext_getElem (by simp) (fun k hk _ => ?_)
  have hk : k < bs.length := by simpa using hk
  rw [List.getElem_map, List.getElem_range, List.getElem?_append_left hk, List.getElem?_eq_getElem hk, Option.getD_some]

/-- A field that was written as a number's bytes reads as the number. -/
theorem fieldOf_bytesOfNat {pre post : List Byte} {off n v : Nat} (hoff : off = pre.length) (hv : v < 256 ^ n) :
    fieldOf (pre ++ (bytesOfNat n v ++ post)) off n = v := by
  have hslice := (sliceBytes_append_right pre (bytesOfNat n v ++ post) 0 n).trans
    (length_bytesOfNat n v ▸ sliceBytes_append_left (bytesOfNat n v) post)
  rw [fieldOf, hoff, ← Nat.add_zero pre.length, hslice, natOfBytes_bytesOfNat, Nat.mod_eq_of_lt hv]

/-! ### The image (R195) -/

theorem length_laneWords (f : Nat → Word) : (laneWords f).length = 128 := by
  simp [laneWords, allLanes_eq_range, List.length_flatMap, length_bytesOfNat]

/-- Words one after another, cut before one of them. -/
theorem laneWords_split (f : Nat → Word) {i : Nat} (hi : i < 32) :
    ∃ pre post, laneWords f = pre ++ (bytesOfNat 4 (f i).toNat ++ post) ∧ pre.length = 4 * i := by
  have hlen : i < allLanes.length := hi
  have hat : allLanes[i] = i := by simp [allLanes_eq_range]
  have hcut : allLanes = allLanes.take i ++ (i :: allLanes.drop (i + 1)) := by
    conv_lhs => rw [← List.take_append_drop i allLanes, List.drop_eq_getElem_cons hlen, hat]
  refine ⟨(allLanes.take i).flatMap (fun i => bytesOfNat 4 (f i).toNat),
    (allLanes.drop (i + 1)).flatMap (fun i => bytesOfNat 4 (f i).toNat), (congrArg _ hcut).trans ?_, ?_⟩
  · rw [List.flatMap_append, List.flatMap_cons]
  · simp [List.length_flatMap, length_bytesOfNat, Nat.mul_comm, hlen.le]

/-- The bytes of a table with an entry for each lane. -/
def tableBytes (m : Assoc Word) : List Byte := laneWords (fun i => Assoc.get m 0 i)

theorem length_tableBytes (m : Assoc Word) : (tableBytes m).length = 128 := length_laneWords _

/-- The 32 words of an image's part. -/
theorem get_imageWords {pre post : List Byte} {off : Nat} (m : Assoc Word) (hoff : off = pre.length) {i : Nat} (hi : i < 32) :
    Assoc.get (imageWords (pre ++ (tableBytes m ++ post)) off) 0 i = Assoc.get m 0 i := by
  obtain ⟨before, after, hsplit, hlen⟩ := laneWords_split (fun i => Assoc.get m 0 i) hi
  refine (get_laneTable (fun i => BitVec.ofNat 32 (fieldOf (pre ++ (tableBytes m ++ post)) (off + 4 * i) 4)) hi).trans ?_
  have hfield := fieldOf_bytesOfNat (pre := pre ++ before) (post := after ++ post) (off := off + 4 * i) (n := 4)
    (v := (Assoc.get m 0 i).toNat) (by rw [List.length_append, hlen, hoff]) (Assoc.get m 0 i).isLt
  rw [tableBytes, hsplit, List.append_assoc, List.append_assoc, ← List.append_assoc, hfield, BitVec.ofNat_toNat, BitVec.setWidth_eq]

/-- The control word of an active slice's image. -/
def Warp.controlWord (w : Warp) : Nat :=
  2 ^ 31 + w.slice.n.toNat * 4096 + w.slice.op.toNat * 256 + w.warpId % setSize w.slice.n

/-- A warp's number in its set is below the set's size. -/
theorem Warp.position_lt (w : Warp) : w.warpId % setSize w.slice.n < 16 :=
  (Nat.mod_lt _ (Nat.two_pow_pos _)).trans_le (Nat.le_trans (Nat.pow_le_pow_right (by decide) (Nat.le_of_lt_succ w.slice.n.isLt)) (by decide))

theorem Warp.controlWord_lt (w : Warp) : w.controlWord < 256 ^ 4 := by
  have hn := w.slice.n.isLt
  have hop := w.slice.op.isLt
  have hpos := w.position_lt
  unfold Warp.controlWord
  omega

theorem Warp.image_active {w : Warp} (h : w.slice.active = true) : w.image =
    tableBytes w.slice.st ++ (tableBytes w.slice.ln ++
      (tableBytes w.slice.acc ++ (bytesOfNat 4 w.slice.cursor ++ bytesOfNat 4 w.controlWord))) := by
  simp only [Warp.image, h, if_true, List.append_assoc, Warp.controlWord, tableBytes]

/-- The fields of the control word. -/
theorem Warp.controlWord_fields (w : Warp) :
    (BitVec.ofNat 32 w.controlWord).getLsbD 31 = true ∧ (BitVec.ofNat 32 w.controlWord).extractLsb' 8 4 = w.slice.op ∧
      (BitVec.ofNat 32 w.controlWord).extractLsb' 12 2 = w.slice.n := by
  have hn := w.slice.n.isLt
  have hop := w.slice.op.isLt
  have hpos := w.position_lt
  have hval : (BitVec.ofNat 32 w.controlWord).toNat = w.controlWord := BitVec.toNat_ofNat .. |>.trans (Nat.mod_eq_of_lt w.controlWord_lt)
  refine ⟨?_, BitVec.eq_of_toNat_eq ?_, BitVec.eq_of_toNat_eq ?_⟩
  · rw [BitVec.getLsbD, hval, Nat.testBit_eq_decide_div_mod_eq, decide_eq_true_eq]
    unfold Warp.controlWord
    omega
  · rw [BitVec.extractLsb'_toNat, hval, Nat.shiftRight_eq_div_pow]
    unfold Warp.controlWord
    omega
  · rw [BitVec.extractLsb'_toNat, hval, Nat.shiftRight_eq_div_pow]
    unfold Warp.controlWord
    omega

theorem Warp.length_image {w : Warp} (h : w.slice.active = true) : w.image.length = 392 := by
  simp [Warp.image_active h, length_tableBytes, length_bytesOfNat]

theorem Warp.control_image {w : Warp} (h : w.slice.active = true) : fieldOf w.image 0x184 4 = w.controlWord := by
  have hfield := fieldOf_bytesOfNat (pre := tableBytes w.slice.st ++ (tableBytes w.slice.ln ++
      (tableBytes w.slice.acc ++ bytesOfNat 4 w.slice.cursor))) (post := []) (off := 0x184) (n := 4)
      (by simp [length_tableBytes, length_bytesOfNat]) w.controlWord_lt
  simpa only [Warp.image_active h, List.append_assoc, List.append_nil] using hfield

theorem Warp.cursor_image {w : Warp} (h : w.slice.active = true) (hc : w.slice.cursor < 2 ^ 32) :
    fieldOf w.image 0x180 4 = w.slice.cursor := by
  have hfield := fieldOf_bytesOfNat (pre := tableBytes w.slice.st ++ (tableBytes w.slice.ln ++
      tableBytes w.slice.acc)) (post := bytesOfNat 4 w.controlWord) (off := 0x180) (n := 4)
      (by simp [length_tableBytes]) hc
  simpa only [Warp.image_active h, List.append_assoc] using hfield

/-- An image read back holds the slice. -/
theorem sliceOfImage_image {w : Warp} (h : w.slice.active = true) (hc : w.slice.cursor < 2 ^ 32) :
    let x := sliceOfImage w.image
    x.active = true ∧ x.op = w.slice.op ∧ x.n = w.slice.n ∧ x.cursor = w.slice.cursor ∧
    ∀ i, i < 32 → Assoc.get x.st 0 i = Assoc.get w.slice.st 0 i ∧ Assoc.get x.ln 0 i = Assoc.get w.slice.ln 0 i ∧
      Assoc.get x.acc 0 i = Assoc.get w.slice.acc 0 i := by
  obtain ⟨hactive, hop, hn⟩ := w.controlWord_fields
  simp only [sliceOfImage, Warp.control_image h, Warp.cursor_image h hc]
  refine ⟨hactive, hop, hn, trivial, fun i hi => ?_⟩
  have hst := get_imageWords (pre := []) (post := tableBytes w.slice.ln ++
    (tableBytes w.slice.acc ++ (bytesOfNat 4 w.slice.cursor ++ bytesOfNat 4 w.controlWord)))
    w.slice.st rfl hi
  have hln := get_imageWords (off := 0x80) (pre := tableBytes w.slice.st)
    (post := tableBytes w.slice.acc ++ (bytesOfNat 4 w.slice.cursor ++ bytesOfNat 4 w.controlWord)) w.slice.ln
    (length_tableBytes _).symm hi
  have hacc := get_imageWords (off := 0x100) (pre := tableBytes w.slice.st ++ tableBytes w.slice.ln)
    (post := bytesOfNat 4 w.slice.cursor ++ bytesOfNat 4 w.controlWord) w.slice.acc (by simp [length_tableBytes]) hi
  rw [List.append_assoc] at hacc
  rw [Warp.image_active h]
  exact ⟨hst, hln, hacc⟩

/-! ### EXSAVE and EXLOAD (R194, R196) -/

section
variable {s q : State} {c : Cur} {w : Warp} {a : Code}

theorem exec_exsave : exec (.exsave a) s = execExsave a s := rfl

theorem exec_exload : exec (.exload a) s = execExload a s := rfl

theorem exec_exsave_done (h : Ready (.exsave a) .none s c w) (hform : s.formBlock c w (w.rdPair a 0) 8 8 49 false true = [])
    (hdone : s.writeLanes c w 8 (unitAddrs (w.rdPair a 0).toNat 8 49) (fun j => sliceBytes w.image (8 * j) 8) = .done q) :
    exec (.exsave a) s = .next (q.retire c) := by
  rw [exec_exsave, execExsave, issue_ready h]
  simp only [hform, hdone]

theorem exec_exload_done {vals : List (Nat × List Byte)} (h : Ready (.exload a) .none s c w)
    (hform : s.formBlock c w (w.rdPair a 0) 8 8 49 true false = [])
    (hdone : s.readLanes c w true 8 (unitAddrs (w.rdPair a 0).toNat 8 49) = .done vals [] q) (hw : q.warp? c.w = some w)
    (hd : q.debugOn w = false) (hcause : s.imageCause w (blockBytes vals 49) = none) :
    exec (.exload a) s = .next (q.setWarp c.w (({ w with slice := { sliceOfImage (blockBytes vals 49) with
      item := q.loadedItems w (sliceOfImage (blockBytes vals 49)) } } : Warp).afterRetire c false)) := by
  rw [exec_exload, execExload, issue_ready h]
  simp only [hform, hdone, hcause]
  rw [State.updWarp_eq_setWarp _ _ _ w hw]
  exact congrArg _ (State.setWarp_retire hw hd rfl)

end

end Sys2Proof.Machine
end

section
/-! ## Family 12: reads completed within an instruction leave the launches as they are -/
namespace Sys2Proof.Machine

/-- The launches of the state are these. -/
def Listed (ls : Assoc Launch) (s : State) : Prop := s.launches = ls

section
variable {ls : Assoc Launch} {s t : State}

theorem Listed.of_eq (h : Listed ls s) (e : t.launches = s.launches) : Listed ls t := e.trans h

/-! ### Blocks, caches and translations -/

theorem Listed.wakeAll (h : Listed ls s) (bs : List Block) : Listed ls (s.wakeAll bs) :=
  foldl_keeps (Listed ls) (fun (q : State) b => q.wake b) (fun _ _ hq => hq.of_eq rfl) bs s h

theorem Listed.wakeFor (h : Listed ls s) (core : Option Nat) (x : Hit) : Listed ls (s.wakeFor core x) :=
  Listed.wakeAll (s := s.answered core x) (h.of_eq rfl) _

theorem Listed.wakeWalk (h : Listed ls s) (tasid va : Nat) : Listed ls (s.wakeWalk tasid va) := by
  unfold State.wakeWalk
  split
  · exact h
  · exact h.wakeAll _

theorem Listed.ask (h : Listed ls s) (core : Option Nat) (x : Hit) : Listed ls (s.ask core x) := by
  unfold State.ask
  split
  · exact h
  · exact h.of_eq rfl

theorem Listed.wayUsed (h : Listed ls s) (core : Option Nat) (x : Hit) : Listed ls (s.wayUsed core x) := by
  unfold State.wayUsed
  split <;> exact h.of_eq rfl

theorem Listed.setPoisons {α : Type} (h : Listed ls s) (l : List α) (g : α → Nat) (b : α → Bool) :
    Listed ls (l.foldl (fun (q : State) i => q.setPoison (g i) (b i)) s) :=
  foldl_keeps (Listed ls) (fun (q : State) i => q.setPoison (g i) (b i)) (fun _ _ hq => hq.of_eq rfl) l s h

theorem Listed.writeBack (h : Listed ls s) (l : L2Line) : Listed ls (s.writeBack l) := by
  unfold State.writeBack
  split
  · have hmem : Listed ls { s with mem := Memory.writeBytes s.mem l.pa l.data } := h.of_eq rfl
    exact (hmem.setPoisons [0, 1, 2, 3] (fun i => l.pa / 32 + i) (fun i => l.poison.getLsbD i)).of_eq rfl
  · exact h

theorem Listed.dropLine (h : Listed ls s) (l : L2Line) : Listed ls (s.dropLine l) := (h.writeBack l).of_eq rfl

theorem Listed.makeRoom (h : Listed ls s) (slice : Nat) : Listed ls (s.makeRoom slice) := by
  unfold State.makeRoom
  dsimp only
  split
  · exact h
  · split
    · exact Listed.dropLine (s := s.takeFree) (h.of_eq rfl) _
    · exact h

theorem Listed.fillL1 (h : Listed ls s) (core : Nat) (l : L2Line) : Listed ls (s.fillL1 core l) := by
  unfold State.fillL1
  dsimp only
  split
  · exact h
  · split
    · exact h
    · exact h.of_eq rfl

theorem Listed.fillL1s (h : Listed ls s) (cores : List Nat) (tasid line : Nat) : Listed ls (s.fillL1s cores tasid line) := by
  unfold State.fillL1s
  split
  · exact h
  · exact foldl_keeps (Listed ls) _ (fun _ _ hq => hq.fillL1 _ _) _ _ h

theorem Listed.fillLine (h : Listed ls s) (tasid line : Nat) (e : TlbEntry) (l1 : List Nat) :
    Listed ls (s.fillLine tasid line e l1) := by
  have hroom := h.makeRoom (homeSlice tasid line)
  unfold State.fillLine
  extract_lets slice q pa full home l
  exact (Listed.fillL1s (s := { q with l2 := q.l2 ++ [l] }) (hroom.of_eq rfl) l1 tasid line).of_eq rfl

theorem Listed.enterTlb (h : Listed ls s) (e : TlbEntry) : Listed ls (s.enterTlb e) := by
  unfold State.enterTlb
  dsimp only
  split
  · exact h.of_eq rfl
  · split <;> exact h.of_eq rfl

theorem Listed.usedAt (h : Listed ls s) (asid va : Nat) (x : Hit) : Listed ls (s.usedAt asid va x) := by
  unfold State.usedAt
  split
  · exact h
  · exact h.of_eq rfl

theorem Listed.acceptLeaf (h : Listed ls s) (tasid va base size pa : Nat) (attr : DWord) :
    Listed ls (s.acceptLeaf tasid va base size pa attr).2 := by
  unfold State.acceptLeaf
  extract_lets e core slot
  split
  · split
    · exact h
    · split
      · split
        · exact Listed.enterTlb (s := s.updPinned core slot (fun q => q.foundBy (tasid, base))) (h.of_eq rfl) e
        · exact h
      · split
        · exact h
        · exact Listed.enterTlb (s := s.makePresent core slot pa [(tasid, base)]) (h.of_eq rfl) e
  · exact h.enterTlb e

theorem Listed.resolveTlb (h : Listed ls s) (asid : Nat) (team : Option Nat) (va tasid line : Nat) (e : TlbEntry) :
    Listed ls (s.resolveTlb asid team va tasid line e).2 := by
  unfold State.resolveTlb
  split
  · exact h
  · split
    · exact h.of_eq rfl
    · exact h.fillLine _ _ _ _

theorem Listed.resolveAs (h : Listed ls s) (owned : Bool) (asid : Nat) (team : Option Nat) (va : Nat) :
    Listed ls (s.resolveAs owned asid team va).2 := by
  unfold State.resolveAs
  split
  · exact h.usedAt _ _ _
  · exact h
  · exact h
  · next tasid line _ =>
    have hwalk := h.wakeWalk tasid va
    extract_lets busy q
    split
    · exact h
    · split
      · exact Listed.resolveTlb (s := s.useTlb tasid va) (h.of_eq rfl) _ _ _ _ _ _
      · split
        · exact hwalk
        · next base size pa attr _ =>
          have haccept := Listed.acceptLeaf (s := q) hwalk tasid va base size pa attr
          dsimp only
          split
          · exact haccept
          · exact haccept
          · split
            · exact haccept
            · exact haccept.of_eq rfl
          · split
            · exact haccept.resolveTlb _ _ _ _ _ _
            · exact haccept

theorem Listed.resolve (h : Listed ls s) {asid : Nat} {team : Option Nat} {va : Nat} {r : Look × State}
    (e : s.resolve asid team va = r) : Listed ls r.2 := e ▸ h.resolveAs false asid team va

/-! ### Clearances (R223) -/

theorem Listed.readPart (h : Listed ls s) {asid va n : Nat} {team : Option Nat} {r : Got (List Byte × Nat)}
    (e : s.readPart asid team va n = r) : Listed ls r.state := by
  subst e
  unfold State.readPart
  split
  next hres => exact h.resolve hres
  next hres => exact h.resolve hres
  next hres => exact h.resolve hres
  next x q hres =>
    have hq : Listed ls q := h.resolve hres
    split
    · exact hq.wayUsed _ _
    · exact hq.ask _ _
    · split
      · exact hq
      · exact hq.wakeFor _ _

theorem Listed.readBitmap (h : Listed ls s) {asid va k : Nat} {team : Option Nat} {r : Got Nat}
    (e : s.readBitmap asid team va k = r) : Listed ls r.state := by
  subst e
  induction k generalizing s va with
  | zero => exact h
  | succ k ih =>
    unfold State.readBitmap
    split
    next c b q hres =>
      have hq : Listed ls q := h.readPart hres
      split <;> exact hq
    next hres => exact h.readPart hres
    next x q hres =>
      have hq : Listed ls q := h.readPart hres
      have hrest := ih hq (va := va + 128)
      split
      next q2 hres2 =>
        have hq2 : Listed ls q2 := by
          rw [hres2] at hrest
          exact hrest
        exact hq2
      next => exact hrest

theorem Listed.cleared (h : Listed ls s) {core asid tag : Nat} {team : Option Nat} {clr : Option DWord} {r : Got Bool}
    (e : s.cleared core asid team clr tag = r) : Listed ls r.state := by
  subst e
  unfold State.cleared
  split
  · exact h
  · split
    · exact h
    · dsimp only
      split
      · exact h.of_eq rfl
      · split
        next q hres => exact Listed.of_eq (s := q) (h.readBitmap hres) rfl
        next hres => exact h.readBitmap hres
        next hres => exact h.readBitmap hres

/-! ### Performing accesses (R236) -/

theorem Listed.poke (h : Listed ls s) (p : Place) (off : Nat) (bs : List Byte) : Listed ls (s.poke p off bs) := by
  cases p with
  | line t n => exact h.of_eq rfl
  | phys =>
    have hmem : Listed ls { s with mem := Memory.writeBytes s.mem off bs } := h.of_eq rfl
    exact hmem.setPoisons (wholeGranules off bs.length) (fun g => g) (fun _ => false)
  | pinned c k => exact h.of_eq rfl
  | scratch t g => exact h.of_eq rfl

theorem Listed.pass (h : Listed ls s) (k : Nat) (a : Access) : Listed ls (s.pass k a) := by
  unfold State.pass
  split
  · exact h
  · exact h.of_eq rfl

theorem Listed.blur (h : Listed ls s) (off : Nat) (bs : List Byte) (rs : List (Nat × Nat)) : Listed ls (s.blur off bs rs).2 := by
  refine foldl_keeps (fun r : List Byte × State => Listed ls r.2) _ ?_ rs (bs, s) h
  exact fun _ _ hr => hr.of_eq rfl

theorem Listed.blurReads (h : Listed ls s) (a : Access) (p : Part) : Listed ls (s.blurReads a p) := by
  unfold State.blurReads
  split
  · refine foldl_keeps (Listed ls) _ ?_ _ s h
    exact fun _ _ hq => hq.of_eq rfl
  · exact h

theorem Listed.recordStamp (h : Listed ls s) (a : Access) (p : Part) : Listed ls (s.recordStamp a p) := by
  unfold State.recordStamp
  split
  · exact h.of_eq rfl
  · exact h

theorem Listed.tellHear (h : Listed ls s) (a : Access) (p : Part) : Listed ls (s.tellHear a p) := by
  unfold State.tellHear
  split
  · extract_lets me here heard q
    have hq : Listed ls q := by
      unfold q
      split
      · exact h.of_eq rfl
      · exact h
    split
    · exact hq.of_eq rfl
    · exact hq
  · exact h

theorem Listed.recordStrong (h : Listed ls s) (a : Access) (p : Part) : Listed ls (s.recordStrong a p) := by
  unfold State.recordStrong
  split
  · exact h.of_eq rfl
  · exact h

theorem Listed.recordPart (h : Listed ls s) (a : Access) (p : Part) : Listed ls (s.recordPart a p) :=
  (((h.blurReads a p).recordStamp a p).tellHear a p).recordStrong a p

theorem Listed.spoilRead (h : Listed ls s) (a : Access) (p : Part) (bs : List Byte) : Listed ls (s.spoilRead a p bs).2 := by
  unfold State.spoilRead
  split
  · exact h.of_eq rfl
  · exact h

/-- Bytes that are left undefined are written as free bytes. -/
theorem Listed.pokeFree (h : Listed ls s) (n : Nat) (p : Place) (off : Nat) :
    Listed ls ((s.freeBytes n).2.poke p off (s.freeBytes n).1) :=
  Listed.poke (s := (s.freeBytes n).2) (h.of_eq rfl) _ _ _

theorem Listed.spoilWrite (h : Listed ls s) (a : Access) (p : Part) : Listed ls (s.spoilWrite a p) := by
  unfold State.spoilWrite
  split
  · exact h.pokeFree _ _ _
  · split
    · exact foldl_keeps (Listed ls) _ (fun _ _ hq => hq.pokeFree _ _ _) _ s h
    · exact h

theorem Listed.rmwPart (h : Listed ls s) (a : Access) (p : Part) (aop : BitVec 4) (x : DWord) : Listed ls (s.rmwPart a p aop x).2 :=
  Listed.poke (Listed.recordPart (Listed.blur (h.blur _ _ _) _ _ _) a p) _ _ _

theorem Listed.performPart (h : Listed ls s) (a : Access) (p : Part) : Listed ls (s.performPart a p) := by
  unfold State.performPart
  split
  · exact Listed.of_eq (Listed.recordPart (Listed.spoilRead (h.blur _ _ _) a p _) a p) rfl
  · exact Listed.spoilWrite (Listed.poke (Listed.recordPart (h.blur _ _ _) a p) _ _ _) a p
  · exact Listed.of_eq (Listed.spoilWrite (Listed.spoilRead (h.rmwPart a p _ _) a p _) a p) rfl

theorem Listed.wholeLine (h : Listed ls s) (a : Access) : Listed ls (s.wholeLine a) := by
  unfold State.wholeLine
  split
  · split
    · exact h
    · exact h.poke _ _ _
  · exact h

theorem Listed.performed (h : Listed ls s) (k : Nat) (a : Access) : Listed ls (s.performed k a) := by
  unfold State.performed
  split
  · split <;> exact h.of_eq rfl
  · exact h.of_eq rfl

theorem Listed.perform (h : Listed ls s) (k : Nat) (a : Access) : Listed ls (s.perform k a) :=
  Listed.performed (Listed.wholeLine (foldl_keeps (Listed ls) _ (fun _ p hq => hq.performPart a p) a.parts _ (h.pass k a)) a) k a

theorem Listed.settle (h : Listed ls s) {seed : Nat → Access → Bool} (e : s.settle seed = some t) : Listed ls t := by
  unfold State.settle at e
  dsimp only at e
  split at e
  · cases e
  · cases e
    exact foldl_keeps (Listed ls) (fun (q : State) (x : Nat × Access) => q.perform x.1 x.2) (fun _ _ hq => hq.perform _ _) _ s h

theorem Listed.settleFor (h : Listed ls s) {y : Access} (e : s.settleFor y = some t) : Listed ls t := by
  unfold State.settleFor at e
  split at e
  · cases e
  · exact h.settle e

theorem Listed.settleAt (h : Listed ls s) {place : Place} {off n : Nat} (e : s.settleAt place off n = some t) : Listed ls t := by
  unfold State.settleAt at e
  split at e
  · cases e
  · exact h.settle e

/-! ### Loads and stores within a step -/

theorem Listed.resolveWrite (h : Listed ls s) {who : Who} {va n : Nat} {r : Got (Hit × Option Nat)}
    (e : s.resolveWrite who va n = r) : Listed ls r.state := by
  subst e
  unfold State.resolveWrite
  split
  · exact h
  · extract_lets go
    have hgo (x : Hit) (absent : Option Nat) (q : State) (hq : Listed ls q) : Listed ls (go x absent q).state := by
      unfold go
      split
      · exact hq
      · split
        next hres => exact hq.cleared hres
        next hres => exact hq.cleared hres
        next r hres =>
          have hr : Listed ls r := hq.cleared hres
          split
          · exact hr
          · split
            · exact hr
            · split
              · dsimp only
                split <;> exact hr.wayUsed _ _
              · exact hr.ask _ _
              · split
                next => exact hr
                next hsettled => exact (hr.settleAt hsettled).wakeFor _ _
    clear_value go
    split
    next hres => exact h.resolve hres
    next hres => exact h.resolve hres
    next hres => exact hgo _ _ _ (h.resolve hres)
    next hres => exact hgo _ _ _ (h.resolve hres)

theorem Listed.resolveRead (h : Listed ls s) {who : Who} {va n : Nat} {r : Got (Option Hit × Nat)}
    (e : s.resolveRead who va n = r) : Listed ls r.state := by
  subst e
  unfold State.resolveRead
  split
  · exact h
  · extract_lets go
    have hgo (x : Hit) (absent : Option Nat) (q : State) (hq : Listed ls q) : Listed ls (go x absent q).state := by
      unfold go
      split
      next hres => exact hq.cleared hres
      next hres => exact hq.cleared hres
      next r hres =>
        have hr : Listed ls r := hq.cleared hres
        split
        · exact hr
        · split
          · exact hr
          · split
            · exact hr.wayUsed _ _
            · exact hr.ask _ _
            · split
              next => exact hr
              next hsettled =>
                split
                · exact hr.settleAt hsettled
                · exact (hr.settleAt hsettled).wakeFor _ _
    clear_value go
    split
    next hres => exact h.resolve hres
    next hres => exact h.resolve hres
    next hres => exact hgo _ _ _ (h.resolve hres)
    next hres => exact hgo _ _ _ (h.resolve hres)

theorem Listed.maybePoke (h : Listed ls s) (x : Hit) (bs : List Byte) : Listed ls (s.maybePoke x bs) := by
  unfold State.maybePoke
  split
  · exact h.of_eq rfl
  · exact Listed.poke (s := s.takeFree) (h.of_eq rfl) _ _ _

theorem Listed.storeNow (h : Listed ls s) {who : Who} {va : Nat} {bs : List Byte} {r : Got Unit}
    (e : s.storeNow who va bs = r) : Listed ls r.state := by
  subst e
  refine foldl_keeps (fun g : Got Unit => Listed ls g.state) _ (fun g x hg => ?_) _ _ h
  split
  · next q =>
    have hq : Listed ls q := hg
    split
    next hres => exact Listed.poke (hq.resolveWrite hres) _ _ _
    next hres => exact Listed.maybePoke (hq.resolveWrite hres) _ _
    next hres => exact hq.resolveWrite hres
    next hres => exact hq.resolveWrite hres
  · exact hg

theorem Listed.loadNow (h : Listed ls s) {who : Who} {va n : Nat} {r : Got (List Byte × List (Nat × Nat))}
    (e : s.loadNow who va n = r) : Listed ls r.state := by
  subst e
  refine foldl_keeps (fun g : Got (List Byte × List (Nat × Nat)) => Listed ls g.state) _ (fun g x hg => ?_) _ _ h
  split
  · next q =>
    have hq : Listed ls q := hg
    split
    next hres => exact hq.resolveRead hres
    next hres => exact hq.resolveRead hres
    next hres => exact hq.resolveRead hres
    next hres => exact hq.resolveRead hres
  · exact hg

/-! ### Denied reads (R222) -/

theorem Listed.countDropped (h : Listed ls s) (who : Who) (base : Nat) : Listed ls (s.countDropped who base) := by
  unfold State.countDropped
  split
  next q hload =>
    have hq : Listed ls q := h.loadNow hload
    split
    next hstore => exact hq.storeNow hstore
    next hstore => exact hq.storeNow hstore
    next hstore => exact hq.storeNow hstore
  next hload => exact h.loadNow hload
  next hload => exact h.loadNow hload
  next hload => exact h.loadNow hload

theorem Listed.appendEvent (h : Listed ls s) (who : Who) (ev : List Byte) : Listed ls (s.appendEvent who ev).2 := by
  unfold State.appendEvent
  dsimp only
  split
  · exact h
  · split
    next q hload =>
      have hq : Listed ls q := h.loadNow hload
      split
      · exact hq.countDropped _ _
      · split
        next q2 hstore =>
          have hq2 : Listed ls q2 := hq.storeNow hstore
          split
          next hcount => exact hq2.storeNow hcount
          next hcount => exact hq2.storeNow hcount
          next hcount => exact hq2.storeNow hcount
        next q2 hstore => exact Listed.countDropped (s := q2) (hq.storeNow hstore) _ _
        next hstore => exact hq.storeNow hstore
    next hload => exact h.loadNow hload
    next hload => exact h.loadNow hload
    next hload => exact h.loadNow hload

theorem Listed.permEvent (h : Listed ls s) (who : Who) (dist : Bool) (line tag cause : Nat) (lanes : Mask) :
    Listed ls (s.permEvent who dist line tag cause lanes) := by
  unfold State.permEvent
  extract_lets ev keep r
  have hr : Listed ls r.2 := h.appendEvent who ev
  split
  · exact h.of_eq rfl
  · split
    · exact hr
    · exact hr.of_eq rfl

theorem Listed.logDenied (h : Listed ls s) (c : Cur) (w : Warp) (once : Bool) (looks : List (LaneAddr × LaneLook)) :
    Listed ls (s.logDenied c w once looks) :=
  foldl_keeps (Listed ls) _ (fun _ _ hq => hq.permEvent _ _ _ _ _ _) _ s h

/-! ### The reads of an instruction -/

theorem Listed.readThrough (h : Listed ls s) (core : Nat) (x : Hit) : Listed ls (s.readThrough core x) := by
  unfold State.readThrough
  split
  · exact h.fillL1s _ _ _
  · exact h

theorem Listed.lookLane (h : Listed ls s) (who : Who) (reads writes : Bool) (va n : Nat) :
    Listed ls (s.lookLane who reads writes va n).2 := by
  unfold State.lookLane
  extract_lets go
  have hgo (x : Hit) (absent : Option Nat) (q : State) (hq : Listed ls q) : Listed ls (go x absent q).2 := by
    unfold go
    split
    · exact hq
    · split
      next hres => exact hq.cleared hres
      next hres => exact hq.cleared hres
      next hres => exact hq.cleared hres
      next r hres =>
        have hr : Listed ls r := hq.cleared hres
        split
        · exact hr
        · split
          · exact hr
          · dsimp only
            split
            · exact hr
            · exact hr.readThrough _ _
  clear_value go
  split
  · exact h
  · exact h
  · exact hgo _ _ _ h
  · exact hgo _ _ _ (h.usedAt _ _ _)

theorem Listed.lookLanes (h : Listed ls s) (who : Who) (reads writes : Bool) (n : Nat) (as : List LaneAddr) :
    Listed ls (s.lookLanes who reads writes n as).2 := by
  induction as generalizing s with
  | nil => exact h
  | cons a r ih => exact ih (h.lookLane who reads writes a.va n)

theorem Listed.laneWay (h : Listed ls s) (core : Nat) (reads : Bool) (n : Nat) (l : LaneLook) :
    Listed ls (s.laneWay core reads n l).2 := by
  unfold State.laneWay
  extract_lets go
  have hgo (x : Hit) (error : Option Nat) : Listed ls (go x error).2 := by
    unfold go
    split
    · exact h.wayUsed _ _
    · exact h.ask _ _
    · split <;> exact h
  clear_value go
  split
  · exact hgo _ _
  · exact hgo _ _
  · exact h

theorem Listed.laneWays (h : Listed ls s) (core : Nat) (reads : Bool) (n : Nat) (looks : List (LaneAddr × LaneLook)) :
    Listed ls (s.laneWays core reads n looks).2 := by
  induction looks generalizing s with
  | nil => exact h
  | cons x r ih => exact ih (h.laneWay core reads n x.2)

theorem settleAll_listed (h : Listed ls s) {ys : List Access}
    (e : ys.foldl (fun (q : Option State) y => q.bind (fun q => q.settleFor y)) (some s) = some t) : Listed ls t := by
  induction ys generalizing s with
  | nil => exact Option.some.inj e ▸ h
  | cons y r ih =>
    rw [List.foldl_cons, Option.bind_some] at e
    cases hy : s.settleFor y with
    | none =>
      rw [hy] at e
      exact absurd (e.symm.trans (List.foldl_fixed' (fun _ => rfl) r)) (Option.some_ne_none t)
    | some q =>
      rw [hy] at e
      exact ih (h.settleFor hy) e

/-- Reads completed within an instruction leave the launches as they are. -/
theorem Listed.readLanes (h : Listed ls s) {c : Cur} {w : Warp} {once : Bool} {n : Nat} {as : List LaneAddr}
    {vals : List (Nat × List Byte)} {causes : List LaneCause} (e : s.readLanes c w once n as = .done vals causes t) : Listed ls t := by
  have hlook := h.lookLanes (w.who c.w c.p) true false n as
  unfold State.readLanes at e
  extract_lets looked ways hits probes settled at e
  have hways : Listed ls ways.2 := Listed.laneWays (s := looked.2) hlook (coreOfKey c.w) true n looked.1
  have hsettled (q : State) (hq : settled = some q) : Listed ls q :=
    settleAll_listed (ys := probes.map (fun x => x.2.2)) hways (List.foldl_map.trans hq)
  clear_value settled
  split at e
  · cases e
  · split at e
    · cases e
    · split at e
      · cases e
      next q =>
        have hq : Listed ls q := hsettled q rfl
        injection e with _ _ hend
        exact hend ▸ foldl_keeps (Listed ls) _ (fun _ _ hr => hr.wakeFor _ _) hits _ (hq.logDenied c w once ways.1)

end

end Sys2Proof.Machine
end

section
/-! ## Family 12: bytes written at a place -/
namespace Sys2Proof.Machine

/-! ### Strings of bytes -/

/-- The bytes of `f`, those from `off` on replaced by `bs`. -/
def overwritten (f : Nat → Byte) (off : Nat) (bs : List Byte) (k : Nat) : Byte :=
  if off ≤ k ∧ k < off + bs.length then (bs[k - off]?).getD 0 else f k

theorem overwritten_inside (f : Nat → Byte) (off : Nat) {bs : List Byte} {j : Nat} (hj : j < bs.length) :
    overwritten f off bs (off + j) = (bs[j]?).getD 0 := by
  rw [overwritten, if_pos ⟨Nat.le_add_right .., Nat.add_lt_add_left hj off⟩, Nat.add_sub_cancel_left]

theorem overwritten_outside (f : Nat → Byte) {off k : Nat} {bs : List Byte} (hk : k < off ∨ off + bs.length ≤ k) :
    overwritten f off bs k = f k := if_neg (by omega)

theorem Memory.read_writeBytes (m : Memory) (off : Nat) (bs : List Byte) :
    Memory.read (Memory.writeBytes m off bs) = overwritten (Memory.read m) off bs := by
  funext k
  by_cases hk : off ≤ k ∧ k < off + bs.length
  · obtain ⟨j, rfl⟩ := Nat.exists_eq_add_of_le hk.1
    have hj : j < bs.length := Nat.lt_of_add_lt_add_left hk.2
    rw [Memory.read_writeBytes_inside _ _ _ _ hj, overwritten_inside _ _ hj, List.getElem?_eq_getElem hj, Option.getD_some]
  · have hout : k < off ∨ off + bs.length ≤ k := by omega
    rw [Memory.read_writeBytes_outside _ _ _ _ hout, overwritten_outside _ hout]

theorem length_patchBytes (bs : List Byte) (off : Nat) (new : List Byte) : (patchBytes bs off new).length = bs.length := by
  induction new generalizing bs off with
  | nil => rfl
  | cons b r ih => rw [patchBytes, ih, listUpd_length]

theorem getElem?_patchBytes {bs : List Byte} {off : Nat} {new : List Byte} (h : off + new.length ≤ bs.length) (k : Nat) :
    ((patchBytes bs off new)[k]?).getD 0 = overwritten (fun k => (bs[k]?).getD 0) off new k := by
  induction new generalizing bs off with
  | nil =>
    have hout : k < off ∨ off + ([] : List Byte).length ≤ k := Nat.lt_or_ge k off
    exact (overwritten_outside (fun k => (bs[k]?).getD 0) hout).symm
  | cons b r ih =>
    rw [List.length_cons] at h
    rw [patchBytes, ih (by rw [listUpd_length]; omega)]
    rcases Nat.lt_trichotomy k off with hk | hk | hk
    · rw [overwritten_outside _ (.inl (Nat.lt_succ_of_lt hk)), overwritten_outside _ (.inl hk), listUpd_get, if_neg (Nat.ne_of_lt hk)]
    · subst hk
      rw [overwritten_outside _ (.inl (Nat.lt_succ_self k)), listUpd_get, if_pos rfl, List.getElem?_eq_getElem (by omega)]
      exact (overwritten_inside _ k (bs := b :: r) (j := 0) (Nat.zero_lt_succ _)).symm
    · obtain ⟨j, rfl⟩ := Nat.exists_eq_add_of_lt hk
      rw [show off + j + 1 = off + 1 + j by omega]
      by_cases hj : j < r.length
      · have hword := overwritten_inside (fun k => (bs[k]?).getD 0) off (bs := b :: r) (j := j + 1) (Nat.succ_lt_succ hj)
        rw [overwritten_inside _ _ hj, show off + 1 + j = off + (j + 1) by omega, hword]
        rfl
      · rw [overwritten_outside _ (by omega), overwritten_outside _ (by rw [List.length_cons]; omega), listUpd_get, if_neg (by omega)]

/-! ### Lists of records by key -/

theorem find?_map_key {α : Type} {q : α → Bool} {g : α → α} (hg : ∀ x, q (g x) = q x) (l : List α) :
    (l.map g).find? q = (l.find? q).map g := by
  rw [List.find?_map]
  exact congrArg (Option.map g) (congrArg (List.find? · l) (funext hg))

/-- A change of the records of one key is a change of the record found under it. -/
theorem find?_map_at {α : Type} {q : α → Bool} {f : α → α} (hf : ∀ x, q (f x) = q x) (l : List α) :
    (l.map (fun x => if q x then f x else x)).find? q = (l.find? q).map f := by
  rw [find?_map_key (fun x => by by_cases h : q x = true <;> simp [h, hf])]
  exact Option.map_congr (fun x hx => if_pos (List.find?_some hx))

/-- A change of the records of one key leaves those of another. -/
theorem find?_map_other {α : Type} {p q : α → Bool} {f : α → α} (hf : ∀ x, q (f x) = q x) (hpq : ∀ x, q x = true → p x = false)
    (l : List α) : (l.map (fun x => if p x then f x else x)).find? q = l.find? q := by
  rw [find?_map_key (fun x => by by_cases h : p x = true <;> simp [h, hf])]
  refine (Option.map_congr (g := id) (fun x hx => ?_)).trans Option.map_id_apply
  rw [if_neg (by simp [hpq x (List.find?_some hx)])]
  rfl

theorem Assoc.any_upd {α : Type} {p : Nat × α → Bool} {f : α → α} {k : Nat} (hf : ∀ x, p (k, f x) = p (k, x)) (m : Assoc α) :
    (Assoc.upd m k f).any p = m.any p := by
  induction m with
  | nil => rfl
  | cons e r ih =>
    obtain ⟨i, x⟩ := e
    rw [Assoc.upd_cons]
    by_cases h : i = k
    · subst h
      simp [hf]
    · simp [h, ih]

theorem any_listUpd {α : Type} {p : α → Bool} {f : α → α} (hf : ∀ x, p (f x) = p x) (l : List α) (n : Nat) :
    (listUpd l n f).any p = l.any p := by
  induction l generalizing n with
  | nil => rfl
  | cons x r ih =>
    cases n with
    | zero => simp [listUpd, hf]
    | succ n => simp [listUpd, ih]

/-! ### Bytes at a place -/

section
variable {s : State} {t n : Nat}

theorem State.findLine_updLine {f : L2Line → L2Line} (hf : ∀ l, (f l).line = l.line ∧ (f l).asid = l.asid) (t' n' : Nat) :
    (s.updLine t n f).findLine t' n' = if t' = t ∧ n' = n then (s.findLine t n).map f else s.findLine t' n' := by
  have hkey (l : L2Line) : ((f l).line == n' && (f l).asid == t') = (l.line == n' && l.asid == t') := by
    rw [(hf l).1, (hf l).2]
  split
  next h =>
    obtain ⟨rfl, rfl⟩ := h
    exact find?_map_at hkey s.l2
  next h =>
    refine find?_map_other hkey (fun l hl => ?_) s.l2
    simp only [Bool.and_eq_true, beq_iff_eq] at hl
    simp only [hl, Bool.and_eq_false_iff, beq_eq_false_iff_ne]
    by_cases hn : n' = n
    · exact .inr (fun ht => h ⟨ht, hn⟩)
    · exact .inl hn

theorem State.findPinned_updPinned {f : Pinned → Pinned} (hf : ∀ p, (f p).core = p.core ∧ (f p).slot = p.slot) (c k : Nat) (c' k' : Nat) :
    (s.updPinned c k f).findPinned c' k' = if c' = c ∧ k' = k then (s.findPinned c k).map f else s.findPinned c' k' := by
  have hkey (p : Pinned) : ((f p).core == c' && (f p).slot == k') = (p.core == c' && p.slot == k') := by
    rw [(hf p).1, (hf p).2]
  split
  next h =>
    obtain ⟨rfl, rfl⟩ := h
    exact find?_map_at hkey s.pinned
  next h =>
    refine find?_map_other hkey (fun p hp => ?_) s.pinned
    simp only [Bool.and_eq_true, beq_iff_eq] at hp
    simp only [hp, Bool.and_eq_false_iff, beq_eq_false_iff_ne]
    by_cases hc : c' = c
    · exact .inr (fun hk => h ⟨hc, hk⟩)
    · exact .inl hc

theorem State.group?_updGroup_other (s : State) (t g : Nat) (f : Group → Group) {t' g' : Nat} (h : ¬(t' = t ∧ g' = g)) :
    (s.updGroup t g f).group? t' g' = s.group? t' g' := by
  simp only [State.group?, State.team?, State.updGroup, State.updTeam, Assoc.at?_upd]
  by_cases ht : t' = t
  · subst ht
    have hg : g' ≠ g := fun hg => h ⟨rfl, hg⟩
    cases Assoc.at? s.teams t' with
    | none => simp
    | some x => simp [listUpd_get, hg]
  · rw [if_neg ht]

/-- A line after bytes are written to it. -/
def L2Line.patched (l : L2Line) (off : Nat) (bs : List Byte) : L2Line :=
  { l with data := patchBytes l.data off bs, dirty := true
           poison := (wholeGranules off bs.length).foldl (fun (b : BitVec 4) g => b &&& ~~~(1#4 <<< g)) l.poison }

/-- A present page after bytes are written to it. -/
def Pinned.patched (x : Pinned) (off : Nat) (bs : List Byte) : Pinned :=
  { x with data := Assoc.setBytes x.data off bs, bad := rewritten x.bad off bs.length
           poison := (wholeGranules off bs.length).foldl (fun m g => Assoc.erase m g) x.poison }

/-- A scratchpad allocation after bytes are written to it. -/
def Group.patched (x : Group) (off : Nat) (bs : List Byte) : Group :=
  { x with scratch := Assoc.setBytes x.scratch off bs, badScratch := rewritten x.badScratch off bs.length }

/-- A write to memory changes no more than its bytes and their poison. -/
theorem State.poke_phys (s : State) (off : Nat) (bs : List Byte) :
    s.poke .phys off bs = { s with mem := Memory.writeBytes s.mem off bs, poison := (s.poke .phys off bs).poison } :=
  foldl_keeps (fun q : State => q = { s with mem := Memory.writeBytes s.mem off bs, poison := q.poison })
    (fun (q : State) g => q.setPoison g false) (fun q g hq => by rw [hq]; rfl) (wholeGranules off bs.length) _ rfl

section
variable (s : State) (p : Place) (off : Nat) (bs : List Byte)

theorem State.findLine_poke (t n : Nat) : (s.poke p off bs).findLine t n =
    if p = .line t n then (s.findLine t n).map (fun l => l.patched off bs) else s.findLine t n := by
  cases p with
  | line t' n' =>
    refine (State.findLine_updLine (f := fun l => l.patched off bs) (fun _ => ⟨rfl, rfl⟩) t n).trans ?_
    by_cases h : t = t' ∧ n = n'
    · obtain ⟨rfl, rfl⟩ := h
      simp
    · rw [if_neg h, if_neg (fun e => h (by injection e with ht hn; exact ⟨ht.symm, hn.symm⟩))]
  | phys => rw [State.poke_phys]; rfl
  | pinned c k => rfl
  | scratch t g => rfl

theorem State.findPinned_poke (c k : Nat) : (s.poke p off bs).findPinned c k =
    if p = .pinned c k then (s.findPinned c k).map (fun x => x.patched off bs) else s.findPinned c k := by
  cases p with
  | line t n => rfl
  | phys => rw [State.poke_phys]; rfl
  | pinned c' k' =>
    refine (State.findPinned_updPinned (f := fun x => x.patched off bs) (fun _ => ⟨rfl, rfl⟩) c' k' c k).trans ?_
    by_cases h : c = c' ∧ k = k'
    · obtain ⟨rfl, rfl⟩ := h
      simp
    · rw [if_neg h, if_neg (fun e => h (by injection e with hc hk; exact ⟨hc.symm, hk.symm⟩))]
  | scratch t g => rfl

theorem State.group?_poke (t g : Nat) : (s.poke p off bs).group? t g =
    if p = .scratch t g then (s.group? t g).map (fun x => x.patched off bs) else s.group? t g := by
  cases p with
  | line t n => rfl
  | phys => rw [State.poke_phys]; rfl
  | pinned c k => rfl
  | scratch t' g' =>
    by_cases h : t = t' ∧ g = g'
    · obtain ⟨rfl, rfl⟩ := h
      rw [if_pos rfl]
      exact State.group?_updGroup s t g (fun x => x.patched off bs)
    · rw [if_neg (fun e => h (by injection e with ht hg; exact ⟨ht.symm, hg.symm⟩))]
      exact State.group?_updGroup_other s t' g' (fun x => x.patched off bs) h

theorem State.mem_poke : (s.poke p off bs).mem = if p = .phys then Memory.writeBytes s.mem off bs else s.mem := by
  cases p with
  | line t n => rfl
  | phys => rw [State.poke_phys]; rfl
  | pinned c k => rfl
  | scratch t g => rfl

end

/-- Sparse bytes after a write. -/
theorem get_setBytes (m : Assoc Byte) (off : Nat) (bs : List Byte) (k : Nat) :
    Assoc.get (Assoc.setBytes m off bs) 0 k = overwritten (fun k => Assoc.get m 0 k) off bs k := by
  rw [Assoc.setBytes_eq_writeBytes]
  exact congrFun (Memory.read_writeBytes m off bs) k

/-- A write to a place shows there from its offset on. -/
theorem State.peek_poke_same {p : Place} {off : Nat} {bs : List Byte} (h : s.backs p off bs.length) (k : Nat) :
    (s.poke p off bs).peek p k = overwritten (s.peek p) off bs k := by
  cases p with
  | line t n =>
    obtain ⟨l, hl, hlen⟩ := h
    have hpeek : s.peek (.line t n) = fun k => (l.data[k]?).getD 0 := by
      funext k
      rw [State.peek, hl]
    rw [State.peek, State.findLine_poke, if_pos rfl, hpeek, hl]
    exact getElem?_patchBytes hlen k
  | phys =>
    rw [State.peek, State.mem_poke, if_pos rfl, Memory.read_writeBytes]
    rfl
  | pinned c i =>
    obtain ⟨x, hx⟩ := Option.isSome_iff_exists.mp h
    have hpeek : s.peek (.pinned c i) = fun k => Assoc.get x.data 0 k := by
      funext k
      rw [State.peek, hx]
    rw [State.peek, State.findPinned_poke, if_pos rfl, hpeek, hx]
    exact get_setBytes x.data off bs k
  | scratch t g =>
    obtain ⟨x, hx⟩ := Option.isSome_iff_exists.mp h
    have hpeek : s.peek (.scratch t g) = fun k => Assoc.get x.scratch 0 k := by
      funext k
      rw [State.peek, hx]
    rw [State.peek, State.group?_poke, if_pos rfl, hpeek, hx]
    exact get_setBytes x.scratch off bs k

/-- A write to a place changes no byte of another. -/
theorem State.peek_poke_other {p pl : Place} (h : p ≠ pl) (off : Nat) (bs : List Byte) (k : Nat) :
    (s.poke p off bs).peek pl k = s.peek pl k := by
  cases pl with
  | line t n => rw [State.peek, State.peek, State.findLine_poke, if_neg h]
  | phys => rw [State.peek, State.peek, State.mem_poke, if_neg h]
  | pinned c i => rw [State.peek, State.peek, State.findPinned_poke, if_neg h]
  | scratch t g => rw [State.peek, State.peek, State.group?_poke, if_neg h]

/-- A write leaves every place as long as it is. -/
theorem State.backs_poke {pl : Place} {k m : Nat} (h : s.backs pl k m) (p : Place) (off : Nat) (bs : List Byte) :
    (s.poke p off bs).backs pl k m := by
  cases pl with
  | line t n =>
    obtain ⟨l, hl, hlen⟩ := h
    rw [State.backs, State.findLine_poke]
    split
    · exact ⟨l.patched off bs, congrArg (Option.map _) hl, hlen.trans_eq (length_patchBytes l.data off bs).symm⟩
    · exact ⟨l, hl, hlen⟩
  | phys => trivial
  | pinned c i =>
    rw [State.backs, State.findPinned_poke]
    split
    · exact Option.isSome_map.trans h
    · exact h
  | scratch t g =>
    rw [State.backs, State.group?_poke]
    split
    · exact Option.isSome_map.trans h
    · exact h

end

end Sys2Proof.Machine
end

section
/-! ## Family 12: writes made within an instruction (R237) -/
namespace Sys2Proof.Machine

section
variable {s q t : State} {a : Access} {p : Part}

/-! ### Weak stores -/

/-- A weak access races with nothing. -/
theorem State.races_weak (h : a.strong = false) : s.races a p = [] := by
  rw [State.races, h]
  rfl

theorem State.scrambleWrite_weak (h : a.strong = false) (bs : List Byte) : s.scrambleWrite a p bs = (bs, s) := by
  rw [State.scrambleWrite, State.races_weak h]
  rfl

/-- A weak access leaves no record of itself. -/
theorem State.recordPart_weak (h : a.strong = false) : s.recordPart a p = s := by
  have hblur : s.blurReads a p = s := by
    rw [State.blurReads, State.races_weak h]
    split <;> rfl
  rw [State.recordPart, hblur, State.recordStamp, h]
  simp only [Bool.false_eq_true, if_false, State.tellHear, State.recordStrong, h]

theorem State.performPart_weakStore (hk : a.kind = .store) (h : a.strong = false) :
    s.performPart a p = (s.poke a.place p.off p.data).spoilWrite a p := by
  rw [State.performPart, hk]
  simp only [State.scrambleWrite_weak h, State.recordPart_weak h]

/-- A write to what software may write leaves nothing undefined. -/
theorem State.spoilWrite_intact (h : s.Intact a) (he : s.engines = []) (hp : p ∈ a.parts) : s.spoilWrite a p = s := by
  obtain ⟨hparts, hpool, -⟩ := h
  obtain ⟨hclaim, hwords⟩ := hparts p hp
  have hindex (tag va : Nat) : s.inIndex tag va = false := by simp [State.inIndex, he]
  have hpool (tag va : Nat) : s.inPool tag va = false := by
    refine List.any_eq_false.mpr (fun x hx => ?_)
    rcases hpool x hx with hsave | hbusy
    · simp [hsave]
    · simp [hbusy]
  have hfree : (s.tagOf a p).any (fun t => s.inClaim t p.va || s.inIndex t p.va || s.inPool t p.va) = false := by
    cases htag : s.tagOf a p with
    | none => rfl
    | some tag => simp [hclaim tag htag, hindex, hpool]
  rw [State.spoilWrite, hfree, hwords]
  simp

/-! ### What a write leaves of the machine -/

/-- Nothing is pending and no engine works, and the machine is as `s` is but for bytes, caches, fences and blocks. -/
structure Settled (s t : State) : Prop where
  accesses : t.accesses = []
  engines : t.engines = []
  warps : t.warps = s.warps
  launches : t.launches = s.launches
  ctx : t.ctx = s.ctx
  inClaim : ∀ tag va, t.inClaim tag va = s.inClaim tag va
  poolBusy : ∀ asid, t.poolBusy asid = s.poolBusy asid
  backs : ∀ pl off n, s.backs pl off n → t.backs pl off n

theorem Settled.refl (ha : s.accesses = []) (he : s.engines = []) : Settled s s :=
  ⟨ha, he, rfl, rfl, rfl, fun _ _ => rfl, fun _ => rfl, fun _ _ _ h => h⟩

theorem Settled.trans (h : Settled s q) (h' : Settled q t) : Settled s t where
  accesses := h'.accesses
  engines := h'.engines
  warps := h'.warps.trans h.warps
  launches := h'.launches.trans h.launches
  ctx := h'.ctx.trans h.ctx
  inClaim tag va := (h'.inClaim tag va).trans (h.inClaim tag va)
  poolBusy asid := (h'.poolBusy asid).trans (h.poolBusy asid)
  backs pl off n hb := h'.backs pl off n (h.backs pl off n hb)

/-- What software may write it may still write. -/
theorem Settled.intact (h : Settled s t) (ha : s.accesses = []) (he : s.engines = []) (hi : s.Intact a) : t.Intact a := by
  obtain ⟨hparts, hpool, -⟩ := hi
  refine ⟨fun p hp => ⟨fun tag htag => ?_, ?_⟩, fun x hx => ?_, fun e hm => ?_⟩
  · have hsame : t.tagOf a p = s.tagOf a p := by simp only [State.tagOf, State.warp?, h.warps]
    exact (h.inClaim tag p.va).trans ((hparts p hp).1 tag (hsame.symm.trans htag))
  · have hsame : t.wordBusy = s.wordBusy := by
      funext place off
      simp only [State.wordBusy, h.accesses, ha, h.engines, he, h.warps]
      rfl
    rw [State.busyWords, hsame]
    exact (hparts p hp).2
  · exact (hpool x (h.ctx ▸ hx)).imp_right ((h.poolBusy x.1).trans ·)
  · rw [h.engines] at hm
    cases hm

/-! ### A byte string written at a place -/

theorem State.inClaim_updGroup {tm g : Nat} {f : Group → Group} (hf : ∀ x, (f x).claims = x.claims) (tag va : Nat) :
    (s.updGroup tm g f).inClaim tag va = s.inClaim tag va := by
  refine Assoc.any_upd (fun x => ?_) s.teams
  refine congrArg (fun b => Option.any b (s.launch? x.launch)) (funext fun l => ?_)
  exact any_listUpd (fun y => by simp only [hf]) x.groups g

theorem State.poolBusy_updGroup {tm g : Nat} {f : Group → Group} (asid : Nat) :
    (s.updGroup tm g f).poolBusy asid = s.poolBusy asid := by
  refine congrArg (fun b => _ || b || _) ?_
  exact Assoc.any_upd (p := fun x => x.2.saving && (s.launch? x.2.launch).any (fun l => l.asid == asid))
    (f := fun x => { x with groups := listUpd x.groups g f }) (fun _ => rfl) s.teams

theorem Settled.poke (h : Settled s t) (pl : Place) (off : Nat) (bs : List Byte) : Settled s (t.poke pl off bs) := by
  have hback : ∀ x k n, t.backs x k n → (t.poke pl off bs).backs x k n := fun x k n hb => State.backs_poke hb pl off bs
  refine h.trans ?_
  cases pl with
  | line c n => exact ⟨h.accesses, h.engines, rfl, rfl, rfl, fun _ _ => rfl, fun _ => rfl, hback⟩
  | phys =>
    rw [State.poke_phys] at hback ⊢
    exact ⟨h.accesses, h.engines, rfl, rfl, rfl, fun _ _ => rfl, fun _ => rfl, hback⟩
  | pinned c k => exact ⟨h.accesses, h.engines, rfl, rfl, rfl, fun _ _ => rfl, fun _ => rfl, hback⟩
  | scratch tm g =>
    exact ⟨h.accesses, h.engines, rfl, rfl, rfl, State.inClaim_updGroup (fun _ => rfl), State.poolBusy_updGroup, hback⟩

/-- What follows an access that is performed, with nothing pending: other L1 copies go, and fences that stand for nothing. -/
theorem State.performed_eq (s : State) (k : Nat) (a : Access) : s.performed k a =
    { s with cores := (s.performed k a).cores, accesses := Assoc.erase s.accesses k, fences := (s.performed k a).fences } := by
  unfold State.performed
  split
  · split <;> rfl
  · rfl

theorem Settled.performed (h : Settled s t) (a : Access) : Settled s (t.performed 0 a) := by
  rw [State.performed_eq]
  exact h.trans ⟨congrArg (Assoc.erase · 0) h.accesses, h.engines, rfl, rfl, rfl, fun _ _ => rfl, fun _ => rfl, fun _ _ _ hb => hb⟩

theorem State.peek_performed (s : State) (k : Nat) (a : Access) : (s.performed k a).peek = s.peek := by
  rw [State.performed_eq]
  rfl

theorem State.pass_quiet (ha : s.accesses = []) (k : Nat) (a : Access) : s.pass k a = s := by
  simp only [State.pass, State.passScope, ha, List.foldl_nil]

/-! ### One write -/

/-- The access by which a lane writes bytes within an instruction. -/
def Warp.writeUnit (w : Warp) (c : Cur) (n : Nat) (x : LaneAddr × Hit) (bs : List Byte) : Access :=
  w.unit c.w c.p 0 .store x.2 [{ lane := x.1.lane, va := x.1.va, voff := 0, off := x.2.off, size := n, data := bs }] n 0

section
variable {w : Warp} {c : Cur} {n : Nat} {x : LaneAddr × Hit} {bs : List Byte}

/-- With nothing pending a write to what software may write puts its bytes. -/
theorem State.perform_writeUnit (h : Settled s t) (hi : t.Intact (w.writeUnit c n x bs)) :
    t.perform 0 (w.writeUnit c n x bs) = (t.poke x.2.place x.2.off bs).performed 0 (w.writeUnit c n x bs) := by
  have hpart : t.performPart (w.writeUnit c n x bs)
      { lane := x.1.lane, va := x.1.va, voff := 0, off := x.2.off, size := n, data := bs } = t.poke x.2.place x.2.off bs := by
    have hpoke := Settled.poke (Settled.refl h.accesses h.engines) x.2.place x.2.off bs
    exact (State.performPart_weakStore rfl rfl).trans
      (State.spoilWrite_intact (hpoke.intact h.accesses h.engines hi) hpoke.engines List.mem_cons_self)
  have hline (q : State) : q.wholeLine (w.writeUnit c n x bs) = q := rfl
  rw [State.perform, State.pass_quiet h.accesses, hline]
  exact congrArg (State.performed · 0 _) hpart

theorem Settled.perform (h : Settled s t) (hi : t.Intact (w.writeUnit c n x bs)) : Settled s (t.perform 0 (w.writeUnit c n x bs)) := by
  rw [State.perform_writeUnit h hi]
  exact (h.poke _ _ _).performed _

theorem State.peek_perform_inside (h : Settled s t) (hi : t.Intact (w.writeUnit c n x bs)) (hb : t.backs x.2.place x.2.off bs.length)
    {j : Nat} (hj : j < bs.length) : (t.perform 0 (w.writeUnit c n x bs)).peek x.2.place (x.2.off + j) = (bs[j]?).getD 0 := by
  rw [State.perform_writeUnit h hi, State.peek_performed, State.peek_poke_same hb, overwritten_inside _ _ hj]

theorem State.peek_perform_outside (h : Settled s t) (hi : t.Intact (w.writeUnit c n x bs)) (hb : t.backs x.2.place x.2.off bs.length)
    {pl : Place} {k : Nat} (hout : pl ≠ x.2.place ∨ k < x.2.off ∨ x.2.off + bs.length ≤ k) :
    (t.perform 0 (w.writeUnit c n x bs)).peek pl k = t.peek pl k := by
  rw [State.perform_writeUnit h hi, State.peek_performed]
  by_cases hpl : pl = x.2.place
  · subst hpl
    rw [State.peek_poke_same hb, overwritten_outside _ (hout.resolve_left (fun hne => hne rfl))]
  · exact State.peek_poke_other (Ne.symm hpl) _ _ k

/-! ### The writes of several lanes -/

/-- What a lane's write needs: its bytes are as many as it writes, and its place holds them and is software's to write. -/
structure Writable (s : State) (w : Warp) (c : Cur) (n : Nat) (x : LaneAddr × Hit) (bs : List Byte) : Prop where
  length : bs.length = n
  backs : s.backs x.2.place x.2.off n
  intact : s.Intact (w.writeUnit c n x bs)

theorem Writable.of_settled (h : Writable s w c n x bs) (hst : Settled s t) (ha : s.accesses = []) (he : s.engines = []) :
    Writable t w c n x bs :=
  ⟨h.length, hst.backs _ _ _ h.backs, hst.intact ha he h.intact⟩

/-- The writes have no byte in common. -/
def apart (n : Nat) (x y : LaneAddr × Hit) : Prop :=
  x.2.place ≠ y.2.place ∨ x.2.off + n ≤ y.2.off ∨ y.2.off + n ≤ x.2.off

/-- The state after the writes of several lanes. -/
def State.performWrites (s : State) (w : Warp) (c : Cur) (n : Nat) (data : Nat → List Byte) (xs : List (LaneAddr × Hit)) : State :=
  xs.foldl (fun (q : State) x => q.perform 0 (w.writeUnit c n x (data x.1.lane))) s

/-- Writes that have no byte in common put their bytes and change no other. -/
theorem State.performWrites_spec {data : Nat → List Byte} {xs : List (LaneAddr × Hit)} (ha : s.accesses = []) (he : s.engines = [])
    (hw : ∀ x ∈ xs, Writable s w c n x (data x.1.lane)) (hap : xs.Pairwise (apart n)) :
    Settled s (s.performWrites w c n data xs) ∧
    (∀ x ∈ xs, ∀ j, j < n → (s.performWrites w c n data xs).peek x.2.place (x.2.off + j) = ((data x.1.lane)[j]?).getD 0) ∧
    ∀ pl k, (∀ x ∈ xs, pl ≠ x.2.place ∨ k < x.2.off ∨ x.2.off + n ≤ k) →
      (s.performWrites w c n data xs).peek pl k = s.peek pl k := by
  induction xs generalizing s with
  | nil => exact ⟨Settled.refl ha he, fun x hx => absurd hx List.not_mem_nil, fun _ _ _ => rfl⟩
  | cons x r ih =>
    obtain ⟨hx, hr⟩ := List.forall_mem_cons.mp hw
    obtain ⟨hxr, hap⟩ := List.pairwise_cons.mp hap
    have hself := Settled.refl ha he
    have hone := hself.perform hx.intact
    have hback : s.backs x.2.place x.2.off (data x.1.lane).length := hx.length.symm ▸ hx.backs
    obtain ⟨hrest, hin, hout⟩ := ih hone.accesses hone.engines (fun y hy => (hr y hy).of_settled hone ha he) hap
    refine ⟨hone.trans hrest, List.forall_mem_cons.mpr ⟨fun j hj => ?_, hin⟩, fun pl k hk => ?_⟩
    · refine (hout x.2.place (x.2.off + j) (fun y hy => (hxr y hy).imp_right (fun hd => by omega))).trans ?_
      exact State.peek_perform_inside hself hx.intact hback (hx.length.symm ▸ hj)
    · obtain ⟨hkx, hkr⟩ := List.forall_mem_cons.mp hk
      refine (hout pl k hkr).trans ?_
      exact State.peek_perform_outside hself hx.intact hback (hx.length.symm ▸ hkx)

end

/-! ### Writes within an instruction -/

theorem State.peek_wakeFor (s : State) (core : Option Nat) (h : Hit) : (s.wakeFor core h).peek = s.peek :=
  foldl_keeps (fun q : State => q.peek = s.peek) (fun (q : State) b => q.wake b) (fun _ _ hq => hq) _ _ rfl

theorem State.warps_wakeFor (s : State) (core : Option Nat) (h : Hit) : (s.wakeFor core h).warps = s.warps :=
  foldl_keeps (fun q : State => q.warps = s.warps) (fun (q : State) b => q.wake b) (fun _ _ hq => hq) _ _ rfl

/-- With nothing pending and no engine operation nothing must precede an access. -/
theorem State.settleFor_idle (ha : s.accesses = []) (he : s.engines = []) (y : Access) : s.settleFor y = some s := by
  have hblocked : s.blocked 0 y = false := by simp [State.blocked, State.recalled, State.owed, ha, he]
  rw [State.settleFor, hblocked]
  simp [State.settle, State.needed, ha]

theorem State.settleAll_idle (ha : s.accesses = []) (he : s.engines = []) (ys : List Access) :
    ys.foldl (fun (q : Option State) y => q.bind (fun q => q.settleFor y)) (some s) = some s :=
  List.foldl_fixed' (fun y => State.settleFor_idle ha he y) ys

section
variable {w : Warp} {c : Cur} {n : Nat} {as : List LaneAddr} {H : Nat → Hit}

/-- The looks of lanes that all go on, each lane at its hit. -/
def clearLooks (as : List LaneAddr) (H : Nat → Hit) : List (LaneAddr × LaneLook) := as.map (fun a => (a, .go (H a.lane)))

theorem filterMap_clearLooks {α : Type} (as : List LaneAddr) (H : Nat → Hit) (g : LaneAddr × LaneLook → Option α) :
    (clearLooks as H).filterMap g = as.filterMap (fun a => g (a, .go (H a.lane))) := by
  rw [clearLooks, List.filterMap_map]
  rfl

theorem anyWait_clearLooks (as : List LaneAddr) (H : Nat → Hit) : anyWait (clearLooks as H) = false := by
  rw [anyWait, clearLooks, List.any_map]
  exact List.any_eq_false.mpr (fun _ _ => Bool.false_ne_true)

theorem lookCauses_clearLooks (as : List LaneAddr) (H : Nat → Hit) : lookCauses (clearLooks as H) = [] := by
  simp [lookCauses, filterMap_clearLooks]

theorem State.lookLanes_clear {who : Who} (h : ∀ a ∈ as, s.lookLane who false true a.va n = (.go (H a.lane), s)) :
    s.lookLanes who false true n as = (clearLooks as H, s) := by
  induction as with
  | nil => rfl
  | cons a r ih =>
    obtain ⟨ha, hr⟩ := List.forall_mem_cons.mp h
    rw [State.lookLanes, ha]
    dsimp only
    rw [ih hr]
    rfl

theorem State.laneWay_go {core : Nat} {h : Hit} (hway : s.way (some core) h = .go) : s.laneWay core false n (.go h) = (.go h, s) := by
  simp only [State.laneWay, hway, Bool.false_and, Bool.false_eq_true, if_false]

theorem State.laneWays_clear {core : Nat} (h : ∀ a ∈ as, s.way (some core) (H a.lane) = .go) :
    s.laneWays core false n (clearLooks as H) = (clearLooks as H, s) := by
  induction as with
  | nil => rfl
  | cons a r ih =>
    obtain ⟨ha, hr⟩ := List.forall_mem_cons.mp h
    rw [clearLooks, List.map_cons, State.laneWays, State.laneWay_go ha]
    exact congrArg (fun y : List (LaneAddr × LaneLook) × State => ((a, LaneLook.go (H a.lane)) :: y.1, y.2)) (ih hr)

/-- Lanes whose addresses are good and whose ways are open write at once, with nothing pending. -/
theorem State.writeLanes_clear {data : Nat → List Byte} (ha : s.accesses = []) (he : s.engines = [])
    (hlook : ∀ a ∈ as, s.lookLane (w.who c.w c.p) false true a.va n = (.go (H a.lane), s))
    (hway : ∀ a ∈ as, s.way (some (coreOfKey c.w)) (H a.lane) = .go) :
    s.writeLanes c w n as data = .done ((as.map (fun a => (a, H a.lane))).foldl (fun (q : State) x => q.wakeFor (some (coreOfKey c.w)) x.2)
      (s.performWrites w c n data (as.map (fun a => (a, H a.lane))))) := by
  have hunits (xs : List (LaneAddr × Hit)) : (xs.map (fun x => w.writeUnit c n x (data x.1.lane))).foldl
      (fun (q : State) a => q.perform 0 a) s = s.performWrites w c n data xs := List.foldl_map
  rw [← hunits]
  unfold State.writeLanes
  simp only [State.lookLanes_clear hlook, State.laneWays_clear hway, anyWait_clearLooks, lookCauses_clearLooks, filterMap_clearLooks,
    State.settleAll_idle ha he, List.filterMap_eq_map']
  rfl

/-- Such writes put their bytes at the places of their addresses and change no other byte. -/
theorem State.writeLanes_spec {data : Nat → List Byte} (ha : s.accesses = []) (he : s.engines = [])
    (hlook : ∀ a ∈ as, s.lookLane (w.who c.w c.p) false true a.va n = (.go (H a.lane), s))
    (hway : ∀ a ∈ as, s.way (some (coreOfKey c.w)) (H a.lane) = .go)
    (hw : ∀ a ∈ as, Writable s w c n (a, H a.lane) (data a.lane))
    (hap : as.Pairwise (fun a b => apart n (a, H a.lane) (b, H b.lane))) :
    ∃ q : State, s.writeLanes c w n as data = .done q ∧ q.warps = s.warps ∧
      (∀ a ∈ as, ∀ j, j < n → q.peek (H a.lane).place ((H a.lane).off + j) = ((data a.lane)[j]?).getD 0) ∧
      (∀ pl off, (∀ a ∈ as, pl ≠ (H a.lane).place ∨ off < (H a.lane).off ∨ (H a.lane).off + n ≤ off) → q.peek pl off = s.peek pl off) := by
  obtain ⟨hsettled, hin, hout⟩ := State.performWrites_spec (data := data) (xs := as.map (fun a => (a, H a.lane))) ha he
    (List.forall_mem_map.mpr hw) (List.pairwise_map.mpr hap)
  have hwake := foldl_keeps (fun q : State => q.peek = (s.performWrites w c n data (as.map (fun a => (a, H a.lane)))).peek ∧
      q.warps = s.warps) (fun (q : State) (x : LaneAddr × Hit) => q.wakeFor (some (coreOfKey c.w)) x.2)
    (fun q x hq => ⟨(q.peek_wakeFor _ _).trans hq.1, (q.warps_wakeFor _ _).trans hq.2⟩) (as.map (fun a => (a, H a.lane))) _
    ⟨rfl, hsettled.warps⟩
  obtain ⟨hpeek, hwarps⟩ := hwake
  refine ⟨_, State.writeLanes_clear ha he hlook hway, hwarps, ?_, fun pl off hoff => ?_⟩
  · rw [hpeek]
    exact List.forall_mem_map.mp hin
  · rw [hpeek]
    exact hout pl off (List.forall_mem_map.mpr hoff)

end

end

/-- An image's checks read of the machine the launches alone. -/
theorem State.imageCause_congr {s t : State} (h : t.launches = s.launches) (w : Warp) (bs : List Byte) :
    t.imageCause w bs = s.imageCause w bs := by
  have hdim : t.wgDim w = s.wgDim w := by
    rw [State.wgDim, State.wgDim, State.headerField, State.headerField, State.launchOf, State.launchOf, State.launch?, State.launch?, h]
  rw [State.imageCause, State.imageCause, hdim]

/-- Settles O26: EXSAVE and EXLOAD by their definitions, the image field by field, and the writes one after another. -/
theorem asterImages : Obligations.AsterImages := by
  unfold Obligations.AsterImages
  refine ⟨⟨fun a s q c w h _ hform hdone => exec_exsave_done h hform hdone,
    fun a s q c w vals h _ hform hdone hw hd hcause => ?_, fun w hact hcursor _ => ⟨Warp.length_image hact, sliceOfImage_image hact hcursor⟩⟩,
    fun s c w n as H data ha he hgood hap => ?_⟩
  · have hlisted : Listed s.launches q := Listed.readLanes rfl hdone
    exact exec_exload_done h hform hdone hw hd ((State.imageCause_congr hlisted w _).symm.trans hcause)
  · refine State.writeLanes_spec ha he (fun a hm => ?_) (fun a hm => ?_) (fun a hm => ?_) hap
    · exact (hgood a hm).1
    · obtain ⟨-, -, -, hway, -⟩ := hgood a hm
      exact hway
    · obtain ⟨-, hlen, hback, -, hintact⟩ := hgood a hm
      exact ⟨hlen, hback, hintact⟩

end Sys2Proof.Machine
end

section
/-! ## Family 14: canonical memory through updates, the fault log and retirement -/
namespace Sys2Proof
open Machine
variable {s q : State}

/-! ### State updates that leave memory alone -/

theorem Sound.updWarp (h : Sound s) (k : Nat) (f : Warp → Warp) : Sound (s.updWarp k f) := h
theorem Sound.setWarp (h : Sound s) (k : Nat) (w : Warp) : Sound (s.setWarp k w) := h
theorem Sound.updPath (h : Sound s) (k p : Nat) (f : Path → Path) : Sound (s.updPath k p f) := h
theorem Sound.updCore (h : Sound s) (c : Nat) (f : CoreState → CoreState) : Sound (s.updCore c f) := h
theorem Sound.updGroup (h : Sound s) (t g : Nat) (f : Group → Group) : Sound (s.updGroup t g f) := h
theorem Sound.updLaunch (h : Sound s) (l : Nat) (f : Launch → Launch) : Sound (s.updLaunch l f) := h
theorem Sound.takeFree (h : Sound s) : Sound s.takeFree := h
theorem Sound.dropTicket (h : Sound s) (t : Nat) : Sound (s.dropTicket t) := h
theorem Sound.unpark (h : Sound s) (key : Nat) : Sound (s.unpark key) := h
theorem Sound.parkAt (h : Sound s) (c : Cur) (why : Why) (i : Instr) : Sound (s.parkAt c why i) := h
theorem Sound.postMiss (h : Sound s) (t line : Nat) (team l1 : Option Nat) (quiet : Bool) :
    Sound (s.postMiss t line team l1 quiet) := h.of_mem (by simp)
theorem Sound.wakeFor (h : Sound s) (core : Option Nat) (x : Hit) : Sound (s.wakeFor core x) := h.of_mem (by simp)
theorem Sound.ask (h : Sound s) (core : Option Nat) (x : Hit) : Sound (s.ask core x) := h.of_mem (by simp)
theorem Sound.wayUsed (h : Sound s) (core : Option Nat) (x : Hit) : Sound (s.wayUsed core x) := h.of_mem (by simp)
theorem Sound.usedAt (h : Sound s) (asid va : Nat) (x : Hit) : Sound (s.usedAt asid va x) := h.of_mem (by simp)
theorem Sound.waitIn (h : Sound s) (q : State) : Sound (s.waitIn q) := h
theorem Sound.readThrough (h : Sound s) (core : Nat) (x : Hit) : Sound (s.readThrough core x) := by
  unfold State.readThrough
  split
  · exact h.of_mem (by simp)
  · exact h

/-! ### The fault log and the permission log -/

theorem Sound.issueTicket (h : Sound s) (core slot kind : Nat) (what : TicketOf) : Sound (s.issueTicket core slot kind what).2 := h
theorem Sound.holdEntry (h : Sound s) (entry : List Byte) (failing : Bool) : Sound (s.holdEntry entry failing) := h

theorem Sound.appendFault (h : Sound s) (entry : List Byte) : Sound (s.appendFault entry).2 := by
  unfold State.appendFault
  grind [Got.state, ! Sound.loadNow, ! Sound.storeNow]

theorem Sound.logEntry (h : Sound s) (entry : List Byte) (handler : Bool) : Sound (s.logEntry entry handler).2 := by
  unfold State.logEntry
  grind [! Sound.appendFault, Sound.holdEntry]

theorem Sound.logOrHold (h : Sound s) (entry : List Byte) : Sound (s.logOrHold entry) := h.logEntry entry false

theorem Sound.countDropped (h : Sound s) (who : Who) (base : Nat) : Sound (s.countDropped who base) := by
  unfold State.countDropped
  grind [Got.state, ! Sound.loadNow, ! Sound.storeNow]

theorem Sound.appendEvent (h : Sound s) (who : Who) (ev : List Byte) : Sound (s.appendEvent who ev).2 := by
  unfold State.appendEvent
  grind [Got.state, ! Sound.loadNow, ! Sound.storeNow, Sound.countDropped]

theorem Sound.permEvent (h : Sound s) (who : Who) (dist : Bool) (line tag cause : Nat) (lanes : Mask) :
    Sound (s.permEvent who dist line tag cause lanes) := by
  unfold State.permEvent
  grind [Sound, ! Sound.appendEvent]

theorem Sound.retryEvent (h : Sound s) : Sound s.retryEvent := by
  unfold State.retryEvent
  grind [Sound, ! Sound.appendEvent]

theorem Sound.permEvents (h : Sound s) (who : Who) (dist : Bool) (lines : List (Nat × Nat)) (cause : Nat) (lanes : Mask) :
    Sound (s.permEvents who dist lines cause lanes) :=
  foldl_keeps Sound _ (fun _ _ hq => hq.permEvent _ _ _ _ _ _) _ _ h

/-! ### Stops, traps and parks -/

theorem Sound.stopAs (h : Sound s) (key : Nat) (c : Cur) (f : FaultInfo) (replay : Mask) : Sound (s.stopAs key c f replay) := h

theorem Sound.stopWarp (h : Sound s) (key : Nat) (c : Cur) (f : FaultInfo) (replay : Mask) : Sound (s.stopWarp key c f replay) := by
  unfold State.stopWarp
  split
  · exact h
  · exact ((h.issueTicket _ _ _ _).logOrHold _).stopAs _ _ _ _

theorem Sound.debugStop (h : Sound s) (key : Nat) (c : Cur) (f : FaultInfo) : Sound (s.debugStop key c f) := by
  unfold State.debugStop
  grind [Sound.stopWarp, ! Sound.issueTicket, Sound.logOrHold, Sound.updPath]

theorem Sound.writeRecord (h : Sound s) (c : Cur) (w : Warp) (f : FaultInfo) : Sound (s.writeRecord c w f).state := by
  unfold State.writeRecord
  split
  · exact h
  · next e => exact (h.settleFor _ e).storeNow _ _ _

theorem Sound.trapEntry (h : Sound s) (c : Cur) (f : FaultInfo) (handler : Nat) : Sound (s.trapEntry c f handler) := by
  unfold State.trapEntry
  grind [Got.state, ! Sound.writeRecord, Sound.stopWarp, Sound.updWarp]

theorem Sound.stopOrHandle (h : Sound s) (c : Cur) (f : FaultInfo) (replay : Mask) : Sound (s.stopOrHandle c f replay) := by
  unfold State.stopOrHandle
  grind [! Sound.issueTicket, ! Sound.logEntry, Sound.dropTicket, Sound.trapEntry, Sound.stopAs]

theorem Sound.closeReplay (h : Sound s) (c : Cur) : Sound (s.closeReplay c) := by
  unfold State.closeReplay
  grind [Sound, Sound.updPath]

theorem Sound.routeH (h : Sound s) (c : Cur) (f : FaultInfo) : Sound (s.routeH c f) := by
  unfold State.routeH
  grind [Sound.closeReplay, Sound.stopOrHandle, Sound.stopWarp, Sound.trapEntry]

theorem Sound.park (h : Sound s) (c : Cur) (x : Cause) (op : Option Nat) : Sound (s.park c x op) := by
  unfold State.park
  grind [Sound, ! Sound.issueTicket, ! Sound.logEntry, Sound.dropTicket, Sound.routeH, Sound.updPath]

theorem Sound.raise (h : Sound s) (c : Cur) (x : Cause) (op : Option Nat) : Sound (s.raise c x op) := by
  unfold State.raise
  grind [Sound, Sound.park, Sound.updPath, Sound.debugStop, Sound.routeH]

theorem Sound.raiseWhole (h : Sound s) (c : Cur) (code sub : Nat) : Sound (s.raiseWhole c code sub) := h.raise _ _ _
theorem Sound.raiseAt (h : Sound s) (c : Cur) (code sub va : Nat) : Sound (s.raiseAt c code sub va) := h.raise _ _ _

/-! ### Retirement -/

theorem Sound.stepStop (h : Sound s) (c : Cur) : Sound (s.stepStop c) := by
  unfold State.stepStop
  grind [Sound.debugStop]

theorem Sound.endInstr (h : Sound s) (c : Cur) (resets : Bool) : Sound (s.endInstr c resets) := h
theorem Sound.finish (h : Sound s) (c : Cur) (resets : Bool) : Sound (s.finish c resets) := (h.endInstr c resets).stepStop c
theorem Sound.retire (h : Sound s) (c : Cur) : Sound (s.retire c) := Sound.finish (s := s.updWarp c.w _) h c false

theorem Sound.replayEntry (h : Sound s) (key : Nat) (w : Warp) (p k header : Nat) : Sound (s.replayEntry key w p k header).state := by
  unfold State.replayEntry
  grind [Got.state, ! Sound.loadNow, Sound.permEvents]

theorem Sound.replayCheck (h : Sound s) (key : Nat) (w : Warp) (p : Nat) (n : DWord) (k : Nat) :
    Sound (s.replayCheck key w p n k).state := by
  unfold State.replayCheck
  grind [Got.state, ! Sound.replayEntry, ! Sound.loadNow, ! Sound.storeNow, Sound.permEvents]

theorem Sound.useEntry (h : Sound s) (c : Cur) (n : DWord) (k : Nat) : Sound (s.useEntry c n k) := by
  unfold State.useEntry
  grind [Got.state, ! Sound.replayCheck, Sound.stopWarp, Sound.updWarp]

theorem Sound.countSync (h : Sound s) (c : Cur) (w : Warp) : Sound (s.countSync c w) := by
  unfold State.countSync
  grind [Sound.updWarp, Sound.useEntry]

theorem Sound.stepAfter (h : Sound s) (c : Cur) : Sound (s.stepAfter c) := by
  unfold State.stepAfter
  grind [Sound.stepStop]

theorem Sound.retireSync (h : Sound s) (c : Cur) : Sound (s.retireSync c) := by
  unfold State.retireSync
  split
  · exact h
  · exact Sound.stepAfter (Sound.countSync (s := (s.updWarp c.w _).endInstr c true) h c _) c

theorem Sound.retireTransfer (h : Sound s) (c : Cur) (k : Xfer) (gs : List Branch) : Sound (s.retireTransfer c k gs) :=
  Sound.finish (s := s.updWarp c.w _) h c false

theorem Sound.retireWith (h : Sound s) (c : Cur) (f : Warp → Warp) : Sound (s.retireWith c f) := Sound.retire (s := s.updWarp c.w f) h c

theorem Sound.trapReturn (h : Sound s) (c : Cur) (form : EretForm) : Sound (s.trapReturn c form) := by
  unfold State.trapReturn
  grind [Sound.stopOrHandle, Sound.updWarp, Sound.countSync, Sound.stepAfter, Sound.stepStop]

theorem Sound.endLanes (h : Sound s) (c : Cur) : Sound (s.endLanes c) := h
end Sys2Proof
end

section
/-! ## Family 14: canonical memory through fetches and accesses -/
namespace Sys2Proof
open Machine
variable {s q : State}

/-! ### Fetching and looking lanes up -/

theorem Sound.fetchWord (h : Sound s) (key p : Nat) (w : Warp) (va : Nat) : Sound (s.fetchWord key p w va).2 := by
  unfold State.fetchWord
  grind [Got.state, ! Sound.cleared, Sound.permEvent, Sound.wayUsed, Sound.ask, Sound.readThrough, Sound.wakeFor, Sound.usedAt]

theorem Sound.fetchMore (h : Sound s) (key p : Nat) (w : Warp) (pc : DWord) (ws : List Word) (fuel : Nat) :
    Sound (s.fetchMore key p w pc ws fuel).2 := by
  induction fuel generalizing s ws with
  | zero => exact h
  | succ n ih =>
    unfold State.fetchMore
    grind [! Sound.fetchWord]

theorem Sound.fetch (h : Sound s) (key p : Nat) (w : Warp) (pc : DWord) : Sound (s.fetch key p w pc).2 := h.fetchMore _ _ _ _ _ _

theorem Sound.lookLane (h : Sound s) (who : Who) (reads writes : Bool) (va n : Nat) :
    Sound (s.lookLane who reads writes va n).2 := by
  unfold State.lookLane
  grind [Got.state, ! Sound.cleared, Sound.readThrough, Sound.usedAt]

theorem Sound.lookLanes (h : Sound s) (who : Who) (reads writes : Bool) (n : Nat) (as : List LaneAddr) :
    Sound (s.lookLanes who reads writes n as).2 := by
  induction as generalizing s with
  | nil => exact h
  | cons a r ih => exact ih (h.lookLane who reads writes a.va n)

theorem Sound.waitFill (h : Sound s) (c : Cur) (w : Warp) (l1 : Bool) (ls : List (LaneAddr × LaneLook)) :
    Sound (s.waitFill c w l1 ls) := by
  have hposted := foldl_keeps Sound (fun (s : State) (x : Nat × Nat) =>
    s.postMiss x.1 x.2 (some w.team) (if l1 then some (coreOfKey c.w) else none) false)
    (fun _ _ hq => hq.postMiss _ _ _ _ _) (missedLines ls) s h
  unfold State.waitFill
  dsimp only
  split
  · exact hposted
  · exact hposted.updPath _ _ _

theorem Sound.logDenied (h : Sound s) (c : Cur) (w : Warp) (once : Bool) (ls : List (LaneAddr × LaneLook)) :
    Sound (s.logDenied c w once ls) :=
  foldl_keeps Sound _ (fun _ _ hq => hq.permEvent _ _ _ _ _ _) _ _ h

theorem Sound.addAccesses (h : Sound s) (as : List Access) : Sound (s.addAccesses as) :=
  foldl_keeps Sound (fun (s : State) a => { s with accesses := Assoc.put s.accesses s.fresh a, fresh := s.fresh + 1 })
    (fun _ _ hq => hq) as s h

theorem Sound.anyOrder {α : Type} (h : Sound s) (xs : List α) (fuel : Nat) : Sound (s.anyOrder xs fuel).2 := by
  induction fuel generalizing s xs with
  | zero => exact h
  | succ n ih =>
    unfold State.anyOrder
    grind [Sound.takeFree]

theorem Sound.performOr (h : Sound s) (trap : Bool) (as : List Access) (a : Access) : Sound (s.performOr trap as a).2 := by
  unfold State.performOr
  grind [Sound.perform]

theorem Sound.performTrapping (h : Sound s) (trap : Bool) (as : List Access) : Sound (s.performTrapping trap as).2 := by
  refine foldl_keeps (fun r : List LaneCause × State => Sound r.2) _ (fun r a hr => ?_) _ _ (h.anyOrder as as.length)
  dsimp only
  split
  · exact hr
  · exact hr.performOr trap as a

theorem Sound.laneWay (h : Sound s) (core : Nat) (reads : Bool) (n : Nat) (l : LaneLook) : Sound (s.laneWay core reads n l).2 := by
  unfold State.laneWay
  grind [Sound.wayUsed, Sound.ask]

theorem Sound.laneWays (h : Sound s) (core : Nat) (reads : Bool) (n : Nat) (ls : List (LaneAddr × LaneLook)) :
    Sound (s.laneWays core reads n ls).2 := by
  induction ls generalizing s with
  | nil => exact h
  | cons x r ih => exact ih (h.laneWay core reads n x.2)

/-- Performing what must precede several accesses keeps memory canonical. -/
theorem Sound.settleEach {α : Type} (h : Sound s) (f : α → Access) (as : List α)
    (e : as.foldl (fun (t : Option State) a => t.bind (fun s => s.settleFor (f a))) (some s) = some q) : Sound q := by
  refine foldl_keeps (fun t : Option State => ∀ q ∈ t, Sound q) _ (fun t a ht q hq => ?_) as (some s) ?_ q e
  · obtain ⟨u, hu, hs⟩ := Option.bind_eq_some_iff.mp hq
    exact (ht u hu).settleFor _ hs
  · rintro _ ⟨⟩
    exact h

theorem Sound.performEach (h : Sound s) (k : Nat) (as : List Access) : Sound (as.foldl (fun (s : State) a => s.perform k a) s) :=
  foldl_keeps Sound _ (fun _ a hq => hq.perform k a) as s h

theorem Sound.wakeEach {α : Type} (h : Sound s) (core : Option Nat) (f : α → Hit) (l : List α) :
    Sound (l.foldl (fun (s : State) x => s.wakeFor core (f x)) s) :=
  foldl_keeps Sound _ (fun _ _ hq => hq.wakeFor _ _) l s h

/-! ### Accesses completed within their instruction -/

/-- The states that such a read, write or atomic can end in are canonical. -/
def Machine.ReadNow.Kept : ReadNow → Prop
  | .hold q => Sound q
  | .done _ _ q => Sound q

@[inherit_doc Machine.ReadNow.Kept]
def Machine.WriteNow.Kept : WriteNow → Prop
  | .hold q => Sound q
  | .bad _ _ q => Sound q
  | .done q => Sound q

@[inherit_doc Machine.ReadNow.Kept]
def Machine.RmwNow.Kept : RmwNow → Prop
  | .hold => True
  | .mixed q => Sound q
  | .done _ q => Sound q

theorem Sound.readLanes (h : Sound s) (c : Cur) (w : Warp) (once : Bool) (n : Nat) (as : List LaneAddr) :
    (s.readLanes c w once n as).Kept := by
  have hl := h.lookLanes (w.who c.w c.p) true false n as
  have hr := hl.laneWays (coreOfKey c.w) true n (s.lookLanes (w.who c.w c.p) true false n as).1
  unfold State.readLanes
  dsimp only
  split
  · exact hl.waitFill _ _ _ _
  · split
    · exact h.waitIn _
    · split
      · exact h
      · next e => exact ((hr.settleEach (fun x : Nat × Hit × Access => x.2.2) _ e).logDenied _ _ _ _).wakeEach _ (fun x : LaneAddr × Hit => x.2) _

theorem Sound.writeLanes (h : Sound s) (c : Cur) (w : Warp) (n : Nat) (as : List LaneAddr) (data : Nat → List Byte) :
    (s.writeLanes c w n as data).Kept := by
  have hl := h.lookLanes (w.who c.w c.p) false true n as
  have hr := hl.laneWays (coreOfKey c.w) false n (s.lookLanes (w.who c.w c.p) false true n as).1
  unfold State.writeLanes
  dsimp only
  split
  · exact hl.waitFill _ _ _ _
  · split
    · exact h.waitIn _
    · split
      · split
        · exact h
        · next e =>
          exact ((hr.settleEach (fun a : Access => a) _ e).performEach _ _).wakeEach _ (fun x : LaneAddr × Hit => x.2) _
      · exact hr

theorem Sound.performed (h : Sound s) (k : Nat) (a : Access) : Sound (s.performed k a) := h.of_mem (by simp)

theorem Sound.rmwNow (h : Sound s) (c : Cur) (w : Warp) (x : Hit) (n : Nat) (aop : BitVec 4) (y : Nat) (cmp : DWord)
    (acq rel : Bool) (scope : Scope) : (s.rmwNow c w x n aop y cmp acq rel scope).Kept := by
  unfold State.rmwNow
  dsimp only
  split
  · trivial
  · next e =>
    split
    · exact h.settleFor _ e
    · exact (((h.settleFor _ e).rmwPart _ _ _ _).performed _ _).wakeFor _ _

theorem Sound.strongRead {r : Nat × State} (h : Sound s) {c : Cur} {w : Warp} {x : Hit} {n : Nat} {scope : Scope}
    (e : s.strongRead c w x n scope = some r) : Sound r.2 := by
  obtain ⟨u, hu, rfl⟩ := Option.map_eq_some_iff.mp e
  exact ((h.settleFor _ hu).of_mem (by simp)).wakeFor _ _

theorem Sound.undefineBytes (h : Sound s) (n : Nat) (good : List (LaneAddr × Hit)) : Sound (s.undefineBytes n good) :=
  foldl_keeps Sound _ (fun q _ hq => Sound.poke (s := (q.freeBytes n).2) (hq.of_mem rfl) _ _ _) good s h

theorem Sound.bitmapLoads (h : Sound s) (c : Cur) (w : Warp) (va k : Nat) : Sound (s.bitmapLoads c w va k).state := by
  induction k generalizing s va with
  | zero => exact h
  | succ k ih =>
    have hr := h.resolve w.asid (some w.team) va
    unfold State.bitmapLoads
    revert hr
    rcases s.resolve w.asid (some w.team) va with ⟨x | _ | _ | _, q⟩ <;> intro hr
    · dsimp only
      split
      · exact hr.wayUsed _ _
      · exact hr.ask _ _
      · split
        · exact hr
        · next t e =>
          have ht := hr.settleFor _ e
          split
          · exact ht
          · have hrest := ih (ht.wakeFor (some (coreOfKey c.w)) x) (va + 128)
            revert hrest
            rcases (t.wakeFor (some (coreOfKey c.w)) x).bitmapLoads c w (va + 128) k with _ | _ | _ <;> intro hk <;>
              dsimp only [Got.state] <;> exact hk
    · exact hr
    · exact hr
    · exact hr

/-! ### Loads, stores and atomics -/

theorem Sound.openOp (h : Sound s) (c : Cur) (w : Warp) (o : OutOp) : Sound (s.openOp c w o).2 := by
  unfold State.openOp
  split
  · exact h.of_mem rfl
  · exact h.of_mem rfl

theorem Sound.retireOrRemote (h : Sound s) (c : Cur) (op : Nat) (remote must resets once : Bool) (met : List LaneCause) :
    Sound (s.retireOrRemote c op remote must resets once met) := by
  unfold State.retireOrRemote
  grind [Sound.retireSync, Sound.retire, Sound.updPath, Sound.takeFree, Sound.raise]

theorem Sound.issueAccesses (h : Sound s) (c : Cur) (w : Warp) (pf : Option Prefix) (m : Mem) (early : List LaneCause)
    (looks : List (LaneAddr × LaneLook)) (kind : AccKind) (bytes : Nat → List Byte) (whole strong : Bool)
    (tweak : Access → Access) (now resets : Bool) :
    Sound (s.issueAccesses c w pf m early looks kind bytes whole strong tweak now resets) := by
  have hopen : ∀ (ls : List (LaneAddr × LaneLook)) (o : OutOp),
      Sound (((s.setWarp c.w (w.zeroOff pf m c.lanes.lanes)).logDenied c w m.once ls).openOp c (w.zeroOff pf m c.lanes.lanes) o).2 :=
    fun ls o => ((h.setWarp _ _).logDenied c w m.once ls).openOp _ _ _
  unfold State.issueAccesses
  dsimp only
  split
  · split
    · exact (h.setWarp _ _).raise _ _ _
    · exact h.setWarp _ _
  · split
    · split
      · exact h
      · next e =>
        refine Sound.retireOrRemote ?_ _ _ _ _ _ _ _
        exact ((Sound.settleEach (Sound.updWarp (hopen _ _) _ _) (fun a : Access => a) _ e).addAccesses _).performTrapping _ _
    · exact ((Sound.updWarp (hopen _ _) _ _).addAccesses _).retireOrRemote _ _ _ _ _ _ _

theorem Sound.globalAccess (h : Sound s) (c : Cur) (w : Warp) (i : Instr) (pf : Option Prefix) (m : Mem) (a : Code) (off : Nat) :
    Sound (s.globalAccess c w i pf m a off) := by
  unfold State.globalAccess
  grind [Sound.lookLanes, Sound.waitFill, Sound.issueAccesses]

theorem Sound.scratchAccess (h : Sound s) (c : Cur) (w : Warp) (i : Instr) (pf : Option Prefix) (m : Mem) (a : Code) (off : Nat) :
    Sound (s.scratchAccess c w i pf m a off) := h.issueAccesses _ _ _ _ _ _ _ _ _ _ _ _ _

/-! ### Causes held by engine operations and batches -/

theorem Sound.deliverHeld (h : Sound s) {c : Cur} {es : List (Nat × EngOp)} {bs : List Batch}
    (e : s.deliverHeld c es bs = some q) : Sound q := by
  have hroute : ∀ (hs : List (Nat × EngOp)) (hb : List Batch) (f : FaultInfo), Sound (((s.dropOps hs).dropBatches c.w hb).routeH c f) :=
    fun hs hb f => Sound.routeH (s := (s.dropOps hs).dropBatches c.w hb) h c f
  have hfire : ∀ (hs : List (Nat × EngOp)) (hb : List Batch) (f : HeldCause → FaultInfo) (o : Option HeldCause),
      (o.bind fun x => some (((s.dropOps hs).dropBatches c.w hb).routeH c (f x))) = some q → Sound q := by
    rintro hs hb f o e
    obtain ⟨x, -, hx⟩ := Option.bind_eq_some_iff.mp e
    cases hx
    exact hroute hs hb (f x)
  unfold State.deliverHeld at e
  dsimp only at e
  split at e
  · split at e
    · exact hfire _ _ _ _ e
    · exact hfire _ _ _ _ e
  · exact hfire _ _ _ _ e
  · exact hfire _ _ _ _ e
  · cases e

theorem Sound.deliverHeld_getD (h : Sound s) (c : Cur) (es : List (Nat × EngOp)) (bs : List Batch) (hq : Sound q) :
    Sound ((s.deliverHeld c es bs).getD q) := by
  cases e : s.deliverHeld c es bs with
  | none => exact hq
  | some t => exact h.deliverHeld e
end Sys2Proof
end

section
/-! ## Family 14: canonical memory through waits, expansions and transfers -/
namespace Sys2Proof
open Machine
variable {s q : State}

/-! ### The wrapper of every instruction (R70, R166) -/

/-- If this outcome has a next state, memory is canonical there. -/
def Machine.Kept : Host.Outcome State Fault Refusal → Prop
  | .next t => Sound t
  | .fault _ => True
  | .refused _ => True

theorem Sound.issue (h : Sound s) {i : Instr} {priv : Priv} {body : State → Cur → Warp → State}
    (hb : ∀ c w, Sound (body s c w)) : Kept (issue i priv s body) := by
  unfold Machine.issue
  grind [Kept, Sound.raiseWhole]

theorem Sound.issueClean (h : Sound s) {i : Instr} {priv : Priv} {body : State → Cur → Warp → State}
    (hb : ∀ c w, Sound (body s c w)) : Kept (issueClean i priv s body) := by
  refine h.issue fun c w => ?_
  split
  · exact hb c w
  · exact h.raise _ _ _

theorem Sound.finishLanes (h : Sound s) (c : Cur) (r : Warp × List LaneCause) : Sound (s.finishLanes c r) := by
  unfold State.finishLanes
  split
  · exact (h.setWarp _ _).retire c
  · exact (h.setWarp _ _).raise _ _ _

theorem Sound.runOp {α : Type} (h : Sound s) (i : Instr) (pf : Option Prefix) (once : Bool) (f : Warp → Nat → Res α)
    (put : Warp → Nat → α → Warp) (zero : α) : Kept (runOp i pf once s f put zero) := by
  refine h.issue fun c w => ?_
  split
  · split
    · exact h.retireWith _ _
    · exact h.raiseWhole _ _ _
  · exact h.finishLanes _ _

theorem Sound.raiseOnce (h : Sound s) (c : Cur) (xs : List LaneCause) : Sound (s.raiseOnce c xs) := by
  unfold State.raiseOnce
  split
  · exact h.raise _ _ _
  · exact h

theorem Sound.raiseHeld (h : Sound s) (key : Nat) (x : Held) (code : Nat) : Sound (s.raiseHeld key x code) :=
  Sound.raiseWhole (h.updWarp _ _) _ _ _

/-! ### Warps that wait for each other -/

theorem Sound.exchange (h : Sound s) (c1 : Cur) (p1 : Option Prefix) (d1 a1 : Code) (c2 : Cur) (p2 : Option Prefix) (d2 a2 : Code) :
    Sound (s.exchange c1 p1 d1 a1 c2 p2 d2 a2) := by
  unfold State.exchange
  split
  · exact (((h.setWarp _ _).setWarp _ _).retire c1).retire c2
  · exact h

theorem Sound.raiseSet (h : Sound s) (ds : List Dealt) (code : Nat) : Sound (s.raiseSet ds code) :=
  foldl_keeps Sound _ (fun _ d hq => (hq.unpark d.key).raiseWhole d.cur code 0) ds s h

theorem Sound.asterMatch (h : Sound s) (key : Nat) : Sound (s.asterMatch key) := by
  unfold State.asterMatch
  split
  · exact h
  · dsimp only
    split
    · exact h.raiseSet _ _
    · split
      · exact h.raiseSet _ _
      · split
        · exact h.raiseSet _ _
        · refine foldl_keeps Sound _ (fun _ d hq => hq.retire d.cur) _ _ ?_
          exact foldl_keeps Sound _ (fun q (x : Dealt × Warp) hq => hq.setWarp x.1.key _) _ s h

theorem Sound.exited (h : Sound s) (key : Nat) (gone : Warp) : Sound (s.exited key gone) := by
  refine foldl_keeps Sound _ (fun q x hq => ?_) _ s h
  split
  · exact hq
  · exact hq.raiseHeld _ _ _

theorem Sound.collective (h : Sound s) (c : Cur) (w : Warp) (i : Instr) : Sound (s.collective c w i) := by
  unfold State.collective
  grind [Sound.raiseWhole, Sound.parkAt, Sound.asterMatch]

theorem Sound.closeSpan (h : Sound s) (i : Instr) : Sound (s.closeSpan i) := by
  unfold State.closeSpan
  grind [Sound.setWarp]

theorem Sound.withinExpansion (h : Sound s) (i : Instr) : Kept (withinExpansion i s) := by
  have hs := h.closeSpan i
  refine hs.issueClean fun c w => ?_
  split
  · exact hs.collective c w i
  · exact hs.raiseWhole _ _ _

/-! ### Atomics and waits -/

theorem Sound.issueAtomic (h : Sound s) (c : Cur) (w : Warp) (pf : Option Prefix) (m : Mem) (b cmp : Code) (aop : BitVec 4)
    (width : BitVec 2) (order : BitVec 3) (scratch : Bool) (early : List LaneCause) (ls : List (LaneAddr × LaneLook)) :
    Sound (s.issueAtomic c w pf m b cmp aop width order scratch early ls) := h.issueAccesses _ _ _ _ _ _ _ _ _ _ _ _ _

/-- The states that a wait's read can end in are canonical. -/
def Machine.WaitRead.Kept : WaitRead → Prop
  | .hold q => Sound q
  | .bad _ _ _ q => Sound q
  | .got _ _ q => Sound q

theorem Sound.readBarrier (h : Sound s) (c : Cur) (w : Warp) (cnt : Bool) (a b : Code) : (s.readBarrier c w cnt a b).Kept := by
  unfold State.readBarrier
  grind [WaitRead.Kept, → Sound.strongRead]

theorem Sound.waitBarrier (h : Sound s) (i : Instr) (cnt : Bool) (a b : Code) : Kept (waitBarrier i cnt a b s) := by
  refine h.issue fun c w => ?_
  grind [WaitRead.Kept, ! Sound.readBarrier, Sound.raiseAt, Sound.updWarp, Sound.retireSync, Sound.parkAt]

theorem Sound.waitbTry (h : Sound s) {key : Nat} (e : s.waitbTry key = some q) : Sound q := by
  unfold State.waitbTry at e
  split at e
  · cases e
  · split at e
    · cases e
    · extract_lets go at e
      have hgo : ∀ cnt a b p, go cnt a b p = some q → Sound q := by
        grind [WaitRead.Kept, ! Sound.readBarrier, Sound.raiseAt, Sound.updWarp, Sound.retireSync, Sound.unpark]
      split at e
      · cases e
      · split at e
        · exact hgo _ _ _ _ e
        · exact hgo _ _ _ _ e
        · cases e

theorem Sound.readMwait (h : Sound s) (c : Cur) (w : Warp) (a : Code) : (s.readMwait c w a).Kept := by
  unfold State.readMwait
  extract_lets x go
  have hgo : ∀ y absent u, Sound u → (go y absent u).Kept := by
    grind [WaitRead.Kept, Got.state, ! Sound.cleared, Sound.wayUsed, Sound.ask, → Sound.strongRead]
  clear_value go
  grind [WaitRead.Kept, ! Sound.resolve]

theorem Sound.mwaitLog (h : Sound s) (c : Cur) (w : Warp) (a : Code) (denied : Bool) : Sound (s.mwaitLog c w a denied) := by
  unfold State.mwaitLog
  grind [Sound.permEvent]

theorem Sound.mwaitOp (h : Sound s) (i : Instr) (geu : Bool) (a b : Code) : Kept (mwaitOp i geu a b s) := by
  refine h.issue fun c w => ?_
  grind [WaitRead.Kept, ! Sound.readMwait, Sound.raiseAt, Sound.mwaitLog, Sound.updWarp, Sound.retireSync, Sound.parkAt]

theorem Sound.newWait (h : Sound s) {u : State} (e : s.newWait u = some q) : Sound q := by
  unfold State.newWait at e
  grind [Sound.waitIn]

theorem Sound.mwaitTry (h : Sound s) {key : Nat} (e : s.mwaitTry key = some q) : Sound q := by
  unfold State.mwaitTry at e
  split at e
  · cases e
  · split at e
    · cases e
    · extract_lets go at e
      have hgo : ∀ geu a b, go geu a b = some q → Sound q := by
        grind [WaitRead.Kept, ! Sound.readMwait, → Sound.newWait, Sound.raiseAt, Sound.updWarp, Sound.retireSync, Sound.unpark]
      split at e
      · cases e
      · split at e
        · exact hgo _ _ _ e
        · exact hgo _ _ _ e
        · cases e

theorem Sound.retireBar (h : Sound s) (c : Cur) (team : Bool) (k : Nat) : Sound (s.retireBar c team k) :=
  Sound.retireSync (Sound.updWarp (h.updWarp _ _) _ _) c

theorem Sound.barOp (h : Sound s) (i : Instr) (wide : Bool) : Kept (barOp i wide s) := by
  refine h.issue fun c w => ?_
  grind [Sound.updWarp, Sound.retireBar, Sound.parkAt]

/-! ### Transfers, loops and exits -/

theorem Sound.branch (h : Sound s) (c : Cur) (k : Xfer) (taken : Bool) (target : DWord) (gs : List Branch) :
    Sound (s.branch c k taken target gs) := by
  unfold State.branch
  grind [Sound.raiseWhole, Sound.retireTransfer]

theorem Sound.condBranch (h : Sound s) (c : Cur) (w : Warp) (m : BitVec 4) (sense : Bool) (f : BitVec 20) :
    Sound (s.condBranch c w m sense f) := h.branch _ _ _ _ _

/-- The states that a BRX can end its reads in are canonical. -/
def Machine.BrxGot.Kept : BrxGot → Prop
  | .hold q => Sound q
  | .bad _ q => Sound q
  | .go _ q => Sound q

theorem Sound.brxRead (h : Sound s) (c : Cur) (w : Warp) (i : Instr) (n a b : Code) : (s.brxRead c w i n a b).Kept := by
  unfold State.brxRead
  extract_lets lanes regs at_ mk out far odd seen
  have hread := h.readLanes c w false 4 (lanes.map (fun l => { lane := l, va := (at_ l).toNat }))
  split_ifs
  iterate 5 exact h
  grind [BrxGot.Kept, ReadNow.Kept]

theorem Sound.lengthAt (h : Sound s) (c : Cur) (w : Warp) (va : Nat) : Sound (s.lengthAt c w va).2 := by
  unfold State.lengthAt
  grind [! Sound.fetchWord]

theorem Sound.enterLoop (h : Sound s) (c : Cur) (w : Warp) (count : Word) (off : BitVec 16) : Sound (s.enterLoop c w count off) := by
  unfold State.enterLoop
  grind [Sound.raiseWhole, ! Sound.lengthAt, Sound.postMiss, Sound.updPath, Sound.raiseAt, Sound.retireTransfer, Sound.retireWith]

theorem Sound.exitLanes (h : Sound s) (c : Cur) (w : Warp) : Sound (s.exitLanes c w) := by
  unfold State.exitLanes
  grind [Sound.endLanes, Sound.finish, Sound.updWarp, Sound.exited]

theorem Sound.formHandle (h : Sound s) (c : Cur) (d : Code) (x : Handle) : Sound (s.formHandle c d x) := by
  unfold State.formHandle
  grind [Sound.raiseWhole, Sound.retireWith]

end Sys2Proof
end

section
/-! ## Family 14: canonical memory through the copy engine -/
namespace Sys2Proof
open Machine
variable {s q : State} {α β : Type}

/-! ### Pieces of an engine's work -/

/-- The state in which a piece of an engine's work ends is canonical. -/
def Machine.EngGot.Kept : EngGot α → Prop
  | .ok _ q => Sound q
  | .cause _ _ q => Sound q
  | .pause _ q => Sound q
  | .wait q => Sound q

theorem Machine.EngGot.Kept.bind {g : EngGot α} {f : α → State → EngGot β} (hg : g.Kept) (hf : ∀ x q, Sound q → (f x q).Kept) :
    (g.bind f).Kept := by
  cases g with
  | ok x q => exact hf x q hg
  | cause c b q => exact hg
  | pause va q => exact hg
  | wait q => exact hg

theorem Sound.engMap (h : Sound s) (xs : List α) {f : α → State → EngGot β} (hf : ∀ x q, Sound q → (f x q).Kept) :
    (engMap xs s f).Kept := by
  induction xs generalizing s with
  | nil => exact h
  | cons x r ih => exact (hf x s h).bind fun _ _ hq => (ih hq).bind fun _ _ hu => hu

theorem Sound.updEng (h : Sound s) (id : Nat) (f : EngOp → EngOp) : Sound (s.updEng id f) := h
theorem Sound.keepSnap (h : Sound s) (id : Nat) (x : Snap) : Sound (s.keepSnap id x) := h
theorem Sound.engDone (h : Sound s) (id : Nat) (bad : List (Nat × Nat)) : Sound (s.engDone id bad) := h
theorem Sound.engDisown (h : Sound s) (id : Nat) (os : List (Place × Nat)) : Sound (s.engDisown id os) := h
theorem Sound.engStop (h : Sound s) (id : Nat) : Sound (s.engStop id) := h
theorem Sound.failRow (h : Sound s) (id k : Nat) : Sound (s.failRow id k) := h

theorem Sound.engHit (h : Sound s) (e : EngOp) (write : Bool) (x : Span) : (s.engHit e write x).Kept := by
  unfold State.engHit
  split
  · split <;> exact h
  · split
    · exact h
    · extract_lets go
      have hgo : ∀ y absent u, Sound u → (go y absent u).Kept := by
        grind [EngGot.Kept, Got.state, ! Sound.cleared]
      clear_value go
      grind [EngGot.Kept, ! Sound.resolveAs]

theorem Sound.engReach (h : Sound s) (id : Nat) (scr : Bool) (x : Hit) : (s.engReach id scr x).Kept := by
  unfold State.engReach
  grind [EngGot.Kept, Sound.wayUsed, Sound.ask, Sound.wakeFor]

theorem Sound.engDenied (h : Sound s) (id : Nat) (e : EngOp) (x : Hit) (va : Nat) : Sound (s.engDenied id e x va) := by
  unfold State.engDenied
  grind [Sound.permEvent, Sound.keepSnap]

theorem Sound.engReadWords (h : Sound s) (id : Nat) (x : Span) : (s.engReadWords id x).Kept := by
  unfold State.engReadWords
  split
  · exact h
  · next e _ =>
    extract_lets off from_ fresh
    have hfresh : (fresh s).Kept := by
      refine (h.engHit e false x).bind fun r q hq => ?_
      dsimp only
      split
      · exact hq.engDenied _ _ _ _
      · split
        · exact hq
        · exact (hq.engReach id x.scr r.1).bind fun _ _ hu => hu
    split
    · exact h
    · exact hfresh

theorem Sound.engReadPiece (h : Sound s) (id : Nat) (x : Span) : (s.engReadPiece id x).Kept := by
  refine (h.engReadWords id x).bind fun r q hq => ?_
  split <;> exact hq

theorem Sound.engRead (h : Sound s) (id : Nat) (x : Span) : (s.engRead id x).Kept :=
  (h.engMap _ fun p _ hq => hq.engReadPiece id p.1).bind fun _ _ hu => hu

theorem Sound.engCheckPiece (h : Sound s) (id : Nat) (e : EngOp) (x : Put) (p : Span × Nat) : (s.engCheckPiece id e x p).Kept := by
  refine (h.engHit e true p.1).bind fun r q hq => ?_
  grind [EngGot.Kept, ! Sound.engReach, Sound.maybePoke]

theorem Sound.engCheck (h : Sound s) (id : Nat) (x : Put) : (s.engCheck id x).Kept := by
  unfold State.engCheck
  split
  · exact h
  · exact h.engMap _ fun p _ hq => hq.engCheckPiece _ _ _ _

theorem Sound.engLand (h : Sound s) (ls : List Landed) : Sound (s.engLand ls) := by
  refine foldl_keeps Sound _ (fun q l hq => ?_) ls s h
  dsimp only
  split
  · exact (hq.poke _ _ _).of_mem rfl
  · exact hq.poke _ _ _

theorem Sound.engStore (h : Sound s) (id : Nat) (xs : List Put) : (s.engStore id xs).Kept :=
  (h.engMap xs fun x _ hq => hq.engCheck id x).bind fun ls _ hq => hq.engLand ls.flatten

theorem Sound.engSift (h : Sound s) (id : Nat) (e : EngOp) (ps : List (Put × Span × Nat)) : (s.engSift id e ps).Kept := by
  induction ps generalizing s with
  | nil => exact h
  | cons y r ih =>
    have hrest : ∀ (l : List Landed) (c : List (Nat × Nat)) (q : State), Sound q →
        ((q.engSift id e r).bind (fun y s => EngGot.ok (l ++ y.1, c ++ y.2) s)).Kept :=
      fun _ _ _ hq => (ih hq).bind fun _ _ hu => hu
    have hpiece := h.engCheckPiece id e y.1 y.2
    unfold State.engSift
    dsimp only
    revert hpiece
    rcases s.engCheckPiece id e y.1 y.2 with _ | _ | _ | _ <;> intro hpiece
    · exact hrest _ _ _ hpiece
    · exact hrest _ _ _ hpiece
    · exact hpiece
    · exact hpiece

theorem Sound.engStoreLines (h : Sound s) (id : Nat) (xs : List Put) : (s.engStoreLines id xs).Kept := by
  unfold State.engStoreLines
  split
  · exact h
  · exact (h.engSift _ _ _).bind fun r _ hq => hq.engLand r.1

/-! ### Tasks: their ends, pauses and arrivals -/

theorem Sound.engPause (h : Sound s) (id va kind sub : Nat) : Sound (s.engPause id va kind sub) := by
  unfold State.engPause
  grind [! Sound.issueTicket, Sound.logOrHold, Sound.updEng]

theorem Sound.engEnd (h : Sound s) (id kind sub : Nat) (os : List (Place × Nat)) {g : EngGot (List (Nat × Nat))} (hg : g.Kept) :
    Sound (s.engEnd id kind sub os g) := by
  cases g with
  | ok bad q => exact Sound.engDone (s := q) hg id bad
  | cause c b q => exact Sound.engDone (s := q) hg id [(c, b)]
  | pause va q => exact Sound.engPause hg _ _ _ _
  | wait q => exact h.waitIn q

theorem Sound.engArrive (h : Sound s) (key off : Nat) (counting : Bool) (bad : Nat) : Sound (s.engArrive key off counting bad).2 := by
  unfold State.engArrive
  grind [Sound.poke]

theorem Sound.engCount (h : Sound s) (id : Nat) : Sound (s.engCount id) := by
  unfold State.engCount
  grind [! Sound.engArrive, Sound.updEng]

/-! ### Posting and completing -/

theorem Sound.drainBefore (h : Sound s) {c : Cur} {w : Warp} {e : EngOp} {os : List (Place × Nat)}
    (hd : s.drainBefore c w e os = some q) : Sound q := h.settle _ hd

theorem Sound.post (h : Sound s) {c : Cur} {w : Warp} {e : EngOp} {os : List (Place × Nat)} {r : Nat × State}
    (hp : s.post c w e os = some r) : Sound r.2 := by
  obtain ⟨u, hu, rfl⟩ := Option.map_eq_some_iff.mp hp
  refine Sound.of_mem (s := os.foldl (fun (s : State) o => match o.1 with
    | .line t n => s.loseStamps (.line t n)
    | _ => s) u) (foldl_keeps Sound _ (fun q o hq => ?_) os u (h.drainBefore hu)) rfl
  split <;> exact hq

theorem Sound.reactivate (h : Sound s) (key id : Nat) : Sound (s.reactivate key id) := by
  unfold State.reactivate
  split
  · exact h
  · split
    · exact Sound.deliverHeld_getD (h.unpark key) _ _ _ (h.unpark key)
    · exact h

theorem Sound.engComplete (h : Sound s) (id : Nat) : Sound (s.engComplete id) := by
  unfold State.engComplete
  split
  · exact h
  · next e _ =>
    have hr := fun f g => Sound.reactivate (s := (s.updEng id f).updWarp e.w g) h e.w id
    dsimp only
    split
    · exact Sound.of_mem (hr _ _) rfl
    · exact hr _ _

theorem Sound.postCopy (h : Sound s) (c : Cur) (w : Warp) (i : Instr) (e : EngOp) (dst : List Span) (yld : BitVec 1) (cont : BitVec 5) :
    Sound (s.postCopy c w i e dst yld cont) := by
  unfold State.postCopy
  split
  · exact h.raiseWhole _ _ _
  · split
    · exact h
    · next r hp =>
      have hr := h.post hp
      split
      · exact hr.retire c
      · exact Sound.updWarp (Sound.finish (hr.updWarp _ _) _ _) _ _

theorem Sound.withHandles (h : Sound s) (c : Cur) (w : Warp) (d a : Code) {f : Handle → Handle → State}
    (hf : ∀ x y, Sound (f x y)) : Sound (s.withHandles c w d a f) := by
  unfold State.withHandles
  split
  · exact hf _ _
  · exact h.raiseWhole _ _ _

/-! ### The tasks of the copy engine -/

theorem Sound.readMoves (h : Sound s) (id : Nat) (hd hs : Handle) (ms : List Move) : (s.readMoves id hd hs ms).Kept := by
  refine h.engMap ms fun m q hq => EngGot.Kept.bind ?_ fun _ _ hu => hu
  split
  · exact hq.engRead _ _
  · exact hq

theorem Sound.copyTask (h : Sound s) (id : Nat) (e : EngOp) (hd hs : Handle) (q c : List Nat) : Sound (s.copyTask id e hd hs q c) :=
  h.engEnd _ _ _ _ ((h.readMoves _ _ _ _).bind fun ps _ hq => hq.engStoreLines id ps)

theorem Sound.rowIndex (h : Sound s) (id : Nat) (e : EngOp) (k : Nat) : (s.rowIndex id e k).Kept := by
  have hlisted : ∀ off, ((s.engRead id { scr := true, addr := off + 4 * k, size := 4, align := 4 }).bind
      (fun bs s => EngGot.ok (natOfBytes bs) s)).Kept := fun _ => (h.engRead _ _).bind fun _ _ hu => hu
  unfold State.rowIndex
  dsimp only
  split
  · exact h
  · exact h
  · exact hlisted _
  · exact hlisted _
  · exact h

theorem Sound.rowPuts (h : Sound s) (id : Nat) (e : EngOp) (gather : Bool) (hd hs : Handle) (q : List Nat) (k : Nat) :
    (s.rowPuts id e gather hd hs q k).Kept := by
  refine (h.rowIndex id e k).bind fun ix u hu => ?_
  split
  · exact hu
  · exact (hu.readMoves _ _ _ _).bind fun ps _ hv => (hv.engMap ps fun p _ hx => hx.engCheck id p).bind fun _ _ hx => hx

theorem Sound.gatherTask (h : Sound s) (id : Nat) (e : EngOp) (hd hs : Handle) (q : List Nat) (n : Nat) :
    Sound (s.gatherTask id e hd hs q n) := by
  unfold State.gatherTask
  split
  · exact h.engDone _ _
  · next k line _ =>
    split
    · exact h.engDone _ _
    · extract_lets g
      have hg : g.Kept := (h.rowPuts id e true hd hs q k).bind fun _ _ hu => hu.engStore _ _
      clear_value g
      grind [EngGot.Kept, Sound.engCount, Sound.engDone, Sound.failRow, Sound.engPause, Sound.waitIn]

theorem Sound.scatterRows (h : Sound s) (id : Nat) (e : EngOp) (hd hs : Handle) (q : List Nat) (ks : List Nat) :
    (s.scatterRows id e hd hs q ks).Kept := by
  induction ks generalizing s with
  | nil => exact h
  | cons k r ih =>
    have hrest : ∀ (rows : List (Nat × List Put)) (bad : List (Nat × Nat × Nat)) (u : State), Sound u →
        ((u.scatterRows id e hd hs q r).bind (fun y s => EngGot.ok (rows ++ y.1, bad ++ y.2) s)).Kept :=
      fun _ _ _ hu => (ih hu).bind fun _ _ hv => hv
    have hrow := h.rowPuts id e false hd hs q k
    unfold State.scatterRows
    dsimp only
    revert hrow
    rcases s.rowPuts id e false hd hs q k with _ | _ | _ | _ <;> intro hrow
    · exact hrest _ _ _ hrow
    · exact hrest _ _ _ hrow
    · exact hrow
    · exact hrow

theorem Sound.failRows (h : Sound s) (id : Nat) (bad : List (Nat × Nat × Nat)) : Sound (s.failRows id bad) :=
  foldl_keeps Sound (fun (s : State) (x : Nat × Nat × Nat) => (s.updEng id (fun e => e.hold x.2.1 x.2.2 s.clock)).failRow id x.1)
    (fun _ _ hq => hq) bad s h

theorem Sound.chooseUnits (h : Sound s) (rows : List (Nat × List Put)) (ordered : Bool) (units : List Nat) :
    Sound (s.chooseUnits rows ordered units).2 := by
  induction units generalizing s with
  | nil => exact h
  | cons u r ih =>
    have hrest : ∀ q, Sound q → Sound (q.chooseUnits rows ordered r).2 := fun _ hq => ih hq
    unfold State.chooseUnits
    grind [Sound.takeFree]

theorem Sound.scatterTask (h : Sound s) (id : Nat) (e : EngOp) (hd hs : Handle) (q : List Nat) (n : Nat) (ordered : Bool) :
    Sound (s.scatterTask id e hd hs q n ordered) := by
  unfold State.scatterTask
  split
  · grind [EngGot.Kept, ! Sound.scatterRows, Sound.failRows, Sound.engDone, Sound.updEng, Sound.engPause, Sound.waitIn]
  · extract_lets g
    have hg : g.Kept := by
      refine (h.scatterRows _ _ _ _ _ _).bind fun r u hu => ?_
      split
      · exact hu
      · exact ((hu.chooseUnits _ _ _).engStore _ _).bind fun _ _ hv => hv
    clear_value g
    grind [EngGot.Kept, Sound.failRows, Sound.engDone, Sound.engDisown, Sound.engPause, Sound.waitIn]

/-! ### Split tiles -/

theorem Sound.readRegion (h : Sound s) (id : Nat) (x : Handle) (c : List Nat) : (s.readRegion id x c).Kept := by
  refine h.engMap _ fun i q hq => ?_
  split
  · exact (hq.engRead _ _).bind fun _ _ hu => hu
  · exact hq

theorem Sound.takeSpill (h : Sound s) (id : Nat) (aux n : Nat) : (s.takeSpill id aux n).Kept := by
  unfold State.takeSpill
  split
  · exact h
  · refine (h.engHit _ _ _).bind fun r q hq => (hq.engReach _ _ _).bind fun _ u hu => ?_
    grind [EngGot.Kept]

theorem Sound.tsplitTile (h : Sound s) (id : Nat) (hd hs : Handle) (q c o : List Nat) : (s.tsplitTile id hd hs q c o).Kept := by
  refine (h.readRegion _ _ _).bind fun bits u hu => ?_
  dsimp only
  split
  · exact hu
  · split
    · split
      · exact hu.engStoreLines _ _
      · refine (hu.takeSpill _ _ _).bind fun r v hv => ?_
        split
        · exact hv
        · exact hv.engStoreLines _ _
    · exact hu

theorem Sound.listHeader (h : Sound s) (id q2 : Nat) (g : Gathering) : Sound (s.listHeader id q2 g) := by
  unfold State.listHeader
  grind [EngGot.Kept, ! Sound.engStore, Sound.updEng]

end Sys2Proof
end

section
/-! ## Family 14: canonical memory through launches, context registers and RESUME -/
namespace Sys2Proof
open Machine
variable {s q : State}

/-! ### LAUNCH -/

theorem Sound.launchClearance (h : Sound s) (c : Cur) (w : Warp) (asid : Nat) (clr : Option DWord) (named : Bool) :
    Sound (s.launchClearance c w asid clr named).state := by
  unfold State.launchClearance
  grind [Got.state, ! Sound.bitmapLoads, ! Sound.readBitmap]

theorem Sound.enqueue (h : Sound s) (c : Cur) (w : Warp) (d : Code) (l : Launch) (tagged : Bool) :
    Sound (s.enqueue c w d l tagged) := by
  unfold State.enqueue
  dsimp only
  refine Sound.retireWith ?_ _ _
  exact h

/-- Where a LAUNCH ends in a state, memory is canonical there. -/
def Machine.LaunchGot.Kept : LaunchGot → Prop
  | .wait q => Sound q
  | .full => True
  | .done q => Sound q

theorem Sound.launchRecord (h : Sound s) (c : Cur) (w : Warp) (d : Code) (r : List Byte) : (s.launchRecord c w d r).Kept := by
  unfold State.launchRecord
  extract_lets inherit asid principal die cad named clr header
  split
  · exact h.raiseWhole _ _ _
  · have hclr := h.launchClearance c w asid named (cad != 0)
    revert hclr
    rcases s.launchClearance c w asid named (cad != 0) with ⟨tagged, q⟩ | ⟨k, b, q⟩ | q <;> intro hq
    · dsimp only
      have hload := Sound.loadNow (s := q) hq { (w.who c.w c.p) with asid := asid, principal := principal, clr := clr } header 256
      revert hload
      rcases q.loadNow { (w.who c.w c.p) with asid := asid, principal := principal, clr := clr } header 256 with
        ⟨x, u⟩ | ⟨k, b, u⟩ | u <;> intro hu
      · have hu := Sound.permEvents (s := u) hu { (w.who c.w c.p) with asid := asid, principal := principal, clr := clr } false x.2 0
          (w.path c.p).mask
        dsimp only
        split
        · exact hu.raiseWhole _ _ _
        · grind [LaunchGot.Kept, Sound.raiseWhole, Sound.enqueue]
      · exact Sound.raiseAt hu _ _ _ _
      · exact hu
    · exact Sound.raiseAt hq _ _ _ _
    · exact hq

theorem Sound.launchTry (h : Sound s) (c : Cur) (w : Warp) (d a : Code) : (s.launchTry c w d a).Kept := by
  unfold State.launchTry
  extract_lets x
  have hread := h.readLanes c w true 16 (unitAddrs x.toNat 16 8)
  grind [LaunchGot.Kept, ReadNow.Kept, Sound.raiseAt, Sound.raiseWhole, Sound.raiseOnce, Sound.launchRecord]

theorem Sound.enqueueTry (h : Sound s) {key : Nat} (e : s.enqueueTry key = some q) : Sound q := by
  unfold State.enqueueTry at e
  grind [LaunchGot.Kept, ! Sound.launchTry, Sound.unpark]

/-! ### The distributors -/

theorem Sound.distTicket (h : Sound s) (l : Launch) : Sound (s.distTicket l).2 := h
theorem Sound.updDep (h : Sound s) (id k : Nat) (f : Dep → Dep) : Sound (s.updDep id k f) := h
theorem Sound.distLog (h : Sound s) (l : Launch) (code va : Nat) : Sound (s.distLog l code va) := Sound.logOrHold (h.distTicket l) _

theorem Sound.depTry (h : Sound s) {id k : Nat} (e : s.depTry id k = some q) : Sound q := by
  unfold State.depTry at e
  grind [Got.state, ! Sound.resolveRead, Sound.distLog, Sound.updDep, → Sound.newWait, Sound.permEvent, Sound.updLaunch]

theorem Sound.startGroup (h : Sound s) (id team wg : Nat) (l : Launch) (g : Group) : Sound (s.startGroup id team wg l g) := by
  refine foldl_keeps Sound _ (fun q w hq => ?_) _ s h
  split
  · exact hq
  · exact hq.of_mem rfl

theorem Sound.placeTeam (h : Sound s) {id : Nat} {l : Launch} {index : Nat} (e : s.placeTeam id l index = some q) : Sound q := by
  unfold State.placeTeam at e
  dsimp only at e
  split at e
  · cases e
  · cases e
    exact foldl_keeps Sound _ (fun _ g hq => hq.startGroup _ _ g.1 _ g.2) _ _ (Sound.of_mem h rfl)

theorem Sound.placeTeams (h : Sound s) {id : Nat} {l : Launch} {is : List Nat} (e : s.placeTeams id l is = some q) : Sound q := by
  induction is generalizing s with
  | nil => cases e; exact h
  | cons i r ih =>
    obtain ⟨u, hu, hr⟩ := Option.bind_eq_some_iff.mp e
    exact ih (h.placeTeam hu) hr

theorem Sound.orReclaim (h : Sound s) {old : State} (ho : Sound old) (l : Launch) : Sound (s.orReclaim old l) := by
  unfold State.orReclaim
  split
  · exact h
  · exact foldl_keeps Sound _ (fun _ _ hq => hq.updCore _ _) _ _ (Sound.of_mem ho rfl)

theorem Sound.admitTry (h : Sound s) {die : Nat} (e : s.admitTry die = some q) : Sound q := by
  unfold State.admitTry at e
  grind [→ Sound.placeTeams, Sound.updLaunch, Sound.orReclaim]

theorem Sound.completionAction (h : Sound s) (l : Launch) : Sound (s.completionAction l).2 := by
  unfold State.completionAction
  grind [Got.state, ! Sound.resolveWrite, Sound.distLog, Sound.maybePoke, Sound.poke, Sound]

theorem Sound.finishLaunch (h : Sound s) (id : Nat) : Sound (s.finishLaunch id) := by
  unfold State.finishLaunch
  grind [Sound, ! Sound.completionAction, Sound.updLaunch]

theorem Sound.finishLaunches (h : Sound s) : Sound s.finishLaunches :=
  foldl_keeps Sound _ (fun _ e hq => hq.finishLaunch e.1) _ s h

theorem Sound.releaseTeam (h : Sound s) (team : Nat) (t : Team) : Sound (s.releaseTeam team t) :=
  foldl_keeps Sound _ (fun _ _ hq => hq.updCore _ _) t.groups _ (Sound.of_mem h rfl)

theorem Sound.teamTry (h : Sound s) {team : Nat} (e : s.teamTry team = some q) : Sound q := by
  unfold State.teamTry at e
  grind [Sound.releaseTeam, Sound.updLaunch, Sound.finishLaunch]

theorem Sound.retryLaunches (h : Sound s) (die : Nat) : Sound (s.retryLaunches die) := Sound.finishLaunches (Sound.of_mem h rfl)

theorem Sound.retryLog (h : Sound s) : Sound s.retryLog := h

theorem Sound.heldLogTry (h : Sound s) (e : s.heldLogTry = some q) : Sound q := by
  unfold State.heldLogTry at e
  grind [Sound, ! Sound.appendFault]

/-! ### Context registers, halts and RESUME -/

theorem Sound.mtsrWith (h : Sound s) (i : Instr) (sel : Nat) (wide : Bool) (a b : Code) {act : State → Cur → Warp → Nat → DWord → State}
    (ha : ∀ c w n x, Sound (act s c w n x)) : Kept (mtsrWith i sel wide a b act s) := by
  refine h.issue fun c w => ?_
  dsimp only
  split
  · exact h.raiseWhole _ _ _
  · exact ha _ _ _ _

theorem Sound.setHold (h : Sound s) (asid : Nat) (hold : Bool) : Sound (s.setHold asid hold) := by
  refine foldl_keeps Sound _ (fun q e hq => ?_) _ s h
  grind [Sound.updWarp]

theorem Sound.wake (h : Sound s) (b : Block) : Sound (s.wake b) := h
theorem Sound.touch (h : Sound s) (b : Block) : Sound (s.touch b) := h

theorem Sound.haltWarp (h : Sound s) (key : Nat) : Sound (s.haltWarp key) := by
  unfold State.haltWarp
  split
  · exact h
  · dsimp only
    split
    · exact h.wake _
    · split
      · exact h.of_mem rfl
      · exact Sound.updWarp (Sound.logOrHold ((h.wake _).issueTicket _ _ _ _) _) _ _

theorem Sound.haltDue (h : Sound s) : Sound s.haltDue := by
  refine foldl_keeps Sound _ (fun q e hq => ?_) _ s h
  split
  · exact hq.haltWarp _
  · exact hq

theorem Sound.unhaltWarp (h : Sound s) (key : Nat) : Sound (s.unhaltWarp key) := by
  unfold State.unhaltWarp
  dsimp only
  split
  · exact h.of_mem rfl
  · exact h.of_mem rfl

theorem Sound.bindBins (h : Sound s) (b : Option Bins) : Sound (s.bindBins b) := h
theorem Sound.beginStage3 (h : Sound s) : Sound s.beginStage3 := h

theorem Sound.passDebug (h : Sound s) (key p : Nat) (x : Cause) (pc : DWord) (len : Nat) : Sound (s.passDebug key p x pc len) := by
  unfold State.passDebug
  grind [Sound.retire, Sound.updPath]

theorem Sound.yieldAgain (h : Sound s) (key : Nat) : Sound (s.yieldAgain key) := by
  unfold State.yieldAgain
  split
  · exact h
  · dsimp only
    split
    · exact h.updWarp _ _
    · exact h.deliverHeld_getD _ _ _ h

theorem Sound.replayWarp (h : Sound s) (key : Nat) (c : Cur) (x : Cause) (replay : Mask) : Sound (s.replayWarp key c x replay) := by
  unfold State.replayWarp
  grind [Sound.updWarp, Sound.yieldAgain, Sound.passDebug, Sound.stepStop]

theorem Sound.resumeTicket (h : Sound s) {ticket : Nat} {deliver : Bool} (e : s.resumeTicket ticket deliver = some q) : Sound q := by
  unfold State.resumeTicket at e
  split at e
  · cases e
  · next what _ =>
    have hd := h.dropTicket ticket
    dsimp only at e
    cases what with
    | warp key => grind [Sound.updWarp, Sound.wake, Sound.routeH, Sound.replayWarp]
    | path key p => grind [Sound.updPath, Sound.routeH, Sound.passDebug]
    | engine k => grind [Sound]
    | distributor n => cases e

theorem Sound.resumeOp (h : Sound s) (i : Instr) (deliver : Bool) (d a : Code) : Kept (resumeOp i deliver d a s) := by
  refine h.issue fun c w => ?_
  grind [→ Sound.resumeTicket, Sound.retireWith]

theorem Sound.terminateWarp (h : Sound s) (key : Nat) : Sound (s.terminateWarp key) := h

theorem Sound.terminate (h : Sound s) (asid : Nat) : Sound (s.terminate asid) :=
  foldl_keeps Sound _ (fun _ l hq => ((hq.distLog l.2 0x5F 0).updLaunch l.1 _).finishLaunch l.1) _ _
    (foldl_keeps Sound _ (fun _ (e : Nat × Warp) hq => hq.terminateWarp e.1) _ s h)

end Sys2Proof
end

section
/-! ## Family 14: canonical memory through saves, remote accesses and hash tables -/
namespace Sys2Proof
open Machine
variable {s q : State}

/-! ### Save and restore -/

/-- The states that a read of the safe-point table can end in are canonical. -/
def Machine.SafeEntry.Kept : SafeEntry → Prop
  | .entry _ _ q => Sound q
  | .cause _ _ _ q => Sound q
  | .wait q => Sound q

/-- Where a step of save or restore ends in a state, memory is canonical there. -/
def Machine.SaveGot.Kept : SaveGot → Prop
  | .done q => Sound q
  | .empty => True
  | .cause _ _ _ q => Sound q
  | .wait q => Sound q

theorem Sound.safeEntry (h : Sound s) (who : Who) (l : Launch) (k : Nat) (lanes : Mask) : (s.safeEntry who l k lanes).Kept := by
  unfold State.safeEntry
  grind [SafeEntry.Kept, Got.state, ! Sound.loadNow, Sound.permEvents]

theorem Sound.recordBase (h : Sound s) (who : Who) : Sound (s.recordBase who).state := by
  unfold State.recordBase
  grind [Got.state, ! Sound.loadNow, Sound.permEvents]

theorem Sound.atomWord (h : Sound s) (who : Who) (va : Nat) : Sound (s.atomWord who va).state := by
  unfold State.atomWord
  grind [Got.state, ! Sound.resolveWrite]

theorem Sound.takeRecord (h : Sound s) (who : Who) (team : Nat) : (s.takeRecord who team).Kept := by
  have hput : ∀ (q : State) (x : Hit) (bs : List Byte) (f : Team → Team), Sound q → Sound ((q.poke x.place x.off bs).updTeam team f) :=
    fun q x bs _ hq => Sound.poke hq x.place x.off bs
  unfold State.takeRecord
  grind [SaveGot.Kept, Got.state, ! Sound.atomWord]

theorem Sound.returnRecord (h : Sound s) (who : Who) (r : Nat) : (s.returnRecord who r).Kept := by
  unfold State.returnRecord
  grind [SaveGot.Kept, Got.state, ! Sound.atomWord, ! Sound.resolveWrite, Sound.maybePoke, Sound.poke]

theorem Sound.putRecord (h : Sound s) (who : Who) (r off : Nat) (bs : List Byte) : (s.putRecord who r off bs).Kept := by
  unfold State.putRecord
  grind [SaveGot.Kept, Got.state, ! Sound.recordBase, ! Sound.storeNow]

theorem Sound.updTeam (h : Sound s) (t : Nat) (f : Team → Team) : Sound (s.updTeam t f) := h

theorem Sound.enterSave (h : Sound s) (key : Nat) (w : Warp) (p k save : Nat) (pc : DWord) (stack : List LoopEntry) (retired : DWord) :
    (s.enterSave key w p k save pc stack retired).Kept := by
  unfold State.enterSave
  extract_lets who first
  have hfirst : first.Kept := by
    grind [SaveGot.Kept, ! Sound.takeRecord]
  clear_value first
  grind [SaveGot.Kept, ! Sound.putRecord, Sound.updTeam, Sound.updWarp]

theorem Sound.saveCause (h : Sound s) (c : Cur) (code sub va : Nat) : Sound (s.saveCause c code sub va) := by
  unfold State.saveCause
  grind [Sound.updWarp, Sound.raiseAt, Sound.stopWarp]

theorem Sound.saveParked (h : Sound s) (key : Nat) (w : Warp) : Sound (s.saveParked key w) := by
  unfold State.saveParked
  grind [SafeEntry.Kept, SaveGot.Kept, ! Sound.safeEntry, ! Sound.enterSave, Sound.saveCause, Sound.waitIn]

theorem Sound.saveAllParked (h : Sound s) : Sound s.saveAllParked := by
  refine foldl_keeps Sound _ (fun q e hq => ?_) _ s h
  split
  · exact hq.saveParked _ _
  · exact hq

theorem Sound.putExited (h : Sound s) (who : Who) (r team : Nat) (l : Launch) (ks : List (Nat × Nat)) :
    (s.putExited who r team l ks).Kept := by
  induction ks generalizing s with
  | nil => exact h
  | cons k rest ih =>
    have hrest : ∀ q, Sound q → (q.putExited who r team l rest).Kept := fun _ hq => ih hq
    unfold State.putExited
    grind [SaveGot.Kept, ! Sound.putRecord]

theorem Sound.saveTeam (h : Sound s) (key p : Nat) (w : Warp) : (s.saveTeam key p w).Kept := by
  unfold State.saveTeam
  split
  · next t l _ _ =>
    split
    · trivial
    · next r _ =>
      extract_lets who all
      have hexited := h.putExited who r w.team l all
      revert hexited
      rcases s.putExited who r w.team l all with q | _ | ⟨c, b, va, q⟩ | q <;> intro hq
      · have hput := Sound.putRecord hq who r 0 (l.savedHeader t.index)
        dsimp only
        revert hput
        rcases q.putRecord who r 0 (l.savedHeader t.index) with u | _ | ⟨c, b, va, u⟩ | u <;> intro hu
        · exact (Sound.releaseTeam hu w.team t).of_mem rfl
        · exact hu
        · exact hu
        · exact hu
      · exact hq
      · exact hq
      · exact hq
  · trivial

theorem Sound.saveStop (h : Sound s) (c : Cur) (sub : Nat) : Sound (s.saveStop c sub) := h.stopWarp _ _ _ _

theorem Sound.endSave (h : Sound s) (c : Cur) (w : Warp) (k entry : Nat) : Sound (s.endSave c w k entry) := by
  unfold State.endSave
  grind [SaveGot.Kept, Sound.saveStop, → Sound.deliverHeld, ! Sound.saveTeam, Sound.saveCause, Sound.waitIn, Sound.updWarp,
    Sound.stepStop]

theorem Sound.saveTeamsDue (h : Sound s) : Sound s.saveTeamsDue := by
  refine foldl_keeps Sound _ (fun q e hq => ?_) _ s h
  grind [SaveGot.Kept, Sound.saveStop, ! Sound.saveTeam, Sound.saveCause, Sound.waitIn]

theorem Sound.endRestore (h : Sound s) (c : Cur) (w : Warp) (k entry : Nat) (pc : DWord) (mode : BitVec 16) (stack : List LoopEntry)
    (jp : Option DWord) : Sound (s.endRestore c w k entry pc mode stack jp) := by
  unfold State.endRestore
  grind [Sound.saveStop, → Sound.deliverHeld, Sound.updWarp, Sound.stepStop]

theorem Sound.safeNop (h : Sound s) (c : Cur) (w : Warp) (k : Nat) : Sound (s.safeNop c w k) := by
  unfold State.safeNop
  grind [Sound.updWarp, Sound.finish]

theorem Sound.safeRunning (h : Sound s) (c : Cur) (w : Warp) (k save : Nat) : Sound (s.safeRunning c w k save) := by
  unfold State.safeRunning
  grind [SaveGot.Kept, ! Sound.enterSave, Sound.updWarp, Sound.stepStop, Sound.safeNop, Sound.saveCause, Sound.waitIn]

theorem Sound.enterClearance (h : Sound s) (core t : Nat) (a : DWord) (bits : Nat) : Sound (s.enterClearance core t a bits) := h

theorem Sound.rereadClearance (h : Sound s) (l : Launch) (key : Nat) : (s.rereadClearance l key).Kept := by
  unfold State.rereadClearance
  grind [SaveGot.Kept, Got.state, ! Sound.readBitmap, Sound.enterClearance]

theorem Sound.restoreWarp (h : Sound s) (l : Launch) (r key wg i syncs : Nat) : (s.restoreWarp l r key wg i syncs).Kept := by
  have hrestored : ∀ (q : State) (es : List (Nat × Nat)) (f : Warp → Warp), Sound q →
      (((q.permEvents l.who true es 0 0).updWarp key f).rereadClearance l key).Kept :=
    fun q es f hq => Sound.rereadClearance (Sound.updWarp (hq.permEvents _ _ _ _ _) key f) l key
  unfold State.restoreWarp
  grind [SaveGot.Kept, SafeEntry.Kept, Got.state, Sound, ! Sound.recordBase, ! Sound.loadNow, ! Sound.safeEntry]

theorem Sound.restoreWarps (h : Sound s) (l : Launch) (r : Nat) (counts : List Nat) (ps : List (Nat × Nat × Nat)) :
    (s.restoreWarps l r counts ps).Kept := by
  induction ps generalizing s with
  | nil => exact h
  | cons p rest ih =>
    have hrest : ∀ q, Sound q → (q.restoreWarps l r counts rest).Kept := fun _ hq => ih hq
    unfold State.restoreWarps
    grind [SaveGot.Kept, ! Sound.restoreWarp]

theorem Sound.restoreTeams (h : Sound s) (id : Nat) (l : Launch) (ts : List (Nat × Nat)) : (s.restoreTeams id l ts).Kept := by
  induction ts generalizing s with
  | nil => exact h
  | cons t rest ih =>
    have hrest : ∀ q, Sound q → (q.restoreTeams id l rest).Kept := fun _ hq => ih hq
    unfold State.restoreTeams
    grind [SaveGot.Kept, ! Sound.restoreWarps, ! Sound.returnRecord]

theorem Sound.readmitTry (h : Sound s) {die : Nat} (e : s.readmitTry die = some q) : Sound q := by
  unfold State.readmitTry at e
  grind [SaveGot.Kept, → Sound.placeTeams, Sound.orReclaim, ! Sound.restoreTeams, Sound.updLaunch, Sound.distLog, → Sound.newWait]

/-! ### Remote accesses -/

theorem Sound.dropAccess (h : Sound s) (k : Nat) (a : Access) : Sound (s.dropAccess k a) := h

theorem Sound.maybePerform (h : Sound s) (k : Nat) (a : Access) : Sound (s.maybePerform k a) := by
  unfold State.maybePerform
  grind [Sound.dropAccess, Sound.takeFree, Sound.perform]

theorem Sound.remoteOne (h : Sound s) (us : List (Nat × Access)) : Sound (s.remoteOne us).2 := by
  unfold State.remoteOne
  dsimp only
  split
  · exact foldl_keeps Sound _ (fun _ _ hq => hq.maybePerform _ _) us s h
  · split
    · exact foldl_keeps Sound _ (fun _ _ hq => hq.dropAccess _ _) us s h
    · split
      · exact foldl_keeps Sound _ (fun _ _ hq => hq.dropAccess _ _) us s h
      · exact foldl_keeps Sound _ (fun _ _ hq => hq.perform _ _) us s h

theorem Sound.deliverLate (h : Sound s) (key : Nat) (once : Bool) (met : List LaneCause) : Sound (s.deliverLate key once met) := by
  unfold State.deliverLate
  grind [Sound.updWarp, Sound.routeH]

theorem Sound.remoteDone (h : Sound s) (a : Access) (met : List LaneCause) : Sound (s.remoteDone a met) := by
  unfold State.remoteDone
  grind [Sound, Sound.updPath, Sound.raise, Sound.retireSync, Sound.retire, Sound.deliverLate]

theorem Sound.loseResponse (h : Sound s) (k : Nat) (a : Access) (code : Nat) : Sound (s.loseResponse k a code) :=
  (h.maybePerform k a).remoteDone a _

/-! ### Soft errors -/

theorem Sound.countSoft (h : Sound s) (core : Nat) : Sound (s.countSoft core) := h

theorem Sound.strike (h : Sound s) (x : Site) : Sound (s.strike x) := by
  cases x <;> exact h

/-! ### The hash table -/

/-- The state in which an access to a spill area ends is canonical. -/
def Machine.SpillGot.Kept {α : Type} : SpillGot α → Prop
  | .ok _ q => Sound q
  | .cause _ _ _ q => Sound q
  | .denied _ _ q => Sound q
  | .wait q => Sound q

theorem Machine.SpillGot.Kept.bind {α β : Type} {g : SpillGot α} {f : α → State → SpillGot β} (hg : g.Kept)
    (hf : ∀ x q, Sound q → (f x q).Kept) : (g.bind f).Kept := by
  cases g with
  | ok x q => exact hf x q hg
  | cause k b v q => exact hg
  | denied t v q => exact hg
  | wait q => exact hg

theorem Sound.updClaim (h : Sound s) (w : Warp) (id : Nat) (f : Claim → Claim) : Sound (s.updClaim w id f) := h

theorem Sound.spillHit (h : Sound s) (c : Cur) (w : Warp) (va n : Nat) (bs : List Byte) (writes : Bool) :
    (s.spillHit c w va n bs writes).Kept := by
  unfold State.spillHit
  extract_lets who go
  have hgo : ∀ y absent u, Sound u → (go y absent u).Kept := by
    intro y absent u hu
    have hc := hu.cleared who.core who.asid who.team who.clr y.tag
    simp only [go]
    split
    · exact hu
    · grind [SpillGot.Kept, Got.state, Sound.wayUsed, Sound.maybePoke, Sound.ask, Sound.wakeFor]
  clear_value go
  grind [SpillGot.Kept, ! Sound.resolve]

theorem Sound.scramble (h : Sound s) (a : Access) (p : Part) (bs : List Byte) : Sound (s.scramble a p bs).2 := h.of_mem (by simp)
theorem Sound.scrambleWrite (h : Sound s) (a : Access) (p : Part) (bs : List Byte) : Sound (s.scrambleWrite a p bs).2 :=
  h.of_mem (by simp)
theorem Sound.recordPart (h : Sound s) (a : Access) (p : Part) : Sound (s.recordPart a p) := h.of_mem (by simp)

theorem Sound.spillRead (h : Sound s) (c : Cur) (w : Warp) (va n : Nat) : (s.spillRead c w va n).Kept := by
  refine (h.spillHit c w va n [] false).bind fun x q hq => ?_
  grind [SpillGot.Kept, → Sound.settleFor, ! Sound.scramble, Sound.recordPart, Sound.performed]

theorem Sound.spillPut (h : Sound s) (c : Cur) (w : Warp) (va : Nat) (bs : List Byte) : (s.spillPut c w va bs).Kept := by
  refine (h.spillHit c w va bs.length bs true).bind fun x q hq => ?_
  grind [SpillGot.Kept, → Sound.settleFor, ! Sound.scrambleWrite, Sound.recordPart, Sound.poke, Sound.performed]

theorem Sound.spillWrite (h : Sound s) (c : Cur) (w : Warp) (va : Nat) (bs : List Byte) : (s.spillWrite c w va bs).Kept := by
  refine (h.spillPut c w va _).bind fun _ q hq => ?_
  split
  · exact hq
  · exact hq.spillPut _ _ _ _

theorem Sound.spillCursor (h : Sound s) (c : Cur) (w : Warp) (base : Nat) : (s.spillCursor c w base).Kept := h.spillRead c w base 4

theorem Sound.spillFind (h : Sound s) (c : Cur) (w : Warp) (base : Nat) (key : DWord) (n j : Nat) :
    (s.spillFind c w base key n j).Kept := by
  induction n generalizing s j with
  | zero => exact h
  | succ n ih =>
    refine (h.spillRead _ _ _ _).bind fun k q hq => ?_
    split
    · exact hq
    · exact ih hq _

theorem Sound.findKey (h : Sound s) (c : Cur) (w : Warp) (cl : Claim) (key : DWord) : (s.findKey c w cl key).Kept := by
  unfold State.findKey
  split
  · exact h
  · split
    · exact h
    · exact (h.spillCursor _ _ _).bind fun _ _ hq => (hq.spillFind _ _ _ _ _ _).bind fun _ _ hu => hu

theorem Sound.insertKey (h : Sound s) (c : Cur) (w : Warp) (id : Nat) (cl : Claim) (key x : DWord) :
    (s.insertKey c w id cl key x).Kept := by
  unfold State.insertKey
  split
  · exact h.updClaim _ _ _
  · split
    · exact h
    · refine (h.spillCursor _ _ _).bind fun n q hq => ?_
      split
      · exact hq
      · exact (hq.spillWrite _ _ _ _).bind fun _ _ hu => (hu.spillWrite _ _ _ _).bind fun _ _ hv => hv

theorem Sound.keyValue (h : Sound s) (c : Cur) (w : Warp) (cl : Claim) (k : KeyAt) : (s.keyValue c w cl k).Kept := by
  cases k with
  | bucket e => exact h
  | spill j => exact (h.spillRead _ _ _ _).bind fun _ _ hq => hq
  | absent => exact h

theorem Sound.setKeyValue (h : Sound s) (c : Cur) (w : Warp) (id : Nat) (cl : Claim) (k : KeyAt) (key x : DWord) :
    (s.setKeyValue c w id cl k key x).Kept := by
  cases k with
  | bucket e => exact h.updClaim _ _ _
  | spill j => exact h.spillWrite _ _ _ _
  | absent => exact h

theorem Sound.emptyEntry (h : Sound s) (c : Cur) (w : Warp) (id : Nat) (cl : Claim) (k : KeyAt) : (s.emptyEntry c w id cl k).Kept := by
  cases k with
  | bucket e => exact h.updClaim _ _ _
  | spill j => exact h.spillWrite _ _ _ _
  | absent => exact h

theorem Sound.openClaim (h : Sound s) (c : Cur) (w : Warp) (d : Code) (id b : Nat) (spill : Option DWord) (capacity : Nat) :
    Sound (s.openClaim c w d id b spill capacity) := Sound.retire (Sound.updWarp (h.updGroup _ _ _) _ _) c

theorem Sound.hashInsert (h : Sound s) (c : Cur) (w : Warp) (id : Nat) (cl : Claim) (key x : DWord) :
    (s.hashInsert c w id cl key x).Kept := by
  refine (h.findKey c w cl key).bind fun k q hq => ?_
  split
  · exact (hq.insertKey _ _ _ _ _ _).bind fun _ _ hu => hu
  · exact hq

theorem Sound.hashProbe (h : Sound s) (c : Cur) (w : Warp) (cl : Claim) (key : DWord) : (s.hashProbe c w cl key).Kept := by
  refine (h.findKey c w cl key).bind fun k q hq => ?_
  split
  · exact hq
  · exact (hq.keyValue _ _ _ _).bind fun _ _ hu => hu

theorem Sound.hashDelete (h : Sound s) (c : Cur) (w : Warp) (id : Nat) (cl : Claim) (key : DWord) : (s.hashDelete c w id cl key).Kept := by
  refine (h.findKey c w cl key).bind fun k q hq => ?_
  split
  · exact hq
  · exact (hq.emptyEntry _ _ _ _ _).bind fun _ _ hu => hu

theorem Sound.hashAccumulate (h : Sound s) (c : Cur) (w : Warp) (id : Nat) (cl : Claim) (op : BitVec 4) (ty : BitVec 2) (key x : DWord) :
    (s.hashAccumulate c w id cl op ty key x).Kept := by
  refine (h.findKey c w cl key).bind fun k q hq => ?_
  split
  · exact (hq.insertKey _ _ _ _ _ _).bind fun _ _ hu => hu
  · exact (hq.keyValue _ _ _ _).bind fun _ _ hu => (hu.setKeyValue _ _ _ _ _ _ _).bind fun _ _ hv => hv

/-- The state in which a run over key groups ends is canonical. -/
def Machine.KeyEnd.Kept : KeyEnd → Prop
  | .wait q => Sound q
  | .ok r => Sound r.s

theorem Machine.KeyRun.kept {w : Warp} {id : Nat} {f : State → Claim → KeyGroup → SpillGot KeyResult}
    (hf : ∀ q cl g, Sound q → (f q cl g).Kept) {r : KeyRun} (h : Sound r.s) (gs : List KeyGroup) (n : Nat) :
    (runKeys w id f gs n r).Kept := by
  induction gs generalizing n r with
  | nil => exact h
  | cons g rest ih =>
    have hrest : ∀ (n : Nat) (r : KeyRun), Sound r.s → (runKeys w id f rest n r).Kept := fun n _ hr => ih hr n
    unfold runKeys
    split
    · exact h
    · next cl _ =>
      have hg := hf r.s cl g h
      dsimp only
      revert hg
      rcases f r.s cl g with _ | _ | _ | _ <;> intro hg
      · exact hrest _ _ hg
      · exact hrest _ _ hg
      · exact hrest _ _ hg
      · exact hg

theorem Sound.logRun (h : Sound s) (c : Cur) (w : Warp) (once : Bool) (ds : List (Nat × Nat × Mask)) : Sound (s.logRun c w once ds) :=
  foldl_keeps Sound _ (fun _ _ hq => hq.permEvent _ _ _ _ _ _) _ s h

theorem Sound.keyedOp (h : Sound s) (i : Instr) (pf : Option Prefix) (d a b : Code) (quad : Bool)
    {f : Cur → Warp → Nat → State → Claim → KeyGroup → SpillGot KeyResult} (hf : ∀ c w id q cl g, Sound q → (f c w id q cl g).Kept) :
    Kept (keyedOp i pf d a b quad s f) := by
  refine h.issue fun c w => ?_
  extract_lets once id on regs good reserved keyed gs early run put put1
  split
  · exact h.raiseWhole _ _ _
  · split
    · exact h
    · next u hu =>
      have hrun : (runKeys w id run gs 2 { results := [], causes := early, s := u }).Kept :=
        KeyRun.kept (fun _ _ _ hq => hf _ _ _ _ _ _ hq) (h.settleFor _ hu) gs 2
      revert hrun
      rcases runKeys w id run gs 2 { results := [], causes := early, s := u } with t | r <;> intro hr
      · exact h.waitIn _
      · have hwritten := fun x => Sound.logRun (Sound.setWarp (s := r.s) hr c.w x) c w once r.denied
        dsimp only
        split
        · exact (hwritten _).retire c
        · exact (hwritten _).raise _ _ _

theorem Sound.spillEntries (h : Sound s) (c : Cur) (w : Warp) (base n j : Nat) : (s.spillEntries c w base n j).Kept := by
  induction n generalizing s j with
  | zero => exact h
  | succ n ih =>
    exact (h.spillRead _ _ _ _).bind fun _ _ hq => (hq.spillRead _ _ _ _).bind fun _ _ hu => (ih hu _).bind fun _ _ hv => hv

theorem Sound.claimEntries (h : Sound s) (c : Cur) (w : Warp) (cl : Claim) : (s.claimEntries c w cl).Kept := by
  unfold State.claimEntries
  split
  · exact h
  · exact (h.spillCursor _ _ _).bind fun _ _ hq => (hq.spillEntries _ _ _ _ _).bind fun _ _ hu => hu

end Sys2Proof
end

section
/-! ## Family 14: canonical memory through the index engine, the matrix unit and the caches -/
namespace Sys2Proof
open Machine
variable {s q : State}

/-! ### The index engine -/

theorem Sound.indexLine (h : Sound s) (id addr : Nat) : (s.indexLine id addr).Kept := h.engRead _ _

theorem Sound.poolHead (h : Sound s) (id : Nat) (x : Index) : (s.poolHead id x).Kept := by
  unfold State.poolHead
  split
  · exact h
  · exact (h.engRead _ _).bind fun _ _ hq => hq

theorem Sound.lastLine (h : Sound s) (id : Nat) (x : Index) (cap more addr : Nat) : (s.lastLine id x cap more addr).Kept := by
  induction more generalizing s addr with
  | zero =>
    refine (h.indexLine id addr).bind fun bs q hq => ?_
    split <;> exact hq
  | succ n ih =>
    refine (h.indexLine id addr).bind fun bs q hq => ?_
    split
    · exact hq
    · split
      · exact hq
      · exact ih hq _

theorem Sound.chainEnd (h : Sound s) (id : Nat) (x : Index) (sig : Nat) : (s.chainEnd id x sig).Kept := by
  refine (h.indexLine id _).bind fun bs q hq => ?_
  split
  · exact hq.lastLine _ _ _ _ _
  · exact (hq.poolHead id x).bind fun p _ hu => hu.lastLine _ _ _ _ _

theorem Sound.engTogether (h : Sound s) (id : Nat) (xs : List Put) : (s.engTogether id xs).Kept :=
  (h.engMap xs fun x _ hq => hq.engCheck id x).bind fun _ _ hu => hu

theorem Sound.linkToken (h : Sound s) (id : Nat) (x : Index) (sig t : Nat) (strict : Bool) : (s.linkToken id x sig t strict).Kept := by
  refine (h.chainEnd id x sig).bind fun l q hq => ?_
  dsimp only
  split
  · exact hq.engTogether _ _
  · refine (hq.poolHead id x).bind fun p u hu => ?_
    split
    · exact hu.engTogether _ _
    · split
      · exact hu
      · exact (hu.engRead _ _).bind fun _ _ hv => hv.engTogether _ _

theorem Sound.freshReads (h : Sound s) (id : Nat) : Sound (s.freshReads id) := h

theorem Machine.EngGot.Kept.after {g : EngGot (List Landed × List (Nat × Nat))} (hg : g.Kept) (ls : List Landed) :
    (EngGot.after ls g).Kept := by
  cases g <;> exact hg

theorem Sound.storeToken (h : Sound s) (id : Nat) (x : Index) (t ka va : Nat) (strict val : Bool) :
    (s.storeToken id x t ka va strict val).Kept := by
  refine (Sound.engRead (h.freshReads id) id _).bind fun key q hq => EngGot.Kept.bind ?_ fun v u hu =>
    (hu.engCheck id _).bind fun lk a ha => EngGot.Kept.bind (EngGot.Kept.after (EngGot.Kept.bind ?_ fun lv b hb =>
      (hb.linkToken _ _ _ _ _).after lv) lk) fun r _ hr => hr.engLand r.1
  · split
    · exact hq.engRead _ _
    · exact hq
  · split
    · exact ha.engCheck _ _
    · exact ha

theorem Sound.setGath (h : Sound s) (id : Nat) (g : Gathering) : Sound (s.setGath id g) := h
theorem Sound.holdGath (h : Sound s) (id code sub : Nat) (g : Gathering) : Sound (s.holdGath id code sub g) := h

theorem Sound.takeLine (h : Sound s) (id : Nat) (e : EngOp) (x : Index) (g : Gathering) (bs : List Byte) (k : Nat) :
    Sound (s.takeLine id e x g bs k) := by
  unfold State.takeLine
  grind [EngGot.Kept, ! Sound.poolHead, Sound.setGath, Sound.holdGath, Sound.engPause, Sound.waitIn]

theorem Sound.visitLine (h : Sound s) (id : Nat) (e : EngOp) (x : Index) : Sound (s.visitLine id e x) := by
  unfold State.visitLine
  extract_lets g s0 rest
  have h0 : Sound s0 := h.freshReads id
  clear_value s0
  split
  · extract_lets got
    have hgot : got.Kept := by
      refine (h0.poolHead id x).bind fun p u hu => ?_
      split
      · exact hu
      · exact hu.indexLine _ _
    clear_value got
    grind [EngGot.Kept, Sound.takeLine, Sound.holdGath, Sound.engPause, Sound.waitIn]
  · grind [EngGot.Kept, ! Sound.indexLine, Sound.takeLine, Sound.setGath, Sound.holdGath, Sound.engPause, Sound.waitIn]

theorem Sound.rowPieces (h : Sound s) (id : Nat) (ps : List (Span × Nat)) : (s.rowPieces id ps).Kept := by
  induction ps generalizing s with
  | nil => exact h
  | cons p r ih =>
    unfold State.rowPieces
    split
    · exact h
    · refine (h.engHit _ _ _).bind fun x q hq => ?_
      split
      · exact hq.engDenied _ _ _ _
      · refine (hq.engReach _ _ _).bind fun _ u hu => ?_
        split
        · exact hu
        · exact (ih hu).bind fun _ _ hv => hv

theorem Sound.tokenRows (h : Sound s) (id : Nat) (x : Index) (t : Nat) : (s.tokenRows id x t).Kept := by
  refine (h.rowPieces _ _).bind fun k q hq => ?_
  cases k with
  | none => exact hq
  | some kb => exact (hq.rowPieces _ _).bind fun _ _ hu => hu

theorem Sound.gatherToken (h : Sound s) (id : Nat) (e : EngOp) (x : Index) (q0 q1 q2 budget : Nat) (trunc : Bool) (t : Nat)
    (ids : List Nat) : Sound (s.gatherToken id e x q0 q1 q2 budget trunc t ids) := by
  unfold State.gatherToken
  grind [EngGot.Kept, ! Sound.tokenRows, ! Sound.engStore, Sound.setGath, Sound.holdGath, Sound.engPause, Sound.engCount, Sound.waitIn]

/-! ### The matrix unit -/

theorem Sound.setTile (h : Sound s) (key t : Nat) (x : Tile) : Sound (s.setTile key t x) := by
  unfold State.setTile
  split
  · exact h
  · exact h.updGroup _ _ _

theorem Sound.consumeQuad (h : Sound s) (w : Warp) : Sound (s.consumeQuad w) := h

theorem Sound.postTile (h : Sound s) {c : Cur} {w : Warp} {e : EngOp} {os : List (Place × Nat)} {r : Nat × State}
    (hp : s.postTile c w e os = some r) : Sound r.2 := by
  obtain ⟨u, hu, rfl⟩ := Option.map_eq_some_iff.mp hp
  exact (h.post hu).updWarp _ _

theorem Sound.postRetire (h : Sound s) (c : Cur) (w : Warp) (e : EngOp) : Sound (s.postRetire c w e) := by
  unfold State.postRetire
  split
  · exact h
  · next hp => exact (h.postTile hp).retire c

theorem Sound.mmaIssue (h : Sound s) (c : Cur) (w : Warp) (d a b qa qb : Code) (inc : List Int) (n : Nat) :
    Sound (s.mmaIssue c w d a b qa qb inc n) := by
  unfold State.mmaIssue
  grind [Sound.raiseWhole, Sound.consumeQuad, Sound.retire, Sound.postRetire]

theorem Sound.takeEntries (h : Sound s) (es : List Nat) : Sound (s.takeEntries es) := by
  unfold State.takeEntries
  split <;> exact h

theorem Sound.readSpill (h : Sound s) (id addr n : Nat) : (s.readSpill id addr n).Kept := by
  refine (h.engMap _ fun p q hq => ?_).bind fun _ _ hv => hv
  exact (hq.engReadWords id p.1).bind fun _ _ hu => hu

theorem Sound.readTile (h : Sound s) (id key : Nat) (x : Handle) (addr : Nat) : (s.readTile id key x addr).Kept := by
  unfold State.readTile
  extract_lets w
  split
  · exact h
  · extract_lets head lost inl judge
    have hjudge : ∀ n sp es q, Sound q → (judge n sp es q).Kept := by
      grind [EngGot.Kept, Sound.takeEntries]
    clear_value judge
    grind [EngGot.Kept, Sound.takeEntries, ! Sound.readSpill]

theorem Sound.tileRegion (h : Sound s) (id key : Nat) (x : Handle) (cols : List (Option Nat)) (y c2 c3 : Nat) :
    (s.tileRegion id key x cols y c2 c3).Kept := (h.readTile _ _ _ _).bind fun _ _ hq => hq

theorem Sound.readOperand (h : Sound s) (id key : Nat) (y : Quarter) (rows : Nat) (c : List Int) :
    (s.readOperand id key y rows c).Kept := by
  unfold State.readOperand
  extract_lets x s0 c0 cols ys hi at_ keys
  have h0 : Sound s0 := h.updEng id _
  clear_value s0 cols hi
  split
  · split
    · exact h0
    · refine (h0.engMap _ fun k u hu => ?_).bind fun _ _ hv => hv
      refine EngGot.Kept.bind ?_ fun _ _ hv => hv
      split
      · exact hu.tileRegion _ _ _ _ _ _ _
      · split <;> exact hu
  · exact h0

theorem Sound.applyStep (h : Sound s) (key t : Nat) (rows cols : List KRow) : Sound (s.applyStep key t rows cols) := by
  unfold State.applyStep
  split
  · exact h
  · dsimp only
    split
    · exact (h.setTile _ _ _).of_mem rfl
    · exact h.setTile _ _ _

theorem Sound.compareHalves (h : Sound s) (key t : Nat) (redundant : Bool) : Sound (s.compareHalves key t redundant) := by
  unfold State.compareHalves
  grind [Sound.setTile, Sound.takeFree]

theorem Sound.endSteps (h : Sound s) (id code sub : Nat) : Sound (s.endSteps id code sub) := h

theorem Sound.mmaStep (h : Sound s) (id : Nat) (e : EngOp) (t : Nat) (a : Quarter) (bs : List Quarter) (inc : List Int) (redundant : Bool) :
    Sound (s.mmaStep id e t a bs inc redundant) := by
  unfold State.mmaStep
  extract_lets g
  have hg : g.Kept := (h.readOperand _ _ _ _ _).bind fun _ _ hq =>
    (hq.engMap bs fun _ _ hu => hu.readOperand _ _ _ _ _).bind fun _ _ hv => hv
  clear_value g
  grind [EngGot.Kept, Sound.applyStep, Sound.compareHalves, Sound.updEng, Sound.engDone, Sound.endSteps, Sound.engPause, Sound.waitIn]

theorem Sound.loadTile (h : Sound s) (id : Nat) (e : EngOp) : Sound (s.loadTile id e) := by
  unfold State.loadTile
  split
  · split
    · exact h.engDone _ _
    · split
      · exact h.engDone _ _
      · exact Sound.engDone (Sound.of_mem (h.setTile _ _ _) rfl) id []
  · split
    · exact h.engDone _ _
    · exact (h.setTile _ _ _).engDone _ _
  · exact h

theorem Sound.drained (h : Sound s) (id key t : Nat) (x : Tile) (clr : Bool) (st : Code) (flying : Bool) :
    Sound (s.drained id key t x clr st flying) := by
  unfold State.drained
  grind [Sound.updWarp, Sound.setTile, Sound.engDone]

theorem Sound.drainTile (h : Sound s) (id : Nat) (e : EngOp) (trap : Bool) : Sound (s.drainTile id e trap) := by
  unfold State.drainTile
  dsimp only
  split
  · split
    · exact h.engDone _ _
    · split
      · exact h.engDone _ _
      · grind [EngGot.Kept, ! Sound.engStore, Sound.drained, Sound.engDone, Sound.waitIn]
  · split
    · exact h.engDone _ _
    · split
      · exact h.engDone _ _
      · exact Sound.drained (h.updWarp _ _) _ _ _ _ _ _ _
  · exact h

theorem Sound.drainPosted (h : Sound s) (w : Warp) (id : Nat) : Sound (s.drainPosted w id) := by
  unfold State.drainPosted
  split
  · exact h
  · split
    · exact h
    · exact (h.drainTile _ _ _).engComplete _

theorem Sound.postDrain (h : Sound s) (c : Cur) (w : Warp) (e : EngOp) (os : List (Place × Nat)) : Sound (s.postDrain c w e os) := by
  unfold State.postDrain
  split
  · exact h
  · next hp => exact ((h.postTile hp).drainPosted _ _).retire c

theorem Sound.pruneBatches (h : Sound s) (key : Nat) : Sound (s.pruneBatches key) := h

theorem Sound.endWaitt (h : Sound s) (c : Cur) (w : Warp) (t : Token) : Sound (s.endWaitt c w t) :=
  h.deliverHeld_getD _ _ _ (h.retireSync c)

theorem Sound.waittTry (h : Sound s) {key : Nat} (e : s.waittTry key = some q) : Sound q := by
  unfold State.waittTry at e
  grind [Sound.unpark, Sound.endWaitt]

/-! ### The memory system -/

theorem Sound.constOp (h : Sound s) (i : Instr) (pf : Option Prefix) (once : Bool) (d : Code) (at_ : Warp → Nat → Nat)
    (f : Warp → Nat → Nat → Res Word) : Kept (constOp i pf once d s at_ f) := by
  refine h.issue fun c w => ?_
  extract_lets on base form
  have hread := h.readLanes c w once 4 form.2
  revert hread
  rcases s.readLanes c w once 4 form.2 with u | ⟨vals, late, u⟩ <;> intro hu
  · exact hu
  · dsimp only
    split
    · exact Sound.retire (Sound.setWarp (s := u) hu _ _) c
    · exact Sound.raise (Sound.setWarp (s := u) hu _ _) _ _ _

theorem Sound.prefetch (h : Sound s) (c : Cur) (w : Warp) (l1 : Bool) (va : Nat) : Sound (s.prefetch c w l1 va) := by
  unfold State.prefetch
  grind [Sound.postMiss, Sound.readThrough]

theorem Sound.prefetchOp (h : Sound s) (i : Instr) (l1 : Bool) (a : Code) : Kept (prefetchOp i l1 a s) := by
  refine h.issue fun c w => ?_
  have hfetched := fun (xs : List LaneAddr) =>
    foldl_keeps Sound (fun (s : State) x => s.prefetch c w l1 x.va) (fun _ x hq => hq.prefetch c w l1 x.va) xs s h
  dsimp only
  split
  · exact (hfetched _).retire c
  · exact (hfetched _).raise _ _ _

theorem Sound.updLine (h : Sound s) (t n : Nat) (f : L2Line → L2Line) : Sound (s.updLine t n f) := h
theorem Sound.dropAllL1 (h : Sound s) (tasid line : Nat) : Sound (s.dropAllL1 tasid line) := h

theorem Sound.flushLine (h : Sound s) {inv : Bool} {tasid line : Nat} (e : s.flushLine inv tasid line = some q) : Sound q := by
  unfold State.flushLine at e
  split at e
  · cases e
    exact h
  · obtain ⟨u, hu, rfl⟩ := Option.map_eq_some_iff.mp e
    have hu := h.settleAt _ _ _ hu
    grind [Sound.dropLine, Sound.writeBack, Sound.updLine, Sound.dropAllL1]

theorem Sound.cflushOp (h : Sound s) (i : Instr) (inv : Bool) (a : Code) : Kept (cflushOp i inv a s) := by
  refine h.issue fun c w => ?_
  extract_lets regs as bad
  split
  · exact h
  · next u hu =>
    have hflushed : ∀ (xs : List LaneAddr) (t : Option State), (∀ q ∈ t, Sound q) →
        ∀ q ∈ xs.foldl (fun (t : Option State) x => t.bind (fun s => s.flushLine inv (tagAsid w.asid x.va) (lineOf x.va))) t, Sound q := by
      refine fun xs t ht => foldl_keeps (fun t : Option State => ∀ q ∈ t, Sound q) _ (fun t x ht q hq => ?_) xs t ht
      obtain ⟨v, hv, hf⟩ := Option.bind_eq_some_iff.mp hq
      exact (ht v hv).flushLine hf
    have hsound := hflushed _ (some s) (by rintro _ ⟨⟩; exact h) u hu
    split
    · exact hsound.retire c
    · exact hsound.raise _ _ _

theorem Sound.touchWay (h : Sound s) (a : Access) : Sound (s.touchWay a) :=
  foldl_keeps Sound _ (fun _ b hq => hq.touch b) _ s h

theorem Sound.completeLoad (h : Sound s) (k : Nat) (o : OutOp) : Sound (s.completeLoad k o) := h

theorem Sound.translateMiss (h : Sound s) (k : Nat) (m : Miss) : Sound (s.translateMiss k m) := h.of_mem (by simp)

theorem Sound.wakeWalk (h : Sound s) (t va : Nat) : Sound (s.wakeWalk t va) := h.of_mem (by simp)

theorem Sound.translateQuiet (h : Sound s) (k : Nat) (m : Miss) : Sound (s.translateQuiet k m) := by
  have hw := h.wakeWalk m.asid (m.line * 128)
  unfold State.translateQuiet
  dsimp only
  split
  · exact hw.of_mem rfl
  · split
    · exact hw.translateMiss k m
    · exact hw.of_mem rfl

/-! ### Invalidation and ASIDs -/

theorem Sound.recallOwners (h : Sound s) (sel : Place × Nat → Bool) : Sound (s.recallOwners sel) := h

theorem Sound.dropSelected (h : Sound s) (asid page : Nat → Bool) : Sound (s.dropSelected asid page) := by
  have hlines := foldl_keeps Sound State.dropLine (fun _ l hq => hq.dropLine l) (s.l2.filter (fun l => asid l.asid && page (l.line * 128))) s h
  exact Sound.of_mem (foldl_keeps Sound State.dropPinned (fun _ p hq => hq.dropPinned p) _ _ hlines) rfl

theorem Sound.settlePast (h : Sound s) {seed : Nat → Access → Bool} (e : s.settlePast seed = some q) : Sound q := by
  unfold State.settlePast at e
  split at e
  · next hs =>
    cases e
    exact h.settle _ hs
  · obtain ⟨u, hu, rfl⟩ := Option.map_eq_some_iff.mp e
    refine Sound.of_mem (Sound.settle ?_ _ hu) rfl
    exact h

theorem Sound.invalidate (h : Sound s) (asid page : Nat → Bool) {f : State → State} (hf : ∀ q, Sound q → Sound (f q)) :
    Sound (s.invalidate asid page f) := by
  unfold State.invalidate
  dsimp only
  split
  · exact h.recallOwners _
  · next e => exact hf _ ((Sound.settlePast (h.recallOwners _) e).dropSelected _ _)

theorem Sound.afterInvalidate (h : Sound s) (c : Cur) : Sound (s.afterInvalidate c) := Sound.retryLaunches h.retryLog _

theorem Sound.setLive (h : Sound s) (asid : Nat) (b : Bool) : Sound (s.setLive asid b) := h

theorem Sound.endAsid (h : Sound s) (asid : Nat) : Sound (s.endAsid asid) := Memory.wf_write _ _ _ h

/-! ### Power and the start -/

theorem Sound.noteOccupied (h : Sound s) : Sound s.noteOccupied :=
  foldl_keeps Sound (fun (s : State) n => { s with active := Assoc.set s.active 0 (vacantCode n) (s.ownClock (.core n)) })
    (fun _ _ hq => hq) _ s h

theorem Sound.choosePower (h : Sound s) (b : Block) : Sound (s.choosePower b) := by
  unfold State.choosePower
  split
  · exact h
  · split
    · exact h
    · cases b with
      | core n => dsimp only; split <;> exact h
      | slice n => exact h
      | bridge n => exact h
      | stack n => exact h
      | port n => exact h

theorem Sound.choosePowers (h : Sound s) : Sound s.choosePowers := by
  unfold State.choosePowers
  dsimp only
  split
  · exact h.noteOccupied
  · refine foldl_keeps Sound _ (fun q b hq => ?_) _ _ h.noteOccupied
    split
    · exact hq.choosePower b
    · exact hq

/-- The memory of other devices stands in canonical form. -/
theorem Sound.foreign (h : Sound s) : Memory.wf s.foreign.1 = true := Memory.wf_filter _ _ h

theorem Sound.unpowered (h : Sound s) : Sound s.unpowered := h.foreign

theorem Sound.secureBoot (h : Sound s) : Sound s.secureBoot := by
  unfold State.secureBoot
  split
  · split <;> exact h
  · exact h

theorem Sound.lastAccess (h : Sound s) (k : Nat) (a : Access) : Sound (s.lastAccess k a) := by
  unfold State.lastAccess
  grind [Sound.perform, ! Sound.remoteOne, Sound.maybePerform]

theorem Sound.stopAll (h : Sound s) : Sound s.stopAll := by
  refine foldl_keeps Sound (fun (q : State) (e : Nat × Access) =>
    if (Assoc.at? q.accesses e.1).isSome then q.lastAccess e.1 e.2 else q) (fun q e hq => ?_) s.accesses s h
  split
  · exact hq.lastAccess _ _
  · exact hq

theorem Sound.startWrite (h : Sound s) (warm selftest : Bool) : Sound (s.startWrite warm selftest) := by
  have hfailed : Sound { s with startFailed := false, warm := warm, selftest := selftest } := h
  unfold State.startWrite
  split
  · exact h.stopAll
  · split
    · dsimp only
      split
      · exact hfailed.secureBoot
      · exact hfailed
    · exact h

theorem Sound.residentLaunches (h : Sound s) (f : Firmware) : Sound (s.residentLaunches f) := by
  have hload := h.loadNow supervisorWho f.header.toNat 256
  unfold State.residentLaunches
  revert hload
  rcases s.loadNow supervisorWho f.header.toNat 256 with ⟨x, u⟩ | ⟨c, b, u⟩ | u <;> intro hu
  · refine foldl_keeps Sound _ (fun q d hq => ?_) _ u hu
    exact hq
  · exact hu
  · exact hu

theorem Sound.mboxStore (h : Sound s) (v : Word) : Sound (s.mboxStore v) := by
  have hv : Sound { s with mbox := v } := h
  unfold State.mboxStore
  dsimp only
  split
  · split
    · exact (hv.poke _ _ _).wake _
    · exact hv
  · exact h

end Sys2Proof
end

section
/-! ## Family 14: canonical memory through the instructions of warps -/
namespace Sys2Proof
open Machine
variable {s q : State}

/-! ### EXPAND, atomics, fences and arrivals -/

theorem Sound.execExpand (h : Sound s) (d a : Code) (n : BitVec 2) (o : BitVec 4) : Kept (execExpand d a n o s) := by
  refine (h.closeSpan _).issueClean fun c w => ?_
  grind [Sound.raiseWhole, Sound.collective, Sound.closeSpan]

theorem Sound.execAsterStepMatch (h : Sound s) (key : Nat) : Kept (execAsterStepMatch key s) := by
  unfold Machine.execAsterStepMatch
  grind [Kept, Sound.asterMatch]

theorem Sound.execExsave (h : Sound s) (a : Code) : Kept (execExsave a s) := by
  refine h.issue fun c w => ?_
  grind [WriteNow.Kept, ! Sound.writeLanes, Sound.undefineBytes, Sound.raiseOnce, Sound.retire]

theorem Sound.execExload (h : Sound s) (a : Code) : Kept (execExload a s) := by
  refine h.issue fun c w => ?_
  grind [ReadNow.Kept, ! Sound.readLanes, Sound.raiseWhole, Sound.updWarp, Sound.raiseOnce, Sound.retire]

theorem Sound.execAtom (h : Sound s) (pf : Option Prefix) (d a b : Code) (aop : BitVec 4) (width : BitVec 2)
    (order : BitVec 3) (c : Code) : Kept (execAtom pf d a b aop width order c s) := by
  unfold Machine.execAtom
  extract_lets i
  refine h.issue fun k w => ?_
  grind [Sound.raiseWhole, ! Sound.lookLanes, Sound.waitFill, Sound.issueAtomic]

theorem Sound.execAtoms (h : Sound s) (pf : Option Prefix) (d a b : Code) (aop : BitVec 4) (width : BitVec 2)
    (order : BitVec 3) (c : Code) : Kept (execAtoms pf d a b aop width order c s) := by
  unfold Machine.execAtoms
  extract_lets i
  refine h.issue fun k w => ?_
  grind [Sound.raiseWhole, Sound.issueAtomic]

theorem Sound.execFence (h : Sound s) (k : BitVec 2) (sc : BitVec 3) : Kept (execFence k sc s) := by
  refine h.issue fun c w => ?_
  extract_lets scope f u
  have hu : Sound u := h
  exact hu.retireWith _ _

theorem Sound.execArrive (h : Sound s) (d a b : Code) : Kept (execArrive d a b s) := by
  refine h.issue fun c w => ?_
  grind [RmwNow.Kept, ! Sound.rmwNow, Sound.raiseAt, Sound.updWarp, Sound.retireSync]

theorem Sound.execWaitbRelease (h : Sound s) (key : Nat) : Kept (execWaitbRelease key s) := by
  unfold Machine.execWaitbRelease
  grind [Kept, → Sound.waitbTry]

theorem Sound.execMwaitRelease (h : Sound s) (key : Nat) : Kept (execMwaitRelease key s) := by
  unfold Machine.execMwaitRelease
  grind [Kept, → Sound.mwaitTry]

theorem Sound.execBarRelease (h : Sound s) (key : Nat) : Kept (execBarRelease key s) := by
  unfold Machine.execBarRelease
  grind [Kept, Sound.unpark, Sound.retireBar]

/-! ### Control transfers -/

theorem Sound.execBrt (h : Sound s) (m : BitVec 4) (f : BitVec 20) : Kept (execBrt m f s) :=
  h.issue fun _ _ => h.condBranch _ _ _ _ _
theorem Sound.execBrf (h : Sound s) (m : BitVec 4) (f : BitVec 20) : Kept (execBrf m f s) :=
  h.issue fun _ _ => h.condBranch _ _ _ _ _
theorem Sound.execBra (h : Sound s) (f : BitVec 20) : Kept (execBra f s) := h.issue fun _ _ => h.branch _ _ _ _ _

theorem Sound.execBrx (h : Sound s) (n a b : Code) : Kept (execBrx n a b s) := by
  refine h.issue fun c w => ?_
  grind [BrxGot.Kept, ! Sound.brxRead, Sound.raise, Sound.retireTransfer]

theorem Sound.execJpt (h : Sound s) (f : BitVec 20) : Kept (execJpt f s) := h.issue fun _ _ => h.retireWith _ _

theorem Sound.execJoin (h : Sound s) : Kept (execJoin s) := by
  refine h.issue fun c w => ?_
  grind [Sound.raiseWhole, Sound.retireWith]

theorem Sound.execCall (h : Sound s) (d : Code) (i : BitVec 16) : Kept (execCall d i s) := by
  refine h.issue fun c w => ?_
  grind [Sound.raiseWhole, Sound.updWarp, Sound.retireTransfer]

theorem Sound.execCallx (h : Sound s) (d a : Code) : Kept (execCallx d a s) := by
  refine h.issue fun c w => ?_
  grind [Sound.raise, Sound.updWarp, Sound.retireTransfer]

theorem Sound.execRet (h : Sound s) (a : Code) : Kept (execRet a s) := by
  refine h.issue fun c w => ?_
  grind [Sound.raise, Sound.retireTransfer]

theorem Sound.execLoop (h : Sound s) (d : Code) (e : BitVec 16) : Kept (execLoop d e s) := h.issue fun _ _ => h.enterLoop _ _ _ _
theorem Sound.execLoopi (h : Sound s) (n : Code) (e : BitVec 16) : Kept (execLoopi n e s) := h.issue fun _ _ => h.enterLoop _ _ _ _

theorem Sound.execExit (h : Sound s) : Kept (execExit s) := by
  refine h.issue fun c w => ?_
  grind [→ Sound.deliverHeld, Sound.exitLanes, Sound.stopWarp]

theorem Sound.execWait (h : Sound s) (l st cp tl : BitVec 6) : Kept (execWait l st cp tl s) := by
  refine h.issue fun c w => ?_
  grind [→ Sound.deliverHeld, Sound.retire, Sound.updWarp]

theorem Sound.execWaitRelease (h : Sound s) (key : Nat) : Kept (execWaitRelease key s) := by
  unfold Machine.execWaitRelease
  split
  · trivial
  · split
    · trivial
    · split
      · extract_lets u
        have hu : Sound u := h.updWarp _ _
        grind [Kept, → Sound.deliverHeld, Sound.retire]
      · trivial

theorem Sound.execYield (h : Sound s) : Kept (execYield s) := h.issue fun _ _ => h.retireWith _ _
theorem Sound.execNop (h : Sound s) : Kept (execNop s) := h.issue fun _ _ => h.retire _

theorem Sound.execNonInstruction (h : Sound s) (priv : Priv) (cause : BitVec 8) (sub : BitVec 32) (len : Nat) :
    Kept (execNonInstruction priv cause sub len s) := by
  refine h.issue fun c w => ?_
  grind [Sound.raiseAt, Sound.raiseWhole]

theorem Sound.execHeldTransferReexecution (h : Sound s) (key p : Nat) : Kept (execHeldTransferReexecution key p s) := by
  unfold Machine.execHeldTransferReexecution
  split
  case isFalse => trivial
  split
  · trivial
  · rename_i w _
    have hf := h.fetch key p w (w.path p).hpc
    split
    · trivial
    · rename_i e
      rw [e] at hf
      exact hf.postMiss _ _ _ _ _
    · rename_i e
      rw [e] at hf
      extract_lets src u
      have hu : Sound u := hf
      clear_value u
      split
      · exact hu.execBrt _ _
      · exact hu.execBrf _ _
      · exact hu.execBra _
      · exact hu.execBrx _ _ _
      · exact hu.execCall _ _
      · exact hu.execCallx _ _
      · exact hu.execRet _
      · exact hu.execNonInstruction _ _ _ _
      · trivial

/-! ### Tensor handles and copies -/

theorem Sound.execThld (h : Sound s) (d a : Code) (off : BitVec 16) : Kept (execThld d a off s) := by
  refine h.issue fun c w => ?_
  grind [ReadNow.Kept, ! Sound.readLanes, Sound.raiseOnce, Sound.formHandle]

theorem Sound.execThset (h : Sound s) (d a sel : Code) : Kept (execThset d a sel s) := by
  refine h.issue fun c w => ?_
  grind [Sound.raiseWhole, Sound.formHandle]

theorem Sound.execThget (h : Sound s) (d a sel : Code) : Kept (execThget d a sel s) := by
  refine h.issue fun c w => ?_
  grind [Sound.raiseWhole, Sound.retireWith]

theorem Sound.execCopy (h : Sound s) (d a b p tok bar : Code) (yld : BitVec 1) (cont : BitVec 5) :
    Kept (execCopy d a b p tok bar yld cont s) := by
  unfold Machine.execCopy
  extract_lets i
  refine h.issue fun c w => h.withHandles _ _ _ _ fun hd hs => ?_
  grind [Sound.raiseWhole, Sound.postCopy]

theorem Sound.execTsplit (h : Sound s) (d a b p tok bar : Code) (yld : BitVec 1) (cont : BitVec 5) :
    Kept (execTsplit d a b p tok bar yld cont s) := by
  unfold Machine.execTsplit
  extract_lets i
  refine h.issue fun c w => h.withHandles _ _ _ _ fun hd hs => ?_
  grind [Sound.raiseWhole, Sound.postCopy]

theorem Sound.execGather (h : Sound s) (d a b p tok bar : Code) (yld list : BitVec 1) (cont : BitVec 5) :
    Kept (execGather d a b p tok bar yld list cont s) := by
  unfold Machine.execGather
  extract_lets i
  refine h.issue fun c w => h.withHandles _ _ _ _ fun hd hs => ?_
  extract_lets cd off rows n range
  split
  · exact h.raiseWhole _ _ _
  · exact h.postCopy _ _ _ _ _ _ _

theorem Sound.execScatter (h : Sound s) (d a b p tok bar : Code) (yld list ordered : BitVec 1) (cont : BitVec 5) :
    Kept (execScatter d a b p tok bar yld list ordered cont s) := by
  unfold Machine.execScatter
  extract_lets i
  refine h.issue fun c w => h.withHandles _ _ _ _ fun hd hs => ?_
  extract_lets cs off rows n range
  split
  · exact h.raiseWhole _ _ _
  · exact h.postCopy _ _ _ _ _ _ _

theorem Sound.execEngineLineTransfer (h : Sound s) (id : Nat) : Kept (execEngineLineTransfer id s) := by
  unfold Machine.execEngineLineTransfer
  grind [Kept, Sound.copyTask, Sound.gatherTask, Sound.scatterTask]

theorem Sound.execTsplitTileEncode (h : Sound s) (id : Nat) : Kept (execTsplitTileEncode id s) := by
  unfold Machine.execTsplitTileEncode
  grind [Kept, ! Sound.tsplitTile, Sound.engEnd, Sound.engStop]

theorem Sound.execCopyOperationComplete (h : Sound s) (id : Nat) : Kept (execCopyOperationComplete id s) := by
  unfold Machine.execCopyOperationComplete
  grind [Kept, Sound.listHeader, Sound.engCount, Sound.engComplete]

/-! ### Queues and exchanges -/

theorem Sound.execQappend (h : Sound s) (pf : Option Prefix) (d a : Code) : Kept (execQappend pf d a s) := by
  refine h.issue fun c w => ?_
  grind [RmwNow.Kept, ! Sound.rmwNow, Sound.raise, Sound.updWarp, Sound.setWarp, Sound.retire]

theorem Sound.execXchgp (h : Sound s) (pf : Option Prefix) (d a : Code) : Kept (execXchgp pf d a s) := by
  refine h.issue fun c w => ?_
  grind [Sound.raise, Sound.raiseWhole, Sound.exchange, Sound.parkAt]

theorem Sound.execXchgpMatch (h : Sound s) (key : Nat) : Kept (execXchgpMatch key s) := by
  unfold Machine.execXchgpMatch
  grind [Kept, Sound.exchange]

/-! ### Launches and the ends of warps -/

theorem Sound.execLaunch (h : Sound s) (d a : Code) : Kept (execLaunch d a s) := by
  refine h.issue fun c w => ?_
  grind [LaunchGot.Kept, ! Sound.launchTry, Sound.parkAt]

theorem Sound.execLaunchEnqueue (h : Sound s) (key : Nat) : Kept (execLaunchEnqueue key s) := by
  unfold Machine.execLaunchEnqueue
  grind [Kept, → Sound.enqueueTry]

theorem Sound.execDependenceConditionRead (h : Sound s) (id k : Nat) : Kept (execDependenceConditionRead id k s) := by
  unfold Machine.execDependenceConditionRead
  grind [Kept, → Sound.depTry]

theorem Sound.execTeamAdmission (h : Sound s) (die : Nat) : Kept (execTeamAdmission die s) := by
  unfold Machine.execTeamAdmission
  grind [Kept, → Sound.admitTry]

theorem Sound.execWarpCompletion (h : Sound s) (key : Nat) : Kept (execWarpCompletion key s) := by
  unfold Machine.execWarpCompletion
  split
  · trivial
  · split
    · exact h
    · trivial

theorem Sound.execTeamCompletion (h : Sound s) (team : Nat) : Kept (execTeamCompletion team s) := by
  unfold Machine.execTeamCompletion
  grind [Kept, → Sound.teamTry]

/-! ### Traps, faults and debugging -/

theorem Sound.execTrap (h : Sound s) (a : Code) : Kept (execTrap a s) := h.issue fun _ _ => h.raiseWhole _ _ _
theorem Sound.execTrapFrame (h : Sound s) (d : Code) : Kept (execTrapFrame d s) := h.issue fun _ _ => h.retireWith _ _
theorem Sound.execEretRetry (h : Sound s) : Kept (execEretRetry s) := h.issue fun _ _ => h.trapReturn _ _
theorem Sound.execEretSkip (h : Sound s) : Kept (execEretSkip s) := h.issue fun _ _ => h.trapReturn _ _
theorem Sound.execEretTo (h : Sound s) (a : Code) : Kept (execEretTo a s) := h.issue fun _ _ => h.trapReturn _ _

theorem Sound.execFaultLogHeldAppend (h : Sound s) (k : Nat) : Kept (execFaultLogHeldAppend k s) := by
  unfold Machine.execFaultLogHeldAppend
  grind [Kept, → Sound.heldLogTry]

theorem Sound.execWatchdogExpiry (h : Sound s) (key : Nat) : Kept (execWatchdogExpiry key s) := by
  unfold Machine.execWatchdogExpiry
  grind [Kept, Sound.updWarp, Sound.routeH]

theorem Sound.execHandlerLimitExpiry (h : Sound s) (key : Nat) : Kept (execHandlerLimitExpiry key s) := by
  unfold Machine.execHandlerLimitExpiry
  grind [Kept, Sound.updWarp, Sound.stopOrHandle, Sound.stopWarp]

theorem Sound.execMtsrFpflags (h : Sound s) (a : Code) : Kept (execMtsrFpflags a s) := by
  refine h.issue fun c w => ?_
  grind [Sound.updWarp, Sound.retire, Sound.raise]

theorem Sound.execResumeTerm (h : Sound s) (d a : Code) : Kept (execResumeTerm d a s) := by
  refine h.issue fun c w => ?_
  grind [Sound.raiseWhole, Sound.retireWith, Sound.terminate]

theorem Sound.execSafe (h : Sound s) (k : BitVec 16) : Kept (execSafe k s) := by
  refine h.issue fun c w => ?_
  grind [SafeEntry.Kept, ! Sound.safeEntry, Sound.waitIn, Sound.raiseAt, Sound.raiseWhole, Sound.safeNop, Sound.endSave,
    Sound.endRestore, Sound.safeRunning]

theorem Sound.execPreemptionOverdue (h : Sound s) (key : Nat) : Kept (execPreemptionOverdue key s) := by
  unfold Machine.execPreemptionOverdue
  grind [Kept, Sound.stopWarp]

theorem Sound.execTeamReadmission (h : Sound s) (die : Nat) : Kept (execTeamReadmission die s) := by
  unfold Machine.execTeamReadmission
  grind [Kept, → Sound.readmitTry]

theorem Sound.execBkpt (h : Sound s) (code : BitVec 16) : Kept (execBkpt code s) := by
  refine h.issue fun c w => ?_
  grind [Sound.debugStop, Sound.retire]

theorem Sound.execPerfrd (h : Sound s) (d : Code) (k : BitVec 3) (n : BitVec 4) : Kept (execPerfrd d k n s) :=
  h.issue fun _ _ => h.retireWith _ _

/-! ### Remote accesses, links and soft errors -/

theorem Sound.execRemoteRequest (h : Sound s) (k : Nat) : Kept (execRemoteRequest k s) := by
  unfold Machine.execRemoteRequest
  grind [Kept, Sound.remoteOne, Sound.remoteDone, Sound.touchWay]

theorem Sound.execRemoteTimeout (h : Sound s) (k : Nat) : Kept (execRemoteTimeout k s) := by
  unfold Machine.execRemoteTimeout
  grind [Kept, Sound.remoteOne, Sound.remoteDone]

theorem Sound.execRouteLinksDown (h : Sound s) (dev : Nat) (known : Bool) : Kept (execRouteLinksDown dev known s) := h
theorem Sound.execRouteLinksUp (h : Sound s) (dev : Nat) : Kept (execRouteLinksUp dev s) := h
theorem Sound.execPeerDebugHoldChange (h : Sound s) (dev : Nat) (hold : Bool) : Kept (execPeerDebugHoldChange dev hold s) := h

theorem Sound.execFabricResponseLost (h : Sound s) (k : Nat) (tier : Bool) : Kept (execFabricResponseLost k tier s) := by
  unfold Machine.execFabricResponseLost
  grind [Kept, Sound, Sound.loseResponse]

theorem Sound.execMemorySideStampLost (h : Sound s) (line : Nat) : Kept (execMemorySideStampLost line s) := h

theorem Sound.execStorageSoftError (h : Sound s) (site : Site) (sev : Severity) : Kept (execStorageSoftError site sev s) := by
  unfold Machine.execStorageSoftError
  grind [Kept, Sound.countSoft, Sound.strike]

/-! ### Hash claims -/

theorem Sound.execHtclaim (h : Sound s) (d a b : Code) : Kept (execHtclaim d a b s) := by
  refine h.issue fun c w => ?_
  split
  · exact h
  · extract_lets n base
    split
    · exact h.raiseWhole _ _ _
    · grind [ReadNow.Kept, WriteNow.Kept, ! Sound.readLanes, ! Sound.writeLanes, Sound.raiseOnce, Sound.openClaim]

theorem Sound.execHtrel (h : Sound s) (a : Code) : Kept (execHtrel a s) := by
  refine h.issue fun c w => ?_
  grind [Sound.raiseWhole, Sound.updGroup, Sound.retire]

end Sys2Proof
end

section
/-! ## Family 14: canonical memory through the other steps of the table -/
namespace Sys2Proof
open Machine
variable {s q : State}

theorem Sound.execHdrain (h : Sound s) (d a b : Code) : Kept (execHdrain d a b s) := by
  refine h.issue fun c w => ?_
  extract_lets id base
  split
  · exact h.raiseWhole _ _ _
  next cl _ =>
    split
    · exact h
    next u e =>
      have hu : Sound u := h.settleFor _ e
      have hg := hu.claimEntries c w cl
      revert hg
      cases u.claimEntries c w cl with
      | cause k sub v x => exact fun hx => hx.raiseAt _ _ _ _
      | denied t v x => exact fun hx => Sound.raiseAt (Sound.logRun hx _ _ _ _) _ _ _ _
      | wait x => exact fun _ => h.waitIn x
      | ok es x =>
        intro hx
        replace hx : Sound x := hx
        dsimp only
        split
        · grind [SpillGot.Kept, WriteNow.Kept, ! Sound.writeLanes, ! Sound.spillWrite, Sound.raiseAt, Sound.waitIn,
            Sound.undefineBytes, Sound.raiseOnce, Sound.updClaim, Sound.updWarp, Sound.retire]
        · exact hx.raiseOnce _ _

/-! ### Lanes and modes -/

theorem Sound.execSel (h : Sound s) (pf : Option Prefix) (d a b : Code) : Kept (execSel pf d a b s) :=
  h.issue fun _ _ => h.finishLanes _ _

theorem Sound.execMovsr (h : Sound s) (pf : Option Prefix) (d sel : Code) : Kept (execMovsr pf d sel s) := by
  unfold Machine.execMovsr
  split
  · exact h.runOp _ _ _ _ _ _
  · split
    · trivial
    · exact h.runOp _ _ _ _ _ _

theorem Sound.execSetmode (h : Sound s) (i : BitVec 16) : Kept (execSetmode i s) := by
  refine h.issue fun c w => ?_
  grind [Sound.retireWith, Sound.raiseWhole]

theorem Sound.crossLane (h : Sound s) (i : Instr) (pf : Option Prefix) (d : Code) (from_ : Warp → List Nat → Nat → List Nat)
    (f : Warp → List Nat → Nat → Word × FpFlags) : Kept (crossLane i pf d s from_ f) := by
  refine h.issue fun c w => ?_
  extract_lets on takers w1 bad u
  have hu : Sound u := h
  clear_value u bad
  cases bad with
  | nil => exact hu.retire _
  | cons l ls => exact hu.raise _ _ _

theorem Sound.reduceLanes (h : Sound s) (i : Instr) (pf : Option Prefix) (d a c : Code) (upTo : List Nat → Nat → List Nat) :
    Kept (reduceLanes i pf d a c s upTo) := by
  unfold Machine.reduceLanes
  split
  · exact h.crossLane _ _ _ _ _
  · exact h.issue fun _ _ => h.raiseWhole _ _ _

/-! ### The index engine -/

theorem Sound.execKidx (h : Sound s) (n a : Code) : Kept (execKidx n a s) := by
  refine h.issue fun c w => ?_
  grind [ReadNow.Kept, ! Sound.readLanes, Sound.retireWith, Sound.raiseOnce, Sound.raiseWhole]

theorem Sound.execQsig (h : Sound s) (d a b : Code) : Kept (execQsig d a b s) := by
  refine h.issue fun c w => ?_
  split
  · exact h.raiseWhole _ _ _
  · extract_lets once
    split
    · exact h
    next u e =>
      have hu : Sound u := h.settle _ e
      extract_lets w1 f
      split
      · exact h
      · grind [Sound.retireWith, Sound.raiseAt, Sound.finishLanes]

theorem Sound.execKstore (h : Sound s) (d a b n tok bar : Code) (strict val : BitVec 1) (slot : BitVec 2) :
    Kept (execKstore d a b n tok bar strict val slot s) := by
  refine h.issue fun c w => ?_
  split
  · exact h.raiseWhole _ _ _
  · extract_lets k t0 ka va e
    grind [Sound.raiseWhole, Sound.retire, → Sound.post]

theorem Sound.execBgather (h : Sound s) (d a tok bar : Code) (dist slot : BitVec 2) (trunc : BitVec 1) :
    Kept (execBgather d a tok bar dist slot trunc s) := by
  refine h.issue fun c w => ?_
  split
  · exact h.raiseWhole _ _ _
  · extract_lets sig qd k kind e
    grind [Sound.raiseWhole, Sound.retire, → Sound.post]

theorem Sound.execKstoreToken (h : Sound s) (id : Nat) : Kept (execKstoreToken id s) := by
  unfold Machine.execKstoreToken
  grind [Kept, Sound.engEnd, ! Sound.storeToken]

theorem Sound.execBgatherBucketVisit (h : Sound s) (id : Nat) : Kept (execBgatherBucketVisit id s) := by
  unfold Machine.execBgatherBucketVisit
  grind [Kept, Sound.visitLine]

theorem Sound.execBgatherToken (h : Sound s) (id : Nat) : Kept (execBgatherToken id s) := by
  unfold Machine.execBgatherToken
  grind [Kept, Sound.gatherToken]

/-! ### The matrix unit -/

theorem Sound.execBput (h : Sound s) (a b : Code) : Kept (execBput a b s) := by
  refine h.issue fun c w => ?_
  grind [Sound.raiseWhole, Sound.updGroup, Sound.retire]

theorem Sound.execMma (h : Sound s) (d a b qa qb : Code) : Kept (execMma d a b qa qb s) :=
  h.issue fun _ _ => h.mmaIssue _ _ _ _ _ _ _ _ _

theorem Sound.execMmaloop (h : Sound s) (d a b qa qb inc n : Code) : Kept (execMmaloop d a b qa qb inc n s) :=
  h.issue fun _ _ => h.mmaIssue _ _ _ _ _ _ _ _ _

theorem Sound.execMatrixStep (h : Sound s) (id : Nat) : Kept (execMatrixStep id s) := by
  unfold Machine.execMatrixStep
  grind [Kept, Sound.mmaStep, Sound.loadTile]

theorem Sound.execMdrainExecute (h : Sound s) (id : Nat) : Kept (execMdrainExecute id s) := by
  unfold Machine.execMdrainExecute
  grind [Kept, Sound.drainTile]

theorem Sound.execMdrain (h : Sound s) (d a b st : Code) (clr : BitVec 1) : Kept (execMdrain d a b st clr s) := by
  refine h.issue fun c w => ?_
  grind [Sound.raiseWhole, Sound.postDrain]

theorem Sound.execMload (h : Sound s) (d a b : Code) : Kept (execMload d a b s) := by
  refine h.issue fun c w => ?_
  grind [Sound.raiseWhole, Sound.postRetire, Sound.raise]

theorem Sound.execMaccAlloc (h : Sound s) (d : Code) : Kept (execMaccAlloc d s) := by
  refine h.issue fun c w => ?_
  grind [Sound.raiseWhole, Sound.setTile, Sound.retireWith]

theorem Sound.execMaccFree (h : Sound s) (a : Code) : Kept (execMaccFree a s) := by
  refine h.issue fun c w => ?_
  grind [Sound.raiseWhole, → Sound.deliverHeld, Sound.updGroup, Sound.retire]

theorem Sound.execMatrixOperationComplete (h : Sound s) (id : Nat) : Kept (execMatrixOperationComplete id s) := by
  unfold Machine.execMatrixOperationComplete
  grind [Kept, Sound.engComplete]

theorem Sound.execMbatch (h : Sound s) (d bar : Code) : Kept (execMbatch d bar s) := by
  refine h.issue fun c w => ?_
  split
  · exact h.raiseWhole _ _ _
  · extract_lets b u
    have hu : Sound u := h
    exact (hu.pruneBatches _).retireWith _ _

theorem Sound.execBatchComplete (h : Sound s) (key : Nat) : Kept (execBatchComplete key s) := by
  unfold Machine.execBatchComplete
  grind [Kept, Sound.engArrive, Sound.updWarp]

theorem Sound.execWaitt (h : Sound s) (a : Code) : Kept (execWaitt a s) := by
  refine h.issue fun c w => ?_
  grind [Sound.raiseWhole, Sound.parkAt, Sound.endWaitt]

theorem Sound.execWaittRelease (h : Sound s) (key : Nat) : Kept (execWaittRelease key s) := by
  unfold Machine.execWaittRelease
  grind [Kept, → Sound.waittTry]

/-! ### Accesses, walks and the L1 -/

theorem Sound.execAccessPerform (h : Sound s) (k : Nat) : Kept (execAccessPerform k s) := by
  unfold Machine.execAccessPerform
  grind [Kept, Sound.perform, Sound.touchWay]

theorem Sound.execLoadCompletion (h : Sound s) (k : Nat) : Kept (execLoadCompletion k s) := by
  unfold Machine.execLoadCompletion
  grind [Kept, Sound.completeLoad]

theorem Sound.execStoreAcknowledge (h : Sound s) (k : Nat) : Kept (execStoreAcknowledge k s) := by
  unfold Machine.execStoreAcknowledge
  grind [Kept, Sound, Sound.updWarp]

theorem Sound.execTranslationRequest (h : Sound s) (k : Nat) : Kept (execTranslationRequest k s) := by
  unfold Machine.execTranslationRequest
  grind [Kept, Sound.translateQuiet, Sound.translateMiss]

theorem Sound.execSliceMiss (h : Sound s) (k : Nat) : Kept (execSliceMiss k s) := by
  unfold Machine.execSliceMiss
  grind [Kept, Sound, Sound.answerMiss, Sound.touch]

theorem Sound.execCorePinnedSlotWaitEnd (h : Sound s) (k : Nat) : Kept (execCorePinnedSlotWaitEnd k s) := by
  unfold Machine.execCorePinnedSlotWaitEnd
  grind [Kept, Sound.translateMiss]

theorem Sound.execL1Reclaim (h : Sound s) (core : Nat) : Kept (execL1Reclaim core s) := by
  unfold Machine.execL1Reclaim
  grind [Kept, Sound.updCore]

/-! ### Power, start and host -/

theorem Sound.execPowerGood (h : Sound s) : Kept (execPowerGood s) := by
  unfold Machine.execPowerGood
  grind [Kept, Sound.unpowered, Sound.secureBoot]

theorem Sound.execStartCold (h : Sound s) (selftest : Bool) : Kept (execStartCold selftest s) := h.startWrite _ _
theorem Sound.execStartWarm (h : Sound s) (selftest : Bool) : Kept (execStartWarm selftest s) := h.startWrite _ _

theorem Sound.execStartStage1 (h : Sound s) : Kept (execStartStage1 s) := by
  unfold Machine.execStartStage1
  split
  · extract_lets u
    have hu : Sound u := by
      unfold u
      split
      · exact h
      · exact h.foreign
    split
    · exact hu
    · exact hu
  · trivial

theorem Sound.execStartStage2 (h : Sound s) : Kept (execStartStage2 s) := by
  unfold Machine.execStartStage2
  split
  case isFalse => trivial
  split
  · trivial
  · extract_lets mem u
    have hmem : Memory.wf mem = true :=
      foldl_keeps (fun m => Memory.wf m = true) _ (fun m e hm => by
        split
        · exact Memory.wf_write _ _ _ hm
        · exact hm) _ _ h
    have hu : Sound u := hmem
    exact Sound.residentLaunches (s := u.updCtx 0 _) hu _

theorem Sound.execMboxWrite (h : Sound s) (v : Word) : Kept (execMboxWrite v s) := h.mboxStore v

theorem Sound.execBar0RegisterWrite (h : Sound s) (off : Nat) (v : DWord) : Kept (execBar0RegisterWrite off v s) := by
  unfold Machine.execBar0RegisterWrite
  grind [Kept, Sound, Sound.mboxStore, Sound.startWrite]

theorem Sound.execBar2WindowAccess (h : Sound s) (off : Nat) (data : List Byte) (write : Bool) :
    Kept (execBar2WindowAccess off data write s) := by
  unfold Machine.execBar2WindowAccess
  grind [Kept, Sound.wake, Sound.poke]

theorem Sound.execIdleEntry (h : Sound s) (b : Block) : Kept (execIdleEntry b s) := by
  unfold Machine.execIdleEntry
  grind [Kept, Sound]

theorem Sound.execClockGateEntry (h : Sound s) (b : Block) : Kept (execClockGateEntry b s) := by
  unfold Machine.execClockGateEntry
  grind [Kept, Sound]

theorem Sound.retain (h : Sound s) (core : Nat) : Sound (s.retain core) := h

theorem Sound.execRetentionEntry (h : Sound s) (core : Nat) : Kept (execRetentionEntry core s) := by
  unfold Machine.execRetentionEntry
  grind [Kept, Sound.retain]

theorem Sound.execPowerWake (h : Sound s) (b : Block) : Kept (execPowerWake b s) := by
  unfold Machine.execPowerWake
  grind [Kept, Sound.wake]

theorem Sound.execDieThrottle (h : Sound s) (die : Nat) (up : Bool) : Kept (execDieThrottle die up s) := by
  unfold Machine.execDieThrottle
  grind [Kept, Sound]

theorem Sound.execCriticalTemperature (h : Sound s) : Kept (execCriticalTemperature s) := h.unpowered

/-! ### Invalidation and clearances -/

theorem Sound.execTlbinvPage (h : Sound s) (a b : Code) : Kept (execTlbinvPage a b s) := by
  refine h.issue fun c w => ?_
  extract_lets va asid t
  split
  · exact h.raiseWhole _ _ _
  · split
    · exact h.raiseAt _ _ _ _
    · exact h.invalidate _ _ fun x hx => (hx.afterInvalidate c).retire c

theorem Sound.execTlbinvAsid (h : Sound s) (b : Code) : Kept (execTlbinvAsid b s) := by
  refine h.issue fun c w => ?_
  extract_lets asid
  split
  · exact h.raiseWhole _ _ _
  · exact h.invalidate _ _ fun x hx => ((hx.setLive _ _).afterInvalidate c).retire c

theorem Sound.execTlbinvAll (h : Sound s) : Kept (execTlbinvAll s) :=
  h.issue fun c _ => h.invalidate _ _ fun _ hx => (hx.afterInvalidate c).retire c

theorem Sound.execAsinv (h : Sound s) (b : Code) : Kept (execAsinv b s) := by
  refine h.issue fun c w => ?_
  extract_lets asid
  split
  · exact h.raiseWhole _ _ _
  · split
    · exact h.raiseWhole _ _ _
    · exact h.invalidate _ _ fun x hx =>
        (Sound.afterInvalidate (s := (x.endAsid asid).updCtx asid _) (hx.endAsid asid) c).retire c

theorem Sound.execClrset (h : Sound s) (a : Code) : Kept (execClrset a s) := by
  refine h.issue fun c w => ?_
  extract_lets x
  grind [Got.state, ! Sound.bitmapLoads, Sound.retireWith, Sound.raiseAt, Sound.raiseOnce, Sound.enterClearance]

end Sys2Proof
end

section
/-! ## Family 14: canonical memory through every step of the table -/
namespace Sys2Proof
open Machine
variable {s q : State}

theorem Sound.loadGlobal (h : Sound s) (i : Instr) (pf : Option Prefix) (d a : Code) (o : BitVec 3) (f : BitVec 5) (size : Nat)
    (signed : Bool) : Kept (loadGlobal i pf d a o f size signed s) := h.issue fun _ _ => h.globalAccess _ _ _ _ _ _ _

theorem Sound.storeGlobal (h : Sound s) (i : Instr) (pf : Option Prefix) (d a : Code) (o : BitVec 3) (f : BitVec 5) (size : Nat) :
    Kept (storeGlobal i pf d a o f size s) := h.issue fun _ _ => h.globalAccess _ _ _ _ _ _ _

theorem Sound.scratchOp (h : Sound s) (i : Instr) (pf : Option Prefix) (d a : Code) (o : BitVec 3) (f : BitVec 5) (size : Nat)
    (isLoad : Bool) : Kept (scratchOp i pf d a o f size isLoad s) := h.issue fun _ _ => h.scratchAccess _ _ _ _ _ _ _

theorem Sound.runWord (h : Sound s) (i : Instr) (pf : Option Prefix) (once : Bool) (d : Code) (f : Warp → Nat → Res Word) :
    Kept (runWord i pf once d s f) := h.runOp _ _ _ _ _ _

theorem Sound.runPair (h : Sound s) (i : Instr) (pf : Option Prefix) (once : Bool) (d : Code) (f : Warp → Nat → Res DWord) :
    Kept (runPair i pf once d s f) := h.runOp _ _ _ _ _ _

theorem Sound.runBit (h : Sound s) (i : Instr) (pf : Option Prefix) (d : Code) (f : Warp → Nat → Res Bool) :
    Kept (runBit i pf d s f) := h.runOp _ _ _ _ _ _

theorem Sound.execBallot (h : Sound s) (pf : Option Prefix) (d a : Code) : Kept (execBallot pf d a s) := by
  unfold Machine.execBallot
  exact h.crossLane _ _ _ _ _

theorem Sound.execMatchLanes (h : Sound s) (pf : Option Prefix) (d a : Code) : Kept (execMatchLanes pf d a s) := by
  unfold Machine.execMatchLanes
  exact h.crossLane _ _ _ _ _

theorem Sound.shuffle (h : Sound s) (i : Instr) (pf : Option Prefix) (d a b : Code) (from_ : Nat → Nat → Option Nat) :
    Kept (shuffle i pf d a b s from_) := by
  unfold Machine.shuffle
  exact h.crossLane _ _ _ _ _

theorem Sound.execShflIdx (h : Sound s) (pf : Option Prefix) (d a b : Code) : Kept (execShflIdx pf d a b s) := by
  unfold Machine.execShflIdx
  exact h.shuffle _ _ _ _ _ _

theorem Sound.execShflUp (h : Sound s) (pf : Option Prefix) (d a b : Code) : Kept (execShflUp pf d a b s) := by
  unfold Machine.execShflUp
  exact h.shuffle _ _ _ _ _ _

theorem Sound.execShflDown (h : Sound s) (pf : Option Prefix) (d a b : Code) : Kept (execShflDown pf d a b s) := by
  unfold Machine.execShflDown
  exact h.shuffle _ _ _ _ _ _

theorem Sound.execShflXor (h : Sound s) (pf : Option Prefix) (d a b : Code) : Kept (execShflXor pf d a b s) := by
  unfold Machine.execShflXor
  exact h.shuffle _ _ _ _ _ _

theorem Sound.execBarWg (h : Sound s) : Kept (execBarWg s) := h.barOp _ _
theorem Sound.execBarTeam (h : Sound s) : Kept (execBarTeam s) := h.barOp _ _

theorem Sound.execLdc (h : Sound s) (pf : Option Prefix) (d a : Code) (f : BitVec 5) : Kept (execLdc pf d a f s) := by
  unfold Machine.execLdc
  exact h.constOp _ _ _ _ _ _

theorem Sound.execFfmc (h : Sound s) (pf : Option Prefix) (d a n : Code) : Kept (execFfmc pf d a n s) := by
  unfold Machine.execFfmc
  exact h.constOp _ _ _ _ _ _

theorem Sound.execHins (h : Sound s) (pf : Option Prefix) (d a b : Code) : Kept (execHins pf d a b s) := by
  unfold Machine.execHins
  exact h.keyedOp _ _ _ _ _ _ fun _ _ _ _ _ _ hq => hq.hashInsert _ _ _ _ _ _

theorem Sound.execHprobe (h : Sound s) (pf : Option Prefix) (d a b : Code) : Kept (execHprobe pf d a b s) := by
  unfold Machine.execHprobe
  exact h.keyedOp _ _ _ _ _ _ fun _ _ _ _ _ _ hq => hq.hashProbe _ _ _ _

theorem Sound.execHdel (h : Sound s) (pf : Option Prefix) (d a b : Code) : Kept (execHdel pf d a b s) := by
  unfold Machine.execHdel
  exact h.keyedOp _ _ _ _ _ _ fun _ _ _ _ _ _ hq => hq.hashDelete _ _ _ _ _

theorem Sound.execHacc (h : Sound s) (pf : Option Prefix) (d a b : Code) (op : BitVec 4) (ty : BitVec 2) :
    Kept (execHacc pf d a b op ty s) := by
  unfold Machine.execHacc
  refine h.keyedOp _ _ _ _ _ _ fun _ _ _ _ _ _ hq => ?_
  split
  · exact hq
  · exact hq.hashAccumulate _ _ _ _ _ _ _ _

/-! ### Writes of special registers -/

theorem Sound.execMtsr (h : Sound s) (sel a b : Code) : Kept (execMtsr sel a b s) :=
  h.mtsrWith _ _ _ _ _ fun c _ _ _ => Sound.retire (s := s.updCtx _ _) h c

theorem Sound.execMtsrCtxPreempt (h : Sound s) (a b : Code) : Kept (execMtsrCtxPreempt a b s) :=
  h.mtsrWith _ _ _ _ _ fun c _ _ _ => Sound.retire (Sound.setHold (s := s.updCtx _ _) h _ _) c

theorem Sound.execMtsrCtxHalt (h : Sound s) (a b : Code) : Kept (execMtsrCtxHalt a b s) := by
  refine h.mtsrWith _ _ _ _ _ fun c w asid x => ?_
  extract_lets u
  have hu : Sound u := h
  refine Sound.retire (foldl_keeps Sound _ (fun q e hq => ?_) _ u hu) c
  split
  · exact hq.haltWarp _
  · exact hq.unhaltWarp _

theorem Sound.execMtsrCtxLcbins (h : Sound s) (a b : Code) : Kept (execMtsrCtxLcbins a b s) := by
  refine h.mtsrWith _ _ _ _ _ fun c w asid x => ?_
  grind [ReadNow.Kept, ! Sound.readLanes, Sound.bindBins, Sound.raiseOnce, Sound.retire]

theorem Sound.execMtsrFaultlog (h : Sound s) (a b : Code) : Kept (execMtsrFaultlog a b s) := by
  refine h.mtsrWith _ _ _ _ _ fun c w _ x => ?_
  split
  · exact h.raiseWhole _ _ _
  · extract_lets u
    have hu : Sound u := h
    split
    · exact hu.beginStage3.retire c
    · exact hu.retire c

/-! ### Every step of the opcode table -/

theorem Sound.exec (h : Sound s) (i : Instr) : Kept (exec i s) := by
  cases i with
  | add | sub | adds | subs | mullo | mulhiS | mulhiU | minS | minU | maxS | maxU | and | or | xor | andn | shl | shr
  | sar | rol | bfxU | bfxS | permb | cvti | mad | fshl | bfi | ffma | fscale | hadd2 | hmul2 | hfma2 | hdot2 | movL
  | ffmaL | movi20 | movf20 | divS | divU | remS | remU | abs | neg | clz | ctz | popc | brev | mov | addi16 | andi16
  | ori16 | xori16 | shli | shri | sari | movhi16 | fadd | fsub | fmul | fmin | fmax | fdiv | fabs | fneg | fclass
  | fsqrt | frcp | frsq | fexp2 | flog2 | fsin | fcos | fround | fcvtF2i | fcvtI2f | fcvtF2f | addL | andL | orL
  | xorL | mulloL | faddL | fmulL | fminL | fmaxL => exact h.runWord _ _ _ _ _
  | madwU | madwS | add64 | sub64 | lea1 | lea4 | lea8 | lea16 => exact h.runPair _ _ _ _ _
  | cmpEq | cmpNe | cmpLtS | cmpLeS | cmpLtU | cmpLeU | fcmpEq | fcmpLt | fcmpLe | fcmpUn | cmpEqL | cmpLtSL
  | fcmpLtL => exact h.runBit _ _ _ _
  | ld8u | ld8s | ld16u | ld16s | ld32 | ld64 | ld128 => exact h.loadGlobal _ _ _ _ _ _ _ _
  | st8 | st16 | st32 | st64 | st128 => exact h.storeGlobal _ _ _ _ _ _ _
  | lds32 | sts32 | lds128 | sts128 => exact h.scratchOp _ _ _ _ _ _ _ _
  | redux | scan => exact h.reduceLanes _ _ _ _ _ _
  | exnext | exred | exfin => exact h.withinExpansion _
  | waitbPh | waitbCnt => exact h.waitBarrier _ _ _ _
  | mwaitNe | mwaitGeu => exact h.mwaitOp _ _ _ _
  | pref | prefL1 => exact h.prefetchOp _ _ _
  | cflushWb | cflushInv => exact h.cflushOp _ _ _
  | resumeReplay | resumeDeliver => exact h.resumeOp _ _ _ _
  | barWg => exact h.execBarWg
  | barTeam => exact h.execBarTeam
  | shflIdx => exact h.execShflIdx _ _ _ _
  | shflUp => exact h.execShflUp _ _ _ _
  | shflDown => exact h.execShflDown _ _ _ _
  | shflXor => exact h.execShflXor _ _ _ _
  | ballot => exact h.execBallot _ _ _
  | matchLanes => exact h.execMatchLanes _ _ _
  | ldc => exact h.execLdc _ _ _ _
  | ffmc => exact h.execFfmc _ _ _ _
  | hins => exact h.execHins _ _ _ _
  | hprobe => exact h.execHprobe _ _ _ _
  | hdel => exact h.execHdel _ _ _ _
  | hacc => exact h.execHacc _ _ _ _ _ _
  | mtsr => exact h.execMtsr _ _ _
  | mtsrCtxPreempt => exact h.execMtsrCtxPreempt _ _
  | mtsrCtxHalt => exact h.execMtsrCtxHalt _ _
  | mtsrCtxLcbins => exact h.execMtsrCtxLcbins _ _
  | mtsrFaultlog => exact h.execMtsrFaultlog _ _
  | sel => exact h.execSel _ _ _ _
  | movsr => exact h.execMovsr _ _ _
  | setmode => exact h.execSetmode _
  | brt => exact h.execBrt _ _
  | brf => exact h.execBrf _ _
  | bra => exact h.execBra _
  | brx => exact h.execBrx _ _ _
  | call => exact h.execCall _ _
  | callx => exact h.execCallx _ _
  | ret => exact h.execRet _
  | jpt => exact h.execJpt _
  | join => exact h.execJoin
  | loop => exact h.execLoop _ _
  | loopi => exact h.execLoopi _ _
  | exit => exact h.execExit
  | wait => exact h.execWait _ _ _ _
  | yield => exact h.execYield
  | safe => exact h.execSafe _
  | nop => exact h.execNop
  | qappend => exact h.execQappend _ _ _
  | xchgp => exact h.execXchgp _ _ _
  | expand => exact h.execExpand _ _ _ _
  | exsave => exact h.execExsave _
  | exload => exact h.execExload _
  | atom => exact h.execAtom _ _ _ _ _ _ _ _
  | atoms => exact h.execAtoms _ _ _ _ _ _ _ _
  | fence => exact h.execFence _ _
  | arrive => exact h.execArrive _ _ _
  | htclaim => exact h.execHtclaim _ _ _
  | htrel => exact h.execHtrel _
  | hdrain => exact h.execHdrain _ _ _
  | thld => exact h.execThld _ _ _
  | thset => exact h.execThset _ _ _
  | thget => exact h.execThget _ _ _
  | copy => exact h.execCopy _ _ _ _ _ _ _ _
  | gather => exact h.execGather _ _ _ _ _ _ _ _ _
  | scatter => exact h.execScatter _ _ _ _ _ _ _ _ _ _
  | tsplit => exact h.execTsplit _ _ _ _ _ _ _ _
  | mma => exact h.execMma _ _ _ _ _
  | mmaloop => exact h.execMmaloop _ _ _ _ _ _ _
  | mbatch => exact h.execMbatch _ _
  | waitt => exact h.execWaitt _
  | maccAlloc => exact h.execMaccAlloc _
  | maccFree => exact h.execMaccFree _
  | mdrain => exact h.execMdrain _ _ _ _ _
  | bput => exact h.execBput _ _
  | kstore => exact h.execKstore _ _ _ _ _ _ _ _ _
  | bgather => exact h.execBgather _ _ _ _ _ _ _
  | qsig => exact h.execQsig _ _ _
  | kidx => exact h.execKidx _ _
  | mload => exact h.execMload _ _ _
  | trap => exact h.execTrap _
  | trapFrame => exact h.execTrapFrame _
  | eretRetry => exact h.execEretRetry
  | eretSkip => exact h.execEretSkip
  | eretTo => exact h.execEretTo _
  | mtsrFpflags => exact h.execMtsrFpflags _
  | resumeTerm => exact h.execResumeTerm _ _
  | launch => exact h.execLaunch _ _
  | tlbinvPage => exact h.execTlbinvPage _ _
  | tlbinvAsid => exact h.execTlbinvAsid _
  | tlbinvAll => exact h.execTlbinvAll
  | asinv => exact h.execAsinv _
  | bkpt => exact h.execBkpt _
  | clrset => exact h.execClrset _
  | perfrd => exact h.execPerfrd _ _ _
  | nonInstruction => exact h.execNonInstruction _ _ _ _
  | faultLogHeldAppend => exact h.execFaultLogHeldAppend _
  | heldTransferReexecution => exact h.execHeldTransferReexecution _ _
  | waitRelease => exact h.execWaitRelease _
  | barRelease => exact h.execBarRelease _
  | waitbRelease => exact h.execWaitbRelease _
  | mwaitRelease => exact h.execMwaitRelease _
  | waittRelease => exact h.execWaittRelease _
  | xchgpMatch => exact h.execXchgpMatch _
  | asterStepMatch => exact h.execAsterStepMatch _
  | launchEnqueue => exact h.execLaunchEnqueue _
  | dependenceConditionRead => exact h.execDependenceConditionRead _ _
  | teamAdmission => exact h.execTeamAdmission _
  | l1Reclaim => exact h.execL1Reclaim _
  | warpCompletion => exact h.execWarpCompletion _
  | teamCompletion => exact h.execTeamCompletion _
  | translationRequest => exact h.execTranslationRequest _
  | corePinnedSlotWaitEnd => exact h.execCorePinnedSlotWaitEnd _
  | sliceMiss => exact h.execSliceMiss _
  | accessPerform => exact h.execAccessPerform _
  | loadCompletion => exact h.execLoadCompletion _
  | storeAcknowledge => exact h.execStoreAcknowledge _
  | engineLineTransfer => exact h.execEngineLineTransfer _
  | tsplitTileEncode => exact h.execTsplitTileEncode _
  | copyOperationComplete => exact h.execCopyOperationComplete _
  | matrixStep => exact h.execMatrixStep _
  | matrixOperationComplete => exact h.execMatrixOperationComplete _
  | mdrainExecute => exact h.execMdrainExecute _
  | batchComplete => exact h.execBatchComplete _
  | kstoreToken => exact h.execKstoreToken _
  | bgatherBucketVisit => exact h.execBgatherBucketVisit _
  | bgatherToken => exact h.execBgatherToken _
  | remoteRequest => exact h.execRemoteRequest _
  | remoteTimeout => exact h.execRemoteTimeout _
  | watchdogExpiry => exact h.execWatchdogExpiry _
  | handlerLimitExpiry => exact h.execHandlerLimitExpiry _
  | preemptionOverdue => exact h.execPreemptionOverdue _
  | teamReadmission => exact h.execTeamReadmission _
  | startCold => exact h.execStartCold _
  | startWarm => exact h.execStartWarm _
  | mboxWrite => exact h.execMboxWrite _
  | bar0RegisterWrite => exact h.execBar0RegisterWrite _ _
  | bar2WindowAccess => exact h.execBar2WindowAccess _ _ _
  | powerGood => exact h.execPowerGood
  | startStage1 => exact h.execStartStage1
  | startStage2 => exact h.execStartStage2
  | idleEntry => exact h.execIdleEntry _
  | clockGateEntry => exact h.execClockGateEntry _
  | retentionEntry => exact h.execRetentionEntry _
  | powerWake => exact h.execPowerWake _
  | dieThrottle => exact h.execDieThrottle _ _
  | criticalTemperature => exact h.execCriticalTemperature
  | storageSoftError => exact h.execStorageSoftError _ _
  | fabricResponseLost => exact h.execFabricResponseLost _ _
  | memorySideStampLost => exact h.execMemorySideStampLost _
  | routeLinksDown => exact h.execRouteLinksDown _ _
  | routeLinksUp => exact h.execRouteLinksUp _
  | peerDebugHoldChange => exact h.execPeerDebugHoldChange _ _

end Sys2Proof
end

section
/-! ## Family 14: canonical memory through a cycle -/
namespace Sys2Proof
open Machine
variable {s q : State}

/-! ### Counting a cycle -/

theorem Sound.retryHeld (h : Sound s) : Sound s.retryHeld := by
  refine foldl_keeps Sound _ (fun q e hq => ?_) _ s h
  grind [Sound.updWarp, Sound.trapEntry, Sound.useEntry, Sound.stepAfter]

theorem Sound.sweepMisses (h : Sound s) : Sound s.sweepMisses := h

theorem Sound.tick (h : Sound s) : Sound s.tick := by
  unfold State.tick
  extract_lets _ _ u
  have hu : Sound u := h
  exact hu.sweepMisses.retryEvent.finishLaunches.retryHeld.haltDue.saveAllParked.saveTeamsDue.choosePowers

/-! ### The schedulers' picks and the lane-cycle counters -/

theorem Sound.ageAll (h : Sound s) (os : List Offer) : Sound (s.ageAll os) :=
  foldl_keeps Sound _ (fun _ _ hq => hq.updWarp _ _) os s h

theorem Sound.addBins (h : Sound s) (b : Bins) (core off cls n : Nat) : Sound (s.addBins b core off cls n) := by
  refine foldl_keeps Sound _ (fun q k hq => ?_) _ s h
  grind [Sound.updCore]

theorem Sound.binIssue (h : Sound s) (c : Cur) (i : Instr) : Sound (s.binIssue c i) := by
  unfold State.binIssue
  grind [Sound.addBins]

theorem Sound.binIdle (h : Sound s) (used : Option (Nat × Bool)) : Sound (s.binIdle used) := by
  unfold State.binIdle
  split
  · exact h
  · refine foldl_keeps Sound _ (fun u p hu => ?_) _ s h
    split
    · exact hu
    · refine foldl_keeps Sound _ (fun x v hx => ?_) _ u hu
      grind [Sound.addBins]

theorem Sound.pick (h : Sound s) (o : Offer) : Sound (s.pick o) := h

theorem Sound.atBreakpoint (h : Sound s) (key p : Nat) (w : Warp) : Sound (s.atBreakpoint key p w) := h.debugStop _ _ _

/-! ### What the scheduler hands on keeps memory canonical -/

/-- This meaning takes canonical memory to canonical memory. -/
def Machine.Run.Keeps (f : Run) : Prop := ∀ s, Sound s → Kept (f s)

theorem exec_keeps (i : Instr) : Run.Keeps (exec i) := fun _ h => h.exec i

theorem releases_keep (s : State) (key : Nat) (w : Warp) : ∀ f ∈ s.releases key w, f.Keeps := by
  unfold State.releases
  split
  · simp
  · extract_lets one
    have hone (b : Bool) (i : Instr) : ∀ f ∈ one b (exec i), f.Keeps := by grind [exec_keeps]
    split
    · exact hone _ (.waitRelease key)
    · exact hone _ (.waitbRelease key)
    · exact hone _ (.mwaitRelease key)
    · exact hone _ (.barRelease key)
    · exact hone _ (.waittRelease key)
    · exact hone _ (.xchgpMatch key)
    · exact hone _ (.asterStepMatch key)
    · exact hone _ (.launchEnqueue key)
    all_goals simp

theorem ite_exec_keeps {b : Bool} {i : Instr} : ∀ f ∈ (if b then [exec i] else []), Run.Keeps f := by grind [exec_keeps]

theorem warpEvents_keep (s : State) (key : Nat) (w : Warp) : ∀ f ∈ s.warpEvents key w, f.Keeps := by
  intro f hf
  simp only [State.warpEvents, List.mem_append] at hf
  obtain ((((hf | hf) | hf) | hf) | hf) | hf := hf
  · exact ite_exec_keeps (i := .watchdogExpiry key) f hf
  · exact ite_exec_keeps (i := .handlerLimitExpiry key) f hf
  · exact ite_exec_keeps (i := .preemptionOverdue key) f hf
  · exact releases_keep _ _ _ f hf
  · exact ite_exec_keeps (i := .batchComplete key) f hf
  · exact ite_exec_keeps (i := .warpCompletion key) f hf

theorem memoryEvents_keep (s : State) : ∀ f ∈ s.memoryEvents, f.Keeps := by
  intro f hf
  simp only [State.memoryEvents, List.mem_append, List.mem_flatMap, List.mem_filterMap] at hf
  obtain ((⟨e, _, (hf | hf) | hf⟩ | ⟨e, _, hf | hf⟩) | ⟨e, _, (hf | hf) | hf⟩) | ⟨e, _, hf⟩ := hf
  · exact ite_exec_keeps (i := .accessPerform e.1) f hf
  · exact ite_exec_keeps (i := .remoteRequest e.1) f hf
  · exact ite_exec_keeps (i := .remoteTimeout e.1) f hf
  · exact ite_exec_keeps (i := .loadCompletion e.1) f hf
  · exact ite_exec_keeps (i := .storeAcknowledge e.1) f hf
  · exact ite_exec_keeps (i := .translationRequest e.1) f hf
  · exact ite_exec_keeps (i := .sliceMiss e.1) f hf
  · exact ite_exec_keeps (i := .corePinnedSlotWaitEnd e.1) f hf
  · split at hf
    · exact Option.some.inj hf ▸ exec_keeps (.l1Reclaim e.1)
    · cases hf

theorem workOf_keeps (id : Nat) (e : EngOp) : (workOf id e).Keeps := by
  unfold workOf
  split
  · exact exec_keeps (.tsplitTileEncode id)
  · exact exec_keeps (.kstoreToken id)
  · split
    · exact exec_keeps (.bgatherBucketVisit id)
    · exact exec_keeps (.bgatherToken id)
  · exact exec_keeps (.matrixStep id)
  · exact exec_keeps (.matrixStep id)
  · exact exec_keeps (.matrixStep id)
  · exact exec_keeps (.mdrainExecute id)
  · exact exec_keeps (.mdrainExecute id)
  · exact exec_keeps (.engineLineTransfer id)

theorem engineEvents_keep (s : State) : ∀ f ∈ s.engineEvents, f.Keeps := by
  intro f hf
  simp only [State.engineEvents, List.mem_append, List.mem_flatMap] at hf
  obtain ⟨e, _, (hf | hf) | hf⟩ := hf
  · rw [List.mem_ite_nil_right, List.mem_singleton] at hf
    exact hf.2 ▸ workOf_keeps _ _
  · exact ite_exec_keeps (i := .copyOperationComplete e.1) f hf
  · exact ite_exec_keeps (i := .matrixOperationComplete e.1) f hf

theorem distributorEvents_keep (s : State) : ∀ f ∈ s.distributorEvents, f.Keeps := by
  intro f hf
  simp only [State.distributorEvents, List.mem_append, List.mem_flatMap, List.mem_filterMap] at hf
  obtain (⟨e, _, k, _, hf⟩ | ⟨d, _, hf | hf⟩) | ⟨e, _, hf⟩ := hf
  · split at hf
    · exact Option.some.inj hf ▸ exec_keeps (.dependenceConditionRead e.1 k)
    · cases hf
  · exact ite_exec_keeps (i := .teamAdmission d) f hf
  · exact ite_exec_keeps (i := .teamReadmission d) f hf
  · split at hf
    · exact Option.some.inj hf ▸ exec_keeps (.teamCompletion e.1)
    · cases hf

theorem systemEvents_keep (s : State) : ∀ f ∈ s.systemEvents, f.Keeps := by
  intro f hf
  simp only [State.systemEvents, List.mem_append] at hf
  obtain (hf | hf) | hf := hf
  · exact ite_exec_keeps (i := .faultLogHeldAppend 0) f hf
  · exact ite_exec_keeps (i := .startStage1) f hf
  · exact ite_exec_keeps (i := .startStage2) f hf

theorem wakeEvents_keep (s : State) : ∀ f ∈ s.wakeEvents, f.Keeps := by
  intro f hf
  obtain ⟨e, _, hf⟩ := List.mem_filterMap.mp hf
  extract_lets b at hf
  split at hf
  · exact Option.some.inj hf ▸ exec_keeps (.powerWake b)
  · cases hf

theorem events_keep (s : State) : ∀ f ∈ s.events, f.Keeps := by
  intro f hf
  simp only [State.events, List.mem_append, List.mem_flatMap] at hf
  obtain ((((⟨e, _, hf⟩ | hf) | hf) | hf) | hf) | hf := hf
  · exact warpEvents_keep _ _ _ f hf
  · exact memoryEvents_keep s f hf
  · exact engineEvents_keep s f hf
  · exact distributorEvents_keep s f hf
  · exact systemEvents_keep s f hf
  · exact wakeEvents_keep s f hf

/-! ### The next action -/

/-- The state in which the next step executes is canonical, and so is the one it leaves. -/
def Machine.NextKept (r : Option Run × State) : Prop := (∀ f ∈ r.1, f.Keeps) ∧ Sound r.2

theorem Machine.Run.Keeps.next {f : Run} (hf : f.Keeps) (h : Sound s) : NextKept (some f, s) :=
  ⟨fun _ hg => Option.some.inj hg ▸ hf, h⟩

theorem Sound.issuePath (h : Sound s) (o : Offer) : NextKept (s.issuePath o) := by
  unfold State.issuePath
  extract_lets key p
  split
  · exact ⟨nofun, h.binIdle _⟩
  next w _ =>
    split
    · exact ⟨nofun, (h.atBreakpoint _ _ _).binIdle _⟩
    · have hf := h.fetch key p w (w.path p).nextPc
      split
      · rename_i e
        rw [e] at hf
        exact ⟨nofun, Sound.binIdle (Sound.updPath (Sound.postMiss hf _ _ _ _ _) _ _ _) _⟩
      · rename_i e
        rw [e] at hf
        exact ⟨nofun, Sound.binIdle hf _⟩
      · rename_i i len u e
        rw [e] at hf
        extract_lets _ c u1
        have hu : Sound u1 := Sound.binIssue (Sound.binIdle (Sound.pick hf o) _) c i
        split
        · exact Run.Keeps.next (exec_keeps (.heldTransferReexecution key p)) hu
        · exact (exec_keeps i).next hu

theorem Sound.act (h : Sound s) (os : List Offer) {a : Action} (ha : ∀ f, a = .event f → f.Keeps) : NextKept (s.act os a) := by
  cases a with
  | event f => exact (ha f rfl).next ((h.ageAll _).binIdle _)
  | issue o => exact (h.ageAll _).issuePath o

theorem actions_keep (s : State) (os : List Offer) : ∀ a ∈ s.actions os, ∀ f, a = .event f → f.Keeps := by
  rintro a ha f rfl
  simp only [State.actions, List.mem_append, List.mem_map, reduceCtorEq, and_false, exists_false, or_false] at ha
  obtain ⟨g, hg, e⟩ := ha
  exact Action.event.inj e ▸ events_keep s g hg

theorem Sound.nextAction (h : Sound s) : NextKept s.nextAction := by
  unfold State.nextAction
  extract_lets u idle os
  have hu : Sound u := h.tick
  have hidle : Sound idle := (hu.ageAll _).binIdle _
  have hall := actions_keep u os
  clear_value idle os u
  split
  next i _ _ =>
    exact (exec_keeps i).next hidle
  · split
    · exact ⟨nofun, hu.binIdle _⟩
    next a e =>
      rw [e] at hall
      exact hu.act os (hall a List.mem_cons_self)
    next a b r e =>
      rw [e] at hall
      split
      next x hx => exact hu.takeFree.act os (hall x (List.mem_of_getElem? hx))
      · exact ⟨nofun, hu⟩

/-- Settles O60: every meaning of the opcode table keeps memory canonical, and so does what a cycle does around it. -/
theorem memoryStaysCanonical : Obligations.MemoryStaysCanonical := by
  intro s t h e
  obtain ⟨hrun, hq⟩ := h.nextAction
  unfold step at e
  split at e
  next u hn =>
    rw [hn] at hq
    exact Host.Outcome.next.inj e ▸ hq
  next f u hn =>
    rw [hn] at hrun hq
    have hk := hrun f rfl u hq
    rw [e] at hk
    exact hk

end Sys2Proof
end

section
/-! ## Family 14: prefetches, and what the shared operations of the caches change -/
namespace Sys2Proof.Machine

section
variable (s : State)

/-! ### What the shared operations of the caches change -/

theorem State.wakeAll_eq (bs : List Block) :
    s.wakeAll bs = { s with power := (s.wakeAll bs).power, active := (s.wakeAll bs).active } := by
  have hkept : ∃ x y, s.wakeAll bs = { s with power := x, active := y } :=
    foldl_keeps (fun q : State => ∃ x y, q = { s with power := x, active := y }) (fun (q : State) b => q.wake b)
      (by rintro q b ⟨x, y, rfl⟩; exact ⟨_, _, rfl⟩) bs s ⟨_, _, rfl⟩
  obtain ⟨x, y, hx⟩ := hkept
  rw [hx]

theorem State.wakeWalk_eq (tasid va : Nat) :
    s.wakeWalk tasid va = { s with power := (s.wakeWalk tasid va).power, active := (s.wakeWalk tasid va).active } := by
  unfold State.wakeWalk
  split
  · rfl
  · exact s.wakeAll_eq _

theorem State.fillL1_eq (core : Nat) (l : L2Line) : s.fillL1 core l = { s with cores := (s.fillL1 core l).cores } := by
  unfold State.fillL1
  dsimp only
  split
  · rfl
  · split <;> rfl

theorem State.fillL1s_eq (cores : List Nat) (tasid line : Nat) :
    s.fillL1s cores tasid line = { s with cores := (s.fillL1s cores tasid line).cores } := by
  unfold State.fillL1s
  split
  · rfl
  next l _ =>
    have hkept : ∃ x, cores.foldl (fun (q : State) c => q.fillL1 c l) s = { s with cores := x } :=
      foldl_keeps (fun q : State => ∃ x, q = { s with cores := x }) _
        (by rintro q c ⟨x, rfl⟩; rw [State.fillL1_eq]; exact ⟨_, rfl⟩) cores s ⟨_, rfl⟩
    obtain ⟨x, hx⟩ := hkept
    rw [hx]

theorem State.readThrough_eq (core : Nat) (h : Hit) : s.readThrough core h = { s with cores := (s.readThrough core h).cores } := by
  unfold State.readThrough
  split
  · exact s.fillL1s_eq _ _ _
  · rfl

theorem State.postMiss_eq (tasid line : Nat) (team l1 : Option Nat) (quiet : Bool) :
    s.postMiss tasid line team l1 quiet = { s with
      misses := (s.postMiss tasid line team l1 quiet).misses, fresh := (s.postMiss tasid line team l1 quiet).fresh } := by
  unfold State.postMiss
  split <;> rfl

theorem State.setPoisons_eq {α : Type} (l : List α) (g : α → Nat) (b : α → Bool) :
    ∃ x, l.foldl (fun (q : State) i => q.setPoison (g i) (b i)) s = { s with poison := x } :=
  foldl_keeps (fun q : State => ∃ x, q = { s with poison := x }) (fun (q : State) i => q.setPoison (g i) (b i))
    (by rintro q i ⟨x, rfl⟩; exact ⟨_, rfl⟩) l s ⟨_, rfl⟩

/-- A write-back changes memory, poison and the power states of blocks alone. -/
theorem State.writeBack_eq (l : L2Line) : s.writeBack l = { s with
    mem := if l.dirty then Memory.writeBytes s.mem l.pa l.data else s.mem
    poison := (s.writeBack l).poison, power := (s.writeBack l).power, active := (s.writeBack l).active } := by
  unfold State.writeBack
  split
  next hd =>
    obtain ⟨x, hx⟩ := State.setPoisons_eq { s with mem := Memory.writeBytes s.mem l.pa l.data } [0, 1, 2, 3]
      (fun i => l.pa / 32 + i) (fun i => l.poison.getLsbD i)
    dsimp only
    rw [hx]
    rfl
  · rfl

/-! ### Prefetches (R228) -/

theorem Assoc.mem_of_at? {α : Type} {m : Assoc α} {k : Nat} {x : α} (h : Assoc.at? m k = some x) : (k, x) ∈ m := by
  induction m with
  | nil => cases h
  | cons e r ih =>
    rw [Assoc.at?_cons] at h
    split at h
    next hk =>
      obtain rfl : e.2 = x := Option.some.inj h
      exact hk ▸ List.mem_cons_self
    · exact List.mem_cons_of_mem _ (ih h)

theorem Assoc.mem_put {α : Type} (m : Assoc α) (k : Nat) (x : α) : (k, x) ∈ Assoc.put m k x :=
  Assoc.mem_of_at? (by rw [Assoc.at?_put, if_pos rfl])

/-- Once a miss has been posted, one stands for the line. -/
theorem State.postMiss_stands (tasid line : Nat) (team l1 : Option Nat) (quiet : Bool) :
    ∃ m ∈ (s.postMiss tasid line team l1 quiet).misses, m.2.asid = tasid ∧ m.2.line = line := by
  unfold State.postMiss
  split
  next k m hm =>
    have hkey := List.find?_some hm
    simp only [Bool.and_eq_true, beq_iff_eq] at hkey
    exact ⟨_, Assoc.mem_put _ _ _, hkey.2, hkey.1⟩
  · exact ⟨_, Assoc.mem_put _ _ _, rfl, rfl⟩

/-- A prefetch changes misses and L1s alone. -/
theorem State.prefetch_eq (c : Cur) (w : Warp) (l1 : Bool) (va : Nat) : s.prefetch c w l1 va = { s with
    misses := (s.prefetch c w l1 va).misses, fresh := (s.prefetch c w l1 va).fresh, cores := (s.prefetch c w l1 va).cores } := by
  unfold State.prefetch
  split
  · rfl
  · split
    · rw [State.postMiss_eq]
    · rfl
    · rfl
    · split
      · rw [State.readThrough_eq]
      · rfl

/-- The prefetches of several addresses. -/
def State.prefetches (c : Cur) (w : Warp) (l1 : Bool) (xs : List LaneAddr) : State :=
  xs.foldl (fun (q : State) x => q.prefetch c w l1 x.va) s

theorem State.prefetches_eq (c : Cur) (w : Warp) (l1 : Bool) (xs : List LaneAddr) : s.prefetches c w l1 xs = { s with
    misses := (s.prefetches c w l1 xs).misses, fresh := (s.prefetches c w l1 xs).fresh, cores := (s.prefetches c w l1 xs).cores } := by
  have hkept : ∃ m f x, s.prefetches c w l1 xs = { s with misses := m, fresh := f, cores := x } :=
    foldl_keeps (fun q : State => ∃ m f x, q = { s with misses := m, fresh := f, cores := x })
      (fun (q : State) (x : LaneAddr) => q.prefetch c w l1 x.va)
      (by rintro q x ⟨m, f, y, rfl⟩; rw [State.prefetch_eq]; exact ⟨_, _, _, rfl⟩) xs s ⟨_, _, _, rfl⟩
  obtain ⟨m, f, x, hx⟩ := hkept
  rw [hx]

end

section
variable {s : State} {c : Cur} {w : Warp} {i : Instr} {a : Code} {l1 : Bool}

theorem Cur.causeOf_nil (c : Cur) (once : Bool) : c.causeOf once [] = none := by
  cases once <;> rfl

/-- A prefetch retires with what its addresses ask for. -/
theorem prefetchOp_retires (h : Ready i .none s c w) (hp : Plain s w) :
    prefetchOp i l1 a s = .next ((s.prefetches c w l1 (w.lineAddrs c a)).setWarp c.w (w.afterRetire c false)) := by
  have hall : (w.lineAddrs c a).filter (fun x => !([] : List Nat).contains x.lane) = w.lineAddrs c a :=
    List.filter_eq_self.mpr (fun _ _ => rfl)
  have heq := s.prefetches_eq c w l1 (w.lineAddrs c a)
  rw [prefetchOp, issue_ready h]
  dsimp only
  rw [badLanes_nil hp.sound, hall, List.map_nil, Cur.causeOf_nil]
  dsimp only
  rw [← State.prefetches, State.retire_plain _ c w (by rw [heq]; exact h.warp) (by rw [heq]; exact hp.debug)]

/-- A uniform address that misses leaves a miss on its line. -/
theorem State.prefetches_miss {t l : Nat} (ha : isLane a = false) (hva : (w.rdPair a 0).toNat < 2 ^ 56)
    (hlook : s.look w.asid (some w.team) (w.rdPair a 0).toNat = .miss t l) :
    ∃ m ∈ (s.prefetches c w l1 (w.lineAddrs c a)).misses, m.2.asid = t ∧ m.2.line = l := by
  have hone : w.lineAddrs c a = [{ lane := 0, va := (w.rdPair a 0).toNat }] := by
    simp [Warp.lineAddrs, Warp.onLanes, ha]
  have hpost : s.prefetches c w l1 (w.lineAddrs c a) =
      s.postMiss t l (some w.team) (if l1 then some (coreOfKey c.w) else none) true := by
    rw [hone, State.prefetches, List.foldl_cons, List.foldl_nil, State.prefetch, if_neg (Nat.not_le.mpr hva), hlook]
  rw [hpost]
  exact State.postMiss_stands s t l _ _ _

/-- What O19 says of a prefetch. -/
theorem prefetchOp_silent (h : Ready i .none s c w) (hp : Plain s w) :
    ∃ q : State, prefetchOp i l1 a s = .next (q.setWarp c.w (w.afterRetire c false)) ∧ q.warps = s.warps ∧
      q.accesses = s.accesses ∧ (∀ pl off, q.peek pl off = s.peek pl off) ∧
      (isLane a = false → (w.rdPair a 0).toNat < 2 ^ 56 → ∀ t l, s.look w.asid (some w.team) (w.rdPair a 0).toNat = .miss t l →
        ∃ m ∈ q.misses, m.2.asid = t ∧ m.2.line = l) := by
  have heq := s.prefetches_eq c w l1 (w.lineAddrs c a)
  refine ⟨_, prefetchOp_retires h hp, by rw [heq], by rw [heq], fun pl off => ?_,
    fun ha hva t l hlook => State.prefetches_miss ha hva hlook⟩
  rw [heq]
  cases pl <;> rfl

end

end Sys2Proof.Machine
end

section
/-! ## Family 14: flushes and write-backs -/
namespace Sys2Proof.Machine

section
variable {s q : State} {inv : Bool} {t n : Nat}

/-! ### Dropping and cleaning a line -/

theorem State.findLine_writeBack (s : State) (l : L2Line) (t n : Nat) : (s.writeBack l).findLine t n = s.findLine t n := by
  rw [State.writeBack_eq]
  rfl

/-- The key of a line that is found. -/
theorem State.key_of_findLine {l : L2Line} (h : s.findLine t n = some l) : l.asid = t ∧ l.line = n := by
  have hkey := List.find?_some h
  simp only [Bool.and_eq_true, beq_iff_eq] at hkey
  exact ⟨hkey.2, hkey.1⟩

/-- A dropped line is found no more; the others stay. -/
theorem State.findLine_dropLine (s : State) (l : L2Line) (t n : Nat) :
    (s.dropLine l).findLine t n = if t = l.asid ∧ n = l.line then none else s.findLine t n := by
  have hl2 : (s.dropLine l).l2 = s.l2.filter (fun x => !(x.line == l.line && x.asid == l.asid)) := by
    rw [State.dropLine, State.writeBack_eq]
    rfl
  rw [State.findLine, hl2, List.find?_filter, State.findLine]
  split
  next h =>
    obtain ⟨rfl, rfl⟩ := h
    refine List.find?_eq_none.mpr fun x _ => ?_
    cases x.line == l.line && x.asid == l.asid <;> simp
  next h =>
    refine congrArg (fun p => s.l2.find? p) (funext fun x => ?_)
    by_cases hx : x.line = n ∧ x.asid = t
    · obtain ⟨rfl, rfl⟩ := hx
      have hne : ¬(x.line = l.line ∧ x.asid = l.asid) := fun e => h ⟨e.2, e.1⟩
      have hb : (x.line == l.line && x.asid == l.asid) = false := by
        rw [← Bool.not_eq_true, Bool.and_eq_true, beq_iff_eq, beq_iff_eq]
        exact hne
      simp [hb]
    · have hb : (x.line == n && x.asid == t) = false := by simpa using hx
      simp [hb]

/-- A line with nothing left to write back. -/
def L2Line.cleaned (l : L2Line) : L2Line := { l with dirty := false }

/-- The state after a line is written back, and with `inv` invalidated (R229). -/
def State.flushed (s : State) (inv : Bool) (t n : Nat) : State :=
  match s.findLine t n with
  | none => s
  | some l =>
    if inv && l.home == 0 then s.dropLine l
    else
      let q := (s.writeBack l).updLine t n L2Line.cleaned
      if inv then q.dropAllL1 t n else q

theorem State.flushed_none (h : s.findLine t n = none) : s.flushed inv t n = s := by
  rw [State.flushed, h]

/-- A flush changes the warps, accesses and engines not at all. -/
theorem State.flushed_eq (s : State) (inv : Bool) (t n : Nat) : s.flushed inv t n = { s with
    mem := (s.flushed inv t n).mem, poison := (s.flushed inv t n).poison, power := (s.flushed inv t n).power
    active := (s.flushed inv t n).active, l2 := (s.flushed inv t n).l2, cores := (s.flushed inv t n).cores
    stamps := (s.flushed inv t n).stamps } := by
  unfold State.flushed
  split
  · rfl
  next l _ =>
    split
    · rw [State.dropLine, State.writeBack_eq]
      rfl
    · dsimp only
      rw [State.writeBack_eq]
      split <;> rfl

/-- What a flush leaves of its line. -/
theorem State.findLine_flushed (s : State) (inv : Bool) (t n : Nat) : (s.flushed inv t n).findLine t n =
    (s.findLine t n).bind (fun l => if inv && l.home == 0 then none else some l.cleaned) := by
  cases hl : s.findLine t n with
  | none => rw [State.flushed_none hl, hl]; rfl
  | some l =>
    obtain ⟨ht, hn⟩ := State.key_of_findLine hl
    rw [State.flushed, hl]
    dsimp only [Option.bind_some]
    split
    · rw [State.findLine_dropLine, if_pos ⟨ht.symm, hn.symm⟩]
    · have hq : ((s.writeBack l).updLine t n L2Line.cleaned).findLine t n = some l.cleaned := by
        rw [State.findLine_updLine (f := L2Line.cleaned) (fun _ => ⟨rfl, rfl⟩), if_pos ⟨rfl, rfl⟩, State.findLine_writeBack, hl]
        rfl
      split
      · exact hq
      · exact hq

/-- A flush leaves the other lines. -/
theorem State.findLine_flushed_other {t' n' : Nat} (h : ¬(t' = t ∧ n' = n)) :
    (s.flushed inv t n).findLine t' n' = s.findLine t' n' := by
  cases hl : s.findLine t n with
  | none => rw [State.flushed_none hl]
  | some l =>
    obtain ⟨rfl, rfl⟩ := State.key_of_findLine hl
    rw [State.flushed, hl]
    dsimp only
    split
    · rw [State.findLine_dropLine, if_neg h]
    · have hq : ((s.writeBack l).updLine l.asid l.line L2Line.cleaned).findLine t' n' = s.findLine t' n' := by
        rw [State.findLine_updLine (f := L2Line.cleaned) (fun _ => ⟨rfl, rfl⟩), if_neg h, State.findLine_writeBack]
      split
      · exact hq
      · exact hq

/-- Memory after a flush. -/
theorem State.mem_flushed (s : State) (inv : Bool) (t n : Nat) : (s.flushed inv t n).mem = match s.findLine t n with
    | none => s.mem
    | some l => if l.dirty then Memory.writeBytes s.mem l.pa l.data else s.mem := by
  cases hl : s.findLine t n with
  | none => rw [State.flushed_none hl]
  | some l =>
    have hwrite : (s.writeBack l).mem = if l.dirty then Memory.writeBytes s.mem l.pa l.data else s.mem := by
      rw [State.writeBack_eq]
    rw [State.flushed, hl]
    dsimp only
    split
    · exact hwrite
    · split
      · exact hwrite
      · exact hwrite

/-! ### When a line can be flushed -/

theorem State.needed_none {seed : Nat → Access → Bool} (h : ∀ x ∈ s.accesses, seed x.1 x.2 = false) : s.needed seed = [] := by
  unfold State.needed
  revert h
  induction s.accesses with
  | nil => exact fun _ => rfl
  | cons x r ih =>
    intro h
    obtain ⟨hx, hr⟩ := List.forall_mem_cons.mp h
    rw [List.foldr_cons, ih hr, hx]
    rfl

theorem State.settle_none {seed : Nat → Access → Bool} (h : ∀ x ∈ s.accesses, seed x.1 x.2 = false) : s.settle seed = some s := by
  rw [State.settle, State.needed_none h]
  rfl

/-- No engine holds the line and no access is pending on it. -/
def State.lineFree (s : State) (t n : Nat) : Prop :=
  (∀ e ∈ s.engines, ∀ o ∈ e.2.owned, o.1 ≠ .line t n) ∧ ∀ x ∈ s.accesses, x.2.place ≠ .line t n

theorem State.settleAt_free (h : s.lineFree t n) (off k : Nat) : s.settleAt (.line t n) off k = some s := by
  obtain ⟨hengines, haccesses⟩ := h
  have hheld : s.engineHolds (.line t n) off k = false := by
    simp only [State.engineHolds, List.any_eq_false]
    intro e he
    rw [Bool.not_eq_true, List.any_eq_false]
    intro o ho
    have hne : (o.1 == .line t n) = false := beq_false_of_ne (hengines e he o ho)
    simp [hne]
  rw [State.settleAt, hheld, if_neg Bool.false_ne_true]
  refine State.settle_none fun x hx => ?_
  rw [beq_false_of_ne (haccesses x hx), Bool.false_and]

theorem State.flushLine_free (h : s.lineFree t n) : s.flushLine inv t n = some (s.flushed inv t n) := by
  cases hl : s.findLine t n with
  | none => rw [State.flushed_none hl, State.flushLine, hl]
  | some l =>
    rw [State.flushLine, State.flushed, hl]
    dsimp only
    rw [State.settleAt_free h, Option.map_some, hl]
    rfl

theorem State.lineFree_flushed {t' n' : Nat} (h : s.lineFree t' n') : (s.flushed inv t n).lineFree t' n' := by
  rw [State.flushed_eq]
  exact h

/-! ### Flushing several lines -/

/-- The state after several lines are flushed. -/
def State.flushedAll (s : State) (inv : Bool) (ks : List (Nat × Nat)) : State :=
  ks.foldl (fun (q : State) k => q.flushed inv k.1 k.2) s

theorem State.flushedAll_cons (s : State) (inv : Bool) (k : Nat × Nat) (ks : List (Nat × Nat)) :
    s.flushedAll inv (k :: ks) = (s.flushed inv k.1 k.2).flushedAll inv ks := rfl

theorem State.flushLines_free (ks : List (Nat × Nat)) (h : ∀ k ∈ ks, s.lineFree k.1 k.2) :
    ks.foldl (fun (u : Option State) k => u.bind (fun q => q.flushLine inv k.1 k.2)) (some s) = some (s.flushedAll inv ks) := by
  induction ks generalizing s with
  | nil => rfl
  | cons k r ih =>
    obtain ⟨hk, hr⟩ := List.forall_mem_cons.mp h
    rw [List.foldl_cons, Option.bind_some, State.flushLine_free hk, ih (fun j hj => State.lineFree_flushed (hr j hj))]
    rfl

theorem State.warps_flushedAll (s : State) (inv : Bool) (ks : List (Nat × Nat)) : (s.flushedAll inv ks).warps = s.warps :=
  foldl_keeps (fun q : State => q.warps = s.warps) (fun (q : State) (k : Nat × Nat) => q.flushed inv k.1 k.2)
    (fun q k hq => by rw [State.flushed_eq]; exact hq) ks s rfl

/-- What is left under this key has nothing to write back, and after an invalidation is pinned to its slice. -/
def State.flat (s : State) (inv : Bool) (t n : Nat) : Prop :=
  ∀ x, s.findLine t n = some x → x.dirty = false ∧ (inv = true → x.home ≠ 0)

theorem State.flat_flushed (s : State) (inv : Bool) (t n : Nat) : (s.flushed inv t n).flat inv t n := by
  intro x hx
  rw [State.findLine_flushed] at hx
  obtain ⟨l, -, hl⟩ := Option.bind_eq_some_iff.mp hx
  split at hl
  · cases hl
  next hhome =>
    obtain rfl := Option.some.inj hl
    refine ⟨rfl, fun hinv h0 => hhome ?_⟩
    have hl0 : l.home = 0 := h0
    simp [hinv, hl0]

theorem State.flat.flushed (h : s.flat inv t n) (t' n' : Nat) : (s.flushed inv t' n').flat inv t n := by
  by_cases hk : t = t' ∧ n = n'
  · obtain ⟨rfl, rfl⟩ := hk
    exact State.flat_flushed s inv t n
  · intro x hx
    rw [State.findLine_flushed_other hk] at hx
    exact h x hx

theorem State.flat.flushedAll (h : s.flat inv t n) (ks : List (Nat × Nat)) : (s.flushedAll inv ks).flat inv t n :=
  foldl_keeps (fun q : State => q.flat inv t n) _ (fun _ _ hq => hq.flushed _ _) ks s h

theorem State.flat_flushedAll (s : State) (inv : Bool) {ks : List (Nat × Nat)} {k : Nat × Nat} (hk : k ∈ ks) :
    (s.flushedAll inv ks).flat inv k.1 k.2 := by
  induction ks generalizing s with
  | nil => cases hk
  | cons j r ih =>
    rw [State.flushedAll_cons]
    rcases List.mem_cons.mp hk with rfl | hr
    · exact (State.flat_flushed s inv k.1 k.2).flushedAll r
    · exact ih _ hr

/-! ### The bytes that a flush leaves in memory -/

/-- If writing this line back writes the byte at this address, it writes this one. -/
def L2Line.agrees (l : L2Line) (off : Nat) (b : Byte) : Prop :=
  l.dirty = true → l.pa ≤ off → off < l.pa + l.data.length → (l.data[off - l.pa]?).getD 0 = b

/-- The lines of these keys agree about a byte. -/
def State.agree (s : State) (ks : List (Nat × Nat)) (off : Nat) (b : Byte) : Prop :=
  ∀ k ∈ ks, ∀ l, s.findLine k.1 k.2 = some l → l.agrees off b

theorem State.agree.flushed {ks : List (Nat × Nat)} {off : Nat} {b : Byte} (h : s.agree ks off b) :
    (s.flushed inv t n).agree ks off b := by
  intro k hk x hx
  by_cases he : k.1 = t ∧ k.2 = n
  · obtain ⟨rfl, rfl⟩ := he
    obtain ⟨hclean, -⟩ := State.flat_flushed s inv k.1 k.2 x hx
    exact fun hd => absurd hd (by rw [hclean]; exact Bool.false_ne_true)
  · rw [State.findLine_flushed_other he] at hx
    exact h k hk x hx

/-- A flush of a line that agrees about a byte leaves that byte. -/
theorem State.read_flushed_stays {off : Nat} {b : Byte} (hb : Memory.read s.mem off = b)
    (ha : ∀ l, s.findLine t n = some l → l.agrees off b) : Memory.read (s.flushed inv t n).mem off = b := by
  rw [State.mem_flushed]
  split
  · exact hb
  next l hl =>
    split
    next hd =>
      rw [Memory.read_writeBytes]
      by_cases hin : l.pa ≤ off ∧ off < l.pa + l.data.length
      · rw [overwritten, if_pos hin]
        exact ha l hl hd hin.1 hin.2
      · rw [overwritten, if_neg hin]
        exact hb
    · exact hb

theorem State.read_flushedAll_stays {ks : List (Nat × Nat)} {off : Nat} {b : Byte} (hb : Memory.read s.mem off = b)
    (ha : s.agree ks off b) : Memory.read (s.flushedAll inv ks).mem off = b := by
  induction ks generalizing s with
  | nil => exact hb
  | cons k r ih =>
    have hhead := State.read_flushed_stays (inv := inv) hb (ha k List.mem_cons_self)
    have hrest : s.agree r off b := fun j hj => ha j (List.mem_cons_of_mem _ hj)
    exact ih hhead hrest.flushed

/-- A flush puts a dirty line's bytes at its physical address. -/
theorem State.read_flushed_line {l : L2Line} (hl : s.findLine t n = some l) (hd : l.dirty = true) {j : Nat}
    (hj : j < l.data.length) : Memory.read (s.flushed inv t n).mem (l.pa + j) = (l.data[j]?).getD 0 := by
  rw [State.mem_flushed, hl]
  dsimp only
  rw [if_pos hd, Memory.read_writeBytes, overwritten_inside _ _ hj]

/-- Of several lines that agree about a byte of one of them, the flush puts that byte. -/
theorem State.read_flushedAll_line {ks : List (Nat × Nat)} {k : Nat × Nat} (hk : k ∈ ks) {l : L2Line}
    (hl : s.findLine k.1 k.2 = some l) (hd : l.dirty = true) {j : Nat} (hj : j < l.data.length)
    (ha : s.agree ks (l.pa + j) ((l.data[j]?).getD 0)) :
    Memory.read (s.flushedAll inv ks).mem (l.pa + j) = (l.data[j]?).getD 0 := by
  induction ks generalizing s with
  | nil => cases hk
  | cons i r ih =>
    have hrest : s.agree r (l.pa + j) ((l.data[j]?).getD 0) := fun x hx => ha x (List.mem_cons_of_mem _ hx)
    rw [State.flushedAll_cons]
    by_cases he : k.1 = i.1 ∧ k.2 = i.2
    · rw [he.1, he.2] at hl
      exact State.read_flushedAll_stays (State.read_flushed_line hl hd hj) hrest.flushed
    · have hr : k ∈ r := (List.mem_cons.mp hk).resolve_left (fun e => he ⟨congrArg Prod.fst e, congrArg Prod.snd e⟩)
      exact ih hr ((State.findLine_flushed_other he).trans hl) hrest.flushed

end

/-! ### CFLUSH (R229) -/

section
variable {s : State} {c : Cur} {w : Warp} {i : Instr} {a : Code} {inv : Bool}

/-- The lines that an instruction of this address register names. -/
def Warp.namedLines (w : Warp) (c : Cur) (a : Code) : List (Nat × Nat) :=
  (w.onLanes none (!isLane a) c).map (fun l => (tagAsid w.asid (w.rdPair a l).toNat, (w.rdPair a l).toNat / 128))

theorem flushWaits_free (h : s.flushWaits c w a = false) :
    ∀ l ∈ w.onLanes none (!isLane a) c, ∀ e ∈ s.engines, ∀ o ∈ e.2.owned,
      o.1 ≠ .line (tagAsid w.asid (w.rdPair a l).toNat) ((w.rdPair a l).toNat / 128) := by
  intro l hl e he o ho hline
  obtain ⟨-, hlanes⟩ := Bool.or_eq_false_iff.mp h
  have hengines := List.any_eq_false.mp hlanes l hl
  refine hengines (List.any_eq_true.mpr ⟨e, he, List.any_eq_true.mpr ⟨o, ho, ?_⟩⟩)
  rw [hline]
  exact beq_self_eq_true _

/-- A flush of lines in range that nothing holds retires. -/
theorem cflushOp_retires (h : Ready i .none s c w) (hp : Plain s w) (hwait : s.flushWaits c w a = false)
    (hrange : ∀ l ∈ w.onLanes none (!isLane a) c, (w.rdPair a l).toNat < 2 ^ 56)
    (hfree : ∀ k ∈ w.namedLines c a, ∀ x ∈ s.accesses, x.2.place ≠ .line k.1 k.2) :
    cflushOp i inv a s = .next ((s.flushedAll inv (w.namedLines c a)).retire c) := by
  have hall : (w.lineAddrs c a).filter (fun x => !([] : List Nat).contains x.lane) = w.lineAddrs c a :=
    List.filter_eq_self.mpr (fun _ _ => rfl)
  have hva : ∀ x ∈ w.lineAddrs c a, x.va < 2 ^ 56 := by
    intro x hx
    obtain ⟨l, hl, rfl⟩ := List.mem_map.mp hx
    exact hrange l hl
  have hin : (w.lineAddrs c a).filter (fun x => decide (x.va < 2 ^ 56)) = w.lineAddrs c a :=
    List.filter_eq_self.mpr (fun x hx => decide_eq_true (hva x hx))
  have hout : (w.lineAddrs c a).filter (fun x => decide (2 ^ 56 ≤ x.va)) = [] :=
    List.filter_eq_nil_iff.mpr (fun x hx => by simpa using hva x hx)
  have hflushed := State.flushLines_free (s := s) (inv := inv) (w.namedLines c a) (fun k hk => by
    refine ⟨?_, hfree k hk⟩
    obtain ⟨l, hl, rfl⟩ := List.mem_map.mp hk
    exact flushWaits_free hwait l hl)
  rw [Warp.namedLines, List.foldl_map] at hflushed
  rw [cflushOp, issue_ready h]
  dsimp only
  rw [badLanes_nil hp.sound, hall, hin, hout, Warp.lineAddrs, List.foldl_map]
  simp only [lineOf]
  rw [hflushed, List.map_nil, List.map_nil, List.append_nil, Cur.causeOf_nil]
  rfl

/-- What O19 says of a flush. -/
theorem cflushOp_flushes (h : Ready i .none s c w) (hp : Plain s w) (hwait : s.flushWaits c w a = false)
    (hrange : ∀ l ∈ w.onLanes none (!isLane a) c, (w.rdPair a l).toNat < 2 ^ 56)
    (hfree : ∀ k ∈ w.namedLines c a, ∀ x ∈ s.accesses, x.2.place ≠ .line k.1 k.2) :
    ∃ q : State, cflushOp i inv a s = .next (q.retire c) ∧ q.warps = s.warps ∧
      (∀ k ∈ w.namedLines c a, ∀ x, q.findLine k.1 k.2 = some x → x.dirty = false ∧ (inv = true → x.home ≠ 0)) ∧
      ∀ k ∈ w.namedLines c a, ∀ x, s.findLine k.1 k.2 = some x → x.dirty = true →
        (∀ j ∈ w.namedLines c a, ∀ y, s.findLine j.1 j.2 = some y →
          y = x ∨ y.dirty = false ∨ x.pa + x.data.length ≤ y.pa ∨ y.pa + y.data.length ≤ x.pa) →
        ∀ j, j < x.data.length → q.peek .phys (x.pa + j) = (x.data[j]?).getD 0 := by
  refine ⟨_, cflushOp_retires h hp hwait hrange hfree, State.warps_flushedAll _ _ _, fun k hk => State.flat_flushedAll s inv hk,
    fun k hk x hx hd hapart j hj => State.read_flushedAll_line hk hx hd hj (fun m hm y hy hyd hlo hhi => ?_)⟩
  rcases hapart m hm y hy with rfl | hclean | hbelow | habove
  · rw [Nat.add_sub_cancel_left]
  · exact absurd hyd (by rw [hclean]; exact Bool.false_ne_true)
  · omega
  · omega

end

/-- A write-back puts a dirty line's bytes in memory and changes no other byte there (R225, R229). -/
theorem State.peek_writeBack (s : State) {l : L2Line} (hd : l.dirty = true) (off : Nat) :
    (s.writeBack l).peek .phys off = overwritten (s.peek .phys) l.pa l.data off := by
  rw [State.writeBack_eq, if_pos hd]
  exact congrFun (Memory.read_writeBytes s.mem l.pa l.data) off

/-- Settles O19: a prefetch asks for lines alone; a flush goes through its lines one by one, and a byte that it has put stays while the
lines that follow agree about it. -/
theorem cacheInstructions : Obligations.CacheInstructions := by
  unfold Obligations.CacheInstructions
  refine ⟨fun e he a s c w h hp => ?_, fun e he a s c w h hp => ?_,
    fun s l hd => ⟨fun j hj => ?_, fun off hoff => ?_, fun hs => hs.writeBack l⟩⟩
  · rw [List.mem_cons, List.mem_singleton] at he
    rcases he with rfl | rfl
    · exact prefetchOp_silent h hp
    · exact prefetchOp_silent h hp
  · intro on asid line hrange hpending
    have hfree : ∀ k ∈ w.namedLines c a, ∀ x ∈ s.accesses, x.2.place ≠ .line k.1 k.2 := by
      intro k hk
      obtain ⟨l, hl, rfl⟩ := List.mem_map.mp hk
      exact hpending l hl
    have hnamed : ∀ l ∈ on, (asid l, line l) ∈ w.namedLines c a := fun l hl => List.mem_map_of_mem hl
    have hflush : ∃ q : State, exec (e.1 a) s = .next (q.retire c) ∧ q.warps = s.warps ∧
        (∀ k ∈ w.namedLines c a, ∀ x, q.findLine k.1 k.2 = some x → x.dirty = false ∧ (e.2 = true → x.home ≠ 0)) ∧
        ∀ k ∈ w.namedLines c a, ∀ x, s.findLine k.1 k.2 = some x → x.dirty = true →
          (∀ j ∈ w.namedLines c a, ∀ y, s.findLine j.1 j.2 = some y →
            y = x ∨ y.dirty = false ∨ x.pa + x.data.length ≤ y.pa ∨ y.pa + y.data.length ≤ x.pa) →
          ∀ j, j < x.data.length → q.peek .phys (x.pa + j) = (x.data[j]?).getD 0 := by
      rw [List.mem_cons, List.mem_singleton] at he
      rcases he with rfl | rfl
      · exact cflushOp_flushes h hp h.free hrange hfree
      · exact cflushOp_flushes h hp h.free hrange hfree
    obtain ⟨q, hexec, hwarps, hclean, hbytes⟩ := hflush
    refine ⟨q, hexec, hwarps, fun l hl => hclean _ (hnamed l hl), fun l hl x hx hd hapart => hbytes _ (hnamed l hl) x hx hd ?_⟩
    intro k hk
    obtain ⟨m, hm, rfl⟩ := List.mem_map.mp hk
    exact hapart m hm
  · rw [State.peek_writeBack s hd, overwritten_inside _ _ hj]
  · rw [State.peek_writeBack s hd, overwritten_outside _ hoff]

end Sys2Proof.Machine
end

section
/-! ## Family 14: walks, fills, slot waits and reclaims -/
namespace Sys2Proof.Machine

section
variable (s : State)

/-! ### What a walk depends on -/

theorem State.walkFrom_power (x : Assoc PowerState) (y : Assoc Nat) (va table level : Nat) (bad : Bool) :
    ({ s with power := x, active := y } : State).walkFrom va table level bad = s.walkFrom va table level bad := by
  induction level generalizing table bad with
  | zero => rfl
  | succ l ih =>
    unfold State.walkFrom
    dsimp only
    rw [ih]
    rfl

/-- A walk finds the same whatever blocks have been woken for it. -/
theorem State.walk_wakeWalk (t va t' va' : Nat) : (s.wakeWalk t va).walk t' va' = s.walk t' va' := by
  rw [State.wakeWalk_eq]
  unfold State.walk
  dsimp only
  rw [State.walkFrom_power]
  rfl

theorem State.enterTlb_eq (e : TlbEntry) : s.enterTlb e = { s with tlb := (s.enterTlb e).tlb } := by
  unfold State.enterTlb
  dsimp only
  split
  · rfl
  · split <;> rfl

/-! ### Walks (R217) -/

variable {s}
variable {k : Nat} {m : Miss}

theorem translateMiss_fault {code sub : Nat} (hw : s.walk m.asid (m.line * 128) = .fault code sub) : s.translateMiss k m =
    { s.wakeWalk m.asid (m.line * 128) with misses := Assoc.put s.misses k { m with result := .fault code sub } } := by
  have hmisses : (s.wakeWalk m.asid (m.line * 128)).misses = s.misses := by rw [State.wakeWalk_eq]
  rw [State.translateMiss]
  dsimp only
  rw [State.walk_wakeWalk, hw, hmisses]

/-- A leaf that names no core's slot is entered. -/
theorem State.acceptLeaf_entered {t va base size pa : Nat} {attr : DWord} (h : attrHome attr ≠ 2) :
    s.acceptLeaf t va base size pa attr = (.pending, s.enterTlb
      { unit := unitOf t va, asid := t, base := base, size := size, pa := pa, attr := attr, used := s.cycle }) := by
  rw [State.acceptLeaf, if_neg (fun hand => h hand.2)]

theorem translateMiss_leaf {base size pa : Nat} {attr : DWord} (hw : s.walk m.asid (m.line * 128) = .leaf base size pa attr)
    (hh : attrHome attr ≠ 2) : s.translateMiss k m = { ((s.wakeWalk m.asid (m.line * 128)).enterTlb
        { unit := unitOf m.asid (m.line * 128), asid := m.asid, base := base, size := size, pa := pa, attr := attr, used := s.cycle })
      with misses := Assoc.put s.misses k { m with result := .pending } } := by
  have hcycle : (s.wakeWalk m.asid (m.line * 128)).cycle = s.cycle := by rw [State.wakeWalk_eq]
  have hmisses (e : TlbEntry) : ((s.wakeWalk m.asid (m.line * 128)).enterTlb e).misses = s.misses := by
    rw [State.enterTlb_eq, State.wakeWalk_eq]
  rw [State.translateMiss]
  dsimp only
  rw [State.walk_wakeWalk, hw]
  dsimp only
  rw [State.acceptLeaf_entered hh, hcycle]
  dsimp only
  rw [hmisses]

theorem exec_translationRequest_due (hm : Assoc.at? s.misses k = some m) (hw : s.walkReady k = true) (hq : m.quiet = false) :
    exec (.translationRequest k) s = .next (s.translateMiss k m) := by
  have he : exec (.translationRequest k) s = execTranslationRequest k s := rfl
  rw [he, execTranslationRequest, if_pos hw, hm]
  dsimp only
  rw [hq]
  rfl

/-! ### Fills (R215, R219, R226) -/

/-- The line of L2 that a fill makes. -/
def State.filledLine (s : State) (t n : Nat) (e : TlbEntry) : L2Line :=
  { asid := t, line := n, pa := e.pa + (n * 128 - e.base), base := e.base, size := e.size, tag := attrTag e.attr, w := attrW e.attr
    x := attrX e.attr, home := attrHome e.attr, dirty := false, poison := s.linePoison (e.pa + (n * 128 - e.base))
    data := Memory.readBytes s.mem (e.pa + (n * 128 - e.base)) 128 }

theorem State.makeRoom_room {slice : Nat}
    (h : (s.l2.filter (fun l => homeSlice l.asid l.line == slice)).length < Config.linesPerSlice) : s.makeRoom slice = s := by
  rw [State.makeRoom]
  exact if_pos h

/-- A fill into a slice with room adds its line. -/
theorem State.fillLine_room {t n : Nat} {e : TlbEntry} {l1 : List Nat} (hh : attrHome e.attr = 0)
    (h : (s.l2.filter (fun l => homeSlice l.asid l.line == homeSlice t n)).length < Config.linesPerSlice) :
    s.fillLine t n e l1 = (({ s with l2 := s.l2 ++ [s.filledLine t n e] } : State).fillL1s l1 t n).wake
      (s.homeBlock .phys (e.pa + (n * 128 - e.base)) none) := by
  have hhome : (attrHome e.attr = 1) = False := by
    rw [hh]
    decide
  rw [State.fillLine]
  rw [State.makeRoom_room h, if_neg (fun hand => hhome.mp hand.1)]
  rfl

/-- What a fill into a slice with room leaves. -/
theorem State.fillLine_adds {t n : Nat} {e : TlbEntry} {l1 : List Nat} (hh : attrHome e.attr = 0)
    (h : (s.l2.filter (fun l => homeSlice l.asid l.line == homeSlice t n)).length < Config.linesPerSlice)
    (hnone : s.findLine t n = none) :
    (s.fillLine t n e l1).findLine t n = some (s.filledLine t n e) ∧ (s.fillLine t n e l1).mem = s.mem ∧
      (s.fillLine t n e l1).warps = s.warps ∧ (s.fillLine t n e l1).misses = s.misses := by
  have hfound : (s.l2 ++ [s.filledLine t n e]).find? (fun l => l.line == n && l.asid == t) = some (s.filledLine t n e) := by
    rw [State.findLine] at hnone
    rw [List.find?_append, hnone, Option.none_or, List.find?_singleton, if_pos]
    simp [State.filledLine]
  rw [State.fillLine_room hh h, State.fillL1s_eq]
  exact ⟨hfound, rfl, rfl, rfl⟩

theorem State.hitOfTlb_cached {e : TlbEntry} (hl : s.isLocal e.pa = true) (hh : attrHome e.attr = 0) (va : Nat) :
    s.hitOfTlb e va = none := by
  rw [State.hitOfTlb, hl, hh]
  rfl

/-- An answered miss of a cached page fills its line. -/
theorem State.answerMiss_fills {e : TlbEntry} (hl : s.isLocal e.pa = true) (hh : attrHome e.attr = 0)
    (hnone : s.findLine m.asid m.line = none) :
    s.answerMiss k m e = ({ s with misses := Assoc.erase s.misses k } : State).fillLine m.asid m.line e m.l1 := by
  have hmiss : ({ s with misses := Assoc.erase s.misses k } : State).hitOfTlb e (m.line * 128) = none :=
    State.hitOfTlb_cached hl hh _
  have hhome : ¬ attrHome e.attr = 2 := by
    rw [hh]
    decide
  have hline : ({ s with misses := Assoc.erase s.misses k } : State).findLine m.asid m.line = none := hnone
  rw [State.answerMiss]
  rw [hmiss, hline, if_neg hhome]
  rfl

/-- What O20 says of an answered miss of a cached page. -/
theorem exec_sliceMiss_fills {e : TlbEntry} (hm : Assoc.at? s.misses k = some m) (hr : s.missReady k = true)
    (he : s.findTlb m.asid (m.line * 128) = some e) (hl : s.isLocal e.pa = true) (hh : attrHome e.attr = 0)
    (hnone : s.findLine m.asid m.line = none)
    (hroom : (s.l2.filter (fun l => homeSlice l.asid l.line == homeSlice m.asid m.line)).length < Config.linesPerSlice) :
    ∃ t : State, exec (.sliceMiss k) s = .next t ∧ Assoc.at? t.misses k = none ∧ t.mem = s.mem ∧ t.warps = s.warps ∧
      t.findLine m.asid m.line = some (s.filledLine m.asid m.line e) := by
  let u : State := { s with tlb := s.tlb.map (fun x => if x = e then { x with used := s.cycle } else x) }
  have hexec : exec (.sliceMiss k) s = .next ((u.answerMiss k m e).touch (.slice (homeSlice m.asid m.line))) := by
    have hdef : exec (.sliceMiss k) s = execSliceMiss k s := rfl
    rw [hdef, execSliceMiss, if_pos hr, hm]
    dsimp only
    rw [he]
  have hanswer : u.answerMiss k m e = ({ u with misses := Assoc.erase s.misses k } : State).fillLine m.asid m.line e m.l1 :=
    State.answerMiss_fills hl hh hnone
  obtain ⟨hline, hmem, hwarps, hmisses⟩ :=
    State.fillLine_adds (s := { u with misses := Assoc.erase s.misses k }) (l1 := m.l1) hh hroom hnone
  rw [hanswer] at hexec
  refine ⟨_, hexec, ?_, hmem, hwarps, hline⟩
  rw [State.touch_misses, hmisses]
  exact (Assoc.at?_erase _ _ _).trans (if_pos rfl)

/-! ### Slot waits and L1 reclaims (R207, R216) -/

theorem exec_corePinnedSlotWaitEnd_free {core slot pa : Nat} {attr : DWord} (hm : Assoc.at? s.misses k = some m)
    (hr : m.result = .waitSlot core slot pa attr) (hfree : s.slotHolders core slot = [])
    (hpage : ∀ x, s.findPinned core slot = some x → x.pa = pa) :
    exec (.corePinnedSlotWaitEnd k) s = .next (s.translateMiss k { m with result := .pending }) := by
  have hdef : exec (.corePinnedSlotWaitEnd k) s = execCorePinnedSlotWaitEnd k s := rfl
  have hall : (s.findPinned core slot).all (fun p => p.pa == pa) = true := by
    rw [Option.all_eq_true]
    exact fun x hx => beq_iff_eq.mpr (hpage x hx)
  have hslot : s.slotFree k = true := by
    rw [State.slotFree, hm]
    dsimp only
    rw [hr]
    dsimp only
    rw [hfree, hall]
    rfl
  rw [hdef, execCorePinnedSlotWaitEnd, if_pos hslot, hm]

theorem State.core_updCore_self (s : State) (n : Nat) (f : CoreState → CoreState) : (s.updCore n f).core n = f (s.core n) :=
  Assoc.get_set_self _ _ _ _

theorem State.core_updCore_other (s : State) {n j : Nat} (h : j ≠ n) (f : CoreState → CoreState) :
    (s.updCore n f).core j = s.core j :=
  (Assoc.get_set _ _ _ _ _).trans (if_neg h)

theorem State.peek_updCore (s : State) (n : Nat) (f : CoreState → CoreState) : (s.updCore n f).peek = s.peek := by
  funext pl off
  cases pl <;> rfl

/-- A core's L1 after it has given back the units that were asked for. -/
def CoreState.reclaimed (c : CoreState) : CoreState :=
  { c with lent := c.lent - c.reclaim, reclaim := 0, l1 := c.l1.filter (fun l => decide (l.unit < c.lent - c.reclaim)) }

theorem exec_l1Reclaim_due {core : Nat} (h : s.reclaimReady core = true) :
    exec (.l1Reclaim core) s = .next (s.updCore core CoreState.reclaimed) := by
  have hdef : exec (.l1Reclaim core) s = execL1Reclaim core s := rfl
  rw [hdef, execL1Reclaim, if_pos h]
  rfl

end

/-- Settles O20: a walk by what it finds, a fill into a slice with room, the end of a slot wait, and a reclaim. -/
theorem missesAreServed : Obligations.MissesAreServed := by
  unfold Obligations.MissesAreServed
  refine ⟨fun k m s hm => ⟨fun hw hq => ⟨fun code sub hwalk => ?_, fun base size pa attr hwalk _ hh => ?_⟩,
    fun e hr he hl hh hnone hroom => ?_, fun core slot pa attr hr hfree hpage => ?_⟩, fun core s h => ?_⟩
  · rw [exec_translationRequest_due hm hw hq, translateMiss_fault hwalk]
  · rw [exec_translationRequest_due hm hw hq, translateMiss_leaf hwalk (by rw [hh]; decide)]
  · obtain ⟨t, hexec, hgone, hmem, hwarps, hline⟩ := exec_sliceMiss_fills hm hr he hl hh hnone hroom
    exact ⟨t, hexec, hgone, hmem, hwarps, _, hline, rfl, rfl, rfl, rfl, rfl, rfl⟩
  · exact exec_corePinnedSlotWaitEnd_free hm hr hfree hpage
  · refine ⟨_, exec_l1Reclaim_due h, ?_, ?_, fun l => ?_, fun n hn => State.core_updCore_other s hn _, rfl,
      fun pl off => by rw [State.peek_updCore]⟩
    · rw [State.core_updCore_self]
      rfl
    · rw [State.core_updCore_self]
      rfl
    · rw [State.core_updCore_self, CoreState.reclaimed, List.mem_filter, decide_eq_true_eq]

end Sys2Proof.Machine
end

section
/-! ## Family 14: invalidation and clearances -/
namespace Sys2Proof.Machine

section
variable (s : State)

/-! ### What dropping a line or a page leaves -/

theorem State.dropLine_eq (l : L2Line) : s.dropLine l = { s with
    mem := (s.dropLine l).mem, poison := (s.dropLine l).poison, power := (s.dropLine l).power, active := (s.dropLine l).active
    stamps := (s.dropLine l).stamps, cores := (s.dropLine l).cores
    l2 := s.l2.filter (fun x => !(x.line == l.line && x.asid == l.asid)) } := by
  rw [State.dropLine, State.writeBack_eq]
  rfl

theorem State.dropPinned_eq (p : Pinned) : s.dropPinned p = { s with
    mem := (s.dropPinned p).mem, poison := (s.dropPinned p).poison, stamps := (s.dropPinned p).stamps
    pinned := s.pinned.filter (fun x => !(x.core == p.core && x.slot == p.slot)) } := by
  unfold State.dropPinned
  extract_lets clean mem u v
  obtain ⟨x, hx⟩ : ∃ x, v = { u with poison := x } :=
    State.setPoisons_eq u (numsFrom 0 2048) (fun g => p.pa / 32 + g) p.badGranule
  clear_value v
  subst hx
  rfl

/-- Of the lines that are dropped none is left in L2, and nothing else is added or taken from the warps and live bits. -/
theorem State.dropLines_l2 (ls : List L2Line) :
    (∀ x ∈ (ls.foldl State.dropLine s).l2, x ∈ s.l2 ∧ x ∉ ls) ∧ (ls.foldl State.dropLine s).live = s.live := by
  induction ls generalizing s with
  | nil => exact ⟨fun x hx => ⟨hx, List.not_mem_nil⟩, rfl⟩
  | cons l r ih =>
    obtain ⟨hlines, hlive⟩ := ih (s.dropLine l)
    refine ⟨fun x hx => ?_, hlive.trans (by rw [State.dropLine_eq])⟩
    obtain ⟨hin, hout⟩ := hlines x hx
    rw [State.dropLine_eq, List.mem_filter] at hin
    refine ⟨hin.1, fun hmem => ?_⟩
    rcases List.mem_cons.mp hmem with rfl | hr
    · simp at hin
    · exact hout hr

/-- Of the pages that are dropped none is left present. -/
theorem State.dropPages_pinned (ps : List Pinned) :
    (∀ x ∈ (ps.foldl State.dropPinned s).pinned, x ∈ s.pinned ∧ x ∉ ps) ∧
      (ps.foldl State.dropPinned s).l2 = s.l2 ∧ (ps.foldl State.dropPinned s).live = s.live := by
  induction ps generalizing s with
  | nil => exact ⟨fun x hx => ⟨hx, List.not_mem_nil⟩, rfl, rfl⟩
  | cons p r ih =>
    obtain ⟨hpages, hl2, hlive⟩ := ih (s.dropPinned p)
    have hkept : (s.dropPinned p).l2 = s.l2 ∧ (s.dropPinned p).live = s.live := by
      rw [State.dropPinned_eq]
      exact ⟨rfl, rfl⟩
    rw [List.foldl_cons]
    refine ⟨fun x hx => ?_, hl2.trans hkept.1, hlive.trans hkept.2⟩
    obtain ⟨hin, hout⟩ := hpages x hx
    rw [State.dropPinned_eq, List.mem_filter] at hin
    refine ⟨hin.1, fun hmem => ?_⟩
    rcases List.mem_cons.mp hmem with rfl | hr
    · simp at hin
    · exact hout hr

/-! ### What invalidation leaves of a selection (R230) -/

variable (asid page : Nat → Bool)

theorem State.dropSelected_tlb : ∀ e ∈ (s.dropSelected asid page).tlb, ¬(asid e.asid = true ∧ page e.base = true) := by
  intro e he
  obtain ⟨-, hkept⟩ := List.mem_filter.mp he
  rw [Bool.not_eq_true', Bool.and_eq_false_iff] at hkept
  rintro ⟨ha, hb⟩
  rcases hkept with h | h
  · exact absurd ha (by rw [h]; exact Bool.false_ne_true)
  · exact absurd hb (by rw [h]; exact Bool.false_ne_true)

theorem State.dropSelected_l2 : ∀ l ∈ (s.dropSelected asid page).l2, ¬(asid l.asid = true ∧ page (l.line * 128) = true) := by
  rintro l hl ⟨ha, hb⟩
  have hkept : l ∈ ((s.l2.filter (fun l => asid l.asid && page (l.line * 128))).foldl State.dropLine s).l2 := by
    rw [← (State.dropPages_pinned _ _).2.1]
    exact hl
  obtain ⟨hin, hout⟩ := (State.dropLines_l2 s _).1 l hkept
  exact hout (List.mem_filter.mpr ⟨hin, by rw [ha, hb]; rfl⟩)

theorem State.dropSelected_pinned : ∀ p ∈ (s.dropSelected asid page).pinned, p.selected asid page = false := by
  intro p hp
  obtain ⟨hin, hout⟩ := (State.dropPages_pinned _ _).1 p hp
  rw [← Bool.not_eq_true]
  exact fun hsel => hout (List.mem_filter.mpr ⟨hin, hsel⟩)

theorem State.dropSelected_live : (s.dropSelected asid page).live = s.live :=
  (State.dropPages_pinned _ _).2.2.trans (State.dropLines_l2 s _).2

theorem State.recallOwners_owned (sel : Place × Nat → Bool) :
    ∀ e ∈ (s.recallOwners sel).engines, ∀ o ∈ e.2.owned, sel o = false := by
  intro e he o ho
  obtain ⟨x, -, rfl⟩ := List.mem_map.mp he
  obtain ⟨-, hsel⟩ := List.mem_filter.mp ho
  rwa [Bool.not_eq_true'] at hsel

/-! ### The two ends of an invalidation -/

/-- The state in which an invalidation waits: ownership of what it selects has been recalled. -/
def State.recalledFor : State := s.recallOwners (fun o => s.selectedPlace asid page o.1)

/-- The state in which the pending accesses to the selection have been performed. -/
def State.settledFor : Option State :=
  (s.recalledFor asid page).settlePast (fun _ a => (s.recalledFor asid page).selectedAccess asid page a)

variable {s asid page} {f : State → State}

theorem State.invalidate_waits (h : s.settledFor asid page = none) : s.invalidate asid page f = s.recalledFor asid page := by
  rw [State.settledFor, State.recalledFor] at h
  rw [State.invalidate]
  rw [h]
  rfl

theorem State.invalidate_done {q : State} (h : s.settledFor asid page = some q) :
    s.invalidate asid page f = f (q.dropSelected asid page) := by
  rw [State.settledFor, State.recalledFor] at h
  rw [State.invalidate]
  rw [h]

end

/-! ### Live and valid bits (R211, R231) -/

section
variable (s : State)

theorem State.setLive_self {n : Nat} (hn : n < 512) (b : Bool) : (s.setLive n b).live.getLsbD n = b := by
  cases b <;> simp [State.setLive, hn]

theorem State.setLive_other {n j : Nat} (hj : j ≠ n) (b : Bool) : (s.setLive n b).live.getLsbD j = s.live.getLsbD j := by
  have hbit : (1#512 <<< n).getLsbD j = false := by
    rw [BitVec.getLsbD_shiftLeft, BitVec.getLsbD_one]
    by_cases hlt : j < n
    · simp [hlt]
    · have hne : j - n ≠ 0 := by omega
      simp [hne]
  by_cases hlt : j < 512
  · cases b with
    | false =>
      have hlive : (s.setLive n false).live = s.live &&& ~~~(1#512 <<< n) := rfl
      rw [hlive, BitVec.getLsbD_and, BitVec.getLsbD_not, hbit, decide_eq_true hlt]
      exact Bool.and_true _
    | true =>
      have hlive : (s.setLive n true).live = s.live ||| (1#512 <<< n) := rfl
      rw [hlive, BitVec.getLsbD_or, hbit, Bool.or_false]
  · rw [BitVec.getLsbD_of_ge _ _ (not_lt.mp hlt), BitVec.getLsbD_of_ge _ _ (not_lt.mp hlt)]

theorem State.endAsid_invalid (n : Nat) : (s.endAsid n).asidValid n = false := by
  have hbyte : Memory.read (s.endAsid n).mem (s.sysPa (s.asidTable + 16 * n) + 8) =
      Memory.read s.mem (s.sysPa (s.asidTable + 16 * n) + 8) &&& 0xFE := by
    refine (Memory.read_write _ _ _ _).trans (if_pos rfl)
  have hvalid : (s.endAsid n).asidValid n =
      (Memory.read (s.endAsid n).mem (s.sysPa (s.asidTable + 16 * n) + 8)).getLsbD 0 := rfl
  rw [hvalid, hbyte, BitVec.getLsbD_and]
  exact Bool.and_false _

end

/-! ### TLBINV and ASINV (R230, R231) -/

section
variable {s q : State} {c : Cur} {w : Warp} {a b : Code}

/-- What follows an invalidation. -/
def State.resumed (q : State) (c : Cur) : State := (q.afterInvalidate c).retire c

theorem exec_tlbinvPage_inRange (h : Ready (.tlbinvPage a b) .supervisor s c w) (ha : (w.rd b 0).toNat < 512)
    (hv : (w.rdPair a 0).toNat < 2 ^ 56) : exec (.tlbinvPage a b) s =
      .next (s.invalidate (fun x => x == tagAsid (w.rd b 0).toNat (w.rdPair a 0).toNat)
        (samePage s (tagAsid (w.rd b 0).toNat (w.rdPair a 0).toNat) (w.rdPair a 0).toNat) (fun q => q.resumed c)) := by
  have he : exec (.tlbinvPage a b) s = execTlbinvPage a b s := rfl
  rw [he, execTlbinvPage, issue_ready h]
  dsimp only
  rw [if_neg (not_le.mpr ha), if_neg (not_le.mpr hv)]
  rfl

theorem exec_tlbinvPage_asid (h : Ready (.tlbinvPage a b) .supervisor s c w) (ha : 512 ≤ (w.rd b 0).toNat) :
    exec (.tlbinvPage a b) s = .next (s.raiseWhole c 0x33 2) := by
  have he : exec (.tlbinvPage a b) s = execTlbinvPage a b s := rfl
  rw [he, execTlbinvPage, issue_ready h]
  dsimp only
  rw [if_pos ha]

theorem exec_tlbinvPage_address (h : Ready (.tlbinvPage a b) .supervisor s c w) (ha : (w.rd b 0).toNat < 512)
    (hv : 2 ^ 56 ≤ (w.rdPair a 0).toNat) : exec (.tlbinvPage a b) s = .next (s.raiseAt c 0x24 0 (w.rdPair a 0).toNat) := by
  have he : exec (.tlbinvPage a b) s = execTlbinvPage a b s := rfl
  rw [he, execTlbinvPage, issue_ready h]
  dsimp only
  rw [if_neg (not_le.mpr ha), if_pos hv]

theorem exec_tlbinvAsid_inRange (h : Ready (.tlbinvAsid b) .supervisor s c w) (ha : (w.rd b 0).toNat < 512) :
    exec (.tlbinvAsid b) s = .next (s.invalidate (fun x => x == (w.rd b 0).toNat) (fun _ => true)
      (fun q => (q.setLive (w.rd b 0).toNat ((w.rd b 0).toNat == 0 || q.asidValid (w.rd b 0).toNat)).resumed c)) := by
  have he : exec (.tlbinvAsid b) s = execTlbinvAsid b s := rfl
  rw [he, execTlbinvAsid, issue_ready h]
  dsimp only
  rw [if_neg (not_le.mpr ha)]
  rfl

theorem exec_tlbinvAsid_asid (h : Ready (.tlbinvAsid b) .supervisor s c w) (ha : 512 ≤ (w.rd b 0).toNat) :
    exec (.tlbinvAsid b) s = .next (s.raiseWhole c 0x33 2) := by
  have he : exec (.tlbinvAsid b) s = execTlbinvAsid b s := rfl
  rw [he, execTlbinvAsid, issue_ready h]
  dsimp only
  rw [if_pos ha]

theorem exec_tlbinvAll_ready (h : Ready .tlbinvAll .supervisor s c w) :
    exec .tlbinvAll s = .next (s.invalidate (fun _ => true) (fun _ => true) (fun q => q.resumed c)) := by
  have he : exec .tlbinvAll s = execTlbinvAll s := rfl
  rw [he, execTlbinvAll, issue_ready h]
  rfl

/-- The state after an ASID has ended: its table entry, its live bit and what its context granted (R231). -/
def State.ended (q : State) (n : Nat) : State := (q.endAsid n).updCtx n (fun k => { k with tagged := false, launchPriv := false })

theorem exec_asinv_inRange (h : Ready (.asinv b) .supervisor s c w) (h0 : 0 < (w.rd b 0).toNat) (ha : (w.rd b 0).toNat < 512) :
    exec (.asinv b) s = .next (s.invalidate (fun x => x == (w.rd b 0).toNat) (fun _ => true)
      (fun q => (q.ended (w.rd b 0).toNat).resumed c)) := by
  have he : exec (.asinv b) s = execAsinv b s := rfl
  rw [he, execAsinv, issue_ready h]
  dsimp only
  rw [if_neg (Nat.ne_of_gt h0), if_neg (not_le.mpr ha)]
  rfl

theorem exec_asinv_supervisor (h : Ready (.asinv b) .supervisor s c w) (h0 : (w.rd b 0).toNat = 0) :
    exec (.asinv b) s = .next (s.raiseWhole c 0x33 1) := by
  have he : exec (.asinv b) s = execAsinv b s := rfl
  rw [he, execAsinv, issue_ready h]
  dsimp only
  rw [if_pos h0]

theorem exec_asinv_asid (h : Ready (.asinv b) .supervisor s c w) (ha : 512 ≤ (w.rd b 0).toNat) :
    exec (.asinv b) s = .next (s.raiseWhole c 0x33 2) := by
  have he : exec (.asinv b) s = execAsinv b s := rfl
  rw [he, execAsinv, issue_ready h]
  dsimp only
  rw [if_neg (by omega), if_pos ha]

/-- What is left of an ASID that has ended. -/
theorem State.ended_leaves (q : State) {n : Nat} (hn : n < 512) :
    let u := (q.dropSelected (fun x => x == n) (fun _ => true)).ended n
    u.live.getLsbD n = false ∧ u.asidValid n = false ∧ (∀ e ∈ u.tlb, e.asid ≠ n) ∧ (∀ l ∈ u.l2, l.asid ≠ n) ∧
      ∀ j, j ≠ n → u.live.getLsbD j = q.live.getLsbD j := by
  refine ⟨State.setLive_self _ hn false, State.endAsid_invalid _ n, fun e he hasid => ?_, fun l hl hasid => ?_, fun j hj => ?_⟩
  · exact State.dropSelected_tlb q (fun x => x == n) (fun _ => true) e he ⟨beq_iff_eq.mpr hasid, rfl⟩
  · exact State.dropSelected_l2 q (fun x => x == n) (fun _ => true) l hl ⟨beq_iff_eq.mpr hasid, rfl⟩
  · refine (State.setLive_other _ hj false).trans ?_
    exact congrArg (BitVec.getLsbD · j) (State.dropSelected_live q (fun x => x == n) (fun _ => true))

/-! ### CLRSET (R232) -/

theorem exec_clrset_none (h : Ready (.clrset 0xFF) .supervisor s c w) (hp : Plain s w) :
    exec (.clrset 0xFF) s = .next (s.setWarp c.w ({ w with clearance := none }.afterRetire c false)) := by
  have he : exec (.clrset 0xFF) s = execClrset 0xFF s := rfl
  rw [he, execClrset, issue_ready h]
  dsimp only
  rw [if_pos rfl]
  exact congrArg Host.Outcome.next (State.retireWith_moved h.warp hp.debug (fun w => { w with clearance := none }) rfl)

theorem exec_clrset_address (h : Ready (.clrset a) .supervisor s c w) (ha : a ≠ 0xFF) (hv : 2 ^ 56 ≤ (w.rdPair a 0).toNat) :
    exec (.clrset a) s = .next (s.raiseAt c 0x24 0 (w.rdPair a 0).toNat) := by
  have he : exec (.clrset a) s = execClrset a s := rfl
  rw [he, execClrset, issue_ready h]
  dsimp only
  rw [if_neg ha, if_pos hv]

theorem exec_clrset_misaligned (h : Ready (.clrset a) .supervisor s c w) (ha : a ≠ 0xFF) (hv : (w.rdPair a 0).toNat < 2 ^ 56)
    (hal : (w.rdPair a 0).toNat % 256 ≠ 0) : exec (.clrset a) s = .next (s.raiseAt c 0x20 0 (w.rdPair a 0).toNat) := by
  have he : exec (.clrset a) s = execClrset a s := rfl
  rw [he, execClrset, issue_ready h]
  dsimp only
  rw [if_neg ha, if_neg (not_le.mpr hv), if_pos hal]

/-- CLRSET of a bitmap whose address is well formed, once its loads have ended. -/
theorem exec_clrset_reads (h : Ready (.clrset a) .supervisor s c w) (ha : a ≠ 0xFF) (hv : (w.rdPair a 0).toNat < 2 ^ 56)
    (hal : (w.rdPair a 0).toNat % 256 = 0) (hform : s.formBlock c w (w.rdPair a 0) 256 128 64 true false = []) :
    (∀ k n q, s.bitmapLoads c w (w.rdPair a 0).toNat 64 = .cause k n q →
      exec (.clrset a) s = .next (q.raiseAt c k n (q.firstBadLine w.asid (some w.team) (w.rdPair a 0).toNat 64))) ∧
    ∀ bits q, s.bitmapLoads c w (w.rdPair a 0).toNat 64 = .ok bits q → exec (.clrset a) s =
      .next ((q.enterClearance (coreOfKey c.w) (tagAsid w.asid (w.rdPair a 0).toNat) (w.rdPair a 0) bits).retireWith c
        (fun x => { x with clearance := if s.lock = Lock.nonSecure then none else some (w.rdPair a 0) })) := by
  have he : exec (.clrset a) s = execClrset a s := rfl
  rw [he, execClrset, issue_ready h]
  dsimp only
  rw [if_neg ha, if_neg (not_le.mpr hv), if_neg (not_not.mpr hal), hform]
  dsimp only
  refine ⟨fun k n q hloads => ?_, fun bits q hloads => ?_⟩
  · rw [hloads]
  · rw [hloads]

theorem exec_clrset_installs (h : Ready (.clrset a) .supervisor s c w) (ha : a ≠ 0xFF) (hv : (w.rdPair a 0).toNat < 2 ^ 56)
    (hal : (w.rdPair a 0).toNat % 256 = 0) (hform : s.formBlock c w (w.rdPair a 0) 256 128 64 true false = [])
    {bits : Nat} {x : Warp} (hloads : s.bitmapLoads c w (w.rdPair a 0).toNat 64 = .ok bits q) (hx : q.warp? c.w = some x)
    (hd : q.debugOn x = false) : exec (.clrset a) s =
      .next ((q.enterClearance (coreOfKey c.w) (tagAsid w.asid (w.rdPair a 0).toNat) (w.rdPair a 0) bits).setWarp c.w
        ({ x with clearance := if s.lock = Lock.nonSecure then none else some (w.rdPair a 0) }.afterRetire c false)) := by
  rw [(exec_clrset_reads h ha hv hal hform).2 bits q hloads]
  exact congrArg Host.Outcome.next (State.retireWith_moved (c := c)
    (s := q.enterClearance (coreOfKey c.w) (tagAsid w.asid (w.rdPair a 0).toNat) (w.rdPair a 0) bits) hx hd
    (fun x => { x with clearance := if s.lock = Lock.nonSecure then none else some (w.rdPair a 0) }) rfl)

end

/-- Settles O45: an invalidation waits or drops its selection, and each instruction goes on from there by its definition. -/
theorem translationInstructions : Obligations.TranslationInstructions := by
  unfold Obligations.TranslationInstructions
  refine ⟨fun a b s c w hp => ?_, fun s asid page =>
    ⟨s.dropSelected_tlb asid page, s.dropSelected_l2 asid page, s.dropSelected_pinned asid page⟩,
    fun s sel => s.recallOwners_owned sel⟩
  intro asid va done recalled settled invalidates
  refine ⟨fun h => ⟨fun ha hv => ⟨fun hs => ?_, fun q hs => ?_⟩, exec_tlbinvPage_asid h, exec_tlbinvPage_address h⟩,
    fun h => ⟨fun ha hs => ?_, fun q ha hs => ?_, exec_tlbinvAsid_asid h⟩, fun h => ⟨fun hs => ?_, fun q hs => ?_⟩,
    fun h => ⟨exec_asinv_supervisor h, exec_asinv_asid h, fun h0 ha hs => ?_, fun q h0 ha hs => ?_⟩,
    fun h => exec_clrset_none h hp,
    fun h ha => ⟨exec_clrset_address h ha, exec_clrset_misaligned h ha, fun hv hal hform =>
      ⟨fun bits q x => exec_clrset_installs h ha hv hal hform, (exec_clrset_reads h ha hv hal hform).1⟩⟩⟩
  · rw [exec_tlbinvPage_inRange h ha hv, State.invalidate_waits hs]
    rfl
  · rw [exec_tlbinvPage_inRange h ha hv, State.invalidate_done hs]
    rfl
  · rw [exec_tlbinvAsid_inRange h ha, State.invalidate_waits hs]
    rfl
  · rw [exec_tlbinvAsid_inRange h ha, State.invalidate_done hs]
    exact ⟨_, rfl, rfl, State.setLive_self _ ha _, fun j hj => State.setLive_other _ hj _⟩
  · rw [exec_tlbinvAll_ready h, State.invalidate_waits hs]
    rfl
  · rw [exec_tlbinvAll_ready h, State.invalidate_done hs]
    rfl
  · rw [exec_asinv_inRange h h0 ha, State.invalidate_waits hs]
    rfl
  · rw [exec_asinv_inRange h h0 ha, State.invalidate_done hs]
    exact ⟨_, rfl, q.ended_leaves ha⟩

end Sys2Proof.Machine
end
